-- ==== Sys2Proof/Word.lean ====
section
/-! DEFINITION. The word types of the device (32-bit registers, bytes, the 64-bit Invar time), a register field as a bit
range, and the type of a table with numbered entries. -/

namespace Sys2Proof

/-- A 32-bit register (spec/00, "Registers"). -/
abbrev Word := BitVec 32

/-- One byte of an addressed memory. -/
abbrev Byte := BitVec 8

/-- Invar time and addresses of host memory (R284, R340). -/
abbrev Word64 := BitVec 64

/-- A field of a register: its lowest bit and its width. -/
structure Fld where
  lo : Nat
  width : Nat
  deriving DecidableEq, Repr

/-- A table of entries with a number each: `(number, entry)`, numbers strictly rising. An entry that is not listed holds
the entry type's default. Addressed memories are tables of bytes. -/
abbrev Table (α : Type) := List (Nat × α)

end Sys2Proof
end

