-- ==== Sys2Proof/Types.lean ====
section
/-! DEFINITION. The types of the commands' operands and of what travels between blocks: who starts a register access, the
units, lines with their tags, document-end markers, outcomes of memory checks. -/

namespace Sys2Proof

/-- Who starts an access: the host's functions, the cores, the board controller, and the far ends of the link groups
(R415, R556). -/
inductive Initiator where
  | pf0 | pf1 | pf2 | pf3 | mc0 | mc1 | tw8 | linkL0 | linkL1 | linkT
  deriving DecidableEq, Repr, Inhabited

/-- The kinds of pavilion unit, in the code of the SPARES section (R44). -/
inductive UnitKind where
  | lu | mu | gu | bu | of
  deriving DecidableEq, Repr, Inhabited

/-- The outcome of a check of stored words: clean, corrected `n` words, or uncorrectable. -/
inductive Ecc where
  | ok | corrected (n : Nat) | uncorr (place : Nat)
  deriving DecidableEq, Repr, Inhabited

/-- A read by an initiator: its address, and the bytes of the double word that it asks for, one bit each. -/
structure ReadAt where
  addr : Nat
  be : Nat
  deriving DecidableEq, Repr, Inhabited

/-- How the bursts of a read of frame memory fare on the link: how often they are repeated for the EDC check (R312), and whether it is
the next access of the block by any unit that meets them. -/
structure FmBursts where
  repeats : Nat
  ahead : Bool
  deriving DecidableEq, Repr, Inhabited

/-- Uncorrectable words of an OF's buffers, each as output stream, eight-byte word and the bytes as read (R282): those of the record of a
line after its tag, or of a coded stream's samples, and those of the coded bytes of a segment that ends. -/
structure OfWords where
  line : List (Nat × Nat × List Nat)
  coded : List (Nat × Nat × List Nat)
  deriving DecidableEq, Repr, Inhabited

/-- The payload of a completion, and the check of the buffer that holds it. -/
structure CplData where
  bytes : List Nat
  check : Ecc
  deriving DecidableEq, Repr, Inhabited

/-- The line tag of R149 as it travels inside the device: word 0 holds the stream, the flags are bits 31:16 of word 0.
`idx` is the model's own place of the document in its stream's order of documents; `lead` is the leading edge. -/
structure Tag where
  stream : Nat
  flags : Nat
  doc : Nat
  line : Nat
  recipe : Nat
  time : Nat
  enc : Nat
  idx : Nat
  lead : Nat
  last : Bool
  deriving DecidableEq, Repr, Inhabited

/-- A line: its tag and its pixels, one list for each channel of a pixel. -/
structure Line where
  tag : Tag
  px : List (List Nat)
  deriving DecidableEq, Repr, Inhabited

/-- A document-end marker (R144), with the edges that the header record reports (R152). -/
structure Marker where
  stream : Nat
  doc : Nat
  idx : Nat
  count : Nat
  trunc : Bool
  short : Bool
  lead : Nat
  trail : Option Nat
  deriving DecidableEq, Repr, Inhabited

/-- What travels down a stream channel. -/
inductive Item where
  | line (l : Line)
  | marker (m : Marker)
  deriving DecidableEq, Repr, Inhabited

/-- A decoded load-list record: one register write (R45). -/
structure LoadRec where
  off : Nat
  val : Nat
  deriving DecidableEq, Repr, Inhabited

/-- Where the expert values of a block that carries lines return together (R18). -/
inductive ExpertScope where
  | sp | st | pgl | os
  | unit (k : UnitKind) (n : Nat)
  deriving DecidableEq, Repr, Inhabited

/-- An error that a BU finds in its bin or zone memory (R250): the context, the accumulator (numbered as the record in the making
numbers them), and whether it is uncorrectable. -/
structure BuErr where
  ctx : Nat
  acc : Nat
  uncorr : Bool
  deriving DecidableEq, Repr, Inhabited

/-- A link packet (R406, R407): class, type, FIRST, LAST, EP, SEQ, TAG, INIT, the two words of SPEC, the payload words. -/
structure LinkPkt where
  cls : Nat
  typ : Nat
  first : Bool
  last : Bool
  ep : Bool
  seq : Nat
  tag : Nat
  init : Nat
  spec0 : Nat
  spec1 : Nat
  payload : List Nat
  deriving DecidableEq, Repr, Inhabited

/-- What one receive lane reads of a TS1 or TS2 (R392, R393): the LANE symbol, whether its type symbol came inverted, the
pre-cursor and post-cursor that the far receiver requests (none: request not valid), and those that the far transmitter applies. -/
structure TsLane where
  lane : Nat
  inv : Bool
  req : Option (Nat × Nat)
  app : Nat × Nat
  deriving DecidableEq, Repr, Inhabited

/-- What leaves the device or is handed to whoever asked: the model's record of outward effects, oldest first. -/
inductive Out where
  /-- A posted memory write of a function: address and bytes (R346, R369). -/
  | hostWrite (fn addr : Nat) (bytes : List Nat)
  /-- A memory read request of a function: tag, address, length (R355). -/
  | hostRead (fn tag addr len : Nat)
  /-- A completion to the host: status 0 success, 1 Unsupported Request, 2 Retry Status, 4 Completer Abort; EP bit. -/
  | completion (fn status : Nat) (ep : Bool) (data : List Nat)
  /-- The value a core, TW8 or a link request reads. -/
  | readData (i : Initiator) (val : Nat)
  /-- A load or store access fault in a core (R544): mcause 5 or 7. -/
  | coreFault (core cause : Nat)
  /-- The address presented on a core's vector port (R472). -/
  | vector (core addr : Nat)
  /-- A link packet sent on a group: the logical lane of its SPK (R386), then the words of header, payload and LCRC (R406, R407). -/
  | packet (group lane : Nat) (words : List Nat)
  /-- An ordered set sent on a group (R385): its type symbol and its data symbols that are not fixed. -/
  | ordered (group type : Nat) (symbols : List Nat)
  /-- What the device does on a two-wire bus. -/
  | bus (ctl : Nat) (kind : String) (bytes : List Nat)
  /-- A ball takes a level, or is released. -/
  | pin (name : String) (index : Nat) (level : Nat)
  deriving DecidableEq, Repr, Inhabited

end Sys2Proof
end

