-- ==== Sys2Proof/Syntax.lean ====
section
/-! DEFINITION. The commands of the device: one constructor for each row of spec/opcode_table.json, with what the sender of the command
gives it. The rule that governs the row stands in the constructor's docstring. -/

namespace Sys2Proof

/-- The commands (95_what_each_step_holds.md): each is one whole step of the device. -/
inductive Instr where
  /-- A write to a register that has no row of its own takes effect under the access types of its fields (R4). `i` (a function of the host or a core) writes `data` at its own address `a` with byte enables `be`; `hw` has the W1C bits of the register that hardware sets in the same cycle; `poison` tells that the request is poisoned. -/
  | regWrite (i : Initiator) (a : Nat) (data : Word) (be : Nat) (hw : Word) (poison : Bool)
  /-- A software write to a counter: a write of 0 clears it, and any other value is ignored (R8). `i` writes `data` to the counter at BAR0 offset `off`; `n` of its events come in the same cycle. -/
  | counterWrite (i : Initiator) (off : Nat) (data : Word) (n : Nat)
  /-- A write to GLB_EXPERT_EN sets or clears the expert enable of each block (R18). `i` writes `data`. -/
  | expertEnWrite (i : Initiator) (data : Word)
  /-- At a block's next line boundary after its expert bit is cleared, its expert RW fields return to the image-loaded values (R18). The block, or the pavilion unit, that stands at a line boundary. -/
  | expertValueReturn (sc : ExpertScope)
  /-- A register write that found the mirror queue full takes effect on the lead once it has been queued (R503). -/
  | mirrorWriteQueued
  /-- Release of power-on reset starts the device from the always-on island up (R539). The straps ROLE and TWIN_ID; whether VDD_TW and VDD_TRIG are above 2.6 V. -/
  | powerOnReset (role twinId : Nat) (bank33 trig33 : Bool)
  /-- A warm reset releases the shared balls, resets every island except AON, and boots, verifies and applies an image again (R534). The straps ROLE and TWIN_ID as the reset ends. -/
  | warmReset (role twinId : Nat)
  /-- The boot ROM reads a candidate image slot and checks it step by step, stopping at the first failure (R50). The step of R50 at which a flash read of slot A, and of slot B, fails; 0 for none. -/
  | imageVerify (errA errB : Nat)
  /-- The boot ROM verifies and loads MC0 firmware, with fallback, and starts MC0 (R549). Whether a flash read of slot A, and of slot B, fails. -/
  | mc0FirmwareCheck (errA errB : Bool)
  /-- MC0 verifies MC1 firmware against the image digest, loads it and releases MC1 from reset (R549). Whether a flash read of slot A, and of slot B, fails. -/
  | mc1FirmwareCheck (errA errB : Bool)
  /-- RST_N held low for 1 µs starts a warm reset, which proceeds when the pin rises (R535). Whether the pin has been low for 1 µs, or has risen. -/
  | rstNAssert (low : Bool)
  /-- A PCR_RESET write with KIND 1 starts a warm reset (R533). `i` writes `data` to PCR_RESET. -/
  | pcrResetWarm (i : Initiator) (data : Word)
  /-- A PCR_RESET write with KIND 2 broadcasts an installation reset, forwarding it first and resetting last (R536). `i` writes `data` to PCR_RESET. -/
  | installationReset (i : Initiator) (data : Word)
  /-- SENSOR_GO is set when start-up conditions hold, or when 500 ms pass after APPLIED (R540). -/
  | sensorGo
  /-- A pavilion's staged-bank load completes within 250 µs (R58). Pavilion `p`. -/
  | recipeLoadDone (p : Nat)
  /-- A CSI-2 long packet is decoded, checked, unpacked and delivered as a line of its reception entry (R105). Port `n`; `h` is the header word, first byte lowest. `payload` holds the payload bytes that arrived before the burst ended, `crc` the checksum, where the burst lasted that long. -/
  | csiLongPacket (n : Nat) (h : Word) (payload : List Nat) (crc : Option Nat)
  /-- A packet with an uncorrectable header is discarded, and the next line of each entry carries HDR_ERR (R108). Port `n`. -/
  | csiHeaderUncorr (n : Nat)
  /-- A Frame Start opens a frame on the area-mode entries of its virtual channel (R118). Port `n`; `h` is the header word, first byte lowest. -/
  | csiFrameStart (n : Nat) (h : Word)
  /-- A Frame End closes the open frame on the area-mode entries of its virtual channel (R118). Port `n`; `h` is the header word, first byte lowest. -/
  | csiFrameEnd (n : Nat) (h : Word)
  /-- A Line Start packet owes a line on entries with TO_REF = LS (R114). Port `n`; `h` is the header word, first byte lowest. -/
  | csiLineStart (n : Nat) (h : Word)
  /-- A generic short packet is captured in SPn_GSP_LAST (R107). Port `n`; `h` is the header word, first byte lowest. -/
  | csiGenericShort (n : Nat) (h : Word)
  /-- A null or blanking packet is discarded without count (R103). Port `n`; `h` is the header word, first byte lowest. -/
  | csiNullBlanking (n : Nat) (h : Word)
  /-- A packet of unknown data type is discarded whole and counted (R106). Port `n`; `h` is the header word, first byte lowest. -/
  | unknownDtDiscard (n : Nat) (h : Word)
  /-- A burst with an uncorrectable sync error or illegal LP sequence is discarded and counted (R127). Port `n`. -/
  | phySyncError (n : Nat)
  /-- A D-PHY skew calibration sequence updates each lane's calibration (R101). Port `n`; bit i of `locked` is 1 where logical data lane i locked. -/
  | deskewSequence (n locked : Nat)
  /-- A lane enters or leaves ultra-low-power state (R99). Port `n`, data lane 0 to 3 or 4 for the clock lane. -/
  | ulpsTransition (n lane : Nat) (enter : Bool)
  /-- An owed line's timer expires and a LATE fill line is delivered in its place (R115). Port `n`, entry `k`. -/
  | lineTimeout (n k : Nat)
  /-- The frame timer expires and the open frame closes as if a Frame End had arrived (R118). Port `n`, virtual channel `vc`. -/
  | frameTimeout (n vc : Nat)
  /-- Setting SPn_CTRL.EN powers the receivers, waits for deskew and starts delivery (R121). `i` writes 1 to SPn_CTRL. -/
  | portEnable (i : Initiator) (n : Nat)
  /-- Clearing SPn_CTRL.EN requests the port to stop at the end of the packet in progress (R121). `i` writes 0 to SPn_CTRL. -/
  | portDisable (i : Initiator) (n : Nat)
  /-- At the end of the packet in progress the port stops, empties its queues and closes its streams' documents (R121). Port `n`. -/
  | portStop (n : Nat)
  /-- A segmenter declares a leading edge and numbers a new document (R133). Segmenter `g`; `wr` is a software write to NEXT_DOC that takes effect in the same cycle. -/
  | segLeadingEdge (g : Nat) (wr : Option Word)
  /-- A segmenter declares a trailing edge (R133). Segmenter `g`. -/
  | segTrailingEdge (g : Nat)
  /-- An arbitration point grants its unit input to one waiting channel by deficit round robin (R78). Unit `n` of kind `k` has a free slot. -/
  | pglGrant (k : UnitKind) (n : Nat)
  /-- On a shadow, the lead's admission decision has not arrived 2 µs after a line began (R93). Channel `ch`. -/
  | admissionDecisionTimeout (ch : Nat)
  /-- An LU applies black level, LUT, gain and defect replacement to one line (R154). LU number `lu` takes its granted line. `gh` is the check of the Glasshouse words read, with the bank as the place; `tblCorr` words of table memory or LUT are corrected, the table words of the columns `tblBad` and the LUT entries `lutBad` are uncorrectable. -/
  | luLine (lu : Nat) (gh : Ecc) (tblCorr : Nat) (tblBad lutBad : List Nat)
  /-- A write to TBL_DATA stores the word at TBL_ADDR and advances the address (R168). `i` writes `data` to the TBL_DATA of LU number `lu`. -/
  | tblDataWrite (i : Initiator) (lu : Nat) (data : Word)
  /-- A read of TBL_DATA returns the word at TBL_ADDR and advances the address (R168). `i` reads the TBL_DATA of LU number `lu`. -/
  | tblDataRead (i : Initiator) (lu : Nat)
  /-- A member line is written into the MU tap store (R185). MU number `mu` takes its granted line; `gh` is the check of the Glasshouse words read, with the bank as the place. -/
  | muMemberLine (mu : Nat) (gh : Ecc)
  /-- Once all taps are decided, the MU registers, merges and stacks an output line (R185). Group `g` of MU number `mu`; `corr` words of the tap store read for the line are corrected, `bad` lists the uncorrectable ones as member, line number and word. -/
  | muOutputLine (mu g corr : Nat) (bad : List (Nat × Nat × Nat))
  /-- A member line's timer expires and the line is missing by timeout (R186). Line `j` of member `c` of MU number `mu`, in the oldest document that the group works on. -/
  | muMemberTimeout (mu c j : Nat)
  /-- A shadow still lacking a member line 2 µs after its own timer resolves it as timed out and signals (R187). Line `j` of member `c` of MU number `mu`, in the oldest document that the group works on. -/
  | muShadowWait (mu c j : Nat)
  /-- The MU emits a group's document-end marker once every member's marker has arrived (R180). Group `g` of MU number `mu`. -/
  | muMarker (mu g : Nat)
  /-- A GU context regrids an input line and writes the grid lines it yields to its ring (R203). GU number `p` takes its granted line; `gh` is the check of the Glasshouse words read, with the bank as the place; `errs` are errors in the memory of the BU that observes it. -/
  | guInputLine (p : Nat) (gh : Ecc) (errs : List BuErr)
  /-- A path releases grid line g when it is due in each of its contexts (R207). Path `q` of GU number `p`; `oa` and `ob` symbols are found in error in the reads of its contexts' rings beside those stored so, `buf` is the check of the line buffers. -/
  | guRelease (p q oa ob : Nat) (buf : Ecc)
  /-- A deskewing path emits an output line once its taps are available (R220). Path `q` of GU number `p`; `errs` names, by grid line, symbols found in error in the reads of frame memory for the line beside those stored so; `corr` words of the tile cache were corrected, and words of the grid lines in `again` could not be. -/
  | guDeskewLine (p q : Nat) (errs : List (Nat × Nat)) (corr : Nat) (again : List Nat)
  /-- The path passes the document-end marker after its last output line (R224). Path `q` of GU number `p`. -/
  | guMarker (p q : Nat)
  /-- On a shadow, the lead's ring-discard decision has not arrived within 2 µs (R209). Context `c` of GU number `p`. -/
  | guDiscardDecisionTimeout (p c : Nat)
  /-- A BU context writes its completed record to its record ring and increments SEQ (R246). Context `c` of BU number `b`; `corr` words of its memory are corrected, the accumulators `bad` are uncorrectable. -/
  | buRecordComplete (b c corr : Nat) (bad : List Nat)
  /-- An OF context formats, packs, codes and seals a line for each output stream it feeds (R253). OF number `o` takes its granted line; `gh` is the check of the Glasshouse words read, `errs` are errors in the memory of the BU that observes it, `corr` words of the OF's buffers are corrected, `bad` lists uncorrectable ones; `seals` gives the first circuit's seal where an output stream's two differ. -/
  | ofLine (o : Nat) (gh : Ecc) (errs : List BuErr) (corr : Nat) (bad : OfWords) (seals : List (Nat × Word))
  /-- An output stream places a statistics record in its statistics area (R265). Output stream `n`. -/
  | statsPlace (n : Nat)
  /-- The document header record enters DOC once the last record and statistics are done (R263). Output stream `n`. -/
  | docHeaderRecord (n : Nat)
  /-- A HOST relay takes a head item from the link and delivers it (R268). Group `g`; `fault` is the first circuit's seal where the relay's two differ. -/
  | relayItem (g : Nat) (fault : Option Word)
  /-- A shadow applies a mirrored register write from the lead (R500). The oldest class 7 item received on group T. -/
  | twinCfgReceive
  /-- A shadow receives a decision from the lead (R499). The oldest class 7 item received on group T. -/
  | twinDecReceive
  /-- A partner's seal report is compared with the local record (R505). The oldest class 7 item received on group T. -/
  | twinSealReceive
  /-- A record leaves without comparison when CMP_WAIT passes (R505). Output stream `n`. -/
  | cmpWaitExpiry (n : Nat)
  /-- A record-check report is compared with the local record (R506). The oldest class 7 item received on group T. -/
  | twinRecReceive
  /-- A shadow channel loads its program or advances by a progress report (R350). The oldest class 7 item received on group T. -/
  | twinDmaReceive
  /-- A mirrored two-wire entry, start time or result arrives over group T (R453). The oldest class 7 item received on group T. -/
  | twinTwReceive
  /-- A partner's state report is received (R499). The oldest class 7 item received on group T. -/
  | twinStateReceive
  /-- A shadow receives a TAKE message fixing T0 (R507). The oldest class 7 item received on group T. -/
  | twinTakeReceive
  /-- An admitted device applies the admission snapshot (R515). The oldest class 7 item received on group T. -/
  | twinSnapReceive
  /-- A decision not received 2 µs after it is needed is decided locally (R504). The DEC kind, and what waits: kind 1 port `a`, entry `b`, or from 8 the channel `b` - 8; kind 4 the oldest latch point, or with `a` = 1 the load of pavilion `b`; kind 5 segmenter `a`; kind 6 stream `a`. -/
  | decLate (kind a b : Nat)
  /-- No heartbeat edge arrives for 2 µs (R497). -/
  | heartbeatLoss
  /-- Group T silence or loss of UP for 2 µs makes partner loss (R498). `silent` tells that group T has carried nothing for 2 µs. -/
  | partnerLoss (silent : Bool)
  /-- Group T not UP for ALONE_MS sends a joining device to ALONE or DETACHED (R496). `hb` tells that a heartbeat edge arrived in the time. -/
  | aloneTimeout (hb : Bool)
  /-- CTRL.HANDOVER on the lead schedules a handover 10 µs ahead (R507). `i` writes `data` to TWN_CTRL. -/
  | twinHandover (i : Initiator) (data : Word)
  /-- CTRL.ADMIT on the lead admits a DETACHED partner (R496). `i` writes `data` to TWN_CTRL. -/
  | twinAdmit (i : Initiator) (data : Word)
  /-- CTRL.DETACH on a shadow enters DETACHED (R496). `i` writes `data` to TWN_CTRL. -/
  | twinDetach (i : Initiator) (data : Word)
  /-- At T0 the shadow enters the lead state and takes over all outputs (R509). -/
  | takeover
  /-- An admitted device with every stream joined enters SHADOW (R516). Whether the lead's progress reports cover every item that the device does not hold. -/
  | syncConditionMet (covered : Bool)
  /-- Admission not complete within ADMIT_TIMEOUT returns to DETACHED (R517). -/
  | admitTimeout
  /-- A HOST receives a head's LEAD message and may switch head lead (R513). The oldest class 6 packet received on group `g`. -/
  | headLeadReceive (g : Nat)
  /-- A read of TB_TIME_LO latches the high half for the initiator (R285). `i` reads; `init` is the originating initiator code of a read over a group. -/
  | timeLoRead (i : Initiator) (init : Nat)
  /-- Each in-service group sends a time exchange request every microsecond (R287). Group `g`; `sub` is the part of the present nanosecond in sixteenths. -/
  | timeExchangeTick (g sub : Nat)
  /-- A time exchange request is answered with TXR (R401). Group `g`; SEQ, FLAGS and TS_A of the set; `sub` is the part of the present nanosecond in sixteenths. -/
  | txqReceive (g seqNo flags t1 sub : Nat)
  /-- A time exchange response yields hop delay and offset and steers Invar (R287). Group `g`; SEQ, FLAGS, TS_A and TS_B of the set; `sub` is the part of the present nanosecond in sixteenths. -/
  | txrReceive (g seqNo flags t3 t2 sub : Nat)
  /-- A follower with no upstream enters holdover (R290). -/
  | holdoverEnter
  /-- A trigger input's filtered level takes a new value (R292). The filter of TRIG_IN[i] accepts `level`, before POL. -/
  | trigInChange (i : Nat) (level : Bool)
  /-- An encoder grid-point crossing gives a strobe generator an event (R295). Generator `i`. -/
  | strobeEncEvent (i : Nat)
  /-- Invar reaching a multiple of PITCH gives a time-sourced generator an event (R293). Generator `i`. -/
  | strobeTimeEvent (i : Nat)
  /-- A write to TB_STB_SW gives generators one event (R293). `i` writes `data`. -/
  | stbSw (i : Initiator) (data : Word)
  /-- DELAY after an event a strobe pulse starts (R294). Generator `i`. -/
  | strobePulseStart (i : Nat)
  /-- WIDTH after its start a strobe pulse ends (R294). Generator `i`. -/
  | strobePulseEnd (i : Nat)
  /-- A TB_STB_START write starts generators with phase 0 (R298). `i` writes `data`; `stop` names the generators whose stop takes effect in the same cycle. -/
  | stbStart (i : Initiator) (data stop : Word)
  /-- A TB_STB_STOP write stops generators after their decided pulses (R298). `i` writes `data`. -/
  | stbStop (i : Initiator) (data : Word)
  /-- An encoder transition counts the position and updates the velocity (R301). Encoder `k` shows the filtered levels `a` and `b`. -/
  | encTransition (k : Nat) (a b : Bool)
  /-- No count for STOP_US sets velocity 0 and STOPPED (R303). Encoder `k`. -/
  | encStopped (k : Nat)
  /-- A remote encoder takes position and velocity from an ENC message (R304). The oldest class 6 packet received on group `g`. -/
  | encRemoteReceive (g : Nat)
  /-- A CTRL write with ARM arms a scheduled-action slot (R306). `i` writes `data`, with ARM 1 and DISARM 0, to the CTRL register of slot `k`. -/
  | schedArm (i : Initiator) (k : Nat) (data : Word)
  /-- A CTRL write with DISARM returns a slot to IDLE (R306). `i` writes `data`, with DISARM 1, to the CTRL register of slot `k`. -/
  | schedDisarm (i : Initiator) (k : Nat) (data : Word)
  /-- Invar reaches a slot's TIME and its action is performed (R305). Slot `k`. -/
  | schedFire (k : Nat)
  /-- A broadcast arming or installation reset is forwarded and applied (R307). The oldest broadcast received on group `g`. -/
  | bcastReceive (g : Nat)
  /-- After APPLIED frame memory trains, initialises and sets READY (R321). Bit c of `failed` is 1 where channel c fails a training step. -/
  | fmStart (failed : Nat)
  /-- A frame-memory block read completes with its ECC outcome (R314). The block of data address `a`; `syms` symbols are found in error beside those stored so, and `bursts` says how often its bursts were repeated for the EDC check and whether the next access of the block by any unit is the one that meets this. -/
  | fmReadComplete (a syms : Nat) (bursts : FmBursts)
  /-- Within 2 µs the fence completes and FENCED is set (R320). Channel `c`. -/
  | fmFenceComplete (c : Nat)
  /-- Every RETRAIN_MS a channel pauses and retrains (R323). Channel `c` retrains with success `ok`. -/
  | fmRetrain (c : Nat) (ok : Bool)
  /-- The scrubber reads a block and repairs or fences (R324). The scrubber finds `syms` symbols in error beside those stored so in its next block. -/
  | fmScrubRead (syms : Nat)
  /-- A FM_INJECT write with ARM arms an error injection (R326). `i` writes `data`, with ARM 1 and DISARM 0, to FM_INJECT. -/
  | fmInject (i : Initiator) (data : Word)
  /-- A FM_INJECT write with DISARM clears ARM (R326). `i` writes `data`, with DISARM 1, to FM_INJECT. -/
  | fmInjectDisarm (i : Initiator) (data : Word)
  /-- A host read through BAR2 returns frame-memory data (R365). `n` bytes at offset `a`. -/
  | bar2Read (a n : Nat)
  /-- A host write through BAR2 writes frame memory (R365). Bytes at offset `a`; `poisoned` is the EP bit. -/
  | bar2Write (a : Nat) (bytes : List Byte) (poisoned : Bool)
  /-- START on an IDLE channel loads its program and runs it (R331). `i` writes `data`, with START 1, to the CTRL register of channel `c`. -/
  | dmaStart (i : Initiator) (c : Nat) (data : Word)
  /-- HALT stops a running channel at the next item or 4 KiB boundary (R331). `i` writes `data`, with HALT 1, to the CTRL register of channel `c`. -/
  | dmaHalt (i : Initiator) (c : Nat) (data : Word)
  /-- RESUME continues a halted channel (R331). `i` writes `data`, with RESUME 1, to the CTRL register of channel `c`. -/
  | dmaResume (i : Initiator) (c : Nat) (data : Word)
  /-- STOP abandons the program and returns the channel to IDLE (R331). `i` writes `data`, with STOP 1, to the CTRL register of channel `c`. -/
  | dmaStop (i : Initiator) (c : Nat) (data : Word)
  /-- The channel's program load completes or faults (R338). Channel `c`. -/
  | dmaProgramLoaded (c : Nat)
  /-- A MOVE in MODE 0 copies bytes between host and frame memory (R340). Channel `c`; `buf` is the check of the shared buffer's words. -/
  | dmaMoveBytes (c : Nat) (buf : Ecc)
  /-- A MOVE in MODE 1 moves one queue item (R341). Channel `c`; `buf` is the check of the shared buffer's words. -/
  | dmaMoveItem (c : Nat) (buf : Ecc)
  /-- A MOVE in MODE 2 moves the line records of one document (R341). Channel `c`; `buf` is the check of the shared buffer's words. -/
  | dmaMoveDoc (c : Nat) (buf : Ecc)
  /-- A LOOP instruction repeats its body with address increments (R344). Channel `c`. -/
  | dmaLoop (c : Nat)
  /-- A WAIT instruction blocks the channel on a condition (R345). Channel `c`. -/
  | dmaWait (c : Nat)
  /-- A WAIT's condition is met and the channel runs on (R345). Channel `c`. -/
  | dmaWaitMet (c : Nat)
  /-- A WAIT's TIMEOUT passes and ON_TIMEOUT applies (R345). Channel `c`. -/
  | dmaWaitTimeout (c : Nat)
  /-- A SIGNAL performs its write, semaphore add and interrupt behind earlier writes (R346). Channel `c`. -/
  | dmaSignal (c : Nat)
  /-- END returns the channel to IDLE and sets DONE (R331). Channel `c`. -/
  | dmaEnd (c : Nat)
  /-- A SEM_ADD write adds to a channel semaphore (R343). `i` writes `data` to SEM_ADD of channel `c`. -/
  | dmaSemAdd (i : Initiator) (c : Nat) (data : Word)
  /-- A data-link acknowledgement covers the last request of an item (R350). The oldest item, statistics record or completion write of channel `c` that no acknowledgement covers yet. -/
  | pcieDllAck (c : Nat)
  /-- A PCI Express configuration request is served (R358). Function `f`, double word `off`: a read, or a write with its byte enables. -/
  | configRequest (f off : Nat) (write : Option (Word × Nat))
  /-- Clearing Bus Master Enable halts the function's channels (R372). Function `f`. -/
  | busMasterDisable (f : Nat)
  /-- A function-level reset starts on one function (R373). Function `f`. -/
  | functionLevelReset (f : Nat)
  /-- A function-level reset completes within 10 ms (R373). Function `f`. -/
  | flrComplete (f : Nat)
  /-- A function enters D3hot and stops its requests (R376). Function `f`. -/
  | d3hotEntry (f : Nat)
  /-- A Hot Reset acts on all four functions as an FLR (R375). -/
  | hotReset
  /-- The link goes down with PERST_N high (R375). -/
  | dlDown
  /-- PERST_N asserted resets the endpoint, and warm-resets the device when PERST_WARM is 1 (R375). -/
  | perstN
  /-- A completion for an outstanding read is received (R356). Function `f`, tag `t`, status 0 success, 1 Unsupported Request or 4 Completer Abort, EP bit, and the bytes with the check of the completion buffer. -/
  | pcieCompletion (f t status : Nat) (ep : Bool) (data : CplData)
  /-- A read's completion timeout expires and its tag is quarantined (R356). Tag `t`. -/
  | completionTimeout (t : Nat)
  /-- The endpoint sends an MSI-X message when its conditions hold (R368). Vector `v` of function `f`. -/
  | msixSend (f v : Nat)
  /-- A read of the expansion ROM window is served (R367). A read of `n` bytes at offset `a` of the window. -/
  | expansionRomRead (a n : Nat)
  /-- A write of BAR Size changes the BAR2 size (R366). BAR Size `size`. -/
  | resizableBarWrite (size : Nat)
  /-- The host link trains, and a speed or width below GLB_PCIE_MIN is flagged (R357). Speed code 1 to 5 and width. -/
  | pcieLinkTrained (speed width : Nat)
  /-- The endpoint becomes ready and stops returning Retry Status (R378). -/
  | endpointReady
  /-- A group's PLL locks in WAKE and the group enters ALIGN (R391). Group `g`. -/
  | lnkPllLock (g : Nat)
  /-- A TS1 ordered set is received during training (R392). Group `g`; the WHO, RATE and FLAGS symbols, and what each receive lane reads, in the order of the pins. -/
  | ts1Receive (g who rate flags : Nat) (lanes : List TsLane)
  /-- A TS2 ordered set is received in CONFIRM (R391). Group `g`; the WHO, RATE and FLAGS symbols, and what each receive lane reads, in the order of the pins. -/
  | ts2Receive (g who rate flags : Nat) (lanes : List TsLane)
  /-- An IDENT set carrying digest bytes is received on group T (R396). Set `n` with four digest bytes, the first lowest. -/
  | identReceive (n : Nat) (data : Word)
  /-- A training state's time limit expires and the group enters FAILED (R391). Group `g`. -/
  | lnkTrainTimeout (g : Nat)
  /-- The group relocks at its rate in SPEED and enters EQ (R391). Group `g`. -/
  | lnkSpeedLock (g : Nat)
  /-- A 200 µs eye measurement of one equalisation setting ends (R398). Group `g`, lane `l`; the eye opening in 1/64 UI. -/
  | eqMeasureDone (g l margin : Nat)
  /-- After 1 ms idle in FAILED the group returns to WAKE (R391). Group `g`. -/
  | lnkFailedIdleEnd (g : Nat)
  /-- A lane loses symbol lock and the group retrains (R399). Group `g`, lane `l`; the code errors that took its lock. -/
  | symbolLockLoss (g l errs : Nat)
  /-- A 1 ms window with code errors above ERR_THR forces RETRAIN (R399). Group `g`; the code errors of the window by lane. -/
  | errorWindowExpiry (g : Nat) (errs : List Nat)
  /-- CTRL.RETRAIN forces the group to retrain (R400). `i` writes `data` to LNK_Gg_CTRL. -/
  | lnkRetrain (i : Initiator) (g : Nat) (data : Word)
  /-- Writing HOLD sends the group to OFF or releases it (R400). `i` writes `data` to LNK_Gg_CTRL. -/
  | lnkHold (i : Initiator) (g : Nat) (data : Word)
  /-- CTRL.FULL restarts training from WAKE (R400). `i` writes `data` to LNK_Gg_CTRL. -/
  | lnkFull (i : Initiator) (g : Nat) (data : Word)
  /-- A low-power entry set is received and the group may enter LP1 or LP2 (R402). Group `g`; the state requested, 1 or 2. -/
  | lpeReceive (g req : Nat)
  /-- A WAKE set ends a lane power state (R402). Group `g`. -/
  | wakeSetReceive (g : Nat)
  /-- Loss of a link reference switches references or takes groups out of service (R389). Whether REFCLK_LINK, LREF0 and LREF1 are present and in range. -/
  | linkRefLoss (okL ok0 ok1 : Bool)
  /-- A link packet is checked for LCRC and sequence and accepted or NAKed (R409). Group `g` receives `p`, of a class other than 0; `good` is the LCRC check, `edb` tells that EDB ends it, `buf` is the check of the buffer words. -/
  | linkPacketReceive (g : Nat) (p : LinkPkt) (good edb : Bool) (buf : Ecc)
  /-- An ACK releases packets from the replay buffer (R409). Group `g`; `seqNo` is the last sequence number accepted. -/
  | linkAck (g seqNo : Nat)
  /-- A NAK replays from the oldest unacknowledged packet (R409). Group `g`; `seqNo` is the last sequence number accepted. -/
  | linkNak (g seqNo : Nat)
  /-- No ACK for 4 µs triggers a replay (R409). Group `g`. -/
  | replayTimeout (g : Nat)
  /-- A CREDIT packet returns receive credits (R412). Group `g`; header and data credits of class `cls`. -/
  | creditReceive (g cls hdr data : Nat)
  /-- A PF3 or core write to the remote window is sent as a WR (R415). PF3 or a core writes words from far offset `off` up. -/
  | remoteWriteIssue (i : Initiator) (off : Nat) (data : List Word)
  /-- A PF3 or core read to the remote window takes a tag and is sent as an RD (R420). PF3 or a core reads `n` words from far offset `off` up. -/
  | remoteReadIssue (i : Initiator) (off n : Nat)
  /-- A far device performs a received posted write or reports its failure (R417). The oldest posted write received on group `g`. -/
  | wrReceive (g : Nat)
  /-- A far device serves a received read and returns a CPLD (R420). The oldest read received on group `g`. -/
  | rdReceive (g : Nat)
  /-- A completion for a remote read is delivered or discarded (R420). The oldest completion received on group `g`. -/
  | cpldReceive (g : Nat)
  /-- A remote read times out with all ones and its tag is quarantined (R421). Tag `t`; none: the oldest read that waits for a tag. -/
  | remoteReadTimeout (t : Option Nat)
  /-- A quarantined tag becomes free again (R421). Tag `t`. -/
  | tagQuarantineEnd (t : Nat)
  /-- A PERR message logs a remote write failure at the originator (R417). The oldest class 6 packet received on group `g`. -/
  | perrReceive (g : Nat)
  /-- A BRG_PERR_POP write removes the oldest log entry (R418). `i` writes `data`. -/
  | perrPop (i : Initiator) (data : Word)
  /-- A HOST delivers a tunnelled CSI item to its tunnelled streams (R427). The oldest tunnel item received on group `g`. -/
  | tunCsiReceive (g : Nat)
  /-- A tunnelled two-wire request is queued on the far controller (R428). The oldest tunnel item received on group `g`. -/
  | twReqReceive (g : Nat)
  /-- A tunnelled two-wire response completes its transaction (R428). The oldest tunnel item received on group `g`. -/
  | twRspReceive (g : Nat)
  /-- A tunnelled transaction with no response ends with TIMEOUT (R429). Tag `t`. -/
  | tunTimeout (t : Nat)
  /-- A WIRES packet updates incoming virtual wires (R431). The oldest class 6 packet received on group `g`. -/
  | wiresReceive (g : Nat)
  /-- Every 10 µs without change a WIRES packet is sent (R431). Group `g`. -/
  | wiresRefresh (g : Nat)
  /-- An EDGE message supplies a REMOTE segmenter's edge (R433). The oldest class 6 packet received on group `g`. -/
  | edgeReceive (g : Nat)
  /-- A TWk_WDATA write stages 4 bytes (R438). `i` writes `data` to TWk_WDATA. -/
  | twWdata (i : Initiator) (k : Nat) (data : Word)
  /-- A TWk_QCMD write pushes an entry into the command queue (R438). `i` writes `data` to TWk_QCMD. -/
  | twQcmd (i : Initiator) (k : Nat) (data : Word)
  /-- CTRL.POP removes the oldest result (R441). `i` writes `data` to TWk_CTRL; `clr` is how a bus clear ends: the pulse at which SDA reads high, or none. -/
  | twPop (i : Initiator) (k : Nat) (data : Word) (clr : Option Nat)
  /-- CTRL.CLEAR runs a bus clear (R443). `i` writes `data` to TWk_CTRL; `clr` is how a bus clear ends: the pulse at which SDA reads high, or none. -/
  | twClear (i : Initiator) (k : Nat) (data : Word) (clr : Option Nat)
  /-- CTRL.FLUSH ends the entry in progress and every queued entry (R441). `i` writes `data` to TWk_CTRL; `clr` is how a bus clear ends: the pulse at which SDA reads high, or none. -/
  | twFlush (i : Initiator) (k : Nat) (data : Word) (clr : Option Nat)
  /-- CTRL.ALERT_POP removes the oldest alert address (R450). `i` writes `data` to TWk_CTRL; `clr` is how a bus clear ends: the pulse at which SDA reads high, or none. -/
  | twAlertPop (i : Initiator) (k : Nat) (data : Word) (clr : Option Nat)
  /-- A controller starts the next queued entry once the bus is free (R439). What controller `k` finds on its bus: how many ns ago a STOP was, how long SCL and SDA have both been high, and whether SCL is high and SDA low with SCL still for the stretch limit; then how the bus clear ends. -/
  | twEntryStart (k : Nat) (stopFor : Option Nat) (highFor : Nat) (jam : Option (Option Nat))
  /-- An entry ends with a result in the result FIFO (R440). `nackAt` is the byte not acknowledged: 0 the first address byte, then the written bytes, then the address byte of the read phase; `read` has the bytes that the target sent. -/
  | twEntryEnd (k : Nat) (nackAt : Option Nat) (read : List Nat)
  /-- A controller loses arbitration on a bit and may retry (R445). The bit as R445 codes it, data bytes acknowledged before it, bytes read before it. -/
  | twArbLost (k bitpos wcnt : Nat) (read : List Nat)
  /-- A controller loses arbitration at a STOP or repeated START (R447). Data bytes acknowledged and bytes read before it. -/
  | twArbLostSp (k wcnt : Nat) (read : List Nat)
  /-- An unexpected START or STOP ends the entry with BUS_ERR (R448). Data bytes acknowledged and bytes read before it. -/
  | twBusError (k wcnt : Nat) (read : List Nat)
  /-- The clock-stretch limit expires and the entry ends with TIMEOUT (R442). Data bytes acknowledged and bytes read before it; whether SCL then goes high within the limit again, and how the bus clear then ends. -/
  | twStretchTimeout (k wcnt : Nat) (read : List Nat) (high : Bool) (clr : Option Nat)
  /-- ALERT_N low for 1 µs sets ALERT_LEVEL (R449). Controller `k`. -/
  | twAlertLow (k : Nat)
  /-- The controller reads the Alert Response Address and logs the address (R449). The byte that a target answered; none: not acknowledged. `lost` tells that the controller lost arbitration. -/
  | twAraRead (k : Nat) (ans : Option Nat) (lost : Bool)
  /-- At the agreed start time both twins drive START for a mirrored entry (R452). Controller `k` at the start time of its next entry. -/
  | twMirrorStart (k : Nat) (busFree : Bool)
  /-- At STOP, TW8 commits its pointer and written words (R457). The bytes acknowledged since the address, up to the STOP. -/
  | tw8WriteCommit (bytes : List Byte)
  /-- TW8 returns a word at the pointer and advances it (R456). -/
  | tw8ReadWord
  /-- A START in an acknowledge slot abandons the TW8 transfer (R458). -/
  | tw8Violation
  /-- Writing TW8_CTRL.ALERT drives TGT_ALERT_N low (R459). `i` writes `data` to TW8_CTRL. -/
  | tw8Alert (i : Initiator) (data : Word)
  /-- ALERT_CANCEL clears ALERT and releases the line (R459). `i` writes `data` to TW8_CTRL. -/
  | tw8AlertCancel (i : Initiator) (data : Word)
  /-- TW8 answers the Alert Response Address and clears ALERT (R459). `lost` tells that TW8 lost arbitration during its answer. -/
  | tw8AraAnswer (lost : Bool)
  /-- A level source sampled high becomes pending (R463). `src` is the source. -/
  | icLevelSample (src : Nat)
  /-- An edge source's active edge makes it pending (R463). `src` is the source. -/
  | icEdgeEvent (src : Nat)
  /-- A pin source's glitch filter accepts a new level (R467). Pin source 208 + `pin` has stood at `level` for `cycles` cycles of the filter clock. -/
  | icPinFilter (pin : Nat) (level : Bool) (cycles : Nat)
  /-- A write to IC_PENDk sets or clears pending bits (R475). `i` writes `data` to IC_PENDk. -/
  | icPendWrite (i : Initiator) (k : Nat) (data : Word)
  /-- A write to IC_MASKk sets or clears mask bits (R475). `i` writes `data` to IC_MASKk. -/
  | icMaskWrite (i : Initiator) (k : Nat) (data : Word)
  /-- An offered source is delivered to one target and set in service (R464). `gie0` and `gie1` are the global interrupt enables of MC0 and MC1, which their programs hold; `ecc` is the check of the Bandstand memory words read; an uncorrectable place of 0 is the source's own word, any other the state word of its 32 sources. -/
  | icDeliver (src : Nat) (gie0 gie1 : Bool) (ecc : Ecc)
  /-- A core's EOI write completes the top of its stack (R473). `i` writes `data` to IC_Tt_EOI. -/
  | icCoreEoi (i : Initiator) (t : Nat) (data : Word)
  /-- An IC_HOST_EOI write completes a host-delivered source without status registers (R465). `i` writes `data` to IC_HOST_EOI. -/
  | icHostEoi (i : Initiator) (data : Word)
  /-- A REMOTE delivery completes automatically after 1 µs or the hold-off (R465). `src` is the source. -/
  | icRemoteComplete (src : Nat)
  /-- A group's hold-off to a target ends (R470). Group `g`, target `t`. -/
  | icHoldoffExpiry (g t : Nat)
  /-- A write to IC_HOLD holds or releases groups (R476). `i` writes `data` to IC_HOLD. -/
  | icHoldWrite (i : Initiator) (data : Word)
  /-- A hold lasting 4 µs ends by itself (R476). Group `g`. -/
  | icHoldTimeout (g : Nat)
  /-- An error signal of class contained or fatal sets FC_STATUS and acts by its class (R483). The source, and the unit within it. -/
  | lodgeErrorSignal (source index : Nat)
  /-- A corrected-class signal is counted and logged (R482). The source, and the unit within it. -/
  | lodgeCorrectedSignal (source index : Nat)
  /-- The spare load completes within 250 µs (R586). The channel, and the fenced unit by kind code and number. -/
  | spareLoadDone (ch k n : Nat)
  /-- An FC_ACK with the current EPISODE_ID returns the Lodge to NORMAL (R488). `i` writes `data`. -/
  | fcAck (i : Initiator) (data : Word)
  /-- The episode timer expires and the device goes to device level (R488). -/
  | escalationTimeout
  /-- The quiet timer expires, the device recovers or enters HELD (R491). -/
  | quietTimerExpiry
  /-- An FC_REVIVE write resets a fenced tile and returns it to service (R492). `i` writes `data`. -/
  | fcRevive (i : Initiator) (data : Word)
  /-- An FC_INJECT write raises a named signal as if the block had raised it (R493). `i` writes `data`. -/
  | fcInject (i : Initiator) (data : Word)
  /-- A quiet device enters the deepest allowed power state (R528). -/
  | powerStateEntry
  /-- A wake event returns the device to P0 (R529). The cause as PCR_WAKE_LAST codes it; for cause 3 the pin: TRIG_IN, then GPIO from 16, then ALERT_N from 32; for cause 5 the group. -/
  | powerWake (cause pin : Nat)
  /-- An access to a stopped island wakes that island alone (R522). The island: 0 AON, 1 to 16 the ports, 17 to 20 the pavilions, 21 PGL, 22 to 29 the frame-memory channels, 30 DMA, 31 PCIE, 32 to 34 LNK, 35 BRG, 36 MGT, 37 CTL. -/
  | islandWake (isl : Nat)
  /-- After 10 µs without access the island returns to the device's power state (R522). The island. -/
  | islandIdleReturn (isl : Nat)
  /-- Loss of PLL lock or SYSCLK signals Lodge source 53 (R542). -/
  | pllLockLoss
  /-- A junction temperature reading crosses the warning or 115 °C limit (R542). The reading in quarters of a degree Celsius, 12 bits in two's complement. -/
  | thermalAlarm (temp : Nat)
  /-- A supply outside its monitor window signals Lodge source 52 (R565). -/
  | supplyOutOfWindow
  /-- NONCE places a fresh nonce in the mailbox (R552). `i` writes the command code to MGT_MBX_CMD. -/
  | mbxNonce (i : Initiator)
  /-- SESSION_OPEN verifies the signed nonce and opens an owner session (R552). `i` writes the command code to MGT_MBX_CMD. -/
  | mbxSessionOpen (i : Initiator)
  /-- SESSION_CLOSE ends the owner session (R552). `i` writes the command code to MGT_MBX_CMD. -/
  | mbxSessionClose (i : Initiator)
  /-- FLASH_ERASE erases flash (R554). `i` writes the command code to MGT_MBX_CMD. `err` tells that flash fails. -/
  | mbxFlashErase (i : Initiator) (err : Bool)
  /-- FLASH_WRITE writes flash from the mailbox (R555). `i` writes the command code to MGT_MBX_CMD. `err` tells that flash fails. -/
  | mbxFlashWrite (i : Initiator) (err : Bool)
  /-- FLASH_VERIFY checks an image or firmware slot (R554). `i` writes the command code to MGT_MBX_CMD. `err` is the step of R50 at which a flash read fails; 0 for none. -/
  | mbxFlashVerify (i : Initiator) (err : Nat)
  /-- SET_PREFERRED writes the boot directory with a new preferred slot (R554). `i` writes the command code to MGT_MBX_CMD. `err` tells that flash fails. -/
  | mbxSetPreferred (i : Initiator) (err : Bool)
  /-- ATTEST writes a signed attestation report (R559). `i` writes the command code to MGT_MBX_CMD. -/
  | mbxAttest (i : Initiator)
  /-- ACC_SET changes an access-control region (R556). `i` writes the command code to MGT_MBX_CMD. -/
  | mbxAccSet (i : Initiator)
  /-- KEY_PROGRAM programs the lowest EMPTY owner key slot (R554). `i` writes the command code to MGT_MBX_CMD. -/
  | mbxKeyProgram (i : Initiator)
  /-- KEY_REVOKE revokes an owner key slot (R555). `i` writes the command code to MGT_MBX_CMD. -/
  | mbxKeyRevoke (i : Initiator)
  /-- A mailbox command ends and MBX_DONE is set with its result (R553). -/
  | mbxCommandDone
  /-- A core's kick restarts its watchdog (R546). `i` writes `data` to MGT_WDT_KICK. -/
  | wdtKick (i : Initiator) (data : Word)
  /-- A core watchdog expires and signals Lodge source 50 (R546). The watchdog of core `t`. -/
  | wdtExpiry (t : Nat)
  /-- A write of MGT_LOG_CODE commits a software log entry (R562). `i` writes `data` to MGT_LOG_CODE. -/
  | logCodeWrite (i : Initiator) (data : Word)
  /-- A read of GLB_IMG_WINDOW_DATA returns image bytes and advances the offset (R560). `i` reads. -/
  | imgWindowDataRead (i : Initiator)
  /-- The identity key is generated and ID_READY sets (R558). -/
  | identityKeyReady
  /-- A fall of VDD_AON below 0.65 V, or removal of power, asserts power-on reset and releases every shared ball (R569). -/
  | vddAonFall
  /-- PERST_N going high starts endpoint link training and the readiness timeline (R378). -/
  | perstNRelease
  /-- When the exit latency has passed, islands run again, held generators restart at phase 0, phase counters reset and segmenters take the captured wake position (R529). -/
  | powerExitComplete
  /-- 100 ns before T0 the old lead releases its shared balls and stops DMA, then enters FAULT or SHADOW at T0 (R508). -/
  | oldLeadRelease
  /-- A high-speed start of transmission on a data lane lets the lead terminate that burst and sets RX_ACTIVE (R122). Port `n`, data lane `lane`. -/
  | hsBurstStart (n lane : Nat)
  /-- Every 1 µs each twin sends a STATE message over group T (R499). `hb` tells that a heartbeat edge has arrived since the report before. -/
  | twinStateReportTick (hb : Bool)
  /-- Every 10 µs a HEAD device sends a LEAD message on each in-service L group (R513). -/
  | headLeadRefresh
  /-- ALERT_N returns high, clearing ALERT_LEVEL and, after 1 µs high, re-enabling automatic alert reads after ALERT_STUCK (R450). ALERT_N[k] has been high for `ns` ns. -/
  | twAlertRelease (k ns : Nat)
  /-- SCL still low at twice the stretch limit puts the controller in the stuck state (R442). Controller `k`. -/
  | twSclStuckLimit (k : Nat)
  /-- A read of TWk_RDATA returns the next 4 read bytes of the oldest result and advances its byte position (R441). `i` reads TWk_RDATA. -/
  | twRdataRead (i : Initiator) (k : Nat)
  /-- The target's first read of a delivered source's status register samples the line for the spurious-claim test (R466). `i` reads what `r` names at its own addresses. -/
  | icClaimRead (i : Initiator) (r : ReadAt)
  /-- Twice the completion timeout after a timeout, the quarantined PCI Express tag may be reused (R356). Tag `t`. -/
  | pcieTagQuarantineEnd (t : Nat)
  deriving DecidableEq, Repr, Inhabited

end Sys2Proof
end

