-- ==== Sys2Proof/Decode.lean ====
section
/-! DEFINITION. Reading a command from a word. The table of commands (spec/opcode_table.json) gives no row any bits: a command reaches this
block as a transaction on one of its interfaces, or as an event, and no word spells it. -/

namespace Sys2Proof

/-- The command that the word `w` of `nbits` bits spells: none, as no row of the table has bits. -/
def decodeTableWord (_nbits _w : Nat) : Option Instr := none

end Sys2Proof
end

