-- ==== Sys2Proof/Config.lean ====
section
/-! DEFINITION. What the spec leaves open: free values without a body, drawn by number (`State.free` counts the draws), and the
functions of cited standards that the model does not compute (notes/assumptions/40.md). Nothing can be proved of them. -/

namespace Sys2Proof

/-- The free byte of draw `n`: content that the spec does not state. -/
opaque Config.byte (n : Nat) : Byte

/-- The free natural number of draw `n`. -/
opaque Config.nat (n : Nat) : Nat

/-- The free integer of draw `n`. -/
opaque Config.int (n : Nat) : Int

/-- What the spec does not state of a coded segment without its first line, and the width of a coded document without a line (R273): a
function of what the arguments list, so that both devices of a pair have the same (R281). -/
opaque Config.segment (of_ : List Nat) : Nat

/-- How many idle symbols the byte stream of a group has carried at device time `now` since its last packet or ordered set (R384, R386): when
symbols leave is timing that the model does not have. -/
opaque Config.idle (group now : Nat) : Nat

/-- The SLH-DSA signature of a message under the device's identity key (R559). -/
opaque Config.slhSign (message : List Nat) : List Nat

/-- Which of two good copies of the boot directory with equal SEQ the device uses; R547 does not say (0 the first, else the second). -/
opaque Config.dirTie (first second : List Nat) : Nat

/-- Word `k` of the header of the request or completion that a function receives at device time `now` (R370); commands carry no header. -/
opaque Config.tlpHeader (function now k : Nat) : Nat

/-- The subsystem IDs that an image gives (R358), as the double word at configuration offset 0x2C; the spec does not say where the
image holds them. -/
opaque Config.subsystem (image : List Nat) : Word

/-- The serial number that the partner reports (R379), as its 64 bits; the spec does not say how it comes over. -/
opaque Config.partnerDsn : Word64

/-- The public key in the boot ROM that MC0 firmware is checked against (R549). -/
opaque Config.vendorKey : List Nat

/-- Byte `k` of the identity public key made from the OTP seed (R558). -/
opaque Config.idByte (k : Nat) : Byte

/-- What the region descriptor of ACC_SET says (R554, R556): a region, or 64 for the default, and the words START, END and PERM. The spec
gives no layout for its 16 bytes. -/
opaque Config.accDescriptor (bytes : List Nat) : Nat × Word × Word × Word

/-- The bin words and the zone entries that an image gives a BU context (spec/09, "shares"); no register or section shows them. -/
opaque Config.buShare (image : List Nat) (bu context : Nat) : Nat × Nat

end Sys2Proof
end

