-- ==== Sys2Proof/Machine/RegMap.lean ====
section
/-! DEFINITION. The addresses of the BAR0 registers and the places of their fields, as the register descriptions of
spec/00 to spec/22 give them: `Reg.<NAME>` is a register's BAR0 byte offset (its instance numbers are the arguments, in
the order in which the name carries them), `Fld.<NAME>_<FIELD>` is a field of it. -/

namespace Sys2Proof.Machine

/-! ### Registers of spec/00_scope.md -/

def Reg.GLB_ID : Nat := 0x0
def Fld.GLB_ID_STEPPING : Fld := ⟨0, 8⟩
def Fld.GLB_ID_DEVICE : Fld := ⟨8, 16⟩
/-! ### Registers of spec/01_roles_and_installations.md -/

def Reg.GLB_ROLE : Nat := 0x10
def Fld.GLB_ROLE_STRAP_ROLE : Fld := ⟨0, 2⟩
def Fld.GLB_ROLE_IMAGE_ROLE : Fld := ⟨2, 2⟩
def Fld.GLB_ROLE_ROLE : Fld := ⟨4, 2⟩
def Fld.GLB_ROLE_ROLE_OK : Fld := ⟨6, 1⟩
def Fld.GLB_ROLE_ROLE_MISMATCH : Fld := ⟨7, 1⟩
def Fld.GLB_ROLE_TWIN_ID : Fld := ⟨8, 1⟩
def Fld.GLB_ROLE_PAIRED : Fld := ⟨9, 1⟩
def Fld.GLB_ROLE_LEAD : Fld := ⟨10, 1⟩
def Fld.GLB_ROLE_TWIN_ID_CONFLICT : Fld := ⟨11, 1⟩
def Fld.GLB_ROLE_SHARED_SENSORS : Fld := ⟨12, 1⟩
def Fld.GLB_ROLE_TOPOLOGY : Fld := ⟨13, 2⟩
/-! ### Registers of spec/02_configuration_image.md -/

def Reg.GLB_IMG_STATUS : Nat := 0x20
def Fld.GLB_IMG_STATUS_VERIFIED : Fld := ⟨0, 1⟩
def Fld.GLB_IMG_STATUS_SLOT : Fld := ⟨1, 1⟩
def Fld.GLB_IMG_STATUS_FALLBACK : Fld := ⟨2, 1⟩
def Fld.GLB_IMG_STATUS_FAIL_A : Fld := ⟨3, 4⟩
def Fld.GLB_IMG_STATUS_FAIL_B : Fld := ⟨7, 4⟩
def Fld.GLB_IMG_STATUS_APPLIED : Fld := ⟨11, 1⟩
def Fld.GLB_IMG_STATUS_RECIPE_COUNT : Fld := ⟨16, 4⟩
def Fld.GLB_IMG_STATUS_DEFAULT_RECIPE : Fld := ⟨20, 3⟩
def Reg.GLB_IMG_VERSION : Nat := 0x24
def Fld.GLB_IMG_VERSION_VERSION : Fld := ⟨0, 32⟩
def Reg.GLB_RECIPE_CTRL : Nat := 0x30
def Fld.GLB_RECIPE_CTRL_NEXT : Fld := ⟨0, 3⟩
def Fld.GLB_RECIPE_CTRL_SRC : Fld := ⟨3, 1⟩
def Fld.GLB_RECIPE_CTRL_CODE_BASE : Fld := ⟨8, 4⟩
def Fld.GLB_RECIPE_CTRL_CODE_STROBE : Fld := ⟨12, 4⟩
def Reg.GLB_RECIPE_STATUS : Nat := 0x34
def Fld.GLB_RECIPE_STATUS_LATCHED : Fld := ⟨0, 3⟩
def Fld.GLB_RECIPE_STATUS_LATCH_VALID : Fld := ⟨3, 1⟩
def Fld.GLB_RECIPE_STATUS_TRIG_CODE : Fld := ⟨4, 3⟩
def Fld.GLB_RECIPE_STATUS_PV_LOADING : Fld := ⟨8, 4⟩
def Fld.GLB_RECIPE_STATUS_PV_PENDING : Fld := ⟨12, 4⟩
def Reg.GLB_RECIPE_ACTIVE : Nat := 0x38
def Fld.GLB_RECIPE_ACTIVE_PV0 : Fld := ⟨0, 3⟩
def Fld.GLB_RECIPE_ACTIVE_PV1 : Fld := ⟨4, 3⟩
def Fld.GLB_RECIPE_ACTIVE_PV2 : Fld := ⟨8, 3⟩
def Fld.GLB_RECIPE_ACTIVE_PV3 : Fld := ⟨12, 3⟩
def Reg.GLB_RECIPE_LATE_CNT : Nat := 0x3C
def Fld.GLB_RECIPE_LATE_CNT_COUNT : Fld := ⟨0, 32⟩
def Reg.GLB_RECIPE_BAD_CNT : Nat := 0x40
def Fld.GLB_RECIPE_BAD_CNT_COUNT : Fld := ⟨0, 32⟩
def Reg.GLB_EXPERT_EN : Nat := 0x44
def Fld.GLB_EXPERT_EN_EN : Fld := ⟨0, 19⟩
def Reg.GLB_EXPERT_DENY_CNT : Nat := 0x48
def Fld.GLB_EXPERT_DENY_CNT_COUNT : Fld := ⟨0, 32⟩
def Reg.GLB_CONFLICT : Nat := 0x4C
def Fld.GLB_CONFLICT_SRC : Fld := ⟨0, 8⟩
def Fld.GLB_CONFLICT_INST : Fld := ⟨8, 8⟩
def Fld.GLB_CONFLICT_KIND : Fld := ⟨16, 2⟩
def Fld.GLB_CONFLICT_VALID : Fld := ⟨31, 1⟩
def Reg.GLB_CONFLICT_CNT : Nat := 0x50
def Fld.GLB_CONFLICT_CNT_COUNT : Fld := ⟨0, 32⟩
def Reg.GLB_IMG_DIGESTk (k : Nat) : Nat := 0x60 + 0x4 * k
def Fld.GLB_IMG_DIGESTk_DIGEST : Fld := ⟨0, 32⟩
/-! ### Registers of spec/03_pavilions_and_fabric.md -/

def Reg.PGL_STATUS : Nat := 0x300000
def Fld.PGL_STATUS_SHADOW_OVF : Fld := ⟨0, 1⟩
def Fld.PGL_STATUS_DECISION_TIMEOUT : Fld := ⟨1, 1⟩
def Fld.PGL_STATUS_SHADOW_APPLY : Fld := ⟨2, 1⟩
def Reg.PGL_DROP_LAST : Nat := 0x300004
def Fld.PGL_DROP_LAST_STREAM : Fld := ⟨0, 6⟩
def Fld.PGL_DROP_LAST_REASON : Fld := ⟨6, 2⟩
def Fld.PGL_DROP_LAST_PV : Fld := ⟨8, 2⟩
def Fld.PGL_DROP_LAST_VALID : Fld := ⟨31, 1⟩
def Reg.PGL_DROP_CNT : Nat := 0x300008
def Fld.PGL_DROP_CNT_COUNT : Fld := ⟨0, 32⟩
def Reg.PGL_CH_SEL : Nat := 0x30000C
def Fld.PGL_CH_SEL_CH : Fld := ⟨0, 6⟩
def Reg.PGL_CH_LEVEL : Nat := 0x300010
def Fld.PGL_CH_LEVEL_LEVEL_KIB : Fld := ⟨0, 16⟩
def Reg.PGL_CH_DROP_CNT : Nat := 0x300014
def Fld.PGL_CH_DROP_CNT_COUNT : Fld := ⟨0, 32⟩
def Reg.PGL_GH_CORR_CNT : Nat := 0x300018
def Fld.PGL_GH_CORR_CNT_COUNT : Fld := ⟨0, 32⟩
def Reg.PGL_GH_UNCORR_CNT : Nat := 0x30001C
def Fld.PGL_GH_UNCORR_CNT_COUNT : Fld := ⟨0, 32⟩
def Reg.PGL_GH_ERR : Nat := 0x300020
def Fld.PGL_GH_ERR_BANK : Fld := ⟨0, 6⟩
def Fld.PGL_GH_ERR_VALID : Fld := ⟨31, 1⟩
def Reg.PGL_INT_EN : Nat := 0x300024
def Fld.PGL_INT_EN_SHADOW_OVF : Fld := ⟨0, 1⟩
def Fld.PGL_INT_EN_DECISION_TIMEOUT : Fld := ⟨1, 1⟩
def Fld.PGL_INT_EN_DROP : Fld := ⟨2, 1⟩
def Fld.PGL_INT_EN_GH_ERR : Fld := ⟨3, 1⟩
def Reg.PGL_PVp_LEVEL (p : Nat) : Nat := 0x300030 + 0x4 * p
def Fld.PGL_PVp_LEVEL_LEVEL_KIB : Fld := ⟨0, 16⟩
def Fld.PGL_PVp_LEVEL_VICTIM : Fld := ⟨16, 6⟩
def Fld.PGL_PVp_LEVEL_DROP_STATE : Fld := ⟨31, 1⟩
def Reg.PGL_BANK_OWNERk (k : Nat) : Nat := 0x300040 + 0x4 * k
def Fld.PGL_BANK_OWNERk_OWNERj (i : Nat) : Fld := ⟨4 * i, 4⟩
def Reg.PGL_PVp_WM (p : Nat) : Nat := 0x300100 + 0x4 * p
def Fld.PGL_PVp_WM_HWM_KIB : Fld := ⟨0, 16⟩
def Fld.PGL_PVp_WM_LWM_KIB : Fld := ⟨16, 16⟩
def Reg.PGL_CHn_CFG (n : Nat) : Nat := 0x301000 + 0x10 * n
def Fld.PGL_CHn_CFG_PV : Fld := ⟨0, 2⟩
def Fld.PGL_CHn_CFG_WEIGHT : Fld := ⟨8, 8⟩
def Fld.PGL_CHn_CFG_PRIORITY : Fld := ⟨16, 4⟩
def Fld.PGL_CHn_CFG_ACTIVE : Fld := ⟨31, 1⟩
def Reg.PGL_CHn_QUOTA (n : Nat) : Nat := 0x301004 + 0x10 * n
def Fld.PGL_CHn_QUOTA_QUOTA_KIB : Fld := ⟨0, 16⟩
def Reg.PGL_CHn_ROUTE (n : Nat) : Nat := 0x301008 + 0x10 * n
def Fld.PGL_CHn_ROUTE_LU : Fld := ⟨0, 5⟩
def Fld.PGL_CHn_ROUTE_MU : Fld := ⟨8, 4⟩
def Fld.PGL_CHn_ROUTE_GU : Fld := ⟨12, 3⟩
def Fld.PGL_CHn_ROUTE_BU : Fld := ⟨16, 4⟩
def Fld.PGL_CHn_ROUTE_OF : Fld := ⟨20, 4⟩
def Fld.PGL_CHn_ROUTE_TAP : Fld := ⟨24, 1⟩
def Fld.PGL_CHn_ROUTE_SPARE_IN_USE : Fld := ⟨25, 1⟩
/-! ### Registers of spec/04_sensor_ports.md -/

def Reg.SPn_CTRL (n : Nat) : Nat := 0x100000 + 0x10000 * n
def Fld.SPn_CTRL_EN : Fld := ⟨0, 1⟩
def Reg.SPn_STATUS (n : Nat) : Nat := 0x100004 + 0x10000 * n
def Fld.SPn_STATUS_EVENT : Fld := ⟨0, 16⟩
def Fld.SPn_STATUS_DESKEW_FAIL : Fld := ⟨16, 1⟩
def Fld.SPn_STATUS_DESKEW_DONE : Fld := ⟨17, 1⟩
def Fld.SPn_STATUS_LISTEN : Fld := ⟨18, 1⟩
def Fld.SPn_STATUS_TERM_ACTIVE : Fld := ⟨19, 1⟩
def Fld.SPn_STATUS_ULPS : Fld := ⟨20, 1⟩
def Fld.SPn_STATUS_RX_ACTIVE : Fld := ⟨21, 1⟩
def Reg.SPn_INT_EN (n : Nat) : Nat := 0x100008 + 0x10000 * n
def Fld.SPn_INT_EN_EN : Fld := ⟨0, 17⟩
def Reg.SPn_FRAME_NUM (n : Nat) : Nat := 0x10000C + 0x10000 * n
def Fld.SPn_FRAME_NUM_NUM : Fld := ⟨0, 16⟩
def Fld.SPn_FRAME_NUM_VC : Fld := ⟨16, 4⟩
def Fld.SPn_FRAME_NUM_FE : Fld := ⟨20, 1⟩
def Reg.SPn_GSP_LAST (n : Nat) : Nat := 0x100010 + 0x10000 * n
def Fld.SPn_GSP_LAST_DATA : Fld := ⟨0, 16⟩
def Fld.SPn_GSP_LAST_DT : Fld := ⟨16, 6⟩
def Fld.SPn_GSP_LAST_VC : Fld := ⟨22, 4⟩
def Fld.SPn_GSP_LAST_VALID : Fld := ⟨31, 1⟩
def Reg.SPn_CNTk (n k : Nat) : Nat := 0x100040 + 0x10000 * n + 0x4 * k
def Fld.SPn_CNTk_COUNT : Fld := ⟨0, 32⟩
def Reg.SPn_PHY_CFG (n : Nat) : Nat := 0x100100 + 0x10000 * n
def Fld.SPn_PHY_CFG_LANES : Fld := ⟨0, 3⟩
def Fld.SPn_PHY_CFG_RATE : Fld := ⟨4, 13⟩
def Fld.SPn_PHY_CFG_VCX : Fld := ⟨17, 1⟩
def Fld.SPn_PHY_CFG_LISTEN : Fld := ⟨18, 1⟩
def Fld.SPn_PHY_CFG_DESKEW_REQ : Fld := ⟨19, 1⟩
def Reg.SPn_LANE_MAP (n : Nat) : Nat := 0x100104 + 0x10000 * n
def Fld.SPn_LANE_MAP_PHYSi (i : Nat) : Fld := ⟨2 * i, 2⟩
def Fld.SPn_LANE_MAP_POL : Fld := ⟨8, 4⟩
def Fld.SPn_LANE_MAP_CLK_POL : Fld := ⟨12, 1⟩
def Reg.SPn_LINE_TIMEOUT (n : Nat) : Nat := 0x100108 + 0x10000 * n
def Fld.SPn_LINE_TIMEOUT_TIMEOUT : Fld := ⟨0, 24⟩
def Reg.SPn_FRAME_TIMEOUT (n : Nat) : Nat := 0x10010C + 0x10000 * n
def Fld.SPn_FRAME_TIMEOUT_TIMEOUT : Fld := ⟨0, 24⟩
def Reg.SPn_FILL_VALUE (n : Nat) : Nat := 0x100110 + 0x10000 * n
def Fld.SPn_FILL_VALUE_VALUE : Fld := ⟨0, 16⟩
def Reg.SPn_FAULT_EN (n : Nat) : Nat := 0x100114 + 0x10000 * n
def Fld.SPn_FAULT_EN_EN : Fld := ⟨0, 17⟩
def Reg.SPn_DESKEW_STAT (n : Nat) : Nat := 0x100118 + 0x10000 * n
def Fld.SPn_DESKEW_STAT_LOCKED : Fld := ⟨0, 4⟩
def Reg.SPn_ENTk_CFG (n k : Nat) : Nat := 0x100140 + 0x10000 * n + 0x8 * k
def Fld.SPn_ENTk_CFG_VALID : Fld := ⟨0, 1⟩
def Fld.SPn_ENTk_CFG_MODE : Fld := ⟨1, 1⟩
def Fld.SPn_ENTk_CFG_TO_REF : Fld := ⟨2, 2⟩
def Fld.SPn_ENTk_CFG_VC : Fld := ⟨4, 4⟩
def Fld.SPn_ENTk_CFG_DT : Fld := ⟨8, 6⟩
def Fld.SPn_ENTk_CFG_STROBE : Fld := ⟨16, 5⟩
def Reg.SPn_ENTk_SIZE (n k : Nat) : Nat := 0x100144 + 0x10000 * n + 0x8 * k
def Fld.SPn_ENTk_SIZE_WIDTH : Fld := ⟨0, 16⟩
def Fld.SPn_ENTk_SIZE_FRAME_LINES : Fld := ⟨16, 16⟩
/-! ### Registers of spec/05_streams_documents_tags.md -/

def Reg.STn_STATUS (n : Nat) : Nat := 0x200000 + 0x100 * n
def Fld.STn_STATUS_ACTIVE : Fld := ⟨0, 1⟩
def Fld.STn_STATUS_IN_DOC : Fld := ⟨1, 1⟩
def Fld.STn_STATUS_SHORT_DOC : Fld := ⟨2, 1⟩
def Fld.STn_STATUS_TRUNC : Fld := ⟨3, 1⟩
def Fld.STn_STATUS_LATE_EDGE : Fld := ⟨4, 1⟩
def Fld.STn_STATUS_PHASE_SLIP : Fld := ⟨5, 1⟩
def Fld.STn_STATUS_DOC_END : Fld := ⟨6, 1⟩
def Reg.STn_INT_EN (n : Nat) : Nat := 0x200004 + 0x100 * n
def Fld.STn_INT_EN_EN : Fld := ⟨2, 5⟩
def Reg.STn_DOC_MIN_LINES (n : Nat) : Nat := 0x200008 + 0x100 * n
def Fld.STn_DOC_MIN_LINES_LINES : Fld := ⟨0, 16⟩
def Reg.STn_DOC_MAX_LINES (n : Nat) : Nat := 0x20000C + 0x100 * n
def Fld.STn_DOC_MAX_LINES_LINES : Fld := ⟨0, 16⟩
def Reg.STn_DOC_NUM (n : Nat) : Nat := 0x200010 + 0x100 * n
def Fld.STn_DOC_NUM_NUM : Fld := ⟨0, 32⟩
def Reg.STn_LINE_NUM (n : Nat) : Nat := 0x200014 + 0x100 * n
def Fld.STn_LINE_NUM_NEXT : Fld := ⟨0, 16⟩
def Reg.STn_CNTk (n k : Nat) : Nat := 0x200020 + 0x100 * n + 0x4 * k
def Fld.STn_CNTk_COUNT : Fld := ⟨0, 32⟩
def Reg.ST_BINDn (n : Nat) : Nat := 0x204000 + 0x10 * n
def Fld.ST_BINDn_PORT : Fld := ⟨0, 4⟩
def Fld.ST_BINDn_TUNNEL : Fld := ⟨4, 1⟩
def Fld.ST_BINDn_ENTRY : Fld := ⟨5, 3⟩
def Fld.ST_BINDn_NPH : Fld := ⟨8, 3⟩
def Fld.ST_BINDn_PHASE : Fld := ⟨11, 3⟩
def Fld.ST_BINDn_PH_SYNC : Fld := ⟨14, 1⟩
def Fld.ST_BINDn_SYNC_STB : Fld := ⟨15, 5⟩
def Fld.ST_BINDn_SEG : Fld := ⟨20, 2⟩
def Fld.ST_BINDn_CONT : Fld := ⟨22, 1⟩
def Fld.ST_BINDn_ENC : Fld := ⟨23, 1⟩
def Fld.ST_BINDn_TS_REF : Fld := ⟨24, 2⟩
def Fld.ST_BINDn_VALID : Fld := ⟨31, 1⟩
def Reg.ST_OFFSETn (n : Nat) : Nat := 0x204004 + 0x10 * n
def Fld.ST_OFFSETn_OFFSET : Fld := ⟨0, 32⟩
def Reg.ST_MARGINn (n : Nat) : Nat := 0x204008 + 0x10 * n
def Fld.ST_MARGINn_LEAD : Fld := ⟨0, 16⟩
def Fld.ST_MARGINn_TRAIL : Fld := ⟨16, 16⟩
def Reg.ST_PITCHn (n : Nat) : Nat := 0x20400C + 0x10 * n
def Fld.ST_PITCHn_PITCH : Fld := ⟨0, 24⟩
def Reg.ST_SEGs_CFG (s : Nat) : Nat := 0x204800 + 0x40 * s
def Fld.ST_SEGs_CFG_SRC : Fld := ⟨0, 2⟩
def Fld.ST_SEGs_CFG_IN_A : Fld := ⟨2, 4⟩
def Fld.ST_SEGs_CFG_IN_B : Fld := ⟨6, 4⟩
def Fld.ST_SEGs_CFG_ENC : Fld := ⟨10, 1⟩
def Fld.ST_SEGs_CFG_BG_STREAM : Fld := ⟨12, 6⟩
def Reg.ST_SEGs_DEBOUNCE (s : Nat) : Nat := 0x204804 + 0x40 * s
def Fld.ST_SEGs_DEBOUNCE_LEAD_DEB : Fld := ⟨0, 16⟩
def Fld.ST_SEGs_DEBOUNCE_TRAIL_DEB : Fld := ⟨16, 16⟩
def Reg.ST_SEGs_BG_WIN (s : Nat) : Nat := 0x204808 + 0x40 * s
def Fld.ST_SEGs_BG_WIN_X0 : Fld := ⟨0, 14⟩
def Fld.ST_SEGs_BG_WIN_X1 : Fld := ⟨16, 14⟩
def Reg.ST_SEGs_BG_THR (s : Nat) : Nat := 0x20480C + 0x40 * s
def Fld.ST_SEGs_BG_THR_BG_LEVEL : Fld := ⟨0, 16⟩
def Fld.ST_SEGs_BG_THR_DELTA : Fld := ⟨16, 16⟩
def Reg.ST_SEGs_BG_RUN (s : Nat) : Nat := 0x204810 + 0x40 * s
def Fld.ST_SEGs_BG_RUN_MIN_PX : Fld := ⟨0, 14⟩
def Fld.ST_SEGs_BG_RUN_ON_LINES : Fld := ⟨16, 8⟩
def Fld.ST_SEGs_BG_RUN_OFF_LINES : Fld := ⟨24, 8⟩
def Reg.ST_SEGs_NEXT_DOC (s : Nat) : Nat := 0x204814 + 0x40 * s
def Fld.ST_SEGs_NEXT_DOC_NUM : Fld := ⟨0, 32⟩
def Reg.ST_SEGs_LEAD_POS (s : Nat) : Nat := 0x204818 + 0x40 * s
def Fld.ST_SEGs_LEAD_POS_POS : Fld := ⟨0, 32⟩
def Reg.ST_SEGs_TRAIL_POS (s : Nat) : Nat := 0x20481C + 0x40 * s
def Fld.ST_SEGs_TRAIL_POS_POS : Fld := ⟨0, 32⟩
def Reg.ST_SEGs_STATE (s : Nat) : Nat := 0x204820 + 0x40 * s
def Fld.ST_SEGs_STATE_PRESENT : Fld := ⟨0, 1⟩
/-! ### Registers of spec/06_linearisation.md -/

def Reg.PVp_LUu_STATUS (p u : Nat) : Nat := 0x400000 + 0x40000 * p + 0x4000 * u
def Fld.PVp_LUu_STATUS_EVENT : Fld := ⟨0, 7⟩
def Fld.PVp_LUu_STATUS_CTX_ACTIVE : Fld := ⟨16, 8⟩
def Reg.PVp_LUu_INT_EN (p u : Nat) : Nat := 0x400004 + 0x40000 * p + 0x4000 * u
def Fld.PVp_LUu_INT_EN_EN : Fld := ⟨0, 7⟩
def Reg.PVp_LUu_TBL_ADDR (p u : Nat) : Nat := 0x400008 + 0x40000 * p + 0x4000 * u
def Fld.PVp_LUu_TBL_ADDR_ADDR : Fld := ⟨0, 15⟩
def Reg.PVp_LUu_TBL_DATA (p u : Nat) : Nat := 0x40000C + 0x40000 * p + 0x4000 * u
def Fld.PVp_LUu_TBL_DATA_DATA : Fld := ⟨0, 32⟩
def Reg.PVp_LUu_CTXc_GAIN (p u c : Nat) : Nat := 0x400010 + 0x40000 * p + 0x4000 * u + 0x4 * c
def Fld.PVp_LUu_CTXc_GAIN_GG : Fld := ⟨0, 16⟩
def Reg.PVp_LUu_CTXc_SWITCH (p u c : Nat) : Nat := 0x400030 + 0x40000 * p + 0x4000 * u + 0x8 * c
def Fld.PVp_LUu_CTXc_SWITCH_BANK : Fld := ⟨0, 1⟩
def Fld.PVp_LUu_CTXc_SWITCH_CAL : Fld := ⟨1, 1⟩
def Reg.PVp_LUu_CTXc_SWITCH_DOC (p u c : Nat) : Nat := 0x400034 + 0x40000 * p + 0x4000 * u + 0x8 * c
def Fld.PVp_LUu_CTXc_SWITCH_DOC_DOC : Fld := ⟨0, 32⟩
def Reg.PVp_LUu_CTXc_STATE (p u c : Nat) : Nat := 0x400070 + 0x40000 * p + 0x4000 * u + 0x4 * c
def Fld.PVp_LUu_CTXc_STATE_BANK : Fld := ⟨0, 1⟩
def Fld.PVp_LUu_CTXc_STATE_CAL : Fld := ⟨1, 1⟩
def Fld.PVp_LUu_CTXc_STATE_DARK_VALID : Fld := ⟨2, 1⟩
def Reg.PVp_LUu_CTXc_DARK (p u c : Nat) : Nat := 0x400090 + 0x40000 * p + 0x4000 * u + 0x4 * c
def Fld.PVp_LUu_CTXc_DARK_D : Fld := ⟨0, 16⟩
def Reg.PVp_LUu_CNTk (p u k : Nat) : Nat := 0x4000C0 + 0x40000 * p + 0x4000 * u + 0x4 * k
def Fld.PVp_LUu_CNTk_COUNT : Fld := ⟨0, 32⟩
def Reg.PVp_LUu_CTXc_CFG (p u c : Nat) : Nat := 0x400100 + 0x40000 * p + 0x4000 * u + 0x20 * c
def Fld.PVp_LUu_CTXc_CFG_STREAM : Fld := ⟨0, 6⟩
def Fld.PVp_LUu_CTXc_CFG_VALID : Fld := ⟨6, 1⟩
def Fld.PVp_LUu_CTXc_CFG_BITS : Fld := ⟨8, 4⟩
def Fld.PVp_LUu_CTXc_CFG_LUT_EN : Fld := ⟨12, 1⟩
def Fld.PVp_LUu_CTXc_CFG_DARK_EN : Fld := ⟨13, 1⟩
def Fld.PVp_LUu_CTXc_CFG_DARK_K : Fld := ⟨14, 3⟩
def Fld.PVp_LUu_CTXc_CFG_DEFECT_EN : Fld := ⟨17, 1⟩
def Reg.PVp_LUu_CTXc_TBL (p u c : Nat) : Nat := 0x400104 + 0x40000 * p + 0x4000 * u + 0x20 * c
def Fld.PVp_LUu_CTXc_TBL_BASE_A : Fld := ⟨0, 15⟩
def Fld.PVp_LUu_CTXc_TBL_BASE_B : Fld := ⟨16, 15⟩
def Reg.PVp_LUu_CTXc_BLACK (p u c : Nat) : Nat := 0x400108 + 0x40000 * p + 0x4000 * u + 0x20 * c
def Fld.PVp_LUu_CTXc_BLACK_OFFSET : Fld := ⟨0, 16⟩
def Fld.PVp_LUu_CTXc_BLACK_PEDESTAL : Fld := ⟨16, 16⟩
def Reg.PVp_LUu_CTXc_DARK_WIN (p u c : Nat) : Nat := 0x40010C + 0x40000 * p + 0x4000 * u + 0x20 * c
def Fld.PVp_LUu_CTXc_DARK_WIN_DX0 : Fld := ⟨0, 14⟩
def Fld.PVp_LUu_CTXc_DARK_WIN_DLOG2N : Fld := ⟨16, 3⟩
def Reg.PVp_LUu_CTXc_DARK_INIT (p u c : Nat) : Nat := 0x400110 + 0x40000 * p + 0x4000 * u + 0x20 * c
def Fld.PVp_LUu_CTXc_DARK_INIT_INIT : Fld := ⟨0, 16⟩
def Reg.PVp_LUu_CTXc_LUTk (p u c k : Nat) : Nat := 0x401000 + 0x40000 * p + 0x4000 * u + 0x400 * c + 0x4 * k
def Fld.PVp_LUu_CTXc_LUTk_ENTRY_LO : Fld := ⟨0, 16⟩
def Fld.PVp_LUu_CTXc_LUTk_ENTRY_HI : Fld := ⟨16, 16⟩
/-! ### Registers of spec/07_exposure_merge.md -/

def Reg.PVp_MUu_STATUS (p u : Nat) : Nat := 0x410000 + 0x40000 * p + 0x4000 * u
def Fld.PVp_MUu_STATUS_EVENT : Fld := ⟨0, 7⟩
def Fld.PVp_MUu_STATUS_SHADOW_WAIT : Fld := ⟨7, 1⟩
def Fld.PVp_MUu_STATUS_CTX_ACTIVE : Fld := ⟨16, 8⟩
def Fld.PVp_MUu_STATUS_GRP_ACTIVE : Fld := ⟨24, 4⟩
def Reg.PVp_MUu_INT_EN (p u : Nat) : Nat := 0x410004 + 0x40000 * p + 0x4000 * u
def Fld.PVp_MUu_INT_EN_EN : Fld := ⟨0, 8⟩
def Reg.PVp_MUu_GRPg_VEL (p u g : Nat) : Nat := 0x410010 + 0x40000 * p + 0x4000 * u + 0x4 * g
def Fld.PVp_MUu_GRPg_VEL_VEL : Fld := ⟨0, 32⟩
def Reg.PVp_MUu_CTXc_OFFSET (p u c : Nat) : Nat := 0x410020 + 0x40000 * p + 0x4000 * u + 0x4 * c
def Fld.PVp_MUu_CTXc_OFFSET_DELTA64 : Fld := ⟨0, 16⟩
def Reg.PVp_MUu_CTXc_EXP (p u c : Nat) : Nat := 0x410040 + 0x40000 * p + 0x4000 * u + 0x4 * c
def Fld.PVp_MUu_CTXc_EXP_RATIO : Fld := ⟨0, 16⟩
def Fld.PVp_MUu_CTXc_EXP_CENTRE : Fld := ⟨16, 16⟩
def Reg.PVp_MUu_CNTk (p u k : Nat) : Nat := 0x410080 + 0x40000 * p + 0x4000 * u + 0x4 * k
def Fld.PVp_MUu_CNTk_COUNT : Fld := ⟨0, 32⟩
def Reg.PVp_MUu_CTXc_CFG (p u c : Nat) : Nat := 0x410100 + 0x40000 * p + 0x4000 * u + 0x20 * c
def Fld.PVp_MUu_CTXc_CFG_STREAM : Fld := ⟨0, 6⟩
def Fld.PVp_MUu_CTXc_CFG_VALID : Fld := ⟨6, 1⟩
def Fld.PVp_MUu_CTXc_CFG_REF : Fld := ⟨7, 1⟩
def Fld.PVp_MUu_CTXc_CFG_GROUP : Fld := ⟨8, 2⟩
def Fld.PVp_MUu_CTXc_CFG_OUT_CH : Fld := ⟨12, 3⟩
def Reg.PVp_MUu_CTXc_WIN (p u c : Nat) : Nat := 0x410104 + 0x40000 * p + 0x4000 * u + 0x20 * c
def Fld.PVp_MUu_CTXc_WIN_LO : Fld := ⟨0, 4⟩
def Fld.PVp_MUu_CTXc_WIN_HI : Fld := ⟨8, 4⟩
def Reg.PVp_MUu_CTXc_SAT (p u c : Nat) : Nat := 0x410108 + 0x40000 * p + 0x4000 * u + 0x20 * c
def Fld.PVp_MUu_CTXc_SAT_SAT_THR : Fld := ⟨0, 16⟩
def Fld.PVp_MUu_CTXc_SAT_SAT_EN : Fld := ⟨16, 1⟩
def Reg.PVp_MUu_GRPg_CFG (p u g : Nat) : Nat := 0x410200 + 0x40000 * p + 0x4000 * u + 0x20 * g
def Fld.PVp_MUu_GRPg_CFG_NCH : Fld := ⟨0, 4⟩
def Fld.PVp_MUu_GRPg_CFG_VALID : Fld := ⟨4, 1⟩
def Fld.PVp_MUu_GRPg_CFG_COMP : Fld := ⟨5, 1⟩
def Fld.PVp_MUu_GRPg_CFG_SHIFT : Fld := ⟨8, 3⟩
def Fld.PVp_MUu_GRPg_CFG_KSHIFT : Fld := ⟨12, 4⟩
def Fld.PVp_MUu_GRPg_CFG_VLOG2N : Fld := ⟨16, 3⟩
def Reg.PVp_MUu_GRPg_KNEE (p u g : Nat) : Nat := 0x410204 + 0x40000 * p + 0x4000 * u + 0x20 * g
def Fld.PVp_MUu_GRPg_KNEE_KNEE : Fld := ⟨0, 16⟩
def Reg.PVp_MUu_GRPg_VEL_INIT (p u g : Nat) : Nat := 0x410208 + 0x40000 * p + 0x4000 * u + 0x20 * g
def Fld.PVp_MUu_GRPg_VEL_INIT_VEL : Fld := ⟨0, 32⟩
def Reg.PVp_MUu_GRPg_TIMEOUT (p u g : Nat) : Nat := 0x41020C + 0x40000 * p + 0x4000 * u + 0x20 * g
def Fld.PVp_MUu_GRPg_TIMEOUT_TIMEOUT : Fld := ⟨0, 24⟩
def Reg.PVp_MUu_CTXc_WTk (p u c k : Nat) : Nat := 0x410400 + 0x40000 * p + 0x4000 * u + 0x40 * c + 0x4 * k
def Fld.PVp_MUu_CTXc_WTk_W0 : Fld := ⟨0, 8⟩
def Fld.PVp_MUu_CTXc_WTk_W1 : Fld := ⟨8, 8⟩
def Fld.PVp_MUu_CTXc_WTk_W2 : Fld := ⟨16, 8⟩
def Fld.PVp_MUu_CTXc_WTk_W3 : Fld := ⟨24, 8⟩
/-! ### Registers of spec/08_geometry.md -/

def Reg.PVp_GU_STATUS (p : Nat) : Nat := 0x420000 + 0x40000 * p
def Fld.PVp_GU_STATUS_EVENT : Fld := ⟨0, 10⟩
def Fld.PVp_GU_STATUS_SHADOW_OVF : Fld := ⟨10, 1⟩
def Fld.PVp_GU_STATUS_DECISION_TIMEOUT : Fld := ⟨11, 1⟩
def Reg.PVp_GU_INT_EN (p : Nat) : Nat := 0x420004 + 0x40000 * p
def Fld.PVp_GU_INT_EN_EN : Fld := ⟨0, 12⟩
def Reg.PVp_GU_PATHq_CROP (p q : Nat) : Nat := 0x420010 + 0x40000 * p + 0x4 * q
def Fld.PVp_GU_PATHq_CROP_CX0 : Fld := ⟨0, 14⟩
def Fld.PVp_GU_PATHq_CROP_CX1 : Fld := ⟨16, 14⟩
def Reg.PVp_GU_PATHq_CTRL (p q : Nat) : Nat := 0x420030 + 0x40000 * p + 0x4 * q
def Fld.PVp_GU_PATHq_CTRL_DSK_MODE : Fld := ⟨0, 2⟩
def Fld.PVp_GU_PATHq_CTRL_INTERP : Fld := ⟨2, 1⟩
def Reg.PVp_GU_PATHq_ANGLE (p q : Nat) : Nat := 0x420050 + 0x40000 * p + 0x4 * q
def Fld.PVp_GU_PATHq_ANGLE_SLOPE : Fld := ⟨0, 16⟩
def Fld.PVp_GU_PATHq_ANGLE_FALLBACK : Fld := ⟨16, 1⟩
def Fld.PVp_GU_PATHq_ANGLE_LIMITED : Fld := ⟨17, 1⟩
def Fld.PVp_GU_PATHq_ANGLE_FOLLOWED : Fld := ⟨18, 1⟩
def Reg.PVp_GU_PATHq_SIZE (p q : Nat) : Nat := 0x420070 + 0x40000 * p + 0x4 * q
def Fld.PVp_GU_PATHq_SIZE_WIDTH : Fld := ⟨0, 15⟩
def Fld.PVp_GU_PATHq_SIZE_LINES : Fld := ⟨16, 16⟩
def Reg.PVp_GU_CTXc_LEVEL (p c : Nat) : Nat := 0x420090 + 0x40000 * p + 0x4 * c
def Fld.PVp_GU_CTXc_LEVEL_LINES : Fld := ⟨0, 16⟩
def Reg.PVp_GU_CNTk (p k : Nat) : Nat := 0x4200C0 + 0x40000 * p + 0x4 * k
def Fld.PVp_GU_CNTk_COUNT : Fld := ⟨0, 32⟩
def Reg.PVp_GU_CTXc_CFG (p c : Nat) : Nat := 0x420100 + 0x40000 * p + 0x20 * c
def Fld.PVp_GU_CTXc_CFG_STREAM : Fld := ⟨0, 6⟩
def Fld.PVp_GU_CTXc_CFG_VALID : Fld := ⟨6, 1⟩
def Fld.PVp_GU_CTXc_CFG_PATH : Fld := ⟨8, 3⟩
def Fld.PVp_GU_CTXc_CFG_SIDE : Fld := ⟨11, 1⟩
def Fld.PVp_GU_CTXc_CFG_NCH : Fld := ⟨12, 4⟩
def Fld.PVp_GU_CTXc_CFG_GRID_INTERP : Fld := ⟨16, 1⟩
def Reg.PVp_GU_CTXc_GRID (p c : Nat) : Nat := 0x420104 + 0x40000 * p + 0x20 * c
def Fld.PVp_GU_CTXc_GRID_PITCH : Fld := ⟨0, 24⟩
def Reg.PVp_GU_CTXc_DELAY (p c : Nat) : Nat := 0x420108 + 0x40000 * p + 0x20 * c
def Fld.PVp_GU_CTXc_DELAY_DELAY : Fld := ⟨0, 32⟩
def Reg.PVp_GU_CTXc_RING_BASE (p c : Nat) : Nat := 0x42010C + 0x40000 * p + 0x20 * c
def Fld.PVp_GU_CTXc_RING_BASE_BASE : Fld := ⟨0, 18⟩
def Reg.PVp_GU_CTXc_RING_LINES (p c : Nat) : Nat := 0x420110 + 0x40000 * p + 0x20 * c
def Fld.PVp_GU_CTXc_RING_LINES_LINES : Fld := ⟨0, 16⟩
def Reg.PVp_GU_PATHq_CFG (p q : Nat) : Nat := 0x420200 + 0x40000 * p + 0x40 * q
def Fld.PVp_GU_PATHq_CFG_CTX_A : Fld := ⟨0, 3⟩
def Fld.PVp_GU_PATHq_CFG_CTX_B : Fld := ⟨3, 3⟩
def Fld.PVp_GU_PATHq_CFG_STITCH : Fld := ⟨6, 1⟩
def Fld.PVp_GU_PATHq_CFG_XFLIP : Fld := ⟨7, 1⟩
def Fld.PVp_GU_PATHq_CFG_BLEND : Fld := ⟨8, 1⟩
def Fld.PVp_GU_PATHq_CFG_OV : Fld := ⟨16, 8⟩
def Fld.PVp_GU_PATHq_CFG_VALID : Fld := ⟨24, 1⟩
def Reg.PVp_GU_PATHq_FILL (p q : Nat) : Nat := 0x420204 + 0x40000 * p + 0x40 * q
def Fld.PVp_GU_PATHq_FILL_FILL : Fld := ⟨0, 16⟩
def Reg.PVp_GU_PATHq_EDGE_WIN (p q : Nat) : Nat := 0x420208 + 0x40000 * p + 0x40 * q
def Fld.PVp_GU_PATHq_EDGE_WIN_EX0 : Fld := ⟨0, 14⟩
def Fld.PVp_GU_PATHq_EDGE_WIN_EX1 : Fld := ⟨16, 14⟩
def Reg.PVp_GU_PATHq_EDGE_THR (p q : Nat) : Nat := 0x42020C + 0x40000 * p + 0x40 * q
def Fld.PVp_GU_PATHq_EDGE_THR_BG_LEVEL : Fld := ⟨0, 16⟩
def Fld.PVp_GU_PATHq_EDGE_THR_DELTA : Fld := ⟨16, 16⟩
def Reg.PVp_GU_PATHq_EDGE_CFG (p q : Nat) : Nat := 0x420210 + 0x40000 * p + 0x40 * q
def Fld.PVp_GU_PATHq_EDGE_CFG_EDGE_CH : Fld := ⟨0, 3⟩
def Fld.PVp_GU_PATHq_EDGE_CFG_RUN : Fld := ⟨4, 4⟩
def Fld.PVp_GU_PATHq_EDGE_CFG_FIT : Fld := ⟨8, 2⟩
def Reg.PVp_GU_PATHq_MEAS (p q : Nat) : Nat := 0x420214 + 0x40000 * p + 0x40 * q
def Fld.PVp_GU_PATHq_MEAS_SKIP : Fld := ⟨0, 11⟩
def Fld.PVp_GU_PATHq_MEAS_MEAS : Fld := ⟨12, 11⟩
def Fld.PVp_GU_PATHq_MEAS_MIN_PTS : Fld := ⟨24, 8⟩
def Reg.PVp_GU_PATHq_BOX (p q : Nat) : Nat := 0x420218 + 0x40000 * p + 0x40 * q
def Fld.PVp_GU_PATHq_BOX_MARGIN : Fld := ⟨0, 8⟩
def Fld.PVp_GU_PATHq_BOX_PUB_SLOT : Fld := ⟨8, 2⟩
def Fld.PVp_GU_PATHq_BOX_PUB_EN : Fld := ⟨10, 1⟩
def Fld.PVp_GU_PATHq_BOX_FOL_SLOT : Fld := ⟨11, 2⟩
def Fld.PVp_GU_PATHq_BOX_FOL_EN : Fld := ⟨13, 1⟩
def Fld.PVp_GU_PATHq_BOX_SCALE : Fld := ⟨14, 2⟩
def Reg.PVp_GU_PATHq_BOX_OFF (p q : Nat) : Nat := 0x42021C + 0x40000 * p + 0x40 * q
def Fld.PVp_GU_PATHq_BOX_OFF_XOFF : Fld := ⟨0, 16⟩
def Fld.PVp_GU_PATHq_BOX_OFF_YOFF : Fld := ⟨16, 16⟩
def Reg.PVp_GU_PATHq_LIMIT (p q : Nat) : Nat := 0x420220 + 0x40000 * p + 0x40 * q
def Fld.PVp_GU_PATHq_LIMIT_WMAX : Fld := ⟨0, 15⟩
def Fld.PVp_GU_PATHq_LIMIT_LMAX : Fld := ⟨16, 16⟩
/-! ### Registers of spec/09_statistics.md -/

def Reg.PVp_BUu_STATUS (p u : Nat) : Nat := 0x428000 + 0x40000 * p + 0x4000 * u
def Fld.PVp_BUu_STATUS_EVENT : Fld := ⟨0, 5⟩
def Fld.PVp_BUu_STATUS_CTX_ACTIVE : Fld := ⟨16, 8⟩
def Reg.PVp_BUu_INT_EN (p u : Nat) : Nat := 0x428004 + 0x40000 * p + 0x4000 * u
def Fld.PVp_BUu_INT_EN_EN : Fld := ⟨0, 5⟩
def Reg.PVp_BUu_CTXc_SEQ (p u c : Nat) : Nat := 0x428020 + 0x40000 * p + 0x4000 * u + 0x4 * c
def Fld.PVp_BUu_CTXc_SEQ_SEQ : Fld := ⟨0, 32⟩
def Reg.PVp_BUu_CTXc_REC (p u c : Nat) : Nat := 0x428040 + 0x40000 * p + 0x4000 * u + 0x4 * c
def Fld.PVp_BUu_CTXc_REC_ADDR : Fld := ⟨0, 28⟩
def Reg.PVp_BUu_CNTk (p u k : Nat) : Nat := 0x4280C0 + 0x40000 * p + 0x4000 * u + 0x4 * k
def Fld.PVp_BUu_CNTk_COUNT : Fld := ⟨0, 32⟩
def Reg.PVp_BUu_CTXc_CFG (p u c : Nat) : Nat := 0x428100 + 0x40000 * p + 0x4000 * u + 0x40 * c
def Fld.PVp_BUu_CTXc_CFG_STREAM : Fld := ⟨0, 6⟩
def Fld.PVp_BUu_CTXc_CFG_VALID : Fld := ⟨6, 1⟩
def Fld.PVp_BUu_CTXc_CFG_TAP : Fld := ⟨7, 1⟩
def Fld.PVp_BUu_CTXc_CFG_NCH : Fld := ⟨8, 4⟩
def Fld.PVp_BUu_CTXc_CFG_HBINS : Fld := ⟨12, 1⟩
def Fld.PVp_BUu_CTXc_CFG_HSHIFT : Fld := ⟨16, 4⟩
def Fld.PVp_BUu_CTXc_CFG_REG_EN : Fld := ⟨20, 4⟩
def Fld.PVp_BUu_CTXc_CFG_OS : Fld := ⟨24, 5⟩
def Fld.PVp_BUu_CTXc_CFG_OS_EN : Fld := ⟨29, 1⟩
def Fld.PVp_BUu_CTXc_CFG_REC_IDX : Fld := ⟨30, 1⟩
def Reg.PVp_BUu_CTXc_EXCL (p u c : Nat) : Nat := 0x428104 + 0x40000 * p + 0x4000 * u + 0x40 * c
def Fld.PVp_BUu_CTXc_EXCL_MASK : Fld := ⟨0, 16⟩
def Reg.PVp_BUu_CTXc_WIN (p u c : Nat) : Nat := 0x428108 + 0x40000 * p + 0x4000 * u + 0x40 * c
def Fld.PVp_BUu_CTXc_WIN_LINES : Fld := ⟨0, 16⟩
def Reg.PVp_BUu_CTXc_ZGRID (p u c : Nat) : Nat := 0x42810C + 0x40000 * p + 0x4000 * u + 0x40 * c
def Fld.PVp_BUu_CTXc_ZGRID_ZX : Fld := ⟨0, 6⟩
def Fld.PVp_BUu_CTXc_ZGRID_ZY : Fld := ⟨8, 6⟩
def Fld.PVp_BUu_CTXc_ZGRID_ZSAT_THR : Fld := ⟨16, 16⟩
def Reg.PVp_BUu_CTXc_ZORG (p u c : Nat) : Nat := 0x428110 + 0x40000 * p + 0x4000 * u + 0x40 * c
def Fld.PVp_BUu_CTXc_ZORG_ZX0 : Fld := ⟨0, 14⟩
def Fld.PVp_BUu_CTXc_ZORG_ZY0 : Fld := ⟨16, 15⟩
def Reg.PVp_BUu_CTXc_ZSIZE (p u c : Nat) : Nat := 0x428114 + 0x40000 * p + 0x4000 * u + 0x40 * c
def Fld.PVp_BUu_CTXc_ZSIZE_ZW : Fld := ⟨0, 14⟩
def Fld.PVp_BUu_CTXc_ZSIZE_ZH : Fld := ⟨16, 15⟩
def Reg.PVp_BUu_CTXc_RING (p u c : Nat) : Nat := 0x428118 + 0x40000 * p + 0x4000 * u + 0x40 * c
def Fld.PVp_BUu_CTXc_RING_NSLOT : Fld := ⟨0, 9⟩
def Fld.PVp_BUu_CTXc_RING_SLOT_SIZE : Fld := ⟨16, 12⟩
def Reg.PVp_BUu_CTXc_REC_BASE (p u c : Nat) : Nat := 0x42811C + 0x40000 * p + 0x4000 * u + 0x40 * c
def Fld.PVp_BUu_CTXc_REC_BASE_BASE : Fld := ⟨0, 28⟩
def Reg.PVp_BUu_CTXc_REGr_X (p u c r : Nat) : Nat := 0x428120 + 0x40000 * p + 0x4000 * u + 0x40 * c + 0x8 * r
def Fld.PVp_BUu_CTXc_REGr_X_X0 : Fld := ⟨0, 14⟩
def Fld.PVp_BUu_CTXc_REGr_X_X1 : Fld := ⟨16, 14⟩
def Reg.PVp_BUu_CTXc_REGr_Y (p u c r : Nat) : Nat := 0x428124 + 0x40000 * p + 0x4000 * u + 0x40 * c + 0x8 * r
def Fld.PVp_BUu_CTXc_REGr_Y_Y0 : Fld := ⟨0, 15⟩
def Fld.PVp_BUu_CTXc_REGr_Y_Y1 : Fld := ⟨16, 15⟩
/-! ### Registers of spec/10_output_and_seals.md -/

def Reg.PVp_OFu_STATUS (p u : Nat) : Nat := 0x430000 + 0x40000 * p + 0x4000 * u
def Fld.PVp_OFu_STATUS_EVENT : Fld := ⟨0, 5⟩
def Fld.PVp_OFu_STATUS_CTX_ACTIVE : Fld := ⟨16, 8⟩
def Reg.PVp_OFu_INT_EN (p u : Nat) : Nat := 0x430004 + 0x40000 * p + 0x4000 * u
def Fld.PVp_OFu_INT_EN_EN : Fld := ⟨0, 5⟩
def Reg.PVp_OFu_CNTk (p u k : Nat) : Nat := 0x4300C0 + 0x40000 * p + 0x4000 * u + 0x4 * k
def Fld.PVp_OFu_CNTk_COUNT : Fld := ⟨0, 32⟩
def Reg.PVp_OFu_CTXc_CFG (p u c : Nat) : Nat := 0x430100 + 0x40000 * p + 0x4000 * u + 0x20 * c
def Fld.PVp_OFu_CTXc_CFG_STREAM : Fld := ⟨0, 6⟩
def Fld.PVp_OFu_CTXc_CFG_VALID : Fld := ⟨6, 1⟩
def Fld.PVp_OFu_CTXc_CFG_OS_A : Fld := ⟨8, 5⟩
def Fld.PVp_OFu_CTXc_CFG_OS_B : Fld := ⟨14, 5⟩
def Fld.PVp_OFu_CTXc_CFG_OS_B_EN : Fld := ⟨19, 1⟩
def Reg.OSn_CTRL (n : Nat) : Nat := 0x500000 + 0x800 * n
def Fld.OSn_CTRL_EN : Fld := ⟨0, 1⟩
def Reg.OSn_STATUS (n : Nat) : Nat := 0x500004 + 0x800 * n
def Fld.OSn_STATUS_EVENT : Fld := ⟨0, 7⟩
def Fld.OSn_STATUS_STALL : Fld := ⟨16, 1⟩
def Reg.OSn_INT_EN (n : Nat) : Nat := 0x500008 + 0x800 * n
def Fld.OSn_INT_EN_EN : Fld := ⟨0, 7⟩
def Reg.OSn_LAST_SEAL (n : Nat) : Nat := 0x50000C + 0x800 * n
def Fld.OSn_LAST_SEAL_SEAL : Fld := ⟨0, 32⟩
def Reg.OSn_LAST_DOC (n : Nat) : Nat := 0x500010 + 0x800 * n
def Fld.OSn_LAST_DOC_DOC : Fld := ⟨0, 32⟩
def Reg.OSn_LAST_LINE (n : Nat) : Nat := 0x500014 + 0x800 * n
def Fld.OSn_LAST_LINE_LINE : Fld := ⟨0, 32⟩
def Reg.OSn_CNTk (n k : Nat) : Nat := 0x500040 + 0x800 * n + 0x4 * k
def Fld.OSn_CNTk_COUNT : Fld := ⟨0, 32⟩
def Reg.OSn_CFG (n : Nat) : Nat := 0x500100 + 0x800 * n
def Fld.OSn_CFG_SRC : Fld := ⟨0, 1⟩
def Fld.OSn_CFG_DEST : Fld := ⟨1, 2⟩
def Fld.OSn_CFG_GROUP : Fld := ⟨3, 1⟩
def Fld.OSn_CFG_REMOTE_OS : Fld := ⟨4, 5⟩
def Fld.OSn_CFG_VALID : Fld := ⟨31, 1⟩
def Reg.OSn_FMT (n : Nat) : Nat := 0x500104 + 0x800 * n
def Fld.OSn_FMT_BITS : Fld := ⟨0, 3⟩
def Fld.OSn_FMT_PLANAR : Fld := ⟨3, 1⟩
def Fld.OSn_FMT_NSEL : Fld := ⟨4, 4⟩
def Reg.OSn_CHSEL (n : Nat) : Nat := 0x500108 + 0x800 * n
def Fld.OSn_CHSEL_SELi (i : Nat) : Fld := ⟨3 * i, 3⟩
def Reg.OSn_JLS (n : Nat) : Nat := 0x50010C + 0x800 * n
def Fld.OSn_JLS_EN : Fld := ⟨0, 1⟩
def Fld.OSn_JLS_NEAR : Fld := ⟨1, 3⟩
def Fld.OSn_JLS_THR_EXPL : Fld := ⟨4, 1⟩
def Fld.OSn_JLS_SEG_LINES : Fld := ⟨5, 11⟩
def Reg.OSn_JLS_THR (n : Nat) : Nat := 0x500110 + 0x800 * n
def Fld.OSn_JLS_THR_T1 : Fld := ⟨0, 16⟩
def Fld.OSn_JLS_THR_T2 : Fld := ⟨16, 16⟩
def Reg.OSn_JLS_THR2 (n : Nat) : Nat := 0x500114 + 0x800 * n
def Fld.OSn_JLS_THR2_T3 : Fld := ⟨0, 16⟩
def Fld.OSn_JLS_THR2_RESET : Fld := ⟨16, 8⟩
def Reg.OSn_STATS_BASE_LO (n : Nat) : Nat := 0x500118 + 0x800 * n
def Fld.OSn_STATS_BASE_LO_BASE : Fld := ⟨6, 26⟩
def Reg.OSn_STATS_BASE_HI (n : Nat) : Nat := 0x50011C + 0x800 * n
def Fld.OSn_STATS_BASE_HI_BASE : Fld := ⟨0, 32⟩
def Reg.OSn_STATS_SIZE (n : Nat) : Nat := 0x500120 + 0x800 * n
def Fld.OSn_STATS_SIZE_SIZE : Fld := ⟨6, 26⟩
/-! ### Registers of spec/11_time_triggers_encoders.md -/

def Reg.TB_STATUS : Nat := 0x600000
def Fld.TB_STATUS_SCHED : Fld := ⟨0, 8⟩
def Fld.TB_STATUS_SCHED_MISS : Fld := ⟨8, 1⟩
def Fld.TB_STATUS_STB_OVR : Fld := ⟨9, 1⟩
def Fld.TB_STATUS_ENC_ERR : Fld := ⟨10, 2⟩
def Fld.TB_STATUS_TIME_STEP : Fld := ⟨12, 1⟩
def Fld.TB_STATUS_SNAP : Fld := ⟨13, 1⟩
def Fld.TB_STATUS_STOPPED : Fld := ⟨14, 2⟩
def Reg.TB_INT_EN : Nat := 0x600004
def Fld.TB_INT_EN_EN : Fld := ⟨0, 14⟩
def Reg.TB_TIME_LO : Nat := 0x600008
def Fld.TB_TIME_LO_TIME : Fld := ⟨0, 32⟩
def Reg.TB_TIME_HI : Nat := 0x60000C
def Fld.TB_TIME_HI_TIME : Fld := ⟨0, 32⟩
def Reg.TB_ENCk_POS (k : Nat) : Nat := 0x600010 + 0x10 * k
def Fld.TB_ENCk_POS_POS : Fld := ⟨0, 32⟩
def Reg.TB_ENCk_VEL (k : Nat) : Nat := 0x600014 + 0x10 * k
def Fld.TB_ENCk_VEL_VEL : Fld := ⟨0, 32⟩
def Reg.TB_ENCk_ERR_CNT (k : Nat) : Nat := 0x600018 + 0x10 * k
def Fld.TB_ENCk_ERR_CNT_COUNT : Fld := ⟨0, 32⟩
def Reg.TB_PIN_LEVEL : Nat := 0x600030
def Fld.TB_PIN_LEVEL_TRIG : Fld := ⟨0, 16⟩
def Fld.TB_PIN_LEVEL_ENC : Fld := ⟨16, 4⟩
def Reg.TB_SCHEDk_TIME_LO (k : Nat) : Nat := 0x600040 + 0x10 * k
def Fld.TB_SCHEDk_TIME_LO_TIME : Fld := ⟨0, 32⟩
def Reg.TB_SCHEDk_TIME_HI (k : Nat) : Nat := 0x600044 + 0x10 * k
def Fld.TB_SCHEDk_TIME_HI_TIME : Fld := ⟨0, 32⟩
def Reg.TB_SCHEDk_CTRL (k : Nat) : Nat := 0x600048 + 0x10 * k
def Fld.TB_SCHEDk_CTRL_ACTION : Fld := ⟨0, 4⟩
def Fld.TB_SCHEDk_CTRL_SCOPE : Fld := ⟨4, 1⟩
def Fld.TB_SCHEDk_CTRL_REMOTE : Fld := ⟨5, 1⟩
def Fld.TB_SCHEDk_CTRL_STATE : Fld := ⟨6, 2⟩
def Fld.TB_SCHEDk_CTRL_ARM : Fld := ⟨8, 1⟩
def Fld.TB_SCHEDk_CTRL_DISARM : Fld := ⟨9, 1⟩
def Reg.TB_SCHEDk_ARG (k : Nat) : Nat := 0x60004C + 0x10 * k
def Fld.TB_SCHEDk_ARG_GEN : Fld := ⟨0, 32⟩
def Reg.TB_SYNC_STATUS : Nat := 0x6000C0
def Fld.TB_SYNC_STATUS_ROOT : Fld := ⟨0, 1⟩
def Fld.TB_SYNC_STATUS_LOCKED : Fld := ⟨1, 1⟩
def Fld.TB_SYNC_STATUS_HOLDOVER : Fld := ⟨2, 1⟩
def Fld.TB_SYNC_STATUS_UPSTREAM : Fld := ⟨3, 2⟩
def Fld.TB_SYNC_STATUS_HOPS : Fld := ⟨5, 4⟩
def Fld.TB_SYNC_STATUS_OFFSET : Fld := ⟨16, 16⟩
def Reg.TB_SNAP_TIME_LO : Nat := 0x6000C4
def Fld.TB_SNAP_TIME_LO_TIME : Fld := ⟨0, 32⟩
def Reg.TB_SNAP_TIME_HI : Nat := 0x6000C8
def Fld.TB_SNAP_TIME_HI_TIME : Fld := ⟨0, 32⟩
def Reg.TB_SNAP_SEQ : Nat := 0x6000CC
def Fld.TB_SNAP_SEQ_SEQ : Fld := ⟨0, 32⟩
def Reg.TB_STB_RUN : Nat := 0x6000D0
def Fld.TB_STB_RUN_RUN : Fld := ⟨0, 32⟩
def Reg.TB_STB_START : Nat := 0x6000D4
def Fld.TB_STB_START_START : Fld := ⟨0, 32⟩
def Reg.TB_STB_STOP : Nat := 0x6000D8
def Fld.TB_STB_STOP_STOP : Fld := ⟨0, 32⟩
def Reg.TB_STB_SW : Nat := 0x6000DC
def Fld.TB_STB_SW_EVENT : Fld := ⟨0, 32⟩
def Reg.TB_SNAP_DATAj (j : Nat) : Nat := 0x6000E0 + 0x4 * j
def Fld.TB_SNAP_DATAj_DATA : Fld := ⟨0, 32⟩
def Reg.TB_STB_OVR_CNT : Nat := 0x6000F8
def Fld.TB_STB_OVR_CNT_COUNT : Fld := ⟨0, 32⟩
def Reg.TB_SCHED_MISS_CNT : Nat := 0x6000FC
def Fld.TB_SCHED_MISS_CNT_COUNT : Fld := ⟨0, 32⟩
def Reg.TB_TRIGi_CFG (i : Nat) : Nat := 0x600100 + 0x4 * i
def Fld.TB_TRIGi_CFG_FILT : Fld := ⟨0, 4⟩
def Fld.TB_TRIGi_CFG_POL : Fld := ⟨4, 1⟩
def Reg.TB_ENCk_CFG (k : Nat) : Nat := 0x600140 + 0x4 * k
def Fld.TB_ENCk_CFG_MODE : Fld := ⟨0, 2⟩
def Fld.TB_ENCk_CFG_DIR : Fld := ⟨2, 1⟩
def Fld.TB_ENCk_CFG_SRC : Fld := ⟨3, 1⟩
def Fld.TB_ENCk_CFG_FILT : Fld := ⟨4, 4⟩
def Fld.TB_ENCk_CFG_VLOG2N : Fld := ⟨8, 3⟩
def Fld.TB_ENCk_CFG_STOP_US : Fld := ⟨16, 16⟩
def Reg.TB_STBi_CFG (i : Nat) : Nat := 0x600200 + 0x10 * i
def Fld.TB_STBi_CFG_SRC : Fld := ⟨0, 3⟩
def Fld.TB_STBi_CFG_SRC_IDX : Fld := ⟨4, 5⟩
def Fld.TB_STBi_CFG_POL : Fld := ⟨9, 1⟩
def Fld.TB_STBi_CFG_DRIVE : Fld := ⟨10, 1⟩
def Fld.TB_STBi_CFG_NPH : Fld := ⟨12, 3⟩
def Fld.TB_STBi_CFG_PHMASK : Fld := ⟨16, 8⟩
def Reg.TB_STBi_PITCH (i : Nat) : Nat := 0x600204 + 0x10 * i
def Fld.TB_STBi_PITCH_PITCH : Fld := ⟨0, 24⟩
def Reg.TB_STBi_DELAY (i : Nat) : Nat := 0x600208 + 0x10 * i
def Fld.TB_STBi_DELAY_DELAY : Fld := ⟨0, 24⟩
def Reg.TB_STBi_WIDTH (i : Nat) : Nat := 0x60020C + 0x10 * i
def Fld.TB_STBi_WIDTH_WIDTH : Fld := ⟨0, 24⟩
def Reg.TB_HOPg_CFG (g : Nat) : Nat := 0x600400 + 0x4 * g
def Fld.TB_HOPg_CFG_ASYM : Fld := ⟨0, 16⟩
def Fld.TB_HOPg_CFG_DELAY : Fld := ⟨16, 16⟩
def Reg.TB_SNAP_LISTj (j : Nat) : Nat := 0x600420 + 0x4 * j
def Fld.TB_SNAP_LISTj_OFFSET : Fld := ⟨2, 24⟩
/-! ### Registers of spec/12_frame_memory.md -/

def Reg.FM_STATUS : Nat := 0x700000
def Fld.FM_STATUS_EVENT : Fld := ⟨0, 5⟩
def Fld.FM_STATUS_FENCED : Fld := ⟨8, 8⟩
def Fld.FM_STATUS_TRAINED : Fld := ⟨16, 1⟩
def Fld.FM_STATUS_READY : Fld := ⟨17, 1⟩
def Fld.FM_STATUS_DEGRADED : Fld := ⟨18, 1⟩
def Fld.FM_STATUS_REMAPPED : Fld := ⟨19, 1⟩
def Reg.FM_INT_EN : Nat := 0x700004
def Fld.FM_INT_EN_EN : Fld := ⟨0, 5⟩
def Reg.FM_CAPACITY : Nat := 0x700008
def Fld.FM_CAPACITY_MIB : Fld := ⟨0, 16⟩
def Reg.FM_UNCORR_ADDR_LO : Nat := 0x700010
def Fld.FM_UNCORR_ADDR_LO_ADDR : Fld := ⟨6, 26⟩
def Reg.FM_UNCORR_ADDR_HI : Nat := 0x700014
def Fld.FM_UNCORR_ADDR_HI_ADDR : Fld := ⟨0, 2⟩
def Fld.FM_UNCORR_ADDR_HI_CHANNEL : Fld := ⟨2, 3⟩
def Fld.FM_UNCORR_ADDR_HI_VALID : Fld := ⟨31, 1⟩
def Reg.FM_SCRUB_POS : Nat := 0x700018
def Fld.FM_SCRUB_POS_PERMILLE : Fld := ⟨0, 16⟩
def Reg.FM_CNTk (k : Nat) : Nat := 0x700040 + 0x4 * k
def Fld.FM_CNTk_COUNT : Fld := ⟨0, 32⟩
def Reg.FM_CFG : Nat := 0x700100
def Fld.FM_CFG_RATE : Fld := ⟨0, 6⟩
def Fld.FM_CFG_DENSITY : Fld := ⟨6, 1⟩
def Fld.FM_CFG_POPULATED : Fld := ⟨7, 1⟩
def Fld.FM_CFG_RESERVE : Fld := ⟨8, 1⟩
def Reg.FM_SCRUB_CTRL : Nat := 0x700104
def Fld.FM_SCRUB_CTRL_PERIOD_H : Fld := ⟨0, 8⟩
def Fld.FM_SCRUB_CTRL_RETRAIN_MS : Fld := ⟨8, 10⟩
def Reg.FM_INJECT : Nat := 0x700108
def Fld.FM_INJECT_ADDR : Fld := ⟨0, 28⟩
def Fld.FM_INJECT_NSYM : Fld := ⟨28, 2⟩
def Fld.FM_INJECT_DISARM : Fld := ⟨30, 1⟩
def Fld.FM_INJECT_ARM : Fld := ⟨31, 1⟩
/-! ### Registers of spec/13_dma.md -/

def Reg.DMA_STATUS : Nat := 0x800000
def Fld.DMA_STATUS_BUF_CORR : Fld := ⟨0, 1⟩
def Fld.DMA_STATUS_BUF_UNCORR : Fld := ⟨1, 1⟩
def Reg.DMA_CH_ACTIVE : Nat := 0x800004
def Fld.DMA_CH_ACTIVE_ACTIVE : Fld := ⟨0, 32⟩
def Reg.DMA_CH_FAULT : Nat := 0x800008
def Fld.DMA_CH_FAULT_FAULT : Fld := ⟨0, 32⟩
def Reg.DMA_BUF_CORR_CNT : Nat := 0x800010
def Fld.DMA_BUF_CORR_CNT_COUNT : Fld := ⟨0, 32⟩
def Reg.DMA_BUF_UNCORR_CNT : Nat := 0x800014
def Fld.DMA_BUF_UNCORR_CNT_COUNT : Fld := ⟨0, 32⟩
def Reg.DMA_CHn_BIND (n : Nat) : Nat := 0x800100 + 0x4 * n
def Fld.DMA_CHn_BIND_OWNER : Fld := ⟨0, 2⟩
def Fld.DMA_CHn_BIND_OS : Fld := ⟨2, 5⟩
def Fld.DMA_CHn_BIND_OS_EN : Fld := ⟨7, 1⟩
def Fld.DMA_CHn_BIND_TWIN : Fld := ⟨8, 1⟩
def Fld.DMA_CHn_BIND_QUOTA : Fld := ⟨16, 10⟩
def Reg.DMA_CHn_CTRL (n : Nat) : Nat := 0x801000 + 0x80 * n
def Fld.DMA_CHn_CTRL_START : Fld := ⟨0, 1⟩
def Fld.DMA_CHn_CTRL_HALT : Fld := ⟨1, 1⟩
def Fld.DMA_CHn_CTRL_RESUME : Fld := ⟨2, 1⟩
def Fld.DMA_CHn_CTRL_STOP : Fld := ⟨3, 1⟩
def Reg.DMA_CHn_STATUS (n : Nat) : Nat := 0x801004 + 0x80 * n
def Fld.DMA_CHn_STATUS_STATE : Fld := ⟨0, 3⟩
def Fld.DMA_CHn_STATUS_ERR : Fld := ⟨3, 8⟩
def Fld.DMA_CHn_STATUS_SIG : Fld := ⟨11, 1⟩
def Fld.DMA_CHn_STATUS_DONE : Fld := ⟨12, 1⟩
def Fld.DMA_CHn_STATUS_FAULTED : Fld := ⟨13, 1⟩
def Fld.DMA_CHn_STATUS_HALT_EV : Fld := ⟨14, 1⟩
def Fld.DMA_CHn_STATUS_WAIT_TO : Fld := ⟨15, 1⟩
def Fld.DMA_CHn_STATUS_CMD_IGN : Fld := ⟨16, 1⟩
def Fld.DMA_CHn_STATUS_TAKEOVER_STOP : Fld := ⟨17, 1⟩
def Fld.DMA_CHn_STATUS_SIG_CODE : Fld := ⟨18, 8⟩
def Reg.DMA_CHn_INT_EN (n : Nat) : Nat := 0x801008 + 0x80 * n
def Fld.DMA_CHn_INT_EN_EN : Fld := ⟨11, 7⟩
def Reg.DMA_CHn_PC (n : Nat) : Nat := 0x80100C + 0x80 * n
def Fld.DMA_CHn_PC_PC : Fld := ⟨0, 6⟩
def Reg.DMA_CHn_PROG_LO (n : Nat) : Nat := 0x801010 + 0x80 * n
def Fld.DMA_CHn_PROG_LO_ADDR : Fld := ⟨5, 27⟩
def Reg.DMA_CHn_PROG_HI (n : Nat) : Nat := 0x801014 + 0x80 * n
def Fld.DMA_CHn_PROG_HI_ADDR : Fld := ⟨0, 32⟩
def Reg.DMA_CHn_PROG_CFG (n : Nat) : Nat := 0x801018 + 0x80 * n
def Fld.DMA_CHn_PROG_CFG_LEN : Fld := ⟨0, 7⟩
def Fld.DMA_CHn_PROG_CFG_SPACE : Fld := ⟨7, 1⟩
def Reg.DMA_CHn_RING_BASE_LO (n : Nat) : Nat := 0x80101C + 0x80 * n
def Fld.DMA_CHn_RING_BASE_LO_BASE : Fld := ⟨6, 26⟩
def Reg.DMA_CHn_RING_BASE_HI (n : Nat) : Nat := 0x801020 + 0x80 * n
def Fld.DMA_CHn_RING_BASE_HI_BASE : Fld := ⟨0, 32⟩
def Reg.DMA_CHn_RING_CFG (n : Nat) : Nat := 0x801024 + 0x80 * n
def Fld.DMA_CHn_RING_CFG_NSLOT : Fld := ⟨0, 16⟩
def Fld.DMA_CHn_RING_CFG_SLOT_SIZE : Fld := ⟨16, 16⟩
def Reg.DMA_CHn_RING_CURSOR (n : Nat) : Nat := 0x801028 + 0x80 * n
def Fld.DMA_CHn_RING_CURSOR_CURSOR : Fld := ⟨0, 16⟩
def Reg.DMA_CHn_SEM (n : Nat) : Nat := 0x80102C + 0x80 * n
def Fld.DMA_CHn_SEM_VALUE : Fld := ⟨0, 16⟩
def Reg.DMA_CHn_SEM_ADD (n : Nat) : Nat := 0x801030 + 0x80 * n
def Fld.DMA_CHn_SEM_ADD_ADD : Fld := ⟨0, 16⟩
def Reg.DMA_CHn_CPL_LO (n : Nat) : Nat := 0x801034 + 0x80 * n
def Fld.DMA_CHn_CPL_LO_EN : Fld := ⟨0, 1⟩
def Fld.DMA_CHn_CPL_LO_ADDR : Fld := ⟨5, 27⟩
def Reg.DMA_CHn_CPL_HI (n : Nat) : Nat := 0x801038 + 0x80 * n
def Fld.DMA_CHn_CPL_HI_ADDR : Fld := ⟨0, 32⟩
def Reg.DMA_CHn_ITEM_CNT (n : Nat) : Nat := 0x801040 + 0x80 * n
def Fld.DMA_CHn_ITEM_CNT_COUNT : Fld := ⟨0, 32⟩
def Reg.DMA_CHn_DISC_CNT (n : Nat) : Nat := 0x801044 + 0x80 * n
def Fld.DMA_CHn_DISC_CNT_COUNT : Fld := ⟨0, 32⟩
def Reg.DMA_CHn_DUP_CNT (n : Nat) : Nat := 0x801048 + 0x80 * n
def Fld.DMA_CHn_DUP_CNT_COUNT : Fld := ⟨0, 32⟩
def Reg.DMA_CHn_LAST_DOC (n : Nat) : Nat := 0x80104C + 0x80 * n
def Fld.DMA_CHn_LAST_DOC_DOC : Fld := ⟨0, 32⟩
/-! ### Registers of spec/14_host_endpoint.md -/

def Reg.GLB_PCIE_STATUS : Nat := 0x80
def Fld.GLB_PCIE_STATUS_READY : Fld := ⟨0, 1⟩
def Fld.GLB_PCIE_STATUS_LINK_UP : Fld := ⟨1, 1⟩
def Fld.GLB_PCIE_STATUS_SPEED : Fld := ⟨2, 3⟩
def Fld.GLB_PCIE_STATUS_WIDTH : Fld := ⟨8, 5⟩
def Fld.GLB_PCIE_STATUS_LINK_LOW_EV : Fld := ⟨16, 1⟩
def Fld.GLB_PCIE_STATUS_LINK_DOWN_EV : Fld := ⟨17, 1⟩
def Fld.GLB_PCIE_STATUS_HOT_RESET_EV : Fld := ⟨18, 1⟩
def Fld.GLB_PCIE_STATUS_FLR_EV : Fld := ⟨19, 4⟩
def Fld.GLB_PCIE_STATUS_BME : Fld := ⟨23, 4⟩
def Fld.GLB_PCIE_STATUS_INT_ERR : Fld := ⟨27, 1⟩
def Reg.GLB_PCIE_INT_EN : Nat := 0x84
def Fld.GLB_PCIE_INT_EN_EN : Fld := ⟨16, 7⟩
def Fld.GLB_PCIE_INT_EN_EN_INT_ERR : Fld := ⟨27, 1⟩
def Reg.GLB_PCIE_MIN : Nat := 0x88
def Fld.GLB_PCIE_MIN_MIN_SPEED : Fld := ⟨0, 3⟩
def Fld.GLB_PCIE_MIN_MIN_WIDTH : Fld := ⟨8, 5⟩
def Reg.GLB_PCIE_DSN_LO : Nat := 0x8C
def Fld.GLB_PCIE_DSN_LO_DSN : Fld := ⟨0, 32⟩
def Reg.GLB_PCIE_DSN_HI : Nat := 0x90
def Fld.GLB_PCIE_DSN_HI_DSN : Fld := ⟨0, 32⟩
def Reg.GLB_PCIE_PARTNER_DSN_LO : Nat := 0x94
def Fld.GLB_PCIE_PARTNER_DSN_LO_DSN : Fld := ⟨0, 32⟩
def Reg.GLB_PCIE_PARTNER_DSN_HI : Nat := 0x98
def Fld.GLB_PCIE_PARTNER_DSN_HI_DSN : Fld := ⟨0, 32⟩
def Reg.GLB_PCIE_CTO_CNT : Nat := 0x9C
def Fld.GLB_PCIE_CTO_CNT_COUNT : Fld := ⟨0, 32⟩
def Reg.GLB_PCIE_DISC_CPL_CNT : Nat := 0xA0
def Fld.GLB_PCIE_DISC_CPL_CNT_COUNT : Fld := ⟨0, 32⟩
def Reg.GLB_PCIE_LATE_CPL_CNT : Nat := 0xA4
def Fld.GLB_PCIE_LATE_CPL_CNT_COUNT : Fld := ⟨0, 32⟩
def Reg.GLB_PCIE_SHADOW_WR_IGN_CNT : Nat := 0xA8
def Fld.GLB_PCIE_SHADOW_WR_IGN_CNT_COUNT : Fld := ⟨0, 32⟩
def Reg.GLB_PCIE_UR_CNT : Nat := 0xAC
def Fld.GLB_PCIE_UR_CNT_COUNT : Fld := ⟨0, 32⟩
/-! ### Registers of spec/15_link_lanes.md -/

def Reg.LNK_Gg_STATUS (g : Nat) : Nat := 0x900000 + 0x10 * g
def Fld.LNK_Gg_STATUS_STATE : Fld := ⟨0, 4⟩
def Fld.LNK_Gg_STATUS_IN_SERVICE : Fld := ⟨4, 1⟩
def Fld.LNK_Gg_STATUS_REVERSED : Fld := ⟨5, 1⟩
def Fld.LNK_Gg_STATUS_POL_INV : Fld := ⟨8, 8⟩
def Fld.LNK_Gg_STATUS_RETRAIN_EV : Fld := ⟨16, 1⟩
def Fld.LNK_Gg_STATUS_DOWN_EV : Fld := ⟨17, 1⟩
def Fld.LNK_Gg_STATUS_WIRING_MISMATCH : Fld := ⟨18, 1⟩
def Fld.LNK_Gg_STATUS_RATE_MISMATCH : Fld := ⟨19, 1⟩
def Fld.LNK_Gg_STATUS_LANE_ORDER : Fld := ⟨20, 1⟩
def Fld.LNK_Gg_STATUS_DIGEST_MISMATCH : Fld := ⟨21, 1⟩
def Reg.LNK_Gg_CTRL (g : Nat) : Nat := 0x900004 + 0x10 * g
def Fld.LNK_Gg_CTRL_RETRAIN : Fld := ⟨0, 1⟩
def Fld.LNK_Gg_CTRL_HOLD : Fld := ⟨1, 1⟩
def Fld.LNK_Gg_CTRL_FULL : Fld := ⟨2, 1⟩
def Reg.LNK_Gg_FAR (g : Nat) : Nat := 0x900008 + 0x10 * g
def Fld.LNK_Gg_FAR_WHO : Fld := ⟨0, 8⟩
def Fld.LNK_Gg_FAR_GROUP : Fld := ⟨8, 2⟩
def Fld.LNK_Gg_FAR_RATE : Fld := ⟨10, 4⟩
def Fld.LNK_Gg_FAR_VALID : Fld := ⟨31, 1⟩
def Reg.LNK_Gg_INT_EN (g : Nat) : Nat := 0x90000C + 0x10 * g
def Fld.LNK_Gg_INT_EN_EN : Fld := ⟨16, 6⟩
def Reg.LNK_REF_STATUS : Nat := 0x900030
def Fld.LNK_REF_STATUS_SRC : Fld := ⟨0, 2⟩
def Fld.LNK_REF_STATUS_LINK_REF_OK : Fld := ⟨2, 1⟩
def Fld.LNK_REF_STATUS_LREF0_OK : Fld := ⟨3, 1⟩
def Fld.LNK_REF_STATUS_LREF1_OK : Fld := ⟨4, 1⟩
def Fld.LNK_REF_STATUS_PLL_LOCK : Fld := ⟨5, 1⟩
def Fld.LNK_REF_STATUS_SWITCH_EV : Fld := ⟨6, 1⟩
def Fld.LNK_REF_STATUS_LOST_EV : Fld := ⟨7, 1⟩
def Reg.LNK_REF_INT_EN : Nat := 0x900034
def Fld.LNK_REF_INT_EN_EN : Fld := ⟨6, 2⟩
def Reg.LNK_Gg_CNTk (g k : Nat) : Nat := 0x900040 + 0x20 * g + 0x4 * k
def Fld.LNK_Gg_CNTk_COUNT : Fld := ⟨0, 32⟩
def Reg.LNK_Gg_CFG (g : Nat) : Nat := 0x900100 + 0x20 * g
def Fld.LNK_Gg_CFG_RATE : Fld := ⟨0, 4⟩
def Fld.LNK_Gg_CFG_EQ_MODE : Fld := ⟨4, 1⟩
def Fld.LNK_Gg_CFG_ADAPT : Fld := ⟨5, 1⟩
def Fld.LNK_Gg_CFG_USED : Fld := ⟨6, 1⟩
def Fld.LNK_Gg_CFG_ERR_THR : Fld := ⟨16, 16⟩
def Reg.LNK_Gg_EQ (g : Nat) : Nat := 0x900104 + 0x20 * g
def Fld.LNK_Gg_EQ_PRE : Fld := ⟨0, 4⟩
def Fld.LNK_Gg_EQ_POST : Fld := ⟨4, 5⟩
def Fld.LNK_Gg_EQ_CTLE : Fld := ⟨16, 5⟩
def Reg.LNK_Gg_LANEl_EQ (g l : Nat) : Nat := 0x900200 + 0x20 * g + 0x4 * l
def Fld.LNK_Gg_LANEl_EQ_PRE : Fld := ⟨0, 4⟩
def Fld.LNK_Gg_LANEl_EQ_POST : Fld := ⟨4, 5⟩
def Fld.LNK_Gg_LANEl_EQ_CTLE : Fld := ⟨16, 5⟩
def Fld.LNK_Gg_LANEl_EQ_MARGIN : Fld := ⟨24, 6⟩
def Reg.LNK_Gg_LANEl_ERR_CNT (g l : Nat) : Nat := 0x900300 + 0x20 * g + 0x4 * l
def Fld.LNK_Gg_LANEl_ERR_CNT_COUNT : Fld := ⟨0, 32⟩
/-! ### Registers of spec/16_bridge_and_tunnels.md -/

def Reg.BRG_STATUS : Nat := 0x980000
def Fld.BRG_STATUS_PERR : Fld := ⟨0, 1⟩
def Fld.BRG_STATUS_PERR_OVF : Fld := ⟨1, 1⟩
def Fld.BRG_STATUS_PERR_STOP : Fld := ⟨2, 1⟩
def Fld.BRG_STATUS_RD_TO : Fld := ⟨3, 1⟩
def Fld.BRG_STATUS_LATE : Fld := ⟨4, 1⟩
def Fld.BRG_STATUS_LINK_LOST : Fld := ⟨5, 1⟩
def Fld.BRG_STATUS_TUN_TO : Fld := ⟨6, 1⟩
def Fld.BRG_STATUS_MALFORMED : Fld := ⟨7, 1⟩
def Reg.BRG_INT_EN : Nat := 0x980004
def Fld.BRG_INT_EN_EN : Fld := ⟨0, 8⟩
def Reg.BRG_CTRL : Nat := 0x980008
def Fld.BRG_CTRL_STOP_ON_PERR : Fld := ⟨0, 1⟩
def Reg.BRG_RD_TIMEOUT : Nat := 0x98000C
def Fld.BRG_RD_TIMEOUT_US : Fld := ⟨0, 20⟩
def Reg.BRG_TUN_TIMEOUT : Nat := 0x980010
def Fld.BRG_TUN_TIMEOUT_MS : Fld := ⟨0, 14⟩
def Reg.BRG_PF3_CFG : Nat := 0x980014
def Fld.BRG_PF3_CFG_TARGET : Fld := ⟨0, 2⟩
def Reg.BRG_TAGS : Nat := 0x980018
def Fld.BRG_TAGS_IN_USE : Fld := ⟨0, 9⟩
def Fld.BRG_TAGS_QUARANTINED : Fld := ⟨16, 9⟩
def Reg.BRG_VW_IN : Nat := 0x98001C
def Fld.BRG_VW_IN_LEVEL : Fld := ⟨0, 32⟩
def Reg.BRG_VW_SW : Nat := 0x980020
def Fld.BRG_VW_SW_LEVEL : Fld := ⟨0, 32⟩
def Reg.BRG_PERR_STATUS : Nat := 0x980024
def Fld.BRG_PERR_STATUS_NUM : Fld := ⟨0, 4⟩
def Reg.BRG_PERR_POP : Nat := 0x980028
def Fld.BRG_PERR_POP_POP : Fld := ⟨0, 1⟩
def Reg.BRG_PERR_LOGe_ADDR (e : Nat) : Nat := 0x980040 + 0x10 * e
def Fld.BRG_PERR_LOGe_ADDR_OFFSET : Fld := ⟨0, 26⟩
def Reg.BRG_PERR_LOGe_INFO (e : Nat) : Nat := 0x980044 + 0x10 * e
def Fld.BRG_PERR_LOGe_INFO_REASON : Fld := ⟨0, 4⟩
def Fld.BRG_PERR_LOGe_INFO_INIT : Fld := ⟨4, 4⟩
def Fld.BRG_PERR_LOGe_INFO_REMOTE_INIT : Fld := ⟨8, 4⟩
def Fld.BRG_PERR_LOGe_INFO_GROUP : Fld := ⟨12, 2⟩
def Reg.BRG_PERR_LOGe_TIME (e : Nat) : Nat := 0x980048 + 0x10 * e
def Fld.BRG_PERR_LOGe_TIME_TIME : Fld := ⟨0, 32⟩
def Reg.BRG_LATE_CNT : Nat := 0x9800C0
def Fld.BRG_LATE_CNT_COUNT : Fld := ⟨0, 32⟩
def Reg.BRG_CNTk (k : Nat) : Nat := 0x9800C4 + 0x4 * k
def Fld.BRG_CNTk_COUNT : Fld := ⟨0, 32⟩
def Reg.BRG_VW_CFG : Nat := 0x980100
def Fld.BRG_VW_CFG_IN_SRC : Fld := ⟨0, 2⟩
def Reg.BRG_VW_SELw (w : Nat) : Nat := 0x980180 + 0x4 * w
def Fld.BRG_VW_SELw_SRC : Fld := ⟨0, 3⟩
def Fld.BRG_VW_SELw_IDX : Fld := ⟨3, 5⟩
def Reg.BRG_TUNk_CFG (k : Nat) : Nat := 0x980200 + 0x8 * k
def Fld.BRG_TUNk_CFG_PORT : Fld := ⟨0, 4⟩
def Fld.BRG_TUNk_CFG_ENTRY : Fld := ⟨4, 3⟩
def Fld.BRG_TUNk_CFG_TS_REF : Fld := ⟨7, 2⟩
def Fld.BRG_TUNk_CFG_ENC : Fld := ⟨9, 1⟩
def Fld.BRG_TUNk_CFG_SYNC_STB : Fld := ⟨10, 5⟩
def Fld.BRG_TUNk_CFG_VALID : Fld := ⟨31, 1⟩
def Reg.BRG_TUNk_SHAPE (k : Nat) : Nat := 0x980204 + 0x8 * k
def Fld.BRG_TUNk_SHAPE_WIDTH : Fld := ⟨0, 16⟩
def Fld.BRG_TUNk_SHAPE_FILL_VALUE : Fld := ⟨16, 16⟩
/-! ### Registers of spec/17_two_wire_bus.md -/

def Reg.TW_BANK : Nat := 0xA00000
def Fld.TW_BANK_VSEL : Fld := ⟨0, 1⟩
def Reg.TWk_CFG (k : Nat) : Nat := 0xA00100 + 0x4 * k
def Fld.TWk_CFG_SPEED : Fld := ⟨0, 2⟩
def Fld.TWk_CFG_OWNER : Fld := ⟨2, 1⟩
def Fld.TWk_CFG_MIRROR : Fld := ⟨3, 1⟩
def Fld.TWk_CFG_ARA_AUTO : Fld := ⟨4, 1⟩
def Fld.TWk_CFG_RETRIES : Fld := ⟨5, 3⟩
def Fld.TWk_CFG_STRETCH : Fld := ⟨8, 8⟩
def Reg.TW8_CFG : Nat := 0xA00120
def Fld.TW8_CFG_ADDR : Fld := ⟨0, 7⟩
def Fld.TW8_CFG_EN : Fld := ⟨7, 1⟩
def Reg.TWk_STATUS (k : Nat) : Nat := 0xA01000 + 0x100 * k
def Fld.TWk_STATUS_DONE : Fld := ⟨0, 1⟩
def Fld.TWk_STATUS_ERR : Fld := ⟨1, 1⟩
def Fld.TWk_STATUS_ARB : Fld := ⟨2, 1⟩
def Fld.TWk_STATUS_STUCK : Fld := ⟨3, 1⟩
def Fld.TWk_STATUS_ALERT : Fld := ⟨4, 1⟩
def Fld.TWk_STATUS_QOVF : Fld := ⟨5, 1⟩
def Fld.TWk_STATUS_ALERT_STUCK : Fld := ⟨6, 1⟩
def Fld.TWk_STATUS_TWIN_DIFF : Fld := ⟨7, 1⟩
def Fld.TWk_STATUS_BUSY : Fld := ⟨8, 1⟩
def Fld.TWk_STATUS_BUS_FREE : Fld := ⟨9, 1⟩
def Fld.TWk_STATUS_ALERT_LEVEL : Fld := ⟨10, 1⟩
def Fld.TWk_STATUS_IN_STUCK : Fld := ⟨11, 1⟩
def Fld.TWk_STATUS_QLEVEL : Fld := ⟨16, 5⟩
def Fld.TWk_STATUS_RLEVEL : Fld := ⟨24, 5⟩
def Reg.TWk_INT_EN (k : Nat) : Nat := 0xA01004 + 0x100 * k
def Fld.TWk_INT_EN_EN : Fld := ⟨0, 8⟩
def Reg.TWk_QCMD (k : Nat) : Nat := 0xA01008 + 0x100 * k
def Fld.TWk_QCMD_ADDR : Fld := ⟨0, 7⟩
def Fld.TWk_QCMD_WLEN : Fld := ⟨8, 7⟩
def Fld.TWk_QCMD_RLEN : Fld := ⟨16, 7⟩
def Fld.TWk_QCMD_RS : Fld := ⟨24, 1⟩
def Fld.TWk_QCMD_TAG : Fld := ⟨28, 4⟩
def Reg.TWk_WDATA (k : Nat) : Nat := 0xA0100C + 0x100 * k
def Fld.TWk_WDATA_DATA : Fld := ⟨0, 32⟩
def Reg.TWk_RES (k : Nat) : Nat := 0xA01010 + 0x100 * k
def Fld.TWk_RES_CODE : Fld := ⟨0, 4⟩
def Fld.TWk_RES_TAG : Fld := ⟨4, 4⟩
def Fld.TWk_RES_WCNT : Fld := ⟨8, 7⟩
def Fld.TWk_RES_RCNT : Fld := ⟨16, 7⟩
def Fld.TWk_RES_BITPOS : Fld := ⟨24, 5⟩
def Fld.TWk_RES_VALID : Fld := ⟨31, 1⟩
def Reg.TWk_RDATA (k : Nat) : Nat := 0xA01014 + 0x100 * k
def Fld.TWk_RDATA_DATA : Fld := ⟨0, 32⟩
def Reg.TWk_CTRL (k : Nat) : Nat := 0xA01018 + 0x100 * k
def Fld.TWk_CTRL_POP : Fld := ⟨0, 1⟩
def Fld.TWk_CTRL_CLEAR : Fld := ⟨1, 1⟩
def Fld.TWk_CTRL_FLUSH : Fld := ⟨2, 1⟩
def Fld.TWk_CTRL_ALERT_POP : Fld := ⟨3, 1⟩
def Reg.TWk_ALERT (k : Nat) : Nat := 0xA0101C + 0x100 * k
def Fld.TWk_ALERT_ADDR : Fld := ⟨0, 7⟩
def Fld.TWk_ALERT_NUM : Fld := ⟨8, 4⟩
def Fld.TWk_ALERT_VALID : Fld := ⟨31, 1⟩
def Reg.TWk_CNTj (k j : Nat) : Nat := 0xA01040 + 0x100 * k + 0x4 * j
def Fld.TWk_CNTj_COUNT : Fld := ⟨0, 32⟩
def Reg.TW8_STATUS : Nat := 0xA01800
def Fld.TW8_STATUS_WRITE : Fld := ⟨0, 1⟩
def Fld.TW8_STATUS_READ : Fld := ⟨1, 1⟩
def Fld.TW8_STATUS_VIOLATION : Fld := ⟨2, 1⟩
def Fld.TW8_STATUS_REFUSED : Fld := ⟨3, 1⟩
def Reg.TW8_CTRL : Nat := 0xA01804
def Fld.TW8_CTRL_ALERT : Fld := ⟨0, 1⟩
def Fld.TW8_CTRL_ALERT_CANCEL : Fld := ⟨1, 1⟩
def Reg.TW8_INT_EN : Nat := 0xA01808
def Fld.TW8_INT_EN_EN : Fld := ⟨0, 4⟩
def Reg.TW8_VIOL_CNT : Nat := 0xA0180C
def Fld.TW8_VIOL_CNT_COUNT : Fld := ⟨0, 32⟩
/-! ### Registers of spec/18_interrupts.md -/

def Reg.IC_STATUS : Nat := 0xB00000
def Fld.IC_STATUS_EOI_ERR : Fld := ⟨0, 1⟩
def Fld.IC_STATUS_HOLD_TO : Fld := ⟨1, 1⟩
def Fld.IC_STATUS_ECC_CORR : Fld := ⟨2, 1⟩
def Fld.IC_STATUS_ECC_UNCORR : Fld := ⟨3, 1⟩
def Reg.IC_INT_EN : Nat := 0xB00004
def Fld.IC_INT_EN_EN : Fld := ⟨0, 4⟩
def Reg.IC_SPLIT : Nat := 0xB00008
def Fld.IC_SPLIT_K : Fld := ⟨0, 3⟩
def Reg.IC_HOLD : Nat := 0xB0000C
def Fld.IC_HOLD_HOLD : Fld := ⟨0, 32⟩
def Reg.IC_HOST_EOI : Nat := 0xB00010
def Fld.IC_HOST_EOI_SOURCE : Fld := ⟨0, 9⟩
def Reg.IC_SPUR_CNT : Nat := 0xB00014
def Fld.IC_SPUR_CNT_COUNT : Fld := ⟨0, 32⟩
def Reg.IC_HOLD_TO_CNT : Nat := 0xB00018
def Fld.IC_HOLD_TO_CNT_COUNT : Fld := ⟨0, 32⟩
def Reg.IC_EOI_ERR_CNT : Nat := 0xB0001C
def Fld.IC_EOI_ERR_CNT_COUNT : Fld := ⟨0, 32⟩
def Reg.IC_Tt_ACTIVE (t : Nat) : Nat := 0xB00020 + 0x10 * t
def Fld.IC_Tt_ACTIVE_SOURCE : Fld := ⟨0, 9⟩
def Fld.IC_Tt_ACTIVE_DEPTH : Fld := ⟨12, 4⟩
def Fld.IC_Tt_ACTIVE_PRIO : Fld := ⟨16, 8⟩
def Fld.IC_Tt_ACTIVE_VALID : Fld := ⟨31, 1⟩
def Reg.IC_Tt_EOI (t : Nat) : Nat := 0xB00024 + 0x10 * t
def Fld.IC_Tt_EOI_SOURCE : Fld := ⟨0, 9⟩
def Reg.IC_Tt_VBASE (t : Nat) : Nat := 0xB00028 + 0x10 * t
def Fld.IC_Tt_VBASE_BASE : Fld := ⟨11, 21⟩
def Reg.IC_PENDk (k : Nat) : Nat := 0xB00040 + 0x4 * k
def Fld.IC_PENDk_PEND : Fld := ⟨0, 32⟩
def Reg.IC_MASKk (k : Nat) : Nat := 0xB00080 + 0x4 * k
def Fld.IC_MASKk_MASK : Fld := ⟨0, 32⟩
def Reg.IC_INSVk (k : Nat) : Nat := 0xB000C0 + 0x4 * k
def Fld.IC_INSVk_INSV : Fld := ⟨0, 32⟩
def Reg.IC_GRPg_HOLDOFF (g : Nat) : Nat := 0xB00100 + 0x4 * g
def Fld.IC_GRPg_HOLDOFF_TIME : Fld := ⟨0, 12⟩
def Reg.IC_PINi_CFG (i : Nat) : Nat := 0xB00200 + 0x4 * i
def Fld.IC_PINi_CFG_FILT : Fld := ⟨0, 8⟩
def Fld.IC_PINi_CFG_MODE : Fld := ⟨8, 1⟩
def Fld.IC_PINi_CFG_POL : Fld := ⟨9, 1⟩
def Reg.IC_SRCs_CFG (s : Nat) : Nat := 0xB01000 + 0x8 * s
def Fld.IC_SRCs_CFG_PRIO : Fld := ⟨0, 8⟩
def Fld.IC_SRCs_CFG_TMASK : Fld := ⟨8, 4⟩
def Fld.IC_SRCs_CFG_AUTOMASK : Fld := ⟨12, 1⟩
def Fld.IC_SRCs_CFG_EDGE : Fld := ⟨13, 1⟩
def Fld.IC_SRCs_CFG_LAST : Fld := ⟨14, 2⟩
def Reg.IC_SRCs_VEC (s : Nat) : Nat := 0xB01004 + 0x8 * s
def Fld.IC_SRCs_VEC_VEC : Fld := ⟨0, 8⟩
def Fld.IC_SRCs_VEC_FUNC : Fld := ⟨8, 2⟩
def Fld.IC_SRCs_VEC_WIRE : Fld := ⟨10, 5⟩
/-! ### Registers of spec/19_faults.md -/

def Reg.FC_STATUS_LO : Nat := 0xC00000
def Fld.FC_STATUS_LO_SRC : Fld := ⟨0, 32⟩
def Reg.FC_STATUS_HI : Nat := 0xC00004
def Fld.FC_STATUS_HI_SRC : Fld := ⟨0, 23⟩
def Reg.FC_CORR_LO : Nat := 0xC00008
def Fld.FC_CORR_LO_SRC : Fld := ⟨0, 32⟩
def Reg.FC_CORR_HI : Nat := 0xC0000C
def Fld.FC_CORR_HI_SRC : Fld := ⟨0, 23⟩
def Reg.FC_EVENT : Nat := 0xC00010
def Fld.FC_EVENT_EPISODE : Fld := ⟨0, 1⟩
def Fld.FC_EVENT_ESCALATED : Fld := ⟨1, 1⟩
def Fld.FC_EVENT_FAULT : Fld := ⟨2, 1⟩
def Fld.FC_EVENT_RECOVERED : Fld := ⟨3, 1⟩
def Fld.FC_EVENT_STREAM_STOP : Fld := ⟨4, 1⟩
def Fld.FC_EVENT_ACK_IGN : Fld := ⟨5, 1⟩
def Fld.FC_EVENT_REVIVE_IGN : Fld := ⟨6, 1⟩
def Fld.FC_EVENT_CORR : Fld := ⟨7, 1⟩
def Reg.FC_INT_EN : Nat := 0xC00014
def Fld.FC_INT_EN_EN : Fld := ⟨0, 8⟩
def Reg.FC_ESC_STATUS : Nat := 0xC00018
def Fld.FC_ESC_STATUS_STATE : Fld := ⟨0, 2⟩
def Fld.FC_ESC_STATUS_EPISODE_ID : Fld := ⟨16, 16⟩
def Reg.FC_ACK : Nat := 0xC0001C
def Fld.FC_ACK_ID : Fld := ⟨16, 16⟩
def Reg.FC_ESC_TIME : Nat := 0xC00020
def Fld.FC_ESC_TIME_US : Fld := ⟨0, 20⟩
def Reg.FC_QUIET : Nat := 0xC00024
def Fld.FC_QUIET_MS : Fld := ⟨0, 14⟩
def Reg.FC_FENCE_PORT : Nat := 0xC00028
def Fld.FC_FENCE_PORT_PORT : Fld := ⟨0, 16⟩
def Reg.FC_FENCE_UNIT_LO : Nat := 0xC0002C
def Fld.FC_FENCE_UNIT_LO_LU : Fld := ⟨0, 16⟩
def Fld.FC_FENCE_UNIT_LO_MU : Fld := ⟨16, 8⟩
def Fld.FC_FENCE_UNIT_LO_GU : Fld := ⟨24, 4⟩
def Reg.FC_FENCE_UNIT_HI : Nat := 0xC00030
def Fld.FC_FENCE_UNIT_HI_BU : Fld := ⟨0, 8⟩
def Fld.FC_FENCE_UNIT_HI_OF : Fld := ⟨8, 8⟩
def Fld.FC_FENCE_UNIT_HI_MC1 : Fld := ⟨16, 1⟩
def Reg.FC_STREAM_STOP_LO : Nat := 0xC00034
def Fld.FC_STREAM_STOP_LO_ST : Fld := ⟨0, 32⟩
def Reg.FC_STREAM_STOP_HI : Nat := 0xC00038
def Fld.FC_STREAM_STOP_HI_ST : Fld := ⟨0, 32⟩
def Reg.FC_REVIVE : Nat := 0xC0003C
def Fld.FC_REVIVE_SOURCE : Fld := ⟨0, 6⟩
def Fld.FC_REVIVE_INDEX : Fld := ⟨9, 3⟩
def Fld.FC_REVIVE_GO : Fld := ⟨31, 1⟩
def Reg.FC_EPISODE : Nat := 0xC00040
def Fld.FC_EPISODE_COUNT : Fld := ⟨0, 32⟩
def Reg.FC_RECOVERIES : Nat := 0xC00044
def Fld.FC_RECOVERIES_COUNT : Fld := ⟨0, 32⟩
def Reg.FC_CORR_CNT : Nat := 0xC00048
def Fld.FC_CORR_CNT_COUNT : Fld := ⟨0, 32⟩
def Reg.FC_ACK_IGN_CNT : Nat := 0xC0004C
def Fld.FC_ACK_IGN_CNT_COUNT : Fld := ⟨0, 32⟩
def Reg.FC_CLASS_LOw (w : Nat) : Nat := 0xC00100 + 0x4 * w
def Fld.FC_CLASS_LOw_CLASSi (i : Nat) : Fld := ⟨2 * i, 2⟩
def Reg.FC_CLASS_HIw (w : Nat) : Nat := 0xC00108 + 0x4 * w
def Fld.FC_CLASS_HIw_CLASSi (i : Nat) : Fld := ⟨2 * i, 2⟩
def Reg.FC_INJECT : Nat := 0xC00110
def Fld.FC_INJECT_SOURCE : Fld := ⟨0, 6⟩
def Fld.FC_INJECT_INDEX : Fld := ⟨9, 3⟩
def Fld.FC_INJECT_KIND : Fld := ⟨12, 1⟩
def Fld.FC_INJECT_GO : Fld := ⟨31, 1⟩
/-! ### Registers of spec/20_twin_operation.md -/

def Reg.TWN_STATUS : Nat := 0xF00000
def Fld.TWN_STATUS_STATE : Fld := ⟨0, 3⟩
def Fld.TWN_STATUS_HB_PRESENT : Fld := ⟨3, 1⟩
def Fld.TWN_STATUS_T_UP : Fld := ⟨4, 1⟩
def Fld.TWN_STATUS_PARTNER_STATE : Fld := ⟨5, 3⟩
def Fld.TWN_STATUS_CAUSE : Fld := ⟨8, 2⟩
def Fld.TWN_STATUS_SYNC : Fld := ⟨10, 1⟩
def Reg.TWN_EVENT : Nat := 0xF00004
def Fld.TWN_EVENT_TAKEOVER : Fld := ⟨0, 1⟩
def Fld.TWN_EVENT_PARTNER_LOST : Fld := ⟨1, 1⟩
def Fld.TWN_EVENT_MISMATCH : Fld := ⟨2, 1⟩
def Fld.TWN_EVENT_REC_DIFF : Fld := ⟨3, 1⟩
def Fld.TWN_EVENT_DEC_LATE : Fld := ⟨4, 1⟩
def Fld.TWN_EVENT_HB_LOST : Fld := ⟨5, 1⟩
def Fld.TWN_EVENT_ADMITTED : Fld := ⟨6, 1⟩
def Fld.TWN_EVENT_ADMIT_FAIL : Fld := ⟨7, 1⟩
def Fld.TWN_EVENT_HEAD_SWITCH : Fld := ⟨8, 1⟩
def Fld.TWN_EVENT_CMD_IGN : Fld := ⟨9, 1⟩
def Reg.TWN_INT_EN : Nat := 0xF00008
def Fld.TWN_INT_EN_EN : Fld := ⟨0, 10⟩
def Reg.TWN_CTRL : Nat := 0xF0000C
def Fld.TWN_CTRL_HANDOVER : Fld := ⟨0, 1⟩
def Fld.TWN_CTRL_ADMIT : Fld := ⟨1, 1⟩
def Fld.TWN_CTRL_DETACH : Fld := ⟨2, 1⟩
def Reg.TWN_MM_DOC : Nat := 0xF00010
def Fld.TWN_MM_DOC_DOC : Fld := ⟨0, 31⟩
def Fld.TWN_MM_DOC_VALID : Fld := ⟨31, 1⟩
def Reg.TWN_MM_LINE : Nat := 0xF00014
def Fld.TWN_MM_LINE_LINE : Fld := ⟨0, 26⟩
def Fld.TWN_MM_LINE_OS : Fld := ⟨26, 5⟩
def Reg.TWN_TAKE_TIME_LO : Nat := 0xF00018
def Fld.TWN_TAKE_TIME_LO_TIME : Fld := ⟨0, 32⟩
def Reg.TWN_TAKE_TIME_HI : Nat := 0xF0001C
def Fld.TWN_TAKE_TIME_HI_TIME : Fld := ⟨0, 32⟩
def Reg.TWN_CNTk (k : Nat) : Nat := 0xF00040 + 0x4 * k
def Fld.TWN_CNTk_COUNT : Fld := ⟨0, 32⟩
def Reg.TWN_CFG : Nat := 0xF00100
def Fld.TWN_CFG_CMP_WAIT : Fld := ⟨0, 6⟩
def Fld.TWN_CFG_AUTO_ADMIT : Fld := ⟨6, 1⟩
def Fld.TWN_CFG_MM_THR : Fld := ⟨8, 8⟩
def Fld.TWN_CFG_ALONE_MS : Fld := ⟨16, 16⟩
def Reg.TWN_ADMIT_TIMEOUT : Nat := 0xF00104
def Fld.TWN_ADMIT_TIMEOUT_MS : Fld := ⟨0, 16⟩
/-! ### Registers of spec/21_power_clocks_reset_startup.md -/

def Reg.PCR_STATUS : Nat := 0xD00000
def Fld.PCR_STATUS_WAKE : Fld := ⟨0, 1⟩
def Fld.PCR_STATUS_ENTRY_ABORT : Fld := ⟨1, 1⟩
def Fld.PCR_STATUS_SENSOR_GO_EV : Fld := ⟨2, 1⟩
def Fld.PCR_STATUS_STREAMS_READY_EV : Fld := ⟨3, 1⟩
def Fld.PCR_STATUS_GO_LATE : Fld := ⟨4, 1⟩
def Fld.PCR_STATUS_THERM_WARN : Fld := ⟨5, 1⟩
def Fld.PCR_STATUS_START_DEGRADED : Fld := ⟨6, 1⟩
def Fld.PCR_STATUS_SENSOR_GO : Fld := ⟨7, 1⟩
def Fld.PCR_STATUS_STREAMS_READY : Fld := ⟨8, 1⟩
def Fld.PCR_STATUS_STATE : Fld := ⟨9, 2⟩
def Fld.PCR_STATUS_QUIET : Fld := ⟨11, 1⟩
def Reg.PCR_INT_EN : Nat := 0xD00004
def Fld.PCR_INT_EN_EN : Fld := ⟨0, 7⟩
def Reg.PCR_CTRL : Nat := 0xD00008
def Fld.PCR_CTRL_PWR_EN : Fld := ⟨0, 1⟩
def Fld.PCR_CTRL_PREDICT : Fld := ⟨1, 1⟩
def Fld.PCR_CTRL_P3_EN : Fld := ⟨2, 1⟩
def Fld.PCR_CTRL_MAX_STATE : Fld := ⟨3, 2⟩
def Reg.PCR_NEXT_EVENT_LO : Nat := 0xD0000C
def Fld.PCR_NEXT_EVENT_LO_TIME : Fld := ⟨0, 32⟩
def Reg.PCR_NEXT_EVENT_HI : Nat := 0xD00010
def Fld.PCR_NEXT_EVENT_HI_TIME : Fld := ⟨0, 32⟩
def Reg.PCR_GUARD : Nat := 0xD00014
def Fld.PCR_GUARD_US : Fld := ⟨0, 14⟩
def Reg.PCR_HORIZON : Nat := 0xD00018
def Fld.PCR_HORIZON_US : Fld := ⟨0, 32⟩
def Reg.PCR_WAKE_LAST : Nat := 0xD0001C
def Fld.PCR_WAKE_LAST_CAUSE : Fld := ⟨0, 4⟩
def Reg.PCR_RESET : Nat := 0xD00020
def Fld.PCR_RESET_KIND : Fld := ⟨0, 2⟩
def Fld.PCR_RESET_GO : Fld := ⟨31, 1⟩
def Reg.PCR_RESET_CAUSE : Nat := 0xD00024
def Fld.PCR_RESET_CAUSE_CAUSE : Fld := ⟨0, 3⟩
def Reg.PCR_TEMP : Nat := 0xD00028
def Fld.PCR_TEMP_TEMP : Fld := ⟨0, 12⟩
def Reg.PCR_BOOT_US : Nat := 0xD0002C
def Fld.PCR_BOOT_US_US : Fld := ⟨0, 24⟩
def Reg.PCR_CNTk (k : Nat) : Nat := 0xD00040 + 0x4 * k
def Fld.PCR_CNTk_COUNT : Fld := ⟨0, 32⟩
def Reg.PCR_WAKE_EN_PIN : Nat := 0xD00100
def Fld.PCR_WAKE_EN_PIN_TRIG : Fld := ⟨0, 16⟩
def Fld.PCR_WAKE_EN_PIN_GPIO : Fld := ⟨16, 16⟩
def Reg.PCR_WAKE_EN_ALERT : Nat := 0xD00104
def Fld.PCR_WAKE_EN_ALERT_ALERT : Fld := ⟨0, 8⟩
def Reg.PCR_CFG : Nat := 0xD00108
def Fld.PCR_CFG_PERST_WARM : Fld := ⟨0, 1⟩
def Fld.PCR_CFG_THERM_WARN : Fld := ⟨16, 8⟩
/-! ### Registers of spec/22_management_security_log.md -/

def Reg.MGT_STATUS : Nat := 0xE00000
def Fld.MGT_STATUS_LOG_DROP : Fld := ⟨0, 1⟩
def Fld.MGT_STATUS_ACC_DENY : Fld := ⟨1, 1⟩
def Fld.MGT_STATUS_MBX_DONE : Fld := ⟨2, 1⟩
def Fld.MGT_STATUS_MC1_FAIL : Fld := ⟨3, 1⟩
def Fld.MGT_STATUS_SESSION : Fld := ⟨8, 1⟩
def Fld.MGT_STATUS_MBX_BUSY : Fld := ⟨9, 1⟩
def Fld.MGT_STATUS_MC1_RUN : Fld := ⟨10, 1⟩
def Fld.MGT_STATUS_ID_READY : Fld := ⟨11, 1⟩
def Fld.MGT_STATUS_MC0_SLOT : Fld := ⟨12, 1⟩
def Fld.MGT_STATUS_MC1_SLOT : Fld := ⟨13, 1⟩
def Fld.MGT_STATUS_FW_FALLBACK : Fld := ⟨14, 1⟩
def Fld.MGT_STATUS_RECOVERY : Fld := ⟨15, 1⟩
def Reg.MGT_INT_EN : Nat := 0xE00004
def Fld.MGT_INT_EN_EN : Fld := ⟨0, 4⟩
def Reg.MGT_LOG_SEQ : Nat := 0xE00008
def Fld.MGT_LOG_SEQ_SEQ : Fld := ⟨0, 32⟩
def Reg.MGT_LOG_DROP_CNT : Nat := 0xE0000C
def Fld.MGT_LOG_DROP_CNT_COUNT : Fld := ⟨0, 32⟩
def Reg.MGT_LOG_ARG : Nat := 0xE00010
def Fld.MGT_LOG_ARG_ARG : Fld := ⟨0, 32⟩
def Reg.MGT_LOG_CODE : Nat := 0xE00014
def Fld.MGT_LOG_CODE_CODE : Fld := ⟨0, 16⟩
def Reg.MGT_MBX_CMD : Nat := 0xE00018
def Fld.MGT_MBX_CMD_CMD : Fld := ⟨0, 8⟩
def Reg.MGT_MBX_ARGj (j : Nat) : Nat := 0xE0001C + 0x4 * j
def Fld.MGT_MBX_ARGj_ARG : Fld := ⟨0, 32⟩
def Reg.MGT_MBX_STATUS : Nat := 0xE00028
def Fld.MGT_MBX_STATUS_RESULT : Fld := ⟨0, 8⟩
def Fld.MGT_MBX_STATUS_DETAIL : Fld := ⟨8, 4⟩
def Fld.MGT_MBX_STATUS_CMD : Fld := ⟨16, 8⟩
def Reg.MGT_ACC_DENY_CNT : Nat := 0xE0002C
def Fld.MGT_ACC_DENY_CNT_COUNT : Fld := ⟨0, 32⟩
def Reg.MGT_ACC_LAST : Nat := 0xE00030
def Fld.MGT_ACC_LAST_ADDR : Fld := ⟨0, 26⟩
def Fld.MGT_ACC_LAST_SPACE : Fld := ⟨26, 1⟩
def Fld.MGT_ACC_LAST_WRITE : Fld := ⟨27, 1⟩
def Fld.MGT_ACC_LAST_CLASS : Fld := ⟨28, 3⟩
def Fld.MGT_ACC_LAST_VALID : Fld := ⟨31, 1⟩
def Reg.MGT_OTP_KEYS : Nat := 0xE00034
def Fld.MGT_OTP_KEYS_STATE : Fld := ⟨0, 8⟩
def Reg.MGT_WDTt_CFG (t : Nat) : Nat := 0xE00038 + 0x4 * t
def Fld.MGT_WDTt_CFG_MS : Fld := ⟨0, 16⟩
def Reg.MGT_WDT_KICK : Nat := 0xE00040
def Fld.MGT_WDT_KICK_KICK : Fld := ⟨0, 2⟩
def Reg.MGT_REMOTEt_CFG (t : Nat) : Nat := 0xE00044 + 0x4 * t
def Fld.MGT_REMOTEt_CFG_TARGET : Fld := ⟨0, 2⟩
def Reg.MGT_FMWINt_BASE (t : Nat) : Nat := 0xE0004C + 0x4 * t
def Fld.MGT_FMWINt_BASE_BASE : Fld := ⟨0, 8⟩
def Reg.MGT_ID_PUBk (k : Nat) : Nat := 0xE00060 + 0x4 * k
def Fld.MGT_ID_PUBk_KEY : Fld := ⟨0, 32⟩
def Reg.MGT_ACC_DEFAULT : Nat := 0xE00100
def Fld.MGT_ACC_DEFAULT_PERM : Fld := ⟨0, 16⟩
def Reg.MGT_ACCr_START (r : Nat) : Nat := 0xE00200 + 0x10 * r
def Fld.MGT_ACCr_START_START : Fld := ⟨0, 18⟩
def Fld.MGT_ACCr_START_SPACE : Fld := ⟨30, 1⟩
def Fld.MGT_ACCr_START_VALID : Fld := ⟨31, 1⟩
def Reg.MGT_ACCr_END (r : Nat) : Nat := 0xE00204 + 0x10 * r
def Fld.MGT_ACCr_END_END : Fld := ⟨0, 18⟩
def Reg.MGT_ACCr_PERM (r : Nat) : Nat := 0xE00208 + 0x10 * r
def Fld.MGT_ACCr_PERM_PERM : Fld := ⟨0, 16⟩
def Reg.GLB_IMG_WINDOW : Nat := 0x54
def Fld.GLB_IMG_WINDOW_OFFSET : Fld := ⟨0, 20⟩
def Fld.GLB_IMG_WINDOW_STALE : Fld := ⟨31, 1⟩
def Reg.GLB_IMG_WINDOW_DATA : Nat := 0x58
def Fld.GLB_IMG_WINDOW_DATA_DATA : Fld := ⟨0, 32⟩

end Sys2Proof.Machine
end

