-- ==== Sys2Proof/Machine/RegTypes.lean ====
section
/-! DEFINITION. What the register table says of a register: the access types of R4, the fields and the reset domains. -/

namespace Sys2Proof.Machine

/-- The access types of R4. No register of the device has a field of type RWS. -/
inductive Acc where
  | ro | rw | w1c | w1s | wo | rwh
  deriving DecidableEq, Repr

/-- The reset domains of spec/00 that registers have: power-on reset, warm reset, function-level reset. -/
inductive Domain where
  | por | warm | flr | unit
  deriving DecidableEq, Repr

/-- A field: bits, access type, whether its reset value is "Image", whether it is a counter under R8, reset value. -/
structure FieldRow where
  lo : Nat
  width : Nat
  acc : Acc
  image : Bool
  counter : Bool
  reset : Nat
  deriving DecidableEq, Repr

/-- A register description: name, offset of its first instance, its instances as (stride, count) with the longest stride
first, reset domain, whether it is on the expert page, fields. -/
structure RegRow where
  name : String
  base : Nat
  dims : List (Nat × Nat)
  domain : Domain
  expert : Bool
  fields : List FieldRow
  deriving DecidableEq, Repr

end Sys2Proof.Machine
end

