-- ==== Sys2Proof/Machine/RegRows.lean ====
section
/-! DEFINITION. The register table: one row per register description of spec/00 to spec/22, with its address, its
instances, its reset domain, its page and its fields (bits, access type of R4, whether the Bluti image sets it, whether it
is a counter under R8, reset value). -/

namespace Sys2Proof.Machine

def regRowsGlb0 : List RegRow := [
  ⟨"GLB_ID", 0x0, [], .por, false,
    [⟨0, 8, .ro, false, false, 177⟩, ⟨8, 16, .ro, false, false, 2400⟩]⟩,
  ⟨"GLB_ROLE", 0x10, [], .warm, false,
    [⟨0, 2, .ro, false, false, 0⟩, ⟨2, 2, .ro, false, false, 3⟩, ⟨4, 2, .ro, false, false, 3⟩, ⟨6, 1, .ro, false, false, 0⟩, ⟨7, 1, .ro, false, false, 0⟩, ⟨8, 1, .ro, false, false, 0⟩, ⟨9, 1, .ro, false, false, 0⟩, ⟨10, 1, .ro, false, false, 0⟩, ⟨11, 1, .ro, false, false, 0⟩, ⟨12, 1, .ro, false, false, 0⟩, ⟨13, 2, .ro, false, false, 0⟩]⟩,
  ⟨"GLB_IMG_STATUS", 0x20, [], .warm, false,
    [⟨0, 1, .ro, false, false, 0⟩, ⟨1, 1, .ro, false, false, 0⟩, ⟨2, 1, .ro, false, false, 0⟩, ⟨3, 4, .ro, false, false, 0⟩, ⟨7, 4, .ro, false, false, 0⟩, ⟨11, 1, .ro, false, false, 0⟩, ⟨16, 4, .ro, false, false, 0⟩, ⟨20, 3, .ro, false, false, 0⟩]⟩,
  ⟨"GLB_IMG_VERSION", 0x24, [], .warm, false,
    [⟨0, 32, .ro, false, false, 0⟩]⟩,
  ⟨"GLB_RECIPE_CTRL", 0x30, [], .warm, false,
    [⟨0, 3, .rw, true, false, 0⟩, ⟨3, 1, .rw, true, false, 0⟩, ⟨8, 4, .ro, true, false, 0⟩, ⟨12, 4, .ro, true, false, 0⟩]⟩,
  ⟨"GLB_RECIPE_STATUS", 0x34, [], .warm, false,
    [⟨0, 3, .ro, false, false, 0⟩, ⟨3, 1, .ro, false, false, 0⟩, ⟨4, 3, .ro, false, false, 0⟩, ⟨8, 4, .ro, false, false, 0⟩, ⟨12, 4, .ro, false, false, 0⟩]⟩,
  ⟨"GLB_RECIPE_ACTIVE", 0x38, [], .warm, false,
    [⟨0, 3, .ro, false, false, 0⟩, ⟨4, 3, .ro, false, false, 0⟩, ⟨8, 3, .ro, false, false, 0⟩, ⟨12, 3, .ro, false, false, 0⟩]⟩,
  ⟨"GLB_RECIPE_LATE_CNT", 0x3C, [], .warm, false,
    [⟨0, 32, .rw, false, true, 0⟩]⟩,
  ⟨"GLB_RECIPE_BAD_CNT", 0x40, [], .warm, false,
    [⟨0, 32, .rw, false, true, 0⟩]⟩,
  ⟨"GLB_EXPERT_EN", 0x44, [], .warm, false,
    [⟨0, 19, .rw, false, false, 0⟩]⟩,
  ⟨"GLB_EXPERT_DENY_CNT", 0x48, [], .warm, false,
    [⟨0, 32, .rw, false, true, 0⟩]⟩,
  ⟨"GLB_CONFLICT", 0x4C, [], .warm, false,
    [⟨0, 8, .ro, false, false, 0⟩, ⟨8, 8, .ro, false, false, 0⟩, ⟨16, 2, .ro, false, false, 0⟩, ⟨31, 1, .w1c, false, false, 0⟩]⟩]

def regRowsGlb1 : List RegRow := [
  ⟨"GLB_CONFLICT_CNT", 0x50, [], .warm, false,
    [⟨0, 32, .rw, false, true, 0⟩]⟩,
  ⟨"GLB_IMG_DIGESTk", 0x60, [(0x4, 8)], .warm, false,
    [⟨0, 32, .ro, false, false, 0⟩]⟩,
  ⟨"GLB_PCIE_STATUS", 0x80, [], .warm, false,
    [⟨0, 1, .ro, false, false, 0⟩, ⟨1, 1, .ro, false, false, 0⟩, ⟨2, 3, .ro, false, false, 0⟩, ⟨8, 5, .ro, false, false, 0⟩, ⟨16, 1, .w1c, false, false, 0⟩, ⟨17, 1, .w1c, false, false, 0⟩, ⟨18, 1, .w1c, false, false, 0⟩, ⟨19, 4, .w1c, false, false, 0⟩, ⟨23, 4, .ro, false, false, 0⟩, ⟨27, 1, .w1c, false, false, 0⟩]⟩,
  ⟨"GLB_PCIE_INT_EN", 0x84, [], .warm, false,
    [⟨16, 7, .rw, true, false, 0⟩, ⟨27, 1, .rw, true, false, 0⟩]⟩,
  ⟨"GLB_PCIE_MIN", 0x88, [], .warm, false,
    [⟨0, 3, .ro, true, false, 0⟩, ⟨8, 5, .ro, true, false, 0⟩]⟩,
  ⟨"GLB_PCIE_DSN_LO", 0x8C, [], .por, false,
    [⟨0, 32, .ro, false, false, 0⟩]⟩,
  ⟨"GLB_PCIE_DSN_HI", 0x90, [], .por, false,
    [⟨0, 32, .ro, false, false, 0⟩]⟩,
  ⟨"GLB_PCIE_PARTNER_DSN_LO", 0x94, [], .warm, false,
    [⟨0, 32, .ro, false, false, 0⟩]⟩,
  ⟨"GLB_PCIE_PARTNER_DSN_HI", 0x98, [], .warm, false,
    [⟨0, 32, .ro, false, false, 0⟩]⟩,
  ⟨"GLB_PCIE_CTO_CNT", 0x9C, [], .warm, false,
    [⟨0, 32, .rw, false, true, 0⟩]⟩,
  ⟨"GLB_PCIE_DISC_CPL_CNT", 0xA0, [], .warm, false,
    [⟨0, 32, .rw, false, true, 0⟩]⟩,
  ⟨"GLB_PCIE_LATE_CPL_CNT", 0xA4, [], .warm, false,
    [⟨0, 32, .rw, false, true, 0⟩]⟩]

def regRowsGlb2 : List RegRow := [
  ⟨"GLB_PCIE_SHADOW_WR_IGN_CNT", 0xA8, [], .warm, false,
    [⟨0, 32, .rw, false, true, 0⟩]⟩,
  ⟨"GLB_PCIE_UR_CNT", 0xAC, [], .warm, false,
    [⟨0, 32, .rw, false, true, 0⟩]⟩,
  ⟨"GLB_IMG_WINDOW", 0x54, [], .warm, false,
    [⟨0, 20, .rw, false, false, 0⟩, ⟨31, 1, .ro, false, false, 0⟩]⟩,
  ⟨"GLB_IMG_WINDOW_DATA", 0x58, [], .warm, false,
    [⟨0, 32, .ro, false, false, 0⟩]⟩]

/-- The registers of block GLB. -/
def regRowsGlb : List RegRow := regRowsGlb0 ++ regRowsGlb1 ++ regRowsGlb2

def regRowsPgl0 : List RegRow := [
  ⟨"PGL_STATUS", 0x300000, [], .warm, false,
    [⟨0, 1, .w1c, false, false, 0⟩, ⟨1, 1, .w1c, false, false, 0⟩, ⟨2, 1, .ro, false, false, 0⟩]⟩,
  ⟨"PGL_DROP_LAST", 0x300004, [], .warm, false,
    [⟨0, 6, .ro, false, false, 0⟩, ⟨6, 2, .ro, false, false, 0⟩, ⟨8, 2, .ro, false, false, 0⟩, ⟨31, 1, .w1c, false, false, 0⟩]⟩,
  ⟨"PGL_DROP_CNT", 0x300008, [], .warm, false,
    [⟨0, 32, .rw, false, true, 0⟩]⟩,
  ⟨"PGL_CH_SEL", 0x30000C, [], .warm, false,
    [⟨0, 6, .rw, false, false, 0⟩]⟩,
  ⟨"PGL_CH_LEVEL", 0x300010, [], .warm, false,
    [⟨0, 16, .ro, false, false, 0⟩]⟩,
  ⟨"PGL_CH_DROP_CNT", 0x300014, [], .warm, false,
    [⟨0, 32, .rw, false, true, 0⟩]⟩,
  ⟨"PGL_GH_CORR_CNT", 0x300018, [], .warm, false,
    [⟨0, 32, .rw, false, true, 0⟩]⟩,
  ⟨"PGL_GH_UNCORR_CNT", 0x30001C, [], .warm, false,
    [⟨0, 32, .rw, false, true, 0⟩]⟩,
  ⟨"PGL_GH_ERR", 0x300020, [], .warm, false,
    [⟨0, 6, .ro, false, false, 0⟩, ⟨31, 1, .w1c, false, false, 0⟩]⟩,
  ⟨"PGL_INT_EN", 0x300024, [], .warm, false,
    [⟨0, 1, .rw, true, false, 0⟩, ⟨1, 1, .rw, true, false, 0⟩, ⟨2, 1, .rw, true, false, 0⟩, ⟨3, 1, .rw, true, false, 0⟩]⟩,
  ⟨"PGL_PVp_LEVEL", 0x300030, [(0x4, 4)], .warm, false,
    [⟨0, 16, .ro, false, false, 0⟩, ⟨16, 6, .ro, false, false, 0⟩, ⟨31, 1, .ro, false, false, 0⟩]⟩,
  ⟨"PGL_BANK_OWNERk", 0x300040, [(0x4, 8)], .warm, false,
    [⟨0, 4, .ro, false, false, 15⟩, ⟨4, 4, .ro, false, false, 15⟩, ⟨8, 4, .ro, false, false, 15⟩, ⟨12, 4, .ro, false, false, 15⟩, ⟨16, 4, .ro, false, false, 15⟩, ⟨20, 4, .ro, false, false, 15⟩, ⟨24, 4, .ro, false, false, 15⟩, ⟨28, 4, .ro, false, false, 15⟩]⟩]

def regRowsPgl1 : List RegRow := [
  ⟨"PGL_PVp_WM", 0x300100, [(0x4, 4)], .warm, true,
    [⟨0, 16, .rw, true, false, 0⟩, ⟨16, 16, .rw, true, false, 0⟩]⟩,
  ⟨"PGL_CHn_CFG", 0x301000, [(0x10, 64)], .warm, true,
    [⟨0, 2, .ro, true, false, 0⟩, ⟨8, 8, .rw, true, false, 0⟩, ⟨16, 4, .rw, true, false, 0⟩, ⟨31, 1, .ro, true, false, 0⟩]⟩,
  ⟨"PGL_CHn_QUOTA", 0x301004, [(0x10, 64)], .warm, true,
    [⟨0, 16, .rw, true, false, 0⟩]⟩,
  ⟨"PGL_CHn_ROUTE", 0x301008, [(0x10, 64)], .warm, true,
    [⟨0, 5, .ro, true, false, 0⟩, ⟨8, 4, .ro, true, false, 0⟩, ⟨12, 3, .ro, true, false, 0⟩, ⟨16, 4, .ro, true, false, 0⟩, ⟨20, 4, .ro, true, false, 0⟩, ⟨24, 1, .ro, true, false, 0⟩, ⟨25, 1, .ro, false, false, 0⟩]⟩]

/-- The registers of block PGL. -/
def regRowsPgl : List RegRow := regRowsPgl0 ++ regRowsPgl1

def regRowsSp0 : List RegRow := [
  ⟨"SPn_CTRL", 0x100000, [(0x10000, 16)], .warm, false,
    [⟨0, 1, .rw, true, false, 0⟩]⟩,
  ⟨"SPn_STATUS", 0x100004, [(0x10000, 16)], .warm, false,
    [⟨0, 16, .w1c, false, false, 0⟩, ⟨16, 1, .w1c, false, false, 0⟩, ⟨17, 1, .ro, false, false, 0⟩, ⟨18, 1, .ro, true, false, 0⟩, ⟨19, 1, .ro, false, false, 0⟩, ⟨20, 1, .ro, false, false, 0⟩, ⟨21, 1, .ro, false, false, 0⟩]⟩,
  ⟨"SPn_INT_EN", 0x100008, [(0x10000, 16)], .warm, false,
    [⟨0, 17, .rw, true, false, 0⟩]⟩,
  ⟨"SPn_FRAME_NUM", 0x10000C, [(0x10000, 16)], .warm, false,
    [⟨0, 16, .ro, false, false, 0⟩, ⟨16, 4, .ro, false, false, 0⟩, ⟨20, 1, .ro, false, false, 0⟩]⟩,
  ⟨"SPn_GSP_LAST", 0x100010, [(0x10000, 16)], .warm, false,
    [⟨0, 16, .ro, false, false, 0⟩, ⟨16, 6, .ro, false, false, 0⟩, ⟨22, 4, .ro, false, false, 0⟩, ⟨31, 1, .w1c, false, false, 0⟩]⟩,
  ⟨"SPn_CNTk", 0x100040, [(0x10000, 16), (0x4, 16)], .warm, false,
    [⟨0, 32, .rw, false, true, 0⟩]⟩,
  ⟨"SPn_PHY_CFG", 0x100100, [(0x10000, 16)], .warm, true,
    [⟨0, 3, .ro, true, false, 0⟩, ⟨4, 13, .ro, true, false, 0⟩, ⟨17, 1, .ro, true, false, 0⟩, ⟨18, 1, .ro, true, false, 0⟩, ⟨19, 1, .ro, true, false, 0⟩]⟩,
  ⟨"SPn_LANE_MAP", 0x100104, [(0x10000, 16)], .warm, true,
    [⟨0, 2, .ro, true, false, 0⟩, ⟨2, 2, .ro, true, false, 0⟩, ⟨4, 2, .ro, true, false, 0⟩, ⟨6, 2, .ro, true, false, 0⟩, ⟨8, 4, .ro, true, false, 0⟩, ⟨12, 1, .ro, true, false, 0⟩]⟩,
  ⟨"SPn_LINE_TIMEOUT", 0x100108, [(0x10000, 16)], .warm, true,
    [⟨0, 24, .rw, true, false, 0⟩]⟩,
  ⟨"SPn_FRAME_TIMEOUT", 0x10010C, [(0x10000, 16)], .warm, true,
    [⟨0, 24, .rw, true, false, 0⟩]⟩,
  ⟨"SPn_FILL_VALUE", 0x100110, [(0x10000, 16)], .warm, true,
    [⟨0, 16, .rw, true, false, 0⟩]⟩,
  ⟨"SPn_FAULT_EN", 0x100114, [(0x10000, 16)], .warm, true,
    [⟨0, 17, .rw, true, false, 0⟩]⟩]

def regRowsSp1 : List RegRow := [
  ⟨"SPn_DESKEW_STAT", 0x100118, [(0x10000, 16)], .warm, true,
    [⟨0, 4, .ro, false, false, 0⟩]⟩,
  ⟨"SPn_ENTk_CFG", 0x100140, [(0x10000, 16), (0x8, 8)], .warm, true,
    [⟨0, 1, .ro, true, false, 0⟩, ⟨1, 1, .ro, true, false, 0⟩, ⟨2, 2, .rw, true, false, 0⟩, ⟨4, 4, .ro, true, false, 0⟩, ⟨8, 6, .ro, true, false, 0⟩, ⟨16, 5, .rw, true, false, 0⟩]⟩,
  ⟨"SPn_ENTk_SIZE", 0x100144, [(0x10000, 16), (0x8, 8)], .warm, true,
    [⟨0, 16, .ro, true, false, 0⟩, ⟨16, 16, .ro, true, false, 0⟩]⟩]

/-- The registers of block SP. -/
def regRowsSp : List RegRow := regRowsSp0 ++ regRowsSp1

def regRowsSt0 : List RegRow := [
  ⟨"STn_STATUS", 0x200000, [(0x100, 64)], .warm, false,
    [⟨0, 1, .ro, true, false, 0⟩, ⟨1, 1, .ro, false, false, 0⟩, ⟨2, 1, .w1c, false, false, 0⟩, ⟨3, 1, .w1c, false, false, 0⟩, ⟨4, 1, .w1c, false, false, 0⟩, ⟨5, 1, .w1c, false, false, 0⟩, ⟨6, 1, .w1c, false, false, 0⟩]⟩,
  ⟨"STn_INT_EN", 0x200004, [(0x100, 64)], .warm, false,
    [⟨2, 5, .rw, true, false, 0⟩]⟩,
  ⟨"STn_DOC_MIN_LINES", 0x200008, [(0x100, 64)], .warm, false,
    [⟨0, 16, .rw, true, false, 0⟩]⟩,
  ⟨"STn_DOC_MAX_LINES", 0x20000C, [(0x100, 64)], .warm, false,
    [⟨0, 16, .rw, true, false, 0⟩]⟩,
  ⟨"STn_DOC_NUM", 0x200010, [(0x100, 64)], .warm, false,
    [⟨0, 32, .ro, false, false, 0⟩]⟩,
  ⟨"STn_LINE_NUM", 0x200014, [(0x100, 64)], .warm, false,
    [⟨0, 16, .ro, false, false, 0⟩]⟩,
  ⟨"STn_CNTk", 0x200020, [(0x100, 64), (0x4, 5)], .warm, false,
    [⟨0, 32, .rw, false, true, 0⟩]⟩,
  ⟨"ST_BINDn", 0x204000, [(0x10, 64)], .warm, true,
    [⟨0, 4, .ro, true, false, 0⟩, ⟨4, 1, .ro, true, false, 0⟩, ⟨5, 3, .ro, true, false, 0⟩, ⟨8, 3, .ro, true, false, 0⟩, ⟨11, 3, .ro, true, false, 0⟩, ⟨14, 1, .ro, true, false, 0⟩, ⟨15, 5, .ro, true, false, 0⟩, ⟨20, 2, .ro, true, false, 0⟩, ⟨22, 1, .ro, true, false, 0⟩, ⟨23, 1, .ro, true, false, 0⟩, ⟨24, 2, .ro, true, false, 0⟩, ⟨31, 1, .ro, true, false, 0⟩]⟩,
  ⟨"ST_OFFSETn", 0x204004, [(0x10, 64)], .warm, true,
    [⟨0, 32, .ro, true, false, 0⟩]⟩,
  ⟨"ST_MARGINn", 0x204008, [(0x10, 64)], .warm, true,
    [⟨0, 16, .rw, true, false, 0⟩, ⟨16, 16, .rw, true, false, 0⟩]⟩,
  ⟨"ST_PITCHn", 0x20400C, [(0x10, 64)], .warm, true,
    [⟨0, 24, .rw, true, false, 0⟩]⟩,
  ⟨"ST_SEGs_CFG", 0x204800, [(0x40, 4)], .warm, true,
    [⟨0, 2, .ro, true, false, 0⟩, ⟨2, 4, .ro, true, false, 0⟩, ⟨6, 4, .ro, true, false, 0⟩, ⟨10, 1, .ro, true, false, 0⟩, ⟨12, 6, .ro, true, false, 0⟩]⟩]

def regRowsSt1 : List RegRow := [
  ⟨"ST_SEGs_DEBOUNCE", 0x204804, [(0x40, 4)], .warm, true,
    [⟨0, 16, .rw, true, false, 0⟩, ⟨16, 16, .rw, true, false, 0⟩]⟩,
  ⟨"ST_SEGs_BG_WIN", 0x204808, [(0x40, 4)], .warm, true,
    [⟨0, 14, .rw, true, false, 0⟩, ⟨16, 14, .rw, true, false, 0⟩]⟩,
  ⟨"ST_SEGs_BG_THR", 0x20480C, [(0x40, 4)], .warm, true,
    [⟨0, 16, .rw, true, false, 0⟩, ⟨16, 16, .rw, true, false, 0⟩]⟩,
  ⟨"ST_SEGs_BG_RUN", 0x204810, [(0x40, 4)], .warm, true,
    [⟨0, 14, .rw, true, false, 0⟩, ⟨16, 8, .rw, true, false, 0⟩, ⟨24, 8, .rw, true, false, 0⟩]⟩,
  ⟨"ST_SEGs_NEXT_DOC", 0x204814, [(0x40, 4)], .warm, true,
    [⟨0, 32, .rw, false, false, 0⟩]⟩,
  ⟨"ST_SEGs_LEAD_POS", 0x204818, [(0x40, 4)], .warm, true,
    [⟨0, 32, .ro, false, false, 0⟩]⟩,
  ⟨"ST_SEGs_TRAIL_POS", 0x20481C, [(0x40, 4)], .warm, true,
    [⟨0, 32, .ro, false, false, 0⟩]⟩,
  ⟨"ST_SEGs_STATE", 0x204820, [(0x40, 4)], .warm, true,
    [⟨0, 1, .ro, false, false, 0⟩]⟩]

/-- The registers of block ST. -/
def regRowsSt : List RegRow := regRowsSt0 ++ regRowsSt1

def regRowsLu0 : List RegRow := [
  ⟨"PVp_LUu_STATUS", 0x400000, [(0x40000, 4), (0x4000, 4)], .warm, false,
    [⟨0, 7, .w1c, false, false, 0⟩, ⟨16, 8, .ro, true, false, 0⟩]⟩,
  ⟨"PVp_LUu_INT_EN", 0x400004, [(0x40000, 4), (0x4000, 4)], .warm, false,
    [⟨0, 7, .rw, true, false, 0⟩]⟩,
  ⟨"PVp_LUu_TBL_ADDR", 0x400008, [(0x40000, 4), (0x4000, 4)], .warm, false,
    [⟨0, 15, .rw, false, false, 0⟩]⟩,
  ⟨"PVp_LUu_TBL_DATA", 0x40000C, [(0x40000, 4), (0x4000, 4)], .warm, false,
    [⟨0, 32, .rw, false, false, 0⟩]⟩,
  ⟨"PVp_LUu_CTXc_GAIN", 0x400010, [(0x40000, 4), (0x4000, 4), (0x4, 8)], .warm, false,
    [⟨0, 16, .rw, true, false, 0⟩]⟩,
  ⟨"PVp_LUu_CTXc_SWITCH", 0x400030, [(0x40000, 4), (0x4000, 4), (0x8, 8)], .warm, false,
    [⟨0, 1, .rw, false, false, 0⟩, ⟨1, 1, .rw, false, false, 0⟩]⟩,
  ⟨"PVp_LUu_CTXc_SWITCH_DOC", 0x400034, [(0x40000, 4), (0x4000, 4), (0x8, 8)], .warm, false,
    [⟨0, 32, .rw, false, false, 0⟩]⟩,
  ⟨"PVp_LUu_CTXc_STATE", 0x400070, [(0x40000, 4), (0x4000, 4), (0x4, 8)], .warm, false,
    [⟨0, 1, .ro, false, false, 0⟩, ⟨1, 1, .ro, false, false, 0⟩, ⟨2, 1, .ro, false, false, 0⟩]⟩,
  ⟨"PVp_LUu_CTXc_DARK", 0x400090, [(0x40000, 4), (0x4000, 4), (0x4, 8)], .warm, false,
    [⟨0, 16, .ro, false, false, 0⟩]⟩,
  ⟨"PVp_LUu_CNTk", 0x4000C0, [(0x40000, 4), (0x4000, 4), (0x4, 7)], .warm, false,
    [⟨0, 32, .rw, false, true, 0⟩]⟩,
  ⟨"PVp_LUu_CTXc_CFG", 0x400100, [(0x40000, 4), (0x4000, 4), (0x20, 8)], .warm, true,
    [⟨0, 6, .ro, true, false, 0⟩, ⟨6, 1, .ro, true, false, 0⟩, ⟨8, 4, .ro, true, false, 0⟩, ⟨12, 1, .rw, true, false, 0⟩, ⟨13, 1, .rw, true, false, 0⟩, ⟨14, 3, .rw, true, false, 0⟩, ⟨17, 1, .rw, true, false, 0⟩]⟩,
  ⟨"PVp_LUu_CTXc_TBL", 0x400104, [(0x40000, 4), (0x4000, 4), (0x20, 8)], .warm, true,
    [⟨0, 15, .rw, true, false, 0⟩, ⟨16, 15, .rw, true, false, 0⟩]⟩]

def regRowsLu1 : List RegRow := [
  ⟨"PVp_LUu_CTXc_BLACK", 0x400108, [(0x40000, 4), (0x4000, 4), (0x20, 8)], .warm, true,
    [⟨0, 16, .rw, true, false, 0⟩, ⟨16, 16, .rw, true, false, 0⟩]⟩,
  ⟨"PVp_LUu_CTXc_DARK_WIN", 0x40010C, [(0x40000, 4), (0x4000, 4), (0x20, 8)], .warm, true,
    [⟨0, 14, .rw, true, false, 0⟩, ⟨16, 3, .rw, true, false, 0⟩]⟩,
  ⟨"PVp_LUu_CTXc_DARK_INIT", 0x400110, [(0x40000, 4), (0x4000, 4), (0x20, 8)], .warm, true,
    [⟨0, 16, .rw, true, false, 0⟩]⟩,
  ⟨"PVp_LUu_CTXc_LUTk", 0x401000, [(0x40000, 4), (0x4000, 4), (0x400, 8), (0x4, 128)], .warm, true,
    [⟨0, 16, .rw, true, false, 0⟩, ⟨16, 16, .rw, true, false, 0⟩]⟩,
  ⟨"PVp_LUu_CTXc_LUTk", 0x401200, [(0x40000, 4), (0x4000, 4), (0x400, 8)], .warm, true,
    [⟨0, 16, .rw, true, false, 0⟩]⟩]

/-- The registers of block LU. -/
def regRowsLu : List RegRow := regRowsLu0 ++ regRowsLu1

def regRowsMu0 : List RegRow := [
  ⟨"PVp_MUu_STATUS", 0x410000, [(0x40000, 4), (0x4000, 2)], .warm, false,
    [⟨0, 7, .w1c, false, false, 0⟩, ⟨7, 1, .w1c, false, false, 0⟩, ⟨16, 8, .ro, true, false, 0⟩, ⟨24, 4, .ro, true, false, 0⟩]⟩,
  ⟨"PVp_MUu_INT_EN", 0x410004, [(0x40000, 4), (0x4000, 2)], .warm, false,
    [⟨0, 8, .rw, true, false, 0⟩]⟩,
  ⟨"PVp_MUu_GRPg_VEL", 0x410010, [(0x40000, 4), (0x4000, 2), (0x4, 4)], .warm, false,
    [⟨0, 32, .ro, false, false, 0⟩]⟩,
  ⟨"PVp_MUu_CTXc_OFFSET", 0x410020, [(0x40000, 4), (0x4000, 2), (0x4, 8)], .warm, false,
    [⟨0, 16, .ro, false, false, 0⟩]⟩,
  ⟨"PVp_MUu_CTXc_EXP", 0x410040, [(0x40000, 4), (0x4000, 2), (0x4, 8)], .warm, false,
    [⟨0, 16, .rw, true, false, 0⟩, ⟨16, 16, .rw, true, false, 0⟩]⟩,
  ⟨"PVp_MUu_CNTk", 0x410080, [(0x40000, 4), (0x4000, 2), (0x4, 7)], .warm, false,
    [⟨0, 32, .rw, false, true, 0⟩]⟩,
  ⟨"PVp_MUu_CTXc_CFG", 0x410100, [(0x40000, 4), (0x4000, 2), (0x20, 8)], .warm, true,
    [⟨0, 6, .ro, true, false, 0⟩, ⟨6, 1, .ro, true, false, 0⟩, ⟨7, 1, .ro, true, false, 0⟩, ⟨8, 2, .ro, true, false, 0⟩, ⟨12, 3, .ro, true, false, 0⟩]⟩,
  ⟨"PVp_MUu_CTXc_WIN", 0x410104, [(0x40000, 4), (0x4000, 2), (0x20, 8)], .warm, true,
    [⟨0, 4, .ro, true, false, 0⟩, ⟨8, 4, .ro, true, false, 0⟩]⟩,
  ⟨"PVp_MUu_CTXc_SAT", 0x410108, [(0x40000, 4), (0x4000, 2), (0x20, 8)], .warm, true,
    [⟨0, 16, .rw, true, false, 0⟩, ⟨16, 1, .rw, true, false, 0⟩]⟩,
  ⟨"PVp_MUu_GRPg_CFG", 0x410200, [(0x40000, 4), (0x4000, 2), (0x20, 4)], .warm, true,
    [⟨0, 4, .ro, true, false, 0⟩, ⟨4, 1, .ro, true, false, 0⟩, ⟨5, 1, .rw, true, false, 0⟩, ⟨8, 3, .rw, true, false, 0⟩, ⟨12, 4, .rw, true, false, 0⟩, ⟨16, 3, .rw, true, false, 0⟩]⟩,
  ⟨"PVp_MUu_GRPg_KNEE", 0x410204, [(0x40000, 4), (0x4000, 2), (0x20, 4)], .warm, true,
    [⟨0, 16, .rw, true, false, 0⟩]⟩,
  ⟨"PVp_MUu_GRPg_VEL_INIT", 0x410208, [(0x40000, 4), (0x4000, 2), (0x20, 4)], .warm, true,
    [⟨0, 32, .rw, true, false, 0⟩]⟩]

def regRowsMu1 : List RegRow := [
  ⟨"PVp_MUu_GRPg_TIMEOUT", 0x41020C, [(0x40000, 4), (0x4000, 2), (0x20, 4)], .warm, true,
    [⟨0, 24, .rw, true, false, 0⟩]⟩,
  ⟨"PVp_MUu_CTXc_WTk", 0x410400, [(0x40000, 4), (0x4000, 2), (0x40, 8), (0x4, 16)], .warm, true,
    [⟨0, 8, .rw, true, false, 0⟩, ⟨8, 8, .rw, true, false, 0⟩, ⟨16, 8, .rw, true, false, 0⟩, ⟨24, 8, .rw, true, false, 0⟩]⟩]

/-- The registers of block MU. -/
def regRowsMu : List RegRow := regRowsMu0 ++ regRowsMu1

def regRowsGu0 : List RegRow := [
  ⟨"PVp_GU_STATUS", 0x420000, [(0x40000, 4)], .warm, false,
    [⟨0, 10, .w1c, false, false, 0⟩, ⟨10, 1, .w1c, false, false, 0⟩, ⟨11, 1, .w1c, false, false, 0⟩]⟩,
  ⟨"PVp_GU_INT_EN", 0x420004, [(0x40000, 4)], .warm, false,
    [⟨0, 12, .rw, true, false, 0⟩]⟩,
  ⟨"PVp_GU_PATHq_CROP", 0x420010, [(0x40000, 4), (0x4, 8)], .warm, false,
    [⟨0, 14, .rw, true, false, 0⟩, ⟨16, 14, .rw, true, false, 0⟩]⟩,
  ⟨"PVp_GU_PATHq_CTRL", 0x420030, [(0x40000, 4), (0x4, 8)], .warm, false,
    [⟨0, 2, .rw, true, false, 0⟩, ⟨2, 1, .rw, true, false, 0⟩]⟩,
  ⟨"PVp_GU_PATHq_ANGLE", 0x420050, [(0x40000, 4), (0x4, 8)], .warm, false,
    [⟨0, 16, .ro, false, false, 0⟩, ⟨16, 1, .ro, false, false, 0⟩, ⟨17, 1, .ro, false, false, 0⟩, ⟨18, 1, .ro, false, false, 0⟩]⟩,
  ⟨"PVp_GU_PATHq_SIZE", 0x420070, [(0x40000, 4), (0x4, 8)], .warm, false,
    [⟨0, 15, .ro, false, false, 0⟩, ⟨16, 16, .ro, false, false, 0⟩]⟩,
  ⟨"PVp_GU_CTXc_LEVEL", 0x420090, [(0x40000, 4), (0x4, 8)], .warm, false,
    [⟨0, 16, .ro, false, false, 0⟩]⟩,
  ⟨"PVp_GU_CNTk", 0x4200C0, [(0x40000, 4), (0x4, 10)], .warm, false,
    [⟨0, 32, .rw, false, true, 0⟩]⟩,
  ⟨"PVp_GU_CTXc_CFG", 0x420100, [(0x40000, 4), (0x20, 8)], .warm, true,
    [⟨0, 6, .ro, true, false, 0⟩, ⟨6, 1, .ro, true, false, 0⟩, ⟨8, 3, .ro, true, false, 0⟩, ⟨11, 1, .ro, true, false, 0⟩, ⟨12, 4, .ro, true, false, 0⟩, ⟨16, 1, .rw, true, false, 0⟩]⟩,
  ⟨"PVp_GU_CTXc_GRID", 0x420104, [(0x40000, 4), (0x20, 8)], .warm, true,
    [⟨0, 24, .rw, true, false, 0⟩]⟩,
  ⟨"PVp_GU_CTXc_DELAY", 0x420108, [(0x40000, 4), (0x20, 8)], .warm, true,
    [⟨0, 32, .ro, true, false, 0⟩]⟩,
  ⟨"PVp_GU_CTXc_RING_BASE", 0x42010C, [(0x40000, 4), (0x20, 8)], .warm, true,
    [⟨0, 18, .ro, true, false, 0⟩]⟩]

def regRowsGu1 : List RegRow := [
  ⟨"PVp_GU_CTXc_RING_LINES", 0x420110, [(0x40000, 4), (0x20, 8)], .warm, true,
    [⟨0, 16, .ro, true, false, 0⟩]⟩,
  ⟨"PVp_GU_PATHq_CFG", 0x420200, [(0x40000, 4), (0x40, 8)], .warm, true,
    [⟨0, 3, .ro, true, false, 0⟩, ⟨3, 3, .ro, true, false, 0⟩, ⟨6, 1, .ro, true, false, 0⟩, ⟨7, 1, .rw, true, false, 0⟩, ⟨8, 1, .rw, true, false, 0⟩, ⟨16, 8, .ro, true, false, 0⟩, ⟨24, 1, .ro, true, false, 0⟩]⟩,
  ⟨"PVp_GU_PATHq_FILL", 0x420204, [(0x40000, 4), (0x40, 8)], .warm, true,
    [⟨0, 16, .rw, true, false, 0⟩]⟩,
  ⟨"PVp_GU_PATHq_EDGE_WIN", 0x420208, [(0x40000, 4), (0x40, 8)], .warm, true,
    [⟨0, 14, .rw, true, false, 0⟩, ⟨16, 14, .rw, true, false, 0⟩]⟩,
  ⟨"PVp_GU_PATHq_EDGE_THR", 0x42020C, [(0x40000, 4), (0x40, 8)], .warm, true,
    [⟨0, 16, .rw, true, false, 0⟩, ⟨16, 16, .rw, true, false, 0⟩]⟩,
  ⟨"PVp_GU_PATHq_EDGE_CFG", 0x420210, [(0x40000, 4), (0x40, 8)], .warm, true,
    [⟨0, 3, .rw, true, false, 0⟩, ⟨4, 4, .rw, true, false, 0⟩, ⟨8, 2, .rw, true, false, 0⟩]⟩,
  ⟨"PVp_GU_PATHq_MEAS", 0x420214, [(0x40000, 4), (0x40, 8)], .warm, true,
    [⟨0, 11, .rw, true, false, 0⟩, ⟨12, 11, .rw, true, false, 0⟩, ⟨24, 8, .rw, true, false, 0⟩]⟩,
  ⟨"PVp_GU_PATHq_BOX", 0x420218, [(0x40000, 4), (0x40, 8)], .warm, true,
    [⟨0, 8, .rw, true, false, 0⟩, ⟨8, 2, .ro, true, false, 0⟩, ⟨10, 1, .ro, true, false, 0⟩, ⟨11, 2, .ro, true, false, 0⟩, ⟨13, 1, .ro, true, false, 0⟩, ⟨14, 2, .ro, true, false, 0⟩]⟩,
  ⟨"PVp_GU_PATHq_BOX_OFF", 0x42021C, [(0x40000, 4), (0x40, 8)], .warm, true,
    [⟨0, 16, .rw, true, false, 0⟩, ⟨16, 16, .rw, true, false, 0⟩]⟩,
  ⟨"PVp_GU_PATHq_LIMIT", 0x420220, [(0x40000, 4), (0x40, 8)], .warm, true,
    [⟨0, 15, .rw, true, false, 0⟩, ⟨16, 16, .rw, true, false, 0⟩]⟩]

/-- The registers of block GU. -/
def regRowsGu : List RegRow := regRowsGu0 ++ regRowsGu1

def regRowsBu0 : List RegRow := [
  ⟨"PVp_BUu_STATUS", 0x428000, [(0x40000, 4), (0x4000, 2)], .warm, false,
    [⟨0, 5, .w1c, false, false, 0⟩, ⟨16, 8, .ro, true, false, 0⟩]⟩,
  ⟨"PVp_BUu_INT_EN", 0x428004, [(0x40000, 4), (0x4000, 2)], .warm, false,
    [⟨0, 5, .rw, true, false, 0⟩]⟩,
  ⟨"PVp_BUu_CTXc_SEQ", 0x428020, [(0x40000, 4), (0x4000, 2), (0x4, 8)], .warm, false,
    [⟨0, 32, .ro, false, false, 0⟩]⟩,
  ⟨"PVp_BUu_CTXc_REC", 0x428040, [(0x40000, 4), (0x4000, 2), (0x4, 8)], .warm, false,
    [⟨0, 28, .ro, false, false, 0⟩]⟩,
  ⟨"PVp_BUu_CNTk", 0x4280C0, [(0x40000, 4), (0x4000, 2), (0x4, 5)], .warm, false,
    [⟨0, 32, .rw, false, true, 0⟩]⟩,
  ⟨"PVp_BUu_CTXc_CFG", 0x428100, [(0x40000, 4), (0x4000, 2), (0x40, 8)], .warm, true,
    [⟨0, 6, .ro, true, false, 0⟩, ⟨6, 1, .ro, true, false, 0⟩, ⟨7, 1, .ro, true, false, 0⟩, ⟨8, 4, .ro, true, false, 0⟩, ⟨12, 1, .rw, true, false, 0⟩, ⟨16, 4, .rw, true, false, 0⟩, ⟨20, 4, .rw, true, false, 0⟩, ⟨24, 5, .ro, true, false, 0⟩, ⟨29, 1, .ro, true, false, 0⟩, ⟨30, 1, .ro, true, false, 0⟩]⟩,
  ⟨"PVp_BUu_CTXc_EXCL", 0x428104, [(0x40000, 4), (0x4000, 2), (0x40, 8)], .warm, true,
    [⟨0, 16, .rw, true, false, 0⟩]⟩,
  ⟨"PVp_BUu_CTXc_WIN", 0x428108, [(0x40000, 4), (0x4000, 2), (0x40, 8)], .warm, true,
    [⟨0, 16, .rw, true, false, 0⟩]⟩,
  ⟨"PVp_BUu_CTXc_ZGRID", 0x42810C, [(0x40000, 4), (0x4000, 2), (0x40, 8)], .warm, true,
    [⟨0, 6, .rw, true, false, 0⟩, ⟨8, 6, .rw, true, false, 0⟩, ⟨16, 16, .rw, true, false, 0⟩]⟩,
  ⟨"PVp_BUu_CTXc_ZORG", 0x428110, [(0x40000, 4), (0x4000, 2), (0x40, 8)], .warm, true,
    [⟨0, 14, .rw, true, false, 0⟩, ⟨16, 15, .rw, true, false, 0⟩]⟩,
  ⟨"PVp_BUu_CTXc_ZSIZE", 0x428114, [(0x40000, 4), (0x4000, 2), (0x40, 8)], .warm, true,
    [⟨0, 14, .rw, true, false, 0⟩, ⟨16, 15, .rw, true, false, 0⟩]⟩,
  ⟨"PVp_BUu_CTXc_RING", 0x428118, [(0x40000, 4), (0x4000, 2), (0x40, 8)], .warm, true,
    [⟨0, 9, .ro, true, false, 0⟩, ⟨16, 12, .ro, true, false, 0⟩]⟩]

def regRowsBu1 : List RegRow := [
  ⟨"PVp_BUu_CTXc_REC_BASE", 0x42811C, [(0x40000, 4), (0x4000, 2), (0x40, 8)], .warm, true,
    [⟨0, 28, .ro, true, false, 0⟩]⟩,
  ⟨"PVp_BUu_CTXc_REGr_X", 0x428120, [(0x40000, 4), (0x4000, 2), (0x40, 8), (0x8, 4)], .warm, true,
    [⟨0, 14, .rw, true, false, 0⟩, ⟨16, 14, .rw, true, false, 0⟩]⟩,
  ⟨"PVp_BUu_CTXc_REGr_Y", 0x428124, [(0x40000, 4), (0x4000, 2), (0x40, 8), (0x8, 4)], .warm, true,
    [⟨0, 15, .rw, true, false, 0⟩, ⟨16, 15, .rw, true, false, 0⟩]⟩]

/-- The registers of block BU. -/
def regRowsBu : List RegRow := regRowsBu0 ++ regRowsBu1

def regRowsOf0 : List RegRow := [
  ⟨"PVp_OFu_STATUS", 0x430000, [(0x40000, 4), (0x4000, 2)], .warm, false,
    [⟨0, 5, .w1c, false, false, 0⟩, ⟨16, 8, .ro, true, false, 0⟩]⟩,
  ⟨"PVp_OFu_INT_EN", 0x430004, [(0x40000, 4), (0x4000, 2)], .warm, false,
    [⟨0, 5, .rw, true, false, 0⟩]⟩,
  ⟨"PVp_OFu_CNTk", 0x4300C0, [(0x40000, 4), (0x4000, 2), (0x4, 5)], .warm, false,
    [⟨0, 32, .rw, false, true, 0⟩]⟩,
  ⟨"PVp_OFu_CTXc_CFG", 0x430100, [(0x40000, 4), (0x4000, 2), (0x20, 8)], .warm, true,
    [⟨0, 6, .ro, true, false, 0⟩, ⟨6, 1, .ro, true, false, 0⟩, ⟨8, 5, .ro, true, false, 0⟩, ⟨14, 5, .ro, true, false, 0⟩, ⟨19, 1, .ro, true, false, 0⟩]⟩]

/-- The registers of block OF. -/
def regRowsOf : List RegRow := regRowsOf0

def regRowsOs0 : List RegRow := [
  ⟨"OSn_CTRL", 0x500000, [(0x800, 32)], .warm, false,
    [⟨0, 1, .rw, true, false, 0⟩]⟩,
  ⟨"OSn_STATUS", 0x500004, [(0x800, 32)], .warm, false,
    [⟨0, 7, .w1c, false, false, 0⟩, ⟨16, 1, .ro, false, false, 0⟩]⟩,
  ⟨"OSn_INT_EN", 0x500008, [(0x800, 32)], .warm, false,
    [⟨0, 7, .rw, true, false, 0⟩]⟩,
  ⟨"OSn_LAST_SEAL", 0x50000C, [(0x800, 32)], .warm, false,
    [⟨0, 32, .ro, false, false, 0⟩]⟩,
  ⟨"OSn_LAST_DOC", 0x500010, [(0x800, 32)], .warm, false,
    [⟨0, 32, .ro, false, false, 0⟩]⟩,
  ⟨"OSn_LAST_LINE", 0x500014, [(0x800, 32)], .warm, false,
    [⟨0, 32, .ro, false, false, 0⟩]⟩,
  ⟨"OSn_CNTk", 0x500040, [(0x800, 32), (0x4, 7)], .warm, false,
    [⟨0, 32, .rw, false, true, 0⟩]⟩,
  ⟨"OSn_CFG", 0x500100, [(0x800, 32)], .warm, true,
    [⟨0, 1, .ro, true, false, 0⟩, ⟨1, 2, .ro, true, false, 0⟩, ⟨3, 1, .ro, true, false, 0⟩, ⟨4, 5, .ro, true, false, 0⟩, ⟨31, 1, .ro, true, false, 0⟩]⟩,
  ⟨"OSn_FMT", 0x500104, [(0x800, 32)], .warm, true,
    [⟨0, 3, .rw, true, false, 0⟩, ⟨3, 1, .rw, true, false, 0⟩, ⟨4, 4, .rw, true, false, 0⟩]⟩,
  ⟨"OSn_CHSEL", 0x500108, [(0x800, 32)], .warm, true,
    [⟨0, 3, .rw, true, false, 0⟩, ⟨3, 3, .rw, true, false, 0⟩, ⟨6, 3, .rw, true, false, 0⟩, ⟨9, 3, .rw, true, false, 0⟩, ⟨12, 3, .rw, true, false, 0⟩, ⟨15, 3, .rw, true, false, 0⟩, ⟨18, 3, .rw, true, false, 0⟩, ⟨21, 3, .rw, true, false, 0⟩]⟩,
  ⟨"OSn_JLS", 0x50010C, [(0x800, 32)], .warm, true,
    [⟨0, 1, .rw, true, false, 0⟩, ⟨1, 3, .rw, true, false, 0⟩, ⟨4, 1, .rw, true, false, 0⟩, ⟨5, 11, .rw, true, false, 0⟩]⟩,
  ⟨"OSn_JLS_THR", 0x500110, [(0x800, 32)], .warm, true,
    [⟨0, 16, .rw, true, false, 0⟩, ⟨16, 16, .rw, true, false, 0⟩]⟩]

def regRowsOs1 : List RegRow := [
  ⟨"OSn_JLS_THR2", 0x500114, [(0x800, 32)], .warm, true,
    [⟨0, 16, .rw, true, false, 0⟩, ⟨16, 8, .rw, true, false, 0⟩]⟩,
  ⟨"OSn_STATS_BASE_LO", 0x500118, [(0x800, 32)], .warm, true,
    [⟨6, 26, .rw, true, false, 0⟩]⟩,
  ⟨"OSn_STATS_BASE_HI", 0x50011C, [(0x800, 32)], .warm, true,
    [⟨0, 32, .rw, true, false, 0⟩]⟩,
  ⟨"OSn_STATS_SIZE", 0x500120, [(0x800, 32)], .warm, true,
    [⟨6, 26, .rw, true, false, 0⟩]⟩]

/-- The registers of block OS. -/
def regRowsOs : List RegRow := regRowsOs0 ++ regRowsOs1

def regRowsTb0 : List RegRow := [
  ⟨"TB_STATUS", 0x600000, [], .warm, false,
    [⟨0, 8, .w1c, false, false, 0⟩, ⟨8, 1, .w1c, false, false, 0⟩, ⟨9, 1, .w1c, false, false, 0⟩, ⟨10, 2, .w1c, false, false, 0⟩, ⟨12, 1, .w1c, false, false, 0⟩, ⟨13, 1, .w1c, false, false, 0⟩, ⟨14, 2, .ro, false, false, 0⟩]⟩,
  ⟨"TB_INT_EN", 0x600004, [], .warm, false,
    [⟨0, 14, .rw, true, false, 0⟩]⟩,
  ⟨"TB_TIME_LO", 0x600008, [], .por, false,
    [⟨0, 32, .ro, false, false, 0⟩]⟩,
  ⟨"TB_TIME_HI", 0x60000C, [], .por, false,
    [⟨0, 32, .ro, false, false, 0⟩]⟩,
  ⟨"TB_ENCk_POS", 0x600010, [(0x10, 2)], .warm, false,
    [⟨0, 32, .ro, false, false, 0⟩]⟩,
  ⟨"TB_ENCk_VEL", 0x600014, [(0x10, 2)], .warm, false,
    [⟨0, 32, .ro, false, false, 0⟩]⟩,
  ⟨"TB_ENCk_ERR_CNT", 0x600018, [(0x10, 2)], .warm, false,
    [⟨0, 32, .rw, false, true, 0⟩]⟩,
  ⟨"TB_PIN_LEVEL", 0x600030, [], .warm, false,
    [⟨0, 16, .ro, false, false, 0⟩, ⟨16, 4, .ro, false, false, 0⟩]⟩,
  ⟨"TB_SCHEDk_TIME_LO", 0x600040, [(0x10, 8)], .warm, false,
    [⟨0, 32, .rw, false, false, 0⟩]⟩,
  ⟨"TB_SCHEDk_TIME_HI", 0x600044, [(0x10, 8)], .warm, false,
    [⟨0, 32, .rw, false, false, 0⟩]⟩,
  ⟨"TB_SCHEDk_CTRL", 0x600048, [(0x10, 8)], .warm, false,
    [⟨0, 4, .rw, false, false, 0⟩, ⟨4, 1, .rw, false, false, 0⟩, ⟨5, 1, .ro, false, false, 0⟩, ⟨6, 2, .ro, false, false, 0⟩, ⟨8, 1, .wo, false, false, 0⟩, ⟨9, 1, .wo, false, false, 0⟩]⟩,
  ⟨"TB_SCHEDk_ARG", 0x60004C, [(0x10, 8)], .warm, false,
    [⟨0, 32, .rw, false, false, 0⟩]⟩]

def regRowsTb1 : List RegRow := [
  ⟨"TB_SYNC_STATUS", 0x6000C0, [], .warm, false,
    [⟨0, 1, .ro, false, false, 0⟩, ⟨1, 1, .ro, false, false, 0⟩, ⟨2, 1, .ro, false, false, 0⟩, ⟨3, 2, .ro, false, false, 0⟩, ⟨5, 4, .ro, false, false, 15⟩, ⟨16, 16, .ro, false, false, 0⟩]⟩,
  ⟨"TB_SNAP_TIME_LO", 0x6000C4, [], .warm, false,
    [⟨0, 32, .ro, false, false, 0⟩]⟩,
  ⟨"TB_SNAP_TIME_HI", 0x6000C8, [], .warm, false,
    [⟨0, 32, .ro, false, false, 0⟩]⟩,
  ⟨"TB_SNAP_SEQ", 0x6000CC, [], .warm, false,
    [⟨0, 32, .ro, false, false, 0⟩]⟩,
  ⟨"TB_STB_RUN", 0x6000D0, [], .warm, false,
    [⟨0, 32, .ro, false, false, 0⟩]⟩,
  ⟨"TB_STB_START", 0x6000D4, [], .warm, false,
    [⟨0, 32, .wo, false, false, 0⟩]⟩,
  ⟨"TB_STB_STOP", 0x6000D8, [], .warm, false,
    [⟨0, 32, .wo, false, false, 0⟩]⟩,
  ⟨"TB_STB_SW", 0x6000DC, [], .warm, false,
    [⟨0, 32, .wo, false, false, 0⟩]⟩,
  ⟨"TB_SNAP_DATAj", 0x6000E0, [(0x4, 6)], .warm, false,
    [⟨0, 32, .ro, false, false, 0⟩]⟩,
  ⟨"TB_STB_OVR_CNT", 0x6000F8, [], .warm, false,
    [⟨0, 32, .rw, false, true, 0⟩]⟩,
  ⟨"TB_SCHED_MISS_CNT", 0x6000FC, [], .warm, false,
    [⟨0, 32, .rw, false, true, 0⟩]⟩,
  ⟨"TB_TRIGi_CFG", 0x600100, [(0x4, 16)], .warm, true,
    [⟨0, 4, .rw, true, false, 0⟩, ⟨4, 1, .rw, true, false, 0⟩]⟩]

def regRowsTb2 : List RegRow := [
  ⟨"TB_ENCk_CFG", 0x600140, [(0x4, 2)], .warm, true,
    [⟨0, 2, .ro, true, false, 0⟩, ⟨2, 1, .ro, true, false, 0⟩, ⟨3, 1, .ro, true, false, 0⟩, ⟨4, 4, .rw, true, false, 0⟩, ⟨8, 3, .rw, true, false, 0⟩, ⟨16, 16, .rw, true, false, 0⟩]⟩,
  ⟨"TB_STBi_CFG", 0x600200, [(0x10, 32)], .warm, true,
    [⟨0, 3, .ro, true, false, 0⟩, ⟨4, 5, .ro, true, false, 0⟩, ⟨9, 1, .ro, true, false, 0⟩, ⟨10, 1, .ro, true, false, 0⟩, ⟨12, 3, .rw, true, false, 0⟩, ⟨16, 8, .rw, true, false, 0⟩]⟩,
  ⟨"TB_STBi_PITCH", 0x600204, [(0x10, 32)], .warm, true,
    [⟨0, 24, .rw, true, false, 0⟩]⟩,
  ⟨"TB_STBi_DELAY", 0x600208, [(0x10, 32)], .warm, true,
    [⟨0, 24, .rw, true, false, 0⟩]⟩,
  ⟨"TB_STBi_WIDTH", 0x60020C, [(0x10, 32)], .warm, true,
    [⟨0, 24, .rw, true, false, 0⟩]⟩,
  ⟨"TB_HOPg_CFG", 0x600400, [(0x4, 3)], .warm, true,
    [⟨0, 16, .rw, true, false, 0⟩, ⟨16, 16, .ro, false, false, 0⟩]⟩,
  ⟨"TB_SNAP_LISTj", 0x600420, [(0x4, 6)], .warm, true,
    [⟨2, 24, .rw, true, false, 0⟩]⟩]

/-- The registers of block TB. -/
def regRowsTb : List RegRow := regRowsTb0 ++ regRowsTb1 ++ regRowsTb2

def regRowsFm0 : List RegRow := [
  ⟨"FM_STATUS", 0x700000, [], .warm, false,
    [⟨0, 5, .w1c, false, false, 0⟩, ⟨8, 8, .ro, false, false, 0⟩, ⟨16, 1, .ro, false, false, 0⟩, ⟨17, 1, .ro, false, false, 0⟩, ⟨18, 1, .ro, false, false, 0⟩, ⟨19, 1, .ro, false, false, 0⟩]⟩,
  ⟨"FM_INT_EN", 0x700004, [], .warm, false,
    [⟨0, 5, .rw, true, false, 0⟩]⟩,
  ⟨"FM_CAPACITY", 0x700008, [], .warm, false,
    [⟨0, 16, .ro, false, false, 0⟩]⟩,
  ⟨"FM_UNCORR_ADDR_LO", 0x700010, [], .warm, false,
    [⟨6, 26, .ro, false, false, 0⟩]⟩,
  ⟨"FM_UNCORR_ADDR_HI", 0x700014, [], .warm, false,
    [⟨0, 2, .ro, false, false, 0⟩, ⟨2, 3, .ro, false, false, 0⟩, ⟨31, 1, .w1c, false, false, 0⟩]⟩,
  ⟨"FM_SCRUB_POS", 0x700018, [], .warm, false,
    [⟨0, 16, .ro, false, false, 0⟩]⟩,
  ⟨"FM_CNTk", 0x700040, [(0x4, 5)], .warm, false,
    [⟨0, 32, .rw, false, true, 0⟩]⟩,
  ⟨"FM_CFG", 0x700100, [], .warm, true,
    [⟨0, 6, .ro, true, false, 0⟩, ⟨6, 1, .ro, true, false, 0⟩, ⟨7, 1, .ro, true, false, 0⟩, ⟨8, 1, .ro, true, false, 0⟩]⟩,
  ⟨"FM_SCRUB_CTRL", 0x700104, [], .warm, true,
    [⟨0, 8, .rw, false, false, 24⟩, ⟨8, 10, .rw, false, false, 100⟩]⟩,
  ⟨"FM_INJECT", 0x700108, [], .warm, true,
    [⟨0, 28, .rw, false, false, 0⟩, ⟨28, 2, .rw, false, false, 0⟩, ⟨30, 1, .wo, false, false, 0⟩, ⟨31, 1, .w1s, false, false, 0⟩]⟩]

/-- The registers of block FM. -/
def regRowsFm : List RegRow := regRowsFm0

def regRowsDma0 : List RegRow := [
  ⟨"DMA_STATUS", 0x800000, [], .warm, false,
    [⟨0, 1, .w1c, false, false, 0⟩, ⟨1, 1, .w1c, false, false, 0⟩]⟩,
  ⟨"DMA_CH_ACTIVE", 0x800004, [], .warm, false,
    [⟨0, 32, .ro, false, false, 0⟩]⟩,
  ⟨"DMA_CH_FAULT", 0x800008, [], .warm, false,
    [⟨0, 32, .ro, false, false, 0⟩]⟩,
  ⟨"DMA_BUF_CORR_CNT", 0x800010, [], .warm, false,
    [⟨0, 32, .rw, false, true, 0⟩]⟩,
  ⟨"DMA_BUF_UNCORR_CNT", 0x800014, [], .warm, false,
    [⟨0, 32, .rw, false, true, 0⟩]⟩,
  ⟨"DMA_CHn_BIND", 0x800100, [(0x4, 32)], .warm, true,
    [⟨0, 2, .ro, true, false, 0⟩, ⟨2, 5, .ro, true, false, 0⟩, ⟨7, 1, .ro, true, false, 0⟩, ⟨8, 1, .ro, true, false, 0⟩, ⟨16, 10, .ro, true, false, 0⟩]⟩,
  ⟨"DMA_CHn_CTRL", 0x801000, [(0x80, 32)], .flr, false,
    [⟨0, 1, .wo, false, false, 0⟩, ⟨1, 1, .wo, false, false, 0⟩, ⟨2, 1, .wo, false, false, 0⟩, ⟨3, 1, .wo, false, false, 0⟩]⟩,
  ⟨"DMA_CHn_STATUS", 0x801004, [(0x80, 32)], .flr, false,
    [⟨0, 3, .ro, false, false, 0⟩, ⟨3, 8, .ro, false, false, 0⟩, ⟨11, 1, .w1c, false, false, 0⟩, ⟨12, 1, .w1c, false, false, 0⟩, ⟨13, 1, .w1c, false, false, 0⟩, ⟨14, 1, .w1c, false, false, 0⟩, ⟨15, 1, .w1c, false, false, 0⟩, ⟨16, 1, .w1c, false, false, 0⟩, ⟨17, 1, .w1c, false, false, 0⟩, ⟨18, 8, .ro, false, false, 0⟩]⟩,
  ⟨"DMA_CHn_INT_EN", 0x801008, [(0x80, 32)], .flr, false,
    [⟨11, 7, .rw, false, false, 0⟩]⟩,
  ⟨"DMA_CHn_PC", 0x80100C, [(0x80, 32)], .flr, false,
    [⟨0, 6, .ro, false, false, 0⟩]⟩,
  ⟨"DMA_CHn_PROG_LO", 0x801010, [(0x80, 32)], .flr, false,
    [⟨5, 27, .rw, false, false, 0⟩]⟩,
  ⟨"DMA_CHn_PROG_HI", 0x801014, [(0x80, 32)], .flr, false,
    [⟨0, 32, .rw, false, false, 0⟩]⟩]

def regRowsDma1 : List RegRow := [
  ⟨"DMA_CHn_PROG_CFG", 0x801018, [(0x80, 32)], .flr, false,
    [⟨0, 7, .rw, false, false, 0⟩, ⟨7, 1, .rw, false, false, 0⟩]⟩,
  ⟨"DMA_CHn_RING_BASE_LO", 0x80101C, [(0x80, 32)], .flr, false,
    [⟨6, 26, .rw, false, false, 0⟩]⟩,
  ⟨"DMA_CHn_RING_BASE_HI", 0x801020, [(0x80, 32)], .flr, false,
    [⟨0, 32, .rw, false, false, 0⟩]⟩,
  ⟨"DMA_CHn_RING_CFG", 0x801024, [(0x80, 32)], .flr, false,
    [⟨0, 16, .rw, false, false, 0⟩, ⟨16, 16, .rw, false, false, 0⟩]⟩,
  ⟨"DMA_CHn_RING_CURSOR", 0x801028, [(0x80, 32)], .flr, false,
    [⟨0, 16, .ro, false, false, 0⟩]⟩,
  ⟨"DMA_CHn_SEM", 0x80102C, [(0x80, 32)], .flr, false,
    [⟨0, 16, .ro, false, false, 0⟩]⟩,
  ⟨"DMA_CHn_SEM_ADD", 0x801030, [(0x80, 32)], .flr, false,
    [⟨0, 16, .wo, false, false, 0⟩]⟩,
  ⟨"DMA_CHn_CPL_LO", 0x801034, [(0x80, 32)], .flr, false,
    [⟨0, 1, .rw, false, false, 0⟩, ⟨5, 27, .rw, false, false, 0⟩]⟩,
  ⟨"DMA_CHn_CPL_HI", 0x801038, [(0x80, 32)], .flr, false,
    [⟨0, 32, .rw, false, false, 0⟩]⟩,
  ⟨"DMA_CHn_ITEM_CNT", 0x801040, [(0x80, 32)], .flr, false,
    [⟨0, 32, .rw, false, true, 0⟩]⟩,
  ⟨"DMA_CHn_DISC_CNT", 0x801044, [(0x80, 32)], .flr, false,
    [⟨0, 32, .rw, false, true, 0⟩]⟩,
  ⟨"DMA_CHn_DUP_CNT", 0x801048, [(0x80, 32)], .flr, false,
    [⟨0, 32, .rw, false, true, 0⟩]⟩]

def regRowsDma2 : List RegRow := [
  ⟨"DMA_CHn_LAST_DOC", 0x80104C, [(0x80, 32)], .flr, false,
    [⟨0, 32, .ro, false, false, 0⟩]⟩]

/-- The registers of block DMA. -/
def regRowsDma : List RegRow := regRowsDma0 ++ regRowsDma1 ++ regRowsDma2

def regRowsLnk0 : List RegRow := [
  ⟨"LNK_Gg_STATUS", 0x900000, [(0x10, 3)], .warm, false,
    [⟨0, 4, .ro, false, false, 0⟩, ⟨4, 1, .ro, false, false, 0⟩, ⟨5, 1, .ro, false, false, 0⟩, ⟨8, 8, .ro, false, false, 0⟩, ⟨16, 1, .w1c, false, false, 0⟩, ⟨17, 1, .w1c, false, false, 0⟩, ⟨18, 1, .w1c, false, false, 0⟩, ⟨19, 1, .w1c, false, false, 0⟩, ⟨20, 1, .w1c, false, false, 0⟩, ⟨21, 1, .w1c, false, false, 0⟩]⟩,
  ⟨"LNK_Gg_CTRL", 0x900004, [(0x10, 3)], .warm, false,
    [⟨0, 1, .wo, false, false, 0⟩, ⟨1, 1, .rw, false, false, 0⟩, ⟨2, 1, .wo, false, false, 0⟩]⟩,
  ⟨"LNK_Gg_FAR", 0x900008, [(0x10, 3)], .warm, false,
    [⟨0, 8, .ro, false, false, 0⟩, ⟨8, 2, .ro, false, false, 0⟩, ⟨10, 4, .ro, false, false, 0⟩, ⟨31, 1, .ro, false, false, 0⟩]⟩,
  ⟨"LNK_Gg_INT_EN", 0x90000C, [(0x10, 3)], .warm, false,
    [⟨16, 6, .rw, true, false, 0⟩]⟩,
  ⟨"LNK_REF_STATUS", 0x900030, [], .warm, false,
    [⟨0, 2, .ro, false, false, 0⟩, ⟨2, 1, .ro, false, false, 0⟩, ⟨3, 1, .ro, false, false, 0⟩, ⟨4, 1, .ro, false, false, 0⟩, ⟨5, 1, .ro, false, false, 0⟩, ⟨6, 1, .w1c, false, false, 0⟩, ⟨7, 1, .w1c, false, false, 0⟩]⟩,
  ⟨"LNK_REF_INT_EN", 0x900034, [], .warm, false,
    [⟨6, 2, .rw, true, false, 0⟩]⟩,
  ⟨"LNK_Gg_CNTk", 0x900040, [(0x20, 3), (0x4, 8)], .warm, false,
    [⟨0, 32, .rw, false, true, 0⟩]⟩,
  ⟨"LNK_Gg_CFG", 0x900100, [(0x20, 3)], .warm, true,
    [⟨0, 4, .ro, true, false, 0⟩, ⟨4, 1, .ro, true, false, 0⟩, ⟨5, 1, .rw, true, false, 0⟩, ⟨6, 1, .ro, true, false, 0⟩, ⟨16, 16, .rw, true, false, 0⟩]⟩,
  ⟨"LNK_Gg_EQ", 0x900104, [(0x20, 3)], .warm, true,
    [⟨0, 4, .rw, true, false, 0⟩, ⟨4, 5, .rw, true, false, 0⟩, ⟨16, 5, .rw, true, false, 0⟩]⟩,
  ⟨"LNK_Gg_LANEl_EQ", 0x900200, [(0x20, 3), (0x4, 8)], .warm, true,
    [⟨0, 4, .ro, false, false, 0⟩, ⟨4, 5, .ro, false, false, 0⟩, ⟨16, 5, .ro, false, false, 0⟩, ⟨24, 6, .ro, false, false, 0⟩]⟩,
  ⟨"LNK_Gg_LANEl_ERR_CNT", 0x900300, [(0x20, 3), (0x4, 8)], .warm, true,
    [⟨0, 32, .rw, false, true, 0⟩]⟩]

/-- The registers of block LNK. -/
def regRowsLnk : List RegRow := regRowsLnk0

def regRowsBrg0 : List RegRow := [
  ⟨"BRG_STATUS", 0x980000, [], .warm, false,
    [⟨0, 1, .w1c, false, false, 0⟩, ⟨1, 1, .w1c, false, false, 0⟩, ⟨2, 1, .w1c, false, false, 0⟩, ⟨3, 1, .w1c, false, false, 0⟩, ⟨4, 1, .w1c, false, false, 0⟩, ⟨5, 1, .w1c, false, false, 0⟩, ⟨6, 1, .w1c, false, false, 0⟩, ⟨7, 1, .w1c, false, false, 0⟩]⟩,
  ⟨"BRG_INT_EN", 0x980004, [], .warm, false,
    [⟨0, 8, .rw, true, false, 0⟩]⟩,
  ⟨"BRG_CTRL", 0x980008, [], .warm, false,
    [⟨0, 1, .rw, false, false, 0⟩]⟩,
  ⟨"BRG_RD_TIMEOUT", 0x98000C, [], .warm, false,
    [⟨0, 20, .rw, false, false, 1000⟩]⟩,
  ⟨"BRG_TUN_TIMEOUT", 0x980010, [], .warm, false,
    [⟨0, 14, .rw, false, false, 100⟩]⟩,
  ⟨"BRG_PF3_CFG", 0x980014, [], .warm, false,
    [⟨0, 2, .rw, false, false, 2⟩]⟩,
  ⟨"BRG_TAGS", 0x980018, [], .warm, false,
    [⟨0, 9, .ro, false, false, 0⟩, ⟨16, 9, .ro, false, false, 0⟩]⟩,
  ⟨"BRG_VW_IN", 0x98001C, [], .warm, false,
    [⟨0, 32, .ro, false, false, 0⟩]⟩,
  ⟨"BRG_VW_SW", 0x980020, [], .warm, false,
    [⟨0, 32, .rw, false, false, 0⟩]⟩,
  ⟨"BRG_PERR_STATUS", 0x980024, [], .warm, false,
    [⟨0, 4, .ro, false, false, 0⟩]⟩,
  ⟨"BRG_PERR_POP", 0x980028, [], .warm, false,
    [⟨0, 1, .wo, false, false, 0⟩]⟩,
  ⟨"BRG_PERR_LOGe_ADDR", 0x980040, [(0x10, 8)], .warm, false,
    [⟨0, 26, .ro, false, false, 0⟩]⟩]

def regRowsBrg1 : List RegRow := [
  ⟨"BRG_PERR_LOGe_INFO", 0x980044, [(0x10, 8)], .warm, false,
    [⟨0, 4, .ro, false, false, 0⟩, ⟨4, 4, .ro, false, false, 0⟩, ⟨8, 4, .ro, false, false, 0⟩, ⟨12, 2, .ro, false, false, 0⟩]⟩,
  ⟨"BRG_PERR_LOGe_TIME", 0x980048, [(0x10, 8)], .warm, false,
    [⟨0, 32, .ro, false, false, 0⟩]⟩,
  ⟨"BRG_LATE_CNT", 0x9800C0, [], .warm, false,
    [⟨0, 32, .rw, false, true, 0⟩]⟩,
  ⟨"BRG_CNTk", 0x9800C4, [(0x4, 8)], .warm, false,
    [⟨0, 32, .rw, false, true, 0⟩]⟩,
  ⟨"BRG_VW_CFG", 0x980100, [], .warm, true,
    [⟨0, 2, .rw, true, false, 0⟩]⟩,
  ⟨"BRG_VW_SELw", 0x980180, [(0x4, 32)], .warm, true,
    [⟨0, 3, .ro, true, false, 0⟩, ⟨3, 5, .ro, true, false, 0⟩]⟩,
  ⟨"BRG_TUNk_CFG", 0x980200, [(0x8, 32)], .warm, true,
    [⟨0, 4, .ro, true, false, 0⟩, ⟨4, 3, .ro, true, false, 0⟩, ⟨7, 2, .ro, true, false, 0⟩, ⟨9, 1, .ro, true, false, 0⟩, ⟨10, 5, .ro, true, false, 0⟩, ⟨31, 1, .ro, true, false, 0⟩]⟩,
  ⟨"BRG_TUNk_SHAPE", 0x980204, [(0x8, 32)], .warm, true,
    [⟨0, 16, .ro, true, false, 0⟩, ⟨16, 16, .ro, true, false, 0⟩]⟩]

/-- The registers of block BRG. -/
def regRowsBrg : List RegRow := regRowsBrg0 ++ regRowsBrg1

def regRowsTw0 : List RegRow := [
  ⟨"TW_BANK", 0xA00000, [], .por, false,
    [⟨0, 1, .ro, false, false, 0⟩]⟩,
  ⟨"TWk_CFG", 0xA00100, [(0x4, 8)], .warm, true,
    [⟨0, 2, .ro, true, false, 0⟩, ⟨2, 1, .ro, true, false, 0⟩, ⟨3, 1, .ro, true, false, 0⟩, ⟨4, 1, .rw, true, false, 0⟩, ⟨5, 3, .rw, true, false, 0⟩, ⟨8, 8, .rw, false, false, 250⟩]⟩,
  ⟨"TW8_CFG", 0xA00120, [], .warm, true,
    [⟨0, 7, .ro, true, false, 0⟩, ⟨7, 1, .ro, true, false, 0⟩]⟩,
  ⟨"TWk_STATUS", 0xA01000, [(0x100, 8)], .warm, false,
    [⟨0, 1, .w1c, false, false, 0⟩, ⟨1, 1, .w1c, false, false, 0⟩, ⟨2, 1, .w1c, false, false, 0⟩, ⟨3, 1, .w1c, false, false, 0⟩, ⟨4, 1, .w1c, false, false, 0⟩, ⟨5, 1, .w1c, false, false, 0⟩, ⟨6, 1, .w1c, false, false, 0⟩, ⟨7, 1, .w1c, false, false, 0⟩, ⟨8, 1, .ro, false, false, 0⟩, ⟨9, 1, .ro, false, false, 0⟩, ⟨10, 1, .ro, false, false, 0⟩, ⟨11, 1, .ro, false, false, 0⟩, ⟨16, 5, .ro, false, false, 0⟩, ⟨24, 5, .ro, false, false, 0⟩]⟩,
  ⟨"TWk_INT_EN", 0xA01004, [(0x100, 8)], .warm, false,
    [⟨0, 8, .rw, true, false, 0⟩]⟩,
  ⟨"TWk_QCMD", 0xA01008, [(0x100, 8)], .warm, false,
    [⟨0, 7, .wo, false, false, 0⟩, ⟨8, 7, .wo, false, false, 0⟩, ⟨16, 7, .wo, false, false, 0⟩, ⟨24, 1, .wo, false, false, 0⟩, ⟨28, 4, .wo, false, false, 0⟩]⟩,
  ⟨"TWk_WDATA", 0xA0100C, [(0x100, 8)], .warm, false,
    [⟨0, 32, .wo, false, false, 0⟩]⟩,
  ⟨"TWk_RES", 0xA01010, [(0x100, 8)], .warm, false,
    [⟨0, 4, .ro, false, false, 0⟩, ⟨4, 4, .ro, false, false, 0⟩, ⟨8, 7, .ro, false, false, 0⟩, ⟨16, 7, .ro, false, false, 0⟩, ⟨24, 5, .ro, false, false, 0⟩, ⟨31, 1, .ro, false, false, 0⟩]⟩,
  ⟨"TWk_RDATA", 0xA01014, [(0x100, 8)], .warm, false,
    [⟨0, 32, .ro, false, false, 0⟩]⟩,
  ⟨"TWk_CTRL", 0xA01018, [(0x100, 8)], .warm, false,
    [⟨0, 1, .wo, false, false, 0⟩, ⟨1, 1, .wo, false, false, 0⟩, ⟨2, 1, .wo, false, false, 0⟩, ⟨3, 1, .wo, false, false, 0⟩]⟩,
  ⟨"TWk_ALERT", 0xA0101C, [(0x100, 8)], .warm, false,
    [⟨0, 7, .ro, false, false, 0⟩, ⟨8, 4, .ro, false, false, 0⟩, ⟨31, 1, .ro, false, false, 0⟩]⟩,
  ⟨"TWk_CNTj", 0xA01040, [(0x100, 8), (0x4, 8)], .warm, false,
    [⟨0, 32, .rw, false, true, 0⟩]⟩]

def regRowsTw1 : List RegRow := [
  ⟨"TW8_STATUS", 0xA01800, [], .warm, false,
    [⟨0, 1, .w1c, false, false, 0⟩, ⟨1, 1, .w1c, false, false, 0⟩, ⟨2, 1, .w1c, false, false, 0⟩, ⟨3, 1, .w1c, false, false, 0⟩]⟩,
  ⟨"TW8_CTRL", 0xA01804, [], .warm, false,
    [⟨0, 1, .w1s, false, false, 0⟩, ⟨1, 1, .wo, false, false, 0⟩]⟩,
  ⟨"TW8_INT_EN", 0xA01808, [], .warm, false,
    [⟨0, 4, .rw, true, false, 0⟩]⟩,
  ⟨"TW8_VIOL_CNT", 0xA0180C, [], .warm, false,
    [⟨0, 32, .rw, false, true, 0⟩]⟩]

/-- The registers of block TW. -/
def regRowsTw : List RegRow := regRowsTw0 ++ regRowsTw1

def regRowsIc0 : List RegRow := [
  ⟨"IC_STATUS", 0xB00000, [], .warm, false,
    [⟨0, 1, .w1c, false, false, 0⟩, ⟨1, 1, .w1c, false, false, 0⟩, ⟨2, 1, .w1c, false, false, 0⟩, ⟨3, 1, .w1c, false, false, 0⟩]⟩,
  ⟨"IC_INT_EN", 0xB00004, [], .warm, false,
    [⟨0, 4, .rw, true, false, 0⟩]⟩,
  ⟨"IC_SPLIT", 0xB00008, [], .warm, false,
    [⟨0, 3, .rw, true, false, 0⟩]⟩,
  ⟨"IC_HOLD", 0xB0000C, [], .warm, false,
    [⟨0, 32, .rw, false, false, 0⟩]⟩,
  ⟨"IC_HOST_EOI", 0xB00010, [], .warm, false,
    [⟨0, 9, .wo, false, false, 0⟩]⟩,
  ⟨"IC_SPUR_CNT", 0xB00014, [], .warm, false,
    [⟨0, 32, .rw, false, true, 0⟩]⟩,
  ⟨"IC_HOLD_TO_CNT", 0xB00018, [], .warm, false,
    [⟨0, 32, .rw, false, true, 0⟩]⟩,
  ⟨"IC_EOI_ERR_CNT", 0xB0001C, [], .warm, false,
    [⟨0, 32, .rw, false, true, 0⟩]⟩,
  ⟨"IC_Tt_ACTIVE", 0xB00020, [(0x10, 2)], .warm, false,
    [⟨0, 9, .ro, false, false, 0⟩, ⟨12, 4, .ro, false, false, 0⟩, ⟨16, 8, .ro, false, false, 0⟩, ⟨31, 1, .ro, false, false, 0⟩]⟩,
  ⟨"IC_Tt_EOI", 0xB00024, [(0x10, 2)], .warm, false,
    [⟨0, 9, .wo, false, false, 0⟩]⟩,
  ⟨"IC_Tt_VBASE", 0xB00028, [(0x10, 2)], .warm, false,
    [⟨11, 21, .rw, true, false, 0⟩]⟩,
  ⟨"IC_PENDk", 0xB00040, [(0x4, 16)], .warm, false,
    [⟨0, 32, .rwh, false, false, 0⟩]⟩]

def regRowsIc1 : List RegRow := [
  ⟨"IC_MASKk", 0xB00080, [(0x4, 16)], .warm, false,
    [⟨0, 32, .rwh, true, false, 0⟩]⟩,
  ⟨"IC_INSVk", 0xB000C0, [(0x4, 16)], .warm, false,
    [⟨0, 32, .ro, false, false, 0⟩]⟩,
  ⟨"IC_GRPg_HOLDOFF", 0xB00100, [(0x4, 32)], .warm, true,
    [⟨0, 12, .rw, true, false, 0⟩]⟩,
  ⟨"IC_PINi_CFG", 0xB00200, [(0x4, 48)], .warm, true,
    [⟨0, 8, .rw, true, false, 0⟩, ⟨8, 1, .rw, true, false, 0⟩, ⟨9, 1, .rw, true, false, 0⟩]⟩,
  ⟨"IC_SRCs_CFG", 0xB01000, [(0x8, 512)], .warm, true,
    [⟨0, 8, .rw, true, false, 0⟩, ⟨8, 4, .rw, true, false, 0⟩, ⟨12, 1, .rw, true, false, 0⟩, ⟨13, 1, .ro, true, false, 0⟩, ⟨14, 2, .ro, false, false, 3⟩]⟩,
  ⟨"IC_SRCs_VEC", 0xB01004, [(0x8, 512)], .warm, true,
    [⟨0, 8, .rw, true, false, 0⟩, ⟨8, 2, .ro, true, false, 0⟩, ⟨10, 5, .rw, true, false, 0⟩]⟩]

/-- The registers of block IC. -/
def regRowsIc : List RegRow := regRowsIc0 ++ regRowsIc1

def regRowsFc0 : List RegRow := [
  ⟨"FC_STATUS_LO", 0xC00000, [], .por, false,
    [⟨0, 32, .w1c, false, false, 0⟩]⟩,
  ⟨"FC_STATUS_HI", 0xC00004, [], .por, false,
    [⟨0, 23, .w1c, false, false, 0⟩]⟩,
  ⟨"FC_CORR_LO", 0xC00008, [], .warm, false,
    [⟨0, 32, .w1c, false, false, 0⟩]⟩,
  ⟨"FC_CORR_HI", 0xC0000C, [], .warm, false,
    [⟨0, 23, .w1c, false, false, 0⟩]⟩,
  ⟨"FC_EVENT", 0xC00010, [], .warm, false,
    [⟨0, 1, .w1c, false, false, 0⟩, ⟨1, 1, .w1c, false, false, 0⟩, ⟨2, 1, .w1c, false, false, 0⟩, ⟨3, 1, .w1c, false, false, 0⟩, ⟨4, 1, .w1c, false, false, 0⟩, ⟨5, 1, .w1c, false, false, 0⟩, ⟨6, 1, .w1c, false, false, 0⟩, ⟨7, 1, .w1c, false, false, 0⟩]⟩,
  ⟨"FC_INT_EN", 0xC00014, [], .warm, false,
    [⟨0, 8, .rw, false, false, 127⟩]⟩,
  ⟨"FC_ESC_STATUS", 0xC00018, [], .warm, false,
    [⟨0, 2, .ro, false, false, 0⟩, ⟨16, 16, .ro, false, false, 0⟩]⟩,
  ⟨"FC_ACK", 0xC0001C, [], .warm, false,
    [⟨16, 16, .wo, false, false, 0⟩]⟩,
  ⟨"FC_ESC_TIME", 0xC00020, [], .warm, false,
    [⟨0, 20, .rw, false, false, 2000⟩]⟩,
  ⟨"FC_QUIET", 0xC00024, [], .warm, false,
    [⟨0, 14, .rw, false, false, 100⟩]⟩,
  ⟨"FC_FENCE_PORT", 0xC00028, [], .warm, false,
    [⟨0, 16, .ro, false, false, 0⟩]⟩,
  ⟨"FC_FENCE_UNIT_LO", 0xC0002C, [], .warm, false,
    [⟨0, 16, .ro, false, false, 0⟩, ⟨16, 8, .ro, false, false, 0⟩, ⟨24, 4, .ro, false, false, 0⟩]⟩]

def regRowsFc1 : List RegRow := [
  ⟨"FC_FENCE_UNIT_HI", 0xC00030, [], .warm, false,
    [⟨0, 8, .ro, false, false, 0⟩, ⟨8, 8, .ro, false, false, 0⟩, ⟨16, 1, .ro, false, false, 0⟩]⟩,
  ⟨"FC_STREAM_STOP_LO", 0xC00034, [], .warm, false,
    [⟨0, 32, .ro, false, false, 0⟩]⟩,
  ⟨"FC_STREAM_STOP_HI", 0xC00038, [], .warm, false,
    [⟨0, 32, .ro, false, false, 0⟩]⟩,
  ⟨"FC_REVIVE", 0xC0003C, [], .warm, false,
    [⟨0, 6, .wo, false, false, 0⟩, ⟨9, 3, .wo, false, false, 0⟩, ⟨31, 1, .wo, false, false, 0⟩]⟩,
  ⟨"FC_EPISODE", 0xC00040, [], .warm, false,
    [⟨0, 32, .rw, false, true, 0⟩]⟩,
  ⟨"FC_RECOVERIES", 0xC00044, [], .warm, false,
    [⟨0, 32, .rw, false, true, 0⟩]⟩,
  ⟨"FC_CORR_CNT", 0xC00048, [], .warm, false,
    [⟨0, 32, .rw, false, true, 0⟩]⟩,
  ⟨"FC_ACK_IGN_CNT", 0xC0004C, [], .warm, false,
    [⟨0, 32, .rw, false, true, 0⟩]⟩,
  ⟨"FC_CLASS_LOw", 0xC00100, [(0x4, 2)], .warm, true,
    [⟨0, 2, .rw, false, false, 0⟩, ⟨2, 2, .rw, false, false, 0⟩, ⟨4, 2, .rw, false, false, 0⟩, ⟨6, 2, .rw, false, false, 0⟩, ⟨8, 2, .rw, false, false, 0⟩, ⟨10, 2, .rw, false, false, 0⟩, ⟨12, 2, .rw, false, false, 0⟩, ⟨14, 2, .rw, false, false, 0⟩, ⟨16, 2, .rw, false, false, 0⟩, ⟨18, 2, .rw, false, false, 0⟩, ⟨20, 2, .rw, false, false, 0⟩, ⟨22, 2, .rw, false, false, 0⟩, ⟨24, 2, .rw, false, false, 0⟩, ⟨26, 2, .rw, false, false, 0⟩, ⟨28, 2, .rw, false, false, 0⟩, ⟨30, 2, .rw, false, false, 0⟩]⟩,
  ⟨"FC_CLASS_HIw", 0xC00108, [(0x4, 2)], .warm, true,
    [⟨0, 2, .rw, false, false, 0⟩, ⟨2, 2, .rw, false, false, 0⟩, ⟨4, 2, .rw, false, false, 0⟩, ⟨6, 2, .rw, false, false, 0⟩, ⟨8, 2, .rw, false, false, 0⟩, ⟨10, 2, .rw, false, false, 0⟩, ⟨12, 2, .rw, false, false, 0⟩, ⟨14, 2, .rw, false, false, 0⟩, ⟨16, 2, .rw, false, false, 0⟩, ⟨18, 2, .rw, false, false, 0⟩, ⟨20, 2, .rw, false, false, 0⟩, ⟨22, 2, .rw, false, false, 0⟩, ⟨24, 2, .rw, false, false, 0⟩, ⟨26, 2, .rw, false, false, 0⟩, ⟨28, 2, .rw, false, false, 0⟩, ⟨30, 2, .rw, false, false, 0⟩]⟩,
  ⟨"FC_INJECT", 0xC00110, [], .warm, true,
    [⟨0, 6, .wo, false, false, 0⟩, ⟨9, 3, .wo, false, false, 0⟩, ⟨12, 1, .wo, false, false, 0⟩, ⟨31, 1, .wo, false, false, 0⟩]⟩]

/-- The registers of block FC. -/
def regRowsFc : List RegRow := regRowsFc0 ++ regRowsFc1

def regRowsTwn0 : List RegRow := [
  ⟨"TWN_STATUS", 0xF00000, [], .warm, false,
    [⟨0, 3, .ro, false, false, 0⟩, ⟨3, 1, .ro, false, false, 0⟩, ⟨4, 1, .ro, false, false, 0⟩, ⟨5, 3, .ro, false, false, 0⟩, ⟨8, 2, .ro, false, false, 0⟩, ⟨10, 1, .ro, false, false, 0⟩]⟩,
  ⟨"TWN_EVENT", 0xF00004, [], .warm, false,
    [⟨0, 1, .w1c, false, false, 0⟩, ⟨1, 1, .w1c, false, false, 0⟩, ⟨2, 1, .w1c, false, false, 0⟩, ⟨3, 1, .w1c, false, false, 0⟩, ⟨4, 1, .w1c, false, false, 0⟩, ⟨5, 1, .w1c, false, false, 0⟩, ⟨6, 1, .w1c, false, false, 0⟩, ⟨7, 1, .w1c, false, false, 0⟩, ⟨8, 1, .w1c, false, false, 0⟩, ⟨9, 1, .w1c, false, false, 0⟩]⟩,
  ⟨"TWN_INT_EN", 0xF00008, [], .warm, false,
    [⟨0, 10, .rw, true, false, 0⟩]⟩,
  ⟨"TWN_CTRL", 0xF0000C, [], .warm, false,
    [⟨0, 1, .wo, false, false, 0⟩, ⟨1, 1, .wo, false, false, 0⟩, ⟨2, 1, .wo, false, false, 0⟩]⟩,
  ⟨"TWN_MM_DOC", 0xF00010, [], .warm, false,
    [⟨0, 31, .ro, false, false, 0⟩, ⟨31, 1, .w1c, false, false, 0⟩]⟩,
  ⟨"TWN_MM_LINE", 0xF00014, [], .warm, false,
    [⟨0, 26, .ro, false, false, 0⟩, ⟨26, 5, .ro, false, false, 0⟩]⟩,
  ⟨"TWN_TAKE_TIME_LO", 0xF00018, [], .warm, false,
    [⟨0, 32, .ro, false, false, 0⟩]⟩,
  ⟨"TWN_TAKE_TIME_HI", 0xF0001C, [], .warm, false,
    [⟨0, 32, .ro, false, false, 0⟩]⟩,
  ⟨"TWN_CNTk", 0xF00040, [(0x4, 8)], .warm, false,
    [⟨0, 32, .rw, false, true, 0⟩]⟩,
  ⟨"TWN_CFG", 0xF00100, [], .warm, true,
    [⟨0, 6, .rw, false, false, 2⟩, ⟨6, 1, .rw, true, false, 0⟩, ⟨8, 8, .rw, false, false, 16⟩, ⟨16, 16, .rw, false, false, 500⟩]⟩,
  ⟨"TWN_ADMIT_TIMEOUT", 0xF00104, [], .warm, true,
    [⟨0, 16, .rw, false, false, 1000⟩]⟩]

/-- The registers of block TWN. -/
def regRowsTwn : List RegRow := regRowsTwn0

def regRowsPcr0 : List RegRow := [
  ⟨"PCR_STATUS", 0xD00000, [], .warm, false,
    [⟨0, 1, .w1c, false, false, 0⟩, ⟨1, 1, .w1c, false, false, 0⟩, ⟨2, 1, .w1c, false, false, 0⟩, ⟨3, 1, .w1c, false, false, 0⟩, ⟨4, 1, .w1c, false, false, 0⟩, ⟨5, 1, .w1c, false, false, 0⟩, ⟨6, 1, .w1c, false, false, 0⟩, ⟨7, 1, .ro, false, false, 0⟩, ⟨8, 1, .ro, false, false, 0⟩, ⟨9, 2, .ro, false, false, 0⟩, ⟨11, 1, .ro, false, false, 0⟩]⟩,
  ⟨"PCR_INT_EN", 0xD00004, [], .warm, false,
    [⟨0, 7, .rw, true, false, 0⟩]⟩,
  ⟨"PCR_CTRL", 0xD00008, [], .warm, false,
    [⟨0, 1, .rw, true, false, 0⟩, ⟨1, 1, .rw, true, false, 0⟩, ⟨2, 1, .rw, false, false, 0⟩, ⟨3, 2, .rw, false, false, 2⟩]⟩,
  ⟨"PCR_NEXT_EVENT_LO", 0xD0000C, [], .warm, false,
    [⟨0, 32, .rw, false, false, 0⟩]⟩,
  ⟨"PCR_NEXT_EVENT_HI", 0xD00010, [], .warm, false,
    [⟨0, 32, .rw, false, false, 0⟩]⟩,
  ⟨"PCR_GUARD", 0xD00014, [], .warm, false,
    [⟨0, 14, .rw, false, false, 20⟩]⟩,
  ⟨"PCR_HORIZON", 0xD00018, [], .warm, false,
    [⟨0, 32, .ro, false, false, 0⟩]⟩,
  ⟨"PCR_WAKE_LAST", 0xD0001C, [], .warm, false,
    [⟨0, 4, .ro, false, false, 0⟩]⟩,
  ⟨"PCR_RESET", 0xD00020, [], .warm, false,
    [⟨0, 2, .wo, false, false, 0⟩, ⟨31, 1, .wo, false, false, 0⟩]⟩,
  ⟨"PCR_RESET_CAUSE", 0xD00024, [], .por, false,
    [⟨0, 3, .ro, false, false, 0⟩]⟩,
  ⟨"PCR_TEMP", 0xD00028, [], .warm, false,
    [⟨0, 12, .ro, false, false, 0⟩]⟩,
  ⟨"PCR_BOOT_US", 0xD0002C, [], .warm, false,
    [⟨0, 24, .ro, false, false, 0⟩]⟩]

def regRowsPcr1 : List RegRow := [
  ⟨"PCR_CNTk", 0xD00040, [(0x4, 7)], .por, false,
    [⟨0, 32, .rw, false, true, 0⟩]⟩,
  ⟨"PCR_WAKE_EN_PIN", 0xD00100, [], .warm, true,
    [⟨0, 16, .rw, true, false, 0⟩, ⟨16, 16, .rw, true, false, 0⟩]⟩,
  ⟨"PCR_WAKE_EN_ALERT", 0xD00104, [], .warm, true,
    [⟨0, 8, .rw, true, false, 0⟩]⟩,
  ⟨"PCR_CFG", 0xD00108, [], .warm, true,
    [⟨0, 1, .ro, true, false, 0⟩, ⟨16, 8, .rw, false, false, 100⟩]⟩]

/-- The registers of block PCR. -/
def regRowsPcr : List RegRow := regRowsPcr0 ++ regRowsPcr1

def regRowsMgt0 : List RegRow := [
  ⟨"MGT_STATUS", 0xE00000, [], .warm, false,
    [⟨0, 1, .w1c, false, false, 0⟩, ⟨1, 1, .w1c, false, false, 0⟩, ⟨2, 1, .w1c, false, false, 0⟩, ⟨3, 1, .w1c, false, false, 0⟩, ⟨8, 1, .ro, false, false, 0⟩, ⟨9, 1, .ro, false, false, 0⟩, ⟨10, 1, .ro, false, false, 0⟩, ⟨11, 1, .ro, false, false, 0⟩, ⟨12, 1, .ro, false, false, 0⟩, ⟨13, 1, .ro, false, false, 0⟩, ⟨14, 1, .ro, false, false, 0⟩, ⟨15, 1, .ro, false, false, 0⟩]⟩,
  ⟨"MGT_INT_EN", 0xE00004, [], .warm, false,
    [⟨0, 4, .rw, false, false, 0⟩]⟩,
  ⟨"MGT_LOG_SEQ", 0xE00008, [], .por, false,
    [⟨0, 32, .ro, false, false, 0⟩]⟩,
  ⟨"MGT_LOG_DROP_CNT", 0xE0000C, [], .por, false,
    [⟨0, 32, .rw, false, true, 0⟩]⟩,
  ⟨"MGT_LOG_ARG", 0xE00010, [], .warm, false,
    [⟨0, 32, .rw, false, false, 0⟩]⟩,
  ⟨"MGT_LOG_CODE", 0xE00014, [], .warm, false,
    [⟨0, 16, .wo, false, false, 0⟩]⟩,
  ⟨"MGT_MBX_CMD", 0xE00018, [], .warm, false,
    [⟨0, 8, .wo, false, false, 0⟩]⟩,
  ⟨"MGT_MBX_ARGj", 0xE0001C, [(0x4, 3)], .warm, false,
    [⟨0, 32, .rw, false, false, 0⟩]⟩,
  ⟨"MGT_MBX_STATUS", 0xE00028, [], .warm, false,
    [⟨0, 8, .ro, false, false, 0⟩, ⟨8, 4, .ro, false, false, 0⟩, ⟨16, 8, .ro, false, false, 0⟩]⟩,
  ⟨"MGT_ACC_DENY_CNT", 0xE0002C, [], .warm, false,
    [⟨0, 32, .rw, false, true, 0⟩]⟩,
  ⟨"MGT_ACC_LAST", 0xE00030, [], .warm, false,
    [⟨0, 26, .ro, false, false, 0⟩, ⟨26, 1, .ro, false, false, 0⟩, ⟨27, 1, .ro, false, false, 0⟩, ⟨28, 3, .ro, false, false, 0⟩, ⟨31, 1, .w1c, false, false, 0⟩]⟩,
  ⟨"MGT_OTP_KEYS", 0xE00034, [], .por, false,
    [⟨0, 8, .ro, false, false, 0⟩]⟩]

def regRowsMgt1 : List RegRow := [
  ⟨"MGT_WDTt_CFG", 0xE00038, [(0x4, 2)], .warm, false,
    [⟨0, 16, .rw, false, false, 0⟩]⟩,
  ⟨"MGT_WDT_KICK", 0xE00040, [], .warm, false,
    [⟨0, 2, .wo, false, false, 0⟩]⟩,
  ⟨"MGT_REMOTEt_CFG", 0xE00044, [(0x4, 2)], .warm, false,
    [⟨0, 2, .rw, false, false, 2⟩]⟩,
  ⟨"MGT_FMWINt_BASE", 0xE0004C, [(0x4, 2)], .warm, false,
    [⟨0, 8, .rw, false, false, 0⟩]⟩,
  ⟨"MGT_ID_PUBk", 0xE00060, [(0x4, 16)], .warm, false,
    [⟨0, 32, .ro, false, false, 0⟩]⟩,
  ⟨"MGT_ACC_DEFAULT", 0xE00100, [], .warm, true,
    [⟨0, 16, .rw, false, false, 65535⟩]⟩,
  ⟨"MGT_ACCr_START", 0xE00200, [(0x10, 64)], .warm, true,
    [⟨0, 18, .rw, false, false, 0⟩, ⟨30, 1, .rw, false, false, 0⟩, ⟨31, 1, .rw, false, false, 0⟩]⟩,
  ⟨"MGT_ACCr_END", 0xE00204, [(0x10, 64)], .warm, true,
    [⟨0, 18, .rw, false, false, 0⟩]⟩,
  ⟨"MGT_ACCr_PERM", 0xE00208, [(0x10, 64)], .warm, true,
    [⟨0, 16, .rw, false, false, 0⟩]⟩]

/-- The registers of block MGT. -/
def regRowsMgt : List RegRow := regRowsMgt0 ++ regRowsMgt1

end Sys2Proof.Machine
end

