-- ==== Sys2Proof/Machine/State.lean ====
section
/-! DEFINITION. The state of the device as plain data: every register by offset, the state of every block behind its
registers, the memories, what waits between blocks, what has left the device, and the queue of commands. -/

namespace Sys2Proof.Machine

/-- The strap pins and the supplies that are sampled (R20, R29, R566): ROLE[1:0], TWIN_ID, whether each two-wire bank
is supplied at 3.3 V, whether VDD_TRIG is 3.3 V. -/
structure Straps where
  role : Nat
  twinId : Nat
  bank33 : Nat
  trig33 : Bool
  deriving DecidableEq, Repr, Inhabited

/-- A strobe generator (R294 to R298): a stop that waits for its last pulses, the device time of the last stop, the phase counter, the next grid point in 1/64
count, the pulses decided and not yet ended as start and end in Invar time, whether the first of them has started, the last Invar time that gave it an event under SRC TIME. -/
structure GenSt where
  stopDue : Bool
  stopAt : Option Nat
  phase : Nat
  grid : Int
  pulses : List (Nat × Nat)
  high : Bool
  lastT : Option Nat
  deriving DecidableEq, Repr, Inhabited

/-- The training of a lane group (R391 to R399): when its state was entered, consecutive TS1 and TS2 received there, whether
this is a short training, whether RETRAIN has reached its CONFIRM part, whether the own and the far receivers have finished
equalising, the digest words received in IDENT, the low-power states requested at each end, when the present 1 ms window of
errors began; a RETRAIN is due once the group is UP; by lane, how many settings EQ has tried, the best of them as number and
opening, and the pre-cursor and post-cursor that this transmitter applies; ADAPT and LNK_Gg_EQ as they stood when the full training
began (R398). -/
structure TrainSt where
  entered : Nat
  ts1 : Nat
  ts2 : Nat
  short : Bool
  confirm : Bool
  eqDone : Bool
  farEq : Bool
  ident : Table (Option Nat)
  lpOwn : Nat
  lpFar : Nat
  errsFrom : Nat
  again : Bool
  tried : Table Nat
  best : Table (Nat × Nat)
  applied : Table (Nat × Nat)
  adapt : Bool
  eqSet : Word
  deriving DecidableEq, Repr, Inhabited

/-- A lane group's packets (R409 to R413): the next SEQ to send and the next expected, packets that wait to be sent and that
no ACK covers yet, packets accepted and not yet taken, the credits held by class, the scheduler's deficits and place, when
the last ACK arrived or the replay buffer last became non-empty; its training; the logical lane of the next byte of its stream and when
the last one left (R386). -/
structure GrpSt where
  txSeq : Nat
  rxNext : Nat
  queue : List LinkPkt
  replay : List LinkPkt
  rx : List LinkPkt
  hdr : Table Nat
  data : Table Nat
  deficit : Table Nat
  place : Nat
  ackAt : Nat
  train : TrainSt
  lane : Nat
  laneAt : Option Nat
  deriving DecidableEq, Repr, Inhabited

/-- A spare assignment of the SPARES section (R44): unit kind code, device number of the unit, of its spare. -/
structure SpareWord where
  kind : Nat
  unit : Nat
  spare : Nat
  deriving DecidableEq, Repr, Inhabited

/-- A latch point of REF_STREAM: place and number of the document it closed, and the recipe latched there (R54, R58). -/
structure Latch where
  idx : Nat
  doc : Nat
  recipe : Nat
  deriving DecidableEq, Repr, Inhabited

/-- The image the device booted from: its bytes as verified, its slot, what the boot left (R50 to R53), the last latch points,
and on a following device the latch points that wait for the lead: place, document, moment (R61, R504). -/
structure ImageSt where
  verified : Bool
  bytes : List Nat
  store : Table (List Nat)
  spares : List SpareWord
  refStream : Nat
  latches : List Latch
  latchWait : List (Nat × Nat × Nat)
  mc1Digest : List Nat
  deriving DecidableEq, Repr, Inhabited

/-- A record held in a staged bank, with the swap group that will take it (R58, R59). -/
structure Staged where
  owner : Nat
  off : Nat
  val : Nat
  deriving DecidableEq, Repr, Inhabited

/-- A pavilion's recipe loads (R58 to R60): the recipe of its last completed load (none: the default recipe), the load in
progress with its time limit, and the staged records. `loadAfter` and `after` hold, by channel, how many documents had
wholly entered the pavilion when the window of the load opened: the load is for the documents from that place on. `swapped`:
the swap groups that have taken their staged bank since (R59). `victim`: the channel that the pavilion sacrifices in drop state (R83). -/
structure PavSt where
  recipe : Option Nat
  loading : Option Nat
  loadUntil : Nat
  loadAfter : Table Nat
  staged : List Staged
  after : Table Nat
  swapped : List Nat
  victim : Option Nat
  deriving DecidableEq, Repr, Inhabited

/-- What on a following device waits for the lead's values, in the order of the channel (R92, R147): `stage` 0 a line that waits for the
capture of its reference event, 1 a line that waits for its admission, 2 a document-end marker behind such a line, 3 a truncation
behind lines not yet classified; a line's number in the lead's count, the moment it began, whether the late decision was already
signalled, and whether the device could not admit it when it began. -/
structure WaitLine where
  stage : Nat
  seq : Nat
  began : Nat
  line : Line
  late : Bool
  shut : Bool
  mark : Option Marker
  deriving DecidableEq, Repr, Inhabited

/-- A stream channel of the Pergola: level in KiB, drops counted, DROP_BEFORE due, lines begun (the admission sequence
number) and lines delivered (the capture number), what waits for the lead, the lead's captures (with the edges declared by
then, `edgeMark`) and admission decisions that no line has used yet, how many documents have begun to enter and have wholly
entered the pavilion, when the line in classification began, and the items that still are at the first unit of their chain, as unit,
document place and line number (2^32 for a marker): the lines among them occupy the Glasshouse (R58, R75, R81 to R93, R98,
R147). -/
structure ChanSt where
  level : Nat
  dropCnt : Word
  dropDue : Bool
  seq : Nat
  capSeq : Nat
  wait : List WaitLine
  caps : List (Nat × Nat × Nat × Nat)
  adms : List (Nat × Nat × Nat)
  begun : Nat
  passed : Nat
  beganAt : Nat
  atFirst : List (Nat × Nat × Nat)
  deriving DecidableEq, Repr, Inhabited

/-- An arbitration point (R76 to R79): the index last granted (unless `started` is false: then it is n - 1), the credits by
channel, and the line that the unit input has taken, with its channel. -/
structure ArbSt where
  started : Bool
  last : Nat
  credit : Table Nat
  taken : Option (Nat × Line)
  deriving DecidableEq, Repr, Inhabited

/-- An owed line: when its timer ends (none: timers off), the reference capture of the owing event, whether that event
marks phase 0, and the edges that each segmenter had declared by then, as `edgeMark` counts them (R115, R131, R132, R137). -/
structure Owed where
  deadline : Option Nat
  time : Nat
  enc0 : Nat
  enc1 : Nat
  phase0 : Bool
  edges : List Nat
  deriving DecidableEq, Repr, Inhabited

/-- A line that has completed on an entry and waits for the lead's decision (R125): its pixels and flags, the packet's bytes, when it
completed. -/
structure HeldLine where
  px : List Nat
  flags : Nat
  bytes : List Nat
  at_ : Nat
  deriving DecidableEq, Repr, Inhabited

/-- A reception entry of a port (R105, R109, R115 to R121, R125, R130). `early`: the strobe edge of this instant has owed its line already
(R116); `held`: lines of a following device that wait for the lead's decision; `stale`: stale decisions that came before their line. -/
structure EntrySt where
  hdrErr : Bool
  owed : List Owed
  phase : Nat
  open_ : Bool
  delivered : Nat
  longSeen : Bool
  dropBefore : Bool
  armed : Bool
  lastPkt : Nat
  early : Bool
  held : List HeldLine
  stale : Nat
  deriving DecidableEq, Repr, Inhabited

/-- A sensor port: whether its receivers run, a clear of EN not yet in effect, a setting after it, the high-speed bursts
and ULPS by lane, the terminations by lane (bit 4 the clock lane), whether it ever delivered a line (R99, R121, R122). -/
structure PortSt where
  running : Bool
  clearDue : Bool
  setDue : Bool
  burst : Nat
  ulps : Nat
  term : Nat
  seen : Bool
  deriving DecidableEq, Repr, Inhabited

/-- A document that a segmenter declared: number, leading edge, trailing edge once declared (R133, R136). -/
structure DocDecl where
  doc : Nat
  lead : Nat
  trail : Option Nat
  deriving DecidableEq, Repr, Inhabited

/-- A segmenter: documents declared in order, the encoder position at which the input's present run of presence or absence
began, the edge that a TRIG pulse left due, and the runs of the background test (R133 to R136). -/
structure SegSt where
  docs : List DocDecl
  presSince : Option Nat
  absSince : Option Nat
  dueLead : Option Nat
  dueTrail : Option Nat
  onRun : Nat
  onPos : Nat
  offRun : Nat
  offPos : Nat
  deriving DecidableEq, Repr, Inhabited

/-- A stream: whether a document is open, the place of the document that is open or opens next, its number and edge, the
latched limits, the next line number, the blocks counted by a continuous stream (R137 to R146); the place of a document
whose window must end before lines open another one (R142, R486); whether the open document admits no line (R586); whether
the stream of an admitted device still waits to join, and the number of the first document that it may hold (R516); the
place of the first document counted while the stream was stopped, and of the first after it resumed (R487, R492). -/
structure StreamSt where
  isOpen : Bool
  idx : Nat
  doc : Nat
  lead : Nat
  minL : Nat
  maxL : Nat
  next : Nat
  blocks : Nat
  gapIdx : Option Nat
  noAdmit : Bool
  waitJoin : Bool
  joinDoc : Nat
  stopFrom : Option Nat
  stopTo : Nat
  deriving DecidableEq, Repr, Inhabited

/-- An event-log entry (R561): Invar time, block type code, instance, CODE, ARG. -/
structure LogEntry where
  time : Nat
  blk : Nat
  inst : Nat
  code : Nat
  arg : Nat
  deriving DecidableEq, Repr, Inhabited

/-- A signal that a block gave the Lodge and that the Lodge has not yet taken: source, unit within it, whether it is the
corrected signal (R479). -/
structure LodgeSig where
  source : Nat
  index : Nat
  corrected : Bool
  deriving DecidableEq, Repr, Inhabited

/-- A stream that R486 moves: its channel, the fenced unit, the spare, when its load ends (none: loaded) and the recipe
loaded, whether the stream runs on the spare, whether it goes back at its next document (R492, R586). -/
structure MoveSt where
  ch : Nat
  kind : Nat
  unit : Nat
  spare : Nat
  loadUntil : Option Nat
  recipe : Nat
  moved : Bool
  back : Bool
  deriving DecidableEq, Repr, Inhabited

/-- The Lodge: signals not yet taken, the times of the episode and quiet timers, the latched quiet and episode state, times
of entries into the fault state, the last FAULT_CORR entry of each source, the sources that R491 resets, streams moved or
stopped with the tile that stopped them, and streams that resume at their next document (R482, R486 to R492). -/
structure LodgeSt where
  raised : List LodgeSig
  escUntil : Option Nat
  quietUntil : Option Nat
  faultTimes : List Nat
  corrLogged : Table (Option Nat)
  touched : List Nat
  moves : List MoveSt
  stops : List (Nat × Nat)
  resume : List Nat
  deriving DecidableEq, Repr, Inhabited

/-- A Bandstand source: the target it was delivered to while in service, whether its claim was read and found low, for a
REMOTE delivery the time of its automatic completion, the pin filter's level and the level last accepted (R465 to R467). -/
structure SrcSt where
  target : Nat
  claimRead : Bool
  spurious : Bool
  doneAt : Nat
  pinLevel : Bool
  edgeLatch : Bool
  deriving DecidableEq, Repr, Inhabited

/-- The Bandstand: sources, hold-off ends by 4g + target, the hold latch of pending and mask bits by register, when each
held group was held, the cores' active stacks, top first (R464 to R476). -/
structure BandSt where
  src : Table SrcSt
  holdoff : Table Nat
  latchPend : Table Word
  latchMask : Table Word
  heldAt : Table Nat
  stack0 : List Nat
  stack1 : List Nat
  deriving DecidableEq, Repr, Inhabited

/-- The input filters of TRIG_IN[15:0] and the encoders (R292, R301): the levels at the pins (ENC0 A, ENC0 B, ENC1 A, ENC1 B in `enc`), and how
many samples in a row have shown an input at another level than its filtered one; TRIG_IN[i] is input i, the encoder pins are 16 to 19. -/
structure FilterSt where
  trig : Nat
  enc : Nat
  run : Table Nat
  deriving DecidableEq, Repr, Inhabited

/-- A mirrored write on its way to the shadow (R500): initiator code, BAR0 offset, data. -/
structure MirrorW where
  init : Nat
  off : Nat
  val : Nat
  deriving DecidableEq, Repr, Inhabited

/-- An LU context (R160, R166): the document of the last line it processed, and of the last item that reached it, and the drift
term D. -/
structure LuCtx where
  lastLine : Option Nat
  lastItem : Option Nat
  dark : Int
  deriving DecidableEq, Repr, Inhabited

/-- A member of an MU (R175, R184 to R187): the lines in its tap store, the document-end markers that have arrived, the lines
missing by timeout as document place and line number, the pitch latched for each document place. -/
structure MuCtx where
  lines : List Line
  marks : List Marker
  gone : List (Nat × Nat)
  pitch : Table Nat
  deriving DecidableEq, Repr, Inhabited

/-- A merge group (R176, R181, R186): reference lines that wait for their output, the reference member's events as document
place, line number (2^32 for the marker), moment and stream, positions and times of the document's lines processed, newest first,
and one more than that document's place. -/
structure MuGrp where
  refs : List Line
  events : List (Nat × Nat × Nat × Nat)
  hist : List (Nat × Nat)
  histDoc : Nat
  deriving DecidableEq, Repr, Inhabited

/-- Frame memory behind its registers (R310 to R326): symbols in error by block, the channels fenced in order and the one whose
chunks moved, the moved blocks written since then, fences not yet complete, when training ended, the next pause by channel,
the scrubber's next block; by block, the symbols in error and the failing bursts that its next access meets (R312). The fence reserve's
blocks count as moved ones. -/
structure FmSt where
  flaw : Table Nat
  fences : List Nat
  moved : Option Nat
  fresh : Table Bool
  fencing : List Nat
  pauses : Table Nat
  scrub : Nat
  link : Table (Nat × Nat)
  deriving DecidableEq, Repr, Inhabited

/-- The settings that a BU context latched (R234): the words of CFG, EXCL, WIN, ZGRID, ZORG, ZSIZE, then X and Y of each region;
the recipe they belong to; the window length, which holds for the document. -/
structure BuSet where
  words : List Nat
  recipe : Nat
  win : Nat
  deriving DecidableEq, Repr, Inhabited

/-- A record in the making (R235 to R244): the stream and the tap point observed, settings, document number and place, window, lines counted and skipped, flags, ECC_ERR,
and the accumulators by number. -/
structure BuRec where
  stream : Nat
  tap : Nat
  set : BuSet
  doc : Nat
  idx : Nat
  window : Nat
  lines : Nat
  skipped : Nat
  flags : Nat
  err : Bool
  acc : Table Nat
  deriving DecidableEq, Repr, Inhabited

/-- A BU context (R234, R241, R246 to R248): the record in the making, closed records that wait for completion, ring slots not
free, one more than the place of the last document whose marker it saw; by SEQ, DOC_NUM and CHECK the records that it completed and
that the partner has not reported yet, and the partner's reports that none of its own has met (R506). -/
structure BuCtx where
  cur : Option BuRec
  due : List BuRec
  busy : List Nat
  closed : Nat
  recOwn : List (Nat × Nat × Nat)
  recFar : List (Nat × Nat × Nat)
  deriving DecidableEq, Repr, Inhabited

/-- A grid line (R203 to R207): the place of its document, its number, the grid origin, its distance from the origin in 1/65,536
count, the line, its slot in the delay ring, its columns and channels. A line in a ring keeps its pixels in frame memory and not
here (R206). -/
structure GuLine where
  idx : Nat
  g : Nat
  origin : Nat
  dist : Nat
  line : Line
  slot : Nat
  cols : Nat
  nch : Nat
  deriving DecidableEq, Repr, Inhabited

/-- A grid line of a following device that waits for the lead's decision (R209): when it was generated, whether the lack was
already signalled. -/
structure GuWait where
  began : Nat
  late : Bool
  line : GuLine
  deriving DecidableEq, Repr, Inhabited

/-- A GU context (R203 to R209): one more than the place of the document in progress (0: none), its grid origin, the next grid
line, the previous input line, DROP_BEFORE due on the next grid line emitted and on the next one written; the lines in its ring,
the numbers discarded, the markers with their counts of grid lines, lines that wait for the lead and the lead's decisions. -/
structure GuCtx where
  doc : Nat
  origin : Nat
  next : Nat
  prev : Option Line
  dropIn : Bool
  dropRing : Bool
  ring : List GuLine
  gone : List (Nat × Nat)
  marks : List Marker
  wait : List GuWait
  decs : List (Nat × Nat × Nat)
  deriving DecidableEq, Repr, Inhabited

/-- A box (R216, R217): C, S, U0, V0, WOUT, the slope and how it came about. -/
structure GuBox where
  c : Int
  s : Int
  u0 : Int
  v0 : Int
  wout : Nat
  slope : Int
  fallback : Bool
  limited : Bool
  deriving DecidableEq, Repr, Inhabited

/-- A box as a slot holds it (R218): document number, box, VEND so far, whether that VEND is the last. -/
structure GuPub where
  doc : Nat
  box : GuBox
  vend : Int
  final : Bool
  deriving DecidableEq, Repr, Inhabited

/-- A tile row in the tile cache (R226): context, grid line, tile, the columns of each channel, whether its read was corrected. -/
structure GuTile where
  c : Nat
  g : Nat
  t : Nat
  px : List (List Nat)
  corr : Bool
  deriving DecidableEq, Repr, Inhabited

/-- A GU path (R201, R207, R214 to R226): the place of the document in progress, its number, the next grid line to release, the
registers latched, the tags of the released lines that the deskew keeps, its share of the tile cache, the numbers without a line, the cropped width, the edge points
kept as number, left and right column, the document lines counted, the box, VEND, whether it is final, output lines emitted,
the width of the last one, DROP_BEFORE due on the next one. -/
structure GuPath where
  cur : Option Nat
  doc : Nat
  next : Nat
  regs : List Nat
  lines : List Tag
  cache : List GuTile
  absent : List Nat
  width : Nat
  edges : List (Nat × Nat × Nat)
  docLines : Nat
  box : Option GuBox
  vmax : Option Int
  vend : Option Int
  final : Bool
  out : Nat
  wout : Nat
  dropDue : Bool
  deriving DecidableEq, Repr, Inhabited

/-- An item of an output stream (R262): type (0 line or segment record, 1 statistics record, 2 document header record), document
number, tag word 2, the address of a statistics record, whether it is issued again after a takeover, bytes, its number in the order of arrival at the stream's queues,
OSn_CFG as its document latched it. -/
structure OsItem where
  typ : Nat
  doc : Nat
  line : Nat
  addr : Nat
  again : Bool
  bytes : List Nat
  arr : Nat
  cfg : Nat
  deriving DecidableEq, Repr, Inhabited

/-- A record between its seal and its leaving (R505): tag, recorded bytes after the tag, seal, the place of its document, when it
began to wait, the comparison's outcome where it is known. -/
structure OsRec where
  tag : Tag
  width : Nat
  body : List Nat
  sealv : Nat
  word7 : Nat
  since : Nat
  cmp : Option Bool
  deriving DecidableEq, Repr, Inhabited

/-- A document on an output stream (R152, R254, R255): its place and number, the registers latched, lines that arrived, the
first and the last line's tags, flags, width, the bytes coded, the segment number and its lines so far, its marker once that
has come, whether the first segment is due RECIPE_CHG. -/
structure OsDoc where
  idx : Nat
  doc : Nat
  ch : Nat
  regs : List Nat
  count : Nat
  first : Option Tag
  last : Option Tag
  flags : Nat
  width : Nat
  coded : Nat
  jls : List Nat
  segNo : Nat
  seg : List Line
  mark : Option Marker
  chg : Bool
  deriving DecidableEq, Repr, Inhabited

/-- A statistics record that an output stream has to place (R247, R265): its document's place and number, which header pointer it
takes, the BU context and slot that hold it, bytes. -/
structure OsStat where
  idx : Nat
  doc : Nat
  rec_ : Nat
  ctx : Nat
  slot : Nat
  bytes : List Nat
  deriving DecidableEq, Repr, Inhabited

/-- A placed statistics record as the header names it: document place, pointer, address, length. -/
structure OsAddr where
  idx : Nat
  rec_ : Nat
  addr : Nat
  size : Nat
  deriving DecidableEq, Repr, Inhabited

/-- An output stream (R252 to R283, R505, R511): the document that its lines belong to, the recipe of the document before, documents
whose header is due, records that wait for the comparison, statistics records to place and placed, the placement pointer,
items held and items in its three queues, the partner's seal reports without a record and its own records without a
report, whether FAILOVER is due, items that have entered its queues; the BU context and document whose records are being placed, one
more than the greatest place of a document latched, when the last hold ended. -/
structure OsSt where
  cur : Option OsDoc
  prevRecipe : Option Nat
  hdrs : List OsDoc
  wait : List OsRec
  stats : List OsStat
  addrs : List OsAddr
  ptr : Nat
  held : List OsItem
  lineQ : List OsItem
  statsQ : List OsItem
  docQ : List OsItem
  partner : List (Nat × Nat × Nat)
  sent : List (Nat × Nat × Nat)
  failover : Bool
  arrived : Nat
  run : Option (Nat × Nat)
  seen : Nat
  freedAt : Nat
  deriving DecidableEq, Repr, Inhabited

/-- A relay or a tunnel on a HOST device (R514): items kept from the group that faces the head shadow, as type, identity and
words, and identities delivered whose other copy has not come. -/
structure RelaySt where
  kept : List (Nat × List Nat × List Nat)
  seen : List (Nat × List Nat)
  deriving DecidableEq, Repr, Inhabited

/-- The shadow's count of seal mismatches in the present 1 ms window, and when that window began (R506). -/
structure MmSt where
  count : Nat
  begun : Nat
  deriving DecidableEq, Repr, Inhabited

/-- An encoder (R301 to R304): its counts as position and Invar time, newest first, within the velocity window; the time of the last
count; when the last ENC message was sent, and whether a count since then is still to be sent (R304). -/
structure EncSt where
  hist : List (Nat × Nat)
  last : Nat
  sentAt : Option Nat
  due : Bool
  deriving DecidableEq, Repr, Inhabited

/-- A scheduled-action slot as armed (R305, R306): Invar time, action, generators. -/
structure SlotSt where
  time : Nat
  action : Nat
  arg : Nat
  deriving DecidableEq, Repr, Inhabited

/-- Invar behind its registers (R285 to R290, R307): the steered rate and the part of a nanosecond, in 2^-32; how many Invar times the
present one passed over, as it counts at that rate; whether a first
exchange with an upstream has set Invar; consecutive exchanges below 1 ns; by group the request in flight as SEQ and sixteenths
of a nanosecond, the next SEQ, and one more than the hop count that the far device last advertised; the high halves latched
by initiator (a link pair of group g and initiator code c is 32 + 16 g + c); the next BCAST sequence number and the
identifiers of the last 16 BCAST messages. -/
structure SyncSt where
  rate : Int
  frac : Nat
  skip : Nat
  set : Bool
  good : Nat
  sent : Table (Option (Nat × Nat))
  seq : Table Nat
  far : Table Nat
  latch : Table Nat
  bcastSeq : Nat
  bcastSeen : List Nat
  deriving DecidableEq, Repr, Inhabited

/-- A host read of a DMA channel (R334, R338, R355): its tag while a request is outstanding (none: to be issued, or complete), host
address, destination offset in the MOVE or the program, length, bytes received, how many of them have been written on, whether
it loads the program, when it was issued. -/
structure DmaRead where
  tag : Option Nat
  addr : Nat
  place : Nat
  len : Nat
  got : List Nat
  wrote : Nat
  load : Bool
  since : Nat
  deriving DecidableEq, Repr, Inhabited

/-- A LOOP in progress (R344): first instruction of its body, the instruction after it, COUNT, present iteration, increments. -/
structure DmaLoop where
  first : Nat
  last : Nat
  count : Nat
  iter : Nat
  srcInc : Int
  dstInc : Int
  deriving DecidableEq, Repr, Inhabited

/-- A DMA channel behind its registers (R330 to R352): the program's words, a program the lead sent before the START, whether the
program is still to load, PC, loops inmost first; of the MOVE in progress: bytes asked for, bytes written, items moved, its
document; its reads; whether a WAIT has begun, when, the input whose edge it waits for, whether that came; a HALT not yet in
effect; since START: items moved, instructions retired, statistics records written; tag word 2 of the last line record; on a
lead, positions not yet acknowledged by the data link layer; on a shadow, the position that the lead's reports direct, as
instructions retired, items and statistics records, and the document of its last item; the time at which the state was entered
whose completion record no report covers yet (R352). -/
structure DmaSt where
  prog : List Nat
  progIn : Option (List Nat)
  loading : Bool
  pc : Nat
  loops : List DmaLoop
  off : Nat
  done : Nat
  idx : Nat
  doc : Option Nat
  reads : List DmaRead
  waiting : Bool
  since : Nat
  trig : Option Nat
  trigSeen : Bool
  haltDue : Bool
  moved : Nat
  retired : Nat
  stats : Nat
  lastLine : Nat
  unack : List (Nat × Nat × Nat × Nat)
  follow : Option (Nat × Nat × Nat)
  followDoc : Nat
  cplDue : Option Nat
  deriving DecidableEq, Repr, Inhabited

/-- Tags of the endpoint that no channel's read holds (R356, R372): completions owed and discarded, as tag, function, bytes and
whether they count in GLB_PCIE_DISC_CPL_CNT, and when the read was issued; tags in quarantine with its end. PERST_N is low; when it rose. -/
structure PcieSt where
  owed : List (Nat × Nat × Nat × Bool × Nat)
  quar : List (Nat × Nat)
  perst : Bool
  perstAt : Nat
  deriving DecidableEq, Repr, Inhabited

/-- A remote read (R420): its tag (none: it waits for one), initiator code, group, far offset, words, when it was issued. -/
structure RemRead where
  tag : Option Nat
  init : Nat
  group : Nat
  off : Nat
  words : Nat
  since : Nat
  deriving DecidableEq, Repr, Inhabited

/-- The bridge (R420 to R422, R431): remote reads oldest first, tags in quarantine with its end, when each group last sent WIRES. -/
structure BrgSt where
  reads : List RemRead
  quar : List (Nat × Nat)
  wiresAt : Table Nat
  deriving DecidableEq, Repr, Inhabited

/-- An entry of a two-wire controller (R438, R439, R451): target address, bytes to write, count to read, repeated START, TAG;
whether it is an Alert Response Address read; for a tunnelled entry the group and the tag of its TW_REQ; the start time that
the lead chose; the retries used. -/
structure TwEntry where
  addr : Nat
  wdata : List Nat
  rlen : Nat
  rs : Bool
  tag : Nat
  ara : Bool
  tun : Option (Nat × Nat)
  start : Option Nat
  tries : Nat
  deriving DecidableEq, Repr, Inhabited

/-- A result of a two-wire controller (R440): code, TAG, bytes acknowledged, bit of the loss, bytes read. -/
structure TwRes where
  code : Nat
  tag : Nat
  wcnt : Nat
  bitpos : Nat
  data : List Nat
  deriving DecidableEq, Repr, Inhabited

/-- A two-wire controller (R438 to R453): bytes staged, queue, the entry in progress and whether it is on the bus (not while it
waits for a retry), results, the first byte of the next read of TWk_RDATA, alert log; a bus clear is due once SCL is high; the
last transfer was an Alert Response Address read; automatic reads are off until the line has been high; on a shadow, own
results that the lead's have not met, and the lead's that no own result has met. -/
structure TwSt where
  stage : List Nat
  queue : List TwEntry
  cur : Option TwEntry
  live : Bool
  results : List TwRes
  rpos : Nat
  alerts : List Nat
  clearDue : Bool
  araLast : Bool
  araOff : Bool
  own : List (TwEntry × TwRes)
  lead : List TwRes
  deriving DecidableEq, Repr, Inhabited

/-- A tunnelled two-wire transaction that waits for its response (R429): tag, group, when it was sent. -/
structure TunTx where
  tag : Nat
  group : Nat
  since : Nat
  deriving DecidableEq, Repr, Inhabited

/-- Twin control behind its registers (R496 to R517): a takeover that is fixed, as T0 and cause, and whether the old lead has
released its balls for it; when group T was last UP or the wait for it began; when ADMIT was entered and whether the
snapshot has come; the Invar time of the last change of the lead state and when it was last reported to the hosts; on a HOST
device the last LEAD message of each L group, as lead state and time. -/
structure TwinSt where
  take : Option (Nat × Nat)
  released : Bool
  downAt : Nat
  admitAt : Nat
  snapped : Bool
  leadAt : Nat
  sentAt : Nat
  heads : Table (Option (Bool × Nat))
  deriving DecidableEq, Repr, Inhabited

/-- A mailbox command in progress (R553): code, result, detail; whether its effect still waits for the identity key. -/
structure MbxCmd where
  code : Nat
  result : Nat
  detail : Nat
  waits : Bool
  deriving DecidableEq, Repr, Inhabited

/-- The management complex behind its registers (R544 to R562): the nonce in force, the slot of the open session, the command
in progress, slots whose last check since their last write passed as kind and slot, when each watchdog was last restarted,
the slot in use of each kind, the firmware digests, the identity public key, whether MC0 runs. -/
structure MgtSt where
  nonce : Option (List Nat)
  session : Option Nat
  cmd : Option MbxCmd
  passed : List (Nat × Nat)
  wdtAt : Table Nat
  slots : Table (Option Nat)
  mc0Digest : List Nat
  mc1Digest : List Nat
  idKey : List Nat
  mc0Run : Bool
  deriving DecidableEq, Repr, Inhabited

/-- Boot (R533 to R541): a warm reset that is due, by its cause; RST_N is low; when the last reset began; image verification has
ended; the checks of MC0 and MC1 firmware have ended; when the image was applied; the always-on supply is down; which of
the outputs LREF0 and LREF1 run (R575). -/
structure BootSt where
  resetDue : Option Nat
  rstLow : Bool
  began : Nat
  verified : Bool
  mc0Done : Bool
  mc1Done : Bool
  appliedAt : Nat
  off : Bool
  lref : Nat
  deriving DecidableEq, Repr, Inhabited

/-- Power states (R522 to R532): the entry in progress as state and Invar time, generators held, when the exit began and from which
state (none: no exit), islands awake by themselves as number and last access, whether THERM_WARN has been signalled since the
reading last fell. -/
structure PwrSt where
  entry : Option (Nat × Nat)
  held : Nat
  exitAt : Option (Nat × Nat)
  awake : List (Nat × Nat)
  warned : Bool
  deriving DecidableEq, Repr, Inhabited

/-- Why a step stops the machine. No command of the device stops it: the device answers an error by a register, a
completion or the Lodge, so no meaning of this model raises a fault. -/
inductive Fault where
  /-- Kept for the shape of the interface; nothing raises it. Safe: a claim never rests on it. -/
  | none
  deriving DecidableEq, Repr, Inhabited

/-- Why the model refuses a command. -/
inductive Refusal where
  /-- Raised by `exec` for a command whose meaning is not written yet. Safe: nothing is claimed of it. -/
  | notModelled (mnemonic : String)
  deriving DecidableEq, Repr, Inhabited

/-- The state of the device and the commands that wait. -/
structure State where
  /-- The BAR0 registers by offset. An unlisted register holds its reset value (`resetWord`), so the list holds the registers that differ from it (R13, R68). -/
  regs : Table Word
  /-- The values that load lists gave to registers: what expert fields read while their block's GLB_EXPERT_EN bit is clear, and return to (R16, R18, R62). Unlisted: the reset value. -/
  imgRegs : Table Word
  /-- Offsets of expert registers whose return under R18 is due at their block's next line boundary. -/
  expertPend : List Nat
  /-- The model's own time in ns since power-on, against which deadlines in this state are compared. -/
  now : Nat
  /-- Invar time in ns, modulo 2^64 (R284). -/
  invar : Nat
  /-- The model's own counter of free values drawn from `Config`; no rule of the spec. -/
  free : Nat
  /-- What has left the device, oldest first: the model's record of outward effects. -/
  out : List Out
  /-- The levels of the strap pins and supplies, as the board holds them (R20, R566). -/
  straps : Straps
  /-- On a HOST device, the group that faces the head lead, as the LEAD messages name it (R513). -/
  headLead : Option Nat
  /-- The 32 strobe generators. -/
  gen : Table GenSt
  /-- The lane groups L0, L1 and T (R382). -/
  grp : Table GrpSt
  /-- The applied image and the recipe store (R53). -/
  image : ImageSt
  /-- The four pavilions' recipe loads. -/
  pav : Table PavSt
  /-- The recipe in the active bank of each swap group; none: the default recipe (R53, R59). -/
  ctxRecipe : Table (Option Nat)
  /-- The 64 stream channels of the Pergola. -/
  chan : Table ChanSt
  /-- What waits at each unit input for each channel, oldest first, by `queueKey` (R76). -/
  queue : Table (List Item)
  /-- The arbitration points, by `unitKey` (R78). -/
  arb : Table ArbSt
  /-- The Glasshouse as the debug window shows it (R80, R90). -/
  ghouse : Table Byte
  /-- The sixteen sensor ports. -/
  port : Table PortSt
  /-- The reception entries, 8 for each port: entry k of port n is number 8n + k. Number 128 + t holds the phase counter of tunnel t on a HOST device (R427). -/
  entry : Table EntrySt
  /-- The four segmenters. -/
  seg : Table SegSt
  /-- The 64 streams. -/
  stream : Table StreamSt
  /-- The ring of the event log: entry i is number i mod 4,096 (R561). -/
  logRing : Table LogEntry
  /-- MGT_LOG_ARG of each initiator, by code (R562). -/
  logArg : Table Word
  /-- The Lodge. -/
  lodge : LodgeSt
  /-- The Bandstand. -/
  ic : BandSt
  /-- The incoming virtual wires 0 to 31 by level (R432). -/
  wires : Nat
  /-- The input filters (R292, R301). -/
  filter : FilterSt
  /-- The levels of TRIG_IN[15:0] after their filters, before POL (R292). -/
  trigLevel : Nat
  /-- The raw levels of ALERT_N[7:0] (bits 7:0) and GPIO[15:0] (bits 23:8) (R467). -/
  pins : Nat
  /-- The mirror queue of the lead, oldest first (R503). -/
  mirrorQ : List MirrorW
  /-- Register writes that found the mirror queue full and wait in the register path (R503). -/
  mirrorWait : List MirrorW
  /-- The twin state that the partner last reported (R499). -/
  partnerState : Nat
  /-- Configuration space: the double word at offset o of function f is number 4096 f + o; unlisted: its reset value (R358, R359). -/
  cfg : Table Word
  /-- When the function-level reset of a function ends at the latest; none: no reset runs (R373). -/
  flrUntil : Table (Option Nat)
  /-- The endpoint is ready (R378). -/
  ready : Bool
  /-- Vectors raised and not yet taken by the endpoint: function and vector, oldest first (R368). -/
  msixReq : List (Nat × Nat)
  /-- The LU contexts: context c of LU n is number 8n + c. -/
  luCtx : Table LuCtx
  /-- The table memories of the LUs: word a of LU n is number 32,768 n + a; an unlisted word holds 0x0000_4000 (R157). -/
  luTable : Table Word
  /-- The MU members: context c of MU n is number 8n + c. -/
  muCtx : Table MuCtx
  /-- The merge groups: group g of MU n is number 4n + g. -/
  muGrp : Table MuGrp
  /-- Frame memory by data address: a list of address and byte pairs in canonical form; an unlisted byte holds 0 (R315, R317). -/
  fmMem : Table Byte
  /-- Frame memory behind its registers. -/
  fm : FmSt
  /-- The BU contexts: context c of BU n is number 8n + c. -/
  bu : Table BuCtx
  /-- The GU contexts: context c of GU p is number 8p + c. -/
  guCtx : Table GuCtx
  /-- The GU paths: path q of GU p is number 8p + q. -/
  guPath : Table GuPath
  /-- The four box slots: the boxes published, newest first (R218). -/
  guSlot : Table (List GuPub)
  /-- The output streams. -/
  os : Table OsSt
  /-- The relays by output stream, and the tunnels at 32 + k (R514). -/
  relay : Table RelaySt
  /-- The shadow's window of seal mismatches. -/
  mm : MmSt
  /-- By DMA channel: the documents of which it has discarded an item (R333). -/
  dmaDisc : Table (List Nat)
  /-- The two encoders. -/
  enc : Table EncSt
  /-- The eight scheduled-action slots. -/
  slot : Table SlotSt
  /-- Invar behind its registers. -/
  sync : SyncSt
  /-- The DMA channels. -/
  dma : Table DmaSt
  /-- Tags of the endpoint that no channel's read holds. -/
  pcie : PcieSt
  /-- The MSI-X tables: word w of vector v of function f is number 1,024 f + 4 v + w; an unlisted vector control word holds 1, another 0 (R369). -/
  msix : Table Word
  /-- The MSI-X pending bits of each function. -/
  pba : Table Nat
  /-- The bridge. -/
  brg : BrgSt
  /-- The two-wire controllers TW0 to TW7. -/
  tw : Table TwSt
  /-- The pointer of TW8 (R456). -/
  tw8Ptr : Nat
  /-- Tunnelled two-wire transactions outstanding (R429). -/
  tun : List TunTx
  /-- Tags of tunnelled transactions in quarantine, with its end (R429). -/
  tunQuar : List (Nat × Nat)
  /-- Twin control. -/
  twin : TwinSt
  /-- The management complex. -/
  mgt : MgtSt
  /-- Boot and resets. -/
  boot : BootSt
  /-- Power states. -/
  pwr : PwrSt
  /-- The xSPI flash by offset; an unlisted byte reads 0xFF, as erased flash does (R547). -/
  flash : Table Byte
  /-- The owner key slots in OTP, as state (0 EMPTY, 1 VALID, 2 REVOKED) and digest (R551). -/
  otp : Table (Nat × List Nat)
  /-- The tightly coupled memories: byte a of core t is number 262,144 t + a (R544). -/
  tcm : Table Byte
  /-- The shared exchange area of the cores (R544). -/
  shared : Table Byte
  /-- The PF2 mailbox buffer (R553). -/
  mbx : Table Byte
  /-- The commands that wait, the next one first. -/
  pending : List Instr
  deriving DecidableEq, Repr, Inhabited

/-- The device right after power-on reset with its straps open and nothing placed: every register at its reset value, every
block idle, no command waiting. -/
def State.reset : State where
  regs := []
  imgRegs := []
  expertPend := []
  now := 0
  invar := 0
  free := 0
  out := []
  straps := default
  headLead := none
  gen := []
  grp := []
  image := default
  pav := []
  ctxRecipe := []
  chan := []
  queue := []
  arb := []
  ghouse := []
  port := []
  entry := []
  seg := []
  stream := []
  logRing := []
  logArg := []
  lodge := default
  ic := default
  wires := 0
  filter := default
  trigLevel := 0
  pins := 0
  mirrorQ := []
  mirrorWait := []
  partnerState := 0
  cfg := []
  flrUntil := []
  ready := false
  msixReq := []
  luCtx := []
  luTable := []
  muCtx := []
  muGrp := []
  fmMem := []
  fm := default
  bu := []
  guCtx := []
  guPath := []
  guSlot := []
  os := []
  relay := []
  mm := default
  dmaDisc := []
  enc := []
  slot := []
  sync := default
  dma := []
  pcie := default
  msix := []
  pba := []
  brg := default
  tw := []
  tw8Ptr := 0
  tun := []
  tunQuar := []
  twin := default
  mgt := default
  boot := default
  pwr := default
  flash := []
  otp := []
  tcm := []
  shared := []
  mbx := []
  pending := []

end Sys2Proof.Machine
end

