-- ==== Sys2Proof/Machine/Table.lean ====
section
/-! DEFINITION. Tables with numbered entries, kept in one canonical form (numbers strictly rising, no entry equal to what
an unlisted number reads as), register fields, and the byte-order helpers that memories share. -/

namespace Sys2Proof

/-- The listed entry of number `k`, if any. -/
def Table.find {α : Type} : Table α → Nat → Option α
  | [], _ => none
  | (j, v) :: t, k => if j = k then some v else Table.find t k

/-- Entry `k`, where unlisted numbers hold `d`. -/
def Table.getD {α : Type} (t : Table α) (d : α) (k : Nat) : α := (t.find k).getD d

/-- The table without entry `k`. -/
def Table.erase {α : Type} : Table α → Nat → Table α
  | [], _ => []
  | (j, v) :: t, k => if j = k then Table.erase t k else (j, v) :: Table.erase t k

/-- The table with `(k, v)` put before the first greater number. -/
def Table.insert {α : Type} : Table α → Nat → α → Table α
  | [], k, v => [(k, v)]
  | (j, w) :: t, k, v => if k < j then (k, v) :: (j, w) :: t else (j, w) :: Table.insert t k v

/-- Entry `k` becomes `v`, where unlisted numbers hold `d`: writing `d` takes the entry out. -/
def Table.setD {α : Type} [DecidableEq α] (t : Table α) (d : α) (k : Nat) (v : α) : Table α :=
  if v = d then t.erase k else (t.erase k).insert k v

/-- Entry `k` of a table whose unlisted entries hold the type's default. -/
def Table.get {α : Type} [Inhabited α] (t : Table α) (k : Nat) : α := t.getD default k

/-- Entry `k` becomes `v`, in a table whose unlisted entries hold the type's default. -/
def Table.set {α : Type} [Inhabited α] [DecidableEq α] (t : Table α) (k : Nat) (v : α) : Table α :=
  t.setD default k v

/-- Entry `k` changed by `f`. -/
def Table.modify {α : Type} [Inhabited α] [DecidableEq α] (t : Table α) (k : Nat) (f : α → α) : Table α :=
  t.set k (f (t.get k))

/-- Numbers strictly rise, and every number is at least `lo`. -/
def Table.risesFrom {α : Type} (lo : Nat) : Table α → Bool
  | [] => true
  | (j, _) :: t => lo ≤ j && Table.risesFrom (j + 1) t

/-- The canonical form: numbers strictly rise and no entry holds `d k`, what the unlisted number `k` reads as. -/
def Table.wfBy {α : Type} [DecidableEq α] (d : Nat → α) (t : Table α) : Bool :=
  t.risesFrom 0 && t.all (fun e => decide (e.2 ≠ d e.1))

/-- The field's value in a word. -/
def Fld.get (f : Fld) (w : Word) : Nat := w.toNat / 2 ^ f.lo % 2 ^ f.width

/-- The word with the field holding `v`, cut to the field's width. -/
def Fld.put (f : Fld) (w : Word) (v : Nat) : Word :=
  BitVec.ofNat 32 (w.toNat - f.get w * 2 ^ f.lo + (v % 2 ^ f.width) * 2 ^ f.lo)

/-- Bit `i` of a number. -/
def bitOf (n i : Nat) : Nat := n / 2 ^ i % 2

/-- Bit `i` of a number as a truth value. -/
def bitB (n i : Nat) : Bool := n / 2 ^ i % 2 == 1

/-- The number with bit `i` set or clear. -/
def withBit (n i : Nat) (b : Bool) : Nat := n - bitOf n i * 2 ^ i + (if b then 2 ^ i else 0)

/-- A truth value as a bit. -/
def b2n (b : Bool) : Nat := if b then 1 else 0

/-- The signed value of the `w`-bit two's complement number `n`. -/
def signed (w n : Nat) : Int := if n % 2 ^ w < 2 ^ (w - 1) then (n % 2 ^ w : Nat) else ((n % 2 ^ w : Nat) : Int) - (2 ^ w : Nat)

/-- The `w`-bit two's complement number of an integer. -/
def unsigned (w : Nat) (z : Int) : Nat := (z % ((2 ^ w : Nat) : Int)).toNat

/-- An integer held within bounds. -/
def clampI (lo hi z : Int) : Int := if z < lo then lo else if hi < z then hi else z

/-- A truth value for each element: the sum of an integer list. -/
def sumI (l : List Int) : Int := l.foldl (· + ·) 0

/-- The little-endian number that bytes spell. -/
def leNat : List Nat → Nat
  | [] => 0
  | b :: t => b % 256 + 256 * leNat t

/-- The `n` low bytes of a number, little-endian. -/
def leBytes : Nat → Nat → List Nat
  | 0, _ => []
  | n + 1, v => v % 256 :: leBytes n (v / 256)

/-- Bytes `a` to `a + n - 1` of an addressed memory whose unlisted bytes read `d`, as numbers. -/
def memRead (m : Table Byte) (d : Byte) (a : Nat) : Nat → List Nat
  | 0 => []
  | n + 1 => (m.getD d a).toNat :: memRead m d (a + 1) n

/-- The memory with the bytes written from address `a` up. -/
def memWrite (m : Table Byte) (d : Byte) (a : Nat) : List Nat → Table Byte
  | [] => m
  | b :: t => memWrite (m.setD d a (BitVec.ofNat 8 b)) d (a + 1) t

/-- The elements of `l` cut into runs of `n` (the last may be shorter); `fuel` bounds the number of runs. -/
def chunks {α : Type} (n : Nat) : Nat → List α → List (List α)
  | 0, _ => []
  | _ + 1, [] => []
  | fuel + 1, x :: l => (x :: l).take n :: chunks n fuel ((x :: l).drop n)

/-- Bytes as little-endian 32-bit numbers; a last part word is dropped. -/
def wordsOf (b : List Nat) : List Nat := ((chunks 4 b.length b).filter (fun c => c.length == 4)).map leNat

/-- One step of CRC-32C (polynomial 0x1EDC6F41, reflected) on one bit. -/
def crc32cBit (c : Nat) : Nat := if c % 2 = 1 then Nat.xor (c / 2) 0x82F63B78 else c / 2

/-- CRC-32C over one byte, most recent remainder `c`. -/
def crc32cByte (c b : Nat) : Nat :=
  crc32cBit (crc32cBit (crc32cBit (crc32cBit (crc32cBit (crc32cBit (crc32cBit (crc32cBit (Nat.xor c (b % 256)))))))))

/-- The CRC-32C of a byte string (initial value and final exclusive-or all ones). -/
def crc32c (l : List Nat) : Nat := Nat.xor (l.foldl crc32cByte 0xFFFFFFFF) 0xFFFFFFFF

end Sys2Proof
end

