-- ==== Sys2Proof/Machine/Regs.lean ====
section
/-! DEFINITION. The register file: which register an offset names, what it holds at reset, reading and writing whole
registers, fields and counters, and the access types of R4. -/

namespace Sys2Proof.Machine

/-- Whether a distance from a register's base is one of its instances. -/
def onDims : List (Nat × Nat) → Nat → Bool
  | [], d => d == 0
  | (stride, count) :: t, d => decide (d / stride < count) && onDims t (d % stride)

/-- The register descriptions of the block that holds a BAR0 offset (R68). -/
def rowsOf (off : Nat) : List RegRow :=
  match off / 0x100000 with
  | 0 => regRowsGlb
  | 1 => regRowsSp
  | 2 => regRowsSt
  | 3 => regRowsPgl
  | 4 =>
    let d := off % 0x40000
    if d < 0x10000 then regRowsLu else if d < 0x20000 then regRowsMu else if d < 0x28000 then regRowsGu
    else if d < 0x30000 then regRowsBu else regRowsOf
  | 5 => regRowsOs
  | 6 => regRowsTb
  | 7 => regRowsFm
  | 8 => regRowsDma
  | 9 => if off < 0x980000 then regRowsLnk else regRowsBrg
  | 10 => regRowsTw
  | 11 => regRowsIc
  | 12 => regRowsFc
  | 13 => regRowsPcr
  | 14 => regRowsMgt
  | 15 => regRowsTwn
  | _ => []

/-- The register description of an offset; none where no register lies (R13). -/
def findReg (off : Nat) : Option RegRow :=
  (rowsOf off).find? (fun r => decide (r.base ≤ off) && onDims r.dims (off - r.base))

/-- The word that a register's field descriptions give at reset. -/
def fieldsReset (fs : List FieldRow) : Nat := fs.foldl (fun a f => a + f.reset * 2 ^ f.lo) 0

/-- The reset value of the register at an offset. Where the description says "As R481", by t, or by TWIN_ID, the value is
R481's, t's, or that of TWIN_ID 0. "Image", "Strap", "OTP" and "Supply" hold 0 here (notes/assumptions/3.md). -/
def resetWord (off : Nat) : Word :=
  if off = Reg.MGT_WDTt_CFG 0 then 1000
  else if off = Reg.FC_CLASS_LOw 0 then 0
  else if off = Reg.FC_CLASS_LOw 1 ∨ off = Reg.FC_CLASS_HIw 0 then 0x55555555
  else if off = Reg.FC_CLASS_HIw 1 then 0x1AA5
  else if off = Reg.TW8_CFG then Fld.TW8_CFG_EN.put (Fld.TW8_CFG_ADDR.put 0 0x4C) 1
  else match findReg off with
    | some r => BitVec.ofNat 32 (fieldsReset r.fields)
    | none => 0

/-- The value a register holds. -/
def State.reg (s : State) (off : Nat) : Word := (s.regs.find off).getD (resetWord off)

/-- A register takes a value. -/
def State.setReg (s : State) (off : Nat) (w : Word) : State :=
  { s with regs := s.regs.setD (resetWord off) off w }

/-- A field of a register as a number. -/
def State.fld (s : State) (off : Nat) (f : Fld) : Nat := f.get (s.reg off)

/-- A one-bit field as a truth value. -/
def State.on (s : State) (off : Nat) (f : Fld) : Bool := f.get (s.reg off) == 1

/-- A field of a register takes a value. -/
def State.setFld (s : State) (off : Nat) (f : Fld) (v : Nat) : State := s.setReg off (f.put (s.reg off) v)

/-- Bit `b` of a register. -/
def State.bit (s : State) (off b : Nat) : Bool := bitB (s.reg off).toNat b

/-- Hardware sets bit `b` of a register. -/
def State.setBit (s : State) (off b : Nat) : State := s.setReg off (s.reg off ||| BitVec.ofNat 32 (2 ^ b))

/-- Hardware sets or clears bit `b` of a register. -/
def State.putBit (s : State) (off b : Nat) (v : Bool) : State :=
  s.setReg off (BitVec.ofNat 32 (withBit (s.reg off).toNat b v))

/-- A counter counts `n` events: it saturates at 0xFFFF_FFFF (R8). -/
def State.countN (s : State) (off n : Nat) : State :=
  s.setReg off (BitVec.ofNat 32 (min 0xFFFFFFFF ((s.reg off).toNat + n)))

/-- A counter counts one event (R8). -/
def State.count (s : State) (off : Nat) : State := s.countN off 1

/-- A sequence number counts one event modulo 2^32 (R11). -/
def State.bumpSeq (s : State) (off : Nat) : State := s.setReg off (s.reg off + 1)

/-- Something leaves the device. -/
def State.emit (s : State) (o : Out) : State := { s with out := s.out ++ [o] }

/-- A field after a software write of the whole register, by its access type (R4, R5): `hw` has the bits that hardware
sets in the same cycle. A write to a counter clears it when the value is 0 and is ignored otherwise (R8, R9). -/
def FieldRow.write (f : FieldRow) (old new hw : Nat) : Nat :=
  let part (n : Nat) : Nat := n / 2 ^ f.lo % 2 ^ f.width
  if f.counter then (if part new = 0 then 0 else part old)
  else match f.acc with
    | .rw | .rwh => part new
    | .w1c => Nat.lor (part old - Nat.land (part old) (part new)) (part hw)
    | .w1s => Nat.lor (part old) (part new)
    | .ro => part old
    | .wo => 0

/-- The register after a software write of `new` (R4, R5, R12): reserved bits stay 0. -/
def RegRow.write (r : RegRow) (old new hw : Word) : Word :=
  BitVec.ofNat 32 (r.fields.foldl (fun a f => a + f.write old.toNat new.toNat hw.toNat * 2 ^ f.lo) 0)

/-- The effect of a software write on a register without effects of its own (R4, R13). -/
def State.plainWrite (s : State) (off : Nat) (new hw : Word) : State :=
  match findReg off with
  | some r => s.setReg off (r.write (s.reg off) new hw)
  | none => s

/-- A field after a load-list write (R587): RW and RWH fields, and RO fields whose reset is "Image", take the value. -/
def FieldRow.load (f : FieldRow) (old new : Nat) : Nat :=
  let part (n : Nat) : Nat := n / 2 ^ f.lo % 2 ^ f.width
  if f.counter then part old
  else match f.acc with
    | .rw | .rwh => part new
    | .ro => if f.image then part new else part old
    | _ => part old

/-- The register after a load-list write of `new`. PGL_BANK_OWNERk takes the whole value: R44 and R80 say that a load list sets the bank
owners, although R587 lets an RO field whose reset is 0xF ignore it (DEDUCED, notes/assumptions/42.md). -/
def RegRow.load (r : RegRow) (old new : Nat) : Nat :=
  if r.name == "PGL_BANK_OWNERk" then new % 2 ^ 32
  else r.fields.foldl (fun a f => a + f.load old new * 2 ^ f.lo) 0

/-- The LU and context whose CFG register an offset is. -/
def luCfgOf (off : Nat) : Option (Nat × Nat) :=
  let d := off % 0x40000
  if off / 0x100000 = 4 ∧ d < 0x10000 ∧ 0x100 ≤ d % 0x4000 ∧ d % 0x4000 < 0x200 ∧ d % 0x20 = 0 then
    some (4 * (off % 0x100000 / 0x40000) + d / 0x4000, (d % 0x4000 - 0x100) / 0x20)
  else none

/-- While DARK_EN is 0 a context's D is 0 and DARK_VALID is 0, whatever cleared it (R160). -/
def State.darkOff (s : State) (off : Nat) : State :=
  match luCfgOf off with
  | none => s
  | some (lu, c) =>
    if s.on off Fld.PVp_LUu_CTXc_CFG_DARK_EN then s
    else
      let s := (s.setFld (Reg.PVp_LUu_CTXc_STATE (lu / 4) (lu % 4) c) Fld.PVp_LUu_CTXc_STATE_DARK_VALID 0).setFld
        (Reg.PVp_LUu_CTXc_DARK (lu / 4) (lu % 4) c) Fld.PVp_LUu_CTXc_DARK_D 0
      { s with luCtx := s.luCtx.modify (8 * lu + c) (fun x => { x with dark := 0 }) }

/-- A load-list write: the register in use and the image-loaded value both take it (R587, R62). The PV field of
PGL_CHn_CFG takes its value only from the FABRIC section. -/
def State.loadWrite (s : State) (fabric : Bool) (off val : Nat) : State :=
  match findReg off with
  | none => s
  | some r =>
    let keepPv (old new : Nat) : Nat :=
      if r.name == "PGL_CHn_CFG" && !fabric then new - new % 4 + old % 4 else new
    let old := (s.reg off).toNat
    let oldI := ((s.imgRegs.find off).getD (resetWord off)).toNat
    let t := (s.setReg off (BitVec.ofNat 32 (r.load old (keepPv old val)))).darkOff off
    { t with imgRegs := t.imgRegs.setD (resetWord off) off (BitVec.ofNat 32 (r.load oldI (keepPv oldI val))) }

/-- A field that returns to its image-loaded value when it is RW (R18). -/
def FieldRow.giveBack (f : FieldRow) (old img : Nat) : Nat :=
  let part (n : Nat) : Nat := n / 2 ^ f.lo % 2 ^ f.width
  if f.acc = .rw ∧ f.counter = false then part img else part old

/-- The RW fields of a register return to their image-loaded values (R18). -/
def State.giveBack (s : State) (off : Nat) : State :=
  match findReg off with
  | none => s
  | some r =>
    let img := ((s.imgRegs.find off).getD (resetWord off)).toNat
    (s.setReg off (BitVec.ofNat 32 (r.fields.foldl (fun a f => a + f.giveBack (s.reg off).toNat img * 2 ^ f.lo) 0))).darkOff off

/-- The type code of the block that holds an offset (R68). -/
def blockCode (off : Nat) : Nat :=
  match off / 0x100000 with
  | 0 => 0x01 | 1 => 0x02 | 2 => 0x03 | 3 => 0x04 | 4 => 0x05 | 5 => 0x06 | 6 => 0x07 | 7 => 0x08 | 8 => 0x09
  | 9 => if off < 0x980000 then 0x0A else 0x0B
  | 10 => 0x0C | 11 => 0x0D | 12 => 0x0E | 13 => 0x0F | 14 => 0x10 | 15 => 0x11 | _ => 0x12

/-- The GLB_EXPERT_EN bit of the block that holds an offset (R68); none for GLB and the debug window. -/
def expertBit (off : Nat) : Option Nat :=
  match off / 0x100000 with
  | 0 => none | 1 => some 0 | 2 => some 1 | 3 => some 2 | 4 => some (3 + off % 0x100000 / 0x40000) | 5 => some 7
  | 6 => some 8 | 7 => some 9 | 8 => some 10 | 9 => some (if off < 0x980000 then 11 else 12) | 10 => some 13
  | 11 => some 14 | 12 => some 15 | 13 => some 16 | 14 => some 17 | 15 => some 18 | _ => none

/-- Whether the register at an offset is on the expert page (R15). -/
def isExpert (off : Nat) : Bool := match findReg off with | some r => r.expert | none => false

/-- Whether the block's expert registers take writes (R16, R17). -/
def State.expertOpen (s : State) (off : Nat) : Bool :=
  match expertBit off with
  | some b => s.bit Reg.GLB_EXPERT_EN b
  | none => true

/-- Bit `b` of a register, over `n` registers that stand `stride` apart, as the number whose bit k is that of register k. -/
def State.validBits (s : State) (off stride n b : Nat) : Nat :=
  (List.range n).foldl (fun a k => a + b2n (s.bit (off + stride * k) b) * 2 ^ k) 0

/-- A register value with the fields filled in that the register tables call copies of others: LISTEN of SPn_STATUS, ACTIVE of STn_STATUS,
CTX_ACTIVE and GRP_ACTIVE of the units' STATUS registers, TAP of PVp_BUu_CTXc_CFG. -/
def State.withCopies (s : State) (off v : Nat) : Nat :=
  let d := off % 0x40000
  if off / 0x100000 = 1 then
    if off % 0x10000 = 4 then withBit v 18 (s.bit (off - Reg.SPn_STATUS 0 + Reg.SPn_PHY_CFG 0) 18) else v
  else if off / 0x100000 = 2 then
    if off < 0x204000 ∧ off % 0x100 = 0 then withBit v 0 (s.bit (Reg.ST_BINDn ((off - Reg.STn_STATUS 0) / 0x100)) 31) else v
  else if off / 0x100000 = 4 then
    if d = 0x4000 * (d / 0x4000) ∧ (d < 0x18000 ∨ 0x28000 ≤ d) ∧ d < 0x38000 then
      let v := v % 2 ^ 16 + v / 2 ^ 24 * 2 ^ 24
      if d < 0x10000 then v + s.validBits (off + 0x100) 0x20 8 6 * 2 ^ 16
      else if d < 0x18000 then v % 2 ^ 24 + s.validBits (off + 0x100) 0x20 8 6 * 2 ^ 16 + s.validBits (off + 0x200) 0x20 4 4 * 2 ^ 24
      else if d < 0x30000 then v + s.validBits (off + 0x100) 0x40 8 6 * 2 ^ 16
      else v + s.validBits (off + 0x100) 0x20 8 6 * 2 ^ 16
    else if 0x28000 ≤ d ∧ d < 0x30000 ∧ 0x100 ≤ d % 0x4000 ∧ d % 0x4000 < 0x300 ∧ d % 0x40 = 0 then
      withBit v 7 (s.bit (Reg.PGL_CHn_ROUTE (v % 64)) 24)
    else v
  else v

/-- What a read of a register returns (R4, R12, R13, R16): WO fields read 0, and while the block's expert bit is clear the
RW fields of its expert registers read their image-loaded values. -/
def State.readReg (s : State) (off : Nat) : Word :=
  match findReg off with
  | none => 0
  | some r =>
    let img := ((s.imgRegs.find off).getD (resetWord off)).toNat
    let closed := r.expert && !s.expertOpen off
    BitVec.ofNat 32 (s.withCopies off (r.fields.foldl (fun a f =>
      a + (if f.acc = .wo then 0 else if closed then f.giveBack (s.reg off).toNat img
        else (s.reg off).toNat / 2 ^ f.lo % 2 ^ f.width) * 2 ^ f.lo) 0))

end Sys2Proof.Machine
end

