-- ==== Sys2Proof/Machine/LinkTx.lean ====
section
/-! DEFINITION. Sending link packets (spec/16): framing, credits, the choice of the next packet, the replay buffer, and taking what
was received. -/

namespace Sys2Proof.Machine

/-- The words of a packet's header (R407). -/
def LinkPkt.header (p : LinkPkt) : List Nat :=
  [p.cls % 16 + p.typ % 16 * 2 ^ 4 + b2n p.first * 2 ^ 8 + b2n p.last * 2 ^ 9 + b2n p.ep * 2 ^ 10
      + (if p.cls = 0 then 0 else p.seq % 4096) * 2 ^ 16,
    p.payload.length + p.tag % 256 * 2 ^ 16 + p.init % 16 * 2 ^ 24, p.spec0, p.spec1]

/-- The LCRC of a packet: CRC-32C over header and payload (R406). -/
def LinkPkt.lcrc (p : LinkPkt) : Nat := crc32c ((LinkPkt.header p ++ p.payload).flatMap (leBytes 4))

/-- The words that a packet puts on the link. -/
def LinkPkt.words (p : LinkPkt) : List Nat := LinkPkt.header p ++ p.payload ++ [LinkPkt.lcrc p]

/-- The header and data credits of a class in a receiver's pool (R408). -/
def poolCredits : Nat → Nat × Nat
  | 1 => (32, 256) | 2 => (64, 16) | 4 => (64, 1024) | 5 => (128, 4096) | 6 => (32, 32) | 7 => (128, 1024) | _ => (0, 0)

/-- The state of a lane group (R391). -/
def State.grpState (s : State) (g : Nat) : Nat := s.fld (Reg.LNK_Gg_STATUS g) Fld.LNK_Gg_STATUS_STATE

/-- A lane group is in service only in UP (R391). -/
def State.inServiceGroup (s : State) (g : Nat) : Bool := s.grpState g == 8

/-- A group that keeps its packets: UP, RETRAIN, LP1, LP2, and the short training out of LP2 (R391, R410, R415). -/
def State.hasPath (s : State) (g : Nat) : Bool :=
  let t := s.grpState g
  t == 8 || t == 9 || t == 12 || t == 13 || ((s.grp.get g).train.short && (t == 1 || t == 2 || t == 6))

/-- A group's packet state changed by `f`. -/
def State.modGrp (s : State) (g : Nat) (f : GrpSt → GrpSt) : State := { s with grp := s.grp.modify g f }

/-! ### The byte stream of a group (R384 to R386) -/

/-- The lanes of a group (R382). -/
def laneCount (g : Nat) : Nat := if g = 2 then 4 else 8

/-- The logical lane that byte `i` after a byte on lane `lane` travels on (R386). -/
def laneOf (g lane i : Nat) : Nat := (lane + i) % laneCount g

/-- The logical lane of the next byte of a group's stream: what leaves at one time follows on without idle symbols
(notes/assumptions/141.md). -/
def State.nextLane (s : State) (g : Nat) : Nat :=
  let x := s.grp.get g
  laneOf g x.lane (if x.laneAt = some s.now then 0 else Config.idle g s.now)

/-- The bytes of a packet between SPK and EPK, both counted (R406). -/
def frameSize (words : List Nat) : Nat := 4 * words.length + 2

/-- A packet's symbols go out striped over the lanes (R386, R406). -/
def State.frame (s : State) (g : Nat) (words : List Nat) : State :=
  let l := s.nextLane g
  (s.modGrp g (fun x => { x with lane := laneOf g l (frameSize words), laneAt := some s.now })).emit (.packet g l words)

/-- An ordered set goes out on every lane; the stream resumes on lane 0 after it (R385, R386). -/
def State.orderedSet (s : State) (g typ : Nat) (symbols : List Nat) : State :=
  (s.modGrp g (fun x => { x with lane := 0, laneAt := some s.now })).emit (.ordered g typ symbols)

/-! ### Credits and the choice of the next packet -/

/-- The data credits that a packet takes (R412). -/
def LinkPkt.units (p : LinkPkt) : Nat := (4 * p.payload.length + 63) / 64

/-- A packet's place in the replay buffer in bytes: SPK, header, payload, LCRC and EPK (R406). -/
def LinkPkt.size (p : LinkPkt) : Nat := 22 + 4 * p.payload.length

/-- Whether the transmitter holds what a packet needs: its class's credits, but for completions and link control, and room in
the 64 KiB replay buffer (R408, R409, R412). -/
def GrpSt.canSend (x : GrpSt) (p : LinkPkt) : Bool :=
  (p.cls == 0 || p.cls == 3 || (decide (1 ≤ x.hdr.get p.cls) && decide (LinkPkt.units p ≤ x.data.get p.cls)))
    && (p.cls == 0 || decide ((x.replay.map LinkPkt.size).foldl (· + ·) (LinkPkt.size p) ≤ 65536))

/-- The oldest waiting packet of a class, if nothing holds it back: a CPL and an NP never pass an earlier P (R413). -/
def GrpSt.headOf (x : GrpSt) (cls : Nat) : Option LinkPkt :=
  match x.queue.find? (fun p => p.cls == cls || ((cls == 2 || cls == 3) && p.cls == 1)) with
  | some p => if p.cls = cls ∧ x.canSend p = true then some p else none
  | none => none

/-- The classes of the deficit round robin with their weights in 64-byte units (R411). -/
def drrClasses : List (Nat × Nat) := [(3, 2), (1, 2), (2, 1), (4, 8), (5, 8), (7, 8)]

/-- The deficit round robin of R411 from place `at`: a class reached anew gains its weight, and sends while its deficit
covers the packet. The place is twice the class's number in the list, plus one where it has gained its weight. -/
def GrpSt.drr (x : GrpSt) : Nat → Table Nat → Nat → Option (LinkPkt × Table Nat × Nat)
  | 0, _, _ => none
  | fuel + 1, d, place =>
    let k := place / 2 % 6
    let e := drrClasses.getD k (3, 2)
    match x.headOf e.1 with
    | none => GrpSt.drr x fuel (Table.set d e.1 0) (2 * ((k + 1) % 6))
    | some p =>
      let have_ := d.get e.1 + (if place % 2 = 0 then e.2 else 0)
      let cost := max 1 (LinkPkt.units p)
      if cost ≤ have_ then some (p, Table.set d e.1 (have_ - cost), 2 * k + 1)
      else GrpSt.drr x fuel (Table.set d e.1 have_) (2 * ((k + 1) % 6))

/-- The next packet to send: class 6 first, then the round robin (R411). -/
def GrpSt.next (x : GrpSt) : Option (LinkPkt × Table Nat × Nat) :=
  match x.headOf 6 with
  | some p => some (p, x.deficit, x.place)
  | none => x.drr 64 x.deficit x.place

/-- Packets leave while the group is in service and has what they need; each takes the next SEQ and stays in the replay
buffer (R409, R412). -/
def State.pump (s : State) (g : Nat) : Nat → State
  | 0 => s
  | fuel + 1 =>
    let x := s.grp.get g
    if !s.inServiceGroup g then s
    else match x.next with
      | none => s
      | some (p, d, place) =>
        let q := { p with seq := x.txSeq }
        let counted := p.cls != 3
        let x' : GrpSt := { x with
          txSeq := (x.txSeq + 1) % 4096
          queue := x.queue.erase p
          replay := x.replay ++ [q]
          hdr := if counted then Table.set x.hdr p.cls (x.hdr.get p.cls - 1) else x.hdr
          data := if counted then Table.set x.data p.cls (x.data.get p.cls - LinkPkt.units p) else x.data
          deficit := d
          place := place
          ackAt := if x.replay = [] then s.now else x.ackAt }
        State.pump ({ s with grp := s.grp.set g x' }.frame g (LinkPkt.words q)) g fuel

/-- A packet is given to a group: it waits there until the group may send it. A group without a path takes none (R410). -/
def State.sendPkt (s : State) (g : Nat) (p : LinkPkt) : State :=
  if s.hasPath g then
    let s := s.modGrp g (fun x => { x with queue := x.queue ++ [p] })
    s.pump g ((s.grp.get g).queue.length + 1)
  else s

/-- A link-control packet goes out at once, without SEQ and credits (R408, R411). Where its content lies in SPEC is the
model's choice (notes/assumptions/30.md). -/
def State.sendCtl (s : State) (g typ spec0 spec1 : Nat) : State :=
  if s.inServiceGroup g then s.frame g (LinkPkt.words ⟨0, typ, true, true, false, 0, 0, 0, spec0, spec1, []⟩) else s

/-- An item larger than 512 bytes travels as consecutive fragments marked FIRST and LAST (R407, R424, R430). -/
def fragments (cls typ tag spec0 spec1 : Nat) (words : List Nat) : List LinkPkt :=
  let cs := if words = [] then [[]] else chunks 128 words.length words
  (List.range cs.length).map (fun i =>
    ⟨cls, typ, i == 0, i + 1 == cs.length, false, 0, tag, 0, spec0, spec1, cs.getD i []⟩)

/-- An item is given to a group. -/
def State.sendItem (s : State) (g cls typ tag spec0 spec1 : Nat) (words : List Nat) : State :=
  (fragments cls typ tag spec0 spec1 words).foldl (fun s p => s.sendPkt g p) s

/-- A single packet of a class and type with payload words. -/
def State.sendMsg (s : State) (g cls typ : Nat) (words : List Nat) : State := s.sendItem g cls typ 0 0 0 words

/-- The oldest received packet of a class, if it is of this type, is taken from the receiver's buffer, and its credits go
back (R412); an NP or a CPL waits for every P received before it (R413). -/
def State.takeRx (s : State) (g cls typ : Nat) : State × Option LinkPkt :=
  match (s.grp.get g).rx.find? (fun p => p.cls == cls || ((cls == 2 || cls == 3) && p.cls == 1)) with
  | none => (s, none)
  | some p =>
    if p.cls = cls ∧ p.typ = typ then
      let s := s.modGrp g (fun x => { x with rx := x.rx.erase p })
      ((if cls = 3 then s else s.sendCtl g 2 (cls + 2 ^ 16) (LinkPkt.units p)), some p)
    else (s, none)

/-- The oldest received item of a class and type is taken whole: the fragments from FIRST to LAST, once all have arrived. -/
def State.takeItem (s : State) (g cls typ : Nat) : State × Option (LinkPkt × List Nat) :=
  let mine := (s.grp.get g).rx.filter (fun p => p.cls == cls)
  let n := (mine.takeWhile (fun p => !p.last)).length + 1
  let item := mine.take n
  match item.head? with
  | none => (s, none)
  | some p =>
    if p.typ = typ ∧ n ≤ mine.length then
      let s := item.foldl (fun s q =>
        let s := s.modGrp g (fun x => { x with rx := x.rx.erase q })
        s.sendCtl g 2 (cls + 2 ^ 16) (LinkPkt.units q)) s
      (s, some (p, item.flatMap (·.payload)))
    else (s, none)

end Sys2Proof.Machine
end

