-- ==== Sys2Proof/Machine/Ops.lean ====
section
/-! DEFINITION. The operations that blocks share: the event log, signals to the Lodge, the Bandstand's lines and completions, the checks that a
register access passes before it takes effect, the mirror to the shadow, and the one form in which a meaning answers. -/

namespace Sys2Proof

/-- The code of an initiator (R415). TW8 has no code there; 6 is its class (R556). -/
def Initiator.code : Initiator → Nat
  | .pf0 => 0 | .pf1 => 1 | .pf2 => 2 | .pf3 => 3 | .mc0 => 4 | .mc1 => 5 | .tw8 => 6
  | .linkL0 => 8 | .linkL1 => 9 | .linkT => 10

/-- The initiator class of the access-control table (R556). -/
def Initiator.cls (i : Initiator) : Nat := if i.code < 7 then i.code else 7

/-- Whether the initiator is a function of the host. -/
def Initiator.isHost (i : Initiator) : Bool := decide (i.code < 4)

/-- The initiator with a code (R415). -/
def Initiator.ofCode : Nat → Initiator
  | 0 => .pf0 | 1 => .pf1 | 2 => .pf2 | 3 => .pf3 | 4 => .mc0 | 5 => .mc1 | 6 => .tw8 | 8 => .linkL0 | 9 => .linkL1
  | _ => .linkT

/-- The kind code of a unit kind (R44). -/
def UnitKind.code : UnitKind → Nat
  | .lu => 0 | .mu => 1 | .gu => 2 | .bu => 3 | .of => 4

end Sys2Proof

namespace Sys2Proof.Machine

/-- The answer of a meaning: the command's effect where it is one that can reach the device (`wellFormed`). A command that names an instance the
device does not have, or a value wider than the place that carries it, reaches nothing, and nothing changes. -/
def answer (s : State) (ok : Bool) (t : State) : Host.Outcome State Fault Refusal := .next (if ok then t else s)

/-- A free value: the model draws the next one and never says what it is. -/
def State.draw (s : State) : State := { s with free := s.free + 1 }

/-! ### The event log and the Lodge's inputs -/

/-- The device writes an entry to the event log, whole, and then moves SEQ past it (R561). -/
def State.log (s : State) (blk inst code arg : Nat) : State :=
  let k := (s.reg Reg.MGT_LOG_SEQ).toNat % 4096
  { s with logRing := s.logRing.set k ⟨s.invar, blk, inst, code % 65536, arg % 2 ^ 32⟩ }.bumpSeq Reg.MGT_LOG_SEQ

/-- A block raises the error signal of a Lodge source; `index` is the unit within the source (R479). -/
def State.raiseError (s : State) (source index : Nat) : State :=
  { s with lodge := { s.lodge with raised := s.lodge.raised ++ [⟨source, index, false⟩] } }

/-- A block raises the corrected signal of a Lodge source (R479). -/
def State.raiseCorr (s : State) (source index : Nat) : State :=
  { s with lodge := { s.lodge with raised := s.lodge.raised ++ [⟨source, index, true⟩] } }

/-- Each of `n` errors raises its signal (R479). -/
def State.raiseErrors (s : State) (source index n : Nat) : State :=
  { s with lodge := { s.lodge with raised := s.lodge.raised ++ List.replicate n ⟨source, index, false⟩ } }
def State.raiseCorrs (s : State) (source index n : Nat) : State :=
  { s with lodge := { s.lodge with raised := s.lodge.raised ++ List.replicate n ⟨source, index, true⟩ } }

/-- An event with a counter, a status bit and a Lodge source that a FAULT_EN bit may let through: the counter counts, the
bit sets. -/
def State.countAndSet (s : State) (cnt status bit : Nat) : State := (s.count cnt).setBit status bit

/-! ### The twin state as other blocks read it -/

/-- The twin state code of TWN_STATUS.STATE (R495). -/
def State.twinState (s : State) : Nat := s.fld Reg.TWN_STATUS Fld.TWN_STATUS_STATE

/-- The device is in boot state (R23, R495). -/
def State.inBoot (s : State) : Bool := s.twinState == 0

/-- The device is in ADMIT, SHADOW or DETACHED (R502, R510). -/
def State.shadowLike (s : State) : Bool := s.twinState == 4 || s.twinState == 5 || s.twinState == 6

/-- The device follows a lead's decisions: it is in ADMIT or SHADOW (R92, R147, R495). -/
def State.follows (s : State) : Bool := s.twinState == 4 || s.twinState == 5

/-- The device is the lead of its pair, or unpaired and running (GLB_ROLE). -/
def State.leads (s : State) : Bool := s.on Reg.GLB_ROLE Fld.GLB_ROLE_LEAD

/-- The device is the lead of a pair with a partner that follows (R91, R500). -/
def State.leadsPair (s : State) : Bool :=
  s.on Reg.GLB_ROLE Fld.GLB_ROLE_PAIRED && (s.twinState == 2 || s.twinState == 3)
    && (s.partnerState == 4 || s.partnerState == 5)

/-- Group T carries a class 7 message to the partner (R499): its type and its words. -/
def State.toPartner (s : State) (typ : Nat) (words : List Nat) : State := s.sendMsg 2 7 typ words

/-- A decision message, one entry of five words (R499). -/
def State.sendDec (s : State) (kind ch unit outcome reason seqNo : Nat) (v : Nat × Nat × Nat) : State :=
  if s.leadsPair then
    s.toPartner 1 [kind + ch * 2 ^ 4 + unit * 2 ^ 10 + outcome * 2 ^ 16 + reason * 2 ^ 17, seqNo, v.1, v.2.1, v.2.2]
  else s

/-! ### The Bandstand -/

/-- The status registers of a source with the enable register of each (R462). -/
def statusPairs (src : Nat) : List (Nat × Nat) :=
  if src < 16 then [(Reg.SPn_STATUS src, Reg.SPn_INT_EN src)]
  else if src < 80 then [(Reg.STn_STATUS (src - 16), Reg.STn_INT_EN (src - 16))]
  else if src < 96 then let i := src - 80; [(Reg.PVp_LUu_STATUS (i / 4) (i % 4), Reg.PVp_LUu_INT_EN (i / 4) (i % 4))]
  else if src < 104 then let i := src - 96; [(Reg.PVp_MUu_STATUS (i / 2) (i % 2), Reg.PVp_MUu_INT_EN (i / 2) (i % 2))]
  else if src < 108 then [(Reg.PVp_GU_STATUS (src - 104), Reg.PVp_GU_INT_EN (src - 104))]
  else if src < 112 then []
  else if src < 120 then let i := src - 112; [(Reg.PVp_BUu_STATUS (i / 2) (i % 2), Reg.PVp_BUu_INT_EN (i / 2) (i % 2))]
  else if src < 128 then let i := src - 120; [(Reg.PVp_OFu_STATUS (i / 2) (i % 2), Reg.PVp_OFu_INT_EN (i / 2) (i % 2))]
  else if src < 160 then [(Reg.OSn_STATUS (src - 128), Reg.OSn_INT_EN (src - 128))]
  else if src < 192 then [(Reg.DMA_CHn_STATUS (src - 160), Reg.DMA_CHn_INT_EN (src - 160))]
  else match src with
    | 192 => [(Reg.DMA_STATUS, Reg.DMA_STATUS)]  -- no enable register exists: the bits raise it by themselves (DEDUCED, notes/assumptions/17.md)
    | 193 => [(Reg.PGL_STATUS, Reg.PGL_INT_EN), (Reg.PGL_DROP_LAST, Reg.PGL_INT_EN), (Reg.PGL_GH_ERR, Reg.PGL_INT_EN)]
    | 194 => [(Reg.TB_STATUS, Reg.TB_INT_EN)]
    | 195 => [(Reg.FM_STATUS, Reg.FM_INT_EN)]
    | 196 => [(Reg.GLB_PCIE_STATUS, Reg.GLB_PCIE_INT_EN)]
    | 197 => [(Reg.LNK_Gg_STATUS 0, Reg.LNK_Gg_INT_EN 0), (Reg.LNK_Gg_STATUS 1, Reg.LNK_Gg_INT_EN 1),
        (Reg.LNK_Gg_STATUS 2, Reg.LNK_Gg_INT_EN 2), (Reg.LNK_REF_STATUS, Reg.LNK_REF_INT_EN)]
    | 198 => [(Reg.BRG_STATUS, Reg.BRG_INT_EN)]
    | 199 => (List.range 8).map (fun k => (Reg.TWk_STATUS k, Reg.TWk_INT_EN k)) ++ [(Reg.TW8_STATUS, Reg.TW8_INT_EN)]
    | 200 => [(Reg.FC_EVENT, Reg.FC_INT_EN)]
    | 201 => [(Reg.TWN_EVENT, Reg.TWN_INT_EN)]
    | 202 => [(Reg.MGT_STATUS, Reg.MGT_INT_EN)]
    | 203 => [(Reg.PCR_STATUS, Reg.PCR_INT_EN)]
    | 204 => [(Reg.IC_STATUS, Reg.IC_INT_EN)]
    | _ => []

/-- Whether a source is reserved (R462): it never becomes pending. -/
def srcReserved (src : Nat) : Bool :=
  (108 ≤ src && src < 112) || (205 ≤ src && src < 208) || (232 ≤ src && src < 240) || 320 ≤ src

/-- The sources whose status registers hold an offset (R462). -/
def statusSource (off : Nat) : Option Nat :=
  (List.range 205).find? (fun src => (statusPairs src).any (fun p => p.1 == off))

/-- Whether source `src` is a pin source (R462). -/
def isPin (src : Nat) : Bool := (208 ≤ src && src < 232) || (240 ≤ src && src < 256)

/-- Whether a source is an edge source (R461, R467): software sources, and pin sources with MODE 1. -/
def State.isEdge (s : State) (src : Nat) : Bool :=
  if isPin src then s.on (Reg.IC_PINi_CFG (src - 208)) Fld.IC_PINi_CFG_MODE else 288 ≤ src && src < 320

/-- The line of a level source (R461, R462, R467). -/
def State.icLine (s : State) (src : Nat) : Bool :=
  if src = 193 then
    let en := (s.reg Reg.PGL_INT_EN).toNat
    (s.bit Reg.PGL_STATUS 0 && bitB en 0) || (s.bit Reg.PGL_STATUS 1 && bitB en 1)
      || (s.bit Reg.PGL_DROP_LAST 31 && bitB en 2) || (s.bit Reg.PGL_GH_ERR 31 && bitB en 3)
  else if isPin src then
    (s.ic.src.get src).pinLevel != s.on (Reg.IC_PINi_CFG (src - 208)) Fld.IC_PINi_CFG_POL
  else if 256 ≤ src ∧ src < 288 then bitB s.wires (src - 256)
  else (statusPairs src).any (fun p => (s.reg p.1 &&& s.reg p.2) != 0)

/-- Whether a group is held (R476). -/
def State.icHeld (s : State) (g : Nat) : Bool := s.bit Reg.IC_HOLD g

/-- Hardware makes a source pending; in a held group the set goes to the hold latch (R463, R476). -/
def State.icPend (s : State) (src : Nat) : State :=
  if srcReserved src then s
  else if s.icHeld (src / 16) then
    let l := s.ic.latchPend.modify (src / 32) (fun w => w ||| BitVec.ofNat 32 (2 ^ (src % 32)))
    { s with ic := { s.ic with latchPend := l } }
  else s.setBit (Reg.IC_PENDk (src / 32)) (src % 32)

/-- Hardware masks a source; in a held group the set goes to the hold latch (R464, R476). -/
def State.icMask (s : State) (src : Nat) : State :=
  if s.icHeld (src / 16) then
    let l := s.ic.latchMask.modify (src / 32) (fun w => w ||| BitVec.ofNat 32 (2 ^ (src % 32)))
    { s with ic := { s.ic with latchMask := l } }
  else s.setBit (Reg.IC_MASKk (src / 32)) (src % 32)

/-- Whether a source is pending, masked, in service (R463, R464). -/
def State.pended (s : State) (src : Nat) : Bool := s.bit (Reg.IC_PENDk (src / 32)) (src % 32)
def State.masked (s : State) (src : Nat) : Bool := s.bit (Reg.IC_MASKk (src / 32)) (src % 32)
def State.inService (s : State) (src : Nat) : Bool := s.bit (Reg.IC_INSVk (src / 32)) (src % 32)

/-- Completion of a source (R465, R466): the spurious claim is counted, the in-service bit clears, and a level source's
line is sampled once. A claim whose status registers were not read is tested at completion. -/
def State.icComplete (s : State) (src : Nat) : State :=
  let st := s.ic.src.get src
  let level := !s.isEdge src
  let line := s.icLine src
  let spur := level && decide (st.target < 3) && (if st.claimRead then st.spurious else !line)
  let s := if spur then s.count Reg.IC_SPUR_CNT else s
  let s := s.putBit (Reg.IC_INSVk (src / 32)) (src % 32) false
  let s := { s with ic := { s.ic with src := s.ic.src.set src { st with claimRead := false, spurious := false } } }
  if level && line then s.icPend src else s

/-- A host write to a status register completes the source it belongs to, where that source was delivered to the host
through this function (R465). -/
def State.icHostStatus (s : State) (i : Nat) (off : Nat) : State :=
  match statusSource off with
  | none => s
  | some src =>
    if s.inService src ∧ (s.ic.src.get src).target = 2 ∧ s.fld (Reg.IC_SRCs_VEC src) Fld.IC_SRCs_VEC_FUNC = i
    then s.icComplete src else s

/-- A DMA channel's state changed by `f`. -/
def State.modDma (s : State) (c : Nat) (f : DmaSt → DmaSt) : State := { s with dma := s.dma.modify c f }

/-! ### Register access -/

/-- The valid region of the access-control table that decides for a unit of a space: the lowest-numbered one (R556). -/
def State.accRegion (s : State) (space unit : Nat) : Option Nat :=
  (List.range 64).find? (fun r =>
    let st := (s.regs.find (Reg.MGT_ACCr_START r)).getD 0
    Fld.MGT_ACCr_START_VALID.get st == 1 && Fld.MGT_ACCr_START_SPACE.get st == space
      && decide (Fld.MGT_ACCr_START_START.get st ≤ unit)
      && decide (unit ≤ Fld.MGT_ACCr_END_END.get ((s.regs.find (Reg.MGT_ACCr_END r)).getD 0)))

/-- Whether a BAR0 offset is one of MGT_ACC_DEFAULT and MGT_ACCr_*. -/
def isAcc (off : Nat) : Bool :=
  off == Reg.MGT_ACC_DEFAULT || (decide (Reg.MGT_ACCr_START 0 ≤ off) && decide (off < Reg.MGT_ACCr_START 64))

/-- Whether writes to a BAR0 offset are protected (R556). -/
def isProtected (off : Nat) : Bool :=
  isAcc off || off == Reg.FM_INJECT || off == Reg.FC_INJECT || off == Reg.PCR_RESET

/-- The core whose own register an offset is: its watchdog, its remote window, its frame-memory window (R546). -/
def ownCore (off : Nat) : Option Nat :=
  if off = Reg.MGT_WDTt_CFG 0 ∨ off = Reg.MGT_REMOTEt_CFG 0 ∨ off = Reg.MGT_FMWINt_BASE 0 then some 0
  else if off = Reg.MGT_WDTt_CFG 1 ∨ off = Reg.MGT_REMOTEt_CFG 1 ∨ off = Reg.MGT_FMWINt_BASE 1 then some 1
  else none

/-- Whether the access-control table grants an access (R556): `space` 0 with a BAR0 offset, 1 with a data address. -/
def State.granted (s : State) (i : Initiator) (space addr : Nat) (write : Bool) : Bool :=
  let b := 2 * i.cls + b2n write
  if space = 0 ∧ write ∧ (ownCore addr).isSome then ownCore addr == some (i.code - 4) && (i == .mc0 || i == .mc1)
  else if i = .mc0 then true
  else match s.accRegion space (if space = 0 then addr / 0x1000 else addr / 0x10000) with
    | some r => bitB ((s.regs.find (Reg.MGT_ACCr_PERM r)).getD 0).toNat b
    | none => if space = 0 ∧ write ∧ isProtected addr then false else s.bit Reg.MGT_ACC_DEFAULT b

/-- The double word of configuration space at an offset, before its reset value is known: see `cfgReset`. -/
def cfgKey (f off : Nat) : Nat := 4096 * f + off

/-- The reset value of a configuration double word (R358, R359, R366, R369), capability headers and the values this
model takes from PCI Express Base 5.0 included (notes/assumptions/14.md). -/
def cfgReset (f off : Nat) : Word :=
  match off with
  | 0x00 => 0x09601F3B
  | 0x08 => 0x048000B1
  | 0x0C => 0x00800000
  | 0x10 => if f = 0 ∨ f = 3 then 0x4 else 0x4
  | 0x18 => if f = 0 then 0xC else 0
  | 0x2C => 0x09601F3B
  | 0x34 => 0x40
  | 0x40 => 0x00035001
  | 0x44 => 0x8
  | 0x50 => 0x00029010
  | 0x54 => 0x10008022
  | 0x58 => 0x00002810
  | 0x5C => 0x00400905
  | 0x74 => 0x0003001F
  | 0x7C => 0x0000003E
  | 0x80 => 0x00000005
  | 0x90 => 0x00FF0011
  | 0x94 => if f = 0 ∨ f = 3 then 0x02000000 else 0
  | 0x98 => if f = 0 ∨ f = 3 then 0x02001000 else 0x1000
  | 0x100 => 0x14820001
  | 0x108 => 0x00400000
  | 0x10C => 0x00462030
  | 0x114 => 0x0000E000
  | 0x118 => 0x000000A0
  | 0x148 => if f = 0 then 0x15810003 else 0x00010003
  | 0x158 => if f = 0 then 0x16810015 else 0
  | 0x15C => if f = 0 then 0x0007F000 else 0
  | 0x160 => if f = 0 then 0x00000822 else 0
  | 0x168 => if f = 0 then 0x19810019 else 0
  | 0x198 => if f = 0 then 0x1A810025 else 0
  | 0x19C => if f = 0 then 0x00000001 else 0
  | 0x1A8 => if f = 0 then 0x1D810026 else 0
  | 0x1D8 => if f = 0 then 0x22010027 else 0
  | 0x220 => if f = 0 then 0x0001002A else 0
  | _ => 0

/-- A configuration double word of a function. -/
def State.cfgReg (s : State) (f off : Nat) : Word := (s.cfg.find (cfgKey f off)).getD (cfgReset f off)

/-- A configuration double word takes a value. -/
def State.setCfg (s : State) (f off : Nat) (w : Word) : State :=
  { s with cfg := s.cfg.setD (cfgReset f off) (cfgKey f off) w }

/-- Memory Space Enable, Bus Master Enable, D0 (R358, R376). -/
def State.memEnable (s : State) (f : Nat) : Bool := bitB (s.cfgReg f 0x04).toNat 1
def State.busMaster (s : State) (f : Nat) : Bool := bitB (s.cfgReg f 0x04).toNat 2
def State.inD0 (s : State) (f : Nat) : Bool := (s.cfgReg f 0x44).toNat % 4 == 0

/-- The device is held in reset: RST_N is low, or the always-on supply is down (R534, R569). -/
def State.inReset (s : State) : Bool := s.boot.rstLow || s.boot.off

/-- Whether a function answers memory requests: it is ready, decodes memory, is in D0 and has no reset running; a HEAD device's endpoint
serves management only, through PF2 (R26). -/
def State.fnServes (s : State) (f : Nat) : Bool :=
  s.ready && (s.fld Reg.GLB_ROLE Fld.GLB_ROLE_ROLE != 1 || f == 2) && s.memEnable f && s.inD0 f && ((s.flrUntil.get f) == none)

/-- The header log takes the header of the request or completion that erred (R370): its four words are free, since commands carry no
header (notes/assumptions/144.md). -/
def State.logHeader (s : State) (f : Nat) : State :=
  [0, 1, 2, 3].foldl (fun s k => s.setCfg f (0x11C + 4 * k) (BitVec.ofNat 32 (Config.tlpHeader f s.now k))) s

/-- AER logs an uncorrectable error of a function: the first one with its header, where it has one; a second error while the header log holds
the first sets Header Log Overflow (R370). The bit numbers are those of PCI Express Base 5.0. -/
def State.aerUncorr (s : State) (f b : Nat) : State :=
  let old := s.cfgReg f 0x104
  let s := s.setCfg f 0x104 (old ||| BitVec.ofNat 32 (2 ^ b))
  if old = 0 then
    let s := s.setCfg f 0x118 (BitVec.ofNat 32 ((s.cfgReg f 0x118).toNat / 32 * 32 + b))
    if [12, 15, 16, 18, 19, 20].contains b then s.logHeader f else s
  else s.setCfg f 0x110 (s.cfgReg f 0x110 ||| 0x8000)

/-- AER logs a correctable error of a function (R370). -/
def State.aerCorr (s : State) (f b : Nat) : State := s.setCfg f 0x110 (s.cfgReg f 0x110 ||| BitVec.ofNat 32 (2 ^ b))

/-- A request that the endpoint completes as Unsupported Request (R370, R371). -/
def State.unsupported (s : State) (f : Nat) : State := (s.aerUncorr f 20).count Reg.GLB_PCIE_UR_CNT

/-- A refused access (R557): it is counted and captured; the class decides how the access ends. -/
def State.refuse (s : State) (i : Initiator) (space addr : Nat) (write : Bool) : State :=
  let s := (s.count Reg.MGT_ACC_DENY_CNT).setBit Reg.MGT_STATUS 1
  let s := if s.bit Reg.MGT_ACC_LAST 31 then s else
    s.setReg Reg.MGT_ACC_LAST (BitVec.ofNat 32 ((if space = 0 then addr else addr / 0x100) % 2 ^ 26 + space * 2 ^ 26
      + b2n write * 2 ^ 27 + i.cls * 2 ^ 28 + 2 ^ 31))
  match i with
  | .pf0 => (s.aerUncorr 0 15).emit (.completion 0 (if write then 0 else 4) false [])
  | .pf1 => (s.aerUncorr 1 15).emit (.completion 1 (if write then 0 else 4) false [])
  | .pf2 => (s.aerUncorr 2 15).emit (.completion 2 (if write then 0 else 4) false [])
  | .pf3 => (s.aerUncorr 3 15).emit (.completion 3 (if write then 0 else 4) false [])
  | .mc1 => s.emit (.coreFault 1 (if write then 7 else 5))
  | .mc0 => s.emit (.coreFault 0 (if write then 7 else 5))
  | _ => s

/-- Whether writes to a BAR0 offset are local under R501; every other register is mirrored. -/
def isLocal (off : Nat) : Bool :=
  let b := blockCode off
  (b == 0x01 && off != Reg.GLB_RECIPE_CTRL && off != Reg.GLB_EXPERT_EN)
    || b == 0x0A || b == 0x0B || b == 0x08 || b == 0x0D || b == 0x0E || b == 0x0F || b == 0x10 || b == 0x11
    || (b == 0x07 && ((List.range 3).any (fun g => off == Reg.TB_HOPg_CFG g)
        || (List.range 8).any (fun j => off == Reg.TB_SNAP_LISTj j)))
    || (b == 0x0C && (List.range 8).any (fun k => off == Reg.TWk_QCMD k || off == Reg.TWk_WDATA k))

/-- Whether a BAR0 offset is reachable for an initiator through its BARs or aliases (R360 to R362, R544). -/
def State.reaches (s : State) (i : Initiator) (off : Nat) : Bool :=
  let chOf := (off - Reg.DMA_CHn_CTRL 0) / 0x80
  let inCh := decide (Reg.DMA_CHn_CTRL 0 ≤ off) && decide (off < Reg.DMA_CHn_CTRL 32)
  match i with
  | .pf3 => false
  | .pf1 => (inCh && s.fld (Reg.DMA_CHn_BIND chOf) Fld.DMA_CHn_BIND_OWNER == 1)
      || (blockCode off == 0x06 && decide (off % 0x800 < 0x100)
        && (List.range 32).any (fun n => s.fld (Reg.DMA_CHn_BIND n) Fld.DMA_CHn_BIND_OWNER == 1
          && s.on (Reg.DMA_CHn_BIND n) Fld.DMA_CHn_BIND_OS_EN
          && s.fld (Reg.DMA_CHn_BIND n) Fld.DMA_CHn_BIND_OS == (off - 0x500000) / 0x800))
  | .pf2 => (inCh && s.fld (Reg.DMA_CHn_BIND chOf) Fld.DMA_CHn_BIND_OWNER == 2)
      || blockCode off == 0x10 || blockCode off == 0x0E
  | _ => decide (off < 0x2000000)

/-- Whether the block of an offset is served in boot state to an initiator (R364, R455). -/
def bootServes (i : Initiator) (off : Nat) : Bool :=
  let b := blockCode off
  match i with
  | .mc0 => true
  | .pf2 => b == 0x10 || b == 0x01
  | _ => b == 0x01 || b == 0x10 || b == 0x0F

/-- How a register write passes the device's checks. -/
inductive Gate where
  | ok | unreach | access | boot | shadow | expert
  deriving DecidableEq, Repr

/-- The checks on a register write, in order: a path to the register (R362), the access-control table (R556), boot state
(R364), a mirrored register on a following device (R502), the expert page (R16). -/
def State.gate (s : State) (i : Initiator) (off : Nat) : Gate :=
  if s.inReset || !s.reaches i off || (i == .mc1 && !s.bit Reg.MGT_STATUS 10)
      || (i.isHost && !s.fnServes i.code) then .unreach
  else if !s.granted i 0 off true then .access
  else if s.inBoot && !bootServes i off then .boot
  else if s.shadowLike && !isLocal off then .shadow
  else if isExpert off && !s.expertOpen off then .expert
  else .ok

/-- The space of the mirror queue in pairs of words: 1 MiB (R503). -/
def mirrorRoom : Nat := 131072

/-- A register write that has passed the checks takes effect: `eff` is what it does. A host write completes the source
whose status register it names (R465); a write of block content that an expert return still awaits is kept (R18); on a
lead with a following partner the write joins the mirror queue (R500). -/
def State.effect (s : State) (i : Nat) (off : Nat) (data : Word) (eff : State → State) : State :=
  let s := eff s
  let s := { s with expertPend := s.expertPend.filter (· != off) }
  let s := if i < 4 then s.icHostStatus i off else s
  if s.leadsPair && !isLocal off then { s with mirrorQ := s.mirrorQ ++ [⟨i, off, data.toNat⟩] } else s

/-- A register write from an initiator with effect `eff` (R4, R16, R502, R503, R557). -/
def State.swWrite (s : State) (i : Initiator) (off : Nat) (data : Word) (eff : State → State) : State :=
  match s.gate i off with
  | .unreach => if i.isHost && !s.fnServes i.code then s.aerUncorr i.code 20 else s
  | .access => s.refuse i 0 off true
  | .boot => s
  | .shadow => if i.isHost then s.count Reg.GLB_PCIE_SHADOW_WR_IGN_CNT else s.count (Reg.TWN_CNTk 6)
  | .expert => s.count Reg.GLB_EXPERT_DENY_CNT
  | .ok =>
    if isAcc off && i != .mc0 then s
    else if s.leadsPair && !isLocal off && decide (mirrorRoom ≤ s.mirrorQ.length) then
      { s with mirrorWait := s.mirrorWait ++ [⟨i.code, off, data.toNat⟩] }
    else s.effect i.code off data eff

/-- A register read from an initiator: `eff` says what it returns and does (R4, R364, R556). -/
def State.swRead (s : State) (i : Initiator) (off : Nat) (eff : State → State × Word) : State :=
  if s.inReset then s
  else if !s.reaches i off || (i == .mc1 && !s.bit Reg.MGT_STATUS 10) then s.emit (.readData i 0)
  else if i.isHost && !s.fnServes i.code then (s.unsupported i.code).emit (.completion i.code 1 false [])
  else if !s.granted i 0 off false then s.refuse i 0 off false
  else if s.inBoot && !bootServes i off then s.emit (.readData i 0)
  else let r := eff s; r.1.emit (.readData i r.2.toNat)

/-- Every ball that the device drives is released (R123, R299, R435): it is in the Lodge fault state or in HELD. A lead with a takeover fixed
releases them 100 ns before T0 instead (R508). -/
def State.dark (s : State) : Bool :=
  decide (2 ≤ s.fld Reg.FC_ESC_STATUS Fld.FC_ESC_STATUS_STATE) && !(s.leads && s.twin.take.isSome && !s.twin.released)

/-- The old lead of a takeover has released the balls that only a lead drives (R124, R508). -/
def State.sharedOff (s : State) : Bool := s.leads && s.twin.take.isSome && s.twin.released

/-- The TWIN_ID under which a device works: the strap of an unpaired device has no effect (R29). -/
def State.twinId (s : State) : Nat :=
  if s.on Reg.GLB_ROLE Fld.GLB_ROLE_PAIRED then s.fld Reg.GLB_ROLE Fld.GLB_ROLE_TWIN_ID else 0

/-! ### Levels on the link and at the balls -/

/-- FAULT_N is low while any bit of FC_STATUS is 1 (R484). -/
def State.faultN (s : State) : Bool := (s.reg Reg.FC_STATUS_LO ||| s.reg Reg.FC_STATUS_HI) != 0

/-- The filtered level of TRIG_IN[i] after POL (R292); no input beyond 15. -/
def State.trig (s : State) (i : Nat) : Bool :=
  decide (i < 16) && (bitB s.trigLevel i != s.on (Reg.TB_TRIGi_CFG i) Fld.TB_TRIGi_CFG_POL)

/-- The level of outgoing virtual wire `w` (R432); a remote bit of the Bandstand rests low between pulses. -/
def State.wireOut (s : State) (w : Nat) : Bool :=
  let sel := Reg.BRG_VW_SELw w
  let idx := s.fld sel Fld.BRG_VW_SELw_IDX
  match s.fld sel Fld.BRG_VW_SELw_SRC with
  | 2 => s.trig idx
  | 3 => s.faultN
  | 4 => decide (idx < 16) && bitB s.pins (8 + idx)
  | 5 => s.bit Reg.BRG_VW_SW w
  | _ => false

/-- The levels of all outgoing virtual wires. -/
def State.wiresOut (s : State) : Nat :=
  (List.range 32).foldl (fun a w => a + b2n (s.wireOut w) * 2 ^ w) 0

/-- Group `g`, when in service, sends a WIRES packet with the levels and the changed wires (R431). -/
def State.sendWires (s : State) (g toggled : Nat) : State :=
  if s.inServiceGroup g then
    { s with brg := { s.brg with wiresAt := s.brg.wiresAt.set g s.now } }.sendMsg g 6 0 [s.wiresOut, toggled]
  else s

/-- Every group in service sends the changed wires, if any (R431). -/
def State.wiresChanged (s : State) (toggled : Nat) : State :=
  if toggled = 0 then s else ((s.sendWires 0 toggled).sendWires 1 toggled).sendWires 2 toggled

/-- What changed between two states' outgoing wires is sent (R431). -/
def State.wiresFrom (s : State) (old : Nat) : State := s.wiresChanged (Nat.xor old s.wiresOut)

/-- A refusal under R19: counted, and captured while GLB_CONFLICT.VALID is 0. `blk` and `inst` name the block that issued
the write, `kind` the resource. -/
def State.conflict (s : State) (blk inst kind : Nat) : State :=
  let s := s.count Reg.GLB_CONFLICT_CNT
  if s.bit Reg.GLB_CONFLICT 31 then s
  else s.setReg Reg.GLB_CONFLICT (BitVec.ofNat 32 (blk % 256 + inst % 256 * 256 + kind % 4 * 2 ^ 16 + 2 ^ 31))

end Sys2Proof.Machine
end

