-- ==== Sys2Proof/Machine/Bandstand.lean ====
section
/-! DEFINITION. The Bandstand interrupt controller (spec/18): sampling, pending and mask bits, the choice of a target, delivery,
completion, hold-off and hold. -/

namespace Sys2Proof.Machine

/-- A level source that is neither pending nor in service and whose line is high becomes pending (R461, R463). -/
def doLevelSample (src : Nat) (s : State) : State :=
  if !s.isEdge src && !s.pended src && !s.inService src && s.icLine src then s.icPend src else s

def execIcLevelSample (src : Nat) (s : State) : Host.Outcome State Fault Refusal :=
  answer s (src < 512) (doLevelSample src s)

/-- An edge source becomes pending at each active edge (R463). -/
def execIcEdgeEvent (src : Nat) (s : State) : Host.Outcome State Fault Refusal :=
  answer s (src < 512) (if s.isEdge src then s.icPend src else s)

/-- The device is in power state P3 (R523). -/
def State.inP3 (s : State) : Bool := s.fld Reg.PCR_STATUS Fld.PCR_STATUS_STATE == 3

/-- The glitch filter accepts a level that has been stable for FILT cycles; an edge-mode source sees an active edge when
the result, inverted by POL, rises (R467). For TRIG_IN the level is the filtered one of R292. In P3 a latch takes the edge at the pin instead
(R468). -/
def doPinFilter (pin : Nat) (level : Bool) (cycles : Nat) (s : State) : State :=
  let src := 208 + pin
  let cfg := Reg.IC_PINi_CFG pin
  if !isPin src then s
  else if s.inP3 then
    let st := s.ic.src.get src
    let pol := s.on cfg Fld.IC_PINi_CFG_POL
    let hit := !(st.pinLevel != pol) && (level != pol)
    { s with ic := { s.ic with src := s.ic.src.set src { st with pinLevel := level, edgeLatch := st.edgeLatch || hit } } }
  else if cycles < s.fld cfg Fld.IC_PINi_CFG_FILT || (decide (pin < 16) && level != bitB s.trigLevel pin) then s
  else
    let st := s.ic.src.get src
    let pol := s.on cfg Fld.IC_PINi_CFG_POL
    let s := { s with ic := { s.ic with src := s.ic.src.set src { st with pinLevel := level } } }
    if s.on cfg Fld.IC_PINi_CFG_MODE && !(st.pinLevel != pol) && (level != pol) then s.icPend src else s

def execIcPinFilter (pin : Nat) (level : Bool) (cycles : Nat) (s : State) : Host.Outcome State Fault Refusal :=
  answer s (pin < 48) (doPinFilter pin level cycles s)

/-- The bits of a 32-source register that belong to sources that are not reserved (R462). -/
def icWritable (k : Nat) : Nat :=
  (List.range 32).foldl (fun a j => a + b2n (!srcReserved (32 * k + j)) * 2 ^ j) 0

/-- A software write of pending bits stands as written (R475). -/
def execIcPendWrite (i : Initiator) (k : Nat) (data : Word) (s : State) : Host.Outcome State Fault Refusal :=
  answer s (k < 16) (s.swWrite i (Reg.IC_PENDk k) data
    (fun s => s.setReg (Reg.IC_PENDk k) (data &&& BitVec.ofNat 32 (icWritable k))))

/-- A software write of mask bits stands as written (R475). -/
def execIcMaskWrite (i : Initiator) (k : Nat) (data : Word) (s : State) : Host.Outcome State Fault Refusal :=
  answer s (k < 16) (s.swWrite i (Reg.IC_MASKk k) data
    (fun s => s.setReg (Reg.IC_MASKk k) (data &&& BitVec.ofNat 32 (icWritable k))))

/-- A core's active stack, top first (R472). -/
def State.coreStack (s : State) (t : Nat) : List Nat := if t = 0 then s.ic.stack0 else s.ic.stack1

/-- IC_Tt_ACTIVE shows the top of a core's stack. -/
def State.showStack (s : State) (t : Nat) : State :=
  let r := Reg.IC_Tt_ACTIVE t
  match s.coreStack t with
  | [] => s.setReg r 0
  | top :: rest => s.setReg r (BitVec.ofNat 32 (top + (rest.length + 1) * 2 ^ 12
      + s.fld (Reg.IC_SRCs_CFG top) Fld.IC_SRCs_CFG_PRIO * 2 ^ 16 + 2 ^ 31))

/-- A core's active stack becomes `l`. -/
def State.setStack (s : State) (t : Nat) (l : List Nat) : State :=
  (if t = 0 then { s with ic := { s.ic with stack0 := l } } else { s with ic := { s.ic with stack1 := l } }).showStack t

/-- The group priority of a source: the top K bits of PRIO, K from 1 to 7 (R471). -/
def State.groupPrio (s : State) (src : Nat) : Nat :=
  let k := s.fld Reg.IC_SPLIT Fld.IC_SPLIT_K
  s.fld (Reg.IC_SRCs_CFG src) Fld.IC_SRCs_CFG_PRIO / 2 ^ (8 - (if k = 0 then 1 else k))

/-- Whether a target can accept a source (R469, R472, R474); `gie0` and `gie1` are the cores' global interrupt enables. -/
def State.canAccept (s : State) (gie0 gie1 : Bool) (src t : Nat) : Bool :=
  (s.ic.holdoff.get (4 * (src / 16) + t) == 0) &&
  (if t < 2 then
    (if t = 0 then gie0 else gie1) && decide ((s.coreStack t).length < 8) &&
      (match s.coreStack t with
        | [] => true
        | top :: _ => decide (s.groupPrio src < s.groupPrio top))
  else !s.follows)

/-- The target that rotation after LAST gives an offered source: the first enabled one that can accept (R469). -/
def State.chooseTarget (s : State) (gie0 gie1 : Bool) (src : Nat) : Option Nat :=
  let cfg := Reg.IC_SRCs_CFG src
  let last := s.fld cfg Fld.IC_SRCs_CFG_LAST
  ([1, 2, 3, 4].map (fun d => (last + d) % 4)).find? (fun t =>
    bitB (s.fld cfg Fld.IC_SRCs_CFG_TMASK) t && s.canAccept gie0 gie1 src t)

/-- Whether a source is offered: pending, not masked, not in service, and its group not held (R464, R476). -/
def State.offered (s : State) (src : Nat) : Bool :=
  s.pended src && !s.masked src && !s.inService src && !s.icHeld (src / 16)

/-- Whether no other source offered to target `t` comes before `src` in PRIO and then in number (R471). -/
def State.bestFor (s : State) (gie0 gie1 : Bool) (src t : Nat) : Bool :=
  let key (x : Nat) : Nat := s.fld (Reg.IC_SRCs_CFG x) Fld.IC_SRCs_CFG_PRIO * 512 + x
  (List.range 512).all (fun x => x == src || !s.offered x || decide (key src < key x) || s.chooseTarget gie0 gie1 x != some t)

/-- What a delivery to a target does there (R472, R474, R465). -/
def State.deliverTo (s : State) (src t : Nat) : State :=
  match t with
  | 0 => (s.setStack 0 (src :: s.ic.stack0)).emit (.vector 0 ((s.reg (Reg.IC_Tt_VBASE 0)).toNat + 4 * src))
  | 1 => (s.setStack 1 (src :: s.ic.stack1)).emit (.vector 1 ((s.reg (Reg.IC_Tt_VBASE 1)).toNat + 4 * src))
  | 2 => { s with msixReq := s.msixReq ++
      [(s.fld (Reg.IC_SRCs_VEC src) Fld.IC_SRCs_VEC_FUNC, s.fld (Reg.IC_SRCs_VEC src) Fld.IC_SRCs_VEC_VEC)] }
  | _ =>
    let w := s.fld (Reg.IC_SRCs_VEC src) Fld.IC_SRCs_VEC_WIRE
    let s := if s.fld (Reg.BRG_VW_SELw w) Fld.BRG_VW_SELw_SRC = 1 then s.wiresChanged (2 ^ w) else s
    let st := s.ic.src.get src
    let hold := s.ic.holdoff.get (4 * (src / 16) + 3)
    { s with ic := { s.ic with src := s.ic.src.set src { st with doneAt := max (s.now + 1000) hold } } }

/-- The delivery of a source to a target (R464, R469, R470). -/
def State.deliver (s : State) (src t : Nat) : State :=
  let cfg := Reg.IC_SRCs_CFG src
  let s := s.putBit (Reg.IC_PENDk (src / 32)) (src % 32) false
  let s := s.setBit (Reg.IC_INSVk (src / 32)) (src % 32)
  let s := if s.on cfg Fld.IC_SRCs_CFG_AUTOMASK then s.icMask src else s
  let s := s.setFld cfg Fld.IC_SRCs_CFG_LAST t
  let time := s.fld (Reg.IC_GRPg_HOLDOFF (src / 16)) Fld.IC_GRPg_HOLDOFF_TIME
  let until_ := if time = 0 then 0 else s.now + time * 256
  let st := s.ic.src.get src
  let s := { s with ic := { s.ic with
    holdoff := s.ic.holdoff.set (4 * (src / 16) + t) until_
    src := s.ic.src.set src { st with target := t, claimRead := false, spurious := false } } }
  s.deliverTo src t

/-- The sources that a Bandstand memory word describes are marked masked and not pending (R477). -/
def State.icDisable (s : State) (l : List Nat) : State :=
  l.foldl (fun s x => (s.setBit (Reg.IC_MASKk (x / 32)) (x % 32)).putBit (Reg.IC_PENDk (x / 32)) (x % 32) false) s

/-- The check of the Bandstand memory words that a delivery reads (R477). -/
def State.icEcc (s : State) (src : Nat) : Ecc → State
  | .ok => s
  | .corrected n => (s.setBit Reg.IC_STATUS 2).raiseCorrs 47 0 n
  | .uncorr place =>
    let l := if place = 0 then [src] else (List.range 32).map (fun j => 32 * (src / 32) + j)
    ((s.icDisable l).setBit Reg.IC_STATUS 3).raiseError 47 0

/-- An offered source is delivered to the target that rotation gives it, when it is the first of those offered there
(R464, R469, R471). -/
def doDeliver (src : Nat) (gie0 gie1 : Bool) (ecc : Ecc) (s : State) : State :=
  let s := s.icEcc src ecc
  if s.offered src then
    match s.chooseTarget gie0 gie1 src with
    | none => s
    | some t => if s.bestFor gie0 gie1 src t then s.deliver src t else s
  else s

def execIcDeliver (src : Nat) (gie0 gie1 : Bool) (ecc : Ecc) (s : State) : Host.Outcome State Fault Refusal :=
  answer s (src < 512) (doDeliver src gie0 gie1 ecc s)

/-- An end-of-interrupt write that is ignored (R465, R473). -/
def State.eoiError (s : State) : State := (s.count Reg.IC_EOI_ERR_CNT).setBit Reg.IC_STATUS 0

/-- A core's EOI completes the top of its stack when it names it (R473). -/
def doCoreEoi (t src : Nat) (s : State) : State :=
  match s.coreStack t with
  | [] => s.eoiError
  | top :: rest => if src = top then (s.setStack t rest).icComplete src else s.eoiError

def execIcCoreEoi (i : Initiator) (t : Nat) (data : Word) (s : State) : Host.Outcome State Fault Refusal :=
  answer s (t < 2) (s.swWrite i (Reg.IC_Tt_EOI t) data (doCoreEoi t (Fld.IC_Tt_EOI_SOURCE.get data)))

/-- A write of IC_HOST_EOI completes a source that was delivered to the host and has no status registers (R465). -/
def doHostEoi (src : Nat) (s : State) : State :=
  if s.inService src && (s.ic.src.get src).target == 2 && (statusPairs src).isEmpty then s.icComplete src else s.eoiError

def execIcHostEoi (i : Initiator) (data : Word) (s : State) : Host.Outcome State Fault Refusal :=
  answer s true (s.swWrite i Reg.IC_HOST_EOI data (doHostEoi (Fld.IC_HOST_EOI_SOURCE.get data)))

/-- A delivery to REMOTE completes by itself when its time has come (R465). -/
def execIcRemoteComplete (src : Nat) (s : State) : Host.Outcome State Fault Refusal :=
  answer s (src < 512)
    (if s.inService src && (s.ic.src.get src).target == 3 && decide ((s.ic.src.get src).doneAt ≤ s.now)
      then s.icComplete src else s)

/-- A group's hold-off to a target ends at its time (R470). -/
def execIcHoldoffExpiry (g t : Nat) (s : State) : Host.Outcome State Fault Refusal :=
  answer s (g < 32 && t < 4)
    (if s.ic.holdoff.get (4 * g + t) ≤ s.now
      then { s with ic := { s.ic with holdoff := s.ic.holdoff.set (4 * g + t) 0 } } else s)

/-- When a group's hold ends, the latch is ORed into its pending and mask bits and emptied (R476). -/
def State.releaseHold (s : State) (g : Nat) : State :=
  let k := g / 2
  let part : Word := BitVec.ofNat 32 (0xFFFF * 2 ^ (16 * (g % 2)))
  let p := s.ic.latchPend.get k
  let m := s.ic.latchMask.get k
  let s := s.setReg (Reg.IC_PENDk k) (s.reg (Reg.IC_PENDk k) ||| (p &&& part))
  let s := s.setReg (Reg.IC_MASKk k) (s.reg (Reg.IC_MASKk k) ||| (m &&& part))
  { s with ic := { s.ic with
    latchPend := s.ic.latchPend.set k (p &&& ~~~part)
    latchMask := s.ic.latchMask.set k (m &&& ~~~part)
    heldAt := s.ic.heldAt.set g 0 } }

/-- A write of IC_HOLD holds and releases groups (R476). -/
def doHoldWrite (data : Word) (s : State) : State :=
  let old := s.reg Reg.IC_HOLD
  let s := s.setReg Reg.IC_HOLD data
  (List.range 32).foldl (fun s g =>
    if bitB old.toNat g && !bitB data.toNat g then s.releaseHold g
    else if !bitB old.toNat g && bitB data.toNat g then
      { s with ic := { s.ic with heldAt := s.ic.heldAt.set g (s.now + 4000) } }
    else s) s

def execIcHoldWrite (i : Initiator) (data : Word) (s : State) : Host.Outcome State Fault Refusal :=
  answer s true (s.swWrite i Reg.IC_HOLD data (doHoldWrite data))

/-- A hold that has lasted 4 µs ends by itself and is counted (R476). -/
def doHoldTimeout (g : Nat) (s : State) : State :=
  if s.icHeld g && decide (s.ic.heldAt.get g ≤ s.now) then
    (((s.putBit Reg.IC_HOLD g false).releaseHold g).count Reg.IC_HOLD_TO_CNT).setBit Reg.IC_STATUS 1
  else s

def execIcHoldTimeout (g : Nat) (s : State) : Host.Outcome State Fault Refusal :=
  answer s (g < 32) (doHoldTimeout g s)

/-- The initiator that handles a delivery: a core, or the host function of the source's vector (R466). -/
def State.claimer (s : State) (src : Nat) : Option Nat :=
  match (s.ic.src.get src).target with
  | 0 => some 4
  | 1 => some 5
  | 2 => some (s.fld (Reg.IC_SRCs_VEC src) Fld.IC_SRCs_VEC_FUNC)
  | _ => none

/-- The first read of a status register by the target's initiator samples the line for the spurious-claim test (R466). -/
def doClaim (i : Initiator) (off : Nat) (s : State) : State :=
  match statusSource off with
  | none => s
  | some src =>
    let st := s.ic.src.get src
    if s.inService src && !st.claimRead && s.claimer src == some i.code && !s.isEdge src then
      { s with ic := { s.ic with src := s.ic.src.set src { st with claimRead := true, spurious := !s.icLine src } } }
    else s

end Sys2Proof.Machine
end

