-- ==== Sys2Proof/Machine/Sha3.lean ====
section
/-! DEFINITION. SHAKE256 of FIPS 202, which the image digest, the owner key digests and the signature scheme use (R47 to R49). -/

namespace Sys2Proof.Machine

/-! ### Keccak-f[1600] (FIPS 202, section 3) -/

/-- A 64-bit lane rotated left by `n`. -/
def rotLane (v n : Nat) : Nat := v * 2 ^ n % 2 ^ 64 ||| v / 2 ^ (64 - n)

/-- The rotation offsets of step rho, lane (x, y) at place x + 5 y. -/
def rhoOffsets : List Nat :=
  [0, 1, 62, 28, 27, 36, 44, 6, 55, 20, 3, 10, 43, 25, 39, 41, 45, 15, 21, 8, 18, 2, 61, 56, 14]

/-- The round constants of step iota. -/
def iotaConsts : List Nat :=
  [0x0000000000000001, 0x0000000000008082, 0x800000000000808A, 0x8000000080008000, 0x000000000000808B, 0x0000000080000001,
    0x8000000080008081, 0x8000000000008009, 0x000000000000008A, 0x0000000000000088, 0x0000000080008009, 0x000000008000000A]
  ++ [0x000000008000808B, 0x800000000000008B, 0x8000000000008089, 0x8000000000008003, 0x8000000000008002, 0x8000000000000080,
    0x000000000000800A, 0x800000008000000A, 0x8000000080008081, 0x8000000000008080, 0x0000000080000001, 0x8000000080008008]

/-- Step theta: each lane takes the parity of two columns. -/
def keccakTheta (a : List Nat) : List Nat :=
  let c := (List.range 5).map (fun x => (List.range 5).foldl (fun v y => v ^^^ a.getD (x + 5 * y) 0) 0)
  let d := (List.range 5).map (fun x => c.getD ((x + 4) % 5) 0 ^^^ rotLane (c.getD ((x + 1) % 5) 0) 1)
  (List.range 25).map (fun i => a.getD i 0 ^^^ d.getD (i % 5) 0)

/-- Steps rho and pi: lane (x, y) takes the rotated lane (x + 3 y, x). -/
def keccakRhoPi (a : List Nat) : List Nat :=
  (List.range 25).map (fun i =>
    let from_ := (i % 5 + 3 * (i / 5)) % 5 + 5 * (i % 5)
    rotLane (a.getD from_ 0) (rhoOffsets.getD from_ 0))

/-- Steps chi and iota. -/
def keccakChi (rc : Nat) (b : List Nat) : List Nat :=
  (List.range 25).map (fun i =>
    let at_ (k : Nat) : Nat := b.getD ((i + k) % 5 + 5 * (i / 5)) 0
    let v := at_ 0 ^^^ ((2 ^ 64 - 1 - at_ 1) &&& at_ 2)
    if i = 0 then v ^^^ rc else v)

/-- The 24 rounds. -/
def keccakF (a : List Nat) : List Nat := iotaConsts.foldl (fun a rc => keccakChi rc (keccakRhoPi (keccakTheta a))) a

/-! ### The sponge (FIPS 202, sections 4 and 6.2) -/

/-- The padding of SHAKE256 to whole blocks of 136 bytes. -/
def shakePad (len : Nat) : List Nat :=
  let q := 136 - len % 136
  if q = 1 then [0x9F] else 0x1F :: List.replicate (q - 2) 0 ++ [0x80]

/-- A block enters the sponge. -/
def shakeAbsorb (a block : List Nat) : List Nat :=
  keccakF ((List.range 25).map (fun i => if i < 17 then a.getD i 0 ^^^ leNat ((block.drop (8 * i)).take 8) else a.getD i 0))

/-- What `n` blocks of output show. -/
def shakeSqueeze : Nat → List Nat → List Nat
  | 0, _ => []
  | n + 1, a => (a.take 17).flatMap (leBytes 8) ++ shakeSqueeze n (keccakF a)

/-- SHAKE256 of a byte string, `len` bytes of it. -/
def shake256 (bytes : List Nat) (len : Nat) : List Nat :=
  let m := bytes ++ shakePad bytes.length
  let a := (chunks 136 m.length m).foldl shakeAbsorb (List.replicate 25 0)
  (shakeSqueeze ((len + 135) / 136) a).take len

end Sys2Proof.Machine
end

