-- ==== Sys2Proof/Machine/SlhDsa.lean ====
section
/-! DEFINITION. Verification of an SLH-DSA-SHAKE-256s signature (FIPS 205), which images, firmware and sessions carry (R47, R548, R552):
n = 32, h = 64, d = 8, h' = 8, a = 14, k = 22, lg w = 4, m = 47. -/

namespace Sys2Proof.Machine

/-- An address of FIPS 205: layer, tree, type, and the three words that follow. -/
structure SlhAdrs where
  layer : Nat
  tree : Nat
  typ : Nat
  w0 : Nat
  w1 : Nat
  w2 : Nat

/-- A number in `n` bytes, most significant first. -/
def beBytes (n v : Nat) : List Nat := (leBytes n v).reverse

/-- The number that bytes hold, most significant first. -/
def beNat (b : List Nat) : Nat := b.foldl (fun v x => 256 * v + x) 0

/-- The 32 bytes of an address. -/
def SlhAdrs.bytes (x : SlhAdrs) : List Nat :=
  beBytes 4 x.layer ++ beBytes 12 x.tree ++ beBytes 4 x.typ ++ beBytes 4 x.w0 ++ beBytes 4 x.w1 ++ beBytes 4 x.w2

/-- The tweakable hash functions F, H and T (FIPS 205, section 11.1). -/
def slhHash (seed : List Nat) (x : SlhAdrs) (m : List Nat) : List Nat := shake256 (seed ++ SlhAdrs.bytes x ++ m) 32

/-- `n` digits of `b` bits, most significant first. -/
def digitsBe (b n : Nat) (bytes : List Nat) : List Nat :=
  let v := beNat bytes
  let bits := 8 * bytes.length
  (List.range n).map (fun i => v / 2 ^ (bits - b * (i + 1)) % 2 ^ b)

/-- Element `i` of 32 bytes. -/
def elem32 (sig : List Nat) (i : Nat) : List Nat := (sig.drop (32 * i)).take 32

/-- The steps of a WOTS+ chain from `i` up to its end (algorithm 5). -/
def slhChain (seed : List Nat) (x : SlhAdrs) : Nat → Nat → List Nat → List Nat
  | 0, _, m => m
  | n + 1, i, m => slhChain seed x n (i + 1) (slhHash seed { x with w2 := i } m)

/-- The WOTS+ public key that a signature of `m` gives (algorithm 8). -/
def wotsKey (seed sig m : List Nat) (x : SlhAdrs) : List Nat :=
  let msg := digitsBe 4 64 m
  let csum := (msg.map (fun v => 15 - v)).foldl (· + ·) 0
  let all := msg ++ digitsBe 4 3 (beBytes 2 (csum * 16))
  let ends := (List.range 67).flatMap (fun i => slhChain seed { x with w1 := i } (15 - all.getD i 0) (all.getD i 0) (elem32 sig i))
  slhHash seed { x with typ := 1, w1 := 0, w2 := 0 } ends

/-- The root that a leaf and its authentication path give: `x` addresses the tree, `idx` the leaf (algorithms 11 and 17). -/
def slhClimb (seed : List Nat) (x : SlhAdrs) : Nat → Nat → Nat → List Nat → List Nat → List Nat
  | 0, _, _, _, node => node
  | n + 1, height, idx, path, node =>
    let y := { x with w1 := height + 1, w2 := idx / 2 }
    let sib := path.take 32
    slhClimb seed x n (height + 1) (idx / 2) (path.drop 32) (slhHash seed y (if idx % 2 = 0 then node ++ sib else sib ++ node))

/-- The XMSS public key that a signature of `m` gives (algorithm 11). -/
def xmssKey (seed sig m : List Nat) (layer tree idx : Nat) : List Nat :=
  let node := wotsKey seed sig m ⟨layer, tree, 0, idx, 0, 0⟩
  slhClimb seed ⟨layer, tree, 2, 0, 0, 0⟩ 8 0 idx (sig.drop (32 * 67)) node

/-- The root of the hypertree that the signatures of `n` layers give (algorithm 13). -/
def hyperRoot (seed : List Nat) : Nat → Nat → Nat → Nat → List Nat → List Nat → List Nat
  | 0, _, _, _, _, m => m
  | n + 1, layer, tree, idx, sig, m =>
    hyperRoot seed n (layer + 1) (tree / 256) (tree % 256) (sig.drop (32 * 75)) (xmssKey seed sig m layer tree idx)

/-- The FORS public key that a signature of the digest `md` gives (algorithm 17). -/
def forsKey (seed sig md : List Nat) (tree leaf : Nat) : List Nat :=
  let ix := digitsBe 14 22 md
  let x : SlhAdrs := ⟨0, tree, 3, leaf, 0, 0⟩
  let roots := (List.range 22).flatMap (fun i =>
    let idx := i * 2 ^ 14 + ix.getD i 0
    let part := sig.drop (32 * 15 * i)
    slhClimb seed x 14 0 idx (part.drop 32) (slhHash seed { x with w2 := idx } (part.take 32)))
  slhHash seed { x with typ := 4 } roots

/-- Whether a signature over a message verifies under a public key (algorithm 20). The message comes with its context (algorithm 24). -/
def slhVerify (key msg sig : List Nat) : Bool :=
  let seed := key.take 32
  let root := (key.drop 32).take 32
  let d := shake256 (sig.take 32 ++ seed ++ root ++ msg) 47
  let tree := beNat ((d.drop 39).take 7) % 2 ^ 56
  let leaf := beNat (d.drop 46) % 2 ^ 8
  let pk := forsKey seed ((sig.drop 32).take (32 * 330)) (d.take 39) tree leaf
  key.length == 64 && sig.length == 29792 && hyperRoot seed 8 0 tree leaf (sig.drop (32 * 331)) pk == root

end Sys2Proof.Machine
end

