-- ==== Sys2Proof/Machine/JpegLs.lean ====
section
/-! DEFINITION. The JPEG-LS coding of a segment (R270, R271, R274, R275). The coding procedure is that of ITU-T T.87, which the spec
names and does not repeat (PRESUMED, notes/assumptions/41.md). -/

namespace Sys2Proof.Machine

/-- The parameters of a coded image: sample precision, NEAR, the thresholds, RESET, the components. -/
structure JlsParams where
  bits : Nat
  near : Nat
  t1 : Nat
  t2 : Nat
  t3 : Nat
  rst : Nat
  comps : Nat
  expl : Bool
  deriving DecidableEq, Repr

def JlsParams.maxval (p : JlsParams) : Nat := 2 ^ p.bits - 1
def JlsParams.range (p : JlsParams) : Int := ((p.maxval + 2 * p.near) / (2 * p.near + 1) + 1 : Nat)

/-- The number of bits that hold the numbers below `n`. -/
def bitsFor (n : Nat) : Nat := ((List.range 33).find? (fun k => decide (n ≤ 2 ^ k))).getD 33

def JlsParams.qbpp (p : JlsParams) : Nat := bitsFor p.range.toNat
def JlsParams.bpp (p : JlsParams) : Nat := max 2 p.bits
def JlsParams.limit (p : JlsParams) : Nat := 2 * (p.bpp + max 8 p.bpp)

/-- T.87's default thresholds for a sample precision and NEAR (R274). -/
def jlsDefault (bits near comps : Nat) : JlsParams :=
  let maxval := 2 ^ bits - 1
  let cl (i j : Nat) : Nat := if maxval < i ∨ i < j then j else i
  let f := (min maxval 4095 + 128) / 256
  let t1 := cl (f + 2 + 3 * near) (near + 1)
  let t2 := cl (4 * f + 3 + 5 * near) t1
  let t3 := cl (17 * f + 4 + 7 * near) t2
  ⟨bits, near, t1, t2, t3, 64, comps, false⟩

/-- Explicit thresholds that break R274's conditions give the defaults. -/
def jlsValid (bits near t1 t2 t3 rst : Nat) : Bool :=
  decide (near + 1 ≤ t1) && decide (t1 ≤ t2) && decide (t2 ≤ t3) && decide (t3 ≤ 2 ^ bits - 1)
    && decide (3 ≤ rst) && decide (rst ≤ 255)

/-- The run-length order of each run index. -/
def jlsJ : List Nat :=
  [0, 0, 0, 0, 1, 1, 1, 1, 2, 2, 2, 2, 3, 3, 3, 3, 4, 4, 5, 5, 6, 6, 7, 7, 8, 9, 10, 11, 12, 13, 14, 15]

/-- The encoder's variables: A, B, C, N of the 367 contexts, Nn of the two run-interruption contexts, the bits written, last
first. -/
structure JlsSt where
  a : Array Int
  b : Array Int
  c : Array Int
  n : Array Int
  nn : Array Int
  out : List Bool

/-- The variables at the start of a segment. -/
def jlsInit (p : JlsParams) : JlsSt :=
  let a0 := max 2 ((p.range + 32) / 64)
  ⟨Array.replicate 367 a0, Array.replicate 367 0, Array.replicate 367 0, Array.replicate 367 1, Array.replicate 2 0, []⟩

/-- `n` bits of a number, most significant first. -/
def JlsSt.put (s : JlsSt) (v n : Nat) : JlsSt :=
  { s with out := (List.range n).foldl (fun l i => (v / 2 ^ (n - 1 - i) % 2 == 1) :: l) s.out }

/-- The limited-length Golomb code. -/
def JlsSt.golomb (s : JlsSt) (m k limit qbpp : Nat) : JlsSt :=
  let high := m / 2 ^ k
  if high < limit - qbpp - 1 then ((s.put 0 high).put 1 1).put (m % 2 ^ k) k
  else ((s.put 0 (limit - qbpp - 1)).put 1 1).put (m - 1) qbpp

/-- A local gradient quantised. -/
def JlsParams.quant (p : JlsParams) (d : Int) : Int :=
  if d ≤ -p.t3 then -4 else if d ≤ -p.t2 then -3 else if d ≤ -p.t1 then -2 else if d < -p.near then -1
  else if d ≤ p.near then 0 else if d < p.t1 then 1 else if d < p.t2 then 2 else if d < p.t3 then 3 else 4

/-- A prediction error quantised for near-lossless coding. -/
def JlsParams.qErr (p : JlsParams) (e : Int) : Int :=
  let q : Int := 2 * p.near + 1
  if 0 < e then (e + p.near) / q else -((p.near - e) / q)

/-- An error brought into the range of codes. -/
def JlsParams.modErr (p : JlsParams) (e : Int) : Int :=
  let e := if e < 0 then e + p.range else e
  if (p.range + 1) / 2 ≤ e then e - p.range else e

/-- The Golomb parameter: the least k with n × 2^k at least `t`. -/
def jlsK (n t : Int) : Nat := ((List.range 40).find? (fun k => decide (t ≤ n * 2 ^ k))).getD 40

/-- The median prediction. -/
def jlsMed (a b c : Int) : Int := if max a b ≤ c then min a b else if c ≤ min a b then max a b else a + b - c

/-- A sample in regular mode: the variables after it and the reconstructed value. -/
def JlsSt.regular (s : JlsSt) (p : JlsParams) (ix ra rb rc rd : Int) : JlsSt × Int :=
  let q0 := 81 * p.quant (rd - rb) + 9 * p.quant (rb - rc) + p.quant (rc - ra)
  let sign : Int := if q0 < 0 then -1 else 1
  let q := q0.natAbs
  let px := clampI 0 p.maxval (jlsMed ra rb rc + sign * s.c.getD q 0)
  let e := p.qErr (sign * (ix - px))
  let rx := clampI 0 p.maxval (px + sign * e * (2 * p.near + 1))
  let e := p.modErr e
  let a := s.a.getD q 0
  let b := s.b.getD q 0
  let n := s.n.getD q 1
  let k := jlsK n a
  let special := p.near == 0 && k == 0 && decide (2 * b ≤ -n)
  let m := if special then (if 0 ≤ e then 2 * e + 1 else -2 * (e + 1)) else (if 0 ≤ e then 2 * e else -2 * e - 1)
  let s := s.golomb m.toNat k p.limit p.qbpp
  let b := b + e * (2 * p.near + 1)
  let a := a + e.natAbs
  let h := decide (n = p.rst)
  let a := if h then a / 2 else a
  let b := if h then (if 0 ≤ b then b / 2 else -((1 - b) / 2)) else b
  let n := (if h then n / 2 else n) + 1
  let c := s.c.getD q 0
  let bc := if b ≤ -n then (max (b + n) (-n + 1), max (-128) (c - 1))
    else if 0 < b then (min (b - n) 0, min 127 (c + 1)) else (b, c)
  ({ s with
      a := s.a.setIfInBounds q a, b := s.b.setIfInBounds q bc.1, c := s.c.setIfInBounds q bc.2, n := s.n.setIfInBounds q n }, rx)

/-- The sample that ends a run. -/
def JlsSt.interrupt (s : JlsSt) (p : JlsParams) (ri : Nat) (ix ra rb : Int) : JlsSt × Int :=
  let ty : Nat := if (ra - rb).natAbs ≤ p.near then 1 else 0
  let px := if ty = 1 then ra else rb
  let sign : Int := if ty = 0 ∧ rb < ra then -1 else 1
  let e := p.qErr (sign * (ix - px))
  let rx := clampI 0 p.maxval (px + sign * e * (2 * p.near + 1))
  let e := p.modErr e
  let q := 365 + ty
  let n := s.n.getD q 1
  let a := s.a.getD q 0
  let nn := s.nn.getD ty 0
  let k := jlsK n (if ty = 0 then a else a + n / 2)
  let map : Int := if k = 0 ∧ 0 < e ∧ 2 * nn < n then 1 else if e < 0 ∧ n ≤ 2 * nn then 1 else if e < 0 ∧ k ≠ 0 then 1 else 0
  let em := 2 * (e.natAbs : Int) - ty - map
  let s := s.golomb em.toNat k (p.limit - jlsJ.getD ri 0 - 1) p.qbpp
  let nn := if e < 0 then nn + 1 else nn
  let a := a + (em + 1 - ty) / 2
  let h := decide (n = p.rst)
  ({ s with
      a := s.a.setIfInBounds q (if h then a / 2 else a)
      n := s.n.setIfInBounds q ((if h then n / 2 else n) + 1)
      nn := s.nn.setIfInBounds ty (if h then nn / 2 else nn) }, rx)

/-- The ones that a run of `cnt` samples writes, with the run index after them and what is left of the run. -/
def JlsSt.runOnes : Nat → JlsSt → Nat → Nat → JlsSt × Nat × Nat
  | 0, s, cnt, ri => (s, cnt, ri)
  | fuel + 1, s, cnt, ri =>
    let r := 2 ^ jlsJ.getD ri 0
    if r ≤ cnt then JlsSt.runOnes fuel (s.put 1 1) (cnt - r) (min 31 (ri + 1)) else (s, cnt, ri)

/-- A line of one component, sample by sample: `prev` is the line above, `corner` the value left of its first sample, `ra` the
value to the left, `run` the samples of the run in progress. Answers the reconstructed line, last first, and the run index. -/
def jlsLine (p : JlsParams) (prev : Array Int) (corner : Int) :
    List Int → Nat → Int → Option Nat → Nat → List Int → JlsSt → JlsSt × Nat × List Int
  | [], _, _, run, ri, acc, s =>
    match run with
    | none => (s, ri, acc)
    | some cnt =>
      let r := JlsSt.runOnes (cnt + 1) s cnt ri
      ((if 0 < r.2.1 then r.1.put 1 1 else r.1), r.2.2, acc)
  | ix :: rest, x, left, run, ri, acc, s =>
    let rb := prev.getD x 0
    let ra := if x = 0 then rb else left
    let rc := if x = 0 then corner else prev.getD (x - 1) 0
    let rd := if x + 1 < prev.size then prev.getD (x + 1) 0 else rb
    let flat := decide ((rd - rb).natAbs ≤ p.near) && decide ((rb - rc).natAbs ≤ p.near) && decide ((rc - ra).natAbs ≤ p.near)
    if run.isSome ∨ flat = true then
      let cnt := run.getD 0
      if (ix - ra).natAbs ≤ p.near then jlsLine p prev corner rest (x + 1) ra (some (cnt + 1)) ri (ra :: acc) s
      else
        let r := JlsSt.runOnes (cnt + 1) s cnt ri
        let s := (r.1.put 0 1).put r.2.1 (jlsJ.getD r.2.2 0)
        let i := s.interrupt p r.2.2 ix ra rb
        jlsLine p prev corner rest (x + 1) i.2 none (r.2.2 - 1) (i.2 :: acc) i.1
    else
      let i := s.regular p ix ra rb rc rd
      jlsLine p prev corner rest (x + 1) i.2 none ri (i.2 :: acc) i.1

/-- A component between lines: the reconstructed line above, the value left of it, the run index. -/
structure JlsComp where
  prev : Array Int
  corner : Int
  ri : Nat

/-- A line of every component in turn (ILV 0 or 1). -/
def jlsLines (p : JlsParams) : List (List Int) → List JlsComp → JlsSt → List JlsComp → JlsSt × List JlsComp
  | px :: ps, k :: ks, s, done =>
    let r := jlsLine p k.prev k.corner px 0 0 none k.ri [] s
    jlsLines p ps ks r.1 (done ++ [⟨r.2.2.reverse.toArray, k.prev.getD 0 0, r.2.1⟩])
  | _, _, s, done => (s, done)

/-- Bits, first first, as bytes: a byte after 0xFF holds seven bits under a 0, the last byte is filled with zeros, and no
0xFF is last. -/
def jlsBytes : Nat → Bool → List Bool → List Nat
  | 0, _, _ => []
  | _ + 1, after, [] => if after then [0] else []
  | fuel + 1, after, b :: bs =>
    let n := if after then 7 else 8
    let v := ((b :: bs).take n ++ List.replicate (n - (b :: bs).length) false).foldl (fun a t => 2 * a + b2n t) 0
    v :: jlsBytes fuel (v == 255) ((b :: bs).drop n)

/-- The scan data of a segment: its lines, each a list of components of samples. -/
def jlsScan (p : JlsParams) (width : Nat) (lines : List (List (List Nat))) : List Nat :=
  let zero : JlsComp := ⟨Array.replicate width 0, 0, 0⟩
  let r := lines.foldl (fun (a : JlsSt × List JlsComp) l =>
    jlsLines p (l.map (fun (c : List Nat) => c.map (fun (v : Nat) => (v : Int)))) a.2 a.1 []) (jlsInit p, List.replicate p.comps zero)
  let bits := r.1.out.reverse
  jlsBytes (bits.length + 2) false bits

/-- A two-byte number, most significant byte first. -/
def be2 (v : Nat) : List Nat := [v / 256 % 256, v % 256]

/-- The marker segments that open the image (R271). -/
def jlsHead (p : JlsParams) (width segLines : Nat) : List Nat :=
  [0xFF, 0xD8, 0xFF, 0xF7] ++ be2 (8 + 3 * p.comps) ++ [p.bits] ++ be2 0 ++ be2 width ++ [p.comps]
    ++ (List.range p.comps).flatMap (fun i => [i + 1, 0x11, 0])
    ++ (if p.expl then [0xFF, 0xF8] ++ be2 13 ++ [1] ++ be2 p.maxval ++ be2 p.t1 ++ be2 p.t2 ++ be2 p.t3 ++ be2 p.rst else [])
    ++ [0xFF, 0xDD] ++ be2 4 ++ be2 segLines
    ++ [0xFF, 0xDA] ++ be2 (6 + 2 * p.comps) ++ [p.comps] ++ (List.range p.comps).flatMap (fun i => [i + 1, 0])
    ++ [p.near, if p.comps = 1 then 0 else 1, 0]

/-- The marker segments that end the image (R271). -/
def jlsTail (lines : Nat) : List Nat := [0xFF, 0xDC] ++ be2 4 ++ be2 lines ++ [0xFF, 0xD9]

/-- The coded bytes of segment number `seg` (R271). -/
def jlsSegment (p : JlsParams) (width segLines seg : Nat) (lines : List (List (List Nat))) (total : Option Nat) : List Nat :=
  (if seg = 0 then jlsHead p width segLines else [0xFF, 0xD0 + (seg - 1) % 8]) ++ jlsScan p width lines
    ++ (match total with | some n => jlsTail n | none => [])

end Sys2Proof.Machine
end

