-- ==== Sys2Proof/Machine/FrameMemory.lean ====
section
/-! DEFINITION. GDDR6 frame memory (spec/12): capacity and the address map, reads with their ECC outcomes, writes, fencing, start-up,
retraining, scrubbing and error injection. -/

namespace Sys2Proof.Machine

/-- The usable capacity in MiB, before the fence reserve (R313). -/
def State.fmUsable (s : State) : Nat := if s.on Reg.FM_CFG Fld.FM_CFG_DENSITY then 15872 else 7936

/-- The capacity in MiB that images and BAR2 have (R316). -/
def State.fmImageMib (s : State) : Nat :=
  if s.on Reg.FM_CFG Fld.FM_CFG_RESERVE then s.fmUsable / 8 * 7 else s.fmUsable

/-- The first data address beyond FM_CAPACITY; 0 until READY (R315). -/
def State.fmEnd (s : State) : Nat := s.fld Reg.FM_CAPACITY Fld.FM_CAPACITY_MIB * 2 ^ 20

/-- The first data address beyond the usable capacity; 0 until READY. Data addresses from `fmEnd` up to it are the fence reserve (R316). -/
def State.fmTop (s : State) : Nat :=
  if s.on Reg.FM_CFG Fld.FM_CFG_RESERVE then s.fmEnd + s.fmEnd / 7 else s.fmEnd

/-- The channel and the chunk within it that a data address maps to (R315). -/
def fmHome (a : Nat) : Nat × Nat :=
  let k := a / 256
  (Nat.xor (k % 8) (k / 8 % 8), k / 8)

/-- The first chunk of each channel's fence reserve: 7K / 64 (R316). -/
def State.fmReserve (s : State) : Nat := s.fmUsable * 4096 * 7 / 64

/-- The channel and the chunk that hold the bytes of a data address now: a chunk of the fenced channel that moved lies in another
channel's reserve (R315, R318). -/
def State.fmChunk (s : State) (a : Nat) : Nat × Nat :=
  let h := fmHome a
  if s.fm.moved = some h.1 ∧ h.2 < s.fmReserve then
    (((List.range 8).erase h.1).getD (h.2 % 7) 0, s.fmReserve + h.2 / 7)
  else h

/-- The channel that holds the chunk of a data address now (R318). -/
def State.fmChannel (s : State) (a : Nat) : Nat := (s.fmChunk a).1

/-- The channel-local address of a data address (R315). -/
def State.fmLocal (s : State) (a : Nat) : Nat := 256 * (s.fmChunk a).2 + a % 256

/-- The DRAM cell of a channel-local address: row, bank and byte of the page (R315). -/
def fmCell (l : Nat) : Nat × Nat × Nat := (l / 2 ^ 15, l / 2 ^ 11 % 16, l % 2 ^ 11)

/-- Where a channel keeps the two check symbols' bytes of its block at channel-local address `l`: the local address of the first
(R313, R315). The bytes that the code puts there show nowhere, so no field holds them. -/
def State.fmCheckAt (s : State) (l : Nat) : Nat :=
  let b := l / 64
  s.fmUsable * 2 ^ 20 / 8 + 64 * (b / 32) + 2 * (b % 32)

/-- A block whose channel is fenced and was not moved: it reads poison and takes no write (R319). -/
def State.fmDead (s : State) (a : Nat) : Bool :=
  let c := s.fmChannel a
  s.fm.fences.contains c && s.fm.moved != some c

/-- A block that is poison until something writes it: one of the fence reserve, and one that moved there (R317, R318). -/
def State.fmMarked (s : State) (b : Nat) : Bool :=
  decide (s.fmEnd ≤ 64 * b) || s.fm.moved == some (fmHome (64 * b)).1

/-- A block of those that nothing has written: it is poison. -/
def State.fmStale (s : State) (b : Nat) : Bool := s.fmMarked b && !s.fm.fresh.get b

/-- The symbols in error that a block shows to its next access: what the access meets at the DRAM, and two for a burst that fails more
than three repeats (R312). -/
def State.fmMet (s : State) (b : Nat) : Nat := (s.fm.link.get b).1 + if 3 < (s.fm.link.get b).2 then 2 else 0

/-- How a block reads (R314): 0 no error, 1 corrected, 2 uncorrectable, 3 poison. `extra` more symbols are found in error. -/
def State.fmOutcome (s : State) (b extra : Nat) : Nat :=
  if s.fmDead (64 * b) || s.fmStale b then 3 else min 2 (s.fm.flaw.get b + s.fmMet b + extra)

/-- Counter k of the frame memory counts, and its event bit sets. -/
def State.fmCount (s : State) (k n : Nat) : State :=
  if n = 0 then s else (s.countN (Reg.FM_CNTk k) n).setBit Reg.FM_STATUS k

/-- An access of a block takes its bursts over the link: each repeat counts, and what stood ready for the block is used up (R312). -/
def State.fmBurst (s : State) (b : Nat) : State :=
  let n := min 3 (s.fm.link.get b).2
  ({ s with fm := { s.fm with link := s.fm.link.set b (0, 0) } }).fmCount 3 n

/-- Channel `c` is fenced (R318 to R320): requests follow the new mapping from here on; the fence's completion follows. A first fence
with a reserve takes the reserve for the moved chunks, which start as poison. -/
def State.fmFence (s : State) (c : Nat) : State :=
  if s.fm.fences.contains c then s
  else
    let first := s.fm.fences.isEmpty && s.on Reg.FM_CFG Fld.FM_CFG_RESERVE
    let s := { s with fm := { s.fm with
      fences := s.fm.fences ++ [c], fencing := s.fm.fencing ++ [c],
      moved := if first then some c else s.fm.moved
      fresh := if first then [] else s.fm.fresh } }
    if first then s.setFld Reg.FM_STATUS Fld.FM_STATUS_REMAPPED 1 else s.setFld Reg.FM_STATUS Fld.FM_STATUS_DEGRADED 1

/-- A block is read (R314): counted, signalled, written back when corrected, and its channel fenced when uncorrectable. -/
def State.fmReadBlock (s : State) (b extra : Nat) : State × Nat :=
  let o := s.fmOutcome b extra
  let c := s.fmChannel (64 * b)
  let s := s.fmBurst b
  let t := match o with
    | 0 => s
    | 1 => { (s.fmCount 0 1).raiseCorr (32 + c) 0 with fm := { s.fm with flaw := Table.set s.fm.flaw b 0 } }
    | 2 =>
      let s := (s.fmCount 1 1).raiseError (32 + c) 0
      let s := if s.bit Reg.FM_UNCORR_ADDR_HI 31 then s else
        (s.setReg Reg.FM_UNCORR_ADDR_LO (BitVec.ofNat 32 (64 * b % 2 ^ 32))).setReg Reg.FM_UNCORR_ADDR_HI
          (BitVec.ofNat 32 (64 * b / 2 ^ 32 % 4 + c * 4 + 2 ^ 31))
      s.fmFence c
    | _ => s.fmCount 2 1
  (t, o)

/-- The bytes of a block as stored. -/
def State.fmBytes (s : State) (a n : Nat) : List Nat := memRead s.fmMem 0 a n

/-- `n` free bytes. -/
def State.freeBytes (s : State) (n : Nat) : State × List Nat :=
  ({ s with free := s.free + n }, (List.range n).map (fun i => (Config.byte (s.free + i)).toNat))

/-- Bytes `a` to `a + n - 1` of one block are read, with `extra` symbols found in error: the bytes and the outcome. Poison gives zeros,
and an uncorrectable block the bytes that the damaged symbols give, which are free. -/
def State.fmReadPart (s : State) (a n extra : Nat) : State × List Nat × Nat :=
  let r := s.fmReadBlock (a / 64) extra
  match r.2 with
  | 2 => let f := r.1.freeBytes n; (f.1, f.2, 2)
  | 3 => (r.1, List.replicate n 0, 3)
  | o => (r.1, r.1.fmBytes a n, o)

/-- A whole block is read by a unit; one beyond the usable capacity reads as 0 (R315). -/
def State.fmFetch (s : State) (a extra : Nat) : State × List Nat × Nat :=
  if a < s.fmTop then s.fmReadPart a 64 extra else (s, List.replicate 64 0, 0)

/-- Bytes from data address `a` up are read block by block, and whether a block was marked; from `lim` on they are 0 (R315). -/
def State.fmRead (lim : Nat) : Nat → State → Nat → Nat → State × List Nat × Bool
  | 0, s, _, _ => (s, [], false)
  | fuel + 1, s, a, n =>
    if n = 0 then (s, [], false)
    else
      let k := min n (64 - a % 64)
      let r := if a < lim then s.fmReadPart a k 0 else (s, List.replicate k 0, 0)
      let t := State.fmRead lim fuel r.1 (a + k) (n - k)
      (t.1, r.2.1 ++ t.2.1, decide (2 ≤ r.2.2) || t.2.2)

/-- A unit reads frame memory from `a`, `n` bytes. -/
def State.fmGet (s : State) (a n : Nat) : State × List Nat × Bool := State.fmRead s.fmTop (n / 64 + 2) s a n

/-- BAR2 reads frame memory: it sees 0 from FM_CAPACITY on (R315, R316). -/
def State.fmShow (s : State) (a n : Nat) : State × List Nat × Bool := State.fmRead s.fmEnd (n / 64 + 2) s a n

/-- Part of one block is written (R325): a partial write reads the block first, and an unreadable block's other bytes
become 0; a chunk that no channel holds discards the bytes (R319), after the read that a partial write makes; an armed
injection damages the block it names (R326), and a burst that fails for good leaves the block with two symbols in error (R312). -/
def State.fmWritePart (s : State) (a : Nat) (bytes : List Nat) : State :=
  let b := a / 64
  let r := if bytes.length = 64 then (s, 0) else s.fmReadBlock b 0
  let s := r.1
  let met := if s.fmMet b < 2 then 0 else 2
  let s := s.fmBurst b
  if s.fmDead a then s
  else
    let old := if r.2 ≤ 1 then s.fmBytes (64 * b) 64 else List.replicate 64 0
    let new := old.take (a % 64) ++ bytes ++ old.drop (a % 64 + bytes.length)
    let hit := s.bit Reg.FM_INJECT 31 && s.fld Reg.FM_INJECT Fld.FM_INJECT_ADDR == b
    let nsym := if s.fld Reg.FM_INJECT Fld.FM_INJECT_NSYM = 2 then 2 else 1
    let s := { s with
      fmMem := memWrite s.fmMem 0 (64 * b) new
      fm := { s.fm with
        flaw := Table.set s.fm.flaw b (max met (if hit then nsym else 0))
        fresh := if s.fmMarked b then Table.set s.fm.fresh b true else s.fm.fresh } }
    if hit then s.setFld Reg.FM_INJECT Fld.FM_INJECT_ARM 0 else s

/-- Bytes are written from data address `a` up; those from `lim` on are ignored (R315). -/
def State.fmWrite (lim : Nat) : Nat → State → Nat → List Nat → State
  | 0, s, _, _ => s
  | fuel + 1, s, a, bytes =>
    if bytes = [] then s
    else
      let k := min bytes.length (64 - a % 64)
      let s := if a < lim then s.fmWritePart a (bytes.take k) else s
      State.fmWrite lim fuel s (a + k) (bytes.drop k)

/-- A unit writes bytes to frame memory from `a` up. -/
def State.fmPut (s : State) (a : Nat) (bytes : List Nat) : State := State.fmWrite s.fmTop (bytes.length / 64 + 2) s a bytes

/-- BAR2 writes frame memory: bytes from FM_CAPACITY on are ignored (R315, R316). -/
def State.fmPlace (s : State) (a : Nat) (bytes : List Nat) : State := State.fmWrite s.fmEnd (bytes.length / 64 + 2) s a bytes

/-- The canonical form of a memory: addresses strictly rise, and no listed byte is 0, which an unlisted one reads as. -/
def Memory.wf (m : Table Byte) : Bool := m.wfBy (fun _ => (0 : Byte))

/-! ### Steps -/

/-- A read of the block of data address `a` completes: `syms` symbols beyond those stored in error are found in error, and
the bursts were repeated `repeats` times under R312; more than three repeats make it uncorrectable. With `ahead` the block's next access
by any unit, a read or a write, is the one that meets this (notes/assumptions/132.md). -/
def doFmReadComplete (a syms repeats : Nat) (ahead : Bool) (s : State) : State :=
  if a < s.fmTop then
    let s := { s with fm := { s.fm with link := s.fm.link.set (a / 64) (syms, repeats) } }
    if ahead then s else (s.fmReadBlock (a / 64) 0).1
  else s

def execFmReadComplete (a syms : Nat) (bursts : FmBursts) (s : State) : Host.Outcome State Fault Refusal :=
  answer s (a < 2 ^ 34) (doFmReadComplete a syms bursts.repeats bursts.ahead s)

/-- A fence completes: FENCED shows it and the event log records it (R320). -/
def doFmFenceComplete (c : Nat) (s : State) : State :=
  if s.fm.fencing.contains c then
    ({ s with fm := { s.fm with fencing := s.fm.fencing.filter (· != c) } }.setBit Reg.FM_STATUS (8 + c)).log 0x08 0 0x000D c
  else s

def execFmFenceComplete (c : Nat) (s : State) : Host.Outcome State Fault Refusal := answer s (c < 8) (doFmFenceComplete c s)

/-- Channels of a mask fail their training: each is fenced, with its error signal (R320, R321). -/
def State.fmFailed (s : State) (mask : Nat) : State :=
  (List.range 8).foldl (fun s c => if bitB mask c then (s.fmFence c).raiseError (32 + c) 0 else s) s

/-- Frame memory starts once the image is applied (R321, R322): the channels of `failed` fail a training step. -/
def doFmStart (failed : Nat) (s : State) : State :=
  if s.on Reg.GLB_IMG_STATUS Fld.GLB_IMG_STATUS_APPLIED && s.on Reg.FM_CFG Fld.FM_CFG_POPULATED
      && !s.on Reg.FM_STATUS Fld.FM_STATUS_TRAINED then
    let s := s.fmFailed failed
    let s := s.setFld Reg.FM_STATUS Fld.FM_STATUS_TRAINED 1
    let ms := max 10 (s.fld Reg.FM_SCRUB_CTRL Fld.FM_SCRUB_CTRL_RETRAIN_MS)
    let s := { s with
      fmMem := []
      fm := { s.fm with
        flaw := [], fresh := [], link := [],
        pauses := (List.range 8).foldl (fun (t : Table Nat) c => Table.set t c (s.now + c * ms * 125000)) [] } }
    (s.setFld Reg.FM_STATUS Fld.FM_STATUS_READY 1).setFld Reg.FM_CAPACITY Fld.FM_CAPACITY_MIB s.fmImageMib
  else s

def execFmStart (failed : Nat) (s : State) : Host.Outcome State Fault Refusal := answer s (failed < 256) (doFmStart failed s)

/-- Channel `c` pauses and retrains once its time has come (R323); a failure fences it. -/
def doFmRetrain (c : Nat) (ok : Bool) (s : State) : State :=
  if s.on Reg.FM_STATUS Fld.FM_STATUS_TRAINED && !s.fm.fences.contains c && decide (s.fm.pauses.get c ≤ s.now) then
    let ms := max 10 (s.fld Reg.FM_SCRUB_CTRL Fld.FM_SCRUB_CTRL_RETRAIN_MS)
    let s := { s with fm := { s.fm with pauses := Table.set s.fm.pauses c (s.now + ms * 1000000) } }
    if ok then s else s.fmFailed (2 ^ c)
  else s

def execFmRetrain (c : Nat) (ok : Bool) (s : State) : Host.Outcome State Fault Refusal := answer s (c < 8) (doFmRetrain c ok s)

/-- The scrubber reads its next block, passing over poison, and moves on; a completed pass counts (R324). -/
def doFmScrub (syms : Nat) (s : State) : State :=
  if s.on Reg.FM_STATUS Fld.FM_STATUS_READY && s.fld Reg.FM_SCRUB_CTRL Fld.FM_SCRUB_CTRL_PERIOD_H != 0 then
    let total := s.fmTop / 64
    let b := s.fm.scrub
    let s := if s.fmOutcome b 0 = 3 then s else (s.fmReadBlock b syms).1
    let done := decide (total ≤ b + 1)
    let next := if done then 0 else b + 1
    let s := { s with fm := { s.fm with scrub := next } }
    let s := if done then s.fmCount 4 1 else s
    s.setFld Reg.FM_SCRUB_POS Fld.FM_SCRUB_POS_PERMILLE (1000 * next / max 1 total)
  else s

def execFmScrubRead (syms : Nat) (s : State) : Host.Outcome State Fault Refusal := answer s (syms < 3) (doFmScrub syms s)

/-- A write of FM_INJECT (R326): ADDR and NSYM take their values; DISARM clears ARM, and else a 1 sets it. -/
def State.fmInject (s : State) (data : Word) : State :=
  let arm := !bitB data.toNat 30 && (bitB data.toNat 31 || s.bit Reg.FM_INJECT 31)
  s.setReg Reg.FM_INJECT (BitVec.ofNat 32 (data.toNat % 2 ^ 30 + b2n arm * 2 ^ 31))

def execFmInject (i : Initiator) (data : Word) (s : State) : Host.Outcome State Fault Refusal :=
  answer s true (s.swWrite i Reg.FM_INJECT data (fun s => s.fmInject data))

def execFmInjectDisarm (i : Initiator) (data : Word) (s : State) : Host.Outcome State Fault Refusal :=
  answer s true (s.swWrite i Reg.FM_INJECT data (fun s => s.fmInject data))

end Sys2Proof.Machine
end

