-- ==== Sys2Proof/Machine/LoadList.lean ====
section
/-! DEFINITION. Load lists (R45): their records, and the swap group that each register of a recipe belongs to (R59). -/

namespace Sys2Proof.Machine

/-- A record of a load list (R45). -/
inductive LoadOp where
  | write (off : Nat) (vals : List Nat)
  | marker (kind unit spare : Nat)
  | bad
  deriving DecidableEq, Repr

/-- The records that a load list's words spell (R45); a word that is no valid command ends the list with `bad`. -/
def parseLoad : Nat → List Nat → List LoadOp
  | 0, _ => []
  | _ + 1, [] => []
  | fuel + 1, c :: rest =>
    let off := c % 2 ^ 26
    if c / 2 ^ 26 % 4 ≠ 0 then [.bad]
    else match c / 2 ^ 28 with
      | 0 => if off % 4 ≠ 0 then [.bad] else match rest with
        | [] => [.bad]
        | v :: t => .write off [v] :: parseLoad fuel t
      | 1 => if off % 4 ≠ 0 then [.bad] else match rest with
        | [] => [.bad]
        | n :: t => if n = 0 ∨ 65536 < n ∨ t.length < n then [.bad]
          else .write off (t.take n) :: parseLoad fuel (t.drop n)
      | 2 => if off / 2 ^ 13 ≠ 0 ∨ 4 < off % 8 then [.bad]
        else .marker (off % 8) (off / 8 % 32) (off / 256 % 32) :: parseLoad fuel rest
      | _ => [.bad]

/-- The records of a load list. -/
def loadOps (words : List Nat) : List LoadOp := parseLoad (words.length + 1) words

/-- The single register writes of a record. -/
def LoadOp.recs : LoadOp → List LoadRec
  | .write off vals => (List.range vals.length).map (fun i => ⟨off + 4 * i, vals.getD i 0⟩)
  | _ => []

/-- Whether a record is a spare marker. -/
def LoadOp.isMarker : LoadOp → Bool
  | .marker .. => true
  | _ => false

/-- The writes before the first spare marker of a part (R44, R58). -/
def mainRecs (words : List Nat) : List LoadRec :=
  ((loadOps words).takeWhile (fun o => !o.isMarker)).flatMap LoadOp.recs

/-- The writes of the group that follows the spare marker of an assignment (R44, R586). -/
def groupRecs (words : List Nat) (kind unit spare : Nat) : List LoadRec :=
  let after := ((loadOps words).dropWhile (fun o => o != .marker kind unit spare)).drop 1
  (after.takeWhile (fun o => !o.isMarker)).flatMap LoadOp.recs

/-- The number of a swap group: a unit's own registers (`sub` 0), its context c (1 + c), its group or path (17 + g), and,
with kinds above 4, a stream (5), an output stream (6), a pavilion's watermarks (7), anything else (8). -/
def ownerKey (kind unit sub : Nat) : Nat := (kind * 64 + unit) * 64 + sub

/-- The swap group of a register (R59). -/
def ownerOf (off : Nat) : Nat :=
  if off / 0x100000 = 4 then
    let p := off % 0x100000 / 0x40000
    let d := off % 0x40000
    if d < 0x10000 then
      let r := d % 0x4000
      let u := 4 * p + d / 0x4000
      if 0x10 ≤ r ∧ r < 0x30 then ownerKey 0 u (1 + (r - 0x10) / 4)
      else if 0x100 ≤ r ∧ r < 0x200 then ownerKey 0 u (1 + (r - 0x100) / 0x20)
      else if 0x1000 ≤ r ∧ r < 0x3000 then ownerKey 0 u (1 + (r - 0x1000) / 0x400)
      else ownerKey 0 u 0
    else if d < 0x20000 then
      let r := (d - 0x10000) % 0x4000
      let u := 2 * p + (d - 0x10000) / 0x4000
      if 0x40 ≤ r ∧ r < 0x60 then ownerKey 1 u (1 + (r - 0x40) / 4)
      else if 0x100 ≤ r ∧ r < 0x200 then ownerKey 1 u (1 + (r - 0x100) / 0x20)
      else if 0x200 ≤ r ∧ r < 0x280 then ownerKey 1 u (17 + (r - 0x200) / 0x20)
      else if 0x400 ≤ r ∧ r < 0x600 then ownerKey 1 u (1 + (r - 0x400) / 0x40)
      else ownerKey 1 u 0
    else if d < 0x28000 then
      let r := d - 0x20000
      if 0x10 ≤ r ∧ r < 0x50 then ownerKey 2 p (17 + (r - 0x10) % 0x20 / 4)
      else if 0x100 ≤ r ∧ r < 0x200 then ownerKey 2 p (1 + (r - 0x100) / 0x20)
      else if 0x200 ≤ r ∧ r < 0x400 then ownerKey 2 p (17 + (r - 0x200) / 0x40)
      else ownerKey 2 p 0
    else if d < 0x30000 then
      let r := (d - 0x28000) % 0x4000
      let u := 2 * p + (d - 0x28000) / 0x4000
      if 0x100 ≤ r ∧ r < 0x300 then ownerKey 3 u (1 + (r - 0x100) / 0x40) else ownerKey 3 u 0
    else
      let r := (d - 0x30000) % 0x4000
      let u := 2 * p + (d - 0x30000) / 0x4000
      if 0x100 ≤ r ∧ r < 0x200 then ownerKey 4 u (1 + (r - 0x100) / 0x20) else ownerKey 4 u 0
  else if off / 0x100000 = 3 ∧ Reg.PGL_CHn_CFG 0 ≤ off then ownerKey 5 ((off - Reg.PGL_CHn_CFG 0) / 0x10) 0
  else if off / 0x100000 = 3 ∧ Reg.PGL_PVp_WM 0 ≤ off ∧ off < Reg.PGL_PVp_WM 4 then
    ownerKey 7 ((off - Reg.PGL_PVp_WM 0) / 4) 0
  else if off / 0x100000 = 2 then
    if off < Reg.ST_BINDn 0 then ownerKey 5 (off % 0x100000 / 0x100) 0
    else ownerKey 5 ((off - Reg.ST_BINDn 0) / 0x10) 0
  else if off / 0x100000 = 5 then ownerKey 6 (off % 0x100000 / 0x800) 0
  else ownerKey 8 0 0

end Sys2Proof.Machine
end

