-- ==== Sys2Proof/Machine/Recipe.lean ====
section
/-! DEFINITION. Recipes at run time (spec/02): the latch at a document close of REF_STREAM, a pavilion's window and load, and the
swaps of staged banks. -/

namespace Sys2Proof.Machine

/-- The pavilion a stream channel is at home in (R74). -/
def State.homePv (s : State) (ch : Nat) : Nat := s.fld (Reg.PGL_CHn_CFG ch) Fld.PGL_CHn_CFG_PV

/-- The active channels whose home is pavilion `p`. -/
def State.pvChans (s : State) (p : Nat) : List Nat :=
  (List.range 64).filter (fun n => s.on (Reg.PGL_CHn_CFG n) Fld.PGL_CHn_CFG_ACTIVE && s.homePv n == p)

/-- DEFAULT_RECIPE and RECIPE_COUNT of the applied image. -/
def State.defaultRecipe (s : State) : Nat := s.fld Reg.GLB_IMG_STATUS Fld.GLB_IMG_STATUS_DEFAULT_RECIPE
def State.recipeCount (s : State) : Nat := s.fld Reg.GLB_IMG_STATUS Fld.GLB_IMG_STATUS_RECIPE_COUNT

/-- The recipe of a pavilion's last completed load, and of a swap group's active bank (R53, R59). -/
def State.pvRecipe (s : State) (p : Nat) : Nat := (s.pav.get p).recipe.getD s.defaultRecipe
def State.ownerRecipe (s : State) (owner : Nat) : Nat := (s.ctxRecipe.get owner).getD s.defaultRecipe

/-- A bit p of GLB_RECIPE_STATUS.PV_LOADING or PV_PENDING. -/
def State.pvLoadingBit (s : State) (p : Nat) (b : Bool) : State := s.putBit Reg.GLB_RECIPE_STATUS (8 + p) b
def State.pvPendingBit (s : State) (p : Nat) (b : Bool) : State := s.putBit Reg.GLB_RECIPE_STATUS (12 + p) b

/-- The words of part `part` of recipe `r` in the recipe store (R44, R53). -/
def State.recipePart (s : State) (r part : Nat) : List Nat := s.image.store.get (0x100 + 16 * r + part)

/-- A pavilion's window is open: every document that has begun to enter it has wholly entered it, on all its streams, and
its streams of one segmenter stand at the same document (R58). -/
def State.windowOpen (s : State) (p : Nat) : Bool :=
  let chs := s.pvChans p
  !chs.isEmpty && chs.all (fun n => (s.chan.get n).begun == (s.chan.get n).passed
    && chs.all (fun m => s.on (Reg.ST_BINDn n) Fld.ST_BINDn_CONT || s.on (Reg.ST_BINDn m) Fld.ST_BINDn_CONT
      || s.fld (Reg.ST_BINDn n) Fld.ST_BINDn_SEG != s.fld (Reg.ST_BINDn m) Fld.ST_BINDn_SEG
      || (s.chan.get n).passed == (s.chan.get m).passed))

/-- The recipe latched for the next document of a pavilion (R58). -/
def State.recipeFor (s : State) (p : Nat) : Option Nat :=
  let ref := s.image.refStream
  let recent := s.image.latches.head?.map (·.recipe)
  match (s.pvChans p).head? with
  | none => none
  | some n =>
    if !s.on (Reg.ST_BINDn n) Fld.ST_BINDn_CONT && !s.on (Reg.ST_BINDn ref) Fld.ST_BINDn_CONT
        && s.fld (Reg.ST_BINDn n) Fld.ST_BINDn_SEG == s.fld (Reg.ST_BINDn ref) Fld.ST_BINDn_SEG then
      match s.image.latches.find? (fun l => l.idx + 1 == (s.chan.get n).passed) with
      | some l => some l.recipe
      | none => recent
    else recent

/-- A pavilion's window opens (R58): a load starts where the recipe latched for the next document differs from the pavilion's. What an
earlier window began, whose document never came, gives way. -/
def State.tryLoadStart (s : State) (p : Nat) : State :=
  let pv := s.pav.get p
  match s.recipeFor p with
  | none => s
  | some r =>
    if !s.windowOpen p || pv.loading == some r then s
    else if r == s.pvRecipe p then
      (if pv.loading.isNone then s else ({ s with pav := s.pav.set p { pv with loading := none } }).pvLoadingBit p false)
    else
      ({ s with pav := s.pav.set p { pv with
          loading := some r
          loadUntil := s.now + 250000
          loadAfter := (s.pvChans p).foldl (fun t n => t.set n (s.chan.get n).passed) [] } }).pvLoadingBit p true

/-- The outcome of a pavilion's load goes to the partner (R61), an entry for each stream of the pavilion with the place of the
document that the load is for (notes/assumptions/124.md). -/
def State.sendLoad (s : State) (p outcome r : Nat) (places : Table Nat) : State :=
  (s.pvChans p).foldl (fun s n => s.sendDec 4 n p outcome 1 (places.get n) (r, 0, 0)) s

/-- The window closes before the load has ended: the load is abandoned, counted and logged (R60). -/
def State.abandonLoad (s : State) (p : Nat) : State :=
  let pv := s.pav.get p
  match pv.loading with
  | none => s
  | some r =>
    ((({ s with pav := s.pav.set p { pv with loading := none } }).pvLoadingBit p false).count
      Reg.GLB_RECIPE_LATE_CNT).log 0x01 0 0x0005 (p * 256 + r) |>.sendLoad p 0 r pv.loadAfter

/-- A register as recipe `r` leaves it where it sets it, else as it stands. -/
def State.regUnder (s : State) (recs : List LoadRec) (off : Nat) : Word :=
  match recs.reverse.find? (fun x => x.off == off) with
  | some x => BitVec.ofNat 32 x.val
  | none => s.reg off

/-- Whether an output stream belongs to pavilion `p` (R59): an OF of `p` feeds it, under the settings that a recipe brings; a
relay belongs to PV0. -/
def State.osHome (s : State) (recs : List LoadRec) (p n : Nat) : Bool :=
  if Fld.OSn_CFG_SRC.get (s.regUnder recs (Reg.OSn_CFG n)) = 1 then p == 0
  else (List.range 2).any (fun u => (List.range 8).any (fun c =>
    let w := s.regUnder recs (Reg.PVp_OFu_CTXc_CFG p u c)
    Fld.PVp_OFu_CTXc_CFG_VALID.get w == 1 && (Fld.PVp_OFu_CTXc_CFG_OS_A.get w == n
      || (Fld.PVp_OFu_CTXc_CFG_OS_B_EN.get w == 1 && Fld.PVp_OFu_CTXc_CFG_OS_B.get w == n))))

/-- The part-4 records of a recipe that belong to pavilion `p` (R59): its watermarks, its channels' and streams' registers,
and the registers of output streams that an OF of `p` feeds; a relay belongs to PV0. -/
def State.part4Of (s : State) (r p : Nat) : List LoadRec :=
  let recs := mainRecs (s.recipePart r 4) ++ mainRecs (s.recipePart r p)
  (mainRecs (s.recipePart r 4)).filter (fun x =>
    let o := ownerOf x.off
    let kind := o / 4096
    let n := o / 64 % 64
    if kind = 5 then s.homePv n == p
    else if kind = 7 then n == p
    else if kind = 6 then s.osHome recs p n
    else false)

/-- The records of the spare groups that serve streams of pavilion `p` (R586). -/
def State.spareRecs (s : State) (r p : Nat) : List LoadRec :=
  (s.lodge.moves.filter (fun m => m.moved && s.homePv m.ch == p)).flatMap (fun m =>
    let q := m.spare / (if m.kind = 0 then 4 else if m.kind = 2 then 1 else 2)
    groupRecs (s.recipePart r q) m.kind m.unit m.spare)

/-- Whether a unit holds a loaded staged bank not yet swapped (PV_PENDING). -/
def unitStaged (l : List Staged) : Bool := l.any (fun x => decide (x.owner / 4096 < 5))

/-- The pavilion's load completes: its staged banks hold the recipe (R58). -/
def State.finishLoad (s : State) (p : Nat) : State :=
  let pv := s.pav.get p
  match pv.loading with
  | none => s
  | some r =>
    let recs := mainRecs (s.recipePart r p) ++ s.part4Of r p ++ s.spareRecs r p
    let staged := recs.map (fun x => (⟨ownerOf x.off, x.off, x.val⟩ : Staged))
    let s := { s with pav := s.pav.set p { pv with
      recipe := some r, loading := none, staged := staged, after := pv.loadAfter, swapped := [] } }
    ((s.pvLoadingBit p false).pvPendingBit p (unitStaged staged)).sendLoad p 1 r pv.loadAfter

/-- Registers that no recipe changes: an LU's table data and switch registers (R157), and a GU's station delays and rings (R40, R59). -/
def swapSkips (off : Nat) : Bool :=
  off / 0x100000 == 4 &&
    (let d := off % 0x40000
     let r := d % 0x4000
     (decide (d < 0x10000) && (r == 0xC || (decide (0x30 ≤ r) && decide (r < 0x70))))
       || (decide (0x20100 ≤ d) && decide (d < 0x20200) && (d % 0x20 == 0x8 || d % 0x20 == 0xC || d % 0x20 == 0x10)))

/-- The staged records of the swap groups that `pick` names are taken into the active banks (R59, R62). -/
def State.takeStaged (s : State) (p : Nat) (pick : Nat → Bool) : State :=
  let pv := s.pav.get p
  let s := (pv.staged.filter (fun x => pick x.owner)).foldl
    (fun s x => if swapSkips x.off then s else s.loadWrite false x.off x.val) s
  let rest := pv.staged.filter (fun x => !pick x.owner)
  ({ s with pav := s.pav.set p { s.pav.get p with staged := rest } }).pvPendingBit p (unitStaged rest)

/-- Swap group `owner` has still to take its staged bank for a document at place `idx` of channel `ch`: a load for that document has
completed, and no earlier item of it has come to the group (R59). -/
def State.toSwap (s : State) (ch idx owner : Nat) : Bool :=
  let pv := s.pav.get (s.homePv ch)
  pv.recipe.isSome && !pv.swapped.contains owner && decide (pv.after.get ch ≤ idx)

/-- What a register will hold once pavilion `p`'s staged record of it is taken (R58). -/
def State.stagedWord (s : State) (p off : Nat) : Nat :=
  match (s.pav.get p).staged.reverse.find? (fun (x : Staged) => x.off == off), findReg off with
  | some x, some r => r.load (s.reg off).toNat x.val
  | _, _ => (s.reg off).toNat

/-- A register of a unit as the items of a document at place `idx` of channel `ch` find it: its swap group's staged bank counts where the
group is still to take it for that document. A recipe can so give a chain new contexts (R40, R59). -/
def State.bankWord (s : State) (ch idx off : Nat) : Nat :=
  if s.toSwap ch idx (ownerOf off) then s.stagedWord (s.homePv ch) off else (s.reg off).toNat

/-- The context of a unit that serves the document at place `idx` of channel `ch`, by its registers `cfg` with their fields VALID and
STREAM. -/
def State.servedBy (s : State) (ch idx : Nat) (cfg : Nat → Nat) (valid stream : Fld) : Option Nat :=
  (List.range 8).find? (fun c =>
    let w := BitVec.ofNat 32 (s.bankWord ch idx (cfg c))
    valid.get w == 1 && stream.get w == ch)

/-- The pavilion of a unit. -/
def unitPv (kind n : Nat) : Nat := match kind with | 0 => n / 4 | 2 => n | _ => n / 2

/-- What swaps with swap group `owner` of a unit (R59): the unit's own registers, but for a GU only with its write-side contexts; and the
pavilion's watermarks with a context of that pavilion. -/
def swapsWith (p owner : Nat) : List Nat :=
  let kind := owner / 4096
  if 5 ≤ kind then []
  else (if kind = 2 ∧ 17 ≤ owner % 64 then [] else [owner / 64 * 64])
    ++ (if unitPv kind (owner / 64 % 64) = p then [ownerKey 7 p 0] else [])

/-- At the first item of a document at place `idx` of channel `ch`, swap group `owner` copies its staged bank to its active bank, with
the groups in `also` and what belongs to none, when a load for that document has completed (R59). Units before the delay lines
report in GLB_RECIPE_ACTIVE. -/
def State.swapAt (s : State) (ch idx owner : Nat) (also : List Nat) (before : Bool) : State :=
  let p := s.homePv ch
  match (s.pav.get p).recipe with
  | none => s
  | some r =>
    if s.toSwap ch idx owner then
      let own := owner :: also
      let s := s.takeStaged p (fun o => own.contains o || (swapsWith p owner).contains o)
      let s := { s with
        ctxRecipe := own.foldl (fun t o => t.set o (some r)) s.ctxRecipe
        pav := s.pav.modify p (fun x => { x with swapped := x.swapped ++ own }) }
      if before then s.setFld Reg.GLB_RECIPE_ACTIVE ⟨4 * p, 3⟩ r else s
    else s

/-- The recipe that the device latches at a latch point, after R57 (R55, R57). -/
def State.nextRecipe (s : State) : Nat :=
  if s.on Reg.GLB_RECIPE_CTRL Fld.GLB_RECIPE_CTRL_SRC then s.fld Reg.GLB_RECIPE_STATUS Fld.GLB_RECIPE_STATUS_TRIG_CODE
  else s.fld Reg.GLB_RECIPE_CTRL Fld.GLB_RECIPE_CTRL_NEXT

/-- The recipe of the document before: the one last latched, or the default recipe (R57). -/
def State.keptRecipe (s : State) : Nat :=
  if s.on Reg.GLB_RECIPE_STATUS Fld.GLB_RECIPE_STATUS_LATCH_VALID
  then s.fld Reg.GLB_RECIPE_STATUS Fld.GLB_RECIPE_STATUS_LATCHED else s.defaultRecipe

/-- A latch point records the recipe for the next document (R54, R58). -/
def State.recordLatch (s : State) (idx doc r : Nat) : State :=
  let s := { s with image := { s.image with latches := ((⟨idx, doc, r⟩ : Latch) :: s.image.latches).take 16 } }
  (s.setFld Reg.GLB_RECIPE_STATUS Fld.GLB_RECIPE_STATUS_LATCHED r).setFld Reg.GLB_RECIPE_STATUS
    Fld.GLB_RECIPE_STATUS_LATCH_VALID 1

/-- A latch point on the device itself: the number is latched, or the previous recipe kept, counted and logged when the
number is out of range (R54 to R57). The lead sends the decision (R61). -/
def State.latchHere (s : State) (idx doc : Nat) : State :=
  let n := s.nextRecipe
  let s := if n < s.recipeCount then s.recordLatch idx doc n
    else ((s.recordLatch idx doc s.keptRecipe).count Reg.GLB_RECIPE_BAD_CNT).log 0x01 0 0x0004 n
  s.sendDec 4 s.image.refStream 0 0 0 idx (s.fld Reg.GLB_RECIPE_STATUS Fld.GLB_RECIPE_STATUS_LATCHED, doc, 0)

/-- A document of stream `n` closes: on REF_STREAM that is a latch point; a following device takes the lead's decision
instead (R54, R61). -/
def State.latchPoint (s : State) (n idx doc : Nat) : State :=
  if n ≠ s.image.refStream then s
  else if s.follows then
    if s.image.latches.any (fun l => l.idx == idx) then s
    else { s with image := { s.image with latchWait := s.image.latchWait ++ [(idx, doc, s.now)] } }
  else s.latchHere idx doc

/-- A pavilion's load completes within its time (R58). On a following device the lead's outcome decides (R61). -/
def execRecipeLoadDone (p : Nat) (s : State) : Host.Outcome State Fault Refusal :=
  answer s (p < 4) (if s.follows then s else s.finishLoad p)

end Sys2Proof.Machine
end

