-- ==== Sys2Proof/Machine/Linear.lean ====
section
/-! DEFINITION. The linearisation units' contexts and arithmetic (spec/06): table memory, black level and drift, LUT, gain, defect
replacement. -/

namespace Sys2Proof.Machine

/-- Flag bits of the line tag, counted from bit 16 of word 0 (R150). -/
def flagCrcErr : Nat := 0
def flagHdrErr : Nat := 1
def flagLate : Nat := 2
def flagPad : Nat := 3
def flagTrunc : Nat := 4
def flagDrop : Nat := 5
def flagSat : Nat := 6
def flagEccCorr : Nat := 7
def flagFailover : Nat := 8
def flagMismatch : Nat := 9
def flagRecipeChg : Nat := 10
def flagShort : Nat := 11

/-- The flags with one more set. -/
def setFlag (flags b : Nat) : Nat := Nat.lor flags (2 ^ b)

/-- The default content of table memory: black 0, gain 1.0, good (R157). -/
def luTableInit : Word := 0x00004000

/-- A word of an LU's table memory. -/
def State.luWord (s : State) (lu a : Nat) : Word := s.luTable.getD luTableInit (32768 * lu + a % 32768)

/-- A word of an LU's table memory takes a value. -/
def State.setLuWord (s : State) (lu a : Nat) (w : Word) : State :=
  { s with luTable := s.luTable.setD luTableInit (32768 * lu + a % 32768) w }

/-- The context of an LU that serves the document at place `idx` of a stream (R155). A line that none serves passes on as it is
(notes/assumptions/125.md). -/
def State.luContext (s : State) (lu ch idx : Nat) : Option Nat :=
  s.servedBy ch idx (fun c => Reg.PVp_LUu_CTXc_CFG (lu / 4) (lu % 4) c) Fld.PVp_LUu_CTXc_CFG_VALID Fld.PVp_LUu_CTXc_CFG_STREAM

/-- The signed 32-bit difference of two numbers of 32 bits (R132, R166). -/
def diff32 (a b : Nat) : Int := signed 32 (unsigned 32 ((a : Int) - (b : Int)))

/-- The first item of a document reaches a context: the bank and calibration state in force are fixed (R166). -/
def State.luItem (s : State) (lu c doc : Nat) : State :=
  let k := 8 * lu + c
  let cx := s.luCtx.get k
  if cx.lastItem = some doc then s
  else
    let s := { s with luCtx := s.luCtx.set k { cx with lastItem := some doc } }
    let sw := Reg.PVp_LUu_CTXc_SWITCH (lu / 4) (lu % 4) c
    let st := Reg.PVp_LUu_CTXc_STATE (lu / 4) (lu % 4) c
    if 0 ≤ diff32 doc (s.reg (Reg.PVp_LUu_CTXc_SWITCH_DOC (lu / 4) (lu % 4) c)).toNat then
      (s.setFld st Fld.PVp_LUu_CTXc_STATE_BANK (s.fld sw Fld.PVp_LUu_CTXc_SWITCH_BANK)).setFld st
        Fld.PVp_LUu_CTXc_STATE_CAL (s.fld sw Fld.PVp_LUu_CTXc_SWITCH_CAL)
    else s

/-- What a context's arithmetic uses for one line (R156 to R164, R167). -/
structure LuParams where
  bits : Nat
  offset : Int
  pedestal : Int
  lutEn : Bool
  gg : Nat
  defectEn : Bool
  deriving DecidableEq, Repr

/-- The input width that CFG.BITS codes (R155). -/
def luBits (code : Nat) : Nat := if code ≤ 4 then 8 + 2 * code else 16

/-- The parameters of a context in its in-force state; under CAL they are neutral (R167). -/
def State.luParams (s : State) (lu c : Nat) : LuParams :=
  let cfg := Reg.PVp_LUu_CTXc_CFG (lu / 4) (lu % 4) c
  let blk := Reg.PVp_LUu_CTXc_BLACK (lu / 4) (lu % 4) c
  let b := luBits (s.fld cfg Fld.PVp_LUu_CTXc_CFG_BITS)
  if s.on (Reg.PVp_LUu_CTXc_STATE (lu / 4) (lu % 4) c) Fld.PVp_LUu_CTXc_STATE_CAL then ⟨b, 0, 0, false, 0x1000, false⟩
  else ⟨b, s.fld blk Fld.PVp_LUu_CTXc_BLACK_OFFSET, s.fld blk Fld.PVp_LUu_CTXc_BLACK_PEDESTAL,
    s.on cfg Fld.PVp_LUu_CTXc_CFG_LUT_EN, s.fld (Reg.PVp_LUu_CTXc_GAIN (lu / 4) (lu % 4) c) Fld.PVp_LUu_CTXc_GAIN_GG,
    s.on cfg Fld.PVp_LUu_CTXc_CFG_DEFECT_EN⟩

/-- The table words of a context's columns: an uncorrectable one reads 0x4000_4000 (R156, R173); under CAL black 0, gain
1.0 and good (R167). -/
def State.luColumns (s : State) (lu c width : Nat) (bad : List Nat) : List Nat :=
  let st := Reg.PVp_LUu_CTXc_STATE (lu / 4) (lu % 4) c
  let tbl := Reg.PVp_LUu_CTXc_TBL (lu / 4) (lu % 4) c
  let base := if s.on st Fld.PVp_LUu_CTXc_STATE_BANK then s.fld tbl Fld.PVp_LUu_CTXc_TBL_BASE_B
    else s.fld tbl Fld.PVp_LUu_CTXc_TBL_BASE_A
  (List.range width).map (fun x =>
    if s.on st Fld.PVp_LUu_CTXc_STATE_CAL then 0x4000
    else if bad.contains x then 0x40004000 else (s.luWord lu (base + x)).toNat)

/-- The fields of a table word (R156). -/
def colGain (w : Nat) : Nat := w % 2 ^ 16
def colBlack (w : Nat) : Nat := w / 2 ^ 16 % 2 ^ 14
def colDefect (w : Nat) : Nat := w / 2 ^ 30 % 4

/-- The dark residual of a line over its dark window (R159). -/
def darkResidual (px cols : List Nat) (dx0 m : Nat) (offset : Int) : Int :=
  sumI (((px.zip cols).drop dx0 |>.take (2 ^ m)).map (fun e => (16 * e.1 : Nat) - (colBlack e.2 : Int) - 16 * offset)) / 2 ^ m

/-- A line that carries LATE, PAD or CRC_ERR is unfit for the drift term (R160). -/
def unfit (flags : Nat) : Bool := bitB flags flagLate || bitB flags flagPad || bitB flags flagCrcErr

/-- The drift term and DARK_VALID after a line (R160). -/
def darkUpdate (first bad valid : Bool) (d dLine init : Int) (k : Nat) : Int × Bool :=
  if first then (if bad then (init, false) else (dLine, true))
  else if bad then (d, valid)
  else if valid then (d + (dLine - d) / 2 ^ k, true)
  else (dLine, true)

/-- Step 1 for a pixel: the value before clipping (R158). -/
def blackT (p : LuParams) (px col : Nat) (d : Int) : Int :=
  (16 * px : Nat) - (colBlack col : Int) - 16 * p.offset + p.pedestal - d

/-- Step 1 clipped to b + 4 bits (R158). -/
def blackU (p : LuParams) (t : Int) : Int := clampI 0 (16 * 2 ^ p.bits - 1) t

/-- L[i] as the LU uses it: an entry in a word that does not read takes the entry before it (R173). L[0] has none before it and is a free
value (notes/assumptions/46.md). `bad` lists 32-bit words, two entries each. -/
def lutGood (entry : Nat → Nat) (bad : List Nat) (free : Nat) : Nat → Nat
  | 0 => if bad.contains 0 then free else entry 0
  | i + 1 => if bad.contains ((i + 1) / 2) then lutGood entry bad free i else entry (i + 1)

/-- Step 2 with the LUT `entry` (R161). -/
def lutV (p : LuParams) (entry : Nat → Nat) (u : Int) : Int :=
  let sh := p.bits - 4
  let i := (u / 2 ^ sh).toNat
  let f := u - i * 2 ^ sh
  let l0 : Int := entry i
  l0 + (((entry (i + 1) : Int) - l0) * f + 2 ^ (sh - 1)) / 2 ^ sh

/-- Step 2 without the LUT (R162). -/
def bypassV (p : LuParams) (u : Int) : Int :=
  if p.bits ≤ 12 then u * 2 ^ (12 - p.bits) else min 65535 ((u + 2 ^ (p.bits - 13)) / 2 ^ (p.bits - 12))

/-- Step 3 before its limit (R163). -/
def gainExact (p : LuParams) (v : Int) (col : Nat) : Int := (v * colGain col * p.gg + 2 ^ 25) / 2 ^ 26

/-- The nearest good column within four to one side: `l` lists (value, code) outwards (R164). -/
def goodSource (l : List (Nat × Nat)) : Option Nat := ((l.take 4).find? (fun e => e.2 == 0)).map (·.1)

/-- The replacement of a column of defect code `code` from its sources (R164); none: kept. -/
def replacement (code : Nat) (l r : Option Nat) : Option Nat :=
  match l, r with
  | some a, some b => some (if code = 1 then (a + b + 1) / 2 else if code = 2 then a else b)
  | some a, none => some a
  | none, some b => some b
  | none, none => none

/-- Step 4 over a line: `left` holds the columns already passed, nearest first (R164). Each column answers its value and
what happened: 0 good, 1 replaced, 2 kept for want of a source. -/
def replaceAll : List (Nat × Nat) → List (Nat × Nat) → List (Nat × Nat)
  | _, [] => []
  | left, (w, code) :: right =>
    (if code = 0 then (w, 0)
     else match replacement code (goodSource left) (goodSource right) with
       | some v => (v, 1)
       | none => (w, 2)) :: replaceAll ((w, code) :: left) right

/-- The output of the four steps on a line, and the counts of what R164 and R165 count: lines clipped low, clipped high,
with gain saturation (0 or 1 each), pixels replaced, pixels kept. -/
def luPixels (p : LuParams) (entry : Nat → Nat) (px cols : List Nat) (d : Int) : List Nat × List Nat :=
  let ts := (px.zip cols).map (fun e => (blackT p e.1 e.2 d, e.2))
  let exact := ts.map (fun e =>
    let u := blackU p e.1
    (gainExact p (if p.lutEn then lutV p entry u else bypassV p u) e.2, e.2))
  let ws := exact.map (fun e => ((min 65535 e.1).toNat, colDefect e.2))
  let out := if p.defectEn then replaceAll [] ws else ws.map (fun e => (e.1, 0))
  (out.map (·.1),
    [b2n (ts.any (fun e => e.1 < 0)), b2n (ts.any (fun e => 16 * 2 ^ p.bits - 1 < e.1)),
      b2n (exact.any (fun e => 65535 < e.1)), (out.filter (·.2 == 1)).length, (out.filter (·.2 == 2)).length])

/-- L[i] of a context's LUT (R161). -/
def State.lutEntry (s : State) (lu c i : Nat) : Nat :=
  let w := (s.reg (Reg.PVp_LUu_CTXc_LUTk (lu / 4) (lu % 4) c (i / 2))).toNat
  if i % 2 = 0 then w % 2 ^ 16 else w / 2 ^ 16

/-- The LUT of a context with words that do not read. -/
def State.lut (s : State) (lu c : Nat) (bad : List Nat) (i : Nat) : Nat :=
  lutGood (s.lutEntry lu c) bad (Config.nat s.free % 2 ^ 16) i

/-- LU counter k counts `n` events and its event bit sets (R164, R165, R173). -/
def State.luCount (s : State) (lu k n : Nat) : State :=
  if n = 0 then s
  else (s.countN (Reg.PVp_LUu_CNTk (lu / 4) (lu % 4) k) n).setBit (Reg.PVp_LUu_STATUS (lu / 4) (lu % 4)) k

/-- The drift term of a context takes a line (R160): the new D, with the registers that show it. D keeps its exact value; the register
shows its low 16 bits (notes/assumptions/126.md). -/
def State.luDark (s : State) (lu c : Nat) (l : Line) (cols : List Nat) : State × Int :=
  let k := 8 * lu + c
  let cfg := Reg.PVp_LUu_CTXc_CFG (lu / 4) (lu % 4) c
  let st := Reg.PVp_LUu_CTXc_STATE (lu / 4) (lu % 4) c
  let dk := Reg.PVp_LUu_CTXc_DARK (lu / 4) (lu % 4) c
  let win := Reg.PVp_LUu_CTXc_DARK_WIN (lu / 4) (lu % 4) c
  let cx := s.luCtx.get k
  let m := min 6 (s.fld win Fld.PVp_LUu_CTXc_DARK_WIN_DLOG2N)
  let cal := s.on st Fld.PVp_LUu_CTXc_STATE_CAL
  let r := if s.on cfg Fld.PVp_LUu_CTXc_CFG_DARK_EN then
      darkUpdate (cx.lastLine != some l.tag.doc) (unfit l.tag.flags) (s.on st Fld.PVp_LUu_CTXc_STATE_DARK_VALID) cx.dark
        (darkResidual (l.px.headD []) cols (s.fld win Fld.PVp_LUu_CTXc_DARK_WIN_DX0) m (s.luParams lu c).offset)
        (signed 16 (s.fld (Reg.PVp_LUu_CTXc_DARK_INIT (lu / 4) (lu % 4) c) Fld.PVp_LUu_CTXc_DARK_INIT_INIT))
        (s.fld cfg Fld.PVp_LUu_CTXc_CFG_DARK_K)
    else (0, false)
  let d := if cal then 0 else r.1
  let s := (s.setFld dk Fld.PVp_LUu_CTXc_DARK_D (unsigned 16 d)).setFld st Fld.PVp_LUu_CTXc_STATE_DARK_VALID (b2n r.2)
  ({ s with luCtx := s.luCtx.set k { cx with lastLine := some l.tag.doc, dark := d } }, d)

/-- A context processes a line (R154): counters count, and the line leaves with the same tag under the recipe of the
context's active bank (R60). Every error signals (R173). -/
def State.luProcess (s : State) (lu c : Nat) (l : Line) (tblCorr : Nat) (tblBad lutBad : List Nat) : State × Line :=
  let px := l.px.headD []
  let cols := s.luColumns lu c px.length tblBad
  let p := s.luParams lu c
  let lut := s.lut lu c lutBad
  let s := if lutBad.contains 0 then s.draw else s
  let sd := s.luDark lu c l cols
  let out := luPixels p lut px cols sd.2
  let s := (List.range 5).foldl (fun s k => s.luCount lu k (out.2.getD k 0)) sd.1
  let s := (s.luCount lu 5 tblCorr).raiseCorrs (16 + 4 * (lu / 4)) (lu % 4) tblCorr
  let bad := tblBad.length + lutBad.length
  let s := (s.luCount lu 6 bad).raiseErrors (16 + 4 * (lu / 4)) (lu % 4) bad
  (s, { l with tag := { l.tag with recipe := s.ownerRecipe (ownerKey 0 lu (1 + c)) }, px := [out.1] })

/-- TBL_ADDR moves to the next word (R168). -/
def State.tblAdvance (s : State) (lu : Nat) : State :=
  let r := Reg.PVp_LUu_TBL_ADDR (lu / 4) (lu % 4)
  s.setFld r Fld.PVp_LUu_TBL_ADDR_ADDR (s.fld r Fld.PVp_LUu_TBL_ADDR_ADDR + 1)

/-- A write of TBL_DATA stores the word at TBL_ADDR and advances (R168). -/
def doTblWrite (lu : Nat) (data : Word) (s : State) : State :=
  (s.setLuWord lu (s.fld (Reg.PVp_LUu_TBL_ADDR (lu / 4) (lu % 4)) Fld.PVp_LUu_TBL_ADDR_ADDR) data).tblAdvance lu

def execTblDataWrite (i : Initiator) (lu : Nat) (data : Word) (s : State) : Host.Outcome State Fault Refusal :=
  answer s (lu < 16) (s.swWrite i (Reg.PVp_LUu_TBL_DATA (lu / 4) (lu % 4)) data (doTblWrite lu data))

/-- A read of TBL_DATA returns the word at TBL_ADDR and advances (R168). -/
def execTblDataRead (i : Initiator) (lu : Nat) (s : State) : Host.Outcome State Fault Refusal :=
  answer s (lu < 16) (s.swRead i (Reg.PVp_LUu_TBL_DATA (lu / 4) (lu % 4)) (fun s =>
    (s.tblAdvance lu, s.luWord lu (s.fld (Reg.PVp_LUu_TBL_ADDR (lu / 4) (lu % 4)) Fld.PVp_LUu_TBL_ADDR_ADDR))))

end Sys2Proof.Machine
end

