-- ==== Sys2Proof/Machine/Pergola.lean ====
section
/-! DEFINITION. The Pergola (spec/03): routes, what waits at the unit inputs, admission and drops in the Glasshouse, the weighted
round robin, and the first read of a line by a unit. -/

namespace Sys2Proof.Machine

/-! ### Units and routes -/

/-- The units of a kind in the device (R70): kinds 0 LU, 1 MU, 2 GU, 3 BU, 4 OF. -/
def unitCount : Nat → Nat
  | 0 => 16 | 2 => 4 | _ => 8

/-- The field of PGL_CHn_ROUTE that names the unit of a kind. -/
def routeFld : Nat → Fld
  | 0 => Fld.PGL_CHn_ROUTE_LU | 1 => Fld.PGL_CHn_ROUTE_MU | 2 => Fld.PGL_CHn_ROUTE_GU | 3 => Fld.PGL_CHn_ROUTE_BU
  | _ => Fld.PGL_CHn_ROUTE_OF

/-- The unit of a kind on a channel's route in force (R74). -/
def State.routeUnit (s : State) (ch kind : Nat) : Option Nat :=
  let v := s.fld (Reg.PGL_CHn_ROUTE ch) (routeFld kind)
  if v < unitCount kind then some v else none

/-- The unit kinds that carry lines, in stage order (R73). -/
def lineKinds : List Nat := [0, 1, 2, 4]

/-- The kinds that follow a kind in stage order. -/
def kindsAfter (kind : Nat) : List Nat := lineKinds.filter (fun k => decide (kind < k))

/-- The first unit of a channel's chain (R75). -/
def State.firstUnit (s : State) (ch : Nat) : Option (Nat × Nat) :=
  lineKinds.findSome? (fun k => (s.routeUnit ch k).map (fun n => (k, n)))

/-- The fence bit of a pavilion unit (R485). -/
def fenceReg (kind n : Nat) : Nat × Nat :=
  match kind with
  | 0 => (Reg.FC_FENCE_UNIT_LO, n) | 1 => (Reg.FC_FENCE_UNIT_LO, 16 + n) | 2 => (Reg.FC_FENCE_UNIT_LO, 24 + n)
  | 3 => (Reg.FC_FENCE_UNIT_HI, n) | _ => (Reg.FC_FENCE_UNIT_HI, 8 + n)

/-- A pavilion unit is fenced. -/
def State.fenced (s : State) (kind n : Nat) : Bool := s.bit (fenceReg kind n).1 (fenceReg kind n).2

/-- Some unit that carries lines on the channel's route is fenced (R486). -/
def State.routeFenced (s : State) (ch : Nat) : Bool :=
  lineKinds.any (fun k => match s.routeUnit ch k with | some n => s.fenced k n | none => false)

/-- The place of a unit among the arbitration points, and of a channel's lines at its input. -/
def unitKey (kind n : Nat) : Nat := 16 * kind + n
def queueKey (kind n ch : Nat) : Nat := 64 * unitKey kind n + ch

/-- What waits at a unit input for a channel. -/
def State.waitingAt (s : State) (kind n ch : Nat) : List Item := s.queue.get (queueKey kind n ch)
def State.setWaiting (s : State) (kind n ch : Nat) (l : List Item) : State :=
  { s with queue := s.queue.set (queueKey kind n ch) l }

/-- A channel's state changed by `f`. -/
def State.modChan (s : State) (ch : Nat) (f : ChanSt → ChanSt) : State := { s with chan := s.chan.modify ch f }

/-- A stopped stream (R487). -/
def State.stopped (s : State) (ch : Nat) : Bool :=
  if ch < 32 then s.bit Reg.FC_STREAM_STOP_LO ch else s.bit Reg.FC_STREAM_STOP_HI (ch - 32)

/-! ### Entering a pavilion (R58, R60) -/

/-- The place of an item in its stream: the document's place, and the line's number (2^32 for a marker). -/
def itemKey : Item → Nat × Nat
  | .line l => (l.tag.idx, l.tag.line)
  | .marker m => (m.idx, 2 ^ 32)

/-- An item is at the unit that was the first of its chain when it was sent there: a line so occupies the Glasshouse (R75, R98). -/
def State.isAtFirst (s : State) (kind n ch : Nat) (it : Item) : Bool := (s.chan.get ch).atFirst.contains (unitKey kind n, itemKey it)

/-- An item leaves the first unit of its chain. -/
def State.leaveFirst (s : State) (kind n ch : Nat) (it : Item) : State :=
  s.modChan ch (fun c => { c with atFirst := c.atFirst.erase (unitKey kind n, itemKey it) })

/-- An item enters its home pavilion: a line begins a document there, a marker ends one and may open the window. A first
line of a document while a load runs closes the window, except where the lead decides. -/
def State.entered (s : State) (ch : Nat) (it : Item) : State :=
  let p := s.homePv ch
  match it with
  | .line l =>
    let c := s.chan.get ch
    let opens := decide (c.begun < l.tag.idx + 1)
    let s := if opens && !s.follows then s.abandonLoad p else s
    s.modChan ch (fun c => { c with begun := max c.begun (l.tag.idx + 1) })
  | .marker m =>
    let s := s.modChan ch (fun c => { c with begun := max c.begun (m.idx + 1), passed := max c.passed (m.idx + 1) })
    s.tryLoadStart p

/-- `entered`, where the item is at the first unit of its chain. -/
def State.enteredAt (s : State) (kind n ch : Nat) (it : Item) : State :=
  if s.isAtFirst kind n ch it then s.entered ch it else s

/-- A marker at the first unit of its chain has entered, and is there no longer. -/
def State.markerIn (s : State) (kind n ch : Nat) (m : Marker) : State :=
  (s.enteredAt kind n ch (.marker m)).leaveFirst kind n ch (.marker m)

/-! ### The Glasshouse: levels -/

/-- The configured width of a stream's lines as they begin: the width of its reception entry, or of its tunnel. -/
def State.streamWidth (s : State) (ch : Nat) : Nat :=
  let b := Reg.ST_BINDn ch
  let port := s.fld b Fld.ST_BINDn_PORT
  let ent := s.fld b Fld.ST_BINDn_ENTRY
  if s.on b Fld.ST_BINDn_TUNNEL then
    match (List.range 32).find? (fun k => s.on (Reg.BRG_TUNk_CFG k) Fld.BRG_TUNk_CFG_VALID
      && s.fld (Reg.BRG_TUNk_CFG k) Fld.BRG_TUNk_CFG_PORT == port
      && s.fld (Reg.BRG_TUNk_CFG k) Fld.BRG_TUNk_CFG_ENTRY == ent) with
    | some k => s.fld (Reg.BRG_TUNk_SHAPE k) Fld.BRG_TUNk_SHAPE_WIDTH
    | none => 0
  else s.fld (Reg.SPn_ENTk_SIZE port ent) Fld.SPn_ENTk_SIZE_WIDTH

/-- The space of a line in KiB (R81). -/
def lineKib (width : Nat) : Nat := (2 * width + 1023) / 1024

/-- The owner of a Glasshouse bank (R80). -/
def State.bankOwner (s : State) (bank : Nat) : Nat :=
  s.fld (Reg.PGL_BANK_OWNERk (bank / 8)) (Fld.PGL_BANK_OWNERk_OWNERj (bank % 8))

/-- A pavilion's capacity in KiB (R80). -/
def State.capacity (s : State) (p : Nat) : Nat := 256 * ((List.range 64).filter (fun b => s.bankOwner b == p)).length

/-- A pavilion's level, its watermarks as they act and its drop state (R82, R83, R87). -/
def State.pvLevel (s : State) (p : Nat) : Nat := s.fld (Reg.PGL_PVp_LEVEL p) Fld.PGL_PVp_LEVEL_LEVEL_KIB
def State.hwm (s : State) (p : Nat) : Nat := min (s.fld (Reg.PGL_PVp_WM p) Fld.PGL_PVp_WM_HWM_KIB) (s.capacity p)
def State.lwm (s : State) (p : Nat) : Nat := min (s.fld (Reg.PGL_PVp_WM p) Fld.PGL_PVp_WM_LWM_KIB) (s.hwm p)
def State.dropState (s : State) (p : Nat) : Bool := s.on (Reg.PGL_PVp_LEVEL p) Fld.PGL_PVp_LEVEL_DROP_STATE

/-- PGL_CH_LEVEL and PGL_CH_DROP_CNT show the channel that PGL_CH_SEL names. -/
def State.showChan (s : State) : State :=
  let ch := s.fld Reg.PGL_CH_SEL Fld.PGL_CH_SEL_CH
  let lv := if s.on (Reg.PGL_CHn_CFG ch) Fld.PGL_CHn_CFG_ACTIVE then (s.chan.get ch).level else 0
  (s.setFld Reg.PGL_CH_LEVEL Fld.PGL_CH_LEVEL_LEVEL_KIB lv).setReg Reg.PGL_CH_DROP_CNT (s.chan.get ch).dropCnt

/-- Space is released; at LWM or below the pavilion leaves drop state (R81, R83). -/
def State.release (s : State) (ch kib : Nat) : State :=
  let p := s.homePv ch
  let s := s.modChan ch (fun c => { c with level := c.level - kib })
  let s := s.setFld (Reg.PGL_PVp_LEVEL p) Fld.PGL_PVp_LEVEL_LEVEL_KIB (s.pvLevel p - kib)
  let s := if s.dropState p && decide (s.pvLevel p ≤ s.lwm p) then
    s.setFld (Reg.PGL_PVp_LEVEL p) Fld.PGL_PVp_LEVEL_DROP_STATE 0 else s
  s.showChan

/-- A line leaves the first unit of its chain, or is discarded there: its space is released (R81). -/
def State.freeLine (s : State) (kind n ch : Nat) (l : Line) : State :=
  if s.isAtFirst kind n ch (.line l) then (s.leaveFirst kind n ch (.line l)).release ch (lineKib (s.streamWidth ch)) else s

/-! ### Holds (R264) -/

/-- The configuration of context c of OF number o. -/
def ofCfg (o c : Nat) : Nat := Reg.PVp_OFu_CTXc_CFG (o / 2) (o % 2) c

/-- The context of an OF that serves a stream, and the output streams that a context feeds (R252). -/
def State.ofContext (s : State) (o ch : Nat) : Option Nat :=
  (List.range 8).find? (fun c => s.on (ofCfg o c) Fld.PVp_OFu_CTXc_CFG_VALID
    && s.fld (ofCfg o c) Fld.PVp_OFu_CTXc_CFG_STREAM == ch)
def State.ofFeeds (s : State) (o c : Nat) : List Nat :=
  s.fld (ofCfg o c) Fld.PVp_OFu_CTXc_CFG_OS_A
    :: (if s.on (ofCfg o c) Fld.PVp_OFu_CTXc_CFG_OS_B_EN then [s.fld (ofCfg o c) Fld.PVp_OFu_CTXc_CFG_OS_B] else [])

/-- The stream as which an MU passes on what it makes of a member's stream (R178): its reference member's. -/
def State.muOut (s : State) (mu ch : Nat) : Nat :=
  let f (c : Nat) (x : Fld) : Nat := s.fld (Reg.PVp_MUu_CTXc_CFG (mu / 2) (mu % 2) c) x
  match (List.range 8).find? (fun c => f c Fld.PVp_MUu_CTXc_CFG_VALID == 1 && f c Fld.PVp_MUu_CTXc_CFG_STREAM == ch) with
  | none => ch
  | some c => (((List.range 8).find? (fun k => f k Fld.PVp_MUu_CTXc_CFG_VALID == 1 && f k Fld.PVp_MUu_CTXc_CFG_REF == 1
      && f k Fld.PVp_MUu_CTXc_CFG_GROUP == f c Fld.PVp_MUu_CTXc_CFG_GROUP)).map (fun k => f k Fld.PVp_MUu_CTXc_CFG_STREAM)).getD ch

/-- The stream as which a GU's path passes on what it makes of a context's stream (R232): that of its CTX_A. -/
def State.guOut (s : State) (p ch : Nat) : Nat :=
  let f (c : Nat) (x : Fld) : Nat := s.fld (Reg.PVp_GU_CTXc_CFG p c) x
  match (List.range 8).find? (fun c => f c Fld.PVp_GU_CTXc_CFG_VALID == 1 && f c Fld.PVp_GU_CTXc_CFG_STREAM == ch) with
  | none => ch
  | some c => f (s.fld (Reg.PVp_GU_PATHq_CFG p (f c Fld.PVp_GU_CTXc_CFG_PATH)) Fld.PVp_GU_PATHq_CFG_CTX_A) Fld.PVp_GU_CTXc_CFG_STREAM

/-- The output streams that a stream's lines reach. -/
def State.outputs (s : State) (ch : Nat) : List Nat :=
  let a := match s.routeUnit ch 1 with | some mu => s.muOut mu ch | none => ch
  let b := match s.routeUnit a 2 with | some p => s.guOut p a | none => a
  match s.routeUnit b 4 with
  | none => []
  | some o => match s.ofContext o b with | some c => s.ofFeeds o c | none => []

/-- An output stream that the stream's lines reach holds an item: it holds its OF context, and so every unit of the chain back to the
Glasshouse (R264). -/
def State.heldBack (s : State) (ch : Nat) : Bool := (s.outputs ch).any (fun n => !(s.os.get n).held.isEmpty)

/-- When the stream's last hold ended. -/
def State.holdEnd (s : State) (ch : Nat) : Nat := (s.outputs ch).foldl (fun a n => max a (s.os.get n).freedAt) 0

/-! ### Passing on -/

/-- A marker passes an LU: it is the context's first item of a document whose lines were all dropped (R144, R166). -/
def State.luMarker (s : State) (lu ch : Nat) (m : Marker) : State :=
  let s := s.markerIn 0 lu ch m
  if s.fenced 0 lu then s
  else match s.luContext lu ch m.idx with
    | some c => s.luItem lu c m.doc
    | none => s

/-- Items of a channel still are at another unit of the kind: those of an earlier document, at the unit that its route named (R98). What
the present unit holds keeps behind them. -/
def State.elder (s : State) (kind n ch : Nat) : Bool :=
  (List.range (unitCount kind)).any (fun m => m != n
    && (!(s.waitingAt kind m ch).isEmpty || (s.arb.get (unitKey kind m)).taken.any (fun t => t.1 == ch)))

/-- An item goes to the first unit of `kinds` on its channel's route. A fenced unit takes no line and passes markers on
(R485), but for an OF, whose output streams write the header record. An LU with nothing before it passes a marker at once. -/
def State.sendTo (s : State) (ch : Nat) (it : Item) : List Nat → State
  | [] => s
  | k :: rest =>
    match s.routeUnit ch k with
    | none => State.sendTo s ch it rest
    | some n =>
      let w := s.waitingAt k n ch
      match it with
      | .line l => if s.fenced k n then s.freeLine k n ch l else s.setWaiting k n ch (w ++ [it])
      | .marker m =>
        let busy := (s.arb.get (unitKey k n)).taken.any (fun t => t.1 == ch) || s.elder k n ch
        if k = 0 ∧ w = [] ∧ busy = false then State.sendTo (s.luMarker n ch m) ch it rest
        else if k ≠ 4 ∧ s.fenced k n then State.sendTo (s.markerIn k n ch m) ch it rest
        else s.setWaiting k n ch (w ++ [it])

/-- An item goes to the first unit of its channel's chain. -/
def State.sendFirst (s : State) (ch : Nat) (it : Item) : State :=
  match s.firstUnit ch with
  | none => s
  | some (k, n) => (s.modChan ch (fun c => { c with atFirst := c.atFirst ++ [(unitKey k n, itemKey it)] })).sendTo ch it lineKinds

/-- The markers at the front of an LU's channel pass on. -/
def State.drainMarkers (s : State) (lu ch : Nat) : List Item → State
  | .marker m :: rest =>
    State.drainMarkers (((s.setWaiting 0 lu ch rest).luMarker lu ch m).sendTo ch (.marker m) (kindsAfter 0)) lu ch rest
  | _ => s

/-- The bits that the marker behind a unit's line puts on it: TRUNC and SHORT_DOC, where the marker waits right behind the document's last
line (R151; a unit keeps no line back for a marker, notes/assumptions/92.md). -/
def markBits (flags idx : Nat) : List Item → Nat
  | .marker m :: _ =>
    if m.idx = idx then
      let f := if m.trunc then setFlag flags flagTrunc else flags
      if m.short then setFlag f flagShort else f
    else flags
  | _ => flags

/-- A line as the marker behind it at its unit leaves it. -/
def State.marked (s : State) (kind n ch : Nat) (l : Line) : Line :=
  { l with tag := { l.tag with flags := markBits l.tag.flags l.tag.idx (s.waitingAt kind n ch) } }

/-! ### Admission and drops -/

/-- The tests of R82 for a line of `kib` KiB: none admits, some reason drops. -/
def State.admitTest (s : State) (ch kib : Nat) : Option Nat :=
  let p := s.homePv ch
  let quota := min (s.fld (Reg.PGL_CHn_QUOTA ch) Fld.PGL_CHn_QUOTA_QUOTA_KIB) (s.capacity p)
  if quota < (s.chan.get ch).level + kib then some 1
  else if s.dropState p && (s.pav.get p).victim == some ch then some 0
  else if s.capacity p < s.pvLevel p + kib then some 2
  else none

/-- The victim of a pavilion (R83): the running channel of greatest PRIORITY, the highest-numbered on a tie. -/
def State.chooseVictim (s : State) (p : Nat) : Option Nat :=
  ((List.range 64).filter (fun n => s.homePv n == p && s.on (Reg.PGL_CHn_CFG n) Fld.PGL_CHn_CFG_ACTIVE
    && !s.stopped n && decide (0 < (s.chan.get n).level))).foldl
    (fun best n => match best with
      | none => some n
      | some b => if s.fld (Reg.PGL_CHn_CFG b) Fld.PGL_CHn_CFG_PRIORITY ≤ s.fld (Reg.PGL_CHn_CFG n) Fld.PGL_CHn_CFG_PRIORITY
        then some n else some b) none

/-- An admission that brings the level to HWM or above enters drop state, and chooses the victim (R83). Where no channel is running
there is none, and VICTIM keeps what it shows (notes/assumptions/49.md). -/
def State.enterDrop (s : State) (p : Nat) : State :=
  if !s.dropState p && decide (s.hwm p ≤ s.pvLevel p) then
    let v := s.chooseVictim p
    let s := { s with pav := s.pav.modify p (fun x => { x with victim := v }) }
    let s := match v with
      | some v => s.setFld (Reg.PGL_PVp_LEVEL p) Fld.PGL_PVp_LEVEL_VICTIM v
      | none => s
    s.setFld (Reg.PGL_PVp_LEVEL p) Fld.PGL_PVp_LEVEL_DROP_STATE 1
  else s

/-- A drop is counted and captured, and the channel's next admitted line carries DROP_BEFORE (R85, R86). -/
def State.dropLine (s : State) (ch reason : Nat) : State :=
  let s := s.count Reg.PGL_DROP_CNT
  let s := s.modChan ch (fun c => { c with
    dropCnt := BitVec.ofNat 32 (min 0xFFFFFFFF (c.dropCnt.toNat + 1)), dropDue := true })
  let s := if s.bit Reg.PGL_DROP_LAST 31 then s
    else s.setReg Reg.PGL_DROP_LAST (BitVec.ofNat 32 (ch % 64 + reason * 2 ^ 6 + s.homePv ch * 2 ^ 8 + 2 ^ 31))
  s.showChan

/-- A line is admitted: it takes its space, carries DROP_BEFORE where one is due, and goes to the first unit (R81 to R85). -/
def State.admitLine (s : State) (ch : Nat) (l : Line) : State :=
  let kib := lineKib (s.streamWidth ch)
  let c := s.chan.get ch
  let l := if c.dropDue then { l with tag := { l.tag with flags := setFlag l.tag.flags flagDrop } } else l
  let p := s.homePv ch
  let s := s.modChan ch (fun c => { c with level := c.level + kib, dropDue := false })
  let s := s.setFld (Reg.PGL_PVp_LEVEL p) Fld.PGL_PVp_LEVEL_LEVEL_KIB (s.pvLevel p + kib)
  ((s.enterDrop p).showChan).sendFirst ch (.line l)

/-- The REASON by which a lead tells that a line is not admitted for a cause other than the tests of R82 (R75, R486, R487, R586); a drop
with REASON ECC is never mirrored (R94; notes/assumptions/127.md). -/
def notAdmitted : Nat := 3

/-- A channel admits no line: a stream without a first unit (R75), a stopped stream (R487), a stream before a fenced unit (R486), a
document that waits for its spare (R586). -/
def State.shut (s : State) (ch : Nat) : Bool :=
  s.firstUnit ch == none || s.stopped ch || s.routeFenced ch || (s.stream.get ch).noAdmit

/-- A line that its channel does not admit is discarded, and is no drop. -/
def State.shutLine (s : State) (ch : Nat) (l : Line) : State := if s.firstUnit ch = none then s.entered ch (.line l) else s

/-- A line that the lead decides: it is admitted or dropped as the decision says. A line admitted for which a following
device has no space is lost, and signalled (R92, R93). `shut`: the channel admitted no line when it began. -/
def State.applyAdmission (s : State) (ch : Nat) (l : Line) (shut : Bool) (outcome reason : Nat) : State :=
  if shut || (outcome == 0 && reason == notAdmitted) then s.shutLine ch l
  else if outcome = 0 then s.dropLine ch reason
  else if s.capacity (s.homePv ch) < s.pvLevel (s.homePv ch) + lineKib (s.streamWidth ch) then
    (s.setBit Reg.PGL_STATUS 0).raiseError 54 0
  else s.admitLine ch l

/-- The device decides a line of its own (R82), and a lead tells its partner (R91): outcome 1 admits. -/
def State.decideLine (s : State) (ch seqNo : Nat) (l : Line) : State :=
  if s.shut ch then (s.sendDec 0 ch 0 0 notAdmitted seqNo (0, 0, 0)).shutLine ch l
  else match s.admitTest ch (lineKib (s.streamWidth ch)) with
  | none => (s.sendDec 0 ch 0 1 0 seqNo (0, 0, 0)).admitLine ch l
  | some r => (s.sendDec 0 ch 0 0 r seqNo (0, 0, 0)).dropLine ch r

/-- An item joins what waits on a channel, behind what is classified and before what is not. -/
def putWait (x : WaitLine) (l : List WaitLine) : List WaitLine :=
  let isIn (w : WaitLine) : Bool := w.stage == 1 || w.stage == 2
  l.takeWhile isIn ++ x :: l.dropWhile isIn

/-- A classified line begins on its channel (R82, R91, R92). Every such line counts in the admission sequence, which starts at 0
(notes/assumptions/127.md). -/
def State.beginLine (s : State) (ch : Nat) (l : Line) : State :=
  let n := (s.chan.get ch).seq
  let s := s.modChan ch (fun c => { c with seq := (c.seq + 1) % 2 ^ 32 })
  if s.follows then
    match (s.chan.get ch).adms.find? (fun a => a.1 == n) with
    | some a => (s.modChan ch (fun c => { c with adms := c.adms.filter (fun x => x.1 != n) })).applyAdmission ch l (s.shut ch) a.2.1 a.2.2
    | none => s.modChan ch (fun c => { c with wait := putWait ⟨1, n, c.beganAt, l, false, s.shut ch, none⟩ c.wait })
  else s.decideLine ch n l

/-- A line of a document that an admitted device does not process (R516): it counts in the admission sequence as on the lead. -/
def State.passLine (s : State) (ch : Nat) : State :=
  let n := (s.chan.get ch).seq
  s.modChan ch (fun c => { c with seq := (c.seq + 1) % 2 ^ 32, adms := c.adms.filter (fun a => a.1 != n) })

/-- A document-end marker goes down its channel (R144). Where no unit takes it, the document has passed at once. -/
def State.sendMarker (s : State) (ch : Nat) (m : Marker) : State :=
  if s.firstUnit ch = none then s.entered ch (.marker m) else s.sendFirst ch (.marker m)

/-- A document-end marker goes behind its document's last line: on a following device it waits while lines before it wait for the lead
(R144, R147). -/
def State.beginMarker (s : State) (ch : Nat) (m : Marker) : State :=
  if (s.chan.get ch).wait.any (fun w => w.stage == 1 || w.stage == 2) then
    s.modChan ch (fun c => { c with wait := putWait ⟨2, 0, 0, default, false, false, some m⟩ c.wait })
  else s.sendMarker ch m

/-- What waits at a unit's input is discarded, and the space it held in the Glasshouse is released (R486); markers go on. -/
def State.emptyUnit (s : State) (kind n : Nat) : State :=
  let a := s.arb.get (unitKey kind n)
  let s := { s with arb := s.arb.set (unitKey kind n) { a with taken := none } }
  let s := match a.taken with
    | some (ch, l) => s.freeLine kind n ch l
    | none => s
  (List.range 64).foldl (fun s ch =>
    let w := s.waitingAt kind n ch
    let s := s.setWaiting kind n ch []
    w.foldl (fun s it => match it with
      | .line l => s.freeLine kind n ch l
      | .marker m => if kind = 4 then s.setWaiting kind n ch (s.waitingAt kind n ch ++ [it])
        else (s.markerIn kind n ch m).sendTo ch it (kindsAfter kind)) s) s

/-! ### The weighted round robin (R78, R79) -/

/-- What an arbitration point knows of a channel it serves. -/
structure DrrIn where
  weight : Nat
  width : Nat
  waiting : Bool
  deriving DecidableEq, Repr

/-- One visit of a pass: channel index `c`, with the credits and the grant so far. -/
def drrVisit (ins : List DrrIn) (wmax : Nat) (st : List Nat × Option Nat) (c : Nat) : List Nat × Option Nat :=
  let i := ins.getD c ⟨1, 0, false⟩
  if st.2 = none ∧ i.waiting = true then
    let cr := min (st.1.getD c 0 + 64 * i.weight) (2 * wmax)
    if i.width ≤ cr then (st.1.set c (cr - i.width), some c) else (st.1.set c cr, none)
  else st

/-- One pass over the channels, from the one after `last`. -/
def drrPass (ins : List DrrIn) (wmax last : Nat) (st : List Nat × Option Nat) : List Nat × Option Nat :=
  ((List.range ins.length).map (fun k => (last + k + 1) % ins.length)).foldl (drrVisit ins wmax) st

/-- All the passes of one choice. A channel's credit gains at least 64 pixels a pass up to twice the largest width, so
2,049 passes cover every width of 16 bits. -/
def drrRun (ins : List DrrIn) (wmax last : Nat) : Nat → List Nat × Option Nat → List Nat × Option Nat
  | 0, st => st
  | fuel + 1, st =>
    let st := drrPass ins wmax last st
    if st.2 = none then drrRun ins wmax last fuel st else st

/-- The choice of R78: the credits and the index granted. -/
def drrChoose (ins : List DrrIn) (last : Nat) (credits : List Nat) : List Nat × Option Nat :=
  let wmax := ins.foldl (fun a i => max a i.width) 0
  let r := if ins.any (·.waiting) then drrRun ins wmax last 2049 (credits, none) else (credits, none)
  ((List.range ins.length).map (fun k => if (ins.getD k ⟨1, 0, false⟩).waiting then r.1.getD k 0 else 0), r.2)

/-- The channels that an arbitration point serves, in ascending order: those whose route names the unit, and while lines of an earlier
document still wait there those whose route did (R98). -/
def State.pointChans (s : State) (kind n : Nat) : List Nat :=
  (List.range 64).filter (fun ch => s.routeUnit ch kind == some n || !(s.waitingAt kind n ch).isEmpty)

/-- A channel waits at a unit input: the oldest item there is a line (R76). -/
def isLine : Item → Bool
  | .line _ => true
  | .marker _ => false

/-- A free slot of unit `n` of a kind: the round robin grants it to one waiting channel, whose line the unit input takes
(R76, R78). A channel whose output is held does not count as waiting (R264). -/
def State.grant (s : State) (kind n : Nat) : State :=
  let a := s.arb.get (unitKey kind n)
  if a.taken.isSome || s.fenced kind n then s
  else
    let chs := s.pointChans kind n
    let ins := chs.map (fun ch => (⟨max 1 (s.fld (Reg.PGL_CHn_CFG ch) Fld.PGL_CHn_CFG_WEIGHT), s.streamWidth ch,
      ((s.waitingAt kind n ch).head?.map isLine).getD false && !(s.routeUnit ch kind == some n && s.elder kind n ch)
        && !s.heldBack ch⟩ : DrrIn))
    let last := if a.started then a.last else chs.length - 1
    let r := drrChoose ins last (chs.map (fun ch => a.credit.get ch))
    let credit := (chs.zip r.1).foldl (fun (t : Table Nat) e => Table.set t e.1 e.2) []
    match r.2 with
    | none => { s with arb := s.arb.set (unitKey kind n) { a with credit := credit } }
    | some c =>
      let ch := chs.getD c 0
      match s.waitingAt kind n ch with
      | .line l :: rest =>
        let a' : ArbSt := ⟨true, c, credit, some (ch, l)⟩
        let s := { s with arb := s.arb.set (unitKey kind n) a' }
        (s.setWaiting kind n ch rest).enteredAt kind n ch (.line l)
      | _ => s

/-- A recipe swap that changes the channels of a point starts its credits and scan again (R79). -/
def State.resetPoint (s : State) (kind : Nat) (n : Option Nat) : State :=
  match n with
  | none => s
  | some n => { s with arb := s.arb.modify (unitKey kind n) (fun a => { a with started := false, last := 0, credit := [] }) }

/-- An arbitration point grants its unit input (R78). A BU has no input of its own: it snoops (R70). -/
def execPglGrant (k : UnitKind) (n : Nat) (s : State) : Host.Outcome State Fault Refusal :=
  answer s (k != .bu && decide (n < unitCount k.code)) (s.grant k.code n)

/-! ### A unit reads the line it took -/

/-- The unit reads its taken line. The first unit of a chain reads it from the Glasshouse: each corrected word is counted and signalled
(R88), an uncorrectable word abandons the line as a drop (R89), and the line's space is released (R81). -/
def State.readTaken (s : State) (kind n : Nat) (gh : Ecc) : State × Option (Nat × Line) :=
  let a := s.arb.get (unitKey kind n)
  match a.taken with
  | none => (s, none)
  | some (ch, l) =>
    let s := { s with arb := s.arb.set (unitKey kind n) { a with taken := none } }
    if s.isAtFirst kind n ch (.line l) then
      let s := s.freeLine kind n ch l
      match gh with
      | .ok => (s, some (ch, l))
      | .corrected k => ((s.countN Reg.PGL_GH_CORR_CNT k).raiseCorrs 49 0 k, some (ch, l))
      | .uncorr bank =>
        let s := s.count Reg.PGL_GH_UNCORR_CNT
        let s := if s.bit Reg.PGL_GH_ERR 31 then s else s.setReg Reg.PGL_GH_ERR (BitVec.ofNat 32 (bank % 64 + 2 ^ 31))
        ((s.raiseError 49 0).dropLine ch 3, none)
    else (s, some (ch, l))

/-- A line on a following device has no decision of the lead 2 µs after it began: DECISION_TIMEOUT and source 54 tell (R93); the line
waits on. -/
def WaitLine.overdue (now : Nat) (w : WaitLine) : Bool := w.stage == 1 && !w.late && decide (w.began + 2000 ≤ now)

def doAdmissionTimeout (ch : Nat) (s : State) : State :=
  let l := (s.chan.get ch).wait
  if s.follows && l.any (fun w => w.overdue s.now) then
    ((s.modChan ch (fun c => { c with wait := l.map (fun w => if w.overdue s.now then { w with late := true } else w) })).setBit
      Reg.PGL_STATUS 1).raiseErrors 54 0 (l.filter (fun w => w.overdue s.now)).length
  else s

def execAdmissionDecisionTimeout (ch : Nat) (s : State) : Host.Outcome State Fault Refusal :=
  answer s (ch < 64) (doAdmissionTimeout ch s)

/-! ### The LU reads its line (spec/06) -/

/-- The markers behind a line that has left LU `lu` pass, and where it was the last of its channel there, those that waited for it at the LU
that the route names now (R98). -/
def State.luPassed (s : State) (lu ch : Nat) : State :=
  let s := s.drainMarkers lu ch (s.waitingAt 0 lu ch)
  match s.routeUnit ch 0 with
  | some n => if n = lu ∨ s.elder 0 n ch = true then s else s.drainMarkers n ch (s.waitingAt 0 n ch)
  | none => s

/-- An LU takes its line: its context swaps to the recipe of the document, fixes the switched bank, and processes the line,
which goes on to the next unit of the chain (R59, R154, R166). Markers behind it pass, also where the line was lost (R89). -/
def doLuLine (lu : Nat) (gh : Ecc) (tblCorr : Nat) (tblBad lutBad : List Nat) (s : State) : State :=
  if s.fenced 0 lu then s
  else
    let from_ := (s.arb.get (unitKey 0 lu)).taken.map (·.1)
    let s := match s.readTaken 0 lu gh with
      | (s, none) => s
      | (s, some (ch, l)) =>
        let l := s.marked 0 lu ch l
        match s.luContext lu ch l.tag.idx with
        | none => s.sendTo ch (.line l) (kindsAfter 0)
        | some c =>
          let s := (s.swapAt ch l.tag.idx (ownerKey 0 lu (1 + c)) [] true).luItem lu c l.tag.doc
          let r := s.luProcess lu c l tblCorr tblBad lutBad
          r.1.sendTo ch (.line r.2) (kindsAfter 0)
    match from_ with
    | none => s
    | some ch => s.luPassed lu ch

def execLuLine (lu : Nat) (gh : Ecc) (tblCorr : Nat) (tblBad lutBad : List Nat) (s : State) :
    Host.Outcome State Fault Refusal :=
  answer s (lu < 16) (doLuLine lu gh tblCorr tblBad lutBad s)

end Sys2Proof.Machine
end

