-- ==== Sys2Proof/Machine/Stream.lean ====
section
/-! DEFINITION. Streams and documents (spec/05): segmenters and their edges, the classification of a delivered line against its
document window, the opening and closing of documents. -/

namespace Sys2Proof.Machine

/-! ### Registers of a stream -/

/-- A stream's state changed by `f`. -/
def State.modStream (s : State) (n : Nat) (f : StreamSt → StreamSt) : State := { s with stream := s.stream.modify n f }

/-- A continuous stream, and the segmenter of another (R129, R146). -/
def State.isCont (s : State) (n : Nat) : Bool := s.on (Reg.ST_BINDn n) Fld.ST_BINDn_CONT
def State.segOf (s : State) (n : Nat) : SegSt := s.seg.get (s.fld (Reg.ST_BINDn n) Fld.ST_BINDn_SEG)

/-- Position `p` is at or past `q`, by the signed 32-bit difference (R132). -/
def posGe (p q : Nat) : Bool := decide (0 ≤ diff32 p q)

/-- The start of a stream's window for leading edge `lead`, and its end for trailing edge `trail` (R137). -/
def State.winStart (s : State) (n lead : Nat) : Nat :=
  unsigned 32 (lead + (s.reg (Reg.ST_OFFSETn n)).toNat - s.fld (Reg.ST_MARGINn n) Fld.ST_MARGINn_LEAD)
def State.winEnd (s : State) (n trail : Nat) : Nat :=
  (trail + (s.reg (Reg.ST_OFFSETn n)).toNat + s.fld (Reg.ST_MARGINn n) Fld.ST_MARGINn_TRAIL) % 2 ^ 32

/-- A MAX_LINES of 0 or above 32,768 acts as 32,768 (R141). -/
def State.maxLines (s : State) (n : Nat) : Nat :=
  let v := s.fld (Reg.STn_DOC_MAX_LINES n) Fld.STn_DOC_MAX_LINES_LINES
  if v = 0 ∨ 32768 < v then 32768 else v

/-- The minimum length in force (R141, R143). -/
def State.minLines (s : State) (n : Nat) : Nat := s.fld (Reg.STn_DOC_MIN_LINES n) Fld.STn_DOC_MIN_LINES_LINES

/-! ### Spares at a document's opening (R486, R492, R586) -/

/-- A move's place on the route: the channel's route names the unit `to` in place of `from`. -/
def State.reroute (s : State) (ch kind src dst : Nat) : State :=
  if s.fld (Reg.PGL_CHn_ROUTE ch) (routeFld kind) = src then s.setFld (Reg.PGL_CHn_ROUTE ch) (routeFld kind) dst else s

/-- PGL_CHn_ROUTE.SPARE_IN_USE shows whether some unit of the route is a spare. -/
def State.showSpare (s : State) (ch : Nat) : State :=
  s.setFld (Reg.PGL_CHn_ROUTE ch) Fld.PGL_CHn_ROUTE_SPARE_IN_USE
    (b2n (s.lodge.moves.any (fun m => m.ch == ch && m.moved)))

/-- A spare that serves no stream any longer holds no staged bank (R45). -/
def State.dropSpare (s : State) (m : MoveSt) : State :=
  if s.lodge.moves.any (fun x => x.kind == m.kind && x.spare == m.spare && x.ch != m.ch) then s
  else
    let p := s.homePv m.ch
    let pv := s.pav.get p
    let rest := pv.staged.filter (fun x => x.owner / 64 != m.kind * 64 + m.spare)
    ({ s with pav := s.pav.set p { pv with staged := rest } }).pvPendingBit p (unitStaged rest)

/-- At a document's opening the stream goes back to a revived unit, or moves to its loaded spare (R486, R492). -/
def State.moveStep (s : State) (m : MoveSt) : State × Option MoveSt :=
  if m.back then ((s.dropSpare m).reroute m.ch m.kind m.spare m.unit, none)
  else if m.moved then (s, some m)
  else if m.loadUntil = none then (s.reroute m.ch m.kind m.unit m.spare, some { m with moved := true })
  else (s, some m)

/-- The moves of a stream are carried out as its next document opens; while a load has not completed, the document admits
no line (R586). A stream stopped for a revived tile resumes (R492). -/
def State.openMoves (s : State) (n : Nat) : State :=
  let r := s.lodge.moves.foldl (fun (a : State × List MoveSt) m =>
    if m.ch = n then
      let x := a.1.moveStep m
      (x.1, a.2 ++ x.2.toList)
    else (a.1, a.2 ++ [m])) (s, [])
  let s := { r.1 with lodge := { r.1.lodge with moves := r.2 } }
  let s := s.showSpare n
  let s := if s.lodge.resume.contains n then
      let s := { s with lodge := { s.lodge with resume := s.lodge.resume.filter (· != n) } }
      let s := s.modStream n (fun st => { st with stopTo := st.idx })
      if n < 32 then s.putBit Reg.FC_STREAM_STOP_LO n false else s.putBit Reg.FC_STREAM_STOP_HI (n - 32) false
    else s
  s.modStream n (fun st => { st with noAdmit := s.lodge.moves.any (fun m => m.ch == n && !m.moved) })

/-- The PGL and ST registers of a stream swap as the first line of its document is classified (R59): a moved stream stays
on its spare, and a point whose channels change starts again (R79). -/
def State.swapStream (s : State) (n idx : Nat) : State :=
  let old := lineKinds.map (fun k => (k, s.routeUnit n k))
  let s := s.swapAt n idx (ownerKey 5 n 0) [] false
  let s := s.lodge.moves.foldl (fun s m => if m.ch = n ∧ m.moved then s.reroute n m.kind m.unit m.spare else s) s
  old.foldl (fun s o => if s.routeUnit n o.1 = o.2 then s else (s.resetPoint o.1 o.2).resetPoint o.1 (s.routeUnit n o.1)) s

/-! ### Documents open and close -/

/-- A document opens on a stream (R137, R141): its limits are latched. -/
def State.openDoc (s : State) (n doc lead : Nat) : State :=
  let st := s.stream.get n
  let s := (s.swapStream n st.idx).openMoves n
  let minL := s.minLines n
  let maxL := s.maxLines n
  let s := s.modStream n (fun st => { st with
    isOpen := true, doc := doc, lead := lead, minL := minL, maxL := maxL, next := 0 })
  (s.setReg (Reg.STn_DOC_NUM n) (BitVec.ofNat 32 doc)).setBit (Reg.STn_STATUS n) 1

/-- A document of a stream ends with `used` line numbers (R142 to R146), its trailing edge declared at `trail` by then: counted, a latch
point on REF_STREAM (R54), its marker sent. -/
def State.endDoc (s : State) (n used minL : Nat) (trunc : Bool) (trail : Option Nat) : State :=
  let st := s.stream.get n
  let cont := s.isCont n
  let short := !cont && decide (used < minL)
  let s := (s.count (Reg.STn_CNTk n 0)).setBit (Reg.STn_STATUS n) 6
  let s := if short then s.countAndSet (Reg.STn_CNTk n 1) (Reg.STn_STATUS n) 2 else s
  let s := if trunc then s.countAndSet (Reg.STn_CNTk n 2) (Reg.STn_STATUS n) 3 else s
  let s := (s.setReg (Reg.STn_LINE_NUM n) 0).putBit (Reg.STn_STATUS n) 1 false
  let m : Marker := ⟨n, st.doc, st.idx, used, trunc, short, st.lead, if cont then none else trail⟩
  let s := s.modStream n (fun st => { st with isOpen := false, idx := st.idx + 1, next := 0, waitJoin := false })
  let s := s.latchPoint n st.idx st.doc
  if st.waitJoin then s.entered n (.marker m) else s.beginMarker n m

/-- The open document of a stream closes (R142 to R146), with the documents of its segmenter as `docs` has them. -/
def State.closeDoc (s : State) (n : Nat) (trunc : Bool) (docs : List DocDecl) : State :=
  let st := s.stream.get n
  s.endDoc n st.next st.minL trunc ((docs[st.idx]?).bind (·.trail))

/-- The open document of a stream closes at once with TRUNC, and lines of its window that follow are gap lines (R145, R146,
R486). -/
def State.truncateNow (s : State) (n : Nat) : State :=
  let st := s.stream.get n
  if st.isOpen then
    let s := if s.isCont n then s else s.modStream n (fun st => { st with gapIdx := some st.idx })
    s.closeDoc n true (s.segOf n).docs
  else s

/-- `truncateNow`, on a following device behind the lines that the lead has classified and it not yet (R147). -/
def State.truncateDoc (s : State) (n : Nat) : State :=
  if (s.chan.get n).wait.any (fun w => w.stage == 0) then
    s.modChan n (fun c => { c with wait := c.wait ++ [⟨3, 0, 0, default, false, false, none⟩] })
  else s.truncateNow n

/-- A line of the open document takes its number (R140), with TRUNC and SHORT_DOC as it earns them (R142, R143), and begins
on its channel; `lastLine` is the last line of R137. -/
def State.numberLine (s : State) (n : Nat) (l : Line) (lastLine : Bool) (docs : List DocDecl) : State :=
  let st := s.stream.get n
  let cont := s.isCont n
  let atMax := st.next + 1 == st.maxL
  let trunc := atMax && !lastLine && !cont
  let closing := atMax || lastLine
  let short := closing && !cont && decide (st.next + 1 < st.minL)
  let flags := if trunc then setFlag l.tag.flags flagTrunc else l.tag.flags
  let flags := if short then setFlag flags flagShort else flags
  let tag : Tag := { l.tag with
    stream := n, flags := flags, doc := st.doc, line := st.next, idx := st.idx, lead := st.lead, last := closing }
  let s := s.modStream n (fun st => { st with next := st.next + 1 })
  let s := s.setReg (Reg.STn_LINE_NUM n) (BitVec.ofNat 32 (st.next + 1))
  let s := if st.waitJoin then s.passLine n else s.beginLine n { l with tag := tag }
  if closing then
    let s := if trunc then s.modStream n (fun st => { st with gapIdx := some st.idx }) else s
    s.closeDoc n trunc docs
  else s

/-- A gap line is discarded and counted (R139). -/
def State.gapLine (s : State) (n : Nat) : State := s.count (Reg.STn_CNTk n 3)

/-- A line of a continuous stream (R146): blocks of MAX_LINES lines, numbered by the stream's own counter. The leading edge that a block
reports is the position of its first line (notes/assumptions/128.md). -/
def State.classifyCont (s : State) (n : Nat) (l : Line) : State :=
  let st := s.stream.get n
  let s := if st.isOpen then s else
    (s.modStream n (fun st => { st with blocks := (st.blocks + 1) % 2 ^ 32 })).openDoc n st.blocks l.tag.enc
  s.numberLine n l false []

/-- Classification of a line at position `p` against its document window (R137), with the edges `docs` in force at its reference event;
every document that the line has passed takes one unit of `fuel`. -/
def State.classifyDoc (docs : List DocDecl) : Nat → State → Nat → Line → State
  | 0, s, n, _ => s.gapLine n
  | fuel + 1, s, n, l =>
    let st := s.stream.get n
    let p := l.tag.enc
    let passed (i : Nat) : Bool := match (docs[i]?).bind (·.trail) with
      | some t => posGe p (s.winEnd n t)
      | none => false
    if st.isOpen then
      if passed st.idx then
        State.classifyDoc docs fuel ((s.setBit (Reg.STn_STATUS n) 4).closeDoc n false docs) n l
      else
        let lastLine := match (docs[st.idx]?).bind (·.trail) with
          | some t => decide (0 ≤ diff32 p (s.winEnd n t) * 64 + s.fld (Reg.ST_PITCHn n) Fld.ST_PITCHn_PITCH)
          | none => false
        s.numberLine n l lastLine docs
    else if st.gapIdx.any (fun g => !passed g) then s.gapLine n
    else
      let s := s.modStream n (fun st => { st with gapIdx := none })
      match docs[st.idx]? with
      | none => s.gapLine n
      | some d =>
        if passed st.idx then
          let s := s.modStream n (fun st => { st with doc := d.doc, lead := d.lead })
          let s := (s.setReg (Reg.STn_DOC_NUM n) (BitVec.ofNat 32 d.doc)).setBit (Reg.STn_STATUS n) 4
          State.classifyDoc docs fuel (s.endDoc n 0 (s.minLines n) false d.trail) n l
        else if posGe p (s.winStart n d.lead) then
          let s := s.openDoc n d.doc d.lead
          let lastLine := match d.trail with
            | some t => decide (0 ≤ diff32 p (s.winEnd n t) * 64 + s.fld (Reg.ST_PITCHn n) Fld.ST_PITCHn_PITCH)
            | none => false
          s.numberLine n l lastLine docs
        else s.gapLine n

/-- How far a segmenter has come: twice its documents, less one while the newest has no trailing edge. -/
def edgeMark (docs : List DocDecl) : Nat := 2 * docs.length - b2n (docs.getLast?.any (fun d => d.trail.isNone))

/-- The documents as they stood at a mark. -/
def docsAt (docs : List DocDecl) (mark : Nat) : List DocDecl :=
  let l := docs.take ((mark + 1) / 2)
  if mark % 2 = 0 then l else l.dropLast ++ (l.getLast?.map (fun d => { d with trail := none })).toList

/-- A line with its capture is classified (R137, R146) by the edges declared at its reference event. -/
def State.classify (s : State) (n : Nat) (l : Line) (mark : Nat) : State :=
  if s.isCont n then s.classifyCont n l
  else
    let docs := docsAt (s.segOf n).docs mark
    State.classifyDoc docs (docs.length + 2) s n l

/-! ### Segmenters -/

/-- A segmenter's state changed by `f`. -/
def State.modSeg (s : State) (g : Nat) (f : SegSt → SegSt) : State := { s with seg := s.seg.modify g f }

/-- A line of BG_STREAM is a document line (R135). -/
def State.isDocLine (s : State) (g : Nat) (px : List Nat) : Bool :=
  let win := Reg.ST_SEGs_BG_WIN g
  let thr := Reg.ST_SEGs_BG_THR g
  let x0 := s.fld win Fld.ST_SEGs_BG_WIN_X0
  let x1 := s.fld win Fld.ST_SEGs_BG_WIN_X1
  let lv : Int := s.fld thr Fld.ST_SEGs_BG_THR_BG_LEVEL
  let d := s.fld thr Fld.ST_SEGs_BG_THR_DELTA
  let cols := (px.take (x1 + 1)).drop x0
  decide (s.fld (Reg.ST_SEGs_BG_RUN g) Fld.ST_SEGs_BG_RUN_MIN_PX ≤ (cols.filter (fun (v : Nat) => decide (d < ((v : Int) - lv).natAbs))).length)

/-- A line of BG_STREAM extends the run of document lines or of background lines; the position of a run's first line is
kept (R133, R135). -/
def State.bgLine (s : State) (n : Nat) (l : Line) : State :=
  (List.range 4).foldl (fun s g =>
    if s.fld (Reg.ST_SEGs_CFG g) Fld.ST_SEGs_CFG_SRC = 2 ∧ s.fld (Reg.ST_SEGs_CFG g) Fld.ST_SEGs_CFG_BG_STREAM = n then
      if s.isDocLine g (l.px.headD []) then
        s.modSeg g (fun x => { x with
          onPos := if x.onRun = 0 then l.tag.enc else x.onPos, onRun := min 255 (x.onRun + 1), offRun := 0 })
      else
        s.modSeg g (fun x => { x with
          offPos := if x.offRun = 0 then l.tag.enc else x.offPos, offRun := min 255 (x.offRun + 1), onRun := 0 })
    else s) s

/-- The position of an encoder (R302). -/
def State.encPos (s : State) (k : Nat) : Nat := (s.reg (Reg.TB_ENCk_POS k)).toNat
def State.segPos (s : State) (g : Nat) : Nat := s.encPos (s.fld (Reg.ST_SEGs_CFG g) Fld.ST_SEGs_CFG_ENC)

/-- PRESENT of a segmenter. -/
def State.present (s : State) (g : Nat) : Bool := s.on (Reg.ST_SEGs_STATE g) Fld.ST_SEGs_STATE_PRESENT

/-- The position of the leading edge that a segmenter owes (R133, R134); the edges of a REMOTE one come over the link. -/
def State.leadDue (s : State) (g : Nat) : Option Nat :=
  let x := s.seg.get g
  if s.present g then none
  else match s.fld (Reg.ST_SEGs_CFG g) Fld.ST_SEGs_CFG_SRC with
    | 0 => x.presSince.bind (fun p =>
        if s.fld (Reg.ST_SEGs_DEBOUNCE g) Fld.ST_SEGs_DEBOUNCE_LEAD_DEB ≤ diff32 (s.segPos g) p then some p else none)
    | 1 => x.dueLead
    | 2 => if max 1 (s.fld (Reg.ST_SEGs_BG_RUN g) Fld.ST_SEGs_BG_RUN_ON_LINES) ≤ x.onRun then some x.onPos else none
    | _ => none

/-- The trailing edge that a segmenter owes (R133, R134). -/
def State.trailDue (s : State) (g : Nat) : Option Nat :=
  let x := s.seg.get g
  if !s.present g then none
  else match s.fld (Reg.ST_SEGs_CFG g) Fld.ST_SEGs_CFG_SRC with
    | 0 => x.absSince.bind (fun p =>
        if s.fld (Reg.ST_SEGs_DEBOUNCE g) Fld.ST_SEGs_DEBOUNCE_TRAIL_DEB ≤ diff32 (s.segPos g) p then some p else none)
    | 1 => x.dueTrail
    | 2 => if max 1 (s.fld (Reg.ST_SEGs_BG_RUN g) Fld.ST_SEGs_BG_RUN_OFF_LINES) ≤ x.offRun then some x.offPos else none
    | _ => none

/-- A HEAD device in a lead state sends a declared edge to the far devices of its L groups (R148, R433). -/
def State.sendEdge (s : State) (g pos doc : Nat) (leading : Bool) : State :=
  if s.fld Reg.GLB_ROLE Fld.GLB_ROLE_ROLE = 1 ∧ s.on Reg.GLB_ROLE Fld.GLB_ROLE_LEAD then
    (s.sendMsg 0 6 3 [g + b2n leading * 2 ^ 8, pos, doc]).sendMsg 1 6 3 [g + b2n leading * 2 ^ 8, pos, doc]
  else s

/-- A leading edge is declared at `pos` with document number `doc` (R136); the lead tells its partner (R147). -/
def State.declareLead (s : State) (g pos doc : Nat) : State :=
  let s := s.modSeg g (fun x => { x with
    docs := x.docs ++ [⟨doc, pos, none⟩], dueLead := none, onRun := 0, presSince := none })
  let s := (s.setReg (Reg.ST_SEGs_LEAD_POS g) (BitVec.ofNat 32 pos)).setFld (Reg.ST_SEGs_STATE g) Fld.ST_SEGs_STATE_PRESENT 1
  (s.sendDec 5 0 g 1 0 doc (doc, pos, 0)).sendEdge g pos doc true

/-- A trailing edge is declared at `pos` for the segmenter's newest document (R133). -/
def State.declareTrail (s : State) (g pos : Nat) : State :=
  let docs := (s.seg.get g).docs
  let doc := (docs.getLast?.map (·.doc)).getD 0
  let s := s.modSeg g (fun x => { x with
    docs := x.docs.dropLast ++ (x.docs.getLast?.map (fun d => { d with trail := some pos })).toList,
    dueTrail := none, offRun := 0, absSince := none })
  let s := (s.setReg (Reg.ST_SEGs_TRAIL_POS g) (BitVec.ofNat 32 pos)).setFld (Reg.ST_SEGs_STATE g) Fld.ST_SEGs_STATE_PRESENT 0
  (s.sendDec 5 0 g 0 0 doc (doc, pos, 0)).sendEdge g pos doc false

/-- A segmenter of the device itself declares its leading edge: the document takes NEXT_DOC, which then increments, or takes
the value that software writes in the same cycle (R136). -/
def State.segLead (s : State) (g : Nat) (wr : Option Word) : State :=
  match s.leadDue g with
  | none => s
  | some pos =>
    let next := s.reg (Reg.ST_SEGs_NEXT_DOC g)
    (s.declareLead g pos next.toNat).setReg (Reg.ST_SEGs_NEXT_DOC g) (wr.getD (next + 1))

/-- On a following device the lead's edges replace its own (R147). `wr` is a write to NEXT_DOC in the same cycle. -/
def execSegLeadingEdge (g : Nat) (wr : Option Word) (s : State) : Host.Outcome State Fault Refusal :=
  answer s (g < 4) (if s.follows then s else s.segLead g wr)

def execSegTrailingEdge (g : Nat) (s : State) : Host.Outcome State Fault Refusal :=
  answer s (g < 4) (if s.follows then s else match s.trailDue g with
    | some pos => s.declareTrail g pos
    | none => s)

/-! ### A line is delivered to its stream -/

/-- What waits on a following device's channel goes on, the head first: a line is classified once the lead's capture is there, and admitted
once the lead's admission is; markers and truncations keep their place (R92, R144, R147). -/
def State.runWait : Nat → State → Nat → State
  | 0, s, _ => s
  | fuel + 1, s, n =>
    let c := s.chan.get n
    match c.wait with
    | [] => s
    | w :: rest =>
      let pop (s : State) : State := s.modChan n (fun c => { c with wait := rest })
      match w.stage with
      | 0 =>
        match c.caps.find? (fun x => x.1 == w.seq) with
        | none => s
        | some x =>
          let s := (pop s).modChan n (fun c => { c with caps := c.caps.filter (fun y => y.1 != w.seq), beganAt := w.began })
          State.runWait fuel (s.classify n { w.line with tag := { w.line.tag with time := x.2.1, enc := x.2.2.1 } } x.2.2.2) n
      | 1 =>
        match c.adms.find? (fun x => x.1 == w.seq) with
        | none => s
        | some x =>
          let s := (pop s).modChan n (fun c => { c with adms := c.adms.filter (fun y => y.1 != w.seq) })
          State.runWait fuel (s.applyAdmission n w.line w.shut x.2.1 x.2.2) n
      | 2 => State.runWait fuel (match w.mark with | some m => (pop s).sendMarker n m | none => pop s) n
      | _ => State.runWait fuel ((pop s).truncateNow n) n

/-- What waits on a channel goes on as far as it can: an item gives at most an admission and some markers. -/
def State.settle (s : State) (n : Nat) : State :=
  State.runWait ((s.chan.get n).wait.length * ((s.segOf n).docs.length + 4) + 2) s n

/-- A port or tunnel delivers a line with its capture to stream `n` (R132, R137): a lead sends the capture to its partner, with how many
marks of the segmenter have passed since its reference event (notes/assumptions/129.md); a following device waits for it (R147).
`edges` holds the segmenters' marks at the reference event; none: the present ones. -/
def State.deliverStream (s : State) (n : Nat) (l : Line) (edges : Option (List Nat)) : State :=
  let k := (s.chan.get n).capSeq
  let now := edgeMark (s.segOf n).docs
  let mark := (edges.map (fun e => e.getD (s.fld (Reg.ST_BINDn n) Fld.ST_BINDn_SEG) 0)).getD now
  let s := s.modChan n (fun c => { c with capSeq := (c.capSeq + 1) % 2 ^ 32, beganAt := s.now })
  if s.follows then
    (s.modChan n (fun c => { c with wait := c.wait ++ [⟨0, k, s.now, l, false, false, none⟩] })).settle n
  else
    let s := s.sendDec 6 n (min 63 (now - mark)) 0 0 k (l.tag.time % 2 ^ 32, l.tag.time / 2 ^ 32, l.tag.enc)
    (s.bgLine n l).classify n l mark

end Sys2Proof.Machine
end

