-- ==== Sys2Proof/Machine/Port.lean ====
section
/-! DEFINITION. The sensor ports (spec/04): packet headers, pixel unpacking, reception entries, owed lines and frames, enabling,
and the delivery of a port's lines to its streams or to a tunnel. Header ECC and payload CRC are those of MIPI CSI-2 v2.1,
which the spec names (PRESUMED, notes/assumptions/21.md). -/

namespace Sys2Proof.Machine

/-! ### Headers and pixels -/

/-- The syndrome of each header bit under the CSI-2 header ECC: data identifier, word count, and the two VCX bits. -/
def eccColumns : List Nat :=
  [0x07, 0x0B, 0x0D, 0x0E, 0x13, 0x15, 0x16, 0x19, 0x1A, 0x1C, 0x23, 0x25, 0x26, 0x29, 0x2A, 0x2C,
    0x31, 0x32, 0x34, 0x38, 0x1F, 0x2F, 0x37, 0x3B, 0x3D, 0x3E]

/-- The ECC of header bits. -/
def headerEcc (bits : Nat) : Nat :=
  (List.range 26).foldl (fun a i => if bitB bits i then Nat.xor a (eccColumns.getD i 0) else a) 0

/-- A header word (first byte lowest) checked and corrected (R102, R108): the header bits, and whether a bit was corrected;
none where the error is uncorrectable. -/
def checkHeader (vcx : Bool) (h : Nat) : Option (Nat × Bool) :=
  let bits := h % 2 ^ 24 + (if vcx then h / 2 ^ 30 % 4 * 2 ^ 24 else 0)
  let syn := Nat.xor (headerEcc bits) (h / 2 ^ 24 % 64)
  if syn = 0 then some (bits, false)
  else if [1, 2, 4, 8, 16, 32].contains syn then some (bits, true)
  else match eccColumns.findIdx? (· == syn) with
    | some i => if i < 24 ∨ vcx = true then some (Nat.xor bits (2 ^ i), true) else none
    | none => none

/-- The fields of a header: virtual channel, data type, word count (R102). -/
def hdrVc (bits : Nat) : Nat := bits / 2 ^ 6 % 4 + bits / 2 ^ 24 % 4 * 4
def hdrDt (bits : Nat) : Nat := bits % 64
def hdrWc (bits : Nat) : Nat := bits / 2 ^ 8 % 2 ^ 16

/-- The header word that a tunnel carries: the header as corrected (R425). -/
def hdrWord (bits : Nat) : Nat := bits % 2 ^ 24 + headerEcc bits * 2 ^ 24 + bits / 2 ^ 24 % 4 * 2 ^ 30

/-- The width in bits of a data type's samples (R103); none: not an unpacked type. -/
def dtBits (dt : Nat) : Option Nat :=
  if dt = 0x12 ∨ dt = 0x2A ∨ (0x30 ≤ dt ∧ dt ≤ 0x37) then some 8
  else if dt = 0x2B then some 10 else if dt = 0x2C then some 12 else if dt = 0x2D then some 14
  else if dt = 0x2E then some 16 else none

/-- The bytes of a pixel group, and its pixels as the last byte each needs and its value (R104). -/
def groupBytes : Nat → Nat
  | 8 => 1 | 10 => 5 | 12 => 3 | 14 => 7 | _ => 2

def groupPixels (b : Nat) (g : List Nat) : List (Nat × Nat) :=
  let y (i : Nat) : Nat := g.getD i 0 % 256
  match b with
  | 8 => [(0, y 0)]
  | 10 => (List.range 4).map (fun i => (4, y i * 4 + y 4 / 2 ^ (2 * i) % 4))
  | 12 => [(2, y 0 * 16 + y 2 % 16), (2, y 1 * 16 + y 2 / 16)]
  | 14 => [(4, y 0 * 64 + y 4 % 64), (5, y 1 * 64 + y 5 % 16 * 4 + y 4 / 64), (6, y 2 * 64 + y 6 % 4 * 16 + y 5 / 16),
      (6, y 3 * 64 + y 6 / 4)]
  | _ => [(1, y 0 + y 1 * 256)]

/-- The whole pixels that payload bytes hold (R104). -/
def unpack (b : Nat) (bytes : List Nat) : List Nat :=
  (chunks (groupBytes b) bytes.length bytes).flatMap (fun g =>
    ((groupPixels b g).filter (fun e => decide (e.1 < g.length))).map (·.2))

/-- The number of whole pixels in `n` payload bytes (R104, R112). -/
def wholePixels (b n : Nat) : Nat :=
  let g := groupBytes b
  n / g * (groupPixels b []).length + ((groupPixels b []).filter (fun e => decide (e.1 < n % g))).length

/-- One step of the CSI-2 payload CRC-16 (x^16 + x^12 + x^5 + 1, least significant bit first). -/
def crc16Bit (c : Nat) : Nat := if c % 2 = 1 then Nat.xor (c / 2) 0x8408 else c / 2
def crc16Byte (c b : Nat) : Nat :=
  crc16Bit (crc16Bit (crc16Bit (crc16Bit (crc16Bit (crc16Bit (crc16Bit (crc16Bit (Nat.xor c (b % 256)))))))))
def crc16 (bytes : List Nat) : Nat := bytes.foldl crc16Byte 0xFFFF

/-- The fill value limited to the type's largest value (R113). -/
def fillLimit (b v : Nat) : Nat := min v (2 ^ b - 1)

/-- A line shaped to `w` pixels (R112). -/
def shapeTo (w fill : Nat) (px : List Nat) : List Nat := px.take w ++ List.replicate (w - px.length) fill

/-! ### Ports and entries -/

/-- A port's and an entry's state changed by `f`; entry k of port n is number 8n + k. -/
def State.modPort (s : State) (n : Nat) (f : PortSt → PortSt) : State := { s with port := s.port.modify n f }
def State.modEntry (s : State) (e : Nat) (f : EntrySt → EntrySt) : State := { s with entry := s.entry.modify e f }

/-- Counter k of a port counts and its STATUS bit sets (R127), which may signal the Lodge (R128). -/
def State.portEvent (s : State) (n b : Nat) : State :=
  let s := s.setBit (Reg.SPn_STATUS n) b
  if s.bit (Reg.SPn_FAULT_EN n) b then s.raiseError n 0 else s
def State.portCount (s : State) (n k : Nat) : State := (s.count (Reg.SPn_CNTk n k)).portEvent n k

/-- Fields of a reception entry. -/
def State.entFld (s : State) (n k : Nat) (f : Fld) : Nat := s.fld (Reg.SPn_ENTk_CFG n k) f
def State.entValid (s : State) (n k : Nat) : Bool := s.entFld n k Fld.SPn_ENTk_CFG_VALID == 1
def State.entArea (s : State) (n k : Nat) : Bool := s.entFld n k Fld.SPn_ENTk_CFG_MODE == 1
def State.entWidth (s : State) (n k : Nat) : Nat := s.fld (Reg.SPn_ENTk_SIZE n k) Fld.SPn_ENTk_SIZE_WIDTH
def State.frameLines (s : State) (n k : Nat) : Nat := s.fld (Reg.SPn_ENTk_SIZE n k) Fld.SPn_ENTk_SIZE_FRAME_LINES

/-- TO_REF, where 3 acts as 0 (R114). -/
def State.toRef (s : State) (n k : Nat) : Nat :=
  let v := s.entFld n k Fld.SPn_ENTk_CFG_TO_REF
  if v = 3 then 0 else v

/-- The fill value of an entry (R113). -/
def State.entFill (s : State) (n k : Nat) : Nat :=
  fillLimit ((dtBits (s.entFld n k Fld.SPn_ENTk_CFG_DT)).getD 16) (s.fld (Reg.SPn_FILL_VALUE n) Fld.SPn_FILL_VALUE_VALUE)

/-- The valid entries of a port on a virtual channel. -/
def State.entsOf (s : State) (n vc : Nat) : List Nat :=
  (List.range 8).filter (fun k => s.entValid n k && s.entFld n k Fld.SPn_ENTk_CFG_VC == vc)

/-- The streams bound to entry k of port n, local or tunnelled (R129, R427). -/
def State.boundTo (s : State) (tunnel : Bool) (n k : Nat) : List Nat :=
  (List.range 64).filter (fun st =>
    let b := Reg.ST_BINDn st
    s.on b Fld.ST_BINDn_VALID && s.on b Fld.ST_BINDn_TUNNEL == tunnel && s.fld b Fld.ST_BINDn_PORT == n
      && s.fld b Fld.ST_BINDn_ENTRY == k)

/-- The tunnel that takes an entry's lines on a HEAD device (R425). -/
def State.tunnelOf (s : State) (n k : Nat) : Option Nat :=
  if s.fld Reg.GLB_ROLE Fld.GLB_ROLE_ROLE = 1 then
    (List.range 32).find? (fun t => s.on (Reg.BRG_TUNk_CFG t) Fld.BRG_TUNk_CFG_VALID
      && s.fld (Reg.BRG_TUNk_CFG t) Fld.BRG_TUNk_CFG_PORT == n && s.fld (Reg.BRG_TUNk_CFG t) Fld.BRG_TUNk_CFG_ENTRY == k)
  else none

/-- A strobe generator is in its active state, or starts a pulse in this nanosecond (R294). -/
def State.strobeActive (s : State) (i : Nat) : Bool :=
  let g := s.gen.get i
  g.high || g.pulses.any (fun p => p.1 == s.invar)

/-! ### Delivery -/

/-- The reference event of a line (R132): the owing event where TS_REF and TO_REF agree on one or the line is a fill, the
present moment otherwise. The capture is the Invar time, the encoder position and the edges declared by then (none: the present
ones). -/
def State.capture (s : State) (tsRef enc toRef : Nat) (owed : Option Owed) (fill : Bool) : Nat × Nat × Option (List Nat) :=
  match owed with
  | some o =>
    if fill ∨ (tsRef = 0 ∧ toRef = 2) ∨ (tsRef = 1 ∧ toRef = 1) then (o.time, if enc = 0 then o.enc0 else o.enc1, some o.edges)
    else (s.invar, s.encPos enc, none)
  | none => (s.invar, s.encPos enc, none)

/-- A line of a reception entry goes to the stream of its phase (R130); a line that the sync strobe marks has phase 0, and a
counter that disagrees is a phase slip on every stream of the entry (R131). -/
def State.toStreams (s : State) (e : Nat) (streams : List Nat) (sync : Bool) (px : List Nat) (flags : Nat)
    (cap : Nat → Nat × Nat × Option (List Nat)) : State :=
  match streams with
  | [] => s
  | first :: _ =>
    let nph := s.fld (Reg.ST_BINDn first) Fld.ST_BINDn_NPH + 1
    let slip := sync && (s.entry.get e).phase != 0
    let s := if slip then
        streams.foldl (fun s n => s.countAndSet (Reg.STn_CNTk n 4) (Reg.STn_STATUS n) 5)
          (s.modEntry e (fun x => { x with phase := 0 }))
      else s
    let ph := (s.entry.get e).phase
    let s := s.modEntry e (fun x => { x with phase := (ph + 1) % nph })
    (streams.filter (fun n => s.fld (Reg.ST_BINDn n) Fld.ST_BINDn_PHASE == ph)).foldl (fun s n =>
      let c := cap n
      let tag : Tag := ⟨n, flags, 0, 0, 0, c.1, c.2.1, 0, 0, false⟩
      s.deliverStream n ⟨tag, [px]⟩ c.2.2) s

/-- The groups on which a HEAD device sends what is for the HOST: both in crossed topology, one in straight topology (R33,
R34; for tunnels the model's choice of group, notes/assumptions/22.md). -/
def State.hostGroups (s : State) : List Nat :=
  if s.fld Reg.GLB_ROLE Fld.GLB_ROLE_TOPOLOGY = 2 then [0, 1].filter (fun g => s.inServiceGroup g)
  else if s.inServiceGroup 0 then [0] else if s.inServiceGroup 1 then [1] else []

/-- A CSI item: its 16-byte prefix and the packet's bytes, padded (R425, R426). -/
def State.sendCsi (s : State) (t n k flags : Nat) (ph0 sync : Bool) (cap : Nat × Nat) (bytes : List Nat) (fill : Bool) : State :=
  let fl := flags % 16 + b2n (bitB flags flagDrop) * 16 + b2n fill * 32 + b2n ph0 * 64 + b2n sync * 128
  let prefix_ := [cap.1 % 2 ^ 32, cap.1 / 2 ^ 32, cap.2, bytes.length + (n + k * 16) * 2 ^ 16 + fl * 2 ^ 24]
  let padded := bytes ++ List.replicate ((4 - bytes.length % 4) % 4) 0
  s.hostGroups.foldl (fun s g => s.sendItem g 4 0 0 t 0 (prefix_ ++ wordsOf padded)) s

/-- STREAMS_READY sets when every port that a valid stream of the device uses has EN at 1 and has delivered a line (R540). -/
def State.checkStreamsReady (s : State) : State :=
  let ports := ((List.range 64).filter (fun st => s.on (Reg.ST_BINDn st) Fld.ST_BINDn_VALID
    && !s.on (Reg.ST_BINDn st) Fld.ST_BINDn_TUNNEL)).map (fun st => s.fld (Reg.ST_BINDn st) Fld.ST_BINDn_PORT)
  if !s.bit Reg.PCR_STATUS 8 && s.bit Reg.PCR_STATUS 7
      && ports.all (fun p => s.on (Reg.SPn_CTRL p) Fld.SPn_CTRL_EN && (s.port.get p).seen) then
    (s.setBit Reg.PCR_STATUS 8).setBit Reg.PCR_STATUS 3
  else s

/-- An entry delivers a line (R105): it carries HDR_ERR where one is due (R109) and, as the first of an area frame,
DROP_BEFORE where the frame before lost lines (R119). A tunnelled entry sends it to the HOST (R425). `bytes` are the packet's
bytes, none for a fill. -/
def State.deliverEntry (s : State) (n k : Nat) (px : List Nat) (flags : Nat) (owed : Option Owed) (fill frameFill : Bool)
    (bytes : List Nat) : State :=
  let e := 8 * n + k
  let x := s.entry.get e
  let firstOfFrame := s.entArea n k && x.delivered == 0
  let flags := if x.hdrErr then setFlag flags flagHdrErr else flags
  let flags := if firstOfFrame && x.dropBefore then setFlag flags flagDrop else flags
  let ph0 := firstOfFrame || (!s.entArea n k && x.delivered == 0)
  let s := s.modEntry e (fun x => { x with
    hdrErr := false, delivered := x.delivered + 1, dropBefore := if firstOfFrame then false else x.dropBefore })
  let s := s.modPort n (fun p => { p with seen := true })
  let sync := owed.any (·.phase0)
  let toRef := s.toRef n k
  let s := match s.tunnelOf n k with
    | some t =>
      let c := Reg.BRG_TUNk_CFG t
      let cap := if frameFill then s.capture 2 (s.fld c Fld.BRG_TUNk_CFG_ENC) toRef none false
        else s.capture (s.fld c Fld.BRG_TUNk_CFG_TS_REF) (s.fld c Fld.BRG_TUNk_CFG_ENC) toRef owed fill
      s.sendCsi t n k flags ph0 sync (cap.1, cap.2.1) bytes (fill || frameFill)
    | none =>
      s.toStreams e (s.boundTo false n k) sync px flags (fun st =>
        let b := Reg.ST_BINDn st
        if frameFill then s.capture 2 (s.fld b Fld.ST_BINDn_ENC) toRef none false
        else s.capture (s.fld b Fld.ST_BINDn_TS_REF) (s.fld b Fld.ST_BINDn_ENC) toRef owed fill)
  s.checkStreamsReady

/-! ### Frames (R117 to R120) -/

/-- A frame opens on an entry: the phase counter is 0 for its first line (R118, R130). -/
def State.openFrame (s : State) (n k : Nat) : State :=
  s.modEntry (8 * n + k) (fun x => { x with
    open_ := true, delivered := 0, longSeen := false, phase := 0, armed := true, lastPkt := s.now })

/-- An open frame closes: a short one is filled with PAD lines and counted, and a long one marks the next frame (R119). -/
def State.closeFrame (s : State) (n k : Nat) : State :=
  let e := 8 * n + k
  let x := s.entry.get e
  if x.open_ then
    let missing := s.frameLines n k - x.delivered
    let s := if missing = 0 then s else s.portCount n 9
    let s := (List.range missing).foldl (fun s _ =>
      s.deliverEntry n k (List.replicate (s.entWidth n k) (s.entFill n k)) (setFlag 0 flagPad) none false true []) s
    s.modEntry e (fun x => { x with open_ := false, dropBefore := x.longSeen, longSeen := false })
  else s

/-- The area entries of a virtual channel whose frame is open. -/
def State.openOn (s : State) (n vc : Nat) : List Nat :=
  (s.entsOf n vc).filter (fun k => s.entArea n k && (s.entry.get (8 * n + k)).open_)

/-- The open frames of a channel close without their Frame End: FE_MISSING counts once (R118). -/
def State.closeMissing (s : State) (n vc : Nat) : State :=
  match s.openOn n vc with
  | [] => s
  | l => l.foldl (fun s k => s.closeFrame n k) (s.portCount n 8)

/-- A packet on a channel restarts the frame timer of its open frames (R118). -/
def State.touchFrame (s : State) (n vc : Nat) : State :=
  (s.openOn n vc).foldl (fun s k => s.modEntry (8 * n + k) (fun x => { x with lastPkt := s.now })) s

/-- A line within the frame rules of its entry (R117, R119): an area line beyond FRAME_LINES is discarded, counted once. -/
def State.inFrame (s : State) (n k : Nat) (f : State → State) : State :=
  let e := 8 * n + k
  let x := s.entry.get e
  if !s.entArea n k then f s
  else if !x.open_ then s
  else if s.frameLines n k ≤ x.delivered then
    if x.longSeen then s else (s.portCount n 10).modEntry e (fun x => { x with longSeen := true })
  else f s

/-! ### Owed lines (R114 to R116) -/

/-- The fill line of the oldest owed line (R115): it is counted, and the lead tells its partner (R125). -/
def State.fillOldest (s : State) (n k : Nat) : State :=
  let e := 8 * n + k
  match (s.entry.get e).owed with
  | [] => s
  | o :: rest =>
    let s := s.modEntry e (fun x => { x with owed := rest })
    let s := (s.portCount n 3).sendDec 1 k n 1 0 0 (0, 0, 0)
    s.inFrame n k (fun s => s.deliverEntry n k (List.replicate (s.entWidth n k) (s.entFill n k)) (setFlag 0 flagLate)
      (some o) true false [])

/-- A completed line without an owed line is stale (R115): it is counted, and the lead tells its partner (R125). -/
def State.staleLine (s : State) (n k : Nat) : State := (s.portCount n 4).sendDec 1 k n 0 2 0 (0, 0, 0)

/-- A completed line meets the oldest owed line, or is stale (R115). -/
def State.matchLine (s : State) (n k : Nat) (l : HeldLine) : State :=
  match (s.entry.get (8 * n + k)).owed with
  | [] => s.staleLine n k
  | o :: rest => (s.modEntry (8 * n + k) (fun x => { x with owed := rest })).inFrame n k
      (fun s => s.deliverEntry n k l.px l.flags (some o) false false l.bytes)

/-- On a following device a completed line awaits the lead's decision where its own timers would have filled the oldest owed line, or made
the line stale (R125). -/
def EntrySt.awaits (x : EntrySt) (l : HeldLine) : Bool :=
  match x.owed with
  | [] => true
  | o :: _ => o.deadline.any (fun t => decide (t ≤ l.at_)) || decide (16 < x.owed.length)

/-- The held lines of an entry go on as far as the lead's decisions allow (R125). -/
def State.settleHeld (n k : Nat) : Nat → State → State
  | 0, s => s
  | fuel + 1, s =>
    let x := s.entry.get (8 * n + k)
    match x.held with
    | [] => s
    | l :: rest =>
      if x.stale ≠ 0 ∧ x.owed = [] then
        State.settleHeld n k fuel
          ((s.modEntry (8 * n + k) (fun x => { x with held := rest, stale := x.stale - 1 })).staleLine n k)
      else if x.awaits l then s
      else State.settleHeld n k fuel ((s.modEntry (8 * n + k) (fun x => { x with held := rest })).matchLine n k l)

/-- The held lines of an entry as they stand are settled. -/
def State.settleEntry (s : State) (n k : Nat) : State := State.settleHeld n k ((s.entry.get (8 * n + k)).held.length + 1) s

/-- The oldest owed line is filled, and what waited for that goes on. -/
def State.fillOwed (s : State) (n k : Nat) : State := (s.fillOldest n k).settleEntry n k

/-- The lead has discarded a line as stale (R125). -/
def State.decStale (s : State) (n k : Nat) : State :=
  (s.modEntry (8 * n + k) (fun x => { x with stale := x.stale + 1 })).settleEntry n k

/-- The held lines of an entry are decided here, as on a lead (R509). -/
def State.decideHeld (s : State) (n k : Nat) : State :=
  let ls := (s.entry.get (8 * n + k)).held
  ls.foldl (fun s l =>
    let s := if (s.entry.get (8 * n + k)).owed.headD default |>.deadline.any (fun t => decide (t < l.at_)) then s.fillOldest n k else s
    s.matchLine n k l) (s.modEntry (8 * n + k) (fun x => { x with held := [], stale := 0 }))

/-- A line becomes owed on an entry (R114, R115): with 16 queued the oldest is filled at once, on a following device by the lead's
decision (R125). -/
def State.owe (s : State) (n k : Nat) : State :=
  let e := 8 * n + k
  let t := s.fld (Reg.SPn_LINE_TIMEOUT n) Fld.SPn_LINE_TIMEOUT_TIMEOUT
  let sync := match s.tunnelOf n k with
    | some u => s.strobeActive (s.fld (Reg.BRG_TUNk_CFG u) Fld.BRG_TUNk_CFG_SYNC_STB)
    | none => (s.boundTo false n k).any (fun st => s.on (Reg.ST_BINDn st) Fld.ST_BINDn_PH_SYNC
        && s.strobeActive (s.fld (Reg.ST_BINDn st) Fld.ST_BINDn_SYNC_STB))
  let o : Owed := ⟨if t = 0 then none else some (s.now + t * 64), s.invar, s.encPos 0, s.encPos 1, sync && s.toRef n k == 2,
    (List.range 4).map (fun g => edgeMark (s.seg.get g).docs)⟩
  let s := if (s.entry.get e).owed.length < 16 || s.follows then s else s.fillOldest n k
  s.modEntry e (fun x => { x with owed := x.owed ++ [o] })

/-- A strobe output's active edge owes a line on the entries of running ports that name it (R114), unless a line that completed at the same
instant has taken it already (R116). -/
def State.oweStrobe (s : State) (i : Nat) : State :=
  (List.range 16).foldl (fun s n =>
    if (s.port.get n).running then
      (List.range 8).foldl (fun s k =>
        if s.entValid n k && s.toRef n k == 2 && s.entFld n k Fld.SPn_ENTk_CFG_STROBE == i then
          (if (s.entry.get (8 * n + k)).early then s.modEntry (8 * n + k) (fun x => { x with early := false }) else s.owe n k)
        else s) s
    else s) s

/-- A strobe edge that is due at this instant owes its line before a line that completes now is matched (R116). -/
def State.oweDue (s : State) (n k : Nat) : State :=
  let g := s.gen.get (s.entFld n k Fld.SPn_ENTk_CFG_STROBE)
  if s.toRef n k = 2 ∧ (s.entry.get (8 * n + k)).owed = [] ∧ g.high = false ∧ (g.pulses.head?.any (fun p => decide (p.1 ≤ s.invar))) = true then
    (s.owe n k).modEntry (8 * n + k) (fun x => { x with early := true })
  else s

/-- The timer of the oldest owed line of an entry has expired (R115): a line that completes at that very instant still meets it (R116). A
following device takes the lead's decision (R125). -/
def execLineTimeout (n k : Nat) (s : State) : Host.Outcome State Fault Refusal :=
  answer s (n < 16 && k < 8)
    (if s.follows then s
     else match (s.entry.get (8 * n + k)).owed with
       | o :: _ => if o.deadline.any (· < s.now) then s.fillOwed n k else s
       | [] => s)

/-- The frame timer of a channel expires (R118). -/
def execFrameTimeout (n vc : Nat) (s : State) : Host.Outcome State Fault Refusal :=
  let t := s.fld (Reg.SPn_FRAME_TIMEOUT n) Fld.SPn_FRAME_TIMEOUT_TIMEOUT
  answer s (n < 16 && vc < 16)
    (if s.follows || t == 0 then s
     else match s.openOn n vc with
       | k :: _ => if (s.entry.get (8 * n + k)).lastPkt + t * 1000 ≤ s.now
         then (s.sendDec 1 vc n 1 1 0 (0, 0, 0)).closeMissing n vc else s
       | [] => s)

/-! ### Packets -/

/-- The end of a packet ends its burst: no data lane is in a high-speed burst, and none is terminated (R122; the model's choice of moment,
notes/assumptions/23.md). -/
def State.endBurst (s : State) (n : Nat) : State :=
  (s.modPort n (fun p => { p with burst := 0, term := p.term / 16 * 16 })).setFld (Reg.SPn_STATUS n) Fld.SPn_STATUS_RX_ACTIVE 0

/-- A packet with an uncorrectable header (R108, R109). -/
def State.badHeader (s : State) (n : Nat) : State :=
  (List.range 8).foldl (fun s k => if s.entValid n k then s.modEntry (8 * n + k) (fun x => { x with hdrErr := true }) else s)
    (s.portCount n 1)

/-- A running port receives a packet: its header is checked and corrected (R108), then `f` acts on the header bits. Every packet but a
generic short one (R107) restarts the frame timer of its channel (notes/assumptions/120.md). -/
def State.packet (s : State) (n : Nat) (h : Word) (f : State → Nat → State) : State :=
  if !(s.port.get n).running then s
  else match checkHeader (s.on (Reg.SPn_PHY_CFG n) Fld.SPn_PHY_CFG_VCX) h.toNat with
    | none => (s.badHeader n).endBurst n
    | some (bits, corr) =>
      let s := if corr then s.portCount n 0 else s
      let s := if 8 ≤ hdrDt bits ∧ hdrDt bits ≤ 0xF then s else s.touchFrame n (hdrVc bits)
      (f s bits).endBurst n

/-- Whether a data type is none that R103 lists. -/
def unknownDt (dt : Nat) : Bool :=
  !(dt ≤ 3 || (8 ≤ dt && dt ≤ 0x11) || (dtBits dt).isSome)

/-- A long packet ends before its word count and CRC have arrived (R111), or its checksum disagrees (R110). -/
def cutShort (bits : Nat) (payload : List Nat) (crc : Option Nat) : Bool := decide (payload.length < hdrWc bits) || crc.isNone
def crcWrong (bits : Nat) (payload : List Nat) (crc : Option Nat) : Bool :=
  !cutShort bits payload crc && crc != some (crc16 (payload.take (hdrWc bits)))

/-- Every long packet of a known type is checked, also one that is then discarded (R110, R111; notes/assumptions/121.md). -/
def State.checkPayload (s : State) (n bits : Nat) (payload : List Nat) (crc : Option Nat) : State :=
  if cutShort bits payload crc then s.portCount n 7 else if crcWrong bits payload crc then s.portCount n 2 else s

/-- A long packet for an entry that takes it (R110 to R112, R115): `payload` is what arrived, `crc` the checksum where the
burst lasted that long. -/
def State.entryPacket (s : State) (n k : Nat) (bits : Nat) (payload : List Nat) (crc : Option Nat) : State :=
  let e := 8 * n + k
  let b := (dtBits (hdrDt bits)).getD 8
  let wc := hdrWc bits
  let w := s.entWidth n k
  let fill := s.entFill n k
  let data := payload.take wc
  let cut := cutShort bits payload crc
  let p := wholePixels b wc
  let bad := crcWrong bits payload crc
  let px := shapeTo w fill (shapeTo p fill (unpack b data))
  let flags := if cut then setFlag (setFlag 0 flagCrcErr) flagPad else if bad then setFlag 0 flagCrcErr else 0
  let flags := if p = w then flags else setFlag flags flagPad
  let bytes := leBytes 4 (hdrWord bits) ++ data ++ (match crc with | some c => if cut then [] else leBytes 2 c | none => [])
  let s := if cut then s else if p < w then s.portCount n 5 else if w < p then s.portCount n 6 else s
  if s.toRef n k = 0 then s.inFrame n k (fun s => s.deliverEntry n k px flags none false false bytes)
  else
    let s := s.oweDue n k
    let l : HeldLine := ⟨px, flags, bytes, s.now⟩
    if s.follows then (s.modEntry e (fun x => { x with held := x.held ++ [l] })).settleEntry n k else s.matchLine n k l

/-- A long packet by its data type (R103, R105, R106): it goes to the valid entry of its channel and type, but not before the
initial deskew that the port waits for (R101); an area entry opens a frame implicitly (R120), and before the first Frame
Start after enable it delivers nothing (R121). -/
def State.longPacket (s : State) (n : Nat) (bits : Nat) (payload : List Nat) (crc : Option Nat) : State :=
  let dt := hdrDt bits
  if unknownDt dt then s.portCount n 11
  else if dt < 0x12 then s
  else
   let s := s.checkPayload n bits payload crc
   match (s.entsOf n (hdrVc bits)).find? (fun k => s.entFld n k Fld.SPn_ENTk_CFG_DT == dt) with
    | none => s.portCount n 12
    | some k =>
      if s.on (Reg.SPn_PHY_CFG n) Fld.SPn_PHY_CFG_DESKEW_REQ && !s.on (Reg.SPn_STATUS n) Fld.SPn_STATUS_DESKEW_DONE then
        s.portCount n 14
      else
        let x := s.entry.get (8 * n + k)
        if s.entArea n k && !x.open_ then
          if x.armed then ((s.portCount n 13).openFrame n k).entryPacket n k bits payload crc else s
        else s.entryPacket n k bits payload crc

def execCsiLongPacket (n : Nat) (h : Word) (payload : List Nat) (crc : Option Nat) (s : State) :
    Host.Outcome State Fault Refusal :=
  answer s (n < 16) (s.packet n h (fun s bits => s.longPacket n bits payload crc))

/-- A packet whose header error no code corrects is discarded (R108). -/
def execCsiHeaderUncorr (n : Nat) (s : State) : Host.Outcome State Fault Refusal :=
  answer s (n < 16) (if (s.port.get n).running then (s.badHeader n).endBurst n else s)

/-- A Frame Start or Frame End is reported in SPn_FRAME_NUM (R103). -/
def State.frameNum (s : State) (n bits fe : Nat) : State :=
  s.setReg (Reg.SPn_FRAME_NUM n) (BitVec.ofNat 32 (hdrWc bits + hdrVc bits * 2 ^ 16 + fe * 2 ^ 20))

/-- A Frame Start closes an open frame of its channel without its Frame End and opens one on every area entry (R118). -/
def execCsiFrameStart (n : Nat) (h : Word) (s : State) : Host.Outcome State Fault Refusal :=
  answer s (n < 16) (s.packet n h (fun s bits =>
    if hdrDt bits = 0 then
      let s := (s.frameNum n bits 0).closeMissing n (hdrVc bits)
      (s.entsOf n (hdrVc bits)).foldl (fun s k => if s.entArea n k then s.openFrame n k else s) s
    else s))

/-- A Frame End closes the open frame of its channel (R118). -/
def execCsiFrameEnd (n : Nat) (h : Word) (s : State) : Host.Outcome State Fault Refusal :=
  answer s (n < 16) (s.packet n h (fun s bits =>
    if hdrDt bits = 1 then (s.openOn n (hdrVc bits)).foldl (fun s k => s.closeFrame n k) (s.frameNum n bits 1) else s))

/-- A Line Start owes a line on the entries of its channel with TO_REF 1 (R114). -/
def execCsiLineStart (n : Nat) (h : Word) (s : State) : Host.Outcome State Fault Refusal :=
  answer s (n < 16) (s.packet n h (fun s bits =>
    if hdrDt bits = 2 then
      (s.entsOf n (hdrVc bits)).foldl (fun s k => if s.toRef n k = 1 then s.owe n k else s) s
    else s))

/-- A generic short packet is captured, with no other effect (R107). -/
def execCsiGenericShort (n : Nat) (h : Word) (s : State) : Host.Outcome State Fault Refusal :=
  answer s (n < 16) (s.packet n h (fun s bits =>
    if 8 ≤ hdrDt bits ∧ hdrDt bits ≤ 0xF then
      s.setReg (Reg.SPn_GSP_LAST n) (BitVec.ofNat 32 (hdrWc bits + hdrDt bits * 2 ^ 16 + hdrVc bits * 2 ^ 22 + 2 ^ 31))
    else s))

/-- A null or blanking packet is discarded without count (R103). -/
def execCsiNullBlanking (n : Nat) (h : Word) (s : State) : Host.Outcome State Fault Refusal :=
  answer s (n < 16) (s.packet n h (fun s _ => s))

/-- A packet of a data type that R103 does not list is discarded whole and counted (R106). -/
def execUnknownDtDiscard (n : Nat) (h : Word) (s : State) : Host.Outcome State Fault Refusal :=
  answer s (n < 16) (s.packet n h (fun s bits => if unknownDt (hdrDt bits) then s.portCount n 11 else s))

/-- A burst with an uncorrectable sync error, or an illegal low-power sequence, is discarded and counted (R127). -/
def execPhySyncError (n : Nat) (s : State) : Host.Outcome State Fault Refusal :=
  answer s (n < 16) (if (s.port.get n).running then (s.portCount n 15).endBurst n else s)

/-! ### Lanes -/

/-- A skew calibration sequence: the data lanes in `locked` take a calibration, a lane without lock keeps what it has, and a
sequence without lock on some lane sets DESKEW_FAIL (R101). -/
def execDeskewSequence (n locked : Nat) (s : State) : Host.Outcome State Fault Refusal :=
  let lanes := s.fld (Reg.SPn_PHY_CFG n) Fld.SPn_PHY_CFG_LANES
  let all := 2 ^ (min lanes 4) - 1
  answer s (n < 16 && locked < 16)
    (if (s.port.get n).running then
      let got := Nat.land locked all
      let now := Nat.lor (s.fld (Reg.SPn_DESKEW_STAT n) Fld.SPn_DESKEW_STAT_LOCKED) got
      let s := s.setFld (Reg.SPn_DESKEW_STAT n) Fld.SPn_DESKEW_STAT_LOCKED now
      let s := s.setFld (Reg.SPn_STATUS n) Fld.SPn_STATUS_DESKEW_DONE (b2n (now == all))
      (if got = all then s else s.portEvent n 16).endBurst n
    else s)

/-- A lane (4: the clock lane) enters or leaves ULPS (R99). -/
def execUlpsTransition (n lane : Nat) (enter : Bool) (s : State) : Host.Outcome State Fault Refusal :=
  let u := withBit (s.port.get n).ulps lane enter
  answer s (n < 16 && lane < 5)
    ((s.modPort n (fun p => { p with ulps := u })).setFld (Reg.SPn_STATUS n) Fld.SPn_STATUS_ULPS (b2n (u != 0)))

/-- Whether a port may connect its terminations: not where it listens on a device that is not the lead (R122, R510) or has released its
shared balls for a takeover (R124, R508), nor in boot or fault state (R123). -/
def State.mayTerminate (s : State) (n : Nat) : Bool :=
  (s.port.get n).running && !s.inBoot && !s.dark
    && (!s.on (Reg.SPn_PHY_CFG n) Fld.SPn_PHY_CFG_LISTEN || (s.on Reg.GLB_ROLE Fld.GLB_ROLE_LEAD && !s.sharedOff))

/-- A start of transmission on a data lane: RX_ACTIVE, and a port that may terminate terminates that lane (R122, R124). -/
def execHsBurstStart (n lane : Nat) (s : State) : Host.Outcome State Fault Refusal :=
  answer s (n < 16 && lane < 4)
    (if (s.port.get n).running then
      let s := (s.modPort n (fun p => { p with burst := withBit p.burst lane true })).setFld (Reg.SPn_STATUS n)
        Fld.SPn_STATUS_RX_ACTIVE 1
      if s.mayTerminate n then
        (s.modPort n (fun p => { p with term := withBit p.term lane true })).setFld (Reg.SPn_STATUS n)
          Fld.SPn_STATUS_TERM_ACTIVE 1
      else s
    else s)

/-- The terminations of a port are connected as a start or a lead state allows, or released (R122, R123): the clock lane's stay, a data
lane's last for its bursts. -/
def State.setTerm (s : State) (n : Nat) : State :=
  let t := if s.mayTerminate n then 16 else 0
  (s.modPort n (fun p => { p with term := t })).setFld (Reg.SPn_STATUS n) Fld.SPn_STATUS_TERM_ACTIVE (b2n (t != 0))

/-! ### Enabling and disabling (R121) -/

/-- The receivers start: entries empty, phase counters 0, no calibration (R121, R130). A pending HDR_ERR and a pending DROP_BEFORE do not
outlast a stop (notes/assumptions/122.md). -/
def State.startPort (s : State) (n : Nat) : State :=
  let s := s.modPort n (fun p => { p with running := true, clearDue := false, setDue := false, burst := 0 })
  let s := (List.range 8).foldl (fun s k => s.modEntry (8 * n + k) (fun _ => default)) s
  let s := s.setFld (Reg.SPn_DESKEW_STAT n) Fld.SPn_DESKEW_STAT_LOCKED 0
  (s.setFld (Reg.SPn_STATUS n) Fld.SPn_STATUS_DESKEW_DONE 0).setTerm n

/-- The port stops: frames close without padding, owed queues empty without fills, and the open documents of its streams close
with TRUNC (R121, R145). Its terminations stay as they are. -/
def State.haltPort (s : State) (n : Nat) : State :=
  let s := s.modPort n (fun p => { p with running := false, clearDue := false, setDue := false, burst := 0 })
  let s := (List.range 8).foldl (fun s k => s.modEntry (8 * n + k) (fun _ => default)) s
  let s := s.setFld (Reg.SPn_STATUS n) Fld.SPn_STATUS_RX_ACTIVE 0
  ((List.range 64).filter (fun st => s.on (Reg.ST_BINDn st) Fld.ST_BINDn_VALID
    && !s.on (Reg.ST_BINDn st) Fld.ST_BINDn_TUNNEL && s.fld (Reg.ST_BINDn st) Fld.ST_BINDn_PORT == n)).foldl
    (fun s st => s.truncateDoc st) s

/-- The port stops and releases its terminations. -/
def State.stopPort (s : State) (n : Nat) : State := (s.haltPort n).setTerm n

/-- Setting EN starts a stopped port; before a clear has taken effect it waits for that (R121). A fenced port, and a port in
the fault state, starts when the fence or the state ends (R485, R490, R491); in boot state the receivers stay off (R23). -/
def State.enablePort (s : State) (n : Nat) : State :=
  let s := s.setReg (Reg.SPn_CTRL n) 1
  let p := s.port.get n
  if p.clearDue then (s.modPort n (fun p => { p with setDue := true })).checkStreamsReady
  else if p.running || s.inBoot || s.bit Reg.FC_FENCE_PORT n || 2 ≤ s.fld Reg.FC_ESC_STATUS Fld.FC_ESC_STATUS_STATE then s.checkStreamsReady
  else (s.startPort n).checkStreamsReady

/-- Clearing EN asks the port to stop at the end of the packet in progress (R121). -/
def State.disablePort (s : State) (n : Nat) : State :=
  (s.setReg (Reg.SPn_CTRL n) 0).modPort n (fun p => { p with clearDue := p.running, setDue := false })

def execPortEnable (i : Initiator) (n : Nat) (s : State) : Host.Outcome State Fault Refusal :=
  answer s (n < 16) (s.swWrite i (Reg.SPn_CTRL n) 1 (fun s => s.enablePort n))

def execPortDisable (i : Initiator) (n : Nat) (s : State) : Host.Outcome State Fault Refusal :=
  answer s (n < 16) (s.swWrite i (Reg.SPn_CTRL n) 0 (fun s => s.disablePort n))

/-- At the end of the packet in progress a clear takes effect, and then a setting that came after it (R121). -/
def execPortStop (n : Nat) (s : State) : Host.Outcome State Fault Refusal :=
  answer s (n < 16)
    (let p := s.port.get n
     if p.clearDue then (if p.setDue then (s.stopPort n).startPort n else s.stopPort n) else s)

/-! ### Tunnelled lines on a HOST device (R427) -/

/-- The group that faces the head lead (R34, R268, R513). In straight topology an item may come on either group. -/
def State.facesHeadLead (s : State) (g : Nat) : Bool :=
  s.fld Reg.GLB_ROLE Fld.GLB_ROLE_TOPOLOGY != 2 || s.headLead == some g

/-- A CSI item of tunnel t becomes a line: pixels by the data type of its header, shaped to WIDTH, with the prefix flags. -/
def State.tunnelLine (s : State) (t : Nat) (words : List Nat) : State :=
  let w3 := words.getD 3 0
  let n := w3 / 2 ^ 16 % 16
  let k := w3 / 2 ^ 20 % 8
  let fl := w3 / 2 ^ 24
  let bytes := ((words.drop 4).flatMap (leBytes 4)).take (w3 % 2 ^ 16)
  let shape := Reg.BRG_TUNk_SHAPE t
  let w := s.fld shape Fld.BRG_TUNk_SHAPE_WIDTH
  let bits := leNat (bytes.take 3)
  let b := (dtBits (hdrDt bits)).getD 8
  let fillItem := bitB fl 5
  let fill := if fillItem then s.fld shape Fld.BRG_TUNk_SHAPE_FILL_VALUE
    else fillLimit b (s.fld shape Fld.BRG_TUNk_SHAPE_FILL_VALUE)
  let raw := if fillItem then List.replicate w fill else unpack b ((bytes.drop 4).take (hdrWc bits))
  let flags := fl % 16 + b2n (bitB fl 4) * 2 ^ flagDrop
  let flags := if raw.length = w then flags else setFlag flags flagPad
  let e := 128 + t
  let streams := s.boundTo true n k
  let s := if bitB fl 6 then s.modEntry e (fun x => { x with phase := 0 }) else s
  let sync := bitB fl 7 && streams.any (fun st => s.on (Reg.ST_BINDn st) Fld.ST_BINDn_PH_SYNC)
  s.toStreams e streams sync (shapeTo w fill raw) flags (fun _ => (words.getD 0 0 + words.getD 1 0 * 2 ^ 32, words.getD 2 0, none))

end Sys2Proof.Machine
end

