-- ==== Sys2Proof/Machine/Orangery.lean ====
section
/-! DEFINITION. The Orangery merge units (spec/07): member lines and their tap store, the decision of missing lines, velocity and
offset, the resampling kernel, HDR merging, companding and stacking. -/

namespace Sys2Proof.Machine

/-! ### Arithmetic -/

/-- Division rounded to nearest, halves away from zero (R183); `den` is positive. -/
def roundAway (num den : Int) : Int :=
  if 0 ≤ num then (2 * num + den) / (2 * den) else -((-(2 * num) + den) / (2 * den))

/-- The kernel coefficients c−1, c0, c1, c2 at phase f / 64 (R183). -/
def kernel (f : Int) : List Int :=
  let a := roundAway (-(f * f * f) + 128 * f * f - 4096 * f) 2048
  let b := roundAway (-(3 * f * f * f) + 256 * f * f + 4096 * f) 2048
  let c := roundAway (f * f * f - 64 * f * f) 2048
  [a, 256 - a - b - c, b, c]

/-- The velocity from two positions and times, in 2^−32 counts per ns, limited to 32 bits signed (R181, R303). -/
def velocity (dp dt : Int) : Int := clampI (-(2 ^ 31)) (2 ^ 31 - 1) (dp * 2 ^ 32 / dt)

/-- The offset in 1/64 line before its limit (R182). -/
def offset64 (v dT pitch : Int) : Int :=
  let d := max 1 pitch * 2 ^ 20
  (2 * v * dT + d) / (2 * d)

/-- A resampled value from four taps and their coefficients, limited to 16 bits (R183). -/
def resample (cs taps : List Int) : Int :=
  clampI 0 65535 ((sumI ((cs.zip taps).map (fun e => e.1 * e.2)) + 128) / 256)

/-- A RATIO as it acts, and a value brought to the longest exposure's scale (R188). -/
def ratioOf (r : Nat) : Nat := max 0x0800 (min 0x8000 r)
def scaled (y r : Nat) : Nat := min (2 ^ 20 - 1) ((y * r + 1024) / 2048)

/-- The weight of a value from a member's table (R190). -/
def weightOf (w : Nat → Nat) (y : Nat) : Int :=
  let i := y / 1024
  let f : Int := ((y % 1024 : Nat) : Int)
  let a : Int := w i
  let b : Int := w (min 63 (i + 1))
  a + ((b - a) * f + 512) / 1024

/-- A member's pixel: its value on the longest exposure's scale, its RATIO, its weight, whether it is saturated. -/
structure MemberPx where
  e : Nat
  ratio : Nat
  weight : Int
  sat : Bool
  deriving DecidableEq, Repr

/-- The e of the first member of largest RATIO (R191). -/
def longest (l : List MemberPx) : Nat :=
  (l.foldl (fun (a : Option MemberPx) m => match a with
    | none => some m
    | some b => if b.ratio < m.ratio then some m else some b) none).elim 0 (·.e)

/-- The merged value of a channel from its members in context order (R191). -/
def mergeE (l : List MemberPx) : Nat :=
  match l with
  | [] => 0
  | [m] => m.e
  | _ =>
    let ws := l.map (fun m => if m.sat then 0 else m.weight)
    let sum := sumI ws
    if 0 < sum then ((sumI ((l.zip ws).map (fun e => e.2 * (e.1.e : Int))) + sum / 2) / sum).toNat
    else
      let free := l.filter (fun m => !m.sat)
      longest (if free = [] then l else free)

/-- The compander (R192). -/
def compand (comp : Bool) (shift knee kshift e : Nat) : Nat :=
  let half (n : Nat) : Nat := if n = 0 then 0 else 2 ^ (n - 1)
  if comp then
    let ks := min 8 kshift
    if e ≤ knee then e else min 65535 (knee + (e - knee + half ks) / 2 ^ ks)
  else
    let sh := min 4 shift
    min 65535 ((e + half sh) / 2 ^ sh)

/-- The flags that contributing lines pass on: bits 16 to 23 and 27 of word 0 (R151). -/
def passFlags (flags : Nat) : Nat := Nat.land flags 0x8FF

/-! ### Members and groups -/

/-- The register offsets of MU number `mu`. -/
def muP (mu : Nat) : Nat := mu / 2
def muU (mu : Nat) : Nat := mu % 2
def muCfg (mu c : Nat) : Nat := Reg.PVp_MUu_CTXc_CFG (mu / 2) (mu % 2) c
def muGrpCfg (mu g : Nat) : Nat := Reg.PVp_MUu_GRPg_CFG (mu / 2) (mu % 2) g

/-- MU counter k counts and its event bit sets (R184, R186, R193, R197). -/
def State.muCount (s : State) (mu k n : Nat) : State :=
  if n = 0 then s
  else (s.countN (Reg.PVp_MUu_CNTk (mu / 2) (mu % 2) k) n).setBit (Reg.PVp_MUu_STATUS (mu / 2) (mu % 2)) k

/-- The context of an MU that serves the document at place `idx` of a stream (R175). -/
def State.muContext (s : State) (mu ch idx : Nat) : Option Nat :=
  s.servedBy ch idx (muCfg mu) Fld.PVp_MUu_CTXc_CFG_VALID Fld.PVp_MUu_CTXc_CFG_STREAM

/-- A field of a context's CFG register, and the members and the reference member of a group, for the document at place `idx` of its
reference stream `ch` (R175, R176). -/
def State.muFld (s : State) (mu ch idx c : Nat) (f : Fld) : Nat := f.get (BitVec.ofNat 32 (s.bankWord ch idx (muCfg mu c)))
def State.muMembers (s : State) (mu ch idx g : Nat) : List Nat :=
  (List.range 8).filter (fun c => s.muFld mu ch idx c Fld.PVp_MUu_CTXc_CFG_VALID == 1
    && s.muFld mu ch idx c Fld.PVp_MUu_CTXc_CFG_GROUP == g)
def State.muRef (s : State) (mu ch idx g : Nat) : Option Nat :=
  (s.muMembers mu ch idx g).find? (fun c => s.muFld mu ch idx c Fld.PVp_MUu_CTXc_CFG_REF == 1)

/-- An item of the reference member of a group is an event for the timers of the others (R186). -/
def State.refEvent (s : State) (mu ch idx c j : Nat) (l : List Line) : State :=
  let g := s.muFld mu ch idx c Fld.PVp_MUu_CTXc_CFG_GROUP
  if s.muRef mu ch idx g = some c then
    { s with muGrp := s.muGrp.modify (4 * mu + g) (fun x => { x with refs := x.refs ++ l, events := x.events ++ [(idx, j, s.now, ch)] }) }
  else s

/-- Member and group states. -/
def State.member (s : State) (mu c : Nat) : MuCtx := s.muCtx.get (8 * mu + c)
def State.modMember (s : State) (mu c : Nat) (f : MuCtx → MuCtx) : State :=
  { s with muCtx := s.muCtx.modify (8 * mu + c) f }
def State.mergeGrp (s : State) (mu g : Nat) : MuGrp := s.muGrp.get (4 * mu + g)
def State.modMergeGrp (s : State) (mu g : Nat) (f : MuGrp → MuGrp) : State :=
  { s with muGrp := s.muGrp.modify (4 * mu + g) f }

/-- A member's lines of a document that are present, its marker, and the lines missing by timeout (R185). -/
def MuCtx.lineAt (m : MuCtx) (idx j : Nat) : Option Line :=
  if m.gone.contains (idx, j) then none else m.lines.find? (fun l => l.tag.idx == idx && l.tag.line == j)
def MuCtx.present (m : MuCtx) (idx : Nat) : List Nat :=
  ((m.lines.filter (fun l => l.tag.idx == idx && !m.gone.contains (idx, l.tag.line))).map (·.tag.line))
def MuCtx.markOf (m : MuCtx) (idx : Nat) : Option Marker := m.marks.find? (fun k => k.idx == idx)

/-- A member line is decided: present, passed by a later line or the marker, or missing by timeout (R185). -/
def MuCtx.decided (m : MuCtx) (idx j : Nat) : Bool :=
  m.gone.contains (idx, j) || (m.markOf idx).isSome
    || m.lines.any (fun l => decide (idx < l.tag.idx) || (l.tag.idx == idx && decide (j ≤ l.tag.line)))
    || m.marks.any (fun k => decide (idx < k.idx))

/-- The present line nearest to `k`, the lower one on a tie; none where the document has no present line (R182, R184). What is not
decided by then does not count: an anchor or a tap missing by timeout keeps no output line back (R185; notes/assumptions/131.md). -/
def MuCtx.nearest (m : MuCtx) (idx k : Nat) : Option Nat :=
  let ls := m.present idx
  let low := (ls.filter (· ≤ k)).foldl (fun (a : Option Nat) j => some (match a with | none => j | some b => max b j)) none
  let up := (ls.filter (k ≤ ·)).foldl (fun (a : Option Nat) j => some (match a with | none => j | some b => min b j)) none
  match low, up with
  | some a, some b => some (if k - a ≤ b - k then a else b)
  | some a, none => some a
  | none, b => b

/-- Markers at the front of an MU's channels arrive at their members (R180). -/
def State.muArrive : Nat → State → Nat → Nat → State
  | 0, s, _, _ => s
  | fuel + 1, s, mu, ch =>
    match s.waitingAt 1 mu ch, (s.arb.get (unitKey 1 mu)).taken.any (fun t => t.1 == ch) with
    | .marker m :: rest, false =>
      let s := (s.setWaiting 1 mu ch rest).markerIn 1 mu ch m
      let s := match s.muContext mu ch m.idx with
        | none => s.sendTo ch (.marker m) (kindsAfter 1)
        | some c => (s.modMember mu c (fun x => { x with marks := x.marks ++ [m] })).refEvent mu ch m.idx c (2 ^ 32) []
      State.muArrive fuel s mu ch
    | _, _ => s

/-- Every marker that has reached the MU arrives. -/
def State.muMarkers (s : State) (mu : Nat) : State :=
  (s.pointChans 1 mu).foldl (fun s ch => State.muArrive ((s.waitingAt 1 mu ch).length + 1) s mu ch) s

/-- A member line is written into the tap store (R185). A line that was already missing by timeout is not (R186). -/
def doMuMemberLine (mu : Nat) (gh : Ecc) (s : State) : State :=
  if s.fenced 1 mu then s
  else match s.readTaken 1 mu gh with
    | (s, none) => s.muMarkers mu
    | (s, some (ch, l)) =>
      let s := match s.muContext mu ch l.tag.idx with
        | none => s.sendTo ch (.line l) (kindsAfter 1)
        | some c =>
          let m := s.member mu c
          let pitch := if (m.pitch.find l.tag.idx).isSome then m.pitch
            else m.pitch.insert l.tag.idx (s.fld (Reg.ST_PITCHn ch) Fld.ST_PITCHn_PITCH)
          let s := if m.gone.contains (l.tag.idx, l.tag.line) then s
            else s.modMember mu c (fun x => { x with lines := x.lines ++ [l], pitch := pitch })
          s.refEvent mu ch l.tag.idx c l.tag.line [l]
      s.muMarkers mu

def execMuMemberLine (mu : Nat) (gh : Ecc) (s : State) : Host.Outcome State Fault Refusal :=
  answer s (mu < 8) (doMuMemberLine mu gh s)

/-! ### An output line -/

/-- A tap: the line that is read (none: value 0), and what its resolution does to the output line (R184). -/
structure Tap where
  coef : Int
  src : Option Line
  range : Bool
  subst : Bool
  flag : Nat
  deriving DecidableEq, Repr

/-- A tap line `i` of a member with anchor `a` and window `lo`, `hi` resolved (R184); none while it is undecided. -/
def MuCtx.tap (m : MuCtx) (idx a lo hi : Nat) (coef i : Int) : Option Tap :=
  let inside := clampI ((a : Int) - lo) ((a : Int) + hi) i
  let moved := inside != i
  let last := (m.markOf idx).map (fun k => (k.count : Int) - 1)
  let outside := decide (inside < 0) || last.any (fun e => decide (e < inside))
  let j := (max 0 inside).toNat
  if outside then
    some (match m.nearest idx j with
      | some n => ⟨coef, m.lineAt idx n, moved, false, 0⟩
      | none => ⟨coef, none, moved, true, 2 ^ flagDrop⟩)
  else match m.lineAt idx j with
    | some l => some ⟨coef, some l, moved, false, 0⟩
    | none =>
      if m.decided idx j then
        let late := m.gone.contains (idx, j)
        some (match m.nearest idx j with
          | some n => ⟨coef, m.lineAt idx n, moved, true, if late then 2 ^ flagLate else 2 ^ flagDrop⟩
          | none => ⟨coef, none, moved, true, 2 ^ flagDrop⟩)
      else none

/-- What a member gives an output line: its offset and whether it was limited, and its taps. -/
structure MemberUse where
  ctx : Nat
  delta : Option Int
  limited : Bool
  taps : List Tap
  deriving DecidableEq, Repr

/-- A list of optional values, whole or not at all. -/
def allSome {α : Type} : List (Option α) → Option (List α)
  | [] => some []
  | none :: _ => none
  | some a :: t => (allSome t).map (a :: ·)

/-- A member for output line `k` of a document, with velocity `v` and the reference line's time and centre (R182 to R184);
none while its anchor or a tap is undecided. -/
def State.useMember (s : State) (mu c refC : Nat) (ref : Line) (v : Int) : Option MemberUse :=
  let m := s.member mu c
  let idx := ref.tag.idx
  let k := ref.tag.line
  let win := Reg.PVp_MUu_CTXc_WIN (mu / 2) (mu % 2) c
  let lo := s.fld win Fld.PVp_MUu_CTXc_WIN_LO
  let hi := s.fld win Fld.PVp_MUu_CTXc_WIN_HI
  let centre (x : Nat) : Int := signed 16 (s.fld (Reg.PVp_MUu_CTXc_EXP (mu / 2) (mu % 2) x) Fld.PVp_MUu_CTXc_EXP_CENTRE)
  if !m.decided idx k then none
  else match m.nearest idx k with
    | none => some ⟨c, none, false, [⟨256, none, false, true, 2 ^ flagDrop⟩]⟩
    | some a =>
      match m.lineAt idx a with
      | none => none
      | some al =>
        let dT : Int := ((ref.tag.time : Int) + centre refC) - ((al.tag.time : Int) + centre c)
        let d0 := if c = refC then 0 else offset64 v dT (m.pitch.getD 1 idx : Nat)
        let d := clampI (-512) 512 d0
        let j := (a : Int) + d / 64
        let cs := kernel (d - 64 * (d / 64))
        let ts := ((List.range 4).map (fun (t : Nat) => (cs.getD t 0, j - 1 + (t : Int)))).filter (fun e => e.1 != 0)
        (allSome (ts.map (fun e => m.tap idx a lo hi e.1 e.2))).map (fun taps => ⟨c, some d, d != d0, taps⟩)

/-- The value of a tap at column x: an uncorrectable word of the tap store reads its four pixels as 0 (R197). -/
def tapAt (bad : List (Nat × Nat × Nat)) (c x : Nat) (t : Tap) : Int :=
  match t.src with
  | none => 0
  | some l => if bad.contains (c, l.tag.line, x / 4) then 0 else ((l.px.headD []).getD x 0 : Nat)

/-- A member's pixel at column x (R183, R188 to R190). -/
def State.memberPx (s : State) (mu : Nat) (bad : List (Nat × Nat × Nat)) (u : MemberUse) (x : Nat) : MemberPx :=
  let vals := u.taps.map (fun t => tapAt bad u.ctx x t)
  let y := (resample (u.taps.map (·.coef)) vals).toNat
  let sr := Reg.PVp_MUu_CTXc_SAT (mu / 2) (mu % 2) u.ctx
  let thr : Int := s.fld sr Fld.PVp_MUu_CTXc_SAT_SAT_THR
  let sat := s.on sr Fld.PVp_MUu_CTXc_SAT_SAT_EN
    && (u.taps.zip vals).any (fun e => e.1.src.isSome && decide (thr ≤ e.2))
  let ratio := ratioOf (s.fld (Reg.PVp_MUu_CTXc_EXP (mu / 2) (mu % 2) u.ctx) Fld.PVp_MUu_CTXc_EXP_RATIO)
  let w (i : Nat) : Nat := bitFieldByte (s.reg (Reg.PVp_MUu_CTXc_WTk (mu / 2) (mu % 2) u.ctx (i / 4))).toNat (i % 4)
  ⟨scaled y ratio, ratio, weightOf w y, sat⟩
where
  /-- Byte i of a word. -/
  bitFieldByte (w i : Nat) : Nat := w / 2 ^ (8 * i) % 256

/-- The pixels of an output line channel by channel, and for each channel how many pixels meet the SAT condition (R191 to
R193). -/
def State.mergePixels (s : State) (mu g w : Nat) (uses : List MemberUse) (bad : List (Nat × Nat × Nat)) :
    List (List Nat × Nat) :=
  let cfg := muGrpCfg mu g
  let nch := max 1 (min 8 (s.fld cfg Fld.PVp_MUu_GRPg_CFG_NCH))
  let out (e : Nat) : Nat := compand (s.on cfg Fld.PVp_MUu_GRPg_CFG_COMP) (s.fld cfg Fld.PVp_MUu_GRPg_CFG_SHIFT)
    (s.fld (Reg.PVp_MUu_GRPg_KNEE (mu / 2) (mu % 2) g) Fld.PVp_MUu_GRPg_KNEE_KNEE) (s.fld cfg Fld.PVp_MUu_GRPg_CFG_KSHIFT) e
  (List.range nch).map (fun ch =>
    let us := uses.filter (fun u => s.fld (muCfg mu u.ctx) Fld.PVp_MUu_CTXc_CFG_OUT_CH == ch)
    let px := (List.range w).map (fun x => us.map (fun u => s.memberPx mu bad u x))
    (px.map (fun l => if l = [] then 0 else out (mergeE l)),
      (px.filter (fun l => !l.isEmpty && l.all (·.sat))).length))

/-- The velocity of a group for reference line `ref` (R181). -/
def State.groupVel (s : State) (mu g : Nat) (ref : Line) : Int :=
  let x := s.mergeGrp mu g
  let hist := if x.histDoc = ref.tag.idx + 1 then x.hist else []
  let n := min (2 ^ min 6 (s.fld (muGrpCfg mu g) Fld.PVp_MUu_GRPg_CFG_VLOG2N)) hist.length
  let init := signed 32 (s.reg (Reg.PVp_MUu_GRPg_VEL_INIT (mu / 2) (mu % 2) g)).toNat
  match (if n = 0 then none else hist[n - 1]?) with
  | none => init
  | some r =>
    let dt : Int := (ref.tag.time : Int) - r.2
    if 0 < dt then velocity (diff32 ref.tag.enc r.1) dt else init

/-- The group's registers and its members' contexts swap as the first line of a document is merged (R59). -/
def State.muSwap (s : State) (mu g refC : Nat) (ref : Line) : State :=
  let others := (s.muMembers mu ref.tag.stream ref.tag.idx g).filter (· != refC)
  s.swapAt ref.tag.stream ref.tag.idx (ownerKey 1 mu (1 + refC))
    (ownerKey 1 mu (17 + g) :: others.map (fun c => ownerKey 1 mu (1 + c))) true

/-- An output line is emitted once its anchors and taps are decided (R178 to R185, R193, R197). `corr` words of the tap store
read for it are corrected; `bad` lists the uncorrectable ones as member, line number and word. An output that holds its input keeps the line
waiting here (R264). -/
def doMuOutputLine (mu g corr : Nat) (bad : List (Nat × Nat × Nat)) (s : State) : State :=
  if s.fenced 1 mu then s
  else
    let s := s.muMarkers mu
    match (s.mergeGrp mu g).refs with
    | [] => s
    | ref :: rest =>
     let idx := ref.tag.idx
     if s.heldBack ref.tag.stream then s else
     match s.muContext mu ref.tag.stream idx with
     | none => s
     | some refC =>
      let t := s.muSwap mu g refC ref
      let v := t.groupVel mu g ref
      let members := t.muMembers mu ref.tag.stream idx g
      match allSome (members.map (fun c => t.useMember mu c refC ref v)) with
      | none => s
      | some uses =>
        let s := t
        let w := (ref.px.headD []).length
        let taps := uses.flatMap (·.taps)
        let chans := s.mergePixels mu g w uses bad
        let sat := (chans.map (·.2)).foldl (· + ·) 0
        let flags := taps.foldl (fun a t => Nat.lor a (Nat.lor t.flag
          (match t.src with | some l => passFlags l.tag.flags | none => 0))) 0
        let flags := if sat = 0 then flags else setFlag flags flagSat
        let marks := if rest.any (fun l => l.tag.idx == idx) || ((s.member mu refC).markOf idx).isNone then []
          else members.filterMap (fun c => (s.member mu c).markOf idx)
        let flags := if marks.any (·.trunc) then setFlag flags flagTrunc else flags
        let flags := if marks.any (·.short) then setFlag flags flagShort else flags
        let s := s.muCount mu 0 (if sat = 0 then 0 else 1)
        let s := s.muCount mu 1 sat
        let s := s.muCount mu 2 (b2n (uses.any (fun u => u.limited || u.taps.any (·.range))))
        let s := s.muCount mu 3 (b2n (taps.any (·.subst)))
        let s := (s.muCount mu 5 corr).raiseCorrs (17 + 4 * (mu / 2)) (mu % 2) corr
        let s := (s.muCount mu 6 bad.length).raiseErrors (17 + 4 * (mu / 2)) (mu % 2) bad.length
        let s := uses.foldl (fun s u => match u.delta with
          | some d => s.setReg (Reg.PVp_MUu_CTXc_OFFSET (mu / 2) (mu % 2) u.ctx) (BitVec.ofNat 32 (unsigned 16 d))
          | none => s) s
        let s := s.setReg (Reg.PVp_MUu_GRPg_VEL (mu / 2) (mu % 2) g) (BitVec.ofNat 32 (unsigned 32 v))
        let s := s.modMergeGrp mu g (fun x => { x with
          refs := rest
          hist := ((ref.tag.enc, ref.tag.time) :: (if x.histDoc = ref.tag.idx + 1 then x.hist else [])).take 64
          histDoc := ref.tag.idx + 1 })
        let tag : Tag := { ref.tag with flags := flags, recipe := s.ownerRecipe (ownerKey 1 mu (1 + refC)) }
        s.sendTo ref.tag.stream (.line ⟨tag, chans.map (·.1)⟩) (kindsAfter 1)

def execMuOutputLine (mu g corr : Nat) (bad : List (Nat × Nat × Nat)) (s : State) : Host.Outcome State Fault Refusal :=
  answer s (mu < 8 && g < 4) (doMuOutputLine mu g corr bad s)

/-! ### Timers and markers -/

/-- The moment at which the timer of member line `j` of a document started: the reference member's line j, or its first later event, its
marker at the latest (R186). -/
def State.timerStart (s : State) (mu g idx j : Nat) : Option Nat :=
  ((s.mergeGrp mu g).events.find? (fun (e : Nat × Nat × Nat × Nat) => e.1 == idx && decide (j ≤ e.2.1))).map (fun e => e.2.2.1)

/-- A member line is missing by timeout, and counted (R186). -/
def State.loseMember (s : State) (mu c idx j : Nat) : State :=
  (s.modMember mu c (fun x => { x with gone := x.gone ++ [(idx, j)] })).muCount mu 4 1

/-- Member line `j` of the document at place `idx` lacks, and its timer with `extra` ns has run out. The timers stand still while the group's
output is held, and start again when that ends, so that a hold changes no content (R264, notes/assumptions/133.md). -/
def State.muLateIn (s : State) (mu g c idx j extra : Nat) : Bool :=
  let t := s.fld (Reg.PVp_MUu_GRPg_TIMEOUT (mu / 2) (mu % 2) g) Fld.PVp_MUu_GRPg_TIMEOUT_TIMEOUT
  t != 0 && !(s.member mu c).decided idx j && (s.timerStart mu g idx j).any (fun a =>
    let ch := s.fld (muCfg mu c) Fld.PVp_MUu_CTXc_CFG_STREAM
    !s.heldBack ch && decide (max a (s.holdEnd ch) + t * 64 + extra ≤ s.now))

/-- The oldest document of its group, by place, of which member line `j` lacks with its timer run out. -/
def State.muLate (s : State) (mu c j extra : Nat) : Option Nat :=
  (List.range 4).findSome? (fun g => ((s.mergeGrp mu g).events.find? (fun (e : Nat × Nat × Nat × Nat) =>
    (s.muMembers mu e.2.2.2 e.1 g).contains c && s.muLateIn mu g c e.1 j extra)).map (·.1))

/-- The timer of a member line expires (R186); the lead tells its partner (R187). -/
def doMuMemberTimeout (mu c j : Nat) (s : State) : State :=
  let s := s.muMarkers mu
  match s.follows, s.muLate mu c j 0 with
  | false, some idx =>
    let ch := s.fld (muCfg mu c) Fld.PVp_MUu_CTXc_CFG_STREAM
    (s.loseMember mu c idx j).sendDec 2 ch mu 1 0 j (idx, 0, 0)
  | _, _ => s

def execMuMemberTimeout (mu c j : Nat) (s : State) : Host.Outcome State Fault Refusal :=
  answer s (mu < 8 && c < 8) (doMuMemberTimeout mu c j s)

/-- A following device lacks a line and a decision 2 µs after its own timer: it signals and resolves the line as missing by
timeout (R187). -/
def doMuShadowWait (mu c j : Nat) (s : State) : State :=
  let s := s.muMarkers mu
  match s.follows, s.muLate mu c j 2000 with
  | true, some idx => ((s.loseMember mu c idx j).setBit (Reg.PVp_MUu_STATUS (mu / 2) (mu % 2)) 7).raiseError 54 0
  | _, _ => s

def execMuShadowWait (mu c j : Nat) (s : State) : Host.Outcome State Fault Refusal :=
  answer s (mu < 8 && c < 8) (doMuShadowWait mu c j s)

/-- The lead's timeout of a member line (R187): document place `idx`, line `j` of stream `ch`. -/
def State.decMember (s : State) (mu ch idx j : Nat) : State :=
  match s.muContext mu ch idx with
  | some c => if (s.member mu c).gone.contains (idx, j) then s else s.loseMember mu c idx j
  | none => s

/-- The reference member of a group with its oldest marker. -/
def State.refMark (s : State) (mu g : Nat) : Option Marker :=
  (List.range 8).findSome? (fun c => ((s.member mu c).marks.head?).filter (fun m => s.muRef mu m.stream m.idx g == some c))

/-- The group's marker follows its last output line once every member's marker has arrived (R180). -/
def doMuMarker (mu g : Nat) (s : State) : State :=
  if s.fenced 1 mu then s
  else
    let s := s.muMarkers mu
    match s.refMark mu g with
    | none => s
    | some m =>
      let members := s.muMembers mu m.stream m.idx g
      let marks := members.map (fun c => (s.member mu c).markOf m.idx)
      if marks.all (·.isSome) && !(s.mergeGrp mu g).refs.any (fun l => decide (l.tag.idx ≤ m.idx)) then
        let out : Marker := { m with
          trunc := marks.any (fun k => k.any (·.trunc)), short := marks.any (fun k => k.any (·.short)) }
        let s := members.foldl (fun s c => s.modMember mu c (fun x => { x with
          lines := x.lines.filter (fun l => decide (m.idx < l.tag.idx))
          marks := x.marks.filter (fun k => decide (m.idx < k.idx))
          gone := x.gone.filter (fun e => decide (m.idx < e.1))
          pitch := x.pitch.filter (fun e => decide (m.idx < e.1)) })) s
        let s := s.modMergeGrp mu g (fun x => { x with events := x.events.filter (fun e => decide (m.idx < e.1)) })
        s.sendTo m.stream (.marker out) (kindsAfter 1)
      else s

def execMuMarker (mu g : Nat) (s : State) : Host.Outcome State Fault Refusal :=
  answer s (mu < 8 && g < 4) (doMuMarker mu g s)

end Sys2Proof.Machine
end

