-- ==== Sys2Proof/Machine/Belvedere.lean ====
section
/-! DEFINITION. The Belvedere statistics units (spec/09): what a context observes at its tap point, histograms, summaries and zones,
windows, and the statistics record. -/

namespace Sys2Proof.Machine

/-- The registers of context c of BU number `b`. -/
def buCfg (b c : Nat) : Nat := Reg.PVp_BUu_CTXc_CFG (b / 2) (b % 2) c

/-- BU counter k counts and its event bit sets (R246, R248, R250). -/
def State.buCount (s : State) (b k n : Nat) : State :=
  if n = 0 then s
  else (s.countN (Reg.PVp_BUu_CNTk (b / 2) (b % 2) k) n).setBit (Reg.PVp_BUu_STATUS (b / 2) (b % 2)) k

/-- A BU context's state changed by `f`. -/
def State.modBu (s : State) (b c : Nat) (f : BuCtx → BuCtx) : State := { s with bu := s.bu.modify (8 * b + c) f }

/-! ### Settings (R234) -/

/-- The registers that a context latches. -/
def buRegs (b c : Nat) : List Nat :=
  [buCfg b c, Reg.PVp_BUu_CTXc_EXCL (b / 2) (b % 2) c, Reg.PVp_BUu_CTXc_WIN (b / 2) (b % 2) c,
    Reg.PVp_BUu_CTXc_ZGRID (b / 2) (b % 2) c, Reg.PVp_BUu_CTXc_ZORG (b / 2) (b % 2) c, Reg.PVp_BUu_CTXc_ZSIZE (b / 2) (b % 2) c]
    ++ (List.range 4).flatMap (fun r =>
      [Reg.PVp_BUu_CTXc_REGr_X (b / 2) (b % 2) c r, Reg.PVp_BUu_CTXc_REGr_Y (b / 2) (b % 2) c r])

/-- Whether an item that opens a document or window at a pre-geometry context finds the staged bank of its recipe loaded and not yet swapped
in (R234). `recipe` is the tag's, none for a marker. -/
def State.buEarly (s : State) (b c ch : Nat) (post : Bool) (recipe : Option Nat) : Bool :=
  let pv := s.pav.get (s.homePv ch)
  !post && recipe.isSome && pv.recipe == recipe && !pv.swapped.contains (ownerKey 3 b (1 + c))

/-- A register as such an item finds it. -/
def State.buWord (s : State) (b c ch : Nat) (post : Bool) (recipe : Option Nat) (off : Nat) : Nat :=
  if s.buEarly b c ch post recipe then s.stagedWord (s.homePv ch) off else (s.reg off).toNat

/-- The settings for a document or window that the item opens. -/
def State.buLatch (s : State) (b c ch : Nat) (post : Bool) (recipe : Option Nat) (win : Option Nat) : BuSet :=
  let words := (buRegs b c).map (s.buWord b c ch post recipe)
  ⟨words, if s.buEarly b c ch post recipe then recipe.getD 0 else s.ownerRecipe (ownerKey 3 b (1 + c)), win.getD (words.getD 2 0 % 2 ^ 16)⟩

/-- Fields of latched settings. -/
def BuSet.fld (x : BuSet) (i : Nat) (f : Fld) : Nat := x.words.getD i 0 / 2 ^ f.lo % 2 ^ f.width
def BuSet.nch (x : BuSet) : Nat := max 1 (min 8 (x.fld 0 Fld.PVp_BUu_CTXc_CFG_NCH))
def BuSet.bins (x : BuSet) : Nat := if x.fld 0 Fld.PVp_BUu_CTXc_CFG_HBINS = 1 then 1024 else 256
def BuSet.regOn (x : BuSet) (r : Nat) : Bool := bitB (x.fld 0 Fld.PVp_BUu_CTXc_CFG_REG_EN) r
def BuSet.regions (x : BuSet) : List Nat := (List.range 4).filter x.regOn
def BuSet.zx (x : BuSet) : Nat :=
  if x.fld 3 Fld.PVp_BUu_CTXc_ZGRID_ZY = 0 then 0 else min 32 (x.fld 3 Fld.PVp_BUu_CTXc_ZGRID_ZX)
def BuSet.zy (x : BuSet) : Nat :=
  if x.fld 3 Fld.PVp_BUu_CTXc_ZGRID_ZX = 0 then 0 else min 32 (x.fld 3 Fld.PVp_BUu_CTXc_ZGRID_ZY)

/-! ### Accumulators (R236 to R240) -/

/-- The numbers of the accumulators: bin `i` of region r and channel ch; the summary of region r (0 COUNT, then for each
channel 65,535 less MIN, MAX, SUM); zone z (0 ZCOUNT, 1 ZSAT, then the sums). -/
def accBin (r ch i : Nat) : Nat := (8 * r + ch) * 1024 + i
def accSum (r j : Nat) : Nat := 40000 + 32 * r + j
def accZone (z j : Nat) : Nat := 50000 + 16 * z + j

/-- An accumulator grows. -/
def accAdd (t : Table Nat) (k v : Nat) : Table Nat := Table.set t k (t.get k + v)
def accMax (t : Table Nat) (k v : Nat) : Table Nat := Table.set t k (max (t.get k) v)

/-- The bin of a value (R237). -/
def BuSet.binOf (x : BuSet) (v : Nat) : Nat := min (x.bins - 1) (v / 2 ^ x.fld 0 Fld.PVp_BUu_CTXc_CFG_HSHIFT)

/-- A value of region r and channel ch is counted. -/
def BuSet.pixel (x : BuSet) (t : Table Nat) (r ch v : Nat) : Table Nat :=
  accAdd (accMax (accMax (accAdd t (accBin r ch (x.binOf v)) 1) (accSum r (1 + 3 * ch)) (65535 - v))
    (accSum r (2 + 3 * ch)) v) (accSum r (3 + 3 * ch)) v

/-- A region takes a line at line number `y`: the columns X0 to X1. -/
def BuSet.region (x : BuSet) (t : Table Nat) (px : List (List Nat)) (y r : Nat) : Table Nat :=
  let fx := x.words.getD (6 + 2 * r) 0
  let fy := x.words.getD (7 + 2 * r) 0
  let x0 := Fld.PVp_BUu_CTXc_REGr_X_X0.get (BitVec.ofNat 32 fx)
  let x1 := Fld.PVp_BUu_CTXc_REGr_X_X1.get (BitVec.ofNat 32 fx)
  let y0 := Fld.PVp_BUu_CTXc_REGr_Y_Y0.get (BitVec.ofNat 32 fy)
  let y1 := Fld.PVp_BUu_CTXc_REGr_Y_Y1.get (BitVec.ofNat 32 fy)
  if y0 ≤ y ∧ y ≤ y1 then
    let cut (c : List Nat) : List Nat := (c.take (x1 + 1)).drop x0
    let t := accAdd t (accSum r 0) (cut (px.headD [])).length
    (List.range x.nch).foldl (fun t ch => (cut (px.getD ch [])).foldl (fun t v => x.pixel t r ch v) t) t
  else t

/-- The zone grid takes a line at line number `y` (R239, R240). -/
def BuSet.zones (x : BuSet) (t : Table Nat) (px : List (List Nat)) (y : Nat) : Table Nat :=
  let zx0 := x.fld 4 Fld.PVp_BUu_CTXc_ZORG_ZX0
  let zy0 := x.fld 4 Fld.PVp_BUu_CTXc_ZORG_ZY0
  let zw := max 1 (x.fld 5 Fld.PVp_BUu_CTXc_ZSIZE_ZW)
  let zh := max 1 (x.fld 5 Fld.PVp_BUu_CTXc_ZSIZE_ZH)
  let row := (y - zy0) / zh
  let thr := x.fld 3 Fld.PVp_BUu_CTXc_ZGRID_ZSAT_THR
  if x.zx = 0 ∨ y < zy0 ∨ x.zy ≤ row then t
  else (List.range (px.headD []).length).foldl (fun t col =>
    let zc := (col - zx0) / zw
    if col < zx0 ∨ x.zx ≤ zc then t
    else
      let z := row * x.zx + zc
      let vs := (List.range x.nch).map (fun ch => (px.getD ch []).getD col 0)
      let t := accAdd t (accZone z 0) 1
      let t := if vs.any (fun v => decide (thr ≤ v)) then accAdd t (accZone z 1) 1 else t
      (List.range x.nch).foldl (fun t ch => accAdd t (accZone z (2 + ch)) (vs.getD ch 0)) t) t

/-- A counted line enters the accumulators. -/
def BuSet.line (x : BuSet) (t : Table Nat) (px : List (List Nat)) (y : Nat) : Table Nat :=
  x.zones (x.regions.foldl (fun t r => x.region t px y r) t) px y

/-! ### Observation (R232 to R235, R241) -/

/-- A context's record of stream `ch` begins. -/
def BuRec.start (ch : Nat) (post : Bool) (x : BuSet) (doc idx window : Nat) : BuRec := ⟨ch, b2n post, x, doc, idx, window, 0, 0, 0, false, []⟩

/-- The line number within a record. -/
def BuRec.row (r : BuRec) (line : Nat) : Nat := if r.set.win = 0 then line else line - r.window * r.set.win

/-- Errors found in bin or zone memory while a line is counted (R250). -/
def State.buErrors (s : State) (b c : Nat) (errs : List BuErr) : State :=
  errs.foldl (fun s e =>
    if e.ctx ≠ c then s
    else if e.uncorr then
      ((s.modBu b c (fun x => { x with
        cur := x.cur.map (fun r => { r with err := true, acc := Table.set r.acc e.acc 0 }) })).buCount b 4 1).raiseError
          (19 + 4 * (b / 2)) (b % 2)
    else (s.buCount b 3 1).raiseCorr (19 + 4 * (b / 2)) (b % 2)) s

/-- Windows that the line number has passed close, and the next window opens (R241). -/
def State.buAdvance (b c ch : Nat) (post : Bool) (recipe : Option Nat) (line : Nat) : Nat → State → State
  | 0, s => s
  | fuel + 1, s =>
    match (s.bu.get (8 * b + c)).cur with
    | none => s
    | some r =>
      if r.set.win ≠ 0 ∧ (r.window + 1) * r.set.win ≤ line then
        let set := s.buLatch b c ch post recipe (some r.set.win)
        State.buAdvance b c ch post recipe line fuel (s.modBu b c (fun x => { x with
          due := x.due ++ [r], cur := some (BuRec.start ch post set r.doc r.idx (r.window + 1)) }))
      else s

/-- A context observes a line at its tap point. -/
def State.buLine (s : State) (b c ch : Nat) (post : Bool) (errs : List BuErr) (l : Line) : State :=
  let fresh := match (s.bu.get (8 * b + c)).cur with
    | some r => r.idx != l.tag.idx || r.stream != ch
    | none => true
  let s := if fresh then
      let set := s.buLatch b c ch post (some l.tag.recipe) none
      s.modBu b c (fun x => { x with cur := some (BuRec.start ch post set l.tag.doc l.tag.idx 0) })
    else s
  let s := State.buAdvance b c ch post (some l.tag.recipe) l.tag.line (l.tag.line + 1) s
  let s := s.buErrors b c errs
  match (s.bu.get (8 * b + c)).cur with
  | none => s
  | some r =>
    let mask := r.set.words.getD 1 0
    if Nat.land mask l.tag.flags % 2 ^ 16 ≠ 0 then
      (s.modBu b c (fun x => { x with cur := some { r with skipped := r.skipped + 1 } })).buCount b 2 1
    else
      s.modBu b c (fun x => { x with cur := some { r with
        lines := r.lines + 1
        flags := Nat.lor r.flags l.tag.flags
        acc := r.set.line r.acc l.px (r.row l.tag.line) } })

/-- A context observes a document-end marker: its record, or its windows up to the one that holds the document's last line
number, close (R241). TRUNC and SHORT_DOC join the record that the marker closes last. -/
def State.buMark (s : State) (b c ch : Nat) (post : Bool) (m : Marker) : State :=
  let fresh := match (s.bu.get (8 * b + c)).cur with
    | some r => r.idx != m.idx || r.stream != ch
    | none => true
  let s := if fresh then
      let set := s.buLatch b c ch post none none
      s.modBu b c (fun x => { x with cur := some (BuRec.start ch post set m.doc m.idx 0) })
    else s
  let s := State.buAdvance b c ch post none (m.count - 1) (m.count + 1) s
  s.modBu b c (fun x => match x.cur with
    | none => x
    | some r =>
      let flags := if m.trunc then setFlag r.flags flagTrunc else r.flags
      let flags := if m.short then setFlag flags flagShort else flags
      { x with
        due := if r.set.win ≠ 0 ∧ m.count = 0 then x.due else x.due ++ [{ r with flags := flags }]
        cur := none
        closed := m.idx + 1 })

/-- A context of the stream's BU observes an item of the document at place `idx`: the record it makes is of that document, or the settings
that the item would open one with name the stream (R232, R234). A fenced BU observes no line (R485), and a marker only for the
record that has ECC_ERR, which it still completes (R250, notes/assumptions/136.md). -/
def State.buSees (s : State) (b c ch : Nat) (post : Bool) (idx : Nat) (recipe : Option Nat) (isMark : Bool) : Bool :=
  let mine := (s.bu.get (8 * b + c)).cur.any (fun r => r.idx == idx && r.stream == ch && r.tap == b2n post)
  if s.fenced 3 b then isMark && mine && (s.bu.get (8 * b + c)).cur.any (·.err)
  else
    let w := BitVec.ofNat 32 (s.buWord b c ch post recipe (buCfg b c))
    mine || (s.on (Reg.PGL_CHn_ROUTE ch) Fld.PGL_CHn_ROUTE_TAP == post && Fld.PVp_BUu_CTXc_CFG_VALID.get w == 1 && Fld.PVp_BUu_CTXc_CFG_STREAM.get w == ch)

/-- The contexts that observe an item of a stream at a point. -/
def State.observers (s : State) (ch : Nat) (post : Bool) (idx : Nat) (recipe : Option Nat) (isMark : Bool) : List (Nat × Nat) :=
  match s.routeUnit ch 3 with
  | none => []
  | some b => ((List.range 8).filter (fun c => s.buSees b c ch post idx recipe isMark)).map (fun c => (b, c))

/-- An item of a stream passes a tap point. -/
def State.observe (s : State) (ch : Nat) (post : Bool) (errs : List BuErr) (it : Item) : State :=
  match it with
  | .line l => (s.observers ch post l.tag.idx (some l.tag.recipe) false).foldl (fun s e => s.buLine e.1 e.2 ch post errs l) s
  | .marker m => (s.observers ch post m.idx none true).foldl (fun s e => s.buMark e.1 e.2 ch post m) s

/-- An item reaches the OF's input: the post-geometry point, and the pre-geometry point of a stream without a GU (R232). -/
def State.observeOf (s : State) (ch : Nat) (errs : List BuErr) (it : Item) : State :=
  let s := if s.routeUnit ch 2 = none then s.observe ch false errs it else s
  s.observe ch true errs it

/-! ### The record (R244, R245) -/

/-- A zone mean (R240). -/
def zoneMean (sum n : Nat) : Nat := if n = 0 then 0 else (sum + n / 2) / n

/-- The bytes of a record without CHECK, for context c of BU `b`. -/
def BuRec.body (r : BuRec) (b c : Nat) : List Nat :=
  let x := r.set
  let nreg := x.regions.length
  let zones := x.zx * x.zy
  let sumSize := nreg * (8 + 12 * x.nch)
  let histSize := nreg * x.nch * x.bins * 4
  let zoneSize := zones * (8 + 4 * ((x.nch + 1) / 2))
  let size := 64 + sumSize + histSize + zoneSize + 4
  let a (k : Nat) : Nat := r.acc.get k
  let hdr := [0x54, 0x53, 0x54, 0x41] ++ leBytes 2 1 ++ leBytes 2 64 ++ leBytes 4 size ++ leBytes 4 r.doc
    ++ leBytes 4 (if x.win = 0 then 0 else r.window) ++ leBytes 4 r.lines ++ leBytes 4 r.skipped
    ++ [r.stream, r.tap, x.nch, r.set.recipe, x.fld 0 Fld.PVp_BUu_CTXc_CFG_REG_EN, x.fld 0 Fld.PVp_BUu_CTXc_CFG_HBINS, x.zx, x.zy]
    ++ leBytes 4 (r.flags % 2 ^ 16 * 2 ^ 16 + b2n r.err) ++ leBytes 4 64 ++ leBytes 4 (64 + sumSize)
    ++ leBytes 4 (if zones = 0 then 0 else 64 + sumSize + histSize) ++ leBytes 2 b ++ [c] ++ List.replicate 9 0
  let sums := x.regions.flatMap (fun q =>
    leBytes 4 (a (accSum q 0)) ++ leBytes 4 0 ++ (List.range x.nch).flatMap (fun ch =>
      leBytes 2 (65535 - a (accSum q (1 + 3 * ch))) ++ leBytes 2 (a (accSum q (2 + 3 * ch))) ++ leBytes 8 (a (accSum q (3 + 3 * ch)))))
  let hist := x.regions.flatMap (fun q => (List.range x.nch).flatMap (fun ch =>
    (List.range x.bins).flatMap (fun i => leBytes 4 (a (accBin q ch i)))))
  let zs := (List.range zones).flatMap (fun z =>
    leBytes 4 (a (accZone z 0)) ++ leBytes 4 (a (accZone z 1))
      ++ (List.range x.nch).flatMap (fun ch => leBytes 2 (zoneMean (a (accZone z (2 + ch))) (a (accZone z 0))))
      ++ (if x.nch % 2 = 1 then [0, 0] else []))
  hdr ++ sums ++ hist ++ zs

/-- The whole record: the body and its CRC-32C (R245). -/
def BuRec.bytes (r : BuRec) (b c : Nat) : List Nat :=
  let body := r.body b c
  body ++ leBytes 4 (crc32c body)

/-- Two reports of one record differ (R506). -/
def State.recDiff (s : State) (same : Bool) : State :=
  if same then s else (s.count (Reg.TWN_CNTk 2)).setFld Reg.TWN_EVENT Fld.TWN_EVENT_REC_DIFF 1

/-- REC report with the record's CHECK (R506); a report of the partner that has already come is compared. -/
def State.sendRec (s : State) (b c seqNo doc check : Nat) : State :=
  if s.on Reg.GLB_ROLE Fld.GLB_ROLE_PAIRED && (s.twinState == 2 || s.twinState == 4 || s.twinState == 5) then
    let s := s.toPartner 3 [b + 16 * c, seqNo, doc, check]
    match (s.bu.get (8 * b + c)).recFar.find? (fun (r : Nat × Nat × Nat) => r.1 == seqNo) with
    | some r => (s.modBu b c (fun x => { x with recFar := x.recFar.erase r })).recDiff (r.2 == (doc, check))
    | none => s.modBu b c (fun x => { x with recOwn := x.recOwn ++ [(seqNo, doc, check)] })
  else s

/-- A record check of the partner (R506). -/
def State.recReport (s : State) (b c seqNo doc check : Nat) : State :=
  match (s.bu.get (8 * b + c)).recOwn.find? (fun (r : Nat × Nat × Nat) => r.1 == seqNo) with
  | some r => (s.modBu b c (fun x => { x with recOwn := x.recOwn.erase r })).recDiff (r.2 == (doc, check))
  | none => s.modBu b c (fun x => { x with recFar := x.recFar ++ [(seqNo, doc, check)] })

end Sys2Proof.Machine
end

