-- ==== Sys2Proof/Machine/Trellis.lean ====
section
/-! DEFINITION. The Trellis geometry units (spec/08): the registration grid, delay rings, release, stitching and crop, edge
measurement, the box, deskew. -/

namespace Sys2Proof.Machine

/-- GU counter k counts and its event bit sets (R203 to R230). -/
def State.guCount (s : State) (p k n : Nat) : State :=
  if n = 0 then s else (s.countN (Reg.PVp_GU_CNTk p k) n).setBit (Reg.PVp_GU_STATUS p) k

/-- The context of a GU that serves a stream's document at place `idx`. -/
def State.guContext (s : State) (p ch idx : Nat) : Option Nat :=
  s.servedBy ch idx (Reg.PVp_GU_CTXc_CFG p) Fld.PVp_GU_CTXc_CFG_VALID Fld.PVp_GU_CTXc_CFG_STREAM

/-- Contexts and paths changed by a function. -/
def State.guC (s : State) (p c : Nat) : GuCtx := s.guCtx.get (8 * p + c)
def State.modGuC (s : State) (p c : Nat) (f : GuCtx → GuCtx) : State := { s with guCtx := s.guCtx.modify (8 * p + c) f }
def State.guP (s : State) (p q : Nat) : GuPath := s.guPath.get (8 * p + q)
def State.modGuP (s : State) (p q : Nat) (f : GuPath → GuPath) : State := { s with guPath := s.guPath.modify (8 * p + q) f }

/-- The stream of a context, its ring size, and PITCH as it acts (R202). -/
def State.guStream (s : State) (p c : Nat) : Nat := s.fld (Reg.PVp_GU_CTXc_CFG p c) Fld.PVp_GU_CTXc_CFG_STREAM
def State.ringLines (s : State) (p c : Nat) : Nat := s.fld (Reg.PVp_GU_CTXc_RING_LINES p c) Fld.PVp_GU_CTXc_RING_LINES_LINES
def State.guPitch (s : State) (p c : Nat) : Nat := max 1 (s.fld (Reg.PVp_GU_CTXc_GRID p c) Fld.PVp_GU_CTXc_GRID_PITCH)

/-- LEVEL shows the ring slots in use (R208). -/
def State.showRing (s : State) (p c : Nat) : State :=
  s.setFld (Reg.PVp_GU_CTXc_LEVEL p c) Fld.PVp_GU_CTXc_LEVEL_LINES
    (if s.ringLines p c = 0 then 0 else (s.guC p c).ring.length)

/-! ### The delay ring in frame memory (R206, R226) -/

/-- The data address of a tile row's first block (R226): a ring is a sequence of bands of 32 slots, a band a sequence of tiles of 32
columns, a tile 32 tile rows of a block for each channel (notes/assumptions/94.md). -/
def State.tileAddr (s : State) (p c : Nat) (x : GuLine) (t : Nat) : Nat :=
  s.fld (Reg.PVp_GU_CTXc_RING_BASE p c) Fld.PVp_GU_CTXc_RING_BASE_BASE * 2 ^ 16
    + ((x.slot / 32 * ((x.cols + 31) / 32) + t) * 32 + x.slot % 32) * (64 * x.nch)

/-- The block that holds 32 values, each of two bytes, the low one first; and back. -/
def tileBytes (px : List Nat) : List Nat :=
  (List.range 32).flatMap (fun i => [px.getD i 0 % 256, px.getD i 0 / 256 % 256])
def tilePx (bytes : List Nat) : List Nat := (List.range 32).map (fun i => bytes.getD (2 * i) 0 + 256 * bytes.getD (2 * i + 1) 0)

/-- The number of tiles that a line spans. -/
def GuLine.tiles (x : GuLine) : Nat := (x.cols + 31) / 32

/-- A grid line is written to its slot, block by block (R206, R226). -/
def State.ringWrite (s : State) (p c : Nat) (x : GuLine) : State :=
  (List.range x.tiles).foldl (fun s t =>
    (List.range x.nch).foldl (fun s ch =>
      s.fmPut (s.tileAddr p c x t + 64 * ch) (tileBytes ((x.line.px.getD ch []).drop (32 * t)))) s) s

/-- A tile row is read (R226): the columns of each channel, and the worst outcome of its blocks. `extra` symbols are found in error in
its first block. -/
def State.tileRead (s : State) (p c : Nat) (x : GuLine) (t extra : Nat) : State × List (List Nat) × Nat :=
  (List.range x.nch).foldl (fun (r : State × List (List Nat) × Nat) ch =>
    let b := r.1.fmFetch (r.1.tileAddr p c x t + 64 * ch) (if ch = 0 then extra else 0)
    (b.1, r.2.1 ++ [tilePx b.2.1], max r.2.2 b.2.2)) (s, [], 0)

/-- Tile rows side by side, each with its columns by channel, are a line. -/
def joinTiles (nch cols : Nat) (tiles : List (List (List Nat))) : List (List Nat) :=
  (List.range nch).map (fun ch => (tiles.flatMap (fun t => t.getD ch [])).take cols)

/-- The first free slot of a ring from `g mod RING_LINES` on: the rule's own slot, unless a line of an earlier document is still there
(R206, R208, notes/assumptions/94.md). -/
def State.ringSlot (s : State) (p c g : Nat) : Nat :=
  let n := s.ringLines p c
  let used := (s.guC p c).ring.map (·.slot)
  (((List.range n).map (fun i => (g + i) % n)).find? (fun i => !used.contains i)).getD (g % n)

/-! ### The write side -/

/-- A grid line is written to its ring, or passes straight to the read side (R206). A line due to carry DROP_BEFORE does. -/
def State.guStore (s : State) (p c : Nat) (x : GuLine) : State :=
  let flags := if (s.guC p c).dropRing then setFlag x.line.tag.flags flagDrop else x.line.tag.flags
  let tag : Tag := { x.line.tag with flags := flags }
  let x := { x with cols := (x.line.px.headD []).length, nch := x.line.px.length, line := { x.line with tag := tag } }
  let ring := s.ringLines p c != 0
  let x := if ring then { x with slot := s.ringSlot p c x.g } else x
  let s := if ring then s.ringWrite p c x else s
  let kept := if ring then { x with line := ⟨tag, []⟩ } else x
  (s.modGuC p c (fun k => { k with ring := k.ring ++ [kept], dropRing := false })).showRing p c

/-- A grid line is discarded for want of a slot (R208). -/
def State.guDiscard (s : State) (p c : Nat) (x : GuLine) : State :=
  (s.modGuC p c (fun k => { k with gone := k.gone ++ [(x.idx, x.g)], dropRing := true })).guCount p 1 1

/-- Every ring slot of a context is in use. -/
def State.ringFull (s : State) (p c : Nat) : Bool :=
  s.ringLines p c != 0 && decide (s.ringLines p c ≤ (s.guC p c).ring.length)

/-- The device decides of its own whether a grid line is kept (R208); a lead sends the decision (R209). -/
def State.guDecide (s : State) (p c : Nat) (x : GuLine) : State :=
  let ch := s.guStream p c
  if s.ringLines p c = 0 then s.guStore p c x
  else if s.ringFull p c then (s.sendDec 3 ch p 0 0 x.g (x.idx, 0, 0)).guDiscard p c x
  else (s.sendDec 3 ch p 1 0 x.g (x.idx, 0, 0)).guStore p c x

/-- The lead's decision for a grid line is applied (R209): a line kept for which there is no slot is lost, and signalled. -/
def State.guApply (s : State) (p c : Nat) (x : GuLine) (outcome : Nat) : State :=
  if outcome = 0 then s.guDiscard p c x
  else if s.ringFull p c then
    ((s.modGuC p c (fun k => { k with gone := k.gone ++ [(x.idx, x.g)] })).setFld (Reg.PVp_GU_STATUS p)
      Fld.PVp_GU_STATUS_SHADOW_OVF 1).raiseError 54 0
  else s.guStore p c x

/-- Waiting grid lines whose decisions have come are applied in order. -/
def State.guSettle : Nat → State → Nat → Nat → State
  | 0, s, _, _ => s
  | fuel + 1, s, p, c =>
    let k := s.guC p c
    match k.wait with
    | [] => s
    | w :: rest =>
      match k.decs.find? (fun (d : Nat × Nat × Nat) => d.1 == w.line.idx && d.2.1 == w.line.g) with
      | none => s
      | some d =>
        let s := s.modGuC p c (fun k => { k with wait := rest, decs := k.decs.filter (fun (e : Nat × Nat × Nat) => e != d) })
        State.guSettle fuel (s.guApply p c w.line d.2.2) p c

/-- A grid line is generated: a following device waits for the lead's decision (R209). -/
def State.guEmit (s : State) (p c : Nat) (x : GuLine) : State :=
  if s.follows && s.ringLines p c != 0 then
    let w : GuWait := ⟨s.now, false, x⟩
    let s := s.modGuC p c (fun k => { k with wait := k.wait ++ [w] })
    State.guSettle ((s.guC p c).wait.length) s p c
  else s.guDecide p c x

/-- The signed distance of an input line from the grid origin in 1/65,536 count (R203). -/
def gridPos (origin : Nat) (l : Line) : Int := 65536 * diff32 l.tag.enc origin

/-- A grid line from one line (R204). -/
def gridCopy (l : Line) (g origin dist : Nat) (drop : Bool) : Line :=
  let flags := passFlags l.tag.flags
  { l with tag := { l.tag with
      line := g, enc := (origin + dist / 65536) % 2 ^ 32
      flags := if drop then setFlag flags flagDrop else flags } }

/-- A grid line from two lines with fraction f (R204, R205). -/
def gridMix (linear : Bool) (prev cur : Line) (f : Int) (g origin dist : Nat) (drop : Bool) : Line :=
  let wp : Int := if linear then 64 - f else if f < 32 then 64 else 0
  let wc : Int := 64 - wp
  let px := (prev.px.zip cur.px).map (fun e =>
    (e.1.zip e.2).map (fun v => ((wp * (v.1 : Nat) + wc * (v.2 : Nat) + 32) / 64).toNat))
  let flags := Nat.lor (if wp = 0 then 0 else passFlags prev.tag.flags) (if wc = 0 then 0 else passFlags cur.tag.flags)
  let time := unsigned 64 ((prev.tag.time : Int) + ((cur.tag.time : Int) - prev.tag.time) * f / 64)
  ⟨{ prev.tag with
      line := g, time := time, enc := (origin + dist / 65536) % 2 ^ 32
      flags := if drop then setFlag flags flagDrop else flags }, px⟩

/-- One grid line is emitted; after grid line 32,767, which carries TRUNC, there is none (R203). -/
def State.gridLine (s : State) (p c idx : Nat) (l : Line) (dist : Nat) : State :=
  let k := s.guC p c
  let cut := k.next == 32767
  let l := if cut then { l with tag := { l.tag with flags := setFlag l.tag.flags flagTrunc } } else l
  let s := s.modGuC p c (fun k => { k with next := k.next + 1, dropIn := false })
  let s := if cut then s.guCount p 2 1 else s
  s.guEmit p c { (default : GuLine) with idx := idx, g := k.next, origin := k.origin, dist := dist, line := l }

/-- The grid lines that the document's first line yields alone (R203). -/
def State.gridFirst (p c : Nat) (l : Line) : Nat → State → State
  | 0, s => s
  | fuel + 1, s =>
    let k := s.guC p c
    let dist := k.next * s.guPitch p c
    if (dist : Int) ≤ gridPos k.origin l ∧ k.next ≤ 32767 then
      State.gridFirst p c l fuel (s.gridLine p c l.tag.idx (gridCopy l k.next k.origin dist k.dropIn) dist)
    else s

/-- The grid lines between two successive lines (R203). -/
def State.gridPair (p c : Nat) (prev cur : Line) : Nat → State → State
  | 0, s => s
  | fuel + 1, s =>
    let k := s.guC p c
    let dist := k.next * s.guPitch p c
    let a := gridPos k.origin prev
    let b := gridPos k.origin cur
    if a ≤ (dist : Int) ∧ (dist : Int) < b ∧ k.next ≤ 32767 then
      let d := b - a
      let f := (128 * ((dist : Int) - a) + d) / (2 * d)
      let lin := s.on (Reg.PVp_GU_CTXc_CFG p c) Fld.PVp_GU_CTXc_CFG_GRID_INTERP
      State.gridPair p c prev cur fuel
        (s.gridLine p c cur.tag.idx (gridMix lin prev cur f k.next k.origin dist k.dropIn) dist)
    else s

/-- A context regrids an input line (R202 to R205). -/
def State.guRegrid (s : State) (p c ch : Nat) (l : Line) : State :=
  let k := s.guC p c
  let drop := bitB l.tag.flags flagDrop
  if k.doc = l.tag.idx + 1 then
    let s := s.modGuC p c (fun k => { k with dropIn := k.dropIn || drop })
    if 32767 < k.next then s
    else
      let t := match k.prev with
        | some prev => State.gridPair p c prev l 32769 s
        | none => s
      let t := if (t.guC p c).next = k.next then t.guCount p 0 1 else t
      t.modGuC p c (fun k => { k with prev := some l })
  else
    let origin := if s.isCont ch then l.tag.lead else s.winStart ch l.tag.lead
    let s := s.modGuC p c (fun k => { k with
      doc := l.tag.idx + 1, origin := origin, next := 0, prev := some l, dropIn := k.dropIn || drop })
    let t := State.gridFirst p c l 32769 s
    if (t.guC p c).next = 0 then t.guCount p 0 1 else t

/-- Markers at the front of a GU's channel arrive at their contexts, with the number of grid lines emitted (R205). -/
def State.guArrive : Nat → State → Nat → Nat → List BuErr → State
  | 0, s, _, _, _ => s
  | fuel + 1, s, p, ch, errs =>
    match s.waitingAt 2 p ch, (s.arb.get (unitKey 2 p)).taken.any (fun t => t.1 == ch) with
    | .marker m :: rest, false =>
      let s := (s.setWaiting 2 p ch rest).markerIn 2 p ch m
      let s := s.observe ch false errs (.marker m)
      let s := match s.guContext p ch m.idx with
        | none => s.sendTo ch (.marker m) (kindsAfter 2)
        | some c => s.modGuC p c (fun k => { k with
            marks := k.marks ++ [{ m with count := if k.doc = m.idx + 1 then k.next else 0 }] })
      State.guArrive fuel s p ch errs
    | _, _ => s

/-- Every marker that has reached the GU arrives. -/
def State.guMarkers (s : State) (p : Nat) : State :=
  (s.pointChans 2 p).foldl (fun s ch => State.guArrive ((s.waitingAt 2 p ch).length + 1) s p ch []) s

/-- A GU takes its line: the context swaps to the document's recipe, the pre-geometry tap observes the line, and the context
regrids it (R59, R201 to R205, R232). -/
def doGuInput (p : Nat) (gh : Ecc) (errs : List BuErr) (s : State) : State :=
  if s.fenced 2 p then s
  else match s.readTaken 2 p gh with
    | (s, none) => s.guMarkers p
    | (s, some (ch, l)) =>
      let s := match s.guContext p ch l.tag.idx with
        | none => (s.observe ch false errs (.line l)).sendTo ch (.line l) (kindsAfter 2)
        | some c =>
          let s := s.observe ch false errs (.line l)
          let s := s.swapAt ch l.tag.idx (ownerKey 2 p (1 + c)) [] true
          s.guRegrid p c ch { l with tag := { l.tag with recipe := s.ownerRecipe (ownerKey 2 p (1 + c)) } }
      s.guMarkers p

def execGuInputLine (p : Nat) (gh : Ecc) (errs : List BuErr) (s : State) : Host.Outcome State Fault Refusal :=
  answer s (p < 4) (doGuInput p gh errs s)

/-- A grid line that waits has lacked the lead's decision for 2 µs, and the lack was not yet signalled (R209). -/
def GuWait.overdue (w : GuWait) (now : Nat) : Bool := !w.late && decide (w.began + 2000 ≤ now)

/-- A following device lacks the lead's decision 2 µs after it generated a line (R209): it signals for each such line, and the lines wait
on. -/
def doGuTimeout (p c : Nat) (s : State) : State :=
  let wait := (s.guC p c).wait
  let n := (wait.filter (fun w => w.overdue s.now)).length
  if s.follows && n != 0 then
    ((s.modGuC p c (fun k => { k with wait := k.wait.map (fun w => if w.overdue s.now then { w with late := true } else w) })).setFld
      (Reg.PVp_GU_STATUS p) Fld.PVp_GU_STATUS_DECISION_TIMEOUT 1).raiseErrors 54 0 n
  else s

def execGuDiscardDecisionTimeout (p c : Nat) (s : State) : Host.Outcome State Fault Refusal :=
  answer s (p < 4 && c < 8) (doGuTimeout p c s)

/-! ### Release (R207) -/

/-- The registers that a path latches at a document's first released line (R201). -/
def guPathRegs (p q : Nat) : List Nat :=
  [Reg.PVp_GU_PATHq_CFG p q, Reg.PVp_GU_PATHq_CROP p q, Reg.PVp_GU_PATHq_CTRL p q, Reg.PVp_GU_PATHq_FILL p q,
    Reg.PVp_GU_PATHq_EDGE_WIN p q, Reg.PVp_GU_PATHq_EDGE_THR p q, Reg.PVp_GU_PATHq_EDGE_CFG p q, Reg.PVp_GU_PATHq_MEAS p q,
    Reg.PVp_GU_PATHq_BOX p q, Reg.PVp_GU_PATHq_BOX_OFF p q, Reg.PVp_GU_PATHq_LIMIT p q]

/-- A field of latched register i. -/
def GuPath.fld (x : GuPath) (i : Nat) (f : Fld) : Nat := x.regs.getD i 0 / 2 ^ f.lo % 2 ^ f.width

/-- The contexts of a path: the left part first (R199). -/
def State.guPathCtxs (s : State) (p q : Nat) : List Nat :=
  let r := Reg.PVp_GU_PATHq_CFG p q
  let a := s.fld r Fld.PVp_GU_PATHq_CFG_CTX_A
  if s.on r Fld.PVp_GU_PATHq_CFG_STITCH then [a, s.fld r Fld.PVp_GU_PATHq_CFG_CTX_B] else [a]

/-- The oldest document that a path has: the one in progress, or the first that its contexts hold. -/
def State.guDoc (s : State) (p q : Nat) : Option Nat :=
  match (s.guP p q).cur with
  | some i => some i
  | none =>
    let idxs := (s.guPathCtxs p q).flatMap (fun c =>
      let k := s.guC p c
      k.ring.map (·.idx) ++ k.gone.map (·.1) ++ k.marks.map (·.idx))
    idxs.foldl (fun (a : Option Nat) i => some (match a with | none => i | some b => min i b)) none

/-- A context's marker of a document. -/
def GuCtx.markOf (k : GuCtx) (idx : Nat) : Option Marker := k.marks.find? (fun (m : Marker) => m.idx == idx)

/-- A grid line is due (R207). -/
def State.guDue (s : State) (p c : Nat) (x : GuLine) : Bool :=
  let e := s.encPos (s.fld (Reg.ST_BINDn (s.guStream p c)) Fld.ST_BINDn_ENC)
  let delay := signed 32 (s.reg (Reg.PVp_GU_CTXc_DELAY p c)).toNat
  decide (delay = 0) || decide (65536 * delay ≤ 65536 * diff32 e x.origin - (x.dist : Int))

/-- What a context has at grid line `g` of a document: the line once it is due, that there is none, or nothing certain yet. -/
inductive GuAt where
  | line (x : GuLine)
  | absent
  | unknown
  deriving DecidableEq, Repr

def State.guAt (s : State) (p c idx g : Nat) : GuAt :=
  let k := s.guC p c
  match k.ring.find? (fun (x : GuLine) => x.idx == idx && x.g == g) with
  | some x => if s.guDue p c x then .line x else .unknown
  | none =>
    if k.gone.contains (idx, g) || (k.markOf idx).any (fun (m : Marker) => decide (m.count ≤ g)) then .absent else .unknown

/-- Every context of a path has shown that it has no line `g` or later one: the document's grid lines are all released. -/
def State.guEnded (s : State) (p q : Nat) : Bool :=
  let x := s.guP p q
  match s.guDoc p q with
  | none => false
  | some idx => (s.guPathCtxs p q).all (fun c => ((s.guC p c).markOf idx).any (fun (m : Marker) => decide (m.count ≤ x.next)))

/-- The number of grid lines of the document in progress, once every marker is there. -/
def State.guLines (s : State) (p q idx : Nat) : Nat :=
  (s.guPathCtxs p q).foldl (fun a c => max a ((((s.guC p c).markOf idx).map (·.count)).getD 0)) 0

/-- Mode 0 is PASS (R225); 3 acts as 2. -/
def GuPath.mode (x : GuPath) : Nat := min 2 (x.fld 2 Fld.PVp_GU_PATHq_CTRL_DSK_MODE)

/-- A path that measures no edges: it follows a box slot (R218). -/
def GuPath.follower (x : GuPath) : Bool := x.mode != 0 && x.fld 8 Fld.PVp_GU_PATHq_BOX_FOL_EN == 1

/-- A document begins on a path: the read side and the units after the delay lines swap, and the path latches (R59, R201). -/
def State.guBegin (s : State) (p q idx doc ch : Nat) : State :=
  let s := s.swapAt ch idx (ownerKey 2 p (17 + q)) [] false
  let s := match s.routeUnit ch 3 with
    | some b => s.swapAt ch idx (ownerKey 3 b 0) ((List.range 8).map (fun c => ownerKey 3 b (1 + c))) false
    | none => s
  let s := match s.routeUnit ch 4 with
    | some o => s.swapAt ch idx (ownerKey 4 o 0) ((List.range 8).map (fun c => ownerKey 4 o (1 + c))) false
    | none => s
  let regs := (guPathRegs p q).map (fun o => (s.reg o).toNat)
  let old := s.guP p q
  s.modGuP p q (fun _ => { (default : GuPath) with cur := some idx, doc := doc, regs := regs, wout := old.wout, dropDue := old.dropDue })

/-- A column of the stitched line (R211): overlap weights of 256 in all. -/
def stitchPx (w ov : Nat) (blend : Bool) (a b : List Nat) : List Nat :=
  (List.range (2 * w - ov)).map (fun x =>
    if x < w - ov then a.getD x 0
    else if w ≤ x then b.getD (x - w + ov) 0
    else
      let i := x - (w - ov)
      let va := a.getD x 0
      let vb := b.getD i 0
      if blend then
        let wt := 256 * (2 * i + 1) / (2 * ov)
        ((256 - wt) * va + wt * vb + 128) / 256
      else if 2 * i < ov then va else vb)

/-- Flip and crop of one channel (R213). -/
def cropPx (flip : Bool) (cx0 cx1 : Nat) (px : List Nat) : List Nat :=
  let px := if flip then px.reverse else px
  if cx0 ≤ cx1 then (px.take (cx1 + 1)).drop cx0 else px

/-- Columns as they act (R213): CX1 at or beyond the last column is the last column; CX0 > CX1 keeps the whole line. -/
def cropCols (cx0 cx1 w : Nat) : Nat × Nat :=
  let c1 := min cx1 (w - 1)
  if c1 < cx0 then (0, w - 1) else (cx0, c1)

/-- The released line of a path: stitched, flipped and cropped (R211 to R213). -/
def GuPath.join (x : GuPath) (stitch : Bool) (ch : Nat) (a b : Option Line) : Line :=
  let fill := x.fld 3 Fld.PVp_GU_PATHq_FILL_FILL
  let some_ : Line := match a, b with
    | some l, _ => l
    | none, some l => l
    | none, none => default
  let blank : List (List Nat) := some_.px.map (fun c => c.map (fun _ => fill))
  let pa := (a.map (·.px)).getD blank
  let pb := (b.map (·.px)).getD blank
  let w := (some_.px.headD []).length
  let ov := x.fld 0 Fld.PVp_GU_PATHq_CFG_OV
  let joined := if stitch then
      (List.range some_.px.length).map (fun i =>
        stitchPx w ov (x.fld 0 Fld.PVp_GU_PATHq_CFG_BLEND == 1) (pa.getD i []) (pb.getD i []))
    else some_.px
  let wst := (joined.headD []).length
  let cc := cropCols (x.fld 1 Fld.PVp_GU_PATHq_CROP_CX0) (x.fld 1 Fld.PVp_GU_PATHq_CROP_CX1) wst
  let px := joined.map (cropPx (x.fld 0 Fld.PVp_GU_PATHq_CFG_XFLIP == 1) cc.1 cc.2)
  let fl (l : Option Line) : Nat := (l.map (fun l => passFlags l.tag.flags)).getD 0
  let flags := Nat.lor (fl a) (fl b)
  let flags := if stitch && (a.isNone || b.isNone) then setFlag flags flagPad else flags
  ⟨{ some_.tag with stream := ch, flags := flags }, px⟩

/-! ### Edge measurement and the box (R214 to R219) -/

/-- The first position from which `run` values hold, from position `i` up. -/
def firstRun (run : Nat) : Nat → List Bool → Option Nat
  | _, [] => none
  | i, b :: t =>
    if run ≤ ((b :: t).take run).length ∧ ((b :: t).take run).all id = true then some i else firstRun run (i + 1) t

/-- x_left and x_right of a line (R214). -/
def GuPath.edgesOf (x : GuPath) (l : Line) : Option (Nat × Nat) :=
  let px := l.px.getD (x.fld 6 Fld.PVp_GU_PATHq_EDGE_CFG_EDGE_CH) []
  let ex0 := x.fld 4 Fld.PVp_GU_PATHq_EDGE_WIN_EX0
  let ex1 := x.fld 4 Fld.PVp_GU_PATHq_EDGE_WIN_EX1
  let bg : Int := x.fld 5 Fld.PVp_GU_PATHq_EDGE_THR_BG_LEVEL
  let delta := x.fld 5 Fld.PVp_GU_PATHq_EDGE_THR_DELTA
  let run := max 1 (x.fld 6 Fld.PVp_GU_PATHq_EDGE_CFG_RUN)
  let doc := (List.range px.length).map (fun c =>
    decide (ex0 ≤ c) && decide (c ≤ ex1) && decide (delta < ((px.getD c 0 : Int) - bg).natAbs))
  match firstRun run 0 doc, firstRun run 0 doc.reverse with
  | some a, some b => some (a, px.length - 1 - b)
  | _, _ => none

/-- The slope of a side through points (g, x), in 1/65,536 column per line (R215). -/
def sideSlope (minPts : Nat) (pts : List (Nat × Nat)) : Option Int :=
  let n : Int := pts.length
  let sg := sumI (pts.map (fun e => (e.1 : Int)))
  let sx := sumI (pts.map (fun e => (e.2 : Int)))
  let num := n * sumI (pts.map (fun e => (e.1 : Int) * e.2)) - sg * sx
  let den := n * sumI (pts.map (fun e => (e.1 : Int) * e.1)) - sg * sg
  if pts.length < minPts ∨ den = 0 then none else some ((2 * 65536 * num + den) / (2 * den))

/-- The slope of a document by FIT: 0 left, 1 right, else both (R215). -/
def fitSlope (fit : Nat) (l r : Option Int) : Option Int :=
  match fit with
  | 0 => l
  | 1 => r
  | _ => match l, r with
    | some a, some b => some ((a + b + 1) / 2)
    | some a, none => some a
    | none, b => b

/-- The integer square root, bit by bit from 2^(fuel - 1) down. -/
def isqrt (n : Nat) : Nat → Nat → Nat
  | 0, r => r
  | fuel + 1, r => isqrt n fuel (if (r + 2 ^ fuel) * (r + 2 ^ fuel) ≤ n then r + 2 ^ fuel else r)

/-- `num / √den` rounded to nearest, halves away from zero (R216). -/
def roundRoot (num den : Nat) : Nat := (isqrt (4 * num * num / den) 20 0 + 1) / 2

/-- C and S of a slope (R216). -/
def cosSin (s : Int) : Int × Int :=
  let d := 2 ^ 32 + s.natAbs * s.natAbs
  let sn : Int := roundRoot (65536 * s.natAbs) d
  (roundRoot (2 ^ 32) d, if s < 0 then -sn else sn)

/-- SKIP + MEAS as it acts, the number of document lines whose points are kept (R214). -/
def GuPath.kept (x : GuPath) : Nat := min 2047 (x.fld 7 Fld.PVp_GU_PATHq_MEAS_SKIP + x.fld 7 Fld.PVp_GU_PATHq_MEAS_MEAS)

/-- WMAX and LMAX as they act (R217, R220). -/
def GuPath.wmax (x : GuPath) : Nat :=
  let v := x.fld 10 Fld.PVp_GU_PATHq_LIMIT_WMAX
  if v = 0 then 16384 else v
def GuPath.lmax (x : GuPath) : Nat :=
  let v := x.fld 10 Fld.PVp_GU_PATHq_LIMIT_LMAX
  if v = 0 ∨ 32768 < v then 32768 else v

/-- The rotated coordinates u′ and v′ of an edge point (R217). -/
def rotU (c s : Int) (x g : Nat) : Int := x * c - g * s
def rotV (c s : Int) (x g : Nat) : Int := x * s + g * c

/-- The least and the greatest of a list. -/
def minI (l : List Int) : Option Int := l.foldl (fun (a : Option Int) z => some (match a with | none => z | some b => min z b)) none
def maxI (l : List Int) : Option Int := l.foldl (fun (a : Option Int) z => some (match a with | none => z | some b => max z b)) none

/-- WMAX limits a box (R217): the box, and whether it was limited. -/
def limitBox (wmax : Nat) (b : GuBox) : GuBox × Bool :=
  if wmax < b.wout then ({ b with u0 := b.u0 + 65536 * (((b.wout - wmax) / 2 : Nat) : Int), wout := wmax }, true)
  else (b, false)

/-- PATHq_ANGLE shows the box fixed last. -/
def State.showAngle (s : State) (p q : Nat) (b : GuBox) (followed : Bool) : State :=
  let r := Reg.PVp_GU_PATHq_ANGLE p q
  (((s.setFld r Fld.PVp_GU_PATHq_ANGLE_SLOPE (unsigned 16 b.slope)).setFld r Fld.PVp_GU_PATHq_ANGLE_FALLBACK
    (b2n b.fallback)).setFld r Fld.PVp_GU_PATHq_ANGLE_LIMITED (b2n b.limited)).setFld r
    Fld.PVp_GU_PATHq_ANGLE_FOLLOWED (b2n followed)

/-- A publishing path posts its box and VEND (R218). -/
def State.guPublish (s : State) (p q : Nat) : State :=
  let x := s.guP p q
  match x.box, x.vend with
  | some b, some v =>
    if x.fld 8 Fld.PVp_GU_PATHq_BOX_PUB_EN = 1 ∧ x.mode ≠ 0 then
      let slot := x.fld 8 Fld.PVp_GU_PATHq_BOX_PUB_SLOT
      let rest := (s.guSlot.get slot).filter (fun (e : GuPub) => e.doc != x.doc)
      let pub : GuPub := ⟨x.doc, b, v, x.final⟩
      { s with guSlot := s.guSlot.set slot (pub :: rest) }
    else s
  | _, _ => s

/-- The box of a path that measures is fixed from its kept points (R215 to R217): `lines` is the number of grid lines, for a
document without a document line. A document whose settings keep no point has free bounds. -/
def State.guFix (s : State) (p q lines : Nat) : State :=
  let x := s.guP p q
  let keep := x.kept
  let pts := x.edges.take keep
  let fitted := pts.drop (x.fld 7 Fld.PVp_GU_PATHq_MEAS_SKIP)
  let minPts := x.fld 7 Fld.PVp_GU_PATHq_MEAS_MIN_PTS
  let fit := x.fld 6 Fld.PVp_GU_PATHq_EDGE_CFG_FIT
  let m : Int := x.fld 8 Fld.PVp_GU_PATHq_BOX_MARGIN
  if x.docLines = 0 then
    let b : GuBox := ⟨65536, 0, 0, 0, min x.wmax x.width, 0, true, false⟩
    let s := s.modGuP p q (fun x => { x with box := some b, vend := some (65536 * ((lines : Int) - 1)) })
    s.showAngle p q b false
  else
    let raw := if x.mode = 1 then some 0
      else fitSlope fit (sideSlope minPts (fitted.map (fun e => (e.1, e.2.1)))) (sideSlope minPts (fitted.map (fun e => (e.1, e.2.2))))
    let sl := clampI (-11555) 11555 (raw.getD 0)
    let limited := raw.any (fun r => r != sl)
    let cs := cosSin sl
    let s := if raw.isNone then s.guCount p 4 1 else s
    let s := if limited then s.guCount p 5 1 else s
    let f := s.free
    let s := if pts = [] then { s with free := s.free + 3 } else s
    let uMin := (minI (pts.map (fun e => rotU cs.1 cs.2 e.2.1 e.1))).getD (Config.int f)
    let uMax := (maxI (pts.map (fun e => rotU cs.1 cs.2 e.2.2 e.1))).getD (Config.int (f + 1))
    let vMin := (minI (pts.flatMap (fun e => [rotV cs.1 cs.2 e.2.1 e.1, rotV cs.1 cs.2 e.2.2 e.1]))).getD (Config.int (f + 2))
    let vMax := maxI (x.edges.flatMap (fun e => [rotV cs.1 cs.2 e.2.1 e.1, rotV cs.1 cs.2 e.2.2 e.1]))
    let wout := (-((-(uMax - uMin)) / 65536) + 2 * m + 1).toNat
    let b : GuBox := ⟨cs.1, cs.2, uMin - 65536 * m, vMin - 65536 * m, wout, sl, raw.isNone, limited⟩
    let lb := limitBox x.wmax b
    let s := if lb.2 then s.guCount p 6 1 else s
    let s := s.modGuP p q (fun x => { x with
      box := some lb.1, vmax := vMax, vend := vMax.map (fun v => v + 65536 * m), edges := [] })
    s.showAngle p q lb.1 false

/-- A released line is measured (R214, R217): its points are kept, VEND grows, and the box is fixed after the last of them. -/
def State.guMeasure (s : State) (p q g : Nat) (l : Line) : State :=
  let x := s.guP p q
  match x.edgesOf l with
  | none => s
  | some e =>
    let n := x.docLines + 1
    let s := match x.box with
      | some b =>
        let v := max (max (rotV b.c b.s e.1 g) (rotV b.c b.s e.2 g)) (x.vmax.getD (rotV b.c b.s e.1 g))
        let m : Int := x.fld 8 Fld.PVp_GU_PATHq_BOX_MARGIN
        s.modGuP p q (fun x => { x with docLines := n, vmax := some v, vend := some (v + 65536 * m) })
      | none => s.modGuP p q (fun x => { x with docLines := n, edges := x.edges ++ [(g, e.1, e.2)] })
    let s := if x.box.isNone && n == x.kept then s.guFix p q 0 else s
    s.guPublish p q

/-- The box that a follower takes from its slot (R218, R219): scaled, then under its own WMAX. -/
def State.guFollowed (s : State) (p q : Nat) : Option (GuPub × Bool) :=
  let x := s.guP p q
  ((s.guSlot.get (x.fld 8 Fld.PVp_GU_PATHq_BOX_FOL_SLOT)).find? (fun (e : GuPub) => e.doc == x.doc)).map (fun e =>
    let b := match x.fld 8 Fld.PVp_GU_PATHq_BOX_SCALE with
      | 1 => { e.box with u0 := 2 * e.box.u0, v0 := 2 * e.box.v0, wout := 2 * e.box.wout }
      | 2 => { e.box with u0 := e.box.u0 / 2, v0 := e.box.v0 / 2, wout := (e.box.wout + 1) / 2 }
      | _ => e.box
    let v := match x.fld 8 Fld.PVp_GU_PATHq_BOX_SCALE with
      | 1 => 2 * e.vend
      | 2 => e.vend / 2
      | _ => e.vend
    let lb := limitBox x.wmax b
    (⟨e.doc, lb.1, v, e.final⟩, lb.2))

/-- A follower looks at its slot: the box once, VEND each time (R218, R219). It publishes what it has, where PUB_EN says so. -/
def State.guFollow (s : State) (p q : Nat) : State :=
  let x := s.guP p q
  if !x.follower then s
  else match s.guFollowed p q with
    | none => s
    | some (e, limited) =>
      let s := if x.box.isNone then (if limited then s.guCount p 6 1 else s).showAngle p q e.box true else s
      (s.modGuP p q (fun x => { x with box := some e.box, vend := some e.vend, final := e.final })).guPublish p q

/-- The release of grid lines without a line in any context (R212). -/
def State.guSkip (p q idx : Nat) : Nat → State → State
  | 0, s => s
  | fuel + 1, s =>
    let g := (s.guP p q).next
    if (s.guPathCtxs p q).all (fun c => s.guAt p c idx g == .absent) && !s.guEnded p q then
      State.guSkip p q idx fuel (s.modGuP p q (fun x => { x with next := g + 1, absent := x.absent ++ [g] }))
    else s

/-- Ring slots of released lines are freed (R208): in PASS mode at once, in the others once no output line needs them: below the
least line that the next output line can tap, but for the last line present below it. -/
def State.guFree (s : State) (p q : Nat) : State :=
  let x := s.guP p q
  match x.cur, x.box with
  | some idx, some b =>
    if x.mode = 0 then s
    else
      let v := b.v0 + 65536 * (x.out : Int)
      let yoff := signed 16 (x.fld 9 Fld.PVp_GU_PATHq_BOX_OFF_YOFF)
      let y (i : Int) : Int := ((v * b.c - (b.u0 + 65536 * i) * b.s + 2 ^ 25) / 2 ^ 26 + yoff) / 64
      let low := (min (y 0) (y ((b.wout : Int) - 1)) - 1).toNat
      let below := (x.lines.filter (fun (l : Tag) => decide (l.line < low))).foldl (fun a (l : Tag) => max a l.line) 0
      let s := s.modGuP p q (fun x => { x with
        lines := x.lines.filter (fun (l : Tag) => decide (low ≤ l.line) || l.line == below)
        cache := x.cache.filter (fun (t : GuTile) => decide (low ≤ t.g) || t.g == below) })
      (s.guPathCtxs p q).foldl (fun s c => (s.modGuC p c (fun k => { k with
        ring := k.ring.filter (fun (r : GuLine) => r.idx != idx || decide (low ≤ r.g) || r.g == below || decide (x.next ≤ r.g)) })).showRing p c) s
  | _, _ => s

/-- What a context gives grid line `g`: the line, and how the reads of its ring went (0 as stored, 1 corrected, 2 and 3 marked); a context
without a ring reads no frame memory. `extra` symbols are found in error in the line's first block. -/
def State.guRead (s : State) (p c idx g extra : Nat) : State × Option Line × Nat :=
  match s.guAt p c idx g with
  | .line x =>
    if s.ringLines p c = 0 then (s, some x.line, 0)
    else
      let r := (List.range x.tiles).foldl (fun (r : State × List (List (List Nat)) × Nat) t =>
        let k := r.1.tileRead p c x t (if t = 0 then extra else 0)
        (k.1, r.2.1 ++ [k.2.1], max r.2.2 k.2.2)) (s, [], 0)
      (r.1, some ⟨x.line.tag, joinTiles x.nch x.cols r.2.1⟩, r.2.2)
  | _ => (s, none, 0)

/-- A grid line leaves the rings of a path's contexts (R208). -/
def State.guLeave (s : State) (p q idx g : Nat) : State :=
  (s.guPathCtxs p q).foldl (fun s c => (s.modGuC p c (fun k => { k with
    ring := k.ring.filter (fun (r : GuLine) => r.idx != idx || r.g != g) })).showRing p c) s

/-- Corrected and uncorrectable words of a unit's line buffers signal (R230). -/
def State.guBuffer (s : State) (p : Nat) (buf : Ecc) : State :=
  match buf with
  | .ok => s
  | .corrected n => s.raiseCorrs (18 + 4 * p) 0 n
  | .uncorr n => s.raiseErrors (18 + 4 * p) 0 n

/-- A released line goes on (R214, R225, R230): a PASS path emits it, a deskewing one keeps its tag and measures it; a line that a read or
the line buffers spoiled is abandoned. -/
def State.guPass (s : State) (p q idx g : Nat) (l : Line) (corr bad : Bool) : State :=
  let x := s.guP p q
  let s := if x.mode = 0 || bad then s.guLeave p q idx g else s
  if bad then
    (s.modGuP p q (fun x => { x with absent := x.absent ++ [g], dropDue := x.dropDue || x.mode == 0 })).guCount p 8 1
  else
    let s := if corr then s.guCount p 7 1 else s
    let flags := if corr then setFlag l.tag.flags flagEccCorr else l.tag.flags
    if x.mode = 0 then
      let last := s.guEnded p q
      let mks := (s.guPathCtxs p q).filterMap (fun c => (s.guC p c).markOf idx)
      let flags := if x.dropDue then setFlag flags flagDrop else flags
      let flags := if last && mks.any (·.trunc) then setFlag flags flagTrunc else flags
      let flags := if last && mks.any (·.short) then setFlag flags flagShort else flags
      let s := s.modGuP p q (fun x => { x with out := x.out + 1, dropDue := false, wout := (l.px.headD []).length })
      s.sendTo l.tag.stream (.line { l with tag := { l.tag with line := g, flags := flags } }) (kindsAfter 2)
    else
      let s := s.modGuP p q (fun x => { x with lines := x.lines ++ [{ l.tag with flags := flags }] })
      let s := if x.follower then s.guFollow p q else s.guMeasure p q g l
      s.guFree p q

/-- A path releases its next grid line (R207 to R214, R225, R230). `oa` and `ob` symbols are found in error in the reads of its contexts'
rings, beside those stored so; `buf` is the check of the line buffers. -/
def doGuRelease (p q oa ob : Nat) (buf : Ecc) (s : State) : State :=
  if s.fenced 2 p || !s.on (Reg.PVp_GU_PATHq_CFG p q) Fld.PVp_GU_PATHq_CFG_VALID then s
  else
    let s := s.guMarkers p
    let ctxs := s.guPathCtxs p q
    let stitch := ctxs.length == 2
    match s.guDoc p q with
    | none => s
    | some idx =>
      let s0 := s
      let s := State.guSkip p q idx 65536 s
      let g := (s.guP p q).next
      let at_ := ctxs.map (fun c => s.guAt p c idx g)
      if at_.any (· == .unknown) || s.guEnded p q || at_.all (· == .absent) || s.heldBack (s.guStream p (ctxs.headD 0)) then (if (s0.guP p q).cur.isNone then s0 else s)
      else
        let ca := ctxs.headD 0
        let cb := ctxs.getD 1 0
        let ch := s.guStream p ca
        let ra := s.guRead p ca idx g oa
        let rb := if stitch then ra.1.guRead p cb idx g ob else (ra.1, none, 0)
        let s := rb.1
        let a := ra.2.1
        let b := rb.2.1
        let doc := ((a.or b).map (·.tag.doc)).getD 0
        let s := if (s0.guP p q).cur.isNone then
            (s.guBegin p q idx doc ch).modGuP p q (fun x => { x with next := g, absent := (s.guP p q).absent }) else s
        let l := (s.guP p q).join stitch ch a b
        let spoilt := match buf with | .uncorr _ => true | _ => false
        let s := s.guBuffer p buf
        let s := if stitch && (a.isNone || b.isNone) then s.guCount p 3 1 else s
        let s := s.modGuP p q (fun x => { x with next := g + 1, width := (l.px.headD []).length })
        s.guPass p q idx g l (ra.2.2 == 1 || rb.2.2 == 1) (decide (2 ≤ ra.2.2) || decide (2 ≤ rb.2.2) || spoilt)

def execGuRelease (p q oa ob : Nat) (buf : Ecc) (s : State) : Host.Outcome State Fault Refusal :=
  answer s (p < 4 && q < 8 && oa < 3 && ob < 3) (doGuRelease p q oa ob buf s)

/-! ### Deskew (R220 to R224) -/

/-- The measuring path's box is fixed at the end of a document that had too few lines, and its VEND is final (R217). -/
def State.guFinish (s : State) (p q : Nat) : State :=
  let x := s.guP p q
  if x.mode = 0 || x.follower || !s.guEnded p q then s
  else
    let s := if x.box.isNone then s.guFix p q (s.guLines p q (x.cur.getD 0)) else s
    (s.modGuP p q (fun x => { x with final := true })).guPublish p q

/-- Output line k of a path exists (R220) and is ready: a line that may be the last waits until VEND and the document's grid lines are
final, for it takes the marker's flags (R151, R228). -/
def GuPath.hasLine (x : GuPath) (ended : Bool) (k : Nat) : Bool :=
  match x.box, x.vend with
  | some b, some v => decide (b.v0 + 65536 * (k : Int) ≤ v) && decide (k < x.lmax)
      && ((x.final && ended) || (decide (k + 1 < x.lmax) && decide (b.v0 + 65536 * ((k : Int) + 1) ≤ v)))
  | _, _ => false

/-- The taps along one axis: position and weight, none of weight 0 (R222). -/
def tapsAt (bicubic : Bool) (z : Int) : List (Int × Int) :=
  let i := z / 64
  let f := z - 64 * i
  ((if bicubic then (List.range 4).map (fun (t : Nat) => (i - 1 + (t : Int), (kernel f).getD t 0))
    else [(i, 64 - f), (i + 1, f)])).filter (fun e => e.2 != 0)

/-- The kept line that a tap on grid line y reads (R223): `.fill` outside the document, the line itself, or the nearest line
present where it is absent; `.wait` while that is not certain. -/
inductive GuTap where
  | fill
  | line (l : Tag) (subst : Bool)
  | wait
  | none
  deriving DecidableEq, Repr

def GuPath.tapLine (x : GuPath) (ended : Bool) (y : Int) : GuTap :=
  if y < 0 then .fill
  else
    let g := y.toNat
    if x.next ≤ g then (if ended then .fill else .wait)
    else match x.lines.find? (fun (l : Tag) => l.line == g) with
      | some l => .line l false
      | Option.none =>
        let low := (x.lines.filter (fun (l : Tag) => decide (l.line < g))).foldl (fun (a : Option Tag) (l : Tag) => match a with
          | Option.none => some l
          | some m => if m.line ≤ l.line then some l else some m) Option.none
        let up := (x.lines.filter (fun (l : Tag) => decide (g < l.line))).foldl (fun (a : Option Tag) (l : Tag) => match a with
          | Option.none => some l
          | some m => if l.line < m.line then some l else some m) Option.none
        match low, up with
        | some a, some b => if g - a.line ≤ b.line - g then .line a true else .line b true
        | some a, Option.none => if ended || decide (2 * g - a.line ≤ x.next) then .line a true else .wait
        | Option.none, some b => .line b true
        | Option.none, Option.none => if ended then .none else .wait

/-- Where output line k samples (R221): column and grid line of output pixel i, in 1/64. -/
def GuPath.x64 (x : GuPath) (b : GuBox) (k i : Nat) : Int :=
  ((b.u0 + 65536 * (i : Int)) * b.c + (b.v0 + 65536 * (k : Int)) * b.s + 2 ^ 25) / 2 ^ 26
    + signed 16 (x.fld 9 Fld.PVp_GU_PATHq_BOX_OFF_XOFF)
def GuPath.y64 (x : GuPath) (b : GuBox) (k i : Nat) : Int :=
  ((b.v0 + 65536 * (k : Int)) * b.c - (b.u0 + 65536 * (i : Int)) * b.s + 2 ^ 25) / 2 ^ 26
    + signed 16 (x.fld 9 Fld.PVp_GU_PATHq_BOX_OFF_YOFF)

/-- What an output line is made of (R221 to R224): the taps of each pixel along the columns and along the lines, and the grid line whose
tag it takes. -/
structure GuPlan where
  cols : List (List (Int × Int) × List (GuTap × Int))
  tag : GuTap

def GuPath.plan (x : GuPath) (b : GuBox) (ended : Bool) : GuPlan :=
  let k := x.out
  let bicubic := x.fld 2 Fld.PVp_GU_PATHq_CTRL_INTERP == 1
  let tagG : Int := min (max 0 ((x.y64 b k (b.wout / 2) + 32) / 64)) (if ended then max 0 ((x.next : Int) - 1) else 65535)
  ⟨(List.range b.wout).map (fun i =>
      (tapsAt bicubic (x.x64 b k i), (tapsAt bicubic (x.y64 b k i)).map (fun e => (x.tapLine ended e.1, e.2)))),
    x.tapLine ended tagG⟩

/-- A tap is not yet certain. -/
def GuPlan.waits (m : GuPlan) : Bool := m.cols.any (fun c => c.2.any (fun t => t.1 == .wait)) || m.tag == .wait

/-- The grid lines and columns that the output line reads: those with weight inside the cropped width. -/
def GuPlan.reads (m : GuPlan) (width : Nat) : List (Nat × Nat) :=
  m.cols.flatMap (fun c => c.2.flatMap (fun t => match t.1 with
    | .line l _ => (c.1.filter (fun e => decide (0 ≤ e.1) && decide (e.1 < (width : Int)))).map (fun e => (l.line, e.1.toNat))
    | _ => []))

/-- The columns of the contexts' lines that column `x` of the cropped line is made of, for parts of width w (R211, R213): which part, and
its column. -/
def GuPath.sources (x : GuPath) (stitch : Bool) (w col : Nat) : List (Nat × Nat) :=
  let ov := x.fld 0 Fld.PVp_GU_PATHq_CFG_OV
  let wst := if stitch then 2 * w - ov else w
  let col := (cropCols (x.fld 1 Fld.PVp_GU_PATHq_CROP_CX0) (x.fld 1 Fld.PVp_GU_PATHq_CROP_CX1) wst).1 + col
  let col := if x.fld 0 Fld.PVp_GU_PATHq_CFG_XFLIP == 1 then wst - 1 - col else col
  if !stitch || decide (col < w - ov) then [(0, col)]
  else if w ≤ col then [(1, col - w + ov)]
  else
    let i := col - (w - ov)
    if x.fld 0 Fld.PVp_GU_PATHq_CFG_BLEND == 1 then [(0, col), (1, i)]
    else if 2 * i < ov then [(0, col)] else [(1, i)]

/-- Numbers without repeats, in the order of their first appearance. -/
def firsts {α : Type} [DecidableEq α] (l : List α) : List α :=
  l.foldl (fun a x => if a.contains x then a else a ++ [x]) []

/-- A line of a context's ring, by document and number. -/
def State.ringLine (s : State) (p c idx g : Nat) : Option GuLine :=
  (s.guC p c).ring.find? (fun (x : GuLine) => x.idx == idx && x.g == g)

/-- The tile rows that an output line needs: context, grid line, tile (R226). A context without a ring has none. -/
def State.guTiles (s : State) (p q : Nat) (m : GuPlan) : List (Nat × Nat × Nat) :=
  let x := s.guP p q
  let ctxs := s.guPathCtxs p q
  firsts ((firsts (m.reads x.width)).flatMap (fun r =>
    let parts := ctxs.map (fun c => s.ringLine p c (x.cur.getD 0) r.1)
    let w := (((parts.filterMap id).map (·.cols)).headD 0)
    (x.sources (ctxs.length == 2) w r.2).filterMap (fun e =>
      let c := ctxs.getD e.1 0
      if s.ringLines p c != 0 && ((parts.getD e.1 none).isSome) then some (c, r.1, e.2 / 32) else none)))

/-- The tile cache holds a tile row. -/
def GuPath.tile (x : GuPath) (k : Nat × Nat × Nat) : Option GuTile :=
  x.cache.find? (fun (t : GuTile) => t.c == k.1 && t.g == k.2.1 && t.t == k.2.2)

/-- A grid line whose read came back marked is abandoned (R230). -/
def State.guAbandon (s : State) (p q g : Nat) : State :=
  ((s.guLeave p q ((s.guP p q).cur.getD 0) g).modGuP p q (fun x => { x with
    lines := x.lines.filter (fun (l : Tag) => l.line != g), cache := x.cache.filter (fun (t : GuTile) => t.g != g),
    absent := x.absent ++ [g] })).guCount p 8 1

/-- A tile row is fetched into the tile cache (R226, R230): a marked one abandons its grid line. `errs` names symbols found in error by
grid line: the first tile row that the line reads meets them. -/
def State.guFetch (p q : Nat) (r : State × List (Nat × Nat)) (k : Nat × Nat × Nat) : State × List (Nat × Nat) :=
  let s := r.1
  match s.ringLine p k.1 ((s.guP p q).cur.getD 0) k.2.1 with
  | none => r
  | some x =>
    let extra := ((r.2.find? (fun e => e.1 == k.2.1)).map (·.2)).getD 0
    let b := s.tileRead p k.1 x k.2.2 extra
    let rest := r.2.filter (fun e => e.1 != k.2.1)
    if 2 ≤ b.2.2 then (b.1.guAbandon p q k.2.1, rest)
    else
      let s := b.1.modGuP p q (fun y => { y with cache := y.cache ++ [⟨k.1, k.2.1, k.2.2, b.2.1, b.2.2 == 1⟩] })
      (if b.2.2 = 1 then s.guCount p 7 1 else s, rest)

/-- The tile cache takes in what the next output line needs; an abandoned line changes what that is, so it looks again. -/
def State.guLoad (p q : Nat) (b : GuBox) : Nat → State → List (Nat × Nat) → State
  | 0, s, _ => s
  | fuel + 1, s, errs =>
    let x := s.guP p q
    let m := x.plan b (s.guEnded p q)
    if m.waits then s
    else match (s.guTiles p q m).filter (fun k => (x.tile k).isNone) with
      | [] => s
      | k :: ks =>
        let r := (k :: ks).foldl (State.guFetch p q) (s, errs)
        State.guLoad p q b fuel r.1 r.2

/-- A context's part of a grid line as the tile cache holds it; what it does not hold no pixel needs. -/
def State.guPart (s : State) (p q c g : Nat) : Option Line :=
  let x := s.guP p q
  (s.ringLine p c (x.cur.getD 0) g).map (fun r =>
    if s.ringLines p c = 0 then r.line
    else ⟨r.line.tag, joinTiles r.nch r.cols ((List.range r.tiles).map (fun t =>
      ((x.tile (c, g, t)).map (·.px)).getD (List.replicate r.nch (List.replicate 32 0))))⟩)

/-- The cropped line that a grid line gives the deskew (R223). -/
def State.guRow (s : State) (p q g : Nat) : List (List Nat) :=
  let ctxs := s.guPathCtxs p q
  let stitch := ctxs.length == 2
  ((s.guP p q).join stitch 0 (s.guPart p q (ctxs.headD 0) g) (if stitch then s.guPart p q (ctxs.getD 1 0) g else none)).px

/-- One output pixel of channel ch from resolved taps (R222, R223); `rows` are the grid lines, `fr` is the free value of a document
without any line. -/
def deskewPx (bicubic : Bool) (fill width fr : Nat) (rows : Table (List (List Nat))) (xs : List (Int × Int)) (ys : List (GuTap × Int))
    (ch : Nat) : Nat :=
  let val (t : GuTap) (c : Int) : Int :=
    if c < 0 ∨ (width : Int) ≤ c then fill
    else match t with
      | .line l _ => (((rows.get l.line).getD ch []).getD c.toNat 0 : Nat)
      | .none => (fr : Nat)
      | _ => fill
  let r := sumI (ys.map (fun ty => sumI (xs.map (fun tx => ty.2 * tx.2 * val ty.1 tx.1))))
  (clampI 0 65535 (if bicubic then (r + 32768) / 65536 else (r + 2048) / 4096)).toNat

/-- Words of the tile cache are corrected; an uncorrectable one is fetched again from frame memory and counts as corrected, so its grid
line's tile rows leave the cache (R230). -/
def State.guCacheEcc (s : State) (p q corr : Nat) (again : List Nat) : State :=
  let hit := (firsts again).filter (fun g => (s.guP p q).cache.any (fun (t : GuTile) => t.g == g))
  (s.modGuP p q (fun x => { x with cache := x.cache.filter (fun (t : GuTile) => !hit.contains t.g) })).raiseCorrs (18 + 4 * p) 0
    (corr + hit.length)

/-- The flags of an output line (R223, R224, R230): those of the grid lines it reads, DROP_BEFORE for a line that stands in for another,
ECC_CORR for a corrected tile row. -/
def GuPlan.flags (m : GuPlan) (width : Nat) (corr : Bool) : Nat :=
  let inside (c : List (Int × Int)) : Bool := c.any (fun e => decide (0 ≤ e.1) && decide (e.1 < (width : Int)))
  let read := m.cols.flatMap (fun c => if inside c.1 then c.2.map (·.1) else [])
  let flags := read.foldl (fun a t => match t with
    | .line l sub => Nat.lor a (Nat.lor (passFlags l.flags) (if sub then 2 ^ flagDrop else 0))
    | .none => setFlag a flagDrop
    | _ => a) 0
  if corr then setFlag flags flagEccCorr else flags

/-- A path emits its next output line once its taps are available (R219 to R226). `errs` names the symbols found in error in the reads
of frame memory for it, by grid line; `corr` words of the tile cache were corrected, and words of the grid lines in `again` could
not be. -/
def doGuDeskew (p q : Nat) (errs : List (Nat × Nat)) (corr : Nat) (again : List Nat) (s : State) : State :=
  if s.fenced 2 p || (s.guP p q).cur.isNone || (s.guP p q).mode == 0 then s
  else
    let s := (((s.guMarkers p).guFollow p q).guFinish p q).guCacheEcc p q corr again
    match (s.guP p q).box with
    | none => s
    | some b =>
      if !(s.guP p q).hasLine (s.guEnded p q) (s.guP p q).out || s.heldBack (s.guStream p ((s.guPathCtxs p q).headD 0)) then s
      else
        let s := State.guLoad p q b ((s.guP p q).lines.length + 1) s errs
        let x := s.guP p q
        let k := x.out
        let ended := s.guEnded p q
        let m := x.plan b ended
        if m.waits then s
        else
          let tiles := s.guTiles p q m
          let flags := m.flags x.width (tiles.any (fun t => (x.tile t).any (·.corr)))
          let cut := k + 1 == x.lmax && decide (b.v0 + 65536 * ((k : Int) + 1) ≤ x.vend.getD 0)
          let flags := if cut then setFlag flags flagTrunc else flags
          let last := ended && x.final && !x.hasLine ended (k + 1)
          let mks := (s.guPathCtxs p q).filterMap (fun c => (s.guC p c).markOf (x.cur.getD 0))
          let flags := if last && mks.any (·.trunc) then setFlag flags flagTrunc else flags
          let flags := if last && mks.any (·.short) then setFlag flags flagShort else flags
          let ch := s.guStream p ((s.guPathCtxs p q).headD 0)
          let rows := (firsts ((m.reads x.width).map (·.1))).foldl (fun (t : Table (List (List Nat))) g => Table.set t g (s.guRow p q g)) []
          let nch := match m.tag with
            | .line l _ => (s.guRow p q l.line).length
            | _ => 1
          let tag : Tag := match m.tag with
            | .line l _ => l
            | _ => { (default : Tag) with doc := x.doc, idx := x.cur.getD 0, time := Config.nat s.free, enc := Config.nat (s.free + 1) % 2 ^ 32 }
          let fr := Config.nat (s.free + 2) % 65536
          let s := if m.tag = .none then { s with free := s.free + 3 } else s
          let fill := x.fld 3 Fld.PVp_GU_PATHq_FILL_FILL
          let bicubic := x.fld 2 Fld.PVp_GU_PATHq_CTRL_INTERP == 1
          let px := (List.range nch).map (fun i => m.cols.map (fun c => deskewPx bicubic fill x.width fr rows c.1 c.2 i))
          let s := if cut then s.guCount p 9 1 else s
          let s := s.modGuP p q (fun x => { x with out := k + 1, wout := b.wout })
          let s := s.guFree p q
          s.sendTo ch (.line ⟨{ tag with stream := ch, line := k, flags := flags }, px⟩) (kindsAfter 2)

def execGuDeskewLine (p q : Nat) (errs : List (Nat × Nat)) (corr : Nat) (again : List Nat) (s : State) :
    Host.Outcome State Fault Refusal :=
  answer s (p < 4 && q < 8) (doGuDeskew p q errs corr again s)

/-! ### The marker (R224, R225) -/

/-- The path's document is over: what its contexts hold of it goes, and PATHq_SIZE reports it (R208, R225). -/
def State.guClose (s : State) (p q idx : Nat) : State :=
  let x := s.guP p q
  let r := Reg.PVp_GU_PATHq_SIZE p q
  let s := (s.setFld r Fld.PVp_GU_PATHq_SIZE_WIDTH x.wout).setFld r Fld.PVp_GU_PATHq_SIZE_LINES x.out
  let s := (s.guPathCtxs p q).foldl (fun s c => (s.modGuC p c (fun k => { k with
    ring := k.ring.filter (fun (l : GuLine) => decide (idx < l.idx))
    gone := k.gone.filter (fun (e : Nat × Nat) => decide (idx < e.1))
    marks := k.marks.filter (fun (m : Marker) => decide (idx < m.idx)) })).showRing p c) s
  s.modGuP p q (fun x => { (default : GuPath) with wout := x.wout, dropDue := x.dropDue })

/-- The path passes the document-end marker after its last output line (R224). A measuring path fixes its box first, where it
had not. A document without a released line has a marker too. -/
def doGuMarker (p q : Nat) (s : State) : State :=
  if s.fenced 2 p || !s.on (Reg.PVp_GU_PATHq_CFG p q) Fld.PVp_GU_PATHq_CFG_VALID then s
  else
    let s := s.guMarkers p
    match s.guDoc p q with
    | none => s
    | some idx =>
      let ctxs := s.guPathCtxs p q
      let ca := ctxs.headD 0
      let s := if (s.guP p q).cur.isNone && s.guEnded p q then
          s.guBegin p q idx ((((s.guC p ca).markOf idx).map (·.doc)).getD 0) (s.guStream p ca) else s
      let s := State.guSkip p q idx 65536 s
      if !s.guEnded p q then s
      else
        let s := (s.guFollow p q).guFinish p q
        let x := s.guP p q
        let open_ := x.mode != 0 && (x.hasLine true x.out || !x.final)
        match (s.guC p ca).markOf idx, open_ with
        | some m, false =>
          let mks := ctxs.filterMap (fun c => (s.guC p c).markOf idx)
          let out : Marker := { m with
            count := x.out, trunc := mks.any (·.trunc), short := mks.any (·.short) }
          (s.guClose p q idx).sendTo (s.guStream p ca) (.marker out) (kindsAfter 2)
        | _, _ => s

def execGuMarker (p q : Nat) (s : State) : Host.Outcome State Fault Refusal :=
  answer s (p < 4 && q < 8) (doGuMarker p q s)

end Sys2Proof.Machine
end

