-- ==== Sys2Proof/Machine/Output.lean ====
section
/-! DEFINITION. Output formatting, JPEG-LS segments, seals, item queues, statistics placement and document headers (spec/10, the
comparison of R505, the document header record of R152). -/

namespace Sys2Proof.Machine

/-! ### Counters and small access functions -/

/-- OF and output-stream counter k counts, and its event bit sets. -/
def State.ofCount (s : State) (o k n : Nat) : State :=
  if n = 0 then s
  else (s.countN (Reg.PVp_OFu_CNTk (o / 2) (o % 2) k) n).setBit (Reg.PVp_OFu_STATUS (o / 2) (o % 2)) k
def State.osCount (s : State) (n k : Nat) : State := s.countAndSet (Reg.OSn_CNTk n k) (Reg.OSn_STATUS n) k

/-- An output stream's state changed by `f`. -/
def State.modOs (s : State) (n : Nat) (f : OsSt → OsSt) : State := { s with os := s.os.modify n f }

/-- A relay on a HOST device (R268). -/
def State.isRelay (s : State) (n : Nat) : Bool := s.on (Reg.OSn_CFG n) Fld.OSn_CFG_SRC

/-- The OF and the streams that feed an output stream. -/
def State.feeders (s : State) (n : Nat) : List (Nat × Nat) :=
  (List.range 8).flatMap (fun o => ((List.range 8).filter (fun c =>
    s.on (ofCfg o c) Fld.PVp_OFu_CTXc_CFG_VALID && (s.ofFeeds o c).contains n)).map (fun c =>
      (o, s.fld (ofCfg o c) Fld.PVp_OFu_CTXc_CFG_STREAM)))

/-- A document that a stream counted while it was stopped (R487); the document that the fence closed is none of these. -/
def State.stoppedDoc (s : State) (ch idx : Nat) : Bool :=
  match (s.stream.get ch).stopFrom with
  | some a => decide (a ≤ idx) && (s.stopped ch || decide (idx < (s.stream.get ch).stopTo))
  | none => false

/-- An output stream fed only by stopped streams emits nothing for their documents (R487). -/
def State.mute (s : State) (n idx : Nat) : Bool :=
  !s.isRelay n && !(s.feeders n).isEmpty && (s.feeders n).all (fun f => s.stoppedDoc f.2 idx)

/-! ### Samples and payload (R256 to R261) -/

/-- The registers that an output stream latches for a document (R255). -/
def osRegs (n : Nat) : List Nat :=
  [Reg.OSn_CTRL n, Reg.OSn_FMT n, Reg.OSn_CHSEL n, Reg.OSn_JLS n, Reg.OSn_JLS_THR n, Reg.OSn_JLS_THR2 n,
    Reg.OSn_STATS_BASE_LO n, Reg.OSn_STATS_BASE_HI n, Reg.OSn_STATS_SIZE n, Reg.OSn_CFG n]

/-- The document of an output stream with a place, once that is latched. -/
def OsSt.docOf (x : OsSt) (idx : Nat) : Option OsDoc := (x.cur.toList ++ x.hdrs).find? (fun (d : OsDoc) => d.idx == idx)

/-- OSn_CFG for a document's items: as it latched it, and as it stands where the document is no more. -/
def State.osCfg (s : State) (n idx : Nat) : Nat :=
  match (s.os.get n).docOf idx with
  | some d => d.regs.getD 9 0
  | none => (s.reg (Reg.OSn_CFG n)).toNat

/-- A field of latched register i. -/
def OsDoc.fld (d : OsDoc) (i : Nat) (f : Fld) : Nat := d.regs.getD i 0 / 2 ^ f.lo % 2 ^ f.width
def OsDoc.en (d : OsDoc) : Bool := d.fld 0 Fld.OSn_CTRL_EN == 1
def OsDoc.code (d : OsDoc) : Nat := min 4 (d.fld 1 Fld.OSn_FMT_BITS)
def OsDoc.bits (d : OsDoc) : Nat := 8 + 2 * d.code
def OsDoc.nsel (d : OsDoc) : Nat := max 1 (min 8 (d.fld 1 Fld.OSn_FMT_NSEL))
def OsDoc.sel (d : OsDoc) (i : Nat) : Nat := d.fld 2 (Fld.OSn_CHSEL_SELi i)
def OsDoc.isJls (d : OsDoc) : Bool := d.fld 3 Fld.OSn_JLS_EN == 1
def OsDoc.planar (d : OsDoc) : Bool := d.fld 1 Fld.OSn_FMT_PLANAR == 1
def OsDoc.segLines (d : OsDoc) : Nat :=
  let v := d.fld 3 Fld.OSn_JLS_SEG_LINES
  if v = 0 ∨ 1024 < v then 1024 else v

/-- FORMAT (R261). -/
def OsDoc.format (d : OsDoc) : Nat := d.code + b2n d.planar * 8 + b2n d.isJls * 16

/-- A value as a sample of B bits (R256). -/
def sampleOf (b v : Nat) : Nat := if b = 16 then v else min (2 ^ b - 1) ((v + 2 ^ (15 - b)) / 2 ^ (16 - b))

/-- The selected channels of a line as samples (R257). -/
def OsDoc.samples (d : OsDoc) (px : List (List Nat)) : List (List Nat) :=
  let w := (px.headD []).length
  (List.range d.nsel).map (fun i => match px[d.sel i]? with
    | some c => c.map (sampleOf d.bits)
    | none => List.replicate w 0)

/-- A selected channel lies beyond the line's channels (R257). -/
def OsDoc.beyond (d : OsDoc) (px : List (List Nat)) : Bool := (List.range d.nsel).any (fun i => decide (px.length ≤ d.sel i))

/-- Samples packed (R259): bytes, two bytes, or a bit stream filled from bit 0 upwards. -/
def packSamples (b : Nat) (l : List Nat) : List Nat :=
  if b = 8 then l
  else if b = 16 then l.flatMap (leBytes 2)
  else
    let bits := l.flatMap (fun v => (List.range b).map (fun i => v / 2 ^ i % 2))
    (chunks 8 bits.length bits).map (fun c => (List.range c.length).foldl (fun a i => a + c.getD i 0 * 2 ^ i) 0)

/-- Zero bytes up to the next multiple of eight (R260). -/
def pad8 (l : List Nat) : List Nat := l ++ List.replicate ((8 - l.length % 8) % 8) 0

/-- The payload of a line (R258 to R260). -/
def OsDoc.payload (d : OsDoc) (px : List (List Nat)) : List Nat :=
  let cs := d.samples px
  let w := (px.headD []).length
  if d.planar then pad8 (cs.flatMap (packSamples d.bits))
  else pad8 (packSamples d.bits ((List.range w).flatMap (fun x => cs.map (fun c => c.getD x 0))))

/-- The 32 bytes of a tag as it leaves (R149, R253). -/
def tagBytes (n width : Nat) (t : Tag) (sealv : Nat) : List Nat :=
  leBytes 4 (n + t.flags % 2 ^ 16 * 2 ^ 16) ++ leBytes 4 t.doc ++ leBytes 4 t.line
    ++ leBytes 4 (width % 2 ^ 16 + t.recipe % 16 * 2 ^ 16) ++ leBytes 8 t.time ++ leBytes 4 t.enc ++ leBytes 4 sealv

/-! ### Items and destinations (R262 to R267, R333, R334) -/

/-- The DMA channel bound to an output stream (R328), its state (R330), and whether this device issues its requests (R349). -/
def State.dmaOf (s : State) (n : Nat) : Option Nat :=
  (List.range 32).find? (fun c => s.on (Reg.DMA_CHn_BIND c) Fld.DMA_CHn_BIND_OS_EN
    && s.fld (Reg.DMA_CHn_BIND c) Fld.DMA_CHn_BIND_OS == n)
def State.dmaState (s : State) (c : Nat) : Nat := s.fld (Reg.DMA_CHn_STATUS c) Fld.DMA_CHn_STATUS_STATE
def State.dmaOwner (s : State) (c : Nat) : Nat := s.fld (Reg.DMA_CHn_BIND c) Fld.DMA_CHn_BIND_OWNER

/-- The slots of 4 KiB that items take (R334). -/
def slotsOf (l : List OsItem) : Nat := l.foldl (fun a i => a + max 1 ((i.bytes.length + 4095) / 4096)) 0

/-- The items that a channel holds in its buffer. -/
def OsSt.buffered (x : OsSt) : List OsItem := x.lineQ ++ x.statsQ ++ x.docQ

/-- A field of an item's OSn_CFG. -/
def OsItem.fld (it : OsItem) (f : Fld) : Nat := f.get (BitVec.ofNat 32 it.cfg)

/-- The groups that a LINK output stream sends an item on (R267). -/
def State.osGroups (s : State) (it : OsItem) : List Nat :=
  if s.fld Reg.GLB_ROLE Fld.GLB_ROLE_TOPOLOGY = 2 then
    [0, 1].filter (fun g => s.on (Reg.LNK_Gg_CFG g) Fld.LNK_Gg_CFG_USED)
  else [it.fld Fld.OSn_CFG_GROUP]

/-- What the destination does with an item: it takes it, discards it, or cannot take it yet (R264). -/
inductive Accept where
  | take | discard | hold
  deriving DecidableEq, Repr

def State.accepts (s : State) (n : Nat) (it : OsItem) : Accept :=
  match it.fld Fld.OSn_CFG_DEST with
  | 0 => match s.dmaOf n with
    | none => .discard
    | some c =>
      let st := s.dmaState c
      if st = 0 ∨ st = 5 ∨ (s.dmaDisc.get c).contains it.doc then .discard
      else if st = 3 ∨ st = 4 then .hold
      else
        let b := (s.os.get n).buffered
        if b = [] ∨ slotsOf (it :: b) ≤ s.fld (Reg.DMA_CHn_BIND c) Fld.DMA_CHn_BIND_QUOTA then .take else .hold
  | 1 =>
    if (s.osGroups it).any (fun g => s.hasPath g && (s.grp.get g).queue.any (fun p => p.cls == 5)) then .hold else .take
  | _ => .discard

/-- A channel may issue requests (R329, R372, R376): a function's channel while the function is in D0 with Bus Master Enable set and
no reset running; a channel of the management cores always. -/
def State.dmaCan (s : State) (c : Nat) : Bool :=
  let f := s.dmaOwner c
  f == 3 || (s.busMaster f && s.inD0 f && (s.flrUntil.get f == none))

/-- The read engine drains the STATS queue of a running channel by itself (R336); the data link layer's acknowledgement of each
record will be reported to the partner (R350). -/
def State.drainStats (s : State) (n : Nat) : State :=
  match s.dmaOf n with
  | none => s
  | some c =>
    if s.leads && (s.dmaState c == 1 || s.dmaState c == 2) && s.dmaCan c then
      let s := (s.os.get n).statsQ.foldl (fun s (it : OsItem) =>
        let s := if s.dmaOwner c = 3 then s else s.emit (.hostWrite (s.dmaOwner c) it.addr it.bytes)
        let s := if it.again then s.count (Reg.DMA_CHn_DUP_CNT c) else s
        let s := s.modDma c (fun d => { d with stats := d.stats + 1 })
        let d := s.dma.get c
        if s.leadsPair then s.modDma c (fun d' => { d' with unack := d'.unack ++ [(d.retired, d.moved, d.stats, (s.reg (Reg.DMA_CHn_LAST_DOC c)).toNat)] }) else s) s
      s.modOs n (fun x => { x with statsQ := [] })
    else s

/-- An item that the destination takes or discards leaves the output stream. -/
def State.osHand (s : State) (n : Nat) (it : OsItem) (how : Accept) : State :=
  match it.fld Fld.OSn_CFG_DEST, how with
  | 0, .take =>
    (s.modOs n (fun x =>
      let it : OsItem := { it with arr := x.arrived }
      let x := { x with arrived := x.arrived + 1 }
      match it.typ with
      | 0 => { x with lineQ := x.lineQ ++ [it] }
      | 1 => { x with statsQ := x.statsQ ++ [it] }
      | _ => { x with docQ := x.docQ ++ [it] })).drainStats n
  | 0, _ => match s.dmaOf n with
    | none => s
    | some c =>
      let old := s.dmaDisc.get c
      let docs := if it.typ = 2 then old.filter (· != it.doc) else if old.contains it.doc then old else it.doc :: old
      { s with dmaDisc := s.dmaDisc.set c docs }.count (Reg.DMA_CHn_DISC_CNT c)
  | 1, _ => (s.osGroups it).foldl (fun s g =>
      if s.hasPath g then s.sendItem g 5 it.typ 0 n it.bytes.length (wordsOf it.bytes)
      else s.count (Reg.BRG_CNTk 7)) s
  | _, _ => s

/-- Held items go on, in order, as far as the destination accepts them; STALL shows a hold (R264). -/
def State.osFlush (n : Nat) : Nat → State → State
  | 0, s => s
  | fuel + 1, s =>
    match (s.os.get n).held with
    | [] =>
      let s := if s.on (Reg.OSn_STATUS n) Fld.OSn_STATUS_STALL then s.modOs n (fun x => { x with freedAt := s.now }) else s
      s.setFld (Reg.OSn_STATUS n) Fld.OSn_STATUS_STALL 0
    | it :: rest =>
      match s.accepts n it with
      | .hold => s.setFld (Reg.OSn_STATUS n) Fld.OSn_STATUS_STALL 1
      | how => State.osFlush n fuel ((s.modOs n (fun x => { x with held := rest })).osHand n it how)

/-- What is held at an output stream goes on. -/
def State.osRelease (s : State) (n : Nat) : State := State.osFlush n ((s.os.get n).held.length + 1) s

/-- An output stream emits nothing on a DETACHED device (R495) and in the fault state (R490). -/
def State.osOff (s : State) : Bool := s.twinState == 6 || s.dark

/-- An item is produced (R263), unless the output stream emits nothing. -/
def State.osProduce (s : State) (n : Nat) (it : OsItem) : State :=
  if s.osOff then s
  else (s.modOs n (fun x => { x with held := x.held ++ [it] })).osRelease n

/-! ### Seals and their comparison (R276 to R280, R505, R506, R511) -/

/-- The document of an output stream with a place, wherever it stands, changed by `f`. -/
def State.modOsDoc (s : State) (n idx : Nat) (f : OsDoc → OsDoc) : State :=
  s.modOs n (fun x => { x with
    cur := x.cur.map (fun d => if d.idx = idx then f d else d)
    hdrs := x.hdrs.map (fun d => if d.idx = idx then f d else d) })

/-- A record leaves the output stream: bits 24 and 25 of tag word 0 are written, and it enters LINE (R263, R505, R511). -/
def State.osLeave (s : State) (n : Nat) (r : OsRec) (mismatch : Bool) : State :=
  let x := s.os.get n
  let flags := if mismatch then setFlag r.tag.flags flagMismatch else r.tag.flags
  let flags := if x.failover then setFlag flags flagFailover else flags
  let s := s.modOs n (fun x => { x with failover := false })
  let s := s.modOsDoc n r.tag.idx (fun d => { d with flags := Nat.lor d.flags flags })
  s.osProduce n ⟨0, r.tag.doc, r.tag.line, 0, false, tagBytes n r.width { r.tag with flags := flags } r.word7 ++ r.body, 0,
    s.osCfg n r.tag.idx⟩

/-- A mismatch of seals (R505, R506). -/
def State.sealMismatch (s : State) (n doc line : Nat) : State :=
  let s := (s.count (Reg.TWN_CNTk 0)).setFld Reg.TWN_EVENT Fld.TWN_EVENT_MISMATCH 1
  let s := if s.bit Reg.TWN_MM_DOC 31 then s else
    (s.setReg Reg.TWN_MM_DOC (BitVec.ofNat 32 (doc % 2 ^ 31 + 2 ^ 31))).setReg Reg.TWN_MM_LINE
      (BitVec.ofNat 32 (line % 2 ^ 26 + n * 2 ^ 26))
  if s.follows then
    let fresh := decide (s.mm.begun + 1000000 ≤ s.now)
    let c := (if fresh then 0 else s.mm.count) + 1
    let s := { s with mm := ⟨c, if fresh then s.now else s.mm.begun⟩ }
    let thr := s.fld Reg.TWN_CFG Fld.TWN_CFG_MM_THR
    if thr ≠ 0 ∧ c = thr then s.raiseError 54 0 else s
  else s

/-- Records at the front whose comparison is over leave in order. -/
def State.osSettle (n : Nat) : Nat → State → State
  | 0, s => s
  | fuel + 1, s =>
    match (s.os.get n).wait with
    | [] => s
    | r :: rest => match r.cmp with
      | none => s
      | some mm => State.osSettle n fuel ((s.modOs n (fun x => { x with wait := rest })).osLeave n r mm)

/-- The device takes part in seal comparison (R505). -/
def State.compares (s : State) : Bool :=
  s.on Reg.GLB_ROLE Fld.GLB_ROLE_PAIRED && (s.twinState == 2 || s.twinState == 4 || s.twinState == 5)

/-- A complete line or segment record of output stream `n` (R253, R276 to R280, R505). `word7` is what its tag carries: the seal,
or on a relay the seal that it arrived with. -/
def State.osRecord (s : State) (n : Nat) (tag : Tag) (width : Nat) (body : List Nat) (sealv word7 : Nat) : State :=
  if s.osOff || s.mute n tag.idx then s
  else
  let s := s.osCount n 0
  let s := ((s.setReg (Reg.OSn_LAST_SEAL n) (BitVec.ofNat 32 sealv)).setReg (Reg.OSn_LAST_DOC n)
    (BitVec.ofNat 32 tag.doc)).setReg (Reg.OSn_LAST_LINE n) (BitVec.ofNat 32 tag.line)
  let r : OsRec := ⟨tag, width, body, sealv, word7, s.now, none⟩
  if !s.compares then s.osLeave n r false
  else
    let s := s.toPartner 2 [n, tag.doc, tag.line, sealv]
    match (s.os.get n).partner.find? (fun (p : Nat × Nat × Nat) => p.1 == tag.doc && p.2.1 == tag.line) with
    | some p =>
      let mm := p.2.2 != sealv
      let s := s.modOs n (fun x => { x with partner := x.partner.erase p })
      let s := if mm then s.sealMismatch n tag.doc tag.line else s
      if s.twinState = 2 then
        let r : OsRec := { r with cmp := some mm }
        let s := s.modOs n (fun x => { x with wait := x.wait ++ [r] })
        State.osSettle n ((s.os.get n).wait.length) s
      else s.osLeave n r false
    | none =>
      if s.twinState = 2 then s.modOs n (fun x => { x with wait := x.wait ++ [r] })
      else (s.modOs n (fun x => { x with sent := x.sent ++ [(tag.doc, tag.line, sealv)] })).osLeave n r false

/-- A seal report of the partner (R505, R506). -/
def State.sealReport (s : State) (n doc line sealv : Nat) : State :=
  let x := s.os.get n
  match x.wait.find? (fun (r : OsRec) => r.tag.doc == doc && r.tag.line == line && r.cmp.isNone) with
  | some r =>
    let mm := r.sealv != sealv
    let s := if mm then s.sealMismatch n doc line else s
    let s := s.modOs n (fun x => { x with wait := x.wait.map (fun q => if q = r then { q with cmp := some mm } else q) })
    State.osSettle n (x.wait.length) s
  | none =>
    match x.sent.find? (fun (p : Nat × Nat × Nat) => p.1 == doc && p.2.1 == line) with
    | some p =>
      let s := s.modOs n (fun x => { x with sent := x.sent.erase p })
      if p.2.2 = sealv then s
      else if s.follows then s.sealMismatch n doc line
      else s.count (Reg.TWN_CNTk 0)
    | none => s.modOs n (fun x => { x with partner := x.partner ++ [(doc, line, sealv)] })

/-- The oldest record has waited CMP_WAIT (R505): it leaves without MISMATCH, and a later report is still compared. -/
def doCmpWait (n : Nat) (s : State) : State :=
  match (s.os.get n).wait with
  | [] => s
  | r :: rest =>
    let limit := 1000 * max 1 (s.fld Reg.TWN_CFG Fld.TWN_CFG_CMP_WAIT)
    if r.cmp = none ∧ r.since + limit ≤ s.now then
      let s := (s.count (Reg.TWN_CNTk 1)).modOs n (fun x => { x with
        wait := rest, sent := x.sent ++ [(r.tag.doc, r.tag.line, r.sealv)] })
      State.osSettle n rest.length (s.osLeave n r false)
    else s

def execCmpWaitExpiry (n : Nat) (s : State) : Host.Outcome State Fault Refusal := answer s (n < 32) (doCmpWait n s)

/-! ### Formatting a line (R253 to R257, R270 to R275, R279, R282) -/

/-- What goes wrong while a record is formed: the words of the OF's buffers corrected, the eight-byte words read as they are (R282), in the
line buffers and in the coding buffers, and where the two seal circuits differ the first one's value (R279), by output stream. -/
structure OsFaults where
  corr : Nat
  bad : List (Nat × Nat × List Nat)
  coded : List (Nat × Nat × List Nat)
  seals : List (Nat × Word)
  deriving DecidableEq, Repr

/-- A record's bytes after the uncorrectable words of the buffers are used as read. -/
def applyBad (n : Nat) (bad : List (Nat × Nat × List Nat)) (body : List Nat) : List Nat :=
  bad.foldl (fun b e => if e.1 = n ∧ 8 * e.2.1 + 8 ≤ b.length then
    b.take (8 * e.2.1) ++ (e.2.2 ++ List.replicate 8 0).take 8 ++ b.drop (8 * e.2.1 + 8) else b) body

/-- The samples of a line of a coded stream after the uncorrectable words of its line buffer are used as read: the buffer holds two bytes
a sample, component by component (notes/assumptions/134.md). -/
def badSamples (n bits : Nat) (bad : List (Nat × Nat × List Nat)) (cs : List (List Nat)) : List (List Nat) :=
  if bad = [] then cs
  else
    let w := (cs.headD []).length
    let bytes := applyBad n bad (pad8 (cs.flatMap (fun c => c.flatMap (leBytes 2))))
    (List.range cs.length).map (fun i => (List.range w).map (fun x =>
      (bytes.getD (2 * (i * w + x)) 0 + 256 * bytes.getD (2 * (i * w + x) + 1) 0) % 2 ^ bits))

/-- A record is sealed and complete (R276 to R279). `src` is the Lodge source of a seal fault. -/
def State.osSeal (s : State) (n : Nat) (tag : Tag) (width : Nat) (body : List Nat) (f : OsFaults) (src : Nat × Nat) : State :=
  let body := applyBad n f.bad body
  match f.seals.find? (fun e => e.1 == n) with
  | some e => ((s.osCount n 5).raiseError src.1 src.2).osRecord n tag width body e.2.toNat e.2.toNat
  | none => s.osRecord n tag width body (crc32c body) (crc32c body)

/-- The JPEG-LS parameters of a document, and whether its explicit thresholds were invalid (R274). -/
def OsDoc.jlsParams (d : OsDoc) : JlsParams × Bool :=
  let near := d.fld 3 Fld.OSn_JLS_NEAR
  let t1 := d.fld 4 Fld.OSn_JLS_THR_T1
  let t2 := d.fld 4 Fld.OSn_JLS_THR_T2
  let t3 := d.fld 5 Fld.OSn_JLS_THR2_T3
  let rst := d.fld 5 Fld.OSn_JLS_THR2_RESET
  let expl := d.fld 3 Fld.OSn_JLS_THR_EXPL == 1
  let ok := jlsValid d.bits near t1 t2 t3 rst
  if expl && ok then (⟨d.bits, near, t1, t2, t3, rst, d.nsel, true⟩, false)
  else (jlsDefault d.bits near d.nsel, expl && !ok)

/-- The segment of a coded document is complete (R271 to R273): its missing lines are coded as zeros, and its record leaves. `n` is
the output stream, `mark` the document's marker where this is its last segment: the record of the document's last line numbers
carries the marker's TRUNC and SHORT_DOC (R151). What words 3 to 6 hold without the segment's first line is free
(notes/assumptions/103.md). -/
def State.osSegment (s : State) (n : Nat) (d : OsDoc) (mark : Option Marker) (f : OsFaults) (src : Nat × Nat) : State :=
  let first := d.segNo * d.segLines
  let lines := match mark with | some m => min d.segLines (m.count - first) | none => d.segLines
  let blank := List.replicate d.nsel (List.replicate d.width 0)
  let got (k : Nat) : Option Line := d.seg.find? (fun (l : Line) => l.tag.line == first + k)
  let px := (List.range lines).map (fun k => match got k with | some l => l.px | none => blank)
  let missing := (List.range lines).any (fun k => (got k).isNone)
  let flags := d.seg.foldl (fun a (l : Line) => Nat.lor a l.tag.flags) 0
  let flags := if missing then setFlag flags flagDrop else flags
  let flags := if mark.any (·.trunc) then setFlag flags flagTrunc else flags
  let flags := if mark.any (·.short) then setFlag flags flagShort else flags
  let flags := if d.segNo = 0 ∧ d.chg = true then setFlag flags flagRecipeChg else flags
  let bytes := jlsSegment d.jlsParams.1 d.width d.segLines d.segNo px (mark.map (·.count))
  let body := leBytes 4 bytes.length ++ [0, 0, 0, 0] ++ pad8 bytes
  let free (k : Nat) : Nat := Config.segment ([k, n, d.doc, d.idx, d.segNo] ++ d.regs)
  let tag : Tag := match got 0 with
    | some l => { l.tag with line := first, flags := flags }
    | none => { (default : Tag) with
        stream := d.ch, doc := d.doc, idx := d.idx, line := first, flags := flags
        recipe := match d.first with | some t => t.recipe | none => free 0 % 16
        time := free 1 % 2 ^ 64, enc := free 2 % 2 ^ 32 }
  let s := s.modOsDoc n d.idx (fun d => { d with segNo := d.segNo + 1, seg := [], coded := d.coded + bytes.length })
  s.osSeal n tag d.width body { f with bad := f.coded } src

/-- Segments that a line number has passed are completed. -/
def State.osSegments (n line : Nat) (f : OsFaults) (src : Nat × Nat) : Nat → State → State
  | 0, s => s
  | fuel + 1, s =>
    match (s.os.get n).cur with
    | none => s
    | some d => if (d.segNo + 1) * d.segLines ≤ line then State.osSegments n line f src fuel (s.osSegment n d none f src) else s

/-- An output stream latches its registers for a document (R255): its staged bank is taken first, where the recipe of the
document is loaded. -/
def State.osLatch (s : State) (n ch idx doc : Nat) : State :=
  let s := s.swapAt ch idx (ownerKey 6 n 0) [] false
  let regs := (osRegs n).map (fun o => (s.reg o).toNat)
  let d : OsDoc := ⟨idx, doc, ch, regs, 0, none, none, 0, 0, 0, [], 0, [], none, false⟩
  let s := if d.isJls && d.en && d.jlsParams.2 then s.osCount n 6 else s
  s.modOs n (fun x => { x with cur := some d, seen := max x.seen (idx + 1) })

/-- The document of an output stream for an item at place `idx`, latched where it is new. -/
def State.osOpen (s : State) (n ch idx doc : Nat) : State :=
  match (s.os.get n).cur with
  | some d => if d.idx = idx then s else s.osLatch n ch idx doc
  | none => s.osLatch n ch idx doc

/-- RECIPE_CHG of a document's first line (R254). -/
def State.recipeChanged (s : State) (n recipe : Nat) : Bool := (s.os.get n).prevRecipe.getD s.defaultRecipe != recipe

/-- The document in an output stream was latched with EN = 1 (R255). -/
def State.osEnabled (s : State) (n : Nat) : Bool := match (s.os.get n).cur with | some d => d.en | none => false

/-- An output stream formats a line (R253 to R260, R270 to R273). `o` is the OF. A coded document takes RECIPE_CHG on its first segment. -/
def State.osLine (s : State) (o n ch : Nat) (l : Line) (f : OsFaults) : State :=
  let s := s.osOpen n ch l.tag.idx l.tag.doc
  match (s.os.get n).cur with
  | none => s
  | some d =>
    if !d.en then s.ofCount o 1 1
    else
      let src := (19 + 4 * (o / 2), 2 + o % 2)
      let chg := d.count == 0 && s.recipeChanged n l.tag.recipe
      let flags := if chg && !d.isJls then setFlag l.tag.flags flagRecipeChg else l.tag.flags
      let tag : Tag := { l.tag with flags := flags }
      let w := (l.px.headD []).length
      let s := if d.beyond l.px then s.ofCount o 4 1 else s
      let s := s.modOsDoc n d.idx (fun d => { d with
        count := d.count + 1
        first := some (d.first.getD tag)
        last := some tag
        flags := Nat.lor d.flags flags
        width := w
        chg := d.chg || chg })
      let s := s.modOs n (fun x => { x with prevRecipe := some (if d.count = 0 then l.tag.recipe else x.prevRecipe.getD l.tag.recipe) })
      if d.isJls then
        (State.osSegments n l.tag.line f src (l.tag.line + 1) s).modOsDoc n d.idx (fun d => { d with
          seg := d.seg ++ [⟨tag, badSamples n d.bits f.bad (d.samples l.px)⟩] })
      else s.osSeal n tag w (d.payload l.px) f src

/-- A document-end marker reaches an output stream (R255, R263, R271, R272): the last segments are coded, and the header is due. The width
of a coded document without a line is free. -/
def State.osMarker (s : State) (o n ch : Nat) (m : Marker) (f : OsFaults) : State :=
  let s := s.osOpen n ch m.idx m.doc
  let src := (19 + 4 * (o / 2), 2 + o % 2)
  let s := match (s.os.get n).cur with
    | some d =>
      if d.en && d.isJls && decide (0 < m.count) then
        let s := s.modOsDoc n d.idx (fun d => { d with
          width := if d.count = 0 then Config.segment ([3, n, d.doc, d.idx, 0] ++ d.regs) % 16384 + 1 else d.width })
        let s := State.osSegments n (m.count - 1) f src (m.count + 1) s
        match (s.os.get n).cur with
        | some d => s.osSegment n d (some m) f src
        | none => s
      else s
    | none => s
  s.modOs n (fun x => match x.cur with
    | some d => { x with cur := none, hdrs := if d.en then x.hdrs ++ [{ d with mark := some m }] else x.hdrs }
    | none => x)

/-- Markers at the front of an OF's channel reach its output streams. -/
def State.ofArrive (f : OsFaults) : Nat → State → Nat → Nat → State
  | 0, s, _, _ => s
  | fuel + 1, s, o, ch =>
    match s.waitingAt 4 o ch, (s.arb.get (unitKey 4 o)).taken.any (fun t => t.1 == ch) with
    | .marker m :: rest, false =>
      let s := (s.setWaiting 4 o ch rest).markerIn 4 o ch m
      let s := s.observeOf ch [] (.marker m)
      let s := match s.ofContext o ch with
        | none => s
        | some c => (s.ofFeeds o c).foldl (fun s n => s.osMarker o n ch m f) s
      State.ofArrive f fuel s o ch
    | _, _ => s

/-- Every marker that has reached an OF goes on. -/
def State.ofMarkers (s : State) (o : Nat) (f : OsFaults) : State :=
  (s.pointChans 4 o).foldl (fun s ch => State.ofArrive f ((s.waitingAt 4 o ch).length + 1) s o ch) s

/-- Errors in an OF's buffers count and signal, each for itself (R282). -/
def State.ofErrors (s : State) (o : Nat) (f : OsFaults) : State :=
  let bad := f.bad.length + f.coded.length
  (((s.ofCount o 2 f.corr).raiseCorrs (19 + 4 * (o / 2)) (2 + o % 2) f.corr).ofCount o 3 bad).raiseErrors
    (19 + 4 * (o / 2)) (2 + o % 2) bad

/-- An OF takes its line: the tap points observe it, the units after the delay lines swap, and each output stream that the
context feeds formats it (R59, R232, R253). Counter 0 counts the line once, however many output streams format it (DEDUCED:
notes/assumptions/43.md). A fenced OF passes markers only. -/
def doOfLine (o : Nat) (gh : Ecc) (errs : List BuErr) (f : OsFaults) (s : State) : State :=
  if s.fenced 4 o then s.ofMarkers o f
  else match s.readTaken 4 o gh with
    | (s, none) => s.ofMarkers o f
    | (s, some (ch, l)) =>
      let l := s.marked 4 o ch l
      let alone := s.firstUnit ch == some (4, o)
      let s := s.swapAt ch l.tag.idx (ownerKey 4 o 0) ((List.range 8).map (fun c => ownerKey 4 o (1 + c))) false
      let s := match s.routeUnit ch 3 with
        | some b => if s.routeUnit ch 2 = none then
            s.swapAt ch l.tag.idx (ownerKey 3 b 0) ((List.range 8).map (fun c => ownerKey 3 b (1 + c))) false else s
        | none => s
      let l := if alone then { l with tag := { l.tag with recipe := s.ownerRecipe (ownerKey 4 o 0) } } else l
      let s := s.observeOf ch errs (.line l)
      let s := s.ofErrors o f
      let s := match s.ofContext o ch with
        | none => s
        | some c =>
          let s := (s.ofFeeds o c).foldl (fun (s : State) n => s.osLine o n ch l f) s
          if (s.ofFeeds o c).any (fun n => s.osEnabled n) then s.ofCount o 0 1 else s
      s.ofMarkers o f

def execOfLine (o : Nat) (gh : Ecc) (errs : List BuErr) (corr : Nat) (bad : OfWords)
    (seals : List (Nat × Word)) (s : State) : Host.Outcome State Fault Refusal :=
  answer s (o < 8) (doOfLine o gh errs ⟨corr, bad.line, bad.coded, seals⟩ s)

/-! ### Statistics records (R246 to R248, R265) -/

/-- A fenced BU completes a record only if it has ECC_ERR (R250, R485, R487, notes/assumptions/136.md). -/
def State.buCompletes (s : State) (b : Nat) (r : BuRec) : Bool := !s.fenced 3 b || r.err

/-- A BU context completes its oldest closed record (R246 to R250): it enters the record ring and, with OS_EN, goes to the output
stream; without a free slot it is lost. `corr` words of bin and zone memory are corrected, the accumulators `bad` read 0. -/
def doBuComplete (b c corr : Nat) (bad : List Nat) (s : State) : State :=
  let x := s.bu.get (8 * b + c)
  match x.due with
  | [] => s
  | r :: rest =>
    if !s.buCompletes b r then s
    else
      let s := (s.buCount b 3 corr).raiseCorrs (19 + 4 * (b / 2)) (b % 2) corr
      let s := (s.buCount b 4 bad.length).raiseErrors (19 + 4 * (b / 2)) (b % 2) bad.length
      let r := { r with
        err := r.err || !bad.isEmpty, acc := bad.foldl (fun (t : Table Nat) k => Table.set t k 0) r.acc }
      let bytes := r.bytes b c
      let ring := Reg.PVp_BUu_CTXc_RING (b / 2) (b % 2) c
      let seqNo := (s.reg (Reg.PVp_BUu_CTXc_SEQ (b / 2) (b % 2) c)).toNat
      let slot := seqNo % max 1 (s.fld ring Fld.PVp_BUu_CTXc_RING_NSLOT)
      let addr := s.fld (Reg.PVp_BUu_CTXc_REC_BASE (b / 2) (b % 2) c) Fld.PVp_BUu_CTXc_REC_BASE_BASE
        + slot * s.fld ring Fld.PVp_BUu_CTXc_RING_SLOT_SIZE
      let n := r.set.fld 0 Fld.PVp_BUu_CTXc_CFG_OS
      let toOs := r.set.fld 0 Fld.PVp_BUu_CTXc_CFG_OS_EN == 1
      let s := s.modBu b c (fun x => { x with due := rest })
      let s := s.bumpSeq (Reg.PVp_BUu_CTXc_SEQ (b / 2) (b % 2) c)
      let s := s.sendRec b c seqNo r.doc (leNat (bytes.drop (bytes.length - 4)))
      if x.busy.contains slot then
        let s := s.buCount b 1 1
        if toOs then s.osCount n 3 else s
      else
        let s := s.fmPut (64 * addr) bytes
        let s := (s.setReg (Reg.PVp_BUu_CTXc_REC (b / 2) (b % 2) c) (BitVec.ofNat 32 (addr % 2 ^ 28))).buCount b 0 1
        if toOs then
          let st : OsStat := ⟨r.idx, r.doc, r.set.fld 0 Fld.PVp_BUu_CTXc_CFG_REC_IDX, 8 * b + c, slot, bytes⟩
          (s.modBu b c (fun x => { x with busy := slot :: x.busy })).modOs n (fun y => { y with stats := y.stats ++ [st] })
        else s

def execBuRecordComplete (b c corr : Nat) (bad : List Nat) (s : State) : Host.Outcome State Fault Refusal :=
  answer s (b < 8 && c < 8) (doBuComplete b c corr bad s)

/-- The statistics area of an output stream as a document latched it: base and size (R265). -/
def OsDoc.statsArea (d : OsDoc) : Nat × Nat := (d.regs.getD 6 0 / 64 * 64 + d.regs.getD 7 0 * 2 ^ 32, d.regs.getD 8 0 / 64 * 64)

/-- A statistics record of a latched document is placed in the area, or lost (R265): its address enters the header. A document latched with
EN = 0 emits none (R255). -/
def State.placeStat (s : State) (n idx rec_ doc : Nat) (bytes : List Nat) : State :=
  match (s.os.get n).docOf idx with
  | none => s
  | some d =>
    let area := d.statsArea
    if s.mute n idx || !d.en then s
    else if area.2 < bytes.length then s.osCount n 3
    else
      let p := (s.os.get n).ptr
      let p := if area.2 < p + bytes.length then 0 else p
      let addr := area.1 + p
      let s := s.modOs n (fun x => { x with
        ptr := p + (bytes.length + 63) / 64 * 64
        addrs := match x.addrs.find? (fun (a : OsAddr) => a.idx == idx && a.rec_ == rec_) with
          | some a => x.addrs.map (fun b => if b = a then { a with size := a.size + bytes.length } else b)
          | none => x.addrs ++ [⟨idx, rec_, addr, bytes.length⟩] })
      (s.osCount n 2).osProduce n ⟨1, doc, 0, addr, false, bytes, 0, s.osCfg n idx⟩

/-- BU context `k` may yet have records of the document at a place (R241, R246): it has not seen its marker, or has one to complete. -/
def State.buOwes (s : State) (k idx : Nat) : Bool :=
  let x := s.bu.get k
  let b := k / 8
  (decide (x.closed ≤ idx) && (!s.fenced 3 b || x.cur.any (fun r => r.idx == idx && r.err)))
    || x.due.any (fun r => r.idx == idx && s.buCompletes b r)

/-- The statistics record that an output stream places next: the oldest, but while the records of a context for one document are being placed
and more may come, only those, so that they stand consecutively (R247, notes/assumptions/135.md). -/
def State.nextStat (s : State) (n : Nat) : Option OsStat :=
  let x := s.os.get n
  match x.run with
  | some (k, idx) =>
    let own := x.stats.find? (fun (t : OsStat) => t.ctx == k && t.idx == idx)
    if own.isSome || s.buOwes k idx then own else x.stats.head?
  | none => x.stats.head?

/-- The output stream places its next statistics record, which frees the record's slot (R247, R248, R265). A record waits until the output
stream has latched its document, for it goes where that says (R255). -/
def doStatsPlace (n : Nat) (s : State) : State :=
  match s.nextStat n with
  | none => s
  | some st =>
    if !(s.os.get n).held.isEmpty then s.osRelease n
    else if !s.mute n st.idx && decide ((s.os.get n).seen ≤ st.idx) then s
    else
      let s := s.modOs n (fun x => { x with stats := x.stats.erase st, run := some (st.ctx, st.idx) })
      let s := { s with bu := s.bu.modify st.ctx (fun x => { x with busy := x.busy.filter (· != st.slot) }) }
      s.placeStat n st.idx st.rec_ st.doc st.bytes

def execStatsPlace (n : Nat) (s : State) : Host.Outcome State Fault Refusal := answer s (n < 32) (doStatsPlace n s)

/-! ### The document header record (R152, R263) -/

/-- A record is still due to an output stream for the document at a place (R247): a context that delivers to it has not seen the
document's marker, has a record to complete, or the record has not been placed or written (R336). A fenced BU's other records are lost
(R487). -/
def State.statsDue (s : State) (n idx doc : Nat) : Bool :=
  (s.os.get n).stats.any (fun (t : OsStat) => t.idx == idx)
    || ((s.os.get n).statsQ ++ (s.os.get n).held).any (fun (it : OsItem) => it.typ == 1 && it.doc == doc)
    || (List.range 64).any (fun k =>
      let cfg := buCfg (k / 8) (k % 8)
      s.on cfg Fld.PVp_BUu_CTXc_CFG_VALID && s.on cfg Fld.PVp_BUu_CTXc_CFG_OS_EN
        && s.fld cfg Fld.PVp_BUu_CTXc_CFG_OS == n && s.buOwes k idx)
    || s.bu.any (fun e => e.2.due.any (fun r => r.idx == idx && r.set.fld 0 Fld.PVp_BUu_CTXc_CFG_OS_EN == 1
      && r.set.fld 0 Fld.PVp_BUu_CTXc_CFG_OS == n && s.buCompletes (e.1 / 8) r))

/-- The 128 bytes of a document header record (R152). What the spec states no value for in a document without a line is free. -/
def State.headerBytes (s : State) (n : Nat) (d : OsDoc) (m : Marker) : List Nat :=
  let x := s.os.get n
  let free (i k : Nat) : Nat := Config.nat (s.free + i) % 2 ^ k
  let t (f : Tag → Nat) (o : Option Tag) (i k : Nat) : Nat := match o with | some g => f g | none => free i k
  let ad (r : Nat) : OsAddr := (x.addrs.find? (fun (a : OsAddr) => a.idx == d.idx && a.rec_ == r)).getD ⟨0, 0, 0, 0⟩
  let flags := Nat.lor d.flags (b2n m.trunc * 2 ^ flagTrunc + b2n m.short * 2 ^ flagShort)
  let body := [0x54, 0x44, 0x4F, 0x43] ++ leBytes 2 1 ++ leBytes 2 128 ++ leBytes 4 d.doc
    ++ [n, t (·.recipe) d.first 0 4, d.format, d.nsel]
    ++ leBytes 8 (t (·.time) d.first 1 64) ++ leBytes 8 (t (·.time) d.last 2 64)
    ++ leBytes 4 d.count ++ leBytes 4 m.count ++ leBytes 4 (if d.count = 0 then free 3 16 else d.width)
    ++ leBytes 4 (flags % 2 ^ 16 * 2 ^ 16) ++ leBytes 4 (t (·.enc) d.first 4 32) ++ leBytes 4 (t (·.enc) d.last 5 32)
    ++ leBytes 4 m.lead ++ leBytes 4 (m.trail.getD 0x80000000)
    ++ leBytes 8 (ad 0).addr ++ leBytes 4 (ad 0).size ++ leBytes 4 0
    ++ leBytes 8 (ad 1).addr ++ leBytes 4 (ad 1).size ++ leBytes 4 (if d.isJls then d.coded else 0)
    ++ List.replicate 28 0
  body ++ leBytes 4 (crc32c body)

/-- The header record of the oldest closed document enters DOC once the comparison of its records is over and its statistics are
placed or lost (R247, R263, R505). -/
def doDocHeader (n : Nat) (s : State) : State :=
  let s := (s.feeders n).foldl (fun s f => s.ofMarkers f.1 ⟨0, [], [], []⟩) s
  match (s.os.get n).hdrs with
  | [] => s
  | d :: rest =>
    match d.mark with
    | none => s
    | some m =>
      if (s.os.get n).wait.any (fun (r : OsRec) => r.tag.idx == d.idx) || s.statsDue n d.idx d.doc then s
      else
        let bytes := s.headerBytes n d m
        let s := if d.count = 0 then { s with free := s.free + 6 } else s
        let s := s.modOs n (fun x => { x with hdrs := rest, addrs := x.addrs.filter (fun (a : OsAddr) => a.idx != d.idx) })
        if s.osOff || s.mute n d.idx then s else (s.osCount n 1).osProduce n ⟨2, d.doc, 0, 0, false, bytes, 0, d.regs.getD 9 0⟩

def execDocHeaderRecord (n : Nat) (s : State) : Host.Outcome State Fault Refusal := answer s (n < 32) (doDocHeader n s)

/-! ### Relays (R268, R269, R514) -/

/-- The identity of a relayed item (R514). -/
def itemId (typ : Nat) (bytes : List Nat) : List Nat :=
  let w (o : Nat) : Nat := leNat ((bytes.drop o).take 4)
  match typ with
  | 0 => [w 4, w 8]
  | 1 => [w 0x0C, w 0x10, leNat ((bytes.drop 0x34).take 2), bytes.getD 0x36 0]
  | _ => [w 8]

/-- The relay of a head output stream. -/
def State.relayOf (s : State) (os : Nat) : Option Nat :=
  (List.range 32).find? (fun n => s.on (Reg.OSn_CFG n) Fld.OSn_CFG_VALID && s.isRelay n
    && s.fld (Reg.OSn_CFG n) Fld.OSn_CFG_REMOTE_OS == os)

/-- The Lodge source of a group, and its index (R481). -/
def groupSource (g : Nat) : Nat × Nat := (42 + g, 0)

/-- A relay's document for an item, latched where it is new (R255). Items of several documents may alternate: a document stays open until its
header record comes. -/
def State.relayOpen (s : State) (n doc : Nat) : State :=
  if ((s.os.get n).docOf doc).isSome then s
  else
    let s := s.takeStaged 0 (· == ownerKey 6 n 0)
    let d : OsDoc := ⟨doc, doc, 0, (osRegs n).map (fun o => (s.reg o).toNat), 0, none, none, 0, 0, 0, [], 0, [], none, false⟩
    s.modOs n (fun x => { x with cur := some d, hdrs := x.hdrs ++ x.cur.toList })

/-- A relay's document is over. -/
def State.relayClose (s : State) (n doc : Nat) : State :=
  s.modOs n (fun x => { x with
    cur := x.cur.filter (fun d => d.idx != doc), hdrs := x.hdrs.filter (fun d => d.idx != doc)
    addrs := x.addrs.filter (fun (a : OsAddr) => a.idx != doc) })

/-- A relay delivers an item (R268, R269). Statistics records of a document take its header's pointers in the order of their
contexts; the header names where the relay placed them. -/
def State.relayDeliver (s : State) (n g typ : Nat) (bytes : List Nat) (fault : Option Word) : State :=
  let w (o : Nat) : Nat := leNat ((bytes.drop o).take 4)
  let doc := match typ with | 0 => w 4 | 1 => w 0x0C | _ => w 8
  let s := s.relayOpen n doc
  match (s.os.get n).docOf doc with
  | none => s
  | some d =>
    if !d.en then (if typ = 2 then s.relayClose n doc else s)
    else match typ with
      | 0 =>
        let body := bytes.drop 32
        let sealv := (fault.map (·.toNat)).getD (crc32c body)
        let s := match fault with
          | some _ => (s.osCount n 5).raiseError (groupSource g).1 (groupSource g).2
          | none => s
        let s := if sealv = w 28 then s else s.osCount n 4
        let tag : Tag := ⟨n, w 0 / 2 ^ 16, doc, w 8, w 12 / 2 ^ 16 % 16, w 16 + w 20 * 2 ^ 32, w 24, doc, 0, false⟩
        s.osRecord n tag (w 12 % 2 ^ 16) body sealv (w 28)
      | 1 =>
        let key := 256 * leNat ((bytes.drop 0x34).take 2) + bytes.getD 0x36 0
        let keys := if d.jls.contains key then d.jls else d.jls ++ [key]
        let s := s.modOsDoc n doc (fun d => { d with jls := keys })
        s.placeStat n doc (if keys.headD key = key then 0 else 1) doc bytes
      | _ =>
        let ad (r : Nat) : OsAddr := ((s.os.get n).addrs.find? (fun (a : OsAddr) => a.idx == doc && a.rec_ == r)).getD ⟨0, 0, 0, 0⟩
        let swap := decide (w 0x48 = 0) || (decide (w 0x48 ≠ (ad 0).size) && decide (w 0x58 = (ad 0).size))
        let a0 := if swap then ad 1 else ad 0
        let a1 := if swap then ad 0 else ad 1
        let flags := Nat.lor (w 0x2C) (d.flags % 2 ^ 16 * 2 ^ 16)
        let body := bytes.take 12 ++ [n] ++ (bytes.take 0x2C).drop 13 ++ leBytes 4 flags ++ (bytes.take 0x40).drop 0x30
          ++ leBytes 8 a0.addr ++ (bytes.take 0x50).drop 0x48 ++ leBytes 8 a1.addr ++ (bytes.take 0x7C).drop 0x58
        ((s.relayClose n doc).osCount n 1).osProduce n
          ⟨2, doc, 0, 0, false, body ++ leBytes 4 (crc32c body), 0, d.regs.getD 9 0⟩

/-- The bytes of the items that a relay keeps (R514). -/
def RelaySt.size (x : RelaySt) : Nat := x.kept.foldl (fun a k => a + k.2.2.length) 0

/-- The oldest STR item that group `g` has received is taken (R268, R430, R514): an item of the group that faces the head lead is
delivered, unless it was already; one of the other group is kept, unless it was delivered. A relay that holds, or keeps
256 KiB, leaves the item where it is. -/
def doRelayItem (g : Nat) (fault : Option Word) (s : State) : State :=
  match (s.grp.get g).rx.find? (fun p => p.cls == 5) with
  | none => s
  | some p0 =>
    match s.relayOf (p0.spec0 % 32) with
    | none => (s.takeItem g 5 p0.typ).1
    | some n =>
      let x := s.relay.get n
      let lead := s.facesHeadLead g
      if (lead && !(s.os.get n).held.isEmpty) || (!lead && decide (262144 ≤ x.size)) then s.osRelease n
      else match s.takeItem g 5 p0.typ with
        | (s, none) => s
        | (s, some (p, words)) =>
          let bytes := (words.flatMap (leBytes 4)).take (if p.spec1 = 0 then 4 * words.length else p.spec1)
          let id := itemId p.typ bytes
          if x.seen.contains (p.typ, id) then
            { s with relay := s.relay.set n { x with seen := x.seen.erase (p.typ, id) } }
          else if lead then
            let other := s.fld Reg.GLB_ROLE Fld.GLB_ROLE_TOPOLOGY == 2
            let had := x.kept.any (fun k => k.1 == p.typ && k.2.1 == id)
            let x' : RelaySt := if had then { x with kept := x.kept.filter (fun k => !(k.1 == p.typ && k.2.1 == id)) }
              else if other then { x with seen := x.seen ++ [(p.typ, id)] } else x
            { s with relay := s.relay.set n x' }.relayDeliver n g p.typ bytes fault
          else { s with relay := s.relay.set n { x with kept := x.kept ++ [(p.typ, id, bytes)] } }

def execRelayItem (g : Nat) (fault : Option Word) (s : State) : Host.Outcome State Fault Refusal :=
  answer s (g < 2) (doRelayItem g fault s)

end Sys2Proof.Machine
end

