-- ==== Sys2Proof/Machine/Time.lean ====
section
/-! DEFINITION. Invar time, trigger inputs, strobe generators, encoders and scheduled actions (spec/11). -/

namespace Sys2Proof.Machine

/-! ### Invar (R284 to R290) -/

/-- Invar behind its registers changed by `f`. -/
def State.modSync (s : State) (f : SyncSt → SyncSt) : State := { s with sync := f s.sync }

/-- A field of TB_SYNC_STATUS takes a value. -/
def State.setSync (s : State) (f : Fld) (v : Nat) : State := s.setFld Reg.TB_SYNC_STATUS f v

/-- The device is the root (R286): it leads a pair, or is single, and is not a HEAD device. -/
def State.isRoot (s : State) : Bool :=
  (!s.on Reg.GLB_ROLE Fld.GLB_ROLE_PAIRED || s.leads) && s.fld Reg.GLB_ROLE Fld.GLB_ROLE_ROLE != 1

/-- TB_SYNC_STATUS shows whether the device is the root: hop count 0, no upstream (R286, R288). A root that becomes a follower has no upstream
and is not LOCKED until its exchanges give both (notes/assumptions/138.md). -/
def State.showRoot (s : State) : State :=
  let was := s.on Reg.TB_SYNC_STATUS Fld.TB_SYNC_STATUS_ROOT
  let s := s.setSync Fld.TB_SYNC_STATUS_ROOT (b2n s.isRoot)
  if s.isRoot then
    ((s.setSync Fld.TB_SYNC_STATUS_HOPS 0).setSync Fld.TB_SYNC_STATUS_UPSTREAM 3).setSync Fld.TB_SYNC_STATUS_HOLDOVER 0
  else if was then
    (((s.setSync Fld.TB_SYNC_STATUS_HOPS 15).setSync Fld.TB_SYNC_STATUS_UPSTREAM 3).setSync Fld.TB_SYNC_STATUS_LOCKED 0).modSync
      (fun y => { y with good := 0 })
  else s

/-- The hop count that the device advertises, with LOCKED and ROOT (R288, R401). -/
def State.syncFlags (s : State) : Nat :=
  let locked := s.on Reg.TB_SYNC_STATUS Fld.TB_SYNC_STATUS_LOCKED
  let hops := if s.isRoot then 0 else if locked then s.fld Reg.TB_SYNC_STATUS Fld.TB_SYNC_STATUS_HOPS else 15
  hops + b2n locked * 16 + b2n s.isRoot * 32

/-- A read of TB_TIME_LO returns the low half and latches the high half for its initiator (R285). -/
def State.readTimeLo (s : State) (key : Nat) : State × Word :=
  (s.modSync (fun y => { y with latch := y.latch.set key (s.invar / 2 ^ 32 % 2 ^ 32) }), BitVec.ofNat 32 s.invar)

/-- The latch of an initiator; a request over a group has one for each group and originating initiator code. -/
def latchKey (i : Initiator) (init : Nat) : Nat := if i.code < 8 then i.code else 32 + 16 * (i.code - 8) + init % 16

def execTimeLoRead (i : Initiator) (init : Nat) (s : State) : Host.Outcome State Fault Refusal :=
  answer s (init < 16) (s.swRead i Reg.TB_TIME_LO (fun s => s.readTimeLo (latchKey i init)))

/-- The moment `sub` sixteenths of a nanosecond after the present Invar nanosecond, as a timestamp (R401). -/
def State.stamp (s : State) (sub : Nat) : Nat := (s.invar * 16 + sub % 16) % 2 ^ 48

/-- A time exchange ordered set leaves a group (R401). -/
def State.sendTx (s : State) (g typ seqNo a b : Nat) : State :=
  s.orderedSet g typ ([seqNo % 256, s.syncFlags] ++ leBytes 6 a ++ leBytes 6 b)

/-- A group in service sends a time exchange request (R287, R401). -/
def doExchangeTick (g sub : Nat) (s : State) : State :=
  if !s.inServiceGroup g then s
  else
    let n := s.sync.seq.get g
    let s := s.modSync (fun y => { y with seq := y.seq.set g ((n + 1) % 256), sent := y.sent.set g (some (n, s.stamp sub)) })
    s.sendTx g 0x2E n (s.stamp sub) 0

def execTimeExchangeTick (g sub : Nat) (s : State) : Host.Outcome State Fault Refusal :=
  answer s (g < 3 && sub < 16) (doExchangeTick g sub s)

/-- The far device's advertised hop count is noted (R288). -/
def State.noteFar (s : State) (g flags : Nat) : State :=
  s.modSync (fun y => { y with far := y.far.set g (flags % 16 + 1) })

/-- A request is answered at once with a response that carries its arrival time (R401). -/
def doTxq (g seqNo flags _t1 sub : Nat) (s : State) : State :=
  if !s.inServiceGroup g then s else (s.noteFar g flags).sendTx g 0x2F seqNo (s.stamp sub) (s.stamp sub)

def execTxqReceive (g seqNo flags t1 sub : Nat) (s : State) : Host.Outcome State Fault Refusal :=
  answer s (g < 3 && seqNo < 256 && flags < 256 && t1 < 2 ^ 48 && sub < 16) (doTxq g seqNo flags t1 sub s)

/-- The hop count that a group in service, or asleep in LP1 or LP2, offers as upstream: below 15 (R288, R403). -/
def State.offers (s : State) (g : Nat) : Option Nat :=
  let h := s.sync.far.get g
  if (s.inServiceGroup g || s.grpState g == 12 || s.grpState g == 13) && decide (0 < h) && decide (h < 16) then some (h - 1) else none

/-- The upstream of a follower (R288): the present one while it offers a count and no other group a smaller one; otherwise the
group with the smallest count, in the order L0, L1, T. -/
def State.pickUpstream (s : State) : Option Nat :=
  let best := [0, 1, 2].foldl (fun (a : Option (Nat × Nat)) g => match s.offers g, a with
    | some h, none => some (g, h)
    | some h, some b => if h < b.2 then some (g, h) else some b
    | none, a => a) none
  let cur := s.fld Reg.TB_SYNC_STATUS Fld.TB_SYNC_STATUS_UPSTREAM
  match if cur < 3 then s.offers cur else none, best with
  | some h, some b => if b.2 < h then some b.1 else some cur
  | _, b => b.map (·.1)

/-- Invar takes one step by an offset in quarters of a picosecond (R289). -/
def State.stepInvar (s : State) (off : Int) : State :=
  let t := (s.invar : Int) * 2 ^ 32 + s.sync.frac + off * 2 ^ 32 / 4000
  { s with invar := (t / 2 ^ 32 % 2 ^ 64).toNat }.modSync (fun y => { y with frac := (t % 2 ^ 32).toNat, skip := 0 })

/-- Invar counts one nanosecond of the device at its steered rate (R289). -/
def State.stepRate (s : State) : State :=
  let t := s.sync.rate + 2 ^ 32 + s.sync.frac
  let n := (t / 2 ^ 32).toNat
  { s with invar := (s.invar + n) % 2 ^ 64 }.modSync (fun y => { y with
    frac := (t % 2 ^ 32).toNat, skip := if n = 0 then y.skip else n - 1 })

/-- A follower steers by an offset in quarters of a picosecond (R289): the first exchange with an upstream sets Invar, an offset
above 1 µs later steps it, and a smaller one is corrected by rate alone. By how much the rate moves in the offset's direction is free. -/
def State.steer (s : State) (off : Int) : State :=
  let y := s.sync
  let reg := off / 250
  let fits := decide (-32768 ≤ reg) && decide (reg ≤ 32767)
  let s := if fits then s.setSync Fld.TB_SYNC_STATUS_OFFSET (unsigned 16 reg)
    else (s.setSync Fld.TB_SYNC_STATUS_OFFSET (Config.nat s.free)).draw
  let n := if off.natAbs < 4000 then min 64 (y.good + 1) else 0
  let s := s.modSync (fun y => { y with good := n, set := true })
  let s := if n = 64 then s.setSync Fld.TB_SYNC_STATUS_LOCKED 1 else s
  if !y.set then s.stepInvar off
  else if 4000000 < off.natAbs then
    ((s.stepInvar off).setFld Reg.TB_STATUS Fld.TB_STATUS_TIME_STEP 1).raiseError 48 0
  else if off = 0 then s
  else
    let d : Int := (Config.int s.free).natAbs
    s.draw.modSync (fun y => { y with rate := clampI (-(2 ^ 31)) (2 ^ 31) (if 0 < off then y.rate + d else y.rate - d) })

/-- A response ends an exchange (R287): the hop delay is measured, and the exchange with the upstream gives the offset. -/
def doTxr (g seqNo flags t3 t2 sub : Nat) (s : State) : State :=
  match s.sync.sent.get g with
  | none => s
  | some (n, t1) =>
    if !s.inServiceGroup g || n != seqNo then s
    else
      let s := (s.noteFar g flags).modSync (fun y => { y with sent := y.sent.set g none })
      let d (a b : Nat) : Int := signed 48 (unsigned 48 ((a : Int) - b))
      let hop := (d t2 t1 + d (s.stamp sub) t3) * 125 + 4 * signed 16 (s.fld (Reg.TB_HOPg_CFG g) Fld.TB_HOPg_CFG_ASYM)
      let s := s.setFld (Reg.TB_HOPg_CFG g) Fld.TB_HOPg_CFG_DELAY (unsigned 16 (hop / 250))
      if s.isRoot then s
      else match s.pickUpstream with
        | none => s
        | some up =>
          let s := ((s.setSync Fld.TB_SYNC_STATUS_UPSTREAM up).setSync Fld.TB_SYNC_STATUS_HOPS
            ((s.offers up).getD 14 + 1)).setSync Fld.TB_SYNC_STATUS_HOLDOVER 0
          if up = g then s.steer (d t2 t1 * 250 - hop) else s

def execTxrReceive (g seqNo flags t3 t2 sub : Nat) (s : State) : Host.Outcome State Fault Refusal :=
  answer s (g < 3 && seqNo < 256 && flags < 256 && t3 < 2 ^ 48 && t2 < 2 ^ 48 && sub < 16) (doTxr g seqNo flags t3 t2 sub s)

/-- A follower with no upstream enters holdover (R290). -/
def doHoldover (s : State) : State :=
  if s.isRoot || s.inBoot || s.pickUpstream.isSome || s.on Reg.TB_SYNC_STATUS Fld.TB_SYNC_STATUS_HOLDOVER then s
  else
    let s := (s.setSync Fld.TB_SYNC_STATUS_HOLDOVER 1).setSync Fld.TB_SYNC_STATUS_LOCKED 0
    let s := (s.setSync Fld.TB_SYNC_STATUS_UPSTREAM 3).setSync Fld.TB_SYNC_STATUS_HOPS 15
    (s.modSync (fun y => { y with good := 0 })).raiseError 48 0

def execHoldoverEnter (s : State) : Host.Outcome State Fault Refusal := answer s true (doHoldover s)

/-! ### Strobe generators (R293 to R299) -/

/-- A generator's state changed by `f`. -/
def State.modGen (s : State) (i : Nat) (f : GenSt → GenSt) : State := { s with gen := s.gen.modify i f }

/-- Fields of a generator. -/
def State.genSrc (s : State) (i : Nat) : Nat := s.fld (Reg.TB_STBi_CFG i) Fld.TB_STBi_CFG_SRC
def State.genIdx (s : State) (i : Nat) : Nat := s.fld (Reg.TB_STBi_CFG i) Fld.TB_STBi_CFG_SRC_IDX
def State.genPitch (s : State) (i : Nat) : Nat := s.fld (Reg.TB_STBi_PITCH i) Fld.TB_STBi_PITCH_PITCH
def State.genRuns (s : State) (i : Nat) : Bool := s.bit Reg.TB_STB_RUN i

/-- A running generator takes events unless a power state holds it (R528). -/
def State.genTakes (s : State) (i : Nat) : Bool := s.genRuns i && !bitB s.pwr.held i

/-- A generator's own part of an event (R294, R296): the phase counter advances, and the phase's bit starts a pulse DELAY later
unless the previous pulse has not ended then. The event has Invar time `t`. -/
def State.genPulse (s : State) (i t : Nat) : State :=
  let c := Reg.TB_STBi_CFG i
  let m := (s.gen.get i).phase
  let nph := s.fld c Fld.TB_STBi_CFG_NPH + 1
  let start := t + s.fld (Reg.TB_STBi_DELAY i) Fld.TB_STBi_DELAY_DELAY
  let stop := start + max 1 (s.fld (Reg.TB_STBi_WIDTH i) Fld.TB_STBi_WIDTH_WIDTH)
  let busy := (s.gen.get i).pulses.any (fun p => decide (start < p.2))
  let s := s.modGen i (fun g => { g with phase := (m + 1) % nph })
  if !bitB (s.fld c Fld.TB_STBi_CFG_PHMASK) m then s
  else if busy then (s.count Reg.TB_STB_OVR_CNT).setFld Reg.TB_STATUS Fld.TB_STATUS_STB_OVR 1
  else s.modGen i (fun g => { g with pulses := g.pulses ++ [(start, stop)] })

/-- Generator `i` gets an event (R293, R298): a running one with no stop pending takes it, and passes it to the running generators
chained to it, unless it is a CHAIN generator itself. The event has Invar time `t`. -/
def State.genEventAt (s : State) (i t : Nat) : State :=
  let live (s : State) (j : Nat) : Bool := s.genTakes j && !(s.gen.get j).stopDue
  if !live s i then s
  else
    let s := s.genPulse i t
    if s.genSrc i = 4 then s
    else (List.range 32).foldl (fun s j =>
      if s.genSrc j = 4 ∧ s.genIdx j = i ∧ live s j = true then s.genPulse j t else s) s

/-- Generator `i` gets an event now. -/
def State.genEvent (s : State) (i : Nat) : State := s.genEventAt i s.invar

/-- The interpolated position of an encoder in 1/64 count (R295). -/
def State.p64 (s : State) (k : Nat) : Int :=
  let v := signed 32 (s.reg (Reg.TB_ENCk_VEL k)).toNat
  let step : Nat := min 63 (64 * v.natAbs * (s.invar - (s.enc.get k).last) / 2 ^ 32)
  64 * signed 32 (s.encPos k) + (if v < 0 then -(step : Int) else step)

/-- The difference of two positions in 1/64 count, as the position wraps (R302). -/
def diff38 (a b : Int) : Int := signed 38 (unsigned 38 (a - b))

/-- The grid points of a running ENC generator retreat where the position has fallen far enough (R295). -/
def State.gridRetreat (s : State) (i : Nat) : State :=
  let p : Int := max 1 (s.genPitch i)
  let d := diff38 (s.gen.get i).grid (s.p64 (s.genIdx i))
  if s.genRuns i && s.genSrc i == 2 && decide (s.genIdx i < 2) && decide (2 * p ≤ d) then
    s.modGen i (fun g => { g with grid := g.grid - ((d - 2 * p) / p + 1) * p })
  else s

/-- An ENC generator whose next grid point is reached gets an event, and the grid point advances (R295). -/
def doStrobeEnc (i : Nat) (s : State) : State :=
  let s := s.gridRetreat i
  let k := s.genIdx i
  if s.genTakes i && s.genSrc i == 2 && decide (k < 2) && decide (0 ≤ diff38 (s.p64 k) (s.gen.get i).grid) then
    (s.modGen i (fun g => { g with grid := g.grid + (max 1 (s.genPitch i) : Nat) })).genEvent i
  else s

def execStrobeEncEvent (i : Nat) (s : State) : Host.Outcome State Fault Refusal := answer s (i < 32) (doStrobeEnc i s)

/-- A TIME generator gets one event at each multiple of its PITCH (R293), at one that Invar passes over as it counts too (R289). -/
def doStrobeTime (i : Nat) (s : State) : State :=
  let late := s.invar % max 16 (s.genPitch i)
  let t := s.invar - late
  if s.genSrc i = 3 ∧ late ≤ s.sync.skip ∧ (s.gen.get i).lastT ≠ some t ∧ s.genTakes i = true then
    (s.modGen i (fun g => { g with lastT := some t })).genEventAt i t
  else s

def execStrobeTimeEvent (i : Nat) (s : State) : Host.Outcome State Fault Refusal := answer s (i < 32) (doStrobeTime i s)

/-- The generators whose bits are 1 get one event each. -/
def State.genEvents (s : State) (mask : Nat) : State :=
  (List.range 32).foldl (fun s i => if bitB mask i then s.genEvent i else s) s

def execStbSw (i : Initiator) (data : Word) (s : State) : Host.Outcome State Fault Refusal :=
  answer s true (s.swWrite i Reg.TB_STB_SW data (fun s => s.genEvents data.toNat))

/-- The device drives STB_OUT[i] (R299): with DRIVE only the lead does, and no device does in boot state or the fault state. -/
def State.drivesStrobe (s : State) (i : Nat) : Bool :=
  (!s.on (Reg.TB_STBi_CFG i) Fld.TB_STBi_CFG_DRIVE || (s.on Reg.GLB_ROLE Fld.GLB_ROLE_LEAD && !s.sharedOff)) && !s.inBoot
    && !s.dark

/-- The pin shows the active state at the polarity that POL selects (R294). -/
def State.strobePin (s : State) (i : Nat) : State :=
  if s.drivesStrobe i then
    s.emit (.pin "STB_OUT" i (b2n ((s.gen.get i).high != s.on (Reg.TB_STBi_CFG i) Fld.TB_STBi_CFG_POL)))
  else s

/-- A decided pulse starts at its time (R294): the active edge that owes lines (R114). -/
def doPulseStart (i : Nat) (s : State) : State :=
  let g := s.gen.get i
  match g.pulses with
  | [] => s
  | p :: _ => if g.high || decide (s.invar < p.1) then s
    else ((s.modGen i (fun g => { g with high := true })).strobePin i).oweStrobe i

def execStrobePulseStart (i : Nat) (s : State) : Host.Outcome State Fault Refusal := answer s (i < 32) (doPulseStart i s)

/-- A pulse ends WIDTH after its start; a pending stop takes effect with the last one (R294, R298). -/
def doPulseEnd (i : Nat) (s : State) : State :=
  let g := s.gen.get i
  match g.pulses with
  | [] => s
  | p :: rest => if !g.high || decide (s.invar < p.2) then s
    else
      let done := g.stopDue && rest.isEmpty
      let s := (s.modGen i (fun g => { g with high := false, pulses := rest, stopDue := g.stopDue && !done })).strobePin i
      if done then s.putBit Reg.TB_STB_RUN i false else s

def execStrobePulseEnd (i : Nat) (s : State) : Host.Outcome State Fault Refusal := answer s (i < 32) (doPulseEnd i s)

/-- A generator starts with phase 0, and a stop that is pending is cancelled (R298); one that did not run sets its grid point
(R295). A stop in the same cycle has won. -/
def State.genStart (s : State) (i : Nat) : State :=
  if (s.gen.get i).stopAt = some s.now then s else
  let fresh := !s.genRuns i
  let s := s.setBit Reg.TB_STB_RUN i
  let k := s.genIdx i
  s.modGen i (fun g => { g with
    phase := 0
    stopDue := false
    grid := if fresh && s.genSrc i == 2 && decide (k < 2) then s.p64 k + (max 1 (s.genPitch i) : Nat) else g.grid })

/-- A generator stops once its decided pulses have ended (R298). -/
def State.genStop (s : State) (i : Nat) : State :=
  let s := s.modGen i (fun g => { g with stopAt := some s.now })
  if !s.genRuns i then s
  else if (s.gen.get i).pulses = [] then s.putBit Reg.TB_STB_RUN i false
  else s.modGen i (fun g => { g with stopDue := true })

/-- Generators start and stop in one cycle: the stop wins (R298). -/
def State.genSwitch (s : State) (start stop : Nat) : State :=
  (List.range 32).foldl (fun s i =>
    if bitB stop i then s.genStop i else if bitB start i then s.genStart i else s) s

def execStbStart (i : Initiator) (data stop : Word) (s : State) : Host.Outcome State Fault Refusal :=
  answer s true (s.swWrite i Reg.TB_STB_START data (fun s => s.genSwitch data.toNat stop.toNat))

def execStbStop (i : Initiator) (data : Word) (s : State) : Host.Outcome State Fault Refusal :=
  answer s true (s.swWrite i Reg.TB_STB_STOP data (fun s => s.genSwitch 0 data.toNat))

/-! ### Trigger inputs (R292) -/

/-- TB_PIN_LEVEL shows the filtered trigger levels. -/
def State.showTrig (s : State) : State :=
  s.setFld Reg.TB_PIN_LEVEL Fld.TB_PIN_LEVEL_TRIG ((List.range 16).foldl (fun a i => a + b2n (s.trig i) * 2 ^ i) 0)

/-- A segmenter takes a change of its inputs (R133, R134): under GAP the position at which presence or absence began, under TRIG
the position at an active edge. -/
def State.segTrig (s : State) (g i : Nat) (level : Bool) : State :=
  let c := Reg.ST_SEGs_CFG g
  let a := s.fld c Fld.ST_SEGs_CFG_IN_A
  let b := s.fld c Fld.ST_SEGs_CFG_IN_B
  let pos := s.segPos g
  match s.fld c Fld.ST_SEGs_CFG_SRC with
  | 0 =>
    if a ≠ i then s
    else if level then s.modSeg g (fun x => { x with presSince := some pos, absSince := none })
    else s.modSeg g (fun x => { x with absSince := some pos, presSince := none })
  | 1 =>
    if !level then s
    else
      let here := s.present g
      let s := if a = i ∧ here = false then s.modSeg g (fun x => { x with dueLead := some (x.dueLead.getD pos) }) else s
      if b = i ∧ here = true then s.modSeg g (fun x => { x with dueTrail := some (x.dueTrail.getD pos) }) else s
  | _ => s

/-- A segmenter under GAP whose input is already present when the image takes effect: its presence begins there (R133; DEDUCED,
notes/assumptions/44.md). -/
def State.segStart (s : State) : State :=
  (List.range 4).foldl (fun s g =>
    let c := Reg.ST_SEGs_CFG g
    if s.fld c Fld.ST_SEGs_CFG_SRC = 0 ∧ s.trig (s.fld c Fld.ST_SEGs_CFG_IN_A) = true then
      s.modSeg g (fun x => { x with presSince := some (s.segPos g) })
    else s) s

/-- The recipe code is captured at the active edge of its strobe input (R55). -/
def State.captureCode (s : State) (i : Nat) : State :=
  if s.fld Reg.GLB_RECIPE_CTRL Fld.GLB_RECIPE_CTRL_CODE_STROBE = i then
    let b := s.fld Reg.GLB_RECIPE_CTRL Fld.GLB_RECIPE_CTRL_CODE_BASE
    s.setFld Reg.GLB_RECIPE_STATUS Fld.GLB_RECIPE_STATUS_TRIG_CODE
      (b2n (s.trig b) + b2n (s.trig (b + 1)) * 2 + b2n (s.trig (b + 2)) * 4)
  else s

/-- The filtered level of a trigger input has changed: its users take it (R292). -/
def State.trigMoved (s : State) (i : Nat) : State :=
  let level := s.trig i
  let s := s.showTrig
  let s := (List.range 4).foldl (fun s g => s.segTrig g i level) s
  if level then
    let s := (List.range 32).foldl (fun s c =>
      if (s.dma.get c).trig = some i then s.modDma c (fun d => { d with trigSeen := true }) else s) s
    (List.range 32).foldl (fun s j => if s.genSrc j = 1 ∧ s.genIdx j = i then s.genEvent j else s) (s.captureCode i)
  else s

/-- The filtered level of TRIG_IN[i] takes the level at the pin (R292, R431). -/
def State.trigAccept (s : State) (i : Nat) : State :=
  let level := bitB s.filter.trig i
  if bitB s.trigLevel i = level then s
  else
    let old := s.wiresOut
    ({ s with trigLevel := withBit s.trigLevel i level }.trigMoved i).wiresFrom old

/-- The input filters changed by `f`. -/
def State.modFilter (s : State) (f : FilterSt → FilterSt) : State := { s with filter := f s.filter }

/-- The taps of the filter of an input (R292, R301). -/
def State.inputTaps (s : State) (j : Nat) : Nat :=
  if j < 16 then s.fld (Reg.TB_TRIGi_CFG j) Fld.TB_TRIGi_CFG_FILT else s.fld (Reg.TB_ENCk_CFG ((j - 16) / 2)) Fld.TB_ENCk_CFG_FILT

/-- TRIG_IN[i] changes at the pin: with FILT 0 the filtered level follows it, otherwise its samples decide (R292). -/
def doTrigChange (i : Nat) (level : Bool) (s : State) : State :=
  let s := s.modFilter (fun x => { x with trig := withBit x.trig i level })
  if s.inputTaps i = 0 then s.trigAccept i else s

def execTrigInChange (i : Nat) (level : Bool) (s : State) : Host.Outcome State Fault Refusal :=
  answer s (i < 16) (doTrigChange i level s)

/-! ### Encoders (R301 to R304) -/

/-- An encoder's state changed by `f`. -/
def State.modEnc (s : State) (k : Nat) (f : EncSt → EncSt) : State := { s with enc := s.enc.modify k f }

/-- The direction of a single transition from levels (a, b) to (a', b'), with DIR 0: none where MODE does not count it (R301). -/
def encDir (mode : Nat) (a b a' b' : Bool) : Option Int :=
  let onA := a != a'
  let fwdA := a' != b'
  match mode with
  | 1 => if onA then some (if fwdA then 1 else -1) else none
  | 2 => if onA && a' then some (if !b then 1 else -1) else none
  | _ => if onA then some (if fwdA then 1 else -1) else if b != b' then some (if a' == b' then 1 else -1) else none

/-- The grid points of the generators of encoder `k` follow its position. -/
def State.gridsFollow (s : State) (k : Nat) : State :=
  (List.range 32).foldl (fun s i => if s.genIdx i = k then s.gridRetreat i else s) s

/-- The velocity at a count (R303); a count in the same nanosecond as the window's oldest one leaves it free. -/
def State.encVelocity (s : State) (k : Nat) (hist : List (Nat × Nat)) : Int :=
  let n := 2 ^ s.fld (Reg.TB_ENCk_CFG k) Fld.TB_ENCk_CFG_VLOG2N
  match hist, (hist.take (n + 1)).getLast? with
  | new :: _ :: _, some old =>
    if new.2 = old.2 then clampI (-(2 ^ 31)) (2 ^ 31 - 1) (Config.int s.free)
    else clampI (-(2 ^ 31)) (2 ^ 31 - 1) (diff32 new.1 old.1 * 2 ^ 32 / ((new.2 : Int) - old.2))
  | _, _ => 0

/-- A HEAD device that leads sends its encoder over its L groups with a count, at most once per 256 ns (R304, R433): a count that comes
earlier is sent when they have passed. -/
def State.sendEnc (s : State) (k : Nat) : State :=
  let x := s.enc.get k
  if s.fld Reg.GLB_ROLE Fld.GLB_ROLE_ROLE ≠ 1 ∨ s.on Reg.GLB_ROLE Fld.GLB_ROLE_LEAD = false then s.modEnc k (fun e => { e with due := false })
  else if x.sentAt.all (fun t => decide (t + 256 ≤ s.now)) then
    let ws := [k, s.encPos k, (s.reg (Reg.TB_ENCk_VEL k)).toNat, x.last % 2 ^ 32, x.last / 2 ^ 32]
    ((s.modEnc k (fun e => { e with sentAt := some s.now, due := false })).sendMsg 0 6 2 ws).sendMsg 1 6 2 ws
  else s.modEnc k (fun e => { e with due := true })

/-- An encoder counts one step: position, velocity, STOPPED (R301 to R303). -/
def State.encCount (s : State) (k : Nat) (step : Int) : State :=
  let pos := unsigned 32 ((s.encPos k : Int) + step)
  let hist := ((pos, s.invar) :: (s.enc.get k).hist).take 129
  let v := s.encVelocity k hist
  let s := (s.setReg (Reg.TB_ENCk_POS k) (BitVec.ofNat 32 pos)).setReg (Reg.TB_ENCk_VEL k) (BitVec.ofNat 32 (unsigned 32 v))
  let s := (s.draw.modEnc k (fun e => { e with hist := hist, last := s.invar })).putBit Reg.TB_STATUS (14 + k) false
  (s.gridsFollow k).sendEnc k

/-- An encoder's inputs take new filtered levels (R301). -/
def State.encTake (s : State) (k : Nat) (a b : Bool) : State :=
  let oldA := s.bit Reg.TB_PIN_LEVEL (16 + 2 * k)
  let oldB := s.bit Reg.TB_PIN_LEVEL (17 + 2 * k)
  let s := (s.putBit Reg.TB_PIN_LEVEL (16 + 2 * k) a).putBit Reg.TB_PIN_LEVEL (17 + 2 * k) b
  let c := Reg.TB_ENCk_CFG k
  if s.on c Fld.TB_ENCk_CFG_SRC then s
  else if oldA ≠ a ∧ oldB ≠ b then (s.count (Reg.TB_ENCk_ERR_CNT k)).setBit Reg.TB_STATUS (10 + k)
  else match encDir (s.fld c Fld.TB_ENCk_CFG_MODE) oldA oldB a b with
    | none => s
    | some d => s.encCount k (if s.on c Fld.TB_ENCk_CFG_DIR then -d else d)

/-- The pins of an encoder change: with FILT 0 the filtered levels follow them, otherwise their samples decide (R292, R301). -/
def doEncTransition (k : Nat) (a b : Bool) (s : State) : State :=
  let s := s.modFilter (fun x => { x with enc := withBit (withBit x.enc (2 * k) a) (2 * k + 1) b })
  if s.inputTaps (16 + 2 * k) = 0 then s.encTake k a b else s

/-- The level at the pin of an input, and its filtered level before POL. -/
def State.inputRaw (s : State) (j : Nat) : Bool := if j < 16 then bitB s.filter.trig j else bitB s.filter.enc (j - 16)
def State.inputLevel (s : State) (j : Nat) : Bool := if j < 16 then bitB s.trigLevel j else s.bit Reg.TB_PIN_LEVEL j

/-- The filters of the inputs listed accept the levels at their pins; the two inputs of an encoder in one sample (R292, R301). -/
def State.inputsAccept (s : State) (js : List Nat) : State :=
  let s := js.foldl (fun s j => if j < 16 then s.trigAccept j else s) s
  [0, 1].foldl (fun s k =>
    let a := 16 + 2 * k
    let level (j : Nat) : Bool := if js.contains j then s.inputRaw j else s.inputLevel j
    if js.contains a || js.contains (a + 1) then s.encTake k (level a) (level (a + 1)) else s) s

/-- One sample of every filtered input (R292): an input whose last FILT samples all show another level than its filtered one takes it. -/
def State.sampleInputs (s : State) : State :=
  let moving := (List.range 20).filter (fun j => s.inputRaw j != s.inputLevel j)
  if moving = [] ∧ s.filter.run = [] then s
  else
    let seen (j : Nat) : Nat := s.filter.run.get j + 1
    let done := moving.filter (fun j => decide (s.inputTaps j ≤ seen j))
    let run := moving.foldl (fun t j => if done.contains j then t else Table.set t j (seen j)) []
    (s.modFilter (fun x => { x with run := run })).inputsAccept done

/-- Inputs whose filter is bypassed now and was not in the state `old` follow their pins (R292); the users of a trigger input take the change in
`State.follow`. -/
def State.bypass (s old : State) : State :=
  let open_ := (List.range 20).filter (fun j => s.inputTaps j == 0 && old.inputTaps j != 0 && s.inputRaw j != s.inputLevel j)
  if open_ = [] then s
  else
    let lv := (open_.filter (fun j => decide (j < 16))).foldl (fun l j => withBit l j (s.inputRaw j)) s.trigLevel
    { s with trigLevel := lv }.inputsAccept (open_.filter (fun j => decide (16 ≤ j)))

def execEncTransition (k : Nat) (a b : Bool) (s : State) : Host.Outcome State Fault Refusal :=
  answer s (k < 2) (doEncTransition k a b s)

/-- No count for STOP_US microseconds: velocity 0 and STOPPED, and the window of counts begins anew (R303). -/
def doEncStopped (k : Nat) (s : State) : State :=
  let limit := 1000 * max 1 (s.fld (Reg.TB_ENCk_CFG k) Fld.TB_ENCk_CFG_STOP_US)
  if s.on (Reg.TB_ENCk_CFG k) Fld.TB_ENCk_CFG_SRC || s.bit Reg.TB_STATUS (14 + k)
      || decide (s.invar < (s.enc.get k).last + limit) then s
  else (((s.setReg (Reg.TB_ENCk_VEL k) 0).setBit Reg.TB_STATUS (14 + k)).modEnc k (fun e => { e with hist := [] })).gridsFollow k

def execEncStopped (k : Nat) (s : State) : Host.Outcome State Fault Refusal := answer s (k < 2) (doEncStopped k s)

/-- A remote encoder takes the position and velocity of an ENC message from the head lead (R304). -/
def doEncRemote (g : Nat) (s : State) : State :=
  match s.takeRx g 6 2 with
  | (s, none) => s
  | (s, some p) =>
    let w (i : Nat) : Nat := p.payload.getD i 0
    let k := w 0 % 2
    if s.on (Reg.TB_ENCk_CFG k) Fld.TB_ENCk_CFG_SRC && s.facesHeadLead g then
      let s := (s.setReg (Reg.TB_ENCk_POS k) (BitVec.ofNat 32 (w 1))).setReg (Reg.TB_ENCk_VEL k) (BitVec.ofNat 32 (w 2))
      (s.modEnc k (fun e => { e with last := w 3 + w 4 * 2 ^ 32 })).gridsFollow k
    else s

def execEncRemoteReceive (g : Nat) (s : State) : Host.Outcome State Fault Refusal := answer s (g < 3) (doEncRemote g s)

/-! ### Scheduled actions (R305 to R308) -/

/-- The state of a slot (R306), and a slot put in a state. -/
def State.slotState (s : State) (k : Nat) : Nat := s.fld (Reg.TB_SCHEDk_CTRL k) Fld.TB_SCHEDk_CTRL_STATE
def State.setSlot (s : State) (k st : Nat) : State := s.setFld (Reg.TB_SCHEDk_CTRL k) Fld.TB_SCHEDk_CTRL_STATE st

/-- A slot is armed with its contents, or missed when its time is less than `margin` ns away (R306). -/
def State.armSlot (s : State) (k margin : Nat) (c : SlotSt) (remote : Bool) : State :=
  let s := { s with slot := s.slot.set k c }.setFld (Reg.TB_SCHEDk_CTRL k) Fld.TB_SCHEDk_CTRL_REMOTE (b2n remote)
  if s.invar + margin ≤ c.time then s.setSlot k 1
  else ((s.setSlot k 3).count Reg.TB_SCHED_MISS_CNT).setFld Reg.TB_STATUS Fld.TB_STATUS_SCHED_MISS 1

/-- The slot is armed and its time has come. -/
def State.slotDue (s : State) (k : Nat) : Bool := s.slotState k == 1 && decide ((s.slot.get k).time ≤ s.invar)

/-- A broadcast's words go out on every group in service but the one it came on; its identifier is kept (R307, R433). -/
def State.forwardBcast (s : State) (came : Option Nat) (words : List Nat) : State :=
  let s := s.modSync (fun y => { y with bcastSeen := (words.getD 0 0 :: y.bcastSeen).take 16 })
  [0, 1, 2].foldl (fun s g => if some g ≠ came ∧ s.inServiceGroup g = true then s.sendMsg g 6 4 words else s) s

/-- The device originates a broadcast. Its identifier holds role, TWIN_ID and a sequence number (R433). -/
def State.sendBcast (s : State) (words : List Nat) : State :=
  let id := s.fld Reg.GLB_ROLE Fld.GLB_ROLE_ROLE + s.twinId * 4
    + s.sync.bcastSeq % 2 ^ 16 * 2 ^ 16
  (s.modSync (fun y => { y with bcastSeq := (y.bcastSeq + 1) % 2 ^ 16 })).forwardBcast none (id :: words)

/-- A CTRL write with ARM (R306, R307): a following device arms from the mirror, by the rule for a remote arming; SCOPE 1 on
another device is broadcast. -/
def State.ctrlArm (s : State) (k : Nat) (data : Word) : State :=
  let s := s.plainWrite (Reg.TB_SCHEDk_CTRL k) data 0
  let c : SlotSt := ⟨(s.reg (Reg.TB_SCHEDk_TIME_LO k)).toNat + (s.reg (Reg.TB_SCHEDk_TIME_HI k)).toNat * 2 ^ 32,
    s.fld (Reg.TB_SCHEDk_CTRL k) Fld.TB_SCHEDk_CTRL_ACTION, (s.reg (Reg.TB_SCHEDk_ARG k)).toNat⟩
  let s := s.armSlot k (if s.follows then 1 else 2000) c false
  if s.on (Reg.TB_SCHEDk_CTRL k) Fld.TB_SCHEDk_CTRL_SCOPE && !s.follows then
    s.sendBcast [k + c.action * 16, c.time % 2 ^ 32, c.time / 2 ^ 32, c.arg]
  else s

end Sys2Proof.Machine
end

