-- ==== Sys2Proof/Machine/Dma.lean ====
section
/-! DEFINITION. The Dovecote DMA engine (spec/13): channel states, programs and their instructions, host reads, the completion record,
channels in a twin pair. -/

namespace Sys2Proof.Machine

/-! ### A channel's state (R330, R348) -/

/-- A mirrored channel, and one that runs in shadow mode: it issues nothing (R349). -/
def State.dmaMirrored (s : State) (c : Nat) : Bool := s.on (Reg.DMA_CHn_BIND c) Fld.DMA_CHn_BIND_TWIN
def State.dmaQuiet (s : State) (c : Nat) : Bool := s.shadowLike && s.dmaMirrored c

/-- A field of DMA_CHn_STATUS takes a value. -/
def State.setCh (s : State) (c : Nat) (f : Fld) (v : Nat) : State := s.setFld (Reg.DMA_CHn_STATUS c) f v

/-- A channel enters a state; DMA_CH_ACTIVE and DMA_CH_FAULT follow. -/
def State.setDma (s : State) (c st : Nat) : State :=
  ((s.setCh c Fld.DMA_CHn_STATUS_STATE st).putBit Reg.DMA_CH_ACTIVE c (st == 1 || st == 2)).putBit Reg.DMA_CH_FAULT c (st == 5)

/-- A write to the channel's HOST space (R329); in shadow mode none is issued. -/
def State.dmaHost (s : State) (c addr : Nat) (bytes : List Nat) : State :=
  if s.dmaQuiet c then s else s.emit (.hostWrite (s.dmaOwner c) (addr % 2 ^ 64) bytes)

/-- The 32-byte completion record of a state entered at an Invar time (R348). -/
def State.cplRecord (s : State) (c entered : Nat) : List Nat :=
  let d := s.dma.get c
  leBytes 4 (s.dmaState c + c * 2 ^ 5 + s.fld (Reg.DMA_CHn_STATUS c) Fld.DMA_CHn_STATUS_ERR * 2 ^ 16)
    ++ leBytes 4 (d.pc % 64) ++ leBytes 4 d.moved ++ leBytes 4 (s.reg (Reg.DMA_CHn_LAST_DOC c)).toNat
    ++ leBytes 4 d.lastLine ++ leBytes 4 (s.reg (Reg.DMA_CHn_RING_CURSOR c)).toNat ++ leBytes 8 entered

/-- The position of a lead's channel waits for the data link layer's acknowledgement (R350). -/
def State.dmaUnack (s : State) (c : Nat) : State :=
  if s.leadsPair && s.dmaMirrored c then
    s.modDma c (fun d => { d with unack := d.unack ++ [(d.retired, d.moved, d.stats, (s.reg (Reg.DMA_CHn_LAST_DOC c)).toNat)] })
  else s

/-- The address of the completion record (R348). -/
def State.cplAddr (s : State) (c : Nat) : Nat :=
  (s.reg (Reg.DMA_CHn_CPL_LO c)).toNat / 32 * 32 + (s.reg (Reg.DMA_CHn_CPL_HI c)).toNat * 2 ^ 32

/-- The completion record is written where it is enabled: to the owner's HOST space, or to frame memory for a channel of the
management cores, and not beyond its end (R348). In shadow mode it is held until a report covers it (R350, R352). -/
def State.writeCpl (s : State) (c : Nat) : State :=
  let addr := s.cplAddr c
  if (s.reg (Reg.DMA_CHn_CPL_LO c)).toNat % 2 = 0 then s
  else if s.dmaOwner c = 3 then (if addr + 32 ≤ s.fmEnd then s.fmPut addr (s.cplRecord c s.invar) else s)
  else if s.dmaQuiet c then s.modDma c (fun d => { d with cplDue := some s.invar })
  else (s.dmaHost c addr (s.cplRecord c s.invar)).dmaUnack c

/-- The tags of a channel's reads are given up: their completions are still owed, and count in GLB_PCIE_DISC_CPL_CNT where
`counted` (R331, R372). Such a read is issued again from its first byte not yet written to the destination (R372). -/
def State.owe_ (s : State) (c : Nat) (counted : Bool) : State :=
  let l := (s.dma.get c).reads.filterMap (fun (r : DmaRead) =>
    r.tag.map (fun t => (t, s.dmaOwner c, r.len - r.got.length, counted, r.since)))
  { s with pcie := { s.pcie with owed := s.pcie.owed ++ l } }.modDma c (fun d => { d with
    reads := d.reads.map (fun (r : DmaRead) => if r.tag.isSome then { r with tag := none, got := r.got.take r.wrote } else r) })

/-- What the output stream of a channel holds goes on, and its statistics drain (R333, R336). -/
def State.dmaStream (s : State) (c : Nat) : State :=
  if s.on (Reg.DMA_CHn_BIND c) Fld.DMA_CHn_BIND_OS_EN then
    let n := s.fld (Reg.DMA_CHn_BIND c) Fld.DMA_CHn_BIND_OS
    (s.osRelease n).drainStats n
  else s

/-- A channel enters FAULT (R331, R347). -/
def State.dmaFault (s : State) (c err : Nat) : State :=
  let s := (s.owe_ c false).modDma c (fun d => { d with reads := [], loading := false, trig := none })
  let s := ((s.setCh c Fld.DMA_CHn_STATUS_ERR err).setDma c 5).setCh c Fld.DMA_CHn_STATUS_FAULTED 1
  (s.writeCpl c).dmaStream c

/-- A channel enters HALTED (R331). -/
def State.dmaHalted (s : State) (c : Nat) : State :=
  let s := (s.modDma c (fun d => { d with haltDue := false })).setDma c 3
  (s.setCh c Fld.DMA_CHn_STATUS_HALT_EV 1).writeCpl c

/-! ### Instructions (R338, R339, R344) -/

/-- Word `i` of the present instruction, and its opcode. -/
def State.dmaWord (s : State) (c i : Nat) : Nat := (s.dma.get c).prog.getD (8 * (s.dma.get c).pc + i) 0
def State.dmaOp (s : State) (c : Nat) : Nat := s.dmaWord c 0 % 256
def State.dmaBits (s : State) (c lo w : Nat) : Nat := s.dmaWord c 0 / 2 ^ lo % 2 ^ w
def State.dmaLen (s : State) (c : Nat) : Nat := (s.dma.get c).prog.length / 8

/-- An instruction with an opcode or a field value that R339 to R346 do not give. -/
def badInstr (w : Nat) : Bool :=
  let f (lo k : Nat) : Nat := w / 2 ^ lo % 2 ^ k
  match w % 256 with
  | 1 => decide (3 < f 8 3) || decide (2 < f 11 3) || f 14 2 == 3
  | 2 => f 8 6 == 0
  | 3 => decide (4 < f 8 3)
  | 4 => decide (3 < f 12 3)
  | 5 => false
  | _ => true

/-- The channel stands at an instruction: one past the program's end, or one that is invalid, is a fault (R339). -/
def State.dmaFetch (s : State) (c pc : Nat) : State :=
  let s := (s.modDma c (fun d => { d with
    pc := pc, off := 0, done := 0, idx := 0, doc := none, waiting := false, trig := none, trigSeen := false })).setReg
      (Reg.DMA_CHn_PC c) (BitVec.ofNat 32 (pc % 64))
  if s.dmaLen c ≤ pc ∨ badInstr (s.dmaWord c 0) = true then s.dmaFault c 1 else s

/-- Where execution goes on after the instruction before `pc`: a body that ends starts its next iteration, or is left (R344). -/
def loopNext : Nat → List DmaLoop → Nat → List DmaLoop × Nat
  | 0, l, pc => (l, pc)
  | _ + 1, [], pc => ([], pc)
  | fuel + 1, l :: rest, pc =>
    if pc ≠ l.last then (l :: rest, pc)
    else if l.count ≠ 0 ∧ l.count ≤ l.iter + 1 then loopNext fuel rest pc
    else ({ l with iter := l.iter + 1 } :: rest, l.first)

/-- A progress report (R350): instructions retired, items, statistics records, and the document of the last item. -/
def State.dmaReport (s : State) (c : Nat) (p : Nat × Nat × Nat × Nat) : State :=
  if s.leadsPair && s.dmaMirrored c then s.toPartner 4 [1 + c * 16, p.1, p.2.1, p.2.2.1, p.2.2.2] else s

/-- The present instruction retires. -/
def State.dmaRetire (s : State) (c : Nat) : State :=
  let d := s.dma.get c
  let op := s.dmaOp c
  let n := loopNext 5 d.loops (d.pc + 1)
  let s := s.modDma c (fun d => { d with retired := d.retired + 1, loops := n.1 })
  let d := s.dma.get c
  let s := if op = 3 ∨ op = 4 then s.dmaReport c (d.retired, d.moved, d.stats, (s.reg (Reg.DMA_CHn_LAST_DOC c)).toNat) else s
  let s := s.dmaFetch c n.2
  if s.dmaState c = 5 then s
  else if d.haltDue then s.dmaHalted c
  else s

/-! ### Host reads (R334, R355) -/

/-- The free tag that a function's next read takes (R355, R356). -/
def State.freeTag (s : State) (f : Nat) : Option Nat :=
  let n := if bitB (s.cfgReg f 0x78).toNat 12 then 512 else 256
  let used := (List.range 32).flatMap (fun c => (s.dma.get c).reads.filterMap (·.tag))
    ++ s.pcie.owed.map (·.1) ++ s.pcie.quar.map (·.1)
  (List.range n).find? (fun t => !used.contains t)

/-- A function's Maximum Read Request Size (R355). -/
def State.maxRead (s : State) (f : Nat) : Nat := min 4096 (128 * 2 ^ ((s.cfgReg f 0x58).toNat / 2 ^ 12 % 8))

/-- Reads of a channel that have no request outstanding are issued, from the first byte not received (R372). -/
def State.issueReads (s : State) (c : Nat) : State :=
  if !s.dmaCan c || s.dmaState c != 1 || s.dmaQuiet c then s
  else
    (List.range (s.dma.get c).reads.length).foldl (fun s i =>
      match (s.dma.get c).reads[i]?, s.freeTag (s.dmaOwner c) with
      | some r, some t =>
        if r.tag.isNone && decide (r.got.length < r.len) then
          (s.modDma c (fun d => { d with reads := d.reads.set i { r with tag := some t, since := s.now } })).emit
            (.hostRead (s.dmaOwner c) t ((r.addr + r.got.length) % 2 ^ 64) (r.len - r.got.length))
        else s
      | _, _ => s) s

/-- The pieces of a host read: none crosses a 4 KiB boundary or exceeds the Maximum Read Request Size. -/
def readPieces (mrrs addr len : Nat) : Nat → Nat → List (Nat × Nat)
  | 0, _ => []
  | fuel + 1, off =>
    if len ≤ off then []
    else
      let k := min (min mrrs (len - off)) (4096 - (addr + off) % 4096)
      (off, k) :: readPieces mrrs addr len fuel (off + k)

/-! ### Loading a program (R331, R338, R349) -/

/-- The program's address and length in bytes. -/
def State.progAddr (s : State) (c : Nat) : Nat :=
  (s.reg (Reg.DMA_CHn_PROG_LO c)).toNat / 32 * 32 + (s.reg (Reg.DMA_CHn_PROG_HI c)).toNat * 2 ^ 32
def State.progBytes (s : State) (c : Nat) : Nat :=
  32 * max 1 (min 64 (s.fld (Reg.DMA_CHn_PROG_CFG c) Fld.DMA_CHn_PROG_CFG_LEN))

/-- The program is in the channel's store; the lead sends it to the shadow (R349, R350). -/
def State.installProg (s : State) (c : Nat) (words : List Nat) : State :=
  let s := if s.leadsPair && s.dmaMirrored c then s.toPartner 4 (c * 16 :: words) else s
  let s := s.modDma c (fun d => { d with prog := words, progIn := none, loading := false, reads := [] })
  let s := s.dmaFetch c 0
  if s.dmaState c = 5 then s else if (s.dma.get c).haltDue then s.dmaHalted c else s

/-- After START, an item already queued of a document that lost one is discarded (R333). -/
def State.dropPartial (s : State) (c : Nat) : State :=
  if s.on (Reg.DMA_CHn_BIND c) Fld.DMA_CHn_BIND_OS_EN then
    let n := s.fld (Reg.DMA_CHn_BIND c) Fld.DMA_CHn_BIND_OS
    let gone := s.dmaDisc.get c
    let x := s.os.get n
    let lost (l : List OsItem) : List OsItem := l.filter (fun it => gone.contains it.doc)
    let kept (l : List OsItem) : List OsItem := l.filter (fun it => !gone.contains it.doc)
    (s.countN (Reg.DMA_CHn_DISC_CNT c) (lost x.buffered).length).modOs n (fun x => { x with
      lineQ := kept x.lineQ, statsQ := kept x.statsQ, docQ := kept x.docQ })
  else s

/-- START on an idle channel (R331, R338, R351): the program load begins. With the owner's Bus Master Enable clear the channel
enters HALTED_BME (R331); a lead-only channel does not run on a device that is not the lead, and
no channel on a HEAD, whose Dovecote is off (R26, notes/assumptions/119.md). -/
def State.dmaStart (s : State) (c : Nat) : State :=
  if s.shadowLike && !s.dmaMirrored c || s.fld Reg.GLB_ROLE Fld.GLB_ROLE_ROLE == 1 then s
  else
    let s := s.modDma c (fun d => { (default : DmaSt) with
      loading := true, progIn := d.progIn, follow := if d.progIn.isSome then d.follow else none, followDoc := d.followDoc })
    let s := ((s.setReg (Reg.DMA_CHn_RING_CURSOR c) 0).setReg (Reg.DMA_CHn_PC c) 0).dropPartial c
    let host := !s.on (Reg.DMA_CHn_PROG_CFG c) Fld.DMA_CHn_PROG_CFG_SPACE
    if s.dmaQuiet c then
      let s := s.setDma c 1
      match (s.dma.get c).progIn with
      | some w => s.installProg c w
      | none => s
    else if host && s.dmaOwner c == 3 then (s.setDma c 1).dmaFault c 7
    else if !host && decide (s.fmEnd < s.progAddr c + s.progBytes c) then (s.setDma c 1).dmaFault c 10
    else
      let ps := if host then readPieces (s.maxRead (s.dmaOwner c)) (s.progAddr c) (s.progBytes c) 64 0 else []
      let s := s.modDma c (fun d => { d with
        reads := ps.map (fun p => ⟨none, s.progAddr c + p.1, p.1, p.2, [], 0, true, 0⟩) })
      if s.dmaCan c then ((s.setDma c 1).issueReads c).dmaStream c
      else ((s.setDma c 4).setCh c Fld.DMA_CHn_STATUS_HALT_EV 1).dmaStream c

/-- The program load ends (R338). -/
def doProgramLoaded (c : Nat) (s : State) : State :=
  let d := s.dma.get c
  if !d.loading || s.dmaState c != 1 || s.dmaQuiet c then s
  else if s.on (Reg.DMA_CHn_PROG_CFG c) Fld.DMA_CHn_PROG_CFG_SPACE then
    let r := s.fmGet (s.progAddr c) (s.progBytes c)
    if r.2.2 then r.1.dmaFault c 6 else r.1.installProg c (wordsOf r.2.1)
  else if d.reads.all (fun (r : DmaRead) => r.got.length == r.len) then
    s.installProg c (wordsOf (d.reads.flatMap (fun (r : DmaRead) => r.got)))
  else s.issueReads c

def execDmaProgramLoaded (c : Nat) (s : State) : Host.Outcome State Fault Refusal := answer s (c < 32) (doProgramLoaded c s)

/-! ### Commands (R331, R332) -/

/-- A command without a row for the channel's state is ignored. -/
def State.cmdIgnored (s : State) (c : Nat) : State := s.setCh c Fld.DMA_CHn_STATUS_CMD_IGN 1

/-- The increments of the enclosing loops (R344). -/
def DmaSt.srcInc (d : DmaSt) : Int := sumI (d.loops.map (fun l => (l.iter : Int) * l.srcInc))
def DmaSt.dstInc (d : DmaSt) : Int := sumI (d.loops.map (fun l => (l.iter : Int) * l.dstInc))

/-- The source address of the present MOVE in this iteration. -/
def State.mvSrcAddr (s : State) (c : Nat) : Nat :=
  unsigned 64 ((s.dmaWord c 2 + s.dmaWord c 3 * 2 ^ 32 : Nat) + (s.dma.get c).srcInc)

/-- The channel is inside a byte move away from a 4 KiB boundary, or still loads its program. -/
def State.dmaMidway (s : State) (c : Nat) : Bool :=
  let d := s.dma.get c
  d.loading || !d.reads.isEmpty || (s.dmaOp c == 1 && s.dmaBits c 14 2 == 0 && (s.mvSrcAddr c + d.off) % 4096 != 0 && d.off != 0)

/-- HALT, at the next item boundary or 4 KiB boundary. -/
def State.dmaHalt (s : State) (c : Nat) : State :=
  let st := s.dmaState c
  if st ≠ 1 ∧ st ≠ 2 then s.cmdIgnored c
  else if st = 1 ∧ s.dmaMidway c = true then s.modDma c (fun d => { d with haltDue := true })
  else s.dmaHalted c

/-- RESUME: the channel goes on exactly where it stopped. -/
def State.dmaResume (s : State) (c : Nat) : State :=
  let st := s.dmaState c
  if st = 3 ∨ (st = 4 ∧ s.dmaCan c = true) then
    (((s.modDma c (fun d => { d with haltDue := false, cplDue := none })).setDma c 1).issueReads c).dmaStream c
  else s.cmdIgnored c

/-- The channel enters IDLE without END: its program is abandoned. -/
def State.dmaAbandon (s : State) (c : Nat) (counted : Bool) : State :=
  ((s.owe_ c counted).modDma c (fun _ => default)).setDma c 0

/-- STOP wins over every other command. -/
def State.dmaStop (s : State) (c : Nat) : State := (s.dmaAbandon c false).dmaStream c

/-- A write of DMA_CHn_CTRL (R331, R332). Its commands meet in one cycle: each is judged by the state before the write. -/
def State.dmaCtrl (s : State) (c : Nat) (data : Word) : State :=
  let b := data.toNat
  if bitB b 3 then s.dmaStop c
  else
    let st := s.dmaState c
    let s := if bitB b 0 then (if st = 0 then s.dmaStart c else s.cmdIgnored c) else s
    let s := if bitB b 2 then (if st = 3 ∨ st = 4 then s.dmaResume c else s.cmdIgnored c) else s
    if bitB b 1 then (if st = 1 ∨ st = 2 then s.dmaHalt c else s.cmdIgnored c) else s

def execDmaStart (i : Initiator) (c : Nat) (data : Word) (s : State) : Host.Outcome State Fault Refusal :=
  answer s (c < 32) (s.swWrite i (Reg.DMA_CHn_CTRL c) data (fun s => s.dmaCtrl c data))

def execDmaHalt (i : Initiator) (c : Nat) (data : Word) (s : State) : Host.Outcome State Fault Refusal :=
  answer s (c < 32) (s.swWrite i (Reg.DMA_CHn_CTRL c) data (fun s => s.dmaCtrl c data))

def execDmaResume (i : Initiator) (c : Nat) (data : Word) (s : State) : Host.Outcome State Fault Refusal :=
  answer s (c < 32) (s.swWrite i (Reg.DMA_CHn_CTRL c) data (fun s => s.dmaCtrl c data))

def execDmaStop (i : Initiator) (c : Nat) (data : Word) (s : State) : Host.Outcome State Fault Refusal :=
  answer s (c < 32) (s.swWrite i (Reg.DMA_CHn_CTRL c) data (fun s => s.dmaCtrl c data))

/-- A semaphore gains an amount, up to 0xFFFF (R343). -/
def State.semAdd (s : State) (c n : Nat) : State :=
  s.setReg (Reg.DMA_CHn_SEM c) (BitVec.ofNat 32 (min 0xFFFF ((s.reg (Reg.DMA_CHn_SEM c)).toNat + n)))

def State.semSub (s : State) (c n : Nat) : State :=
  s.setReg (Reg.DMA_CHn_SEM c) (BitVec.ofNat 32 ((s.reg (Reg.DMA_CHn_SEM c)).toNat - n))

def execDmaSemAdd (i : Initiator) (c : Nat) (data : Word) (s : State) : Host.Outcome State Fault Refusal :=
  answer s (c < 32) (s.swWrite i (Reg.DMA_CHn_SEM_ADD c) data (fun s => s.semAdd c (data.toNat % 2 ^ 16)))

/-- The owner's requests stop (R331, R372, R376): its channels enter HALTED_BME, and completions owed are discarded. -/
def State.haltOwned (s : State) (f : Nat) : State :=
  (List.range 32).foldl (fun s c =>
    let st := s.dmaState c
    if s.dmaOwner c = f ∧ (st = 1 ∨ st = 2 ∨ st = 3) ∧ s.dmaQuiet c = false then
      ((s.owe_ c true).setDma c 4).setCh c Fld.DMA_CHn_STATUS_HALT_EV 1
    else s) s

/-! ### MOVE (R340 to R343) -/

/-- SRC, DST, MODE and LENGTH of the present MOVE, and its destination in this iteration. -/
def State.mvSrc (s : State) (c : Nat) : Nat := s.dmaBits c 8 3
def State.mvDst (s : State) (c : Nat) : Nat := s.dmaBits c 11 3
def State.mvMode (s : State) (c : Nat) : Nat := s.dmaBits c 14 2
def State.mvLen (s : State) (c : Nat) : Nat := s.dmaWord c 1
def State.mvDstAddr (s : State) (c : Nat) : Nat :=
  unsigned 64 ((s.dmaWord c 4 + s.dmaWord c 5 * 2 ^ 32 : Nat) + (s.dma.get c).dstInc)

/-- Why the present MOVE may not run, as an ERR code (R329, R340 to R343, R347, R351). -/
def State.mvErr (s : State) (c : Nat) : Option Nat :=
  let src := s.mvSrc c
  let dst := s.mvDst c
  let mode := s.mvMode c
  let mgt := s.dmaOwner c == 3
  let len := s.mvLen c
  let off8 := len % 8 != 0 || s.mvDstAddr c % 8 != 0
  if src = 0 ∧ s.dmaMirrored c = true then some 9
  else if mode = 0 then
    if 1 < src ∨ 1 < dst ∨ (mgt = true ∧ (src = 0 ∨ dst = 0)) then some 7
    else if off8 || s.mvSrcAddr c % 8 != 0 then some 3
    else if (src = 1 ∧ s.fmEnd < s.mvSrcAddr c + len) ∨ (dst = 1 ∧ s.fmEnd < s.mvDstAddr c + len) then some 10
    else none
  else if src < 2 ∨ (mode = 2 ∧ src ≠ 2) ∨ s.on (Reg.DMA_CHn_BIND c) Fld.DMA_CHn_BIND_OS_EN = false
      ∨ (mgt = true ∧ dst ≠ 1)
      ∨ (dst = 2 ∧ s.fld (Reg.DMA_CHn_RING_CFG c) Fld.DMA_CHn_RING_CFG_NSLOT = 0) then some 7
  else if dst ≠ 2 ∧ off8 = true then some 3
  else none

/-- A check of the buffer words that a move reads (R337): whether the channel may go on. -/
def State.bufCheck (s : State) (c : Nat) : Ecc → State × Bool
  | .ok => (s, true)
  | .corrected n => (((s.countN Reg.DMA_BUF_CORR_CNT n).setFld Reg.DMA_STATUS Fld.DMA_STATUS_BUF_CORR 1).raiseCorrs 40 0 n, true)
  | .uncorr _ => ((((s.count Reg.DMA_BUF_UNCORR_CNT).setFld Reg.DMA_STATUS Fld.DMA_STATUS_BUF_UNCORR 1).raiseError 40 0).dmaFault
      c 11, false)

/-- The state after a write of moved bytes to a place in the destination space. -/
def State.mvWrite (s : State) (c addr : Nat) (bytes : List Nat) : State :=
  if bytes = [] then s else if s.mvDst c = 1 then s.fmPut addr bytes else s.dmaHost c addr bytes

/-- Bytes of frame memory up to the next 4 KiB boundary of the source; an uncorrectable or poison block ends the copy before its
bytes (R340, R347). -/
def State.gather (c : Nat) : Nat → State → Nat → Nat → List Nat → State × List Nat × Bool
  | 0, s, _, _, acc => (s, acc, false)
  | fuel + 1, s, a, n, acc =>
    if n = 0 then (s, acc, false)
    else
      let k := min n (64 - a % 64)
      let r := s.fmGet a k
      if r.2.2 then (r.1, acc, true) else State.gather c fuel r.1 (a + k) (n - k) (acc ++ r.2.1)

/-- The next step of a byte move (R340): up to the next 4 KiB boundary from frame memory, or the next host read. -/
def State.moveBytes (s : State) (c : Nat) : State :=
  match s.mvErr c with
  | some e => s.dmaFault c e
  | none =>
    let d := s.dma.get c
    let len := s.mvLen c
    let src := s.mvSrcAddr c
    if len ≤ d.done then s.dmaRetire c
    else if s.mvSrc c = 1 then
      if s.mvDst c = 0 ∧ s.dmaCan c = false then s
      else
        let n := min (len - d.off) (4096 - (src + d.off) % 4096)
        let r := State.gather c 65 s (src + d.off) n []
        let k := r.2.1.length
        let s := (r.1.mvWrite c (s.mvDstAddr c + d.off) r.2.1).modDma c (fun d => { d with off := d.off + k, done := d.done + k })
        if r.2.2 then s.dmaFault c 6
        else if len ≤ d.done + k then s.dmaRetire c
        else if d.haltDue then s.dmaHalted c
        else s
    else
      let quota := s.fld (Reg.DMA_CHn_BIND c) Fld.DMA_CHn_BIND_QUOTA
      let queued := if s.on (Reg.DMA_CHn_BIND c) Fld.DMA_CHn_BIND_OS_EN then
        slotsOf (s.os.get (s.fld (Reg.DMA_CHn_BIND c) Fld.DMA_CHn_BIND_OS)).buffered else 0
      let s := s.issueReads c
      let stop := d.haltDue && (src + d.off) % 4096 == 0
      if len ≤ d.off || stop || decide (quota ≤ queued + d.reads.length) || !s.dmaCan c || (s.freeTag (s.dmaOwner c)).isNone then
        (if stop && d.reads.isEmpty then s.dmaHalted c else s)
      else
        let k := min (min (s.maxRead (s.dmaOwner c)) (len - d.off)) (4096 - (src + d.off) % 4096)
        (s.modDma c (fun d => { d with
          off := d.off + k, reads := d.reads ++ [⟨none, src + d.off, d.off, k, [], 0, false, 0⟩] })).issueReads c

/-- Received bytes go to the destination in order; a MOVE whose bytes are all written retires (R334, R340). -/
def State.drainReads (c : Nat) : Nat → State → State
  | 0, s => s
  | fuel + 1, s =>
    match (s.dma.get c).reads with
    | [] =>
      let d := s.dma.get c
      if s.mvLen c ≤ d.done then s.dmaRetire c
      else if d.haltDue && (s.mvSrcAddr c + d.off) % 4096 == 0 then s.dmaHalted c
      else s
    | r :: rest =>
      let new := r.got.drop r.wrote
      let s := s.mvWrite c (s.mvDstAddr c + r.place + r.wrote) new
      let s := s.modDma c (fun d => { d with
        done := d.done + new.length
        reads := if r.got.length = r.len then rest else { r with wrote := r.got.length } :: rest })
      if r.got.length = r.len then State.drainReads c fuel s else s

/-- A completion with data for a read of a channel (R338, R340). -/
def State.dmaData (s : State) (c tag : Nat) (data : List Nat) : State :=
  let s := s.modDma c (fun d => { d with reads := d.reads.map (fun (r : DmaRead) =>
    if r.tag = some tag then
      let got := (r.got ++ data).take r.len
      { r with got := got, tag := if got.length = r.len then none else some tag }
    else r) })
  if (s.dma.get c).loading then s else State.drainReads c ((s.dma.get c).reads.length + 1) s

/-- Outcome of moving one item: the queue is empty or the ring is full, a fault, or done. -/
inductive Moved where
  | blocked | fault (err : Nat) | ok (s : State)

/-- The queue that a MOVE takes from. -/
def State.mvQueue (s : State) (c : Nat) : List OsItem :=
  let x := s.os.get (s.fld (Reg.DMA_CHn_BIND c) Fld.DMA_CHn_BIND_OS)
  if s.mvSrc c = 2 then x.lineQ else x.docQ

/-- One item is moved to its destination (R342, R343). In shadow mode nothing is issued and no semaphore is waited for (R349). -/
def State.moveOne (s : State) (c : Nat) : Moved :=
  let n := s.fld (Reg.DMA_CHn_BIND c) Fld.DMA_CHn_BIND_OS
  match s.mvQueue c with
  | [] => .blocked
  | it :: _ =>
    let ring := Reg.DMA_CHn_RING_CFG c
    let slot := 64 * max 1 (s.fld ring Fld.DMA_CHn_RING_CFG_SLOT_SIZE)
    let cursor := (s.reg (Reg.DMA_CHn_RING_CURSOR c)).toNat
    let isRing := s.mvDst c == 2
    let size := if isRing then slot else s.mvLen c
    let addr := if isRing then
        (s.reg (Reg.DMA_CHn_RING_BASE_LO c)).toNat / 64 * 64 + (s.reg (Reg.DMA_CHn_RING_BASE_HI c)).toNat * 2 ^ 32 + cursor * slot
      else s.mvDstAddr c + (s.dma.get c).idx * s.mvLen c
    if size < it.bytes.length then .fault 4
    else if s.mvDst c = 1 ∧ s.fmEnd < addr + it.bytes.length then .fault 10
    else if isRing && !s.dmaQuiet c && (s.reg (Reg.DMA_CHn_SEM c)).toNat == 0 then .blocked
    else if s.mvDst c ≠ 1 ∧ s.dmaCan c = false ∧ s.dmaQuiet c = false then .blocked
    else
      let s := if isRing then (s.semSub c 1).setReg (Reg.DMA_CHn_RING_CURSOR c)
          (BitVec.ofNat 32 ((cursor + 1) % max 1 (s.fld ring Fld.DMA_CHn_RING_CFG_NSLOT))) else s
      let s := s.mvWrite c addr it.bytes
      let s := s.modOs n (fun x => if s.mvSrc c = 2 then { x with lineQ := x.lineQ.drop 1 } else { x with docQ := x.docQ.drop 1 })
      let s := (s.count (Reg.DMA_CHn_ITEM_CNT c)).setReg (Reg.DMA_CHn_LAST_DOC c) (BitVec.ofNat 32 it.doc)
      let s := if it.again then s.count (Reg.DMA_CHn_DUP_CNT c) else s
      let s := s.modDma c (fun d => { d with
        moved := d.moved + 1, idx := d.idx + 1, lastLine := if it.typ = 0 then it.line else d.lastLine })
      .ok ((s.dmaUnack c).osRelease n)

/-- A queue or a semaphore blocks the MOVE: the channel is in WAIT (R331, R342). -/
def State.dmaBlocked (s : State) (c : Nat) : State := s.setDma c 2

/-- A MOVE in MODE 1 takes one item (R341). -/
def State.moveItem (s : State) (c : Nat) : State :=
  match s.mvErr c with
  | some e => s.dmaFault c e
  | none => match s.moveOne c with
    | .blocked => s.dmaBlocked c
    | .fault e => s.dmaFault c e
    | .ok t => (t.setDma c 1).dmaRetire c

/-- The document of a MOVE in MODE 2: that of whichever item arrived first (R341). -/
def State.moveDocOf (s : State) (c : Nat) : Option Nat :=
  let x := s.os.get (s.fld (Reg.DMA_CHn_BIND c) Fld.DMA_CHn_BIND_OS)
  match (s.dma.get c).doc, x.lineQ, x.docQ with
  | some d, _, _ => some d
  | none, [], [] => none
  | none, l :: _, [] => some l.doc
  | none, [], h :: _ => some h.doc
  | none, l :: _, h :: _ => some (if l.arr < h.arr then l.doc else h.doc)

/-- A MOVE in MODE 2 moves the next record of its document, or ends at the document's header (R341). -/
def State.moveDoc (s : State) (c : Nat) : State :=
  match s.mvErr c with
  | some e => s.dmaFault c e
  | none => match s.moveDocOf c with
    | none => s.dmaBlocked c
    | some doc =>
      let s := s.modDma c (fun d => { d with doc := some doc })
      let x := s.os.get (s.fld (Reg.DMA_CHn_BIND c) Fld.DMA_CHn_BIND_OS)
      if (x.lineQ.head?.map (fun (i : OsItem) => i.doc)) = some doc then
        match s.moveOne c with
        | .blocked => s.dmaBlocked c
        | .fault e => s.dmaFault c e
        | .ok t => t.setDma c 1
      else if (x.docQ.head?.map (fun (i : OsItem) => i.doc)) = some doc then (s.setDma c 1).dmaRetire c
      else s.dmaBlocked c

/-! ### LOOP, WAIT, SIGNAL, END (R344 to R346) -/

/-- LOOP: its body begins (R344). -/
def State.doLoop (s : State) (c : Nat) : State :=
  let d := s.dma.get c
  let last := d.pc + 1 + s.dmaBits c 8 6
  let bound := match d.loops with | l :: _ => l.last | [] => s.dmaLen c
  if 4 ≤ d.loops.length ∨ bound < last then s.dmaFault c 2
  else
    let l : DmaLoop := ⟨d.pc + 1, last, s.dmaWord c 1, 0, signed 32 (s.dmaWord c 2), signed 32 (s.dmaWord c 3)⟩
    (s.modDma c (fun d => { d with loops := l :: d.loops, retired := d.retired + 1 })).dmaFetch c (d.pc + 1)

/-- The items that the bound stream's queues hold. -/
def State.dmaLines (s : State) (c : Nat) : Nat :=
  if s.on (Reg.DMA_CHn_BIND c) Fld.DMA_CHn_BIND_OS_EN then
    (s.os.get (s.fld (Reg.DMA_CHn_BIND c) Fld.DMA_CHn_BIND_OS)).lineQ.length else 0
def State.dmaDocs (s : State) (c : Nat) : Nat :=
  if s.on (Reg.DMA_CHn_BIND c) Fld.DMA_CHn_BIND_OS_EN then
    (s.os.get (s.fld (Reg.DMA_CHn_BIND c) Fld.DMA_CHn_BIND_OS)).docQ.length else 0

/-- The condition of the present WAIT holds (R345). -/
def State.waitMet (s : State) (c : Nat) : Bool :=
  match s.dmaBits c 8 3 with
  | 0 => decide (s.dmaWord c 1 ≤ s.dmaLines c)
  | 1 => decide (0 < s.dmaDocs c)
  | 2 => (s.dma.get c).trigSeen
  | 3 => decide (s.dmaWord c 1 ≤ (s.reg (Reg.DMA_CHn_SEM (s.dmaBits c 16 5))).toNat)
  | _ => decide (s.dmaWord c 4 + s.dmaWord c 5 * 2 ^ 32 ≤ s.invar)

/-- A WAIT completes: a semaphore loses its amount (R345). -/
def State.waitDone (s : State) (c : Nat) : State :=
  let s := if s.dmaBits c 8 3 = 3 then s.semSub (s.dmaBits c 16 5) (s.dmaWord c 1) else s
  (s.setDma c 1).dmaRetire c

/-- A semaphore of another owner (R345). -/
def State.semForeign (s : State) (c : Nat) : Bool :=
  s.dmaBits c 8 3 == 3 && s.dmaOwner (s.dmaBits c 16 5) != s.dmaOwner c

/-- WAIT begins, or goes on after RESUME (R345). -/
def State.doWait (s : State) (c : Nat) : State :=
  if s.semForeign c then s.dmaFault c 8
  else
    let s := if (s.dma.get c).waiting then s else s.modDma c (fun d => { d with
      waiting := true, since := s.now, trigSeen := false
      trig := if s.dmaBits c 8 3 = 2 then some (s.dmaBits c 16 5) else none })
    if s.waitMet c then s.waitDone c else s.setDma c 2

/-- The TIMEOUT of a WAIT passes (R345). -/
def State.waitTimeout (s : State) (c : Nat) : State :=
  match s.dmaBits c 11 2 with
  | 0 => (s.setDma c 1).dmaRetire c
  | 1 => ((s.setCh c Fld.DMA_CHn_STATUS_WAIT_TO 1).setDma c 1).dmaRetire c
  | _ => ((s.setCh c Fld.DMA_CHn_STATUS_ERR 12).modDma c (fun d => { d with waiting := false, trig := none })).dmaHalted c

/-- The value that a SIGNAL writes (R346). -/
def State.signalValue (s : State) (c : Nat) : Nat :=
  match s.dmaBits c 12 3 with
  | 0 => s.dmaWord c 1
  | 1 => (s.reg (Reg.DMA_CHn_RING_CURSOR c)).toNat
  | 2 => (s.dma.get c).moved % 2 ^ 32
  | _ => (s.reg (Reg.DMA_CHn_LAST_DOC c)).toNat

/-- SIGNAL performs WRITE, SEM and INT in that order (R346). Its write to the host is a completion write, which the lead reports once it is
acknowledged (R350). -/
def State.doSignal (s : State) (c : Nat) : State :=
  let w := s.dmaBits c 10 1 == 1
  let fm := s.dmaBits c 11 1 == 1
  let addr := s.dmaWord c 4 + s.dmaWord c 5 * 2 ^ 32
  if w && !fm && s.dmaOwner c == 3 then s.dmaFault c 7
  else if w && addr % 4 != 0 then s.dmaFault c 3
  else if w && fm && decide (s.fmEnd < addr + 4) then s.dmaFault c 10
  else if w && !fm && !s.dmaCan c && !s.dmaQuiet c then s
  else
    let s := if !w then s else if fm then s.fmPut addr (leBytes 4 (s.signalValue c))
      else s.dmaHost c addr (leBytes 4 (s.signalValue c))
    let s := if s.dmaBits c 9 1 = 1 then s.semAdd (s.dmaBits c 24 5) (s.dmaWord c 2 % 2 ^ 16) else s
    let s := if s.dmaBits c 8 1 = 1 then
      (s.setCh c Fld.DMA_CHn_STATUS_SIG_CODE (s.dmaBits c 16 8)).setCh c Fld.DMA_CHn_STATUS_SIG 1 else s
    if w && !fm then (s.dmaRetire c).dmaUnack c else s.dmaRetire c

/-- END (R331). -/
def State.doEnd (s : State) (c : Nat) : State :=
  let s := s.modDma c (fun d => { d with retired := d.retired + 1 })
  (((s.setDma c 0).setCh c Fld.DMA_CHn_STATUS_DONE 1).writeCpl c).dmaStream c

/-! ### Shadow mode (R349, R350) -/

/-- The present instruction of a channel in shadow mode, as the lead's reports direct it: no condition is evaluated. -/
def State.followOne (s : State) (c : Nat) : State :=
  match s.dmaOp c with
  | 1 => if s.mvMode c = 0 then s.moveBytes c else if s.mvMode c = 1 then s.moveItem c else s.moveDoc c
  | 2 => s.doLoop c
  | 3 => s.waitDone c
  | 4 => s.doSignal c
  | _ => (s.doEnd c).modDma c (fun d => { d with cplDue := none })

/-- On an admitted device the present MOVE takes items of a document that opened before the channel's streams joined (R516). -/
def State.dmaSkips (s : State) (c : Nat) : Bool :=
  let n := s.fld (Reg.DMA_CHn_BIND c) Fld.DMA_CHn_BIND_OS
  s.twinState == 4 && s.dmaOp c == 1 && s.mvMode c != 0 && s.on (Reg.DMA_CHn_BIND c) Fld.DMA_CHn_BIND_OS_EN
    && (s.feeders n).any (fun f =>
      decide (signed 32 (unsigned 32 (((s.dma.get c).followDoc : Int) - (s.stream.get f.2).joinDoc)) < 0))

/-- Such an item is skipped: the channel's position moves as the lead's did; `i` items are reported. -/
def State.dmaPhantom (s : State) (c i : Nat) : State :=
  let d := s.dma.get c
  if d.moved < i then
    let cursor := (s.reg (Reg.DMA_CHn_RING_CURSOR c)).toNat
    let s := if s.mvDst c = 2 then (s.semSub c 1).setReg (Reg.DMA_CHn_RING_CURSOR c)
        (BitVec.ofNat 32 ((cursor + 1) % max 1 (s.fld (Reg.DMA_CHn_RING_CFG c) Fld.DMA_CHn_RING_CFG_NSLOT))) else s
    let s := (s.count (Reg.DMA_CHn_ITEM_CNT c)).setReg (Reg.DMA_CHn_LAST_DOC c) (BitVec.ofNat 32 d.followDoc)
    let s := (s.modDma c (fun d => { d with moved := d.moved + 1, idx := d.idx + 1 })).setDma c 1
    if s.mvMode c = 1 then s.dmaRetire c else s
  else (s.setDma c 1).dmaRetire c

/-- Where no report directs a channel in shadow mode further: a LOOP, a MOVE that may not run, and an END without a completion record that the
lead would report, act on both twins without a report (R350, R351). Every other command waits. -/
def State.unreported (s : State) (c : Nat) : State :=
  match s.dmaOp c with
  | 2 => s.doLoop c
  | 5 => if (s.reg (Reg.DMA_CHn_CPL_LO c)).toNat % 2 = 1 ∧ s.dmaOwner c ≠ 3 then s else s.doEnd c
  | 1 => (match s.mvErr c with
    | some e => s.dmaFault c e
    | none => s)
  | _ => s

/-- A channel in shadow mode advances to the position that the last report names, as far as its queues allow. -/
def State.followRun (c : Nat) : Nat → State → State
  | 0, s => s
  | fuel + 1, s =>
    let d := s.dma.get c
    match d.follow with
    | none => s
    | some (r, i, _) =>
      let st := s.dmaState c
      if d.loading || d.progIn.isSome || st == 0 || st == 5 then s
      else if !(decide (d.retired < r) || decide (d.moved < i)) then
        (if st == 1 || st == 2 then State.followRun c fuel (s.unreported c) else s)
      else
        let t := if s.dmaSkips c then s.dmaPhantom c i else s.followOne c
        let t := if (st = 3 ∨ st = 4) ∧ (t.dmaState c = 1 ∨ t.dmaState c = 2) then t.setDma c st else t
        if t.dmaState c = 2 then t.setDma c 1 else State.followRun c fuel t

/-- Statistics records that a report covers are taken out, and the channel advances. -/
def State.dmaFollow (s : State) (c : Nat) : State :=
  let d := s.dma.get c
  match if d.progIn.isSome then none else d.follow with
  | none => s
  | some (r, i, t) =>
    let n := s.fld (Reg.DMA_CHn_BIND c) Fld.DMA_CHn_BIND_OS
    let k := if s.on (Reg.DMA_CHn_BIND c) Fld.DMA_CHn_BIND_OS_EN then min (t - d.stats) (s.os.get n).statsQ.length else 0
    let s := (s.modOs n (fun x => { x with statsQ := x.statsQ.drop k })).modDma c (fun d => { d with stats := d.stats + k })
    State.followRun c (4 * ((r - d.retired) + (i - d.moved)) + 64) s

/-- A class 7 message of type DMA (R349, R350): a program at START, or a progress report. One that repeats the channel's position covers the
completion record that the channel holds. -/
def doTwinDma (s : State) : State :=
  match s.takeItem 2 7 4 with
  | (s, none) => s
  | (s, some (_, words)) =>
    let w := words.getD 0 0
    let c := w / 16 % 32
    if !s.dmaQuiet c then s
    else if w % 16 = 0 then
      let d := s.dma.get c
      let s := s.modDma c (fun d => { d with follow := some (0, 0, 0) })
      if d.loading && s.dmaState c == 1 then (s.installProg c (words.drop 1)).dmaFollow c
      else s.modDma c (fun d => { d with progIn := some (words.drop 1) })
    else
      (s.modDma c (fun d => { d with
        follow := some (words.getD 1 0, words.getD 2 0, words.getD 3 0), followDoc := words.getD 4 0
        cplDue := if words.getD 1 0 = d.retired ∧ words.getD 2 0 = d.moved then none else d.cplDue })).dmaFollow c

def execTwinDmaReceive (s : State) : Host.Outcome State Fault Refusal := answer s true (doTwinDma s)

/-- The data link layer has acknowledged the last request of the oldest item, statistics record or completion write not yet
covered: the lead reports it (R350). -/
def doDllAck (c : Nat) (s : State) : State :=
  match (s.dma.get c).unack with
  | [] => s
  | p :: rest => (s.modDma c (fun d => { d with unack := rest })).dmaReport c p

def execPcieDllAck (c : Nat) (s : State) : Host.Outcome State Fault Refusal := answer s (c < 32) (doDllAck c s)

/-! ### The instructions as steps -/

/-- A step of instruction `op` on a channel: in shadow mode the lead's reports direct it. `wait` says whether the instruction also
goes on from WAIT. -/
def State.dmaRun (s : State) (c op : Nat) (wait : Bool) (f : State → State) : State :=
  let st := s.dmaState c
  if s.dmaQuiet c then s.dmaFollow c
  else if (s.dma.get c).loading || s.dmaOp c != op then s
  else if st = 1 ∨ (st = 2 ∧ wait = true) then f s
  else s

/-- A move with the check of the buffer words that it reads. -/
def State.moveChecked (s : State) (c mode : Nat) (buf : Ecc) (f : State → State) : State :=
  s.dmaRun c 1 true (fun s => if s.mvMode c ≠ mode then s
    else let r := s.bufCheck c buf
      if r.2 then f r.1 else r.1)

def execDmaMoveBytes (c : Nat) (buf : Ecc) (s : State) : Host.Outcome State Fault Refusal :=
  answer s (c < 32) (s.moveChecked c 0 buf (fun s => s.moveBytes c))

def execDmaMoveItem (c : Nat) (buf : Ecc) (s : State) : Host.Outcome State Fault Refusal :=
  answer s (c < 32) (s.moveChecked c 1 buf (fun s => s.moveItem c))

def execDmaMoveDoc (c : Nat) (buf : Ecc) (s : State) : Host.Outcome State Fault Refusal :=
  answer s (c < 32) (s.moveChecked c 2 buf (fun s => s.moveDoc c))

def execDmaLoop (c : Nat) (s : State) : Host.Outcome State Fault Refusal :=
  answer s (c < 32) (s.dmaRun c 2 false (fun s => s.doLoop c))

def execDmaWait (c : Nat) (s : State) : Host.Outcome State Fault Refusal :=
  answer s (c < 32) (s.dmaRun c 3 false (fun s => s.doWait c))

def execDmaWaitMet (c : Nat) (s : State) : Host.Outcome State Fault Refusal :=
  answer s (c < 32) (s.dmaRun c 3 true (fun s =>
    if (s.dma.get c).waiting && s.dmaState c == 2 && s.waitMet c then s.waitDone c else s))

def execDmaWaitTimeout (c : Nat) (s : State) : Host.Outcome State Fault Refusal :=
  answer s (c < 32) (s.dmaRun c 3 true (fun s =>
    if (s.dma.get c).waiting && s.dmaState c == 2 && !s.waitMet c && s.dmaWord c 2 != 0
      && decide ((s.dma.get c).since + 1000 * s.dmaWord c 2 ≤ s.now) then s.waitTimeout c else s))

def execDmaSignal (c : Nat) (s : State) : Host.Outcome State Fault Refusal :=
  answer s (c < 32) (s.dmaRun c 4 false (fun s => s.doSignal c))

def execDmaEnd (c : Nat) (s : State) : Host.Outcome State Fault Refusal :=
  answer s (c < 32) (s.dmaRun c 5 false (fun s => s.doEnd c))

/-! ### Takeover (R351, R352, R511) -/

/-- Bits 24 and 25 of tag word 0 of a record's bytes: FAILOVER is set. -/
def withFailover (bytes : List Nat) : List Nat := bytes.take 3 ++ [Nat.lor (bytes.getD 3 0) 1] ++ bytes.drop 4

/-- A completion record that no report covers is issued again, with the time at which its state was entered (R352). -/
def State.reissueCpl (s : State) (c : Nat) : State :=
  match (s.dma.get c).cplDue with
  | none => s
  | some entered => ((s.dmaHost c (s.cplAddr c) (s.cplRecord c entered)).dmaUnack c).modDma c (fun d => { d with cplDue := none })

/-- At a takeover each mirrored channel goes on in its present state: items that no report covers are issued again, the first
record of each output stream with FAILOVER; a lead-only channel is IDLE with TAKEOVER_STOP. -/
def State.dmaTakeover (s : State) : State :=
  (List.range 32).foldl (fun s c =>
    if !s.dmaMirrored c then (s.setDma c 0).setCh c Fld.DMA_CHn_STATUS_TAKEOVER_STOP 1
    else if s.on (Reg.DMA_CHn_BIND c) Fld.DMA_CHn_BIND_OS_EN then
      let n := s.fld (Reg.DMA_CHn_BIND c) Fld.DMA_CHn_BIND_OS
      let mark (l : List OsItem) : List OsItem := l.map (fun it => { it with again := true })
      let s := s.modOs n (fun x => match x.lineQ with
        | [] => { x with statsQ := mark x.statsQ, docQ := mark x.docQ }
        | l :: rest => { x with
            lineQ := mark ({ l with bytes := withFailover l.bytes } :: rest)
            statsQ := mark x.statsQ, docQ := mark x.docQ, failover := false })
      (s.modDma c (fun d => { d with follow := none, unack := [] })).reissueCpl c
    else (s.modDma c (fun d => { d with follow := none, unack := [] })).reissueCpl c) s

end Sys2Proof.Machine
end

