-- ==== Sys2Proof/Machine/Pcie.lean ====
section
/-! DEFINITION. The PCI Express endpoint (spec/14): configuration space, the frame-memory window, MSI-X messages, completions,
function-level reset, low-power state, link events. What the spec takes from PCI Express Base 5.0 without stating it is PRESUMED
(notes/assumptions/14.md). -/

namespace Sys2Proof.Machine

/-! ### The frame-memory window (R365, R366) -/

/-- The size of BAR2 in bytes (R366). -/
def State.bar2Size (s : State) : Nat := 2 ^ (20 + (s.cfgReg 0 0x160).toNat / 2 ^ 8 % 64)

/-- Whether an access to BAR2 reaches frame memory: the function serves, the range lies in the BAR, the device is not in boot
state (R364). -/
def State.bar2Open (s : State) (a n : Nat) : Bool := !s.inBoot && decide (a + n ≤ s.bar2Size)

/-- Whether the access-control table grants every 64 KiB unit that a BAR2 access touches (R556). -/
def State.fmGranted (s : State) (i : Initiator) (a n : Nat) (write : Bool) : Bool :=
  (List.range ((a % 0x10000 + n + 0xFFFF) / 0x10000)).all (fun k => s.granted i 1 (a + k * 0x10000) write)

/-- A read through BAR2 (R365): uncorrectable or poison data come with the EP bit; beyond the capacity and in boot state zeros
are read (R13). -/
def doBar2Read (a n : Nat) (s : State) : State :=
  if !s.fnServes 0 || decide (s.bar2Size < a + n) then (s.unsupported 0).emit (.completion 0 1 false [])
  else if !s.fmGranted .pf0 a n false then s.refuse .pf0 1 a false
  else if s.inBoot then s.emit (.completion 0 0 false (List.replicate n 0))
  else
    let r := s.fmShow a n
    r.1.emit (.completion 0 0 r.2.2 r.2.1)

def execBar2Read (a n : Nat) (s : State) : Host.Outcome State Fault Refusal :=
  answer s (0 < n && n ≤ 4096) (doBar2Read a n s)

/-- A write through BAR2 (R365): a poisoned one is discarded and logged. -/
def doBar2Write (a : Nat) (bytes : List Byte) (poisoned : Bool) (s : State) : State :=
  if !s.fnServes 0 || decide (s.bar2Size < a + bytes.length) then s.aerUncorr 0 20
  else if poisoned then s.aerUncorr 0 12
  else if !s.fmGranted .pf0 a bytes.length true then s.refuse .pf0 1 a true
  else if s.inBoot then s
  else s.fmPlace a (bytes.map (·.toNat))

def execBar2Write (a : Nat) (bytes : List Byte) (poisoned : Bool) (s : State) : Host.Outcome State Fault Refusal :=
  answer s (bytes != [] && bytes.length ≤ 4096) (doBar2Write a bytes poisoned s)

/-! ### MSI-X (R368, R369) -/

/-- What an unlisted word of an MSI-X table holds. -/
def msixReset (k : Nat) : Word := if k % 4 = 3 then 1 else 0

/-- Word `w` of vector `v` of function `f`. -/
def State.msixWord (s : State) (f v w : Nat) : Word :=
  let k := 1024 * f + 4 * (v % 256) + w
  (s.msix.find k).getD (msixReset k)

/-- A word of an MSI-X table takes a value; the reserved bits of vector control stay 0. -/
def State.setMsix (s : State) (f k : Nat) (data : Word) : State :=
  let n := 1024 * f + k % 1024
  let data := if k % 4 = 3 then data &&& 1 else if k % 4 = 0 then data &&& 0xFFFFFFFC else data
  { s with msix := s.msix.setD (msixReset n) n data }

/-- A vector's pending bit. -/
def State.pbaBit (s : State) (f v : Nat) : Bool := bitB (s.pba.get f) v
def State.setPba (s : State) (f v : Nat) (b : Bool) : State := { s with pba := s.pba.set f (withBit (s.pba.get f) v b) }

/-- All conditions for a message hold (R368). -/
def State.msixMay (s : State) (f v : Nat) : Bool :=
  let c := (s.cfgReg f 0x90).toNat
  bitB c 31 && !bitB c 30 && !bitB (s.msixWord f v 3).toNat 0 && s.busMaster f && s.inD0 f && (s.flrUntil.get f == none)

/-- The endpoint takes a vector that was raised, or that is pending: it sends the message, or keeps it pending (R368). -/
def doMsixSend (f v : Nat) (s : State) : State :=
  let raised := s.msixReq.contains (f, v)
  let s := { s with msixReq := s.msixReq.filter (fun r => r != (f, v)) }
  if !raised && !s.pbaBit f v then s
  else if s.msixMay f v then
    (s.setPba f v false).emit (.hostWrite f ((s.msixWord f v 0).toNat + (s.msixWord f v 1).toNat * 2 ^ 32)
      (leBytes 4 (s.msixWord f v 2).toNat))
  else s.setPba f v true

def execMsixSend (f v : Nat) (s : State) : Host.Outcome State Fault Refusal := answer s (f < 4 && v < 256) (doMsixSend f v s)

/-! ### Completions (R356, R371, R372) -/

/-- The channel whose read holds a tag. -/
def State.tagChannel (s : State) (t : Nat) : Option Nat :=
  (List.range 32).find? (fun c => (s.dma.get c).reads.any (fun (r : DmaRead) => r.tag == some t))

/-- A completion that no outstanding read expects is logged as an Unexpected Completion, as an advisory error (R356, R370). -/
def State.unexpected (s : State) (f : Nat) : State := (s.aerUncorr f 16).aerCorr f 13

/-- A channel's read ends without data: its tag is free, and the channel faults (R347, R371). -/
def State.readFails (s : State) (c t : Nat) : State :=
  (s.modDma c (fun d => { d with reads := d.reads.filter (fun (r : DmaRead) => r.tag != some t) })).dmaFault c 5

/-- A check of the endpoint's buffers (R370): a corrected word is a Corrected Internal Error, an uncorrectable one an Uncorrectable Internal
Error; both signal Lodge source 41. -/
def State.pcieBuf (s : State) (f : Nat) : Ecc → State
  | .ok => s
  | .corrected n => (s.aerCorr f 14).raiseCorrs 41 0 n
  | .uncorr _ => ((s.aerUncorr f 22).setFld Reg.GLB_PCIE_STATUS Fld.GLB_PCIE_STATUS_INT_ERR 1).raiseError 41 0

/-- A completion arrives for a tag: status 0 success, 1 Unsupported Request, 4 Completer Abort; `buf` is the check of the completion buffer, and
`data` what it holds. -/
def doCompletion (f t status : Nat) (ep : Bool) (data : List Nat) (buf : Ecc) (s : State) : State :=
  let s := s.pcieBuf f buf
  match s.tagChannel t with
  | some c =>
    let s := if ep then s.aerUncorr (s.dmaOwner c) 12 else s
    if status ≠ 0 ∨ ep = true then s.readFails c t else s.dmaData c t (data.map (· % 256))
  | none => match s.pcie.owed.find? (fun o => o.1 == t) with
    | some o =>
      let left := if status = 0 then o.2.2.1 - data.length else 0
      let rest := s.pcie.owed.filter (fun p => p.1 != t)
      let s := if o.2.2.2.1 then s.count Reg.GLB_PCIE_DISC_CPL_CNT else s
      { s with pcie := { s.pcie with owed := if left = 0 then rest else rest ++ [(t, o.2.1, left, o.2.2.2)] } }
    | none =>
      if s.pcie.quar.any (fun q => q.1 == t) then (s.unexpected f).count Reg.GLB_PCIE_LATE_CPL_CNT else s.unexpected f

def execPcieCompletion (f t status : Nat) (ep : Bool) (data : CplData) (s : State) : Host.Outcome State Fault Refusal :=
  answer s (f < 4 && t < 1024 && data.bytes.length ≤ 4096) (doCompletion f t status ep data.bytes data.check s)

/-- The programmed completion timeout of a function in ns: the ends of its range, by the code in Device Control 2 (R356). -/
def State.ctoRange (s : State) (f : Nat) : Nat × Nat :=
  match (s.cfgReg f 0x78).toNat % 16 with
  | 1 => (50000, 100000) | 2 => (1000000, 10000000) | 5 => (16000000, 55000000) | 6 => (65000000, 210000000)
  | 9 => (260000000, 900000000) | 10 => (1000000000, 3500000000) | 13 => (4000000000, 13000000000)
  | 14 => (17000000000, 64000000000) | _ => (50000, 50000000)

/-- A tag enters quarantine for twice the programmed timeout (R356). -/
def State.quarantine (s : State) (f t : Nat) : State :=
  { s with pcie := { s.pcie with quar := s.pcie.quar ++ [(t, s.now + 2 * (s.ctoRange f).2)] } }

/-- Whether a read of a function issued at `since` may time out now (R356). -/
def State.ctoDue (s : State) (f since : Nat) : Bool :=
  !bitB (s.cfgReg f 0x78).toNat 4 && decide (since + (s.ctoRange f).1 ≤ s.now)

/-- A read's completion timeout expires (R356, R370, R371): it is logged and counted, the tag enters quarantine, and a channel whose read it was
faults. The completion of a read given up may fail to come as well. -/
def doCompletionTimeout (t : Nat) (s : State) : State :=
  let late (f : Nat) (s : State) : State := ((s.aerUncorr f 14).count Reg.GLB_PCIE_CTO_CNT).quarantine f t
  match s.tagChannel t with
  | some c =>
    let f := s.dmaOwner c
    let since := ((s.dma.get c).reads.find? (fun (r : DmaRead) => r.tag == some t)).elim 0 (fun r => r.since)
    if s.ctoDue f since then (late f s).readFails c t else s
  | none => match s.pcie.owed.find? (fun o => o.1 == t) with
    | none => s
    | some o =>
      if s.ctoDue o.2.1 o.2.2.2.2 then
        late o.2.1 { s with pcie := { s.pcie with owed := s.pcie.owed.filter (fun p => p.1 != t) } }
      else s

def execCompletionTimeout (t : Nat) (s : State) : Host.Outcome State Fault Refusal := answer s (t < 1024) (doCompletionTimeout t s)

/-- A quarantined tag may be reused (R356). -/
def execPcieTagQuarantineEnd (t : Nat) (s : State) : Host.Outcome State Fault Refusal :=
  answer s (t < 1024) { s with pcie := { s.pcie with
    quar := s.pcie.quar.filter (fun q => !(q.1 == t && decide (q.2 ≤ s.now))) } }

/-! ### Configuration space (R358, R359, R366, R372, R373, R376) -/

/-- The writable bits of a configuration double word; those cleared by a 1 are given second. -/
def State.cfgMask (s : State) (f off : Nat) : Nat × Nat :=
  match off with
  | 0x04 => (0x546, 0xF9000000)
  | 0x0C => (0xFF, 0)
  | 0x10 => (match f with | 1 => 0xFFF00000 | 2 => 0xFFC00000 | _ => 0xFC000000, 0)
  | 0x14 => (0xFFFFFFFF, 0)
  | 0x18 => (if f = 0 then 2 ^ 32 - min (2 ^ 32) s.bar2Size else 0, 0)
  | 0x1C => (if f = 0 then 2 ^ 32 - max 1 (s.bar2Size / 2 ^ 32) else 0, 0)
  | 0x30 => (if f = 0 then 0xFFF00001 else 0, 0)
  | 0x3C => (0xFF, 0)
  | 0x44 => (0x3, 0)
  | 0x58 => (0x7FFF, 0x000F0000)
  | 0x60 => (0x00DF, 0)
  | 0x78 => (0x101F, 0)
  | 0x80 => (0xFFFF, 0)
  | 0x90 => (0xC0000000, 0)
  | 0x104 => (0, 0x005FF010)
  | 0x108 => (0x005FF010, 0)
  | 0x10C => (0x005FF010, 0)
  | 0x110 => (0, 0x0000F1C1)
  | 0x114 => (0x0000F1C1, 0)
  | 0x118 => (0x140, 0)
  | 0x160 => (if f = 0 then 0x3F00 else 0, 0)
  | _ => (0, 0)

/-- A configuration write's new value: bytes enabled by `be`. -/
def State.cfgWritten (s : State) (f off : Nat) (data : Word) (be : Nat) : Nat :=
  let old := (s.cfgReg f off).toNat
  let m := s.cfgMask f off
  let lane := (List.range 4).foldl (fun a i => a + (if bitB be i then 0xFF * 2 ^ (8 * i) else 0)) 0
  let rw := Nat.land m.1 lane
  let kept := old - Nat.land old rw
  let v := kept + Nat.land data.toNat rw
  v - Nat.land v (Nat.land (Nat.land m.2 lane) data.toNat)

/-- GLB_PCIE_STATUS.BME shows each function's Bus Master Enable. -/
def State.showBme (s : State) : State :=
  s.setFld Reg.GLB_PCIE_STATUS Fld.GLB_PCIE_STATUS_BME ((List.range 4).foldl (fun a f => a + b2n (s.busMaster f) * 2 ^ f) 0)

/-- The registers of a channel return to their reset values (R373). -/
def State.resetChannel (s : State) (c : Nat) : State :=
  (List.range 32).foldl (fun s k =>
    let off := Reg.DMA_CHn_CTRL c + 4 * k
    s.setReg off (resetWord off)) s

/-- The AER registers whose bits are sticky. -/
def aerSticky (off : Nat) : Bool := decide (0x104 ≤ off) && decide (off ≤ 0x128)

/-- A function's configuration space, MSI-X table included, returns to its reset values (R373); the subsystem IDs stay those of the
image (R358). -/
def State.resetCfg (s : State) (f : Nat) : State :=
  { s with
    cfg := s.cfg.filter (fun e => e.1 / 4096 != f || aerSticky (e.1 % 4096) || e.1 % 4096 == 0x2C)
    msix := s.msix.filter (fun e => e.1 / 1024 != f)
    pba := s.pba.set f 0
    msixReq := s.msixReq.filter (fun r => r.1 != f) }.showBme

/-- The owner session ends (R552). -/
def State.endSession (s : State) : State :=
  match s.mgt.session with
  | none => s
  | some k => ({ s with mgt := { s.mgt with session := none } }.setFld Reg.MGT_STATUS Fld.MGT_STATUS_SESSION 0).log
      0x10 0 0x0011 (k * 256 + 1)

/-- A function-level reset begins (R373, R374): the function's channels stop and enter IDLE with their registers reset, and its
configuration space is reset. On a lead the shadow's mirrored channels stop too; on a shadow its channels follow the lead. A reset
of PF2 ends the owner session. One that comes while a warm reset is under way is discarded (R538). -/
def State.flr (s : State) (f : Nat) : State :=
  if s.boot.resetDue.isSome then s else
  let s := if f = 2 then s.endSession else s
  let s := (List.range 32).foldl (fun s c =>
    if s.dmaOwner c = f ∧ s.dmaQuiet c = false then
      let s := (((s.dmaAbandon c true).resetChannel c).setDma c 0).dmaStream c
      if s.leadsPair && s.dmaMirrored c then
        { s with mirrorQ := s.mirrorQ ++ [⟨f, Reg.DMA_CHn_CTRL c, 8⟩] }
      else s
    else s) s
  { s.resetCfg f with flrUntil := s.flrUntil.set f (some (s.now + 10000000)) }

/-- A function-level reset ends (R373). -/
def doFlrComplete (f : Nat) (s : State) : State :=
  match s.flrUntil.get f with
  | none => s
  | some _ => { s with flrUntil := s.flrUntil.set f none }.setBit Reg.GLB_PCIE_STATUS (19 + f)

def execFlrComplete (f : Nat) (s : State) : Host.Outcome State Fault Refusal := answer s (f < 4) (doFlrComplete f s)

/-- A configuration write takes effect: Bus Master Enable, the power state, a function-level reset and BAR Size act (R366, R372,
R373, R376). A function-level reset wins over a clear of Bus Master Enable. -/
def State.cfgWrite (s : State) (f off : Nat) (data : Word) (be : Nat) : State :=
  let new := s.cfgWritten f off data be
  if off = 0x58 ∧ bitB be 1 = true ∧ bitB data.toNat 15 = true then s.flr f
  else if off = 0x44 ∧ new % 4 ≠ 0 ∧ new % 4 ≠ 3 then s
  else if off = 0x160 ∧ f = 0 ∧ (new / 2 ^ 8 % 64 < 8 ∨ 14 < new / 2 ^ 8 % 64) then s
  else
    let was := s.busMaster f && s.inD0 f
    let s := (s.setCfg f off (BitVec.ofNat 32 new)).showBme
    if was && !(s.busMaster f && s.inD0 f) then s.haltOwned f
    else if !was && s.busMaster f && s.inD0 f then (List.range 32).foldl (fun s c => if s.dmaOwner c = f then s.dmaStream c else s) s
    else s

/-- A configuration request (R358, R373, R378): Retry Status until the endpoint is ready and while the function resets; reads of
the Device Serial Number and of the subsystem IDs show what the device holds. -/
def State.cfgRead (s : State) (f off : Nat) : Word :=
  if off = 0x14C then s.reg Reg.GLB_PCIE_DSN_LO
  else if off = 0x150 then s.reg Reg.GLB_PCIE_DSN_HI
  else if off = 0x60 then
    BitVec.ofNat 32 ((s.cfgReg f off).toNat % 2 ^ 16 + s.fld Reg.GLB_PCIE_STATUS Fld.GLB_PCIE_STATUS_SPEED * 2 ^ 16
      + s.fld Reg.GLB_PCIE_STATUS Fld.GLB_PCIE_STATUS_WIDTH * 2 ^ 20)
  else s.cfgReg f off

def State.cfgRetry (s : State) (f : Nat) : Bool := !s.ready || (s.flrUntil.get f).isSome

def doConfig (f off : Nat) (write : Option (Word × Nat)) (s : State) : State :=
  if s.pcie.perst then s
  else if s.cfgRetry f then s.emit (.completion f 2 false [])
  else match write with
    | none => s.emit (.completion f 0 false (leBytes 4 (s.cfgRead f off).toNat))
    | some w => (s.cfgWrite f off w.1 w.2).emit (.completion f 0 false [])

def execConfigRequest (f off : Nat) (write : Option (Word × Nat)) (s : State) : Host.Outcome State Fault Refusal :=
  answer s (f < 4 && off < 4096 && off % 4 == 0) (doConfig f off write s)

/-- The host clears Bus Master Enable (R372): a write of the Command register with bit 2 clear. -/
def execBusMasterDisable (f : Nat) (s : State) : Host.Outcome State Fault Refusal :=
  answer s (f < 4) (doConfig f 0x04 (some (s.cfgReg f 0x04 &&& 0x0000FFFB, 3)) s)

/-- A write of Device Control with the reset bit (R373). -/
def execFunctionLevelReset (f : Nat) (s : State) : Host.Outcome State Fault Refusal :=
  answer s (f < 4) (doConfig f 0x58 (some (s.cfgReg f 0x58 &&& 0x00007FFF ||| 0x00008000, 3)) s)

/-- A write of power state D3hot (R376). -/
def execD3hotEntry (f : Nat) (s : State) : Host.Outcome State Fault Refusal :=
  answer s (f < 4) (doConfig f 0x44 (some (s.cfgReg f 0x44 ||| 3, 1)) s)

/-- A write of BAR Size (R366). -/
def execResizableBarWrite (size : Nat) (s : State) : Host.Outcome State Fault Refusal :=
  answer s (size < 64) (doConfig 0 0x160 (some (BitVec.ofNat 32 (size * 2 ^ 8), 2)) s)

/-! ### The link (R357, R375, R378) -/

/-- The link is down. -/
def State.linkDown (s : State) : State :=
  ((s.setFld Reg.GLB_PCIE_STATUS Fld.GLB_PCIE_STATUS_LINK_UP 0).setFld Reg.GLB_PCIE_STATUS
    Fld.GLB_PCIE_STATUS_SPEED 0).setFld Reg.GLB_PCIE_STATUS Fld.GLB_PCIE_STATUS_WIDTH 0

/-- All four functions act as on an FLR, and the link retrains (R375). -/
def State.flrAll (s : State) : State := ((((s.flr 0).flr 1).flr 2).flr 3).linkDown

def execHotReset (s : State) : Host.Outcome State Fault Refusal :=
  answer s true (if s.pcie.perst then s else s.flrAll.setFld Reg.GLB_PCIE_STATUS Fld.GLB_PCIE_STATUS_HOT_RESET_EV 1)

def execDlDown (s : State) : Host.Outcome State Fault Refusal :=
  answer s true (if s.pcie.perst || !s.on Reg.GLB_PCIE_STATUS Fld.GLB_PCIE_STATUS_LINK_UP then s
    else (s.flrAll.setFld Reg.GLB_PCIE_STATUS Fld.GLB_PCIE_STATUS_LINK_DOWN_EV 1).raiseError 41 0)

/-- The link trains at a speed and width; below GLB_PCIE_MIN that is flagged and logged (R357). -/
def doLinkTrained (speed width : Nat) (s : State) : State :=
  if s.pcie.perst then s
  else
    let s := ((s.setFld Reg.GLB_PCIE_STATUS Fld.GLB_PCIE_STATUS_LINK_UP 1).setFld Reg.GLB_PCIE_STATUS
      Fld.GLB_PCIE_STATUS_SPEED speed).setFld Reg.GLB_PCIE_STATUS Fld.GLB_PCIE_STATUS_WIDTH width
    if speed < s.fld Reg.GLB_PCIE_MIN Fld.GLB_PCIE_MIN_MIN_SPEED ∨ width < s.fld Reg.GLB_PCIE_MIN Fld.GLB_PCIE_MIN_MIN_WIDTH then
      (s.setFld Reg.GLB_PCIE_STATUS Fld.GLB_PCIE_STATUS_LINK_LOW_EV 1).log 0x01 0 0x0008 (speed * 256 + width)
    else s

def execPcieLinkTrained (speed width : Nat) (s : State) : Host.Outcome State Fault Refusal :=
  answer s (1 ≤ speed && speed ≤ 5 && [1, 2, 4, 8, 16].contains width) (doLinkTrained speed width s)

/-- PERST_N rises: link training and the readiness timeline start (R378). -/
def execPerstNRelease (s : State) : Host.Outcome State Fault Refusal :=
  answer s true (if s.pcie.perst then { s with pcie := { s.pcie with perst := false, perstAt := s.now } } else s)

end Sys2Proof.Machine
end

