-- ==== Sys2Proof/Machine/Bridge.lean ====
section
/-! DEFINITION. The bridge (spec/16): received link packets, acknowledgement and replay, credits, remote writes and reads, the failure
log, virtual wires and segmenter edges. -/

namespace Sys2Proof.Machine

/-- The bridge's state changed by `f`. -/
def State.modBrg (s : State) (f : BrgSt → BrgSt) : State := { s with brg := f s.brg }

/-! ### Received packets (R406 to R412, R423) -/

/-- The types of each class (R408). -/
def classTypes : Nat → Nat
  | 0 => 3 | 1 => 1 | 2 => 1 | 3 => 1 | 4 => 3 | 5 => 3 | 6 => 6 | 7 => 9 | _ => 0

/-- A malformed packet (R408). -/
def malformed (g : Nat) (p : LinkPkt) : Bool :=
  decide (classTypes p.cls ≤ p.typ) || (p.cls == 7 && g != 2) || decide (128 < p.payload.length)

def State.markMalformed (s : State) : State := (s.count (Reg.BRG_CNTk 5)).setFld Reg.BRG_STATUS Fld.BRG_STATUS_MALFORMED 1

/-- A packet arrives, ended by EPK (R409): `good` is the LCRC check, `buf` the check of the buffer words that hold it (R423). One of class 0
carries no SEQ; what it says comes by its own command. -/
def doPacket (g : Nat) (p : LinkPkt) (good : Bool) (buf : Ecc) (s : State) : State :=
  if !s.inServiceGroup g then s
  else
    let x := s.grp.get g
    if !good || (p.cls != 0 && p.seq != x.rxNext) then s.sendCtl g 1 ((x.rxNext + 4095) % 4096) 0
    else if p.cls = 0 then (if malformed g p then s.markMalformed else s)
    else
      let s := (s.modGrp g (fun x => { x with rxNext := (p.seq + 1) % 4096 })).sendCtl g 0 p.seq 0
      if malformed g p then
        let s := s.markMalformed
        if p.cls = 3 ∨ 7 < p.cls then s else s.sendCtl g 2 (p.cls + 2 ^ 16) (LinkPkt.units p)
      else
        let r : State × LinkPkt := match buf with
          | .ok => (s, p)
          | .corrected n => (s.raiseCorrs 45 0 n, p)
          | .uncorr _ => (s.raiseError 45 0, { p with ep := true })
        r.1.modGrp g (fun x => { x with rx := x.rx ++ [r.2] })

/-- Packets up to a sequence number leave the replay buffer (R409). -/
def dropAcked (seqNo : Nat) : List LinkPkt → List LinkPkt
  | [] => []
  | p :: rest => if (seqNo + 4096 - p.seq) % 4096 < 2048 then dropAcked seqNo rest else p :: rest

/-- An ACK covers packets, and room in the replay buffer lets others go (R409). -/
def doAck (g seqNo : Nat) (s : State) : State :=
  let s := s.modGrp g (fun x => { x with replay := dropAcked seqNo x.replay, ackAt := s.now })
  s.pump g ((s.grp.get g).queue.length + 1)

def execLinkAck (g seqNo : Nat) (s : State) : Host.Outcome State Fault Refusal :=
  answer s (g < 3 && seqNo < 4096) (if s.inServiceGroup g then doAck g seqNo s else s)

/-- Everything not acknowledged is sent again, the oldest first (R409). -/
def State.replayAll (s : State) (g : Nat) : State :=
  (s.grp.get g).replay.foldl (fun s p => s.frame g (LinkPkt.words p)) s

/-- A replay, where there is something to send again, counts (R409, R410). -/
def State.replayCounted (s : State) (g : Nat) : State :=
  if (s.grp.get g).replay.isEmpty then s
  else ((s.count (Reg.BRG_CNTk 4)).modGrp g (fun x => { x with ackAt := s.now })).replayAll g

/-- A NAK starts a replay from the oldest packet not acknowledged; it names the last one accepted. -/
def execLinkNak (g seqNo : Nat) (s : State) : Host.Outcome State Fault Refusal :=
  answer s (g < 3 && seqNo < 4096)
    (if s.inServiceGroup g then
      (s.modGrp g (fun x => { x with replay := dropAcked seqNo x.replay })).replayCounted g
    else s)

/-- No ACK for 4 µs (R409). -/
def execReplayTimeout (g : Nat) (s : State) : Host.Outcome State Fault Refusal :=
  answer s (g < 3)
    (let x := s.grp.get g
     if s.inServiceGroup g && !x.replay.isEmpty && decide (x.ackAt + 4000 ≤ s.now) then s.replayCounted g else s)

/-- A CREDIT packet adds header and data credits of a class (R412). -/
def doCredit (g cls hdr data : Nat) (s : State) : State :=
  let s := s.modGrp g (fun x => { x with
    hdr := Table.set x.hdr cls (x.hdr.get cls + hdr), data := Table.set x.data cls (x.data.get cls + data) })
  s.pump g ((s.grp.get g).queue.length + 1)

def execCreditReceive (g cls hdr data : Nat) (s : State) : Host.Outcome State Fault Refusal :=
  answer s (g < 3 && cls < 8 && hdr < 2 ^ 16 && data < 2 ^ 16) (if s.inServiceGroup g then doCredit g cls hdr data s else s)

/-! ### Where a remote request goes (R415) -/

/-- The target code of an initiator. -/
def State.remTarget (s : State) (i : Initiator) : Nat :=
  if i = .pf3 then s.fld Reg.BRG_PF3_CFG Fld.BRG_PF3_CFG_TARGET
  else s.fld (Reg.MGT_REMOTEt_CFG (i.code - 4)) Fld.MGT_REMOTEt_CFG_TARGET

/-- The group of a target with a path; none without. Where both L groups lead to the target and nothing says which, the choice is
free. -/
def State.remGroup (s : State) (i : Initiator) : State × Option Nat :=
  let ok (g : Nat) : Option Nat := if s.hasPath g then some g else none
  if i = .pf3 ∧ s.fld Reg.GLB_ROLE Fld.GLB_ROLE_ROLE = 0 then (s, none)
  else match s.remTarget i with
    | 0 => (s, ok 0)
    | 1 => (s, ok 1)
    | 3 => (s, ok 2)
    | _ =>
      if s.fld Reg.GLB_ROLE Fld.GLB_ROLE_ROLE = 2 ∧ s.fld Reg.GLB_ROLE Fld.GLB_ROLE_TOPOLOGY = 2 then (s, s.headLead.bind ok)
      else match ok 0, ok 1 with
        | some _, some _ => (s.draw, some (Config.nat s.free % 2))
        | some g, none => (s, some g)
        | none, g => (s, g)

/-! ### The failure log (R417 to R419) -/

/-- Posted writes that still wait to be sent are discarded and counted (R419); those already sent are not recalled. -/
def State.dropPosted (s : State) : State :=
  [0, 1, 2].foldl (fun s g =>
    (s.countN (Reg.BRG_CNTk 2) ((s.grp.get g).queue.filter (fun p => p.cls == 1)).length).modGrp g
      (fun x => { x with queue := x.queue.filter (fun p => p.cls != 1) })) s

/-- A failure enters the log; one that finds it full is counted only (R418). A logged failure of a local initiator stops posted writes where
STOP_ON_PERR says so (R419). -/
def State.perrLog (s : State) (off reason init remote g : Nat) : State :=
  let n := s.fld Reg.BRG_PERR_STATUS Fld.BRG_PERR_STATUS_NUM
  let s := s.count (Reg.BRG_CNTk 1)
  if 8 ≤ n then s.setFld Reg.BRG_STATUS Fld.BRG_STATUS_PERR_OVF 1
  else
    let s := (s.setReg (Reg.BRG_PERR_LOGe_ADDR n) (BitVec.ofNat 32 (off % 2 ^ 26))).setReg (Reg.BRG_PERR_LOGe_INFO n)
      (BitVec.ofNat 32 (reason + init % 16 * 2 ^ 4 + remote % 16 * 2 ^ 8 + g * 2 ^ 12))
    let s := (s.setReg (Reg.BRG_PERR_LOGe_TIME n) (BitVec.ofNat 32 s.invar)).setFld Reg.BRG_PERR_STATUS
      Fld.BRG_PERR_STATUS_NUM (n + 1)
    let s := s.setFld Reg.BRG_STATUS Fld.BRG_STATUS_PERR 1
    if s.on Reg.BRG_CTRL Fld.BRG_CTRL_STOP_ON_PERR && decide (init < 6) then
      (s.setFld Reg.BRG_STATUS Fld.BRG_STATUS_PERR_STOP 1).dropPosted
    else s

/-- Entry 0 leaves the log, and the others move down (R418). -/
def State.perrPop (s : State) : State :=
  let n := s.fld Reg.BRG_PERR_STATUS Fld.BRG_PERR_STATUS_NUM
  if n = 0 then s
  else
    let s := (List.range 7).foldl (fun s e =>
      ((s.setReg (Reg.BRG_PERR_LOGe_ADDR e) (s.reg (Reg.BRG_PERR_LOGe_ADDR (e + 1)))).setReg (Reg.BRG_PERR_LOGe_INFO e)
        (s.reg (Reg.BRG_PERR_LOGe_INFO (e + 1)))).setReg (Reg.BRG_PERR_LOGe_TIME e) (s.reg (Reg.BRG_PERR_LOGe_TIME (e + 1)))) s
    let s := ((s.setReg (Reg.BRG_PERR_LOGe_ADDR 7) 0).setReg (Reg.BRG_PERR_LOGe_INFO 7) 0).setReg (Reg.BRG_PERR_LOGe_TIME 7) 0
    s.setFld Reg.BRG_PERR_STATUS Fld.BRG_PERR_STATUS_NUM (n - 1)

def execPerrPop (i : Initiator) (data : Word) (s : State) : Host.Outcome State Fault Refusal :=
  answer s true (s.swWrite i Reg.BRG_PERR_POP data (fun s => if bitB data.toNat 0 then s.perrPop else s))

/-- The originator logs a failure that the far device reports (R417). -/
def doPerr (g : Nat) (s : State) : State :=
  match s.takeRx g 6 1 with
  | (s, none) => s
  | (s, some p) =>
    let w := p.payload.getD 1 0
    s.perrLog (p.payload.getD 0 0) (w % 16) (w / 16 % 16) 0 g

def execPerrReceive (g : Nat) (s : State) : Host.Outcome State Fault Refusal := answer s (g < 3) (doPerr g s)

/-! ### Remote writes (R415 to R419) -/

/-- A following or detached device sends no remote write (R416). -/
def doRemoteWrite (i : Initiator) (off : Nat) (data : List Word) (s : State) : State :=
  if i.isHost && !s.fnServes i.code then s.aerUncorr i.code 20
  else if i == .mc1 && !s.bit Reg.MGT_STATUS 10 then s
  else if !s.granted i 0 off true then s.refuse i 0 off true
  else if i.isHost && s.inBoot then s
  else if s.shadowLike then (if i = .pf3 then s.count Reg.GLB_PCIE_SHADOW_WR_IGN_CNT else s.count (Reg.BRG_CNTk 2))
  else if s.on Reg.BRG_STATUS Fld.BRG_STATUS_PERR_STOP then s.count (Reg.BRG_CNTk 2)
  else match s.remGroup i with
    | (s, none) => s.perrLog off 3 i.code 0 3
    | (s, some g) => s.sendPkt g ⟨1, 0, true, true, false, 0, 0, i.code, off, 0, data.map (·.toNat)⟩

def execRemoteWriteIssue (i : Initiator) (off : Nat) (data : List Word) (s : State) : Host.Outcome State Fault Refusal :=
  answer s ((i == .pf3 || i == .mc0 || i == .mc1) && off < 0x2000000 && off % 4 == 0 && data != []
      && data.length ≤ (if i == .pf3 then 128 else 1))
    (doRemoteWrite i off data s)

/-! ### Remote reads (R420 to R422) -/

/-- BRG_TAGS shows the tags outstanding and in quarantine. -/
def State.showTags (s : State) : State :=
  s.setReg Reg.BRG_TAGS (BitVec.ofNat 32 ((s.brg.reads.filter (fun (r : RemRead) => r.tag.isSome)).length
    + s.brg.quar.length * 2 ^ 16))

/-- The timeout of remote reads in ns (R421). -/
def State.rdTimeout (s : State) : Nat :=
  1000 * min 1000000 (max 10 (s.fld Reg.BRG_RD_TIMEOUT Fld.BRG_RD_TIMEOUT_US))

/-- A remote read completes towards its initiator: status 0 with data, or 1 for a completer abort (R420, R545). -/
def State.remDeliver (s : State) (init status : Nat) (ep : Bool) (words : List Nat) : State :=
  if init = 3 then s.emit (.completion 3 (if status = 0 then 0 else 4) ep (words.flatMap (leBytes 4)))
  else if status ≠ 0 ∨ ep = true then s.emit (.coreFault (init - 4) 5)
  else s.emit (.readData (Initiator.ofCode init) (words.getD 0 0))

def State.remOnes (s : State) (r : RemRead) : State := s.remDeliver r.init 0 false (List.replicate r.words 0xFFFFFFFF)

/-- A read with no path completes at once with all ones (R422). -/
def State.remNoPath (s : State) (r : RemRead) : State :=
  ((s.count (Reg.BRG_CNTk 3)).setFld Reg.BRG_STATUS Fld.BRG_STATUS_LINK_LOST 1).remOnes r

/-- The lowest tag that is neither outstanding nor in quarantine. -/
def State.remTag (s : State) : Option Nat :=
  (List.range 256).find? (fun t => !s.brg.reads.any (fun (r : RemRead) => r.tag == some t) && !s.brg.quar.any (fun q => q.1 == t))

/-- A read takes a tag and is sent, or waits for one. -/
def State.remIssue (s : State) (r : RemRead) : State :=
  match s.remGroup (Initiator.ofCode r.init) with
  | (s, none) => s.remNoPath r
  | (s, some g) => match s.remTag with
    | none => s.modBrg (fun b => { b with reads := b.reads ++ [{ r with tag := none, group := g }] })
    | some t =>
      let s := s.modBrg (fun b => { b with reads := b.reads ++ [{ r with tag := some t, group := g, since := s.now }] })
      (s.sendPkt g ⟨2, 0, true, true, false, 0, t, r.init, r.off, r.words, []⟩).showTags

/-- Reads that wait take the tags that have become free, the oldest first. -/
def State.remPump (s : State) : State :=
  let waits := s.brg.reads.filter (fun (r : RemRead) => r.tag.isNone)
  waits.foldl (fun s (r : RemRead) => match s.remTag with
    | none => s
    | some t =>
      let s := s.modBrg (fun b => { b with reads := b.reads.map (fun (q : RemRead) =>
        if q = r then { q with tag := some t, since := s.now } else q) })
      s.sendPkt r.group ⟨2, 0, true, true, false, 0, t, r.init, r.off, r.words, []⟩) s |>.showTags

/-- A remote read of up to 4,096 bytes: one tag for each 512 bytes (R420). -/
def doRemoteRead (i : Initiator) (off n : Nat) (s : State) : State :=
  if i.isHost && !s.fnServes i.code then (s.unsupported i.code).emit (.completion i.code 1 false [])
  else if i == .mc1 && !s.bit Reg.MGT_STATUS 10 then s
  else if !s.granted i 0 off false then s.refuse i 0 off false
  else if i.isHost && s.inBoot then s.emit (.completion i.code 0 false (List.replicate (4 * n) 0))
  else (List.range ((n + 127) / 128)).foldl (fun s k =>
    s.remIssue ⟨none, i.code, 3, off + 512 * k, min 128 (n - 128 * k), s.now⟩) s

def execRemoteReadIssue (i : Initiator) (off n : Nat) (s : State) : Host.Outcome State Fault Refusal :=
  answer s ((i == .pf3 || i == .mc0 || i == .mc1) && off % 4 == 0 && 0 < n && n ≤ (if i == .pf3 then 1024 else 1)
      && off + 4 * n ≤ 0x2000000)
    (doRemoteRead i off n s)

/-- A completion of a remote read (R420, R421): delivered, or discarded for a tag in quarantine; one for a tag that is neither is
malformed. -/
def doCpld (g : Nat) (s : State) : State :=
  match s.takeRx g 3 0 with
  | (s, none) => s
  | (s, some p) =>
    match s.brg.reads.find? (fun (r : RemRead) => r.tag == some p.tag) with
    | some r =>
      let s := s.modBrg (fun b => { b with reads := b.reads.filter (fun (q : RemRead) => q.tag != some p.tag) })
      (s.remDeliver r.init (p.spec0 % 256) p.ep p.payload).remPump
    | none =>
      if s.brg.quar.any (fun q => q.1 == p.tag) then
        (s.count Reg.BRG_LATE_CNT).setFld Reg.BRG_STATUS Fld.BRG_STATUS_LATE 1
      else s.markMalformed

def execCpldReceive (g : Nat) (s : State) : Host.Outcome State Fault Refusal := answer s (g < 3) (doCpld g s)

/-- A tag enters quarantine for twice the timeout now in force (R421). -/
def State.remQuarantine (s : State) (t : Nat) : State :=
  (s.modBrg (fun b => { b with quar := b.quar ++ [(t, s.now + 2 * s.rdTimeout)] })).showTags

/-- A remote read times out (R421): `t` is its tag, or none for the oldest read that waits for a tag. -/
def doReadTimeout (t : Option Nat) (s : State) : State :=
  match s.brg.reads.find? (fun (r : RemRead) => r.tag == t) with
  | none => s
  | some r =>
    if s.now < r.since + s.rdTimeout then s
    else
      let s := s.modBrg (fun b => { b with reads := b.reads.erase r })
      let s := ((s.count (Reg.BRG_CNTk 0)).setFld Reg.BRG_STATUS Fld.BRG_STATUS_RD_TO 1).remOnes r
      match t with
      | some t => s.remQuarantine t
      | none => s

def execRemoteReadTimeout (t : Option Nat) (s : State) : Host.Outcome State Fault Refusal :=
  answer s (t.all (fun t => decide (t < 256))) (doReadTimeout t s)

/-- A quarantine ends, and the tag may be used again (R421, R429). -/
def doTagQuarantineEnd (t : Nat) (s : State) : State :=
  let keep (q : Nat × Nat) : Bool := !(q.1 == t && decide (q.2 ≤ s.now))
  let s : State := { s with tunQuar := s.tunQuar.filter keep }
  (s.modBrg (fun b => { b with quar := b.quar.filter keep })).remPump

def execTagQuarantineEnd (t : Nat) (s : State) : Host.Outcome State Fault Refusal :=
  answer s (t < 256) (doTagQuarantineEnd t s)

/-- Reads outstanding on a group that leaves service complete with all ones, and their tags are quarantined (R422). -/
def State.remLost (s : State) (g : Nat) : State :=
  (s.brg.reads.filter (fun (r : RemRead) => r.group == g)).foldl (fun s (r : RemRead) =>
    let s := (s.modBrg (fun b => { b with reads := b.reads.erase r })).remNoPath r
    match r.tag with
    | some t => s.remQuarantine t
    | none => s) s

/-! ### Virtual wires and segmenter edges (R431 to R433, R148) -/

/-- The group that incoming wires come from (R432). -/
def State.wireGroup (s : State) : Option Nat :=
  match s.fld Reg.BRG_VW_CFG Fld.BRG_VW_CFG_IN_SRC with
  | 0 => some 0
  | 1 => some 1
  | 2 => some 2
  | _ => if s.fld Reg.GLB_ROLE Fld.GLB_ROLE_TOPOLOGY = 2 ∧ s.fld Reg.GLB_ROLE Fld.GLB_ROLE_ROLE = 2 then s.headLead else
      [0, 1].find? (fun g => s.hasPath g)

/-- The incoming wires take levels. -/
def State.setWires (s : State) (w : Nat) : State := { s with wires := w }.setReg Reg.BRG_VW_IN (BitVec.ofNat 32 w)

/-- A WIRES packet (R431): a wire that toggled and keeps its level first shows the other level, which its source samples. -/
def doWires (g : Nat) (s : State) : State :=
  match s.takeRx g 6 0 with
  | (s, none) => s
  | (s, some p) =>
    if s.wireGroup ≠ some g then s
    else
      let new := p.payload.getD 0 0 % 2 ^ 32
      let tog := p.payload.getD 1 0 % 2 ^ 32
      let pulse := Nat.land tog (Nat.xor (2 ^ 32 - 1) (Nat.xor new s.wires))
      let s := s.setWires (Nat.xor s.wires pulse)
      let s := (List.range 32).foldl (fun s w => if bitB pulse w then doLevelSample (256 + w) s else s) s
      s.setWires new

def execWiresReceive (g : Nat) (s : State) : Host.Outcome State Fault Refusal := answer s (g < 3) (doWires g s)

/-- A WIRES packet goes out every 10 µs without a change (R431). -/
def execWiresRefresh (g : Nat) (s : State) : Host.Outcome State Fault Refusal :=
  answer s (g < 3) (if s.brg.wiresAt.get g + 10000 ≤ s.now then s.sendWires g 0 else s)

/-- An EDGE message from the head lead gives a REMOTE segmenter its edge on receipt (R133, R148): a leading edge also while a document is
present, whose trailing edge was then lost on the link. A trailing edge without a document ends none (notes/assumptions/130.md). A
following device takes its edges from its lead. -/
def doEdge (g : Nat) (s : State) : State :=
  match s.takeRx g 6 3 with
  | (s, none) => s
  | (s, some p) =>
    let w (i : Nat) : Nat := p.payload.getD i 0
    let sg := w 0 % 4
    if s.fld (Reg.ST_SEGs_CFG sg) Fld.ST_SEGs_CFG_SRC ≠ 3 ∨ s.follows = true ∨ s.facesHeadLead g = false then s
    else if bitB (w 0) 8 then (s.declareLead sg (w 1) (w 2)).setReg (Reg.ST_SEGs_NEXT_DOC sg) (BitVec.ofNat 32 (w 2 + 1))
    else if s.present sg then s.declareTrail sg (w 1) else s

def execEdgeReceive (g : Nat) (s : State) : Host.Outcome State Fault Refusal := answer s (g < 2) (doEdge g s)

/-! ### Tunnelled lines (R427, R514) -/

/-- The oldest CSI item that group `g` has received is taken: one from the head lead's group is delivered unless it was already;
one from the other group is kept, until 256 KiB are. -/
def doTunCsi (g : Nat) (s : State) : State :=
  match (s.grp.get g).rx.find? (fun p => p.cls == 4) with
  | none => s
  | some p0 =>
    let t := 32 + p0.spec0 % 32
    let x := s.relay.get t
    let lead := s.facesHeadLead g
    if p0.typ ≠ 0 ∨ (lead = false ∧ 262144 ≤ x.size) then s
    else match s.takeItem g 4 0 with
      | (s, none) => s
      | (s, some (_, words)) =>
        let id := words.take 2
        if x.seen.contains (0, id) then { s with relay := s.relay.set t { x with seen := x.seen.erase (0, id) } }
        else if lead then
          let had := x.kept.any (fun k => k.2.1 == id)
          let other := s.fld Reg.GLB_ROLE Fld.GLB_ROLE_TOPOLOGY == 2
          let x' : RelaySt := if had then { x with kept := x.kept.filter (fun k => k.2.1 != id) }
            else if other then { x with seen := x.seen ++ [(0, id)] } else x
          { s with relay := s.relay.set t x' }.tunnelLine (p0.spec0 % 32) words
        else { s with relay := s.relay.set t { x with kept := x.kept ++ [(0, id, words)] } }

def execTunCsiReceive (g : Nat) (s : State) : Host.Outcome State Fault Refusal := answer s (g < 2) (doTunCsi g s)

end Sys2Proof.Machine
end

