-- ==== Sys2Proof/Machine/TwoWire.lean ====
section
/-! DEFINITION. The two-wire controllers TW0 to TW7, their tunnelled and twin-mirrored transactions, and the board target TW8's
violations and alerts (spec/17, R428, R429). What happens on the bus itself comes with the commands. -/

namespace Sys2Proof.Machine

/-- A controller's state changed by `f`. -/
def State.modTw (s : State) (k : Nat) (f : TwSt → TwSt) : State := { s with tw := s.tw.modify k f }

/-- The two-wire balls are high-impedance: the device has released its shared balls (R435, R508). -/
def State.twDark (s : State) : Bool := s.dark

/-- A controller that runs in step with the partner's (R451). -/
def State.twMirrored (s : State) (k : Nat) : Bool :=
  s.on (Reg.TWk_CFG k) Fld.TWk_CFG_MIRROR && s.on Reg.GLB_ROLE Fld.GLB_ROLE_PAIRED

/-- A mirrored controller of a device that does not lead. -/
def State.twShadow (s : State) (k : Nat) : Bool := s.twMirrored k && s.shadowLike

/-- The stretch limit in ns (R442). -/
def State.stretch (s : State) (k : Nat) : Nat := 100000 * max 1 (s.fld (Reg.TWk_CFG k) Fld.TWk_CFG_STRETCH)

/-- The result word of TWk_RES without VALID. -/
def TwRes.word (r : TwRes) : Nat :=
  r.code % 16 + r.tag % 16 * 2 ^ 4 + r.wcnt % 128 * 2 ^ 8 + r.data.length % 128 * 2 ^ 16 + r.bitpos % 32 * 2 ^ 24

/-- The registers that show a controller's queue, results and alert log. -/
def State.showTw (s : State) (k : Nat) : State :=
  let x := s.tw.get k
  let st := Reg.TWk_STATUS k
  let s := s.setFld st Fld.TWk_STATUS_BUSY (b2n (x.cur.isSome && x.live))
  let s := s.setFld st Fld.TWk_STATUS_QLEVEL (x.queue.filter (fun (e : TwEntry) => !e.ara)).length
  let s := s.setFld st Fld.TWk_STATUS_RLEVEL (min 16 x.results.length)
  let s := s.setReg (Reg.TWk_RES k) (BitVec.ofNat 32 (match x.results with
    | r :: _ => TwRes.word r + 2 ^ 31
    | [] => 0))
  s.setReg (Reg.TWk_ALERT k) (BitVec.ofNat 32 (match x.alerts with
    | a :: _ => a % 128 + x.alerts.length * 2 ^ 8 + 2 ^ 31
    | [] => 0))

def State.twCount (s : State) (k j : Nat) : State := s.count (Reg.TWk_CNTj k j)

def State.twEvent (s : State) (k : Nat) (f : Fld) : State := s.setFld (Reg.TWk_STATUS k) f 1

/-! ### Results (R428, R440, R453) -/

/-- A TW_RSP travels back (R428). -/
def State.twRespond (s : State) (g tag code wcnt bitpos : Nat) (data : List Nat) : State :=
  s.sendItem g 4 2 tag 0 0 (leNat [code, wcnt, data.length, bitpos] :: (chunks 4 data.length data).map leNat)

/-- A result takes its place: in the FIFO, or for a tunnelled entry in a TW_RSP. A result that finds the FIFO full waits
behind it. -/
def State.twDeliver (s : State) (k : Nat) (e : TwEntry) (r : TwRes) : State :=
  if e.ara then s
  else match e.tun with
    | some (g, tag) => if s.leads || !s.twMirrored k then s.twRespond g tag r.code r.wcnt r.bitpos r.data else s
    | none =>
      let fresh := (s.tw.get k).results.isEmpty
      ((s.modTw k (fun x => { x with results := x.results ++ [r], rpos := if fresh then 0 else x.rpos })).twEvent k
        Fld.TWk_STATUS_DONE).showTw k

/-- The shadow compares its results with the lead's, in order; the lead's result is the one that counts (R453). -/
def State.twCompare (s : State) (k : Nat) : Nat → State
  | 0 => s
  | fuel + 1 =>
    let x := s.tw.get k
    match x.own, x.lead with
    | (e, r) :: own, l :: lead =>
      let s := s.modTw k (fun x => { x with own := own, lead := lead })
      let same := r.code == l.code && r.wcnt == l.wcnt && r.data == l.data
      let s := if same then s else (s.twEvent k Fld.TWk_STATUS_TWIN_DIFF).raiseError 54 0
      State.twCompare (s.twDeliver k e l) k fuel
    | _, _ => s

/-- An entry ends with a result: it is counted, and the result goes where it belongs. -/
def State.twFinish (s : State) (k : Nat) (e : TwEntry) (r : TwRes) : State :=
  let s := if e.ara then s else s.twCount k 0
  let s := if r.code ≠ 0 ∧ e.ara = false then s.twEvent k Fld.TWk_STATUS_ERR else s
  let s := if r.code = 1 ∨ r.code = 2 then s.twCount k 1 else s
  if s.twShadow k then
    (s.modTw k (fun x => { x with own := x.own ++ [(e, r)] })).twCompare k 32
  else
    let s := if s.twMirrored k && s.leadsPair then
        s.toPartner 5 ((k + 32 + b2n e.ara * 2 ^ 8) :: TwRes.word r :: (chunks 4 r.data.length r.data).map leNat)
      else s
    s.twDeliver k e r

/-- The entry in progress ends. -/
def State.twEnd (s : State) (k code wcnt bitpos : Nat) (data : List Nat) : State :=
  match (s.tw.get k).cur with
  | none => s
  | some e =>
    let s := s.modTw k (fun x => { x with cur := none, live := false, araLast := e.ara })
    (s.twFinish k e ⟨code, e.tag, min wcnt e.wdata.length, bitpos, data.take e.rlen⟩).showTw k

/-! ### The stuck state and the bus clear (R443, R444) -/

/-- In the stuck state every entry ends with BUS_STUCK at once, in queue order. -/
def State.twDrain (s : State) (k : Nat) : Nat → State
  | 0 => s
  | fuel + 1 =>
    let x := s.tw.get k
    if !s.on (Reg.TWk_STATUS k) Fld.TWk_STATUS_IN_STUCK then s
    else match x.queue with
      | [] => s
      | e :: q =>
        if e.tun.isNone && decide (16 ≤ x.results.length) then s
        else
          let s := s.modTw k (fun x => { x with queue := q })
          State.twDrain ((s.twFinish k e ⟨6, e.tag, 0, 0, []⟩).showTw k) k fuel

/-- The controller enters the stuck state. -/
def State.twStuck (s : State) (k : Nat) : State :=
  let s := (s.twEvent k Fld.TWk_STATUS_STUCK).setFld (Reg.TWk_STATUS k) Fld.TWk_STATUS_IN_STUCK 1
  let s := (s.raiseError 46 k).twEnd k 6 0 0 []
  s.twDrain k 32

/-- A bus clear: up to nine pulses, until SDA reads high, then a STOP; otherwise the stuck state. -/
def State.twClear (s : State) (k : Nat) (clr : Option Nat) : State :=
  let s := (s.modTw k (fun x => { x with clearDue := false })).twCount k 5
  let s := s.setFld (Reg.TWk_STATUS k) Fld.TWk_STATUS_BUS_FREE 0
  match clr with
  | some n => ((s.emit (.bus k "CLEAR" [n])).emit (.bus k "STOP" [])).setFld (Reg.TWk_STATUS k) Fld.TWk_STATUS_IN_STUCK 0
  | none => (s.emit (.bus k "CLEAR" [9])).twStuck k

/-- The entry in progress ends at the next bit boundary with BUS_ERR (R441, R443). How far it had come is free. -/
def State.twAbort (s : State) (k : Nat) : State :=
  match (s.tw.get k).cur with
  | none => s
  | some e =>
    if (s.tw.get k).live then
      let w := Config.nat s.free % (e.wdata.length + 1)
      let r := if w = e.wdata.length then Config.nat (s.free + 1) % (e.rlen + 1) else 0
      let data := (List.range r).map (fun i => (Config.byte (s.free + 2 + i)).toNat)
      { s with free := s.free + 2 + r }.twEnd k 5 w 0 data
    else s.twEnd k 5 0 0 []

/-! ### Software's registers (R438, R441, R450) -/

/-- TWk_WDATA stages 4 bytes (R438). -/
def State.twStage (s : State) (k : Nat) (data : Word) : State :=
  s.modTw k (fun x => { x with stage := (x.stage ++ leBytes 4 data.toNat).take 64 })

/-- The staging buffer is empty again. -/
def State.twUnstage (s : State) (k : Nat) : State := s.modTw k (fun x => { x with stage := [] })

/-- An entry of controller `k` in a message (R451). -/
def TwEntry.words (e : TwEntry) (k : Nat) : List Nat :=
  let t := match e.tun with
    | some (g, tag) => 1 + g % 4 * 2 + tag % 16 * 2 ^ 3
    | none => 0
  (k + b2n e.ara * 2 ^ 8 + b2n e.rs * 2 ^ 9 + t * 2 ^ 10)
    :: (e.addr % 128 + e.wdata.length * 2 ^ 8 + e.rlen * 2 ^ 16 + e.tag % 16 * 2 ^ 28)
    :: (chunks 4 e.wdata.length e.wdata).map leNat

/-- The lead pushes an entry to the shadow (R451). -/
def State.twShare (s : State) (k : Nat) (e : TwEntry) : State :=
  if s.twMirrored k && s.leadsPair then s.toPartner 5 (TwEntry.words e k) else s

/-- An entry joins the queue; in the stuck state it ends at once. -/
def State.twAccept (s : State) (k : Nat) (e : TwEntry) : State :=
  let s := (s.modTw k (fun x => { x with queue := x.queue ++ [e] })).twShare k e
  (s.showTw k).twDrain k 32

/-- TWk_QCMD pushes an entry (R437, R438, R451). -/
def State.twPush (s : State) (k : Nat) (data : Word) : State :=
  let x := s.tw.get k
  let wlen := min 64 (Fld.TWk_QCMD_WLEN.get data)
  let e : TwEntry := ⟨Fld.TWk_QCMD_ADDR.get data, (x.stage ++ List.replicate wlen 0).take wlen,
    min 64 (Fld.TWk_QCMD_RLEN.get data), Fld.TWk_QCMD_RS.get data == 1, Fld.TWk_QCMD_TAG.get data, false, none, none, 0⟩
  let s := s.twUnstage k
  if s.on (Reg.TWk_CFG k) Fld.TWk_CFG_OWNER then s.conflict 0x0C k 2
  else if s.twShadow k then s.twCount k 7
  else if 16 ≤ (x.queue.filter (fun (e : TwEntry) => !e.ara)).length then
    (s.twEvent k Fld.TWk_STATUS_QOVF).twCount k 7
  else s.twAccept k e

/-- CTRL.POP (R441). -/
def State.twPop (s : State) (k : Nat) : State :=
  let s := s.modTw k (fun x => { x with results := x.results.drop 1, rpos := 0 })
  (s.showTw k).twDrain k 32

/-- CTRL.CLEAR (R443). -/
def State.twClearCmd (s : State) (k : Nat) (clr : Option Nat) : State :=
  if s.twDark then s else (s.twAbort k).twClear k clr

/-- CTRL.FLUSH (R441): a STOP releases the bus that the controller still holds. -/
def State.twFlush (s : State) (k : Nat) : State :=
  let q := (s.tw.get k).queue
  let s := if (s.tw.get k).live && !s.twDark then s.emit (.bus k "STOP" []) else s
  let s := (s.twAbort k).modTw k (fun x => { x with queue := [], stage := [] })
  (q.foldl (fun s (e : TwEntry) => s.twFinish k e ⟨5, e.tag, 0, 0, []⟩) s).showTw k

/-- CTRL.ALERT_POP (R450). -/
def State.twAlertPop (s : State) (k : Nat) : State :=
  (s.modTw k (fun x => { x with alerts := x.alerts.drop 1 })).showTw k

/-- A write of TWk_CTRL: what each bit asks for. -/
def State.twCtrl (s : State) (k : Nat) (data : Word) (clr : Option Nat) : State :=
  let s := if Fld.TWk_CTRL_POP.get data = 1 then s.twPop k else s
  let s := if Fld.TWk_CTRL_CLEAR.get data = 1 then s.twClearCmd k clr else s
  let s := if Fld.TWk_CTRL_FLUSH.get data = 1 then s.twFlush k else s
  if Fld.TWk_CTRL_ALERT_POP.get data = 1 then s.twAlertPop k else s

/-- A write of TWk_CTRL where the command does not say how a bus clear ends: that is free. -/
def State.twCtrlFree (s : State) (k : Nat) (data : Word) : State :=
  let n := Config.nat s.free % 10
  s.draw.twCtrl k data (if n = 0 then none else some n)

def execTwWdata (i : Initiator) (k : Nat) (data : Word) (s : State) : Host.Outcome State Fault Refusal :=
  answer s (k < 8) (s.swWrite i (Reg.TWk_WDATA k) data (fun s => s.twStage k data))

def execTwQcmd (i : Initiator) (k : Nat) (data : Word) (s : State) : Host.Outcome State Fault Refusal :=
  answer s (k < 8) (s.swWrite i (Reg.TWk_QCMD k) data (fun s => s.twPush k data))

/-- How a bus clear can end: at one of nine pulses, or not. -/
def clrOk (clr : Option Nat) : Bool := clr.all (fun n => decide (1 ≤ n) && decide (n ≤ 9))

def execTwPop (i : Initiator) (k : Nat) (data : Word) (clr : Option Nat) (s : State) : Host.Outcome State Fault Refusal :=
  answer s (k < 8 && clrOk clr) (s.swWrite i (Reg.TWk_CTRL k) data (fun s => s.twCtrl k data clr))

def execTwClear (i : Initiator) (k : Nat) (data : Word) (clr : Option Nat) (s : State) : Host.Outcome State Fault Refusal :=
  answer s (k < 8 && clrOk clr) (s.swWrite i (Reg.TWk_CTRL k) data (fun s => s.twCtrl k data clr))

def execTwFlush (i : Initiator) (k : Nat) (data : Word) (clr : Option Nat) (s : State) : Host.Outcome State Fault Refusal :=
  answer s (k < 8 && clrOk clr) (s.swWrite i (Reg.TWk_CTRL k) data (fun s => s.twCtrl k data clr))

def execTwAlertPop (i : Initiator) (k : Nat) (data : Word) (clr : Option Nat) (s : State) : Host.Outcome State Fault Refusal :=
  answer s (k < 8 && clrOk clr) (s.swWrite i (Reg.TWk_CTRL k) data (fun s => s.twCtrl k data clr))

/-- A read of TWk_RDATA returns the next 4 read bytes of the oldest result (R441). -/
def State.twRdata (s : State) (k : Nat) : State × Word :=
  let x := s.tw.get k
  match x.results with
  | [] => (s, 0)
  | r :: _ => (s.modTw k (fun x => { x with rpos := x.rpos + 4 }), BitVec.ofNat 32 (leNat ((r.data.drop x.rpos).take 4)))

def execTwRdataRead (i : Initiator) (k : Nat) (s : State) : Host.Outcome State Fault Refusal :=
  answer s (k < 8) (s.swRead i (Reg.TWk_RDATA k) (fun s => s.twRdata k))

/-! ### Entries on the bus (R436, R439, R442 to R448, R452) -/

/-- The first byte that an entry sends. -/
def TwEntry.firstByte (e : TwEntry) : Nat := 2 * e.addr + b2n (e.wdata = [] && e.rlen != 0)

/-- An entry begins with START. -/
def State.twStart (s : State) (k : Nat) (e : TwEntry) : State :=
  let s := s.modTw k (fun x => { x with cur := some e, live := true, araLast := false })
  ((s.setFld (Reg.TWk_STATUS k) Fld.TWk_STATUS_BUS_FREE 0).emit (.bus k "START" [TwEntry.firstByte e])).showTw k

/-- t_BUF in ns (R436). -/
def State.tBuf (s : State) (k : Nat) : Nat :=
  match s.fld (Reg.TWk_CFG k) Fld.TWk_CFG_SPEED with
  | 0 => 4700 | 1 => 1300 | _ => 500

/-- An automatic Alert Response Address read is due (R449, R450). -/
def State.araWants (s : State) (k : Nat) : Bool :=
  s.on (Reg.TWk_CFG k) Fld.TWk_CFG_ARA_AUTO && s.on (Reg.TWk_STATUS k) Fld.TWk_STATUS_ALERT_LEVEL
    && !(s.tw.get k).araOff

/-- Whether the controller would begin or repeat an entry: one waits for its retry, or the queue has one that may go. -/
def State.twReady (s : State) (k : Nat) : Bool :=
  let x := s.tw.get k
  !x.live && (x.cur.isSome || match x.queue with
    | [] => false
    | e :: _ => e.ara || ((e.tun.isSome || decide (x.results.length < 16)) && (x.araLast || !s.araWants k)))

/-- The controller looks at its bus (R436, R443, R446, R452): it clears a jammed bus, or begins its next entry once the bus is
free. A mirrored entry of the lead takes a start time 1 µs ahead instead. -/
def doEntryStart (k : Nat) (stopFor : Option Nat) (highFor : Nat) (jam : Option (Option Nat)) (s : State) : State :=
  let x := s.tw.get k
  if s.twDark || x.live then s
  else match jam with
    | some clr => if !s.on (Reg.TWk_STATUS k) Fld.TWk_STATUS_IN_STUCK && (x.clearDue || (s.twReady k && !s.twShadow k)) then s.twClear k clr
        else s.setFld (Reg.TWk_STATUS k) Fld.TWk_STATUS_BUS_FREE 0
    | none =>
      let free := decide (50000 ≤ highFor) || stopFor.any (fun n => decide (s.tBuf k ≤ n))
      let s := s.setFld (Reg.TWk_STATUS k) Fld.TWk_STATUS_BUS_FREE (b2n free)
      if !free || x.clearDue || s.on (Reg.TWk_STATUS k) Fld.TWk_STATUS_IN_STUCK || !s.twReady k || s.twShadow k then s
      else match x.cur, x.queue with
        | some e, _ => s.twStart k e
        | none, [] => s
        | none, e :: q =>
          if s.twMirrored k then
            if !s.leads || e.start.isSome then s
            else
              let t := (s.invar + 1000) % 2 ^ 64
              let s := s.modTw k (fun x => { x with queue := { e with start := some t } :: q })
              if s.leadsPair then s.toPartner 5 [k + 16, t % 2 ^ 32, t / 2 ^ 32] else s
          else (s.modTw k (fun x => { x with queue := q })).twStart k e

def execTwEntryStart (k : Nat) (stopFor : Option Nat) (highFor : Nat) (jam : Option (Option Nat)) (s : State) :
    Host.Outcome State Fault Refusal :=
  answer s (k < 8 && jam.all clrOk) (doEntryStart k stopFor highFor jam s)

/-- At the start time a mirrored entry starts where the bus is still free, and waits for a new time otherwise (R452). -/
def doMirrorStart (k : Nat) (busFree : Bool) (s : State) : State :=
  let x := s.tw.get k
  if s.twDark || x.cur.isSome || s.twinState == 6 then s
  else match x.queue with
    | [] => s
    | e :: q => match e.start with
      | none => s
      | some t =>
        if s.invar < t then s
        else if busFree then (s.modTw k (fun x => { x with queue := q })).twStart k { e with start := none }
        else s.modTw k (fun x => { x with queue := { e with start := none } :: q })

def execTwMirrorStart (k : Nat) (busFree : Bool) (s : State) : Host.Outcome State Fault Refusal :=
  answer s (k < 8) (doMirrorStart k busFree s)

/-- What an entry read: the bytes the target sent, ones where it sent none. -/
def TwEntry.got (e : TwEntry) (read : List Nat) : List Nat :=
  ((read.map (· % 256)) ++ List.replicate e.rlen 255).take e.rlen

/-- What an entry drives before its last STOP (R439), where byte `nackAt` (0 the address) is not acknowledged: its bytes, and between a written
and a read phase a repeated START or a STOP and a START. -/
def State.twSend (s : State) (k : Nat) (e : TwEntry) (nackAt : Option Nat) : State :=
  let n := e.wdata.length
  let sent := nackAt.elim n (fun j => min j n)
  let s := s.emit (.bus k "SENT" (TwEntry.firstByte e :: e.wdata.take sent))
  if n = 0 ∨ e.rlen = 0 ∨ nackAt.any (fun j => decide (j ≤ n)) = true then s
  else if e.rs then s.emit (.bus k "RESTART" [2 * e.addr + 1])
  else (s.emit (.bus k "STOP" [])).emit (.bus k "START" [2 * e.addr + 1])

/-- The entry on the bus runs to its STOP (R439). -/
def doEntryEnd (k : Nat) (nackAt : Option Nat) (read : List Nat) (s : State) : State :=
  let x := s.tw.get k
  match x.cur with
  | none => s
  | some e =>
    if !x.live || e.ara || s.twDark then s
    else
      let n := e.wdata.length
      let s := (s.twSend k e nackAt).emit (.bus k "STOP" [])
      match nackAt with
      | none => s.twEnd k 0 n 0 (TwEntry.got e read)
      | some 0 => s.twEnd k 1 0 0 []
      | some j =>
        if j ≤ n then s.twEnd k 2 (j - 1) 0 []
        else if e.rlen ≠ 0 ∧ n ≠ 0 then s.twEnd k 1 n 0 []
        else s.twEnd k 0 n 0 (TwEntry.got e read)

def execTwEntryEnd (k : Nat) (nackAt : Option Nat) (read : List Nat) (s : State) : Host.Outcome State Fault Refusal :=
  answer s (k < 8) (doEntryEnd k nackAt read s)

/-- An entry that is on the bus of a device that drives it. -/
def State.twLive (s : State) (k : Nat) : Bool := (s.tw.get k).live && (s.tw.get k).cur.isSome && !s.twDark

/-- The controller lets go of the bus. -/
def State.twRelease (s : State) (k : Nat) : State := s.emit (.bus k "RELEASE" [])

/-- Arbitration lost on a bit (R445): the entry is repeated while retries remain, and a mirrored one never (R446). -/
def doArbLost (k bitpos wcnt : Nat) (read : List Nat) (s : State) : State :=
  if !s.twLive k then s
  else
    let s := ((s.twRelease k).twEvent k Fld.TWk_STATUS_ARB).twCount k 2
    match (s.tw.get k).cur with
    | none => s
    | some e =>
      if !s.twMirrored k && decide (e.tries < s.fld (Reg.TWk_CFG k) Fld.TWk_CFG_RETRIES) then
        (s.modTw k (fun x => { x with cur := some { e with tries := e.tries + 1 }, live := false })).showTw k
      else s.twEnd k 3 wcnt bitpos read

def execTwArbLost (k bitpos wcnt : Nat) (read : List Nat) (s : State) : Host.Outcome State Fault Refusal :=
  answer s (k < 8 && bitpos < 32) (doArbLost k bitpos wcnt read s)

/-- Arbitration lost at a STOP or a repeated START (R447). -/
def execTwArbLostSp (k wcnt : Nat) (read : List Nat) (s : State) : Host.Outcome State Fault Refusal :=
  answer s (k < 8) (if s.twLive k then (((s.twRelease k).twCount k 3).twEnd k 4 wcnt 0 read) else s)

/-- An unexpected START or STOP (R448). -/
def execTwBusError (k wcnt : Nat) (read : List Nat) (s : State) : Host.Outcome State Fault Refusal :=
  answer s (k < 8) (if s.twLive k then (((s.twRelease k).twCount k 4).twEnd k 5 wcnt 0 read) else s)

/-- The stretch limit expires (R442): the bus is cleared once SCL is high. -/
def doStretch (k wcnt : Nat) (read : List Nat) (high : Bool) (clr : Option Nat) (s : State) : State :=
  if !s.twLive k then s
  else
    let s := (s.twRelease k).twEnd k 7 wcnt 0 read
    if high then s.twClear k clr else s.modTw k (fun x => { x with clearDue := true })

def execTwStretchTimeout (k wcnt : Nat) (read : List Nat) (high : Bool) (clr : Option Nat) (s : State) :
    Host.Outcome State Fault Refusal :=
  answer s (k < 8 && clrOk clr) (doStretch k wcnt read high clr s)

/-- SCL is still low at twice the limit (R442). -/
def execTwSclStuckLimit (k : Nat) (s : State) : Host.Outcome State Fault Refusal :=
  answer s (k < 8)
    (if (s.tw.get k).clearDue && !s.twDark then (s.modTw k (fun x => { x with clearDue := false })).twStuck k else s)

/-! ### Alerts (R449, R450) -/

def execTwAlertLow (k : Nat) (s : State) : Host.Outcome State Fault Refusal :=
  answer s (k < 8) (s.setFld (Reg.TWk_STATUS k) Fld.TWk_STATUS_ALERT_LEVEL 1)

/-- ALERT_N high ends the level; automatic reads come back after 1 µs. -/
def execTwAlertRelease (k ns : Nat) (s : State) : Host.Outcome State Fault Refusal :=
  answer s (k < 8)
    (let s := s.setFld (Reg.TWk_STATUS k) Fld.TWk_STATUS_ALERT_LEVEL 0
     if 1000 ≤ ns then s.modTw k (fun x => { x with araOff := false }) else s)

/-- The answer to an Alert Response Address read is logged; a read that nobody answers while the line is low stops them. -/
def State.araResult (s : State) (k : Nat) (ans : Option Nat) : State :=
  match ans with
  | none =>
    if s.on (Reg.TWk_STATUS k) Fld.TWk_STATUS_ALERT_LEVEL then
      (s.modTw k (fun x => { x with araOff := true })).twEvent k Fld.TWk_STATUS_ALERT_STUCK
    else s
  | some b =>
    let s := s.twCount k 6
    if 8 ≤ (s.tw.get k).alerts.length then s
    else ((s.modTw k (fun x => { x with alerts := x.alerts ++ [b / 2 % 128] })).twEvent k Fld.TWk_STATUS_ALERT).showTw k

/-- The entry of an Alert Response Address read. -/
def araEntry : TwEntry := ⟨0x0C, [], 1, false, 0, true, none, none, 0⟩

/-- An Alert Response Address read (R449 to R451). On a mirrored controller the lead first queues it as a mirrored entry, and the
same command then ends it on either twin. -/
def doAraRead (k : Nat) (ans : Option Nat) (lost : Bool) (s : State) : State :=
  let x := s.tw.get k
  if s.twDark then s
  else match x.cur with
    | some e =>
      if !(x.live && e.ara) then s
      else if lost then
        (((s.twRelease k).twEvent k Fld.TWk_STATUS_ARB).twCount k 2).twEnd k 3 0 0 []
      else match ans with
        | none => (s.araResult k none).twEnd k 1 0 0 []
        | some b => (s.araResult k ans).twEnd k 0 0 0 [b]
    | none =>
      let may := s.araWants k && !s.on (Reg.TWk_STATUS k) Fld.TWk_STATUS_IN_STUCK
        && !(x.araLast && s.twReady k) && !x.queue.any (fun (e : TwEntry) => e.ara)
      if !may || s.twShadow k then s
      else if s.twMirrored k then
        if s.leads then (s.modTw k (fun x => { x with queue := araEntry :: x.queue })).twShare k araEntry else s
      else
        let s := (s.modTw k (fun x => { x with araLast := true })).emit (.bus k "START" [0x19])
        if lost then ((s.twRelease k).twEvent k Fld.TWk_STATUS_ARB).twCount k 2
        else (s.emit (.bus k "STOP" [])).araResult k ans

def execTwAraRead (k : Nat) (ans : Option Nat) (lost : Bool) (s : State) : Host.Outcome State Fault Refusal :=
  answer s (k < 8) (doAraRead k ans lost s)

/-! ### Twin-mirrored transactions (R451 to R454) -/

/-- An entry as the lead sent it. -/
def twEntryOf (w : Nat → Nat) (words : List Nat) : TwEntry :=
  let c := w 1
  let t := w 0 / 2 ^ 10
  ⟨c % 128, ((words.drop 2).flatMap (leBytes 4)).take (c / 2 ^ 8 % 128), c / 2 ^ 16 % 128, bitB (w 0) 9, c / 2 ^ 28 % 16,
    bitB (w 0) 8, if bitB t 0 then some (t / 2 % 4, t / 8 % 16) else none, none, 0⟩

/-- A mirrored entry, start time or result arrives. A result for an entry that the shadow has not begun takes that entry out of its
queue. -/
def doTwinTw (s : State) : State :=
  match s.takeItem 2 7 5 with
  | (s, none) => s
  | (s, some (_, words)) =>
    let w (i : Nat) : Nat := words.getD i 0
    let k := w 0 % 8
    let x := s.tw.get k
    if !s.follows || !s.twMirrored k then s
    else match w 0 / 16 % 4 with
      | 0 =>
        let e := twEntryOf w words
        (s.modTw k (fun x => { x with queue := if e.ara then e :: x.queue else x.queue ++ [e] })).showTw k
      | 1 => s.modTw k (fun x => { x with queue := match x.queue with
          | e :: q => { e with start := some (w 1 + w 2 * 2 ^ 32) } :: q
          | [] => [] })
      | _ =>
        let c := w 1
        let r : TwRes := ⟨c % 16, c / 2 ^ 4 % 16, c / 2 ^ 8 % 128, c / 2 ^ 24 % 32,
          ((words.drop 2).flatMap (leBytes 4)).take (c / 2 ^ 16 % 128)⟩
        match x.own.isEmpty && x.cur.isNone, x.queue with
        | true, e :: q => ((s.modTw k (fun x => { x with queue := q })).twDeliver k e r).showTw k
        | _, _ => (s.modTw k (fun x => { x with lead := x.lead ++ [r] })).twCompare k 32

def execTwinTwReceive (s : State) : Host.Outcome State Fault Refusal := answer s true (doTwinTw s)

/-- On a takeover the new lead goes on with the entry in progress and its queue; its own results stand (R454). -/
def State.twTakeover (s : State) (k : Nat) : State :=
  let own := (s.tw.get k).own
  let s := s.modTw k (fun x => { x with own := [], lead := [] })
  (own.foldl (fun s (p : TwEntry × TwRes) => s.twDeliver k p.1 p.2) s).showTw k

/-! ### Tunnelled transactions (R428, R429) -/

/-- A TW_REQ joins the far controller's queue; a full queue leaves it in the receiver's buffer. -/
def doTwReq (g : Nat) (s : State) : State :=
  match (s.grp.get g).rx.find? (fun p => p.cls == 4) with
  | none => s
  | some p0 =>
    let b := p0.payload.flatMap (leBytes 4)
    let k := b.getD 0 0 % 8
    let own := s.on (Reg.TWk_CFG k) Fld.TWk_CFG_OWNER
    if p0.typ ≠ 1 ∨ (own = true ∧ s.twShadow k = false ∧ 16 ≤ (s.tw.get k).queue.length) then s
    else match s.takeItem g 4 1 with
      | (s, none) => s
      | (s, some (p, _)) =>
        if !own then s.twRespond g p.tag 9 0 0 []
        else if s.twShadow k then s
        else
          let wl := min 64 (b.getD 2 0)
          s.twAccept k ⟨b.getD 1 0 % 128, (b.drop 8 ++ List.replicate wl 0).take wl, min 64 (b.getD 3 0),
            bitB (b.getD 4 0) 0, p.tag % 16, false, some (g, p.tag), none, 0⟩

def execTwReqReceive (g : Nat) (s : State) : Host.Outcome State Fault Refusal := answer s (g < 3) (doTwReq g s)

/-- A transaction ends towards whoever asked for it: status, bytes written and read, bit position, read bytes. -/
def State.tunEnd (s : State) (tag : Nat) (bytes : List Nat) : State :=
  { s with tun := s.tun.filter (fun (t : TunTx) => t.tag != tag) }.emit (.bus tag "TW_RSP" bytes)

/-- A TW_RSP completes its transaction; one for a tag in quarantine is discarded (R429). -/
def doTwRsp (g : Nat) (s : State) : State :=
  match s.takeItem g 4 2 with
  | (s, none) => s
  | (s, some (p, words)) =>
    let b := words.flatMap (leBytes 4)
    if s.tun.any (fun (t : TunTx) => t.tag == p.tag) then s.tunEnd p.tag (b.take (4 + b.getD 2 0))
    else if s.tunQuar.any (fun q => q.1 == p.tag) then
      (s.count Reg.BRG_LATE_CNT).setFld Reg.BRG_STATUS Fld.BRG_STATUS_LATE 1
    else s.markMalformed

def execTwRspReceive (g : Nat) (s : State) : Host.Outcome State Fault Refusal := answer s (g < 3) (doTwRsp g s)

/-- The tunnel timeout in ns (R429). -/
def State.tunTimeout (s : State) : Nat :=
  1000000 * min 10000 (max 1 (s.fld Reg.BRG_TUN_TIMEOUT Fld.BRG_TUN_TIMEOUT_MS))

/-- A transaction without a response ends with TIMEOUT, and its tag is quarantined (R429). -/
def doTunTimeout (t : Nat) (s : State) : State :=
  match s.tun.find? (fun (x : TunTx) => x.tag == t) with
  | none => s
  | some x =>
    if s.now < x.since + s.tunTimeout then s
    else
      let s := (s.tunEnd t [7, 0, 0, 0]).count (Reg.BRG_CNTk 6)
      { s with tunQuar := s.tunQuar ++ [(t, s.now + 2 * s.tunTimeout)] }.setFld Reg.BRG_STATUS Fld.BRG_STATUS_TUN_TO 1

def execTunTimeout (t : Nat) (s : State) : Host.Outcome State Fault Refusal := answer s (t < 16) (doTunTimeout t s)

/-- Transactions on a group that leaves service end with LINK_LOST (R429). -/
def State.tunLost (s : State) (g : Nat) : State :=
  (s.tun.filter (fun (t : TunTx) => t.group == g)).foldl (fun s (t : TunTx) => s.tunEnd t.tag [8, 0, 0, 0]) s

/-! ### TW8 (R458, R459) -/

/-- TGT_ALERT_N is low while ALERT is 1. -/
def State.tgtAlert (s : State) (v : Bool) : State :=
  let old := s.on Reg.TW8_CTRL Fld.TW8_CTRL_ALERT
  let s := s.setFld Reg.TW8_CTRL Fld.TW8_CTRL_ALERT (b2n v)
  if old = v then s else s.emit (.pin "TGT_ALERT_N" 0 (b2n (!v)))

/-- A write of TW8_CTRL: ALERT_CANCEL wins (R459). -/
def State.tw8Ctrl (s : State) (data : Word) : State :=
  if Fld.TW8_CTRL_ALERT_CANCEL.get data = 1 then s.tgtAlert false
  else if Fld.TW8_CTRL_ALERT.get data = 1 then s.tgtAlert true
  else s

def execTw8Alert (i : Initiator) (data : Word) (s : State) : Host.Outcome State Fault Refusal :=
  answer s true (s.swWrite i Reg.TW8_CTRL data (fun s => s.tw8Ctrl data))

def execTw8AlertCancel (i : Initiator) (data : Word) (s : State) : Host.Outcome State Fault Refusal :=
  answer s true (s.swWrite i Reg.TW8_CTRL data (fun s => s.tw8Ctrl data))

/-- TW8 takes part in transfers: it is enabled and its balls are not released (R435, R455). -/
def State.tw8On (s : State) : Bool := s.on Reg.TW8_CFG Fld.TW8_CFG_EN && !s.twDark

/-- TW8 answers the Alert Response Address with its address, and then lets the line go (R459). -/
def execTw8AraAnswer (lost : Bool) (s : State) : Host.Outcome State Fault Refusal :=
  answer s true
    (if s.tw8On && s.on Reg.TW8_CTRL Fld.TW8_CTRL_ALERT && !lost then
      (s.emit (.bus 8 "ARA" [2 * s.fld Reg.TW8_CFG Fld.TW8_CFG_ADDR])).tgtAlert false
    else s)

/-- A START in an acknowledge slot: the transfer is abandoned and nothing of it is committed (R458). -/
def execTw8Violation (s : State) : Host.Outcome State Fault Refusal :=
  answer s true
    (if s.tw8On then (s.setFld Reg.TW8_STATUS Fld.TW8_STATUS_VIOLATION 1).count Reg.TW8_VIOL_CNT else s)

end Sys2Proof.Machine
end

