-- ==== Sys2Proof/Machine/TwinState.lean ====
section
/-! DEFINITION. The states of a lane group and of a twin pair, and what a change of state brings with it (R122 to R124, R286, R299,
R300, R391, R495, R496, R513). -/

namespace Sys2Proof.Machine

/-! ### A lane group's state (R391) -/

/-- A group's training state changed by `f`. -/
def State.modTrain (s : State) (g : Nat) (f : TrainSt → TrainSt) : State :=
  s.modGrp g (fun x => { x with train := f x.train })

/-- A group enters a training state: STATE and IN_SERVICE show it, and the counts of sets begin anew. -/
def State.setGrp (s : State) (g st : Nat) : State :=
  let s := (s.setFld (Reg.LNK_Gg_STATUS g) Fld.LNK_Gg_STATUS_STATE st).setFld (Reg.LNK_Gg_STATUS g)
    Fld.LNK_Gg_STATUS_IN_SERVICE (b2n (st = 8))
  let s := if g = 2 then s.setFld Reg.TWN_STATUS Fld.TWN_STATUS_T_UP (b2n (st = 8)) else s
  s.modTrain g (fun t => { t with entered := s.now, ts1 := 0, ts2 := 0 })

/-- A group begins a full training from WAKE; its pins are corrected anew, and ADAPT and LNK_Gg_EQ take effect (R398). -/
def State.fullTraining (s : State) (g : Nat) : State :=
  let r := Reg.LNK_Gg_STATUS g
  let s := ((s.setFld r Fld.LNK_Gg_STATUS_POL_INV 0).setFld r Fld.LNK_Gg_STATUS_REVERSED 0).setReg (Reg.LNK_Gg_FAR g) 0
  (s.modTrain g (fun _ => { (default : TrainSt) with
    adapt := s.on (Reg.LNK_Gg_CFG g) Fld.LNK_Gg_CFG_ADAPT, eqSet := s.reg (Reg.LNK_Gg_EQ g) })).setGrp g 1

/-- A group in OFF wakes once the image is applied, the group is used and HOLD is 0 (R391); L0 and L1 are off in a SOLO device (R26). -/
def State.wakeGroup (s : State) (g : Nat) : State :=
  if s.grpState g = 0 && (g == 2 || s.fld Reg.GLB_ROLE Fld.GLB_ROLE_ROLE != 0) && s.on Reg.GLB_IMG_STATUS Fld.GLB_IMG_STATUS_APPLIED && !s.inBoot
      && s.on (Reg.LNK_Gg_CFG g) Fld.LNK_Gg_CFG_USED && !s.on (Reg.LNK_Gg_CTRL g) Fld.LNK_Gg_CTRL_HOLD then
    s.fullTraining g
  else s

/-! ### The twin state (R495) -/

def State.twinEvent (s : State) (f : Fld) : State := s.setFld Reg.TWN_EVENT f 1

/-- The level of TWN_HB_OUT (R497): it toggles every 250 ns in any state from JOIN to DETACHED, and is low in BOOT, in FAULT and in reset. The
phase of the toggling is the model's (notes/assumptions/55.md). -/
def State.hbOut (s : State) : Bool :=
  decide (1 ≤ s.twinState) && decide (s.twinState ≤ 6) && !s.inReset && s.now / 250 % 2 == 1

/-- A STATE report (R499). -/
def State.sendState (s : State) : State :=
  s.toPartner 6 [s.twinState + b2n (s.on Reg.TWN_STATUS Fld.TWN_STATUS_HB_PRESENT) * 8
    + s.fld Reg.FC_ESC_STATUS Fld.FC_ESC_STATUS_EPISODE_ID * 2 ^ 16, s.invar % 2 ^ 32]

/-- A HEAD device tells the hosts whether it leads (R513): SPEC byte 8 holds TWIN_ID and the lead state, SPEC bytes 12 to 15 and the payload the
time of the last change (R433). -/
def State.sendLead (s : State) : State :=
  if s.fld Reg.GLB_ROLE Fld.GLB_ROLE_ROLE ≠ 1 then s
  else
    let id := s.twinId + b2n s.leads * 2
    let at_ := s.twin.leadAt
    let s := { s with twin := { s.twin with sentAt := s.now } }
    [0, 1].foldl (fun s g => if s.inServiceGroup g then s.sendItem g 6 5 0 id (at_ % 2 ^ 32) [at_ / 2 ^ 32] else s) s

/-- A port releases its terminations (R122, R123). -/
def State.unterminate (s : State) (n : Nat) : State :=
  (s.modPort n (fun p => { p with term := 0 })).setFld (Reg.SPn_STATUS n) Fld.SPn_STATUS_TERM_ACTIVE 0

/-- The receivers of every port are off and its terminations open, as in boot state (R23, R123). -/
def State.portsOff (s : State) : State :=
  (List.range 16).foldl (fun s n => (if (s.port.get n).running then s.haltPort n else s).unterminate n) s

/-- The shared balls that only a lead drives are released (R122, R299, R508): the terminations of listen-mode ports, and strobes with
DRIVE. A pin that is released shows level 2. -/
def State.releaseShared (s : State) : State :=
  let s := (List.range 16).foldl (fun s n => if s.on (Reg.SPn_PHY_CFG n) Fld.SPn_PHY_CFG_LISTEN then s.unterminate n else s) s
  (List.range 32).foldl (fun s i =>
    if s.on (Reg.TB_STBi_CFG i) Fld.TB_STBi_CFG_DRIVE then s.emit (.pin "STB_OUT" i 2) else s) s

/-- A device that enters the lead state connects the clock-lane terminations of its listen-mode ports and drives its strobes; data
lanes follow at their next start of transmission (R124, R300). In a takeover TERM_ACTIVE reads 1 only from there. -/
def State.driveShared (s : State) (takeover : Bool) : State :=
  let s := (List.range 16).foldl (fun s n =>
    if s.on (Reg.SPn_PHY_CFG n) Fld.SPn_PHY_CFG_LISTEN && s.mayTerminate n then
      (if takeover then s.modPort n (fun p => { p with term := 16 }) else s.setTerm n) else s) s
  (List.range 32).foldl (fun s i => if s.on (Reg.TB_STBi_CFG i) Fld.TB_STBi_CFG_DRIVE then s.strobePin i else s) s

/-- The twin state becomes `st`: GLB_ROLE.LEAD follows it, a change of the lead state is told to the hosts and moves the shared
balls and the root of Invar, the partner hears of it, and a pair that has elected its lead trains its L groups (R539). -/
def State.setTwin (s : State) (st : Nat) : State :=
  let old := s.twinState
  let lead := st == 2 || st == 3
  let was := s.leads
  let s := s.setFld Reg.PGL_STATUS Fld.PGL_STATUS_SHADOW_APPLY (b2n (st = 4 || st = 5))
  let s := ((s.setFld Reg.TWN_STATUS Fld.TWN_STATUS_STATE st).setFld Reg.TWN_STATUS Fld.TWN_STATUS_SYNC
    (b2n (st = 2 || st = 5))).setFld Reg.GLB_ROLE Fld.GLB_ROLE_LEAD (b2n lead)
  let s := if lead == was then s else { s with twin := { s.twin with leadAt := s.invar } }.sendLead.showRoot
  let s := if lead && !was then s.driveShared (old == 5) else if was && !lead then s.releaseShared else s
  let s := if old = st then s else s.sendState
  if old = 1 ∧ 2 ≤ st then (s.wakeGroup 0).wakeGroup 1 else s

/-- The device begins to follow its lead from nothing (R496, R515, R516): every stream waits to join. -/
def State.enterAdmit (s : State) : State :=
  let s := { s with twin := { s.twin with admitAt := s.now, snapped := false } }
  let s := (List.range 64).foldl (fun s n => s.modStream n (fun x => { x with waitJoin := true })) s
  s.setTwin 4

/-- Admission fails (R517). -/
def State.admitFail (s : State) : State :=
  ((s.twinEvent Fld.TWN_EVENT_ADMIT_FAIL).log 0x11 0 0xE 0).setTwin 6

/-- With group T in UP and the partner's state known, a joining device takes its place (R496). -/
def State.twinElect (s : State) : State :=
  if s.twinState ≠ 1 ∨ s.inServiceGroup 2 = false then s
  else match s.partnerState with
    | 1 => s.setTwin (if s.fld Reg.GLB_ROLE Fld.GLB_ROLE_TWIN_ID = 0 then 2 else 5)
    | 2 | 3 => if s.on Reg.TWN_CFG Fld.TWN_CFG_AUTO_ADMIT then s.enterAdmit else s.setTwin 6
    | _ => s

/-- A takeover is fixed; of two, the earlier T0 applies, and an equal one brings its cause (R507, R512). -/
def State.fixTake (s : State) (t0 cause : Nat) : State :=
  match s.twin.take with
  | some (t, _) => if t < t0 then s else { s with twin := { s.twin with take := some (t0, cause) } }
  | none => { s with twin := { s.twin with take := some (t0, cause) } }

/-- Partner loss (R498): the lead goes on alone; a shadow takes over where the heartbeat is absent and detaches where it is
present, unless a takeover is already fixed; an admission fails. A handover that the lead had fixed lapses. -/
def State.partnerLost (s : State) : State :=
  let st := s.twinState
  if st = 2 ∨ st = 4 ∨ st = 5 then
    let s := (s.twinEvent Fld.TWN_EVENT_PARTNER_LOST).count (Reg.TWN_CNTk 5)
    match st with
    | 2 => if 2 ≤ s.fld Reg.FC_ESC_STATUS Fld.FC_ESC_STATUS_STATE then s
        else { s with twin := { s.twin with take := none, released := false } }.setTwin 3
    | 4 => s.admitFail
    | _ =>
      if !s.on Reg.TWN_STATUS Fld.TWN_STATUS_HB_PRESENT then s.fixTake s.invar 0
      else if s.twin.take.isSome then s else s.setTwin 6
  else s

end Sys2Proof.Machine
end

