-- ==== Sys2Proof/Machine/Lanes.lean ====
section
/-! DEFINITION. The link lanes (spec/15): training, identity, equalisation, retraining, lane power states, the link references. One ordered
set is sent for each one received, so the counts of sets sent and received agree. -/

namespace Sys2Proof.Machine

/-! ### Loss of service (R405, R410) -/

/-- What a group loses when it leaves service (R410): posted writes fail, stream items are counted, reads and tunnelled
transactions end; SEQ, credits and buffers start anew. -/
def State.groupLost (s : State) (g : Nat) : State :=
  let x := s.grp.get g
  let s := s.modGrp g (fun x => { (default : GrpSt) with train := x.train })
  let s := (x.replay ++ x.queue).foldl (fun s (p : LinkPkt) =>
    if p.cls = 1 then s.perrLog p.spec0 3 p.init 0 g
    else if p.cls = 5 ∧ p.last = true then s.count (Reg.BRG_CNTk 7)
    else s) s
  let s := (s.remLost g).tunLost g
  let s := s.modSync (fun y => { y with far := y.far.set g 0, sent := y.sent.set g none })
  if g = 2 then ({ s with partnerState := 0, twin := { s.twin with downAt := s.now } }.setFld Reg.TWN_STATUS
    Fld.TWN_STATUS_PARTNER_STATE 0)
  else s

/-- A group reaches FAILED; from UP or RETRAIN that is a loss of service and a Lodge fault (R405). -/
def State.groupFailed (s : State) (g : Nat) : State :=
  let old := s.grpState g
  let s := (s.count (Reg.LNK_Gg_CNTk g 2)).modTrain g (fun _ => default)
  let s := (s.setGrp g 10).groupLost g
  if old = 8 ∨ old = 9 then
    ((s.setFld (Reg.LNK_Gg_STATUS g) Fld.LNK_Gg_STATUS_DOWN_EV 1).count (Reg.LNK_Gg_CNTk g 3)).raiseError (42 + g) 0
  else s

/-- A group reaches HELD: it keeps sending TS1 at the training rate. -/
def State.groupHeld (s : State) (g : Nat) : State := (((s.count (Reg.LNK_Gg_CNTk g 4)).setGrp g 11)).groupLost g

/-! ### Sets (R385, R392) -/

/-- The WHO symbol that the device sends (R392). -/
def State.who (s : State) : Nat :=
  let paired := s.on Reg.GLB_ROLE Fld.GLB_ROLE_PAIRED
  s.fld Reg.GLB_ROLE Fld.GLB_ROLE_ROLE + s.twinId * 2 ^ 2
    + b2n paired * 2 ^ 3 + s.fld Reg.GLB_ROLE Fld.GLB_ROLE_TOPOLOGY * 2 ^ 4

/-- The rate code of a group; codes above 8 act as 8 (R383). -/
def State.rateOf (s : State) (g : Nat) : Nat := min 8 (s.fld (Reg.LNK_Gg_CFG g) Fld.LNK_Gg_CFG_RATE)

/-- The settings that EQ tries in FIR mode (R398). -/
def firSettings : List (Nat × Nat) := [0, 2, 4, 6, 8, 10].flatMap (fun a => [0, 4, 8, 12, 16, 20].map (fun b => (a, b)))

/-- The number of settings that EQ tries. -/
def State.eqCount (s : State) (g : Nat) : Nat := if s.fld (Reg.LNK_Gg_CFG g) Fld.LNK_Gg_CFG_EQ_MODE = 0 then 36 else 19

/-- What a lane requests of the far transmitter while it searches in FIR mode, and after it has found its setting. -/
def State.eqRequest (s : State) (g l : Nat) : Option (Nat × Nat) :=
  let t := (s.grp.get g).train
  if s.fld (Reg.LNK_Gg_CFG g) Fld.LNK_Gg_CFG_EQ_MODE ≠ 0 ∨ t.adapt = false
      ∨ s.grpState g ≠ 5 then none
  else some (firSettings.getD (if t.tried.get l < 36 then t.tried.get l else (t.best.get l).1 - 1) (0, 0))

/-- A TS1 or TS2 leaves the group (R392): WHO, RATE, FLAGS, then for each lane LANE, PRE_REQ, POST_REQ, PRE_APP, POST_APP. -/
def State.sendTs (s : State) (g typ : Nat) : State :=
  let t := (s.grp.get g).train
  s.orderedSet g typ ([s.who, s.rateOf g, b2n t.eqDone + b2n t.short * 2] ++ (List.range (laneCount g)).flatMap (fun l =>
    let r := s.eqRequest g l
    let a := t.applied.get l
    [l + g * 16, (r.map (fun q => q.1 + 128)).getD 0, (r.map (·.2)).getD 0, a.1, a.2]))

/-! ### Into service (R391, R410, R412) -/

/-- A group reaches UP: after a full training its pools are advertised, otherwise what no ACK covers is sent again. Group T brings the
partner's serial number (R379). -/
def State.groupUp (s : State) (g : Nat) (fresh : Bool) : State :=
  let again := (s.grp.get g).train.again
  let s := (s.setGrp g 8).modTrain g (fun t => { t with
    short := false, confirm := false, again := false, lpOwn := 0, lpFar := 0, errsFrom := s.now })
  let s := if fresh then [1, 2, 4, 5, 6, 7].foldl (fun s c =>
      if c = 7 ∧ g ≠ 2 then s else s.sendCtl g 2 (c + (poolCredits c).1 * 2 ^ 16) (poolCredits c).2) s
    else (s.replayCounted g).pump g ((s.grp.get g).queue.length + 1)
  let s := if g = 2 then
      ((s.setReg Reg.GLB_PCIE_PARTNER_DSN_LO (BitVec.ofNat 32 Config.partnerDsn.toNat)).setReg Reg.GLB_PCIE_PARTNER_DSN_HI
        (BitVec.ofNat 32 (Config.partnerDsn.toNat / 2 ^ 32))).sendState.twinElect
    else s
  if again then
    ((s.setFld (Reg.LNK_Gg_STATUS g) Fld.LNK_Gg_STATUS_RETRAIN_EV 1).count (Reg.LNK_Gg_CNTk g 1)).setGrp g 9
  else s

/-- A group in UP enters RETRAIN (R399). -/
def State.groupRetrain (s : State) (g : Nat) : State :=
  let s := ((s.setFld (Reg.LNK_Gg_STATUS g) Fld.LNK_Gg_STATUS_RETRAIN_EV 1).count (Reg.LNK_Gg_CNTk g 1)).setGrp g 9
  let s := if g = 2 then { s with twin := { s.twin with downAt := s.now } } else s
  (s.modTrain g (fun t => { t with confirm := false })).sendTs g 0x4A

/-! ### Training (R391 to R396) -/

def execLnkPllLock (g : Nat) (s : State) : Host.Outcome State Fault Refusal :=
  answer s (g < 3)
    (if s.grpState g = 1 then
      ((s.setGrp g 2).setFld Reg.LNK_REF_STATUS Fld.LNK_REF_STATUS_PLL_LOCK 1).sendTs g 0x4A
    else s)

/-- The far end that a group expects (R395): role, TWIN_ID, paired where it must be, group. -/
def State.expects (s : State) (g : Nat) : Nat × Nat × Option Bool × Nat :=
  let role := s.fld Reg.GLB_ROLE Fld.GLB_ROLE_ROLE
  let id := s.who / 4 % 2
  let crossed := s.fld Reg.GLB_ROLE Fld.GLB_ROLE_TOPOLOGY == 2
  if g = 2 then (role, 1 - id, some true, 2)
  else (if role = 1 then 2 else 1, if crossed then g else 0, none, if crossed then id else g)

/-- The far end's identity against what the wiring declares (R28, R395): 0 agrees, 1 wiring, 2 rate, 3 the device's own TWIN_ID on group
T. -/
def State.identity (s : State) (g who rate far : Nat) : Nat :=
  let e := s.expects g
  let agree := who % 4 == e.1 && e.2.2.1.all (fun p => p == bitB who 3) && far == e.2.2.2
    && who / 16 % 4 == s.fld Reg.GLB_ROLE Fld.GLB_ROLE_TOPOLOGY
  if agree && g == 2 && who / 4 % 2 != e.2.1 then 3
  else if !agree || who / 4 % 2 != e.2.1 then 1
  else if min 8 (rate % 16) ≠ s.rateOf g then 2
  else 0

/-- A joining device goes back to boot state (R27, R28). -/
def State.pairFails (s : State) : State := if s.twinState = 1 then s.portsOff.setTwin 0 else s

/-- A TS1 in CONFIG: lane order, then identity (R394, R395). -/
def doTs1Config (g who rate : Nat) (lanes : List TsLane) (s : State) : State :=
  let n := laneCount g
  let nums := lanes.map (fun (l : TsLane) => l.lane % 16)
  let codes := lanes.map (fun (l : TsLane) => l.lane / 16 % 4)
  let far := codes.headD 0
  let normal := nums == List.range n
  let reversed := nums == (List.range n).reverse
  let st := Reg.LNK_Gg_STATUS g
  if !(codes.all (· == far) && (normal || reversed)) then (s.setFld st Fld.LNK_Gg_STATUS_LANE_ORDER 1).groupHeld g
  else
    let s := s.setFld st Fld.LNK_Gg_STATUS_REVERSED (b2n reversed)
    let s := s.setReg (Reg.LNK_Gg_FAR g) (BitVec.ofNat 32 (who % 256 + far * 2 ^ 8 + rate % 16 * 2 ^ 10 + 2 ^ 31))
    match s.identity g who rate far with
    | 1 => ((s.setFld st Fld.LNK_Gg_STATUS_WIRING_MISMATCH 1).log 0x0A g 6 g).groupHeld g
    | 2 => ((s.setFld st Fld.LNK_Gg_STATUS_RATE_MISMATCH 1).log 0x0A g 7 g).groupHeld g
    | 3 => ((s.setFld Reg.GLB_ROLE Fld.GLB_ROLE_TWIN_ID_CONFLICT 1).groupHeld g).pairFails
    | _ =>
      let s := (s.modTrain g (fun t => { t with ts1 := t.ts1 + 1 })).sendTs g 0x4A
      if 16 ≤ (s.grp.get g).train.ts1 then s.setGrp g 4 else s

/-- EQ is over once the own receivers and the far end's are done (R391). -/
def State.eqEnds (s : State) (g : Nat) : State :=
  let t := (s.grp.get g).train
  if s.grpState g = 5 && t.eqDone && t.farEq then (s.setGrp g 6).sendTs g 0x45 else s

/-- A TS1 in EQ (R397, R398): the transmitter applies what is requested of it, and the lanes show what the far one applies. -/
def doEqSet (g flags : Nat) (lanes : List TsLane) (s : State) : State :=
  let fir := s.fld (Reg.LNK_Gg_CFG g) Fld.LNK_Gg_CFG_EQ_MODE == 0
  let rev := s.on (Reg.LNK_Gg_STATUS g) Fld.LNK_Gg_STATUS_REVERSED
  let n := laneCount g
  let s := (List.range n).foldl (fun s l =>
    let x := lanes.getD (if rev then n - 1 - l else l) default
    let r := Reg.LNK_Gg_LANEl_EQ g l
    let s := if fir then (s.setFld r Fld.LNK_Gg_LANEl_EQ_PRE x.app.1).setFld r Fld.LNK_Gg_LANEl_EQ_POST x.app.2 else s
    match x.req with
    | some q => if fir then s.modTrain g (fun t => { t with applied := Table.set t.applied l (min 10 q.1, min 20 q.2) }) else s
    | none => s) s
  (((s.modTrain g (fun t => { t with farEq := bitB flags 0 })).sendTs g 0x4A)).eqEnds g

/-- Polarity is fixed in the ALIGN of a full training (R393): lanes that read inverted type symbols invert from then on. -/
def State.fixPolarity (s : State) (g : Nat) (lanes : List TsLane) : State × Bool :=
  let st := Reg.LNK_Gg_STATUS g
  let inv := (List.range (laneCount g)).foldl (fun a l => a + b2n (lanes.getD l default).inv * 2 ^ l) 0
  if inv = 0 then (s, false) else (s.setFld st Fld.LNK_Gg_STATUS_POL_INV (Nat.xor (s.fld st Fld.LNK_Gg_STATUS_POL_INV) inv), true)

/-- A set of the other kind ends a run of consecutive sets (R391). -/
def State.breakRun (s : State) (g : Nat) : State := s.modTrain g (fun t => { t with ts1 := 0, ts2 := 0 })

/-- A TS1 arrives. -/
def doTs1 (g who rate flags : Nat) (lanes : List TsLane) (s : State) : State :=
  let t := (s.grp.get g).train
  match s.grpState g with
  | 2 =>
    let r := if t.short then (s, false) else s.fixPolarity g lanes
    let s := (r.1.modTrain g (fun t => { t with ts1 := if r.2 then 0 else t.ts1 + 1 })).sendTs g 0x4A
    if (s.grp.get g).train.ts1 < 8 then s
    else if t.short then (s.setGrp g 6).sendTs g 0x45
    else s.setGrp g 3
  | 3 => doTs1Config g who rate lanes s
  | 5 => doEqSet g flags lanes s
  | 6 => s.breakRun g
  | 8 => s.groupRetrain g
  | 9 =>
    if t.confirm then s.breakRun g
    else
      let s := (s.modTrain g (fun t => { t with ts1 := t.ts1 + 1 })).sendTs g 0x4A
      if (s.grp.get g).train.ts1 < 8 then s else (s.modTrain g (fun t => { t with confirm := true })).sendTs g 0x45
  | 11 => s.sendTs g 0x4A
  | 12 => (s.groupUp g false).groupRetrain g
  | 13 => (s.modTrain g (fun t => { t with short := true })).setGrp g 1
  | _ => s

/-- The lanes of a set of a group. -/
def lanesOk (g : Nat) (lanes : List TsLane) : Bool :=
  decide (g < 3) && lanes.length == laneCount g && lanes.all (fun (l : TsLane) => decide (l.lane < 256)
    && l.req.all (fun q => decide (q.1 < 16) && decide (q.2 < 32)) && decide (l.app.1 < 16) && decide (l.app.2 < 32))

def execTs1Receive (g who rate flags : Nat) (lanes : List TsLane) (s : State) : Host.Outcome State Fault Refusal :=
  answer s (lanesOk g lanes && who < 256 && rate < 256 && flags < 256) (doTs1 g who rate flags lanes s)

/-- A TS2 arrives: in CONFIRM, or in the CONFIRM part of RETRAIN. -/
def doTs2 (g : Nat) (s : State) : State :=
  let t := (s.grp.get g).train
  let st := s.grpState g
  if st = 6 ∨ (st = 9 ∧ t.confirm = true) then
    let s := (s.modTrain g (fun t => { t with ts2 := t.ts2 + 1 })).sendTs g 0x45
    if (s.grp.get g).train.ts2 < 16 then s
    else if st = 9 ∨ t.short = true then s.groupUp g false
    else if g = 2 then
      let s := (s.setGrp g 7).modTrain g (fun t => { t with ident := [] })
      (List.range 8).foldl (fun s n => s.orderedSet g 0x49 (n :: leBytes 4 (s.reg (Reg.GLB_IMG_DIGESTk n)).toNat)) s
    else s.groupUp g true
  else if st = 2 ∨ st = 3 ∨ st = 9 then s.breakRun g
  else s

def execTs2Receive (g who rate flags : Nat) (lanes : List TsLane) (s : State) : Host.Outcome State Fault Refusal :=
  answer s (lanesOk g lanes && who < 256 && rate < 256 && flags < 256) (doTs2 g s)

/-- Digest words of the partner (R396): equal digests bring group T up, unequal ones hold it (R27). -/
def doIdent (n : Nat) (data : Word) (s : State) : State :=
  if s.grpState 2 ≠ 7 then s
  else
    let s := s.modTrain 2 (fun t => { t with ident := Table.set t.ident n (some data.toNat) })
    let id := (s.grp.get 2).train.ident
    if (List.range 8).all (fun k => (Table.get id k).isSome) then
      if (List.range 8).all (fun k => Table.get id k == some (s.reg (Reg.GLB_IMG_DIGESTk k)).toNat) then s.groupUp 2 true
      else (((s.setFld (Reg.LNK_Gg_STATUS 2) Fld.LNK_Gg_STATUS_DIGEST_MISMATCH 1).groupHeld 2).log 0x11 0 3 0).pairFails
    else s

def execIdentReceive (n : Nat) (data : Word) (s : State) : Host.Outcome State Fault Refusal :=
  answer s (n < 8) (doIdent n data s)

/-- The time limit of a training state in ns; none for the states without one. -/
def trainLimit : Nat → Option Nat
  | 2 => some 1000000 | 3 => some 1000000 | 4 => some 1000000 | 5 => some 20000000 | 6 => some 1000000 | 9 => some 1000000
  | _ => none

def execLnkTrainTimeout (g : Nat) (s : State) : Host.Outcome State Fault Refusal :=
  answer s (g < 3)
    (if (trainLimit (s.grpState g)).any (fun n => decide ((s.grp.get g).train.entered + n ≤ s.now)) then s.groupFailed g else s)

def execLnkFailedIdleEnd (g : Nat) (s : State) : Host.Outcome State Fault Refusal :=
  answer s (g < 3)
    (if s.grpState g = 10 ∧ (s.grp.get g).train.entered + 1000000 ≤ s.now then s.fullTraining g else s)

/-! ### Equalisation (R397, R398) -/

/-- The values of LNK_Gg_EQ as they act (R397), as they stood when the full training began (R398). -/
def State.eqFixed (s : State) (g : Nat) : Nat × Nat × Nat :=
  let v := (s.grp.get g).train.eqSet
  if s.fld (Reg.LNK_Gg_CFG g) Fld.LNK_Gg_CFG_EQ_MODE = 0 then
    (min 10 (Fld.LNK_Gg_EQ_PRE.get v), min 20 (Fld.LNK_Gg_EQ_POST.get v), 0)
  else (0, 0, min 18 (Fld.LNK_Gg_EQ_CTLE.get v))

/-- A lane's settings as LNK_Gg_LANEl_EQ shows them; the opening stays. -/
def State.setLaneEq (s : State) (g l : Nat) (v : Nat × Nat × Nat) : State :=
  let r := Reg.LNK_Gg_LANEl_EQ g l
  ((s.setFld r Fld.LNK_Gg_LANEl_EQ_PRE v.1).setFld r Fld.LNK_Gg_LANEl_EQ_POST v.2.1).setFld r Fld.LNK_Gg_LANEl_EQ_CTLE v.2.2

/-- A group begins EQ: without ADAPT it takes the values of LNK_Gg_EQ and is done at once. -/
def doSpeedLock (g : Nat) (s : State) : State :=
  if s.grpState g ≠ 4 then s
  else
    let s := s.setGrp g 5
    if (s.grp.get g).train.adapt then
      (s.modTrain g (fun t => { t with eqDone := false, farEq := false, tried := [], best := [] })).sendTs g 0x4A
    else
      let v := s.eqFixed g
      let s := (List.range (laneCount g)).foldl (fun s l => (s.setLaneEq g l v).modTrain g (fun t => { t with
        applied := Table.set t.applied l (v.1, v.2.1) })) s
      ((s.modTrain g (fun t => { t with eqDone := true, farEq := false })).sendTs g 0x4A)

def execLnkSpeedLock (g : Nat) (s : State) : Host.Outcome State Fault Refusal := answer s (g < 3) (doSpeedLock g s)

/-- Whether setting `i` with its opening is kept over the best so far (R398): a wider opening wins, and a tie goes to the smaller sum,
or to the lower peaking; settings of one sum are free. -/
def State.eqBetter (s : State) (g : Nat) (best : Nat × Nat) (i margin : Nat) : State × Bool :=
  if best.1 = 0 ∨ best.2 < margin then (s, true)
  else if margin < best.2 ∨ s.fld (Reg.LNK_Gg_CFG g) Fld.LNK_Gg_CFG_EQ_MODE ≠ 0 then (s, false)
  else
    let sum (k : Nat) : Nat := (firSettings.getD k (0, 0)).1 + (firSettings.getD k (0, 0)).2
    if sum i < sum (best.1 - 1) then (s, true)
    else if sum (best.1 - 1) < sum i then (s, false)
    else (s.draw, Config.nat s.free % 2 == 1)

/-- The far transmitter echoes what the lane requests (R398); in CTLE mode nothing is requested. -/
def State.eqEchoed (s : State) (g l : Nat) : Bool :=
  let r := Reg.LNK_Gg_LANEl_EQ g l
  (s.eqRequest g l).all (fun q => q == (s.fld r Fld.LNK_Gg_LANEl_EQ_PRE, s.fld r Fld.LNK_Gg_LANEl_EQ_POST))

/-- One measurement of a lane ends, which begins once the far transmitter echoes the setting; after the last the lane keeps its best one. -/
def doEqMeasure (g l margin : Nat) (s : State) : State :=
  let t := (s.grp.get g).train
  let i := t.tried.get l
  if s.grpState g ≠ 5 ∨ t.eqDone = true ∨ s.eqCount g ≤ i ∨ s.eqEchoed g l = false then s
  else
    let r := s.eqBetter g (t.best.get l) i margin
    let b := if r.2 then (i + 1, margin) else t.best.get l
    let s := r.1.modTrain g (fun t => { t with tried := Table.set t.tried l (i + 1), best := Table.set t.best l b })
    let s := if i + 1 < s.eqCount g then s
      else
        let v := firSettings.getD (b.1 - 1) (0, 0)
        let s := if s.eqCount g = 36 then s.setLaneEq g l (v.1, v.2, 0) else s.setLaneEq g l (0, 0, b.1 - 1)
        s.setFld (Reg.LNK_Gg_LANEl_EQ g l) Fld.LNK_Gg_LANEl_EQ_MARGIN b.2
    let all := (List.range (laneCount g)).all (fun k => decide (s.eqCount g ≤ (s.grp.get g).train.tried.get k))
    ((if all then s.modTrain g (fun t => { t with eqDone := true }) else s).sendTs g 0x4A).eqEnds g

def execEqMeasureDone (g l margin : Nat) (s : State) : Host.Outcome State Fault Refusal :=
  answer s (g < 3 && l < laneCount g && margin < 64) (doEqMeasure g l margin s)

/-! ### Errors and retraining (R399, R400, R404) -/

/-- Code errors of a lane are counted (R404). -/
def State.laneErrors (s : State) (g l n : Nat) : State :=
  (s.countN (Reg.LNK_Gg_LANEl_ERR_CNT g l) n).countN (Reg.LNK_Gg_CNTk g 0) n

/-- A lane loses symbol lock; the comma it regains in RETRAIN is counted. -/
def execSymbolLockLoss (g l errs : Nat) (s : State) : Host.Outcome State Fault Refusal :=
  answer s (g < 3 && l < laneCount g)
    (let s := s.laneErrors g l errs
     if s.inServiceGroup g then (s.count (Reg.LNK_Gg_CNTk g 5)).groupRetrain g else s)

/-- A 1 ms window of errors ends: lanes count their errors in every state (R404), and the threshold acts on a group in service (R399). -/
def doErrorWindow (g : Nat) (errs : List Nat) (s : State) : State :=
  if decide (s.now < (s.grp.get g).train.errsFrom + 1000000) then s
  else
    let s := (List.range (laneCount g)).foldl (fun s l => s.laneErrors g l (errs.getD l 0)) s
    let s := s.modTrain g (fun t => { t with errsFrom := s.now })
    let thr := s.fld (Reg.LNK_Gg_CFG g) Fld.LNK_Gg_CFG_ERR_THR
    if thr ≠ 0 ∧ thr < errs.foldl (· + ·) 0 ∧ s.inServiceGroup g = true then s.groupRetrain g else s

def execErrorWindowExpiry (g : Nat) (errs : List Nat) (s : State) : Host.Outcome State Fault Refusal :=
  answer s (g < 3 && errs.length == laneCount g) (doErrorWindow g errs s)

/-- A write of LNK_Gg_CTRL (R400): HOLD wins over FULL, and FULL over RETRAIN. -/
def State.lnkCtrl (s : State) (g : Nat) (data : Word) : State :=
  let hold := Fld.LNK_Gg_CTRL_HOLD.get data == 1
  let s := s.setFld (Reg.LNK_Gg_CTRL g) Fld.LNK_Gg_CTRL_HOLD (b2n hold)
  if hold then (if s.grpState g = 0 then s else ((s.modTrain g (fun _ => default)).setGrp g 0).groupLost g)
  else if s.grpState g = 0 then s.wakeGroup g
  else if Fld.LNK_Gg_CTRL_FULL.get data = 1 then (s.groupLost g).fullTraining g
  else if Fld.LNK_Gg_CTRL_RETRAIN.get data = 1 then
    match s.grpState g with
    | 8 => s.groupRetrain g
    | 12 => ((s.orderedSet g 0x51 []).groupUp g false).groupRetrain g
    | 13 => (s.modTrain g (fun t => { t with short := true, again := true })).setGrp g 1
    | _ => s
  else s

def execLnkRetrain (i : Initiator) (g : Nat) (data : Word) (s : State) : Host.Outcome State Fault Refusal :=
  answer s (g < 3) (s.swWrite i (Reg.LNK_Gg_CTRL g) data (fun s => s.lnkCtrl g data))

def execLnkHold (i : Initiator) (g : Nat) (data : Word) (s : State) : Host.Outcome State Fault Refusal :=
  answer s (g < 3) (s.swWrite i (Reg.LNK_Gg_CTRL g) data (fun s => s.lnkCtrl g data))

def execLnkFull (i : Initiator) (g : Nat) (data : Word) (s : State) : Host.Outcome State Fault Refusal :=
  answer s (g < 3) (s.swWrite i (Reg.LNK_Gg_CTRL g) data (fun s => s.lnkCtrl g data))

/-! ### Lane power states (R402, R403) -/

/-- Once both ends have asked, the group enters the shallower state. -/
def State.lpEnter (s : State) (g : Nat) : State :=
  let t := (s.grp.get g).train
  let m := min t.lpOwn t.lpFar
  if s.inServiceGroup g && decide (1 ≤ m) then
    let s := (List.range 4).foldl (fun s _ => s.orderedSet g 0x50 [t.lpOwn]) s
    (s.count (Reg.LNK_Gg_CNTk g (5 + min m 2))).setGrp g (11 + min m 2)
  else s

/-- The device requests a lane power state of a group in LP0. -/
def State.lpRequest (s : State) (g st : Nat) : State :=
  if s.inServiceGroup g then
    ((s.modTrain g (fun t => { t with lpOwn := st })).orderedSet g 0x50 [st]).lpEnter g
  else s

/-- The device takes a group out of its lane power state, or takes its request back. -/
def State.lpExit (s : State) (g : Nat) : State :=
  match s.grpState g with
  | 12 => (s.orderedSet g 0x51 []).groupUp g false
  | 13 => (s.modTrain g (fun t => { t with short := true, lpOwn := 0, lpFar := 0 })).setGrp g 1
  | _ => s.modTrain g (fun t => { t with lpOwn := 0 })

/-- An LPE arrives. Where a packet of the own end is not acknowledged yet, the two have crossed, and the group stays in LP0 (R403). -/
def doLpe (g req : Nat) (s : State) : State :=
  if s.inServiceGroup g = false then s
  else if (s.grp.get g).replay.isEmpty then (s.modTrain g (fun t => { t with lpFar := req })).lpEnter g
  else s.modTrain g (fun t => { t with lpOwn := 0, lpFar := 0 })

def execLpeReceive (g req : Nat) (s : State) : Host.Outcome State Fault Refusal :=
  answer s (g < 3 && 1 ≤ req && req ≤ 2) (doLpe g req s)

/-- A link packet ends an LP1 that it crosses, and one with SEQ a request for a low-power state (R403, notes/assumptions/149.md). -/
def State.packetWakes (s : State) (g : Nat) (p : LinkPkt) : State :=
  if s.grpState g = 12 then s.groupUp g false
  else if p.cls ≠ 0 then s.modTrain g (fun t => { t with lpOwn := 0, lpFar := 0 })
  else s

/-- A link packet arrives. One abandoned with EDB is discarded without a NAK (R406). -/
def execLinkPacketReceive (g : Nat) (p : LinkPkt) (good edb : Bool) (buf : Ecc) (s : State) :
    Host.Outcome State Fault Refusal :=
  answer s (g < 3 && p.cls < 16 && p.typ < 16 && p.seq < 4096 && p.tag < 256 && p.init < 16)
    (if edb then s else doPacket g p good buf (s.packetWakes g p))

/-- A WAKE set ends LP1, and wins over an LPE that it crosses. -/
def doWakeSet (g : Nat) (s : State) : State :=
  match s.grpState g with
  | 12 => (s.orderedSet g 0x51 []).groupUp g false
  | 8 => s.modTrain g (fun t => { t with lpOwn := 0, lpFar := 0 })
  | _ => s

def execWakeSetReceive (g : Nat) (s : State) : Host.Outcome State Fault Refusal := answer s (g < 3) (doWakeSet g s)

/-! ### The link references (R37, R388, R389) -/

/-- The groups leave service, or pass through a new training, on a change of reference. A group in training starts again from WAKE. -/
def State.refShaken (s : State) : State :=
  [0, 1, 2].foldl (fun s g => match s.grpState g with
    | 8 => s.groupRetrain g
    | 12 => (s.groupUp g false).groupRetrain g
    | 13 => (s.modTrain g (fun t => { t with short := true, again := true })).setGrp g 1
    | 2 => s.setGrp g 1
    | 3 => s.fullTraining g
    | 4 => s.fullTraining g
    | 5 => s.fullTraining g
    | 6 => if (s.grp.get g).train.short then s.setGrp g 1 else s.fullTraining g
    | 7 => s.fullTraining g
    | _ => s) s

/-- The references change (R389). A HEAD device that loses the one in use switches to the other, and does not switch back; without any
the groups leave service through RETRAIN. -/
def doRefLoss (okL ok0 ok1 : Bool) (s : State) : State :=
  let r := Reg.LNK_REF_STATUS
  let head := s.fld Reg.GLB_ROLE Fld.GLB_ROLE_ROLE == 1
  let s := ((s.setFld r Fld.LNK_REF_STATUS_LINK_REF_OK (b2n okL)).setFld r Fld.LNK_REF_STATUS_LREF0_OK
    (b2n (head && ok0))).setFld r Fld.LNK_REF_STATUS_LREF1_OK (b2n (head && ok1))
  let src := s.fld r Fld.LNK_REF_STATUS_SRC
  let ok := match src with | 0 => okL | 1 => ok0 | 2 => ok1 | _ => false
  let other := if head then (if src = 1 ∧ ok1 = true then some 2 else if src = 2 ∧ ok0 = true then some 1 else none) else none
  if ok then s
  else if src = 3 then
    if head then (if ok0 then s.setFld r Fld.LNK_REF_STATUS_SRC 1 else if ok1 then s.setFld r Fld.LNK_REF_STATUS_SRC 2 else s)
    else if okL then s.setFld r Fld.LNK_REF_STATUS_SRC 0 else s
  else
    let s := s.setFld r Fld.LNK_REF_STATUS_LOST_EV 1
    match other with
    | some n => ((s.setFld r Fld.LNK_REF_STATUS_SRC n).setFld r Fld.LNK_REF_STATUS_SWITCH_EV 1).refShaken
    | none => ((s.setFld r Fld.LNK_REF_STATUS_SRC 3).setFld r Fld.LNK_REF_STATUS_PLL_LOCK 0).refShaken

def execLinkRefLoss (okL ok0 ok1 : Bool) (s : State) : Host.Outcome State Fault Refusal :=
  answer s true (doRefLoss okL ok0 ok1 s)

end Sys2Proof.Machine
end

