-- ==== Sys2Proof/Machine/Lodge.lean ====
section
/-! DEFINITION. The Lodge (spec/19): classes, fences, moves to spares, episodes, the fault state, recovery, revival and injection. -/

namespace Sys2Proof.Machine

/-- The Lodge's state changed by `f`. -/
def State.modLodge (s : State) (f : LodgeSt → LodgeSt) : State := { s with lodge := f s.lodge }

/-- FC_ESC_STATUS.STATE: 0 NORMAL, 1 EPISODE, 2 FAULT, 3 HELD. -/
def State.fcState (s : State) : Nat := s.fld Reg.FC_ESC_STATUS Fld.FC_ESC_STATUS_STATE
def State.setFc (s : State) (st : Nat) : State := s.setFld Reg.FC_ESC_STATUS Fld.FC_ESC_STATUS_STATE st
def State.fcEvent (s : State) (f : Fld) : State := s.setFld Reg.FC_EVENT f 1

/-- What changed FC_STATUS shows at FAULT_N, and on the virtual wires that carry it (R432, R484). -/
def State.faultPin (s old : State) : State :=
  if s.faultN = old.faultN then s
  else (s.emit (.pin "FAULT_N" 0 (if s.faultN then 0 else 2))).wiresFrom old.wiresOut

/-! ### Sources (R480, R481) -/

/-- The class in force for an error signal of a source: 0 corrected, 1 contained, 2 fatal. An error raised by MC0 is fatal. -/
def State.classOf (s : State) (source index : Nat) : Nat :=
  let r := if source < 32 then Reg.FC_CLASS_LOw (source / 16) else Reg.FC_CLASS_HIw ((source - 32) / 16)
  let v := (s.reg r).toNat / 2 ^ (2 * (source % 16)) % 4
  if source = 50 ∧ index = 0 then 2 else min 2 v

/-- The lowest class that a source may be given (R481). -/
def classFloor (source : Nat) : Nat :=
  if (32 ≤ source && source < 40) || source == 46 || source == 54 then 1
  else match source with
    | 50 => 1 | 52 => 1 | 51 => 2 | 53 => 2 | _ => 0

/-- A class register after a write of `v` (R480): each class is raised to its source's floor; reserved sources read 0. -/
def classWord (first v : Nat) : Nat :=
  (List.range 16).foldl (fun a i =>
    let src := first + i
    if 55 ≤ src then a else a + max (classFloor src) (v / 2 ^ (2 * i) % 4) * 2 ^ (2 * i)) 0

/-- The pavilion unit of a source and index, by kind and number; none for another source or an index that names no unit (R481). -/
def unitOf (source index : Nat) : Option (Nat × Nat) :=
  let p := (source - 16) / 4
  if source < 16 ∨ 32 ≤ source then none
  else match source % 4 with
    | 0 => if index < 4 then some (0, 4 * p + index) else none
    | 1 => if index < 2 then some (1, 2 * p + index) else none
    | 2 => some (2, p)
    | _ => if index < 2 then some (3, 2 * p + index) else if index < 4 then some (4, 2 * p + index - 2) else none

/-! ### Tiles (R485, R486, R537) -/

/-- A pavilion unit loses its internal state: its contexts and its lines, and what waits at its input. Markers that it held pass
on, in order. -/
def State.clearUnit (s : State) (kind n : Nat) : State :=
  let cs := (List.range 8).map (fun c => 8 * n + c)
  let s := match kind with
    | 0 => { s with luCtx := cs.foldl (fun t i => Table.set t i default) s.luCtx }
    | 1 =>
      let held := (List.range 8).flatMap (fun c => (s.member n c).marks.filter (fun m =>
        s.muRef n m.stream m.idx (s.muFld n m.stream m.idx c Fld.PVp_MUu_CTXc_CFG_GROUP) == some c))
      let s := { s with
        muCtx := cs.foldl (fun t i => Table.set t i default) s.muCtx
        muGrp := (List.range 4).foldl (fun t g => Table.set t (4 * n + g) default) s.muGrp }
      held.foldl (fun s (m : Marker) => s.sendTo m.stream (.marker m) (kindsAfter 1)) s
    | 2 =>
      let held := (List.range 8).flatMap (fun q =>
        if s.on (Reg.PVp_GU_PATHq_CFG n q) Fld.PVp_GU_PATHq_CFG_VALID then (s.guC n ((s.guPathCtxs n q).headD 0)).marks else [])
      let s := { s with
        guCtx := cs.foldl (fun t i => Table.set t i default) s.guCtx
        guPath := cs.foldl (fun t i => Table.set t i default) s.guPath }
      let s := (List.range 8).foldl (fun s c => s.showRing n c) s
      held.foldl (fun s (m : Marker) => s.sendTo m.stream (.marker m) (kindsAfter 2)) s
    | 3 => { s with bu := cs.foldl (fun t i => Table.modify t i (fun (b : BuCtx) => { b with cur := none, due := [] })) s.bu }
    | _ => s
  if kind = 3 then s else s.emptyUnit kind n

/-- A two-wire controller loses its entries, results, alerts and stuck state, and takes its bus as busy (R436, R491, R537). -/
def State.twReset (s : State) (k : Nat) : State :=
  let st := Reg.TWk_STATUS k
  let s := if (s.tw.get k).live && !s.dark then s.twRelease k else s
  (((s.modTw k (fun _ => default)).setFld st Fld.TWk_STATUS_IN_STUCK 0).setFld st Fld.TWk_STATUS_BUS_FREE 0).showTw k

/-- A block outside the pavilions loses its internal state (R491, R492, R537; notes/assumptions/150.md): DMA channels in FAULT become idle, a
failed lane group trains again, and stuck two-wire controllers start anew, or with `index` 8 all of them. -/
def State.blockReset (s : State) (source index : Nat) : State :=
  if source = 40 then (List.range 32).foldl (fun s c => if s.dmaState c = 5 then s.dmaStop c else s) s
  else if 42 ≤ source ∧ source ≤ 44 then (if s.grpState (source - 42) = 10 then s.fullTraining (source - 42) else s)
  else if source = 46 then (List.range 8).foldl (fun s k =>
    if index = 8 ∨ s.on (Reg.TWk_STATUS k) Fld.TWk_STATUS_IN_STUCK = true then s.twReset k else s) s
  else s

/-- A unit reset of a tile (R537): internal state is cleared, and PCR_CNT6 counts it. No register is of domain UNIT.
MC1 restarts
from its entry address, its watchdog with it (R492). During a warm reset the unit reset is discarded (R538). -/
def State.unitReset (s : State) (source index : Nat) : State :=
  if s.boot.resetDue.isSome then s else
  let s := s.count (Reg.PCR_CNTk 6)
  if source < 16 then (List.range 8).foldl (fun s k => s.modEntry (8 * source + k) (fun _ => default)) s
  else match unitOf source index with
    | some (k, n) => s.clearUnit k n
    | none => if source = 50 then
        let s := (s.setFld Reg.FC_FENCE_UNIT_HI Fld.FC_FENCE_UNIT_HI_MC1 0).setFld Reg.MGT_STATUS Fld.MGT_STATUS_MC1_RUN 1
        { s with mgt := { s.mgt with wdtAt := s.mgt.wdtAt.set 1 s.now } }
      else s.blockReset source index

/-- The spare of a unit that a stream may move to (R44, R487): neither fenced nor serving another fenced unit. -/
def State.spareFor (s : State) (kind n : Nat) : Option Nat :=
  match s.image.spares.find? (fun w => w.kind == kind && w.unit == n) with
  | none => none
  | some w =>
    if s.fenced kind w.spare || s.lodge.moves.any (fun m => m.kind == kind && m.spare == w.spare && m.unit != n) then none
    else some w.spare

/-- A stream stops, because of a tile (R487). -/
def State.stopStream (s : State) (ch tile : Nat) : State :=
  let s := if s.stopped ch then s else s.modStream ch (fun st => { st with stopFrom := some st.idx })
  let s := if ch < 32 then s.setBit Reg.FC_STREAM_STOP_LO ch else s.setBit Reg.FC_STREAM_STOP_HI (ch - 32)
  (s.modLodge (fun l => { l with stops := (ch, tile) :: l.stops.filter (· != (ch, tile)), resume := l.resume.filter (· != ch) })).fcEvent
    Fld.FC_EVENT_STREAM_STOP

/-- The recipe that a stream's spare is loaded with (R586): that of the stream's next document where its latch point has passed,
otherwise the one in force. -/
def State.spareRecipe (s : State) (ch : Nat) : Nat :=
  match s.image.latches.find? (fun l => l.idx + 1 == (s.stream.get ch).idx) with
  | some l => l.recipe
  | none => s.pvRecipe (s.homePv ch)

/-- An affected stream (R486, R487): its open document closes with TRUNC, and it moves to the spare, or stops. -/
def State.affect (s : State) (kind n ch : Nat) : State :=
  let s := s.truncateDoc ch
  let moved := s.lodge.moves.any (fun m => m.ch == ch && m.kind == kind && m.spare == n)
  match if moved then none else s.spareFor kind n with
  | some sp => s.modLodge (fun l => { l with
      moves := l.moves ++ [⟨ch, kind, n, sp, some (s.now + 250000), s.spareRecipe ch, false, false⟩] })
  | none => if kind = 3 then s else s.stopStream ch (unitKey kind n)

/-- A port or a pavilion unit, or MC1, is fenced (R485 to R487). Other tiles are fenced by their own blocks. -/
def State.fence (s : State) (source index : Nat) : State :=
  if source < 16 then
    if s.bit Reg.FC_FENCE_PORT source then s
    else
      let s := s.stopPort source
      let s := s.setBit Reg.FC_FENCE_PORT source
      ((List.range 64).filter (fun ch => s.on (Reg.ST_BINDn ch) Fld.ST_BINDn_VALID
        && !s.on (Reg.ST_BINDn ch) Fld.ST_BINDn_TUNNEL && s.fld (Reg.ST_BINDn ch) Fld.ST_BINDn_PORT == source)).foldl
        (fun s ch => s.stopStream ch (128 + source)) s
  else match unitOf source index with
    | some (k, n) =>
      if s.fenced k n then s
      else
        let chans := (List.range 64).filter (fun ch => s.on (Reg.ST_BINDn ch) Fld.ST_BINDn_VALID && s.routeUnit ch k == some n)
        let s := (s.setBit (fenceReg k n).1 (fenceReg k n).2).clearUnit k n
        chans.foldl (fun s ch => s.affect k n ch) s
    | none =>
      if source = 50 ∧ index = 1 then
        (s.setFld Reg.FC_FENCE_UNIT_HI Fld.FC_FENCE_UNIT_HI_MC1 1).setFld Reg.MGT_STATUS Fld.MGT_STATUS_MC1_RUN 0
      else s

/-- The spare's context holds the records of the assignment (R586). -/
def doSpareLoad (ch k n : Nat) (s : State) : State :=
  match s.lodge.moves.find? (fun m => m.ch == ch && m.kind == k && m.unit == n && m.loadUntil.isSome) with
  | none => s
  | some m =>
    let q := m.spare / (if k = 0 then 4 else if k = 2 then 1 else 2)
    let recs := groupRecs (s.recipePart m.recipe q) k n m.spare
    let s := recs.foldl (fun s (x : LoadRec) => if swapSkips x.off then s else s.loadWrite false x.off x.val) s
    let s := { s with ctxRecipe := recs.foldl (fun t (x : LoadRec) => Table.set t (ownerOf x.off) (some m.recipe)) s.ctxRecipe }
    s.modLodge (fun l => { l with moves := l.moves.map (fun x => if x = m then { x with loadUntil := none } else x) })

def execSpareLoadDone (ch k n : Nat) (s : State) : Host.Outcome State Fault Refusal :=
  answer s (ch < 64 && k < 5 && n < unitCount k) (doSpareLoad ch k n s)

/-! ### The fault state (R490, R507, R508) -/

/-- An entry on the bus of a controller whose balls are released ends: with BUS_ERR, its progress free; a mirrored one belongs to
the new lead. -/
def State.twDropEntry (s : State) (k : Nat) : State :=
  if !(s.tw.get k).live then s
  else if s.twMirrored k then (s.modTw k (fun x => { x with cur := none, live := false })).showTw k
  else s.twAbort k

/-- What R490 ends at device level: ports stop, every shared ball is released, DMA channels stop. -/
def State.releaseAll (s : State) : State :=
  let s := (List.range 16).foldl (fun s n => (if (s.port.get n).running then s.stopPort n else s).unterminate n) s
  let s := (List.range 32).foldl (fun s i => s.emit (.pin "STB_OUT" i 2)) s
  let s := (List.range 8).foldl (fun s k => s.twDropEntry k) s
  (List.range 32).foldl (fun s c => s.dmaStop c) s

/-- The quiet period in ns (R490). -/
def State.quietNs (s : State) : Nat := 1000000 * max 10 (s.fld Reg.FC_QUIET Fld.FC_QUIET_MS)

/-- A TAKE message (R499). -/
def State.sendTake (s : State) (t0 cause : Nat) : State := s.toPartner 7 [cause, t0 % 2 ^ 32, t0 / 2 ^ 32]

/-- Device level (R490): the fault state. A lead with a shadow in step fixes a takeover 1 µs ahead, and releases its balls for it;
a handover that was already fixed keeps its T0 (R507, R512). Its ports stop at once (R121). -/
def State.deviceLevel (s : State) : State :=
  let s := (s.setFc 2).fcEvent Fld.FC_EVENT_FAULT
  let s := s.modLodge (fun l => { l with
    escUntil := none, quietUntil := some (s.now + s.quietNs), faultTimes := l.faultTimes ++ [s.now] })
  if s.twinState = 2 ∧ s.partnerState = 5 then
    let t0 := match s.twin.take with | some (t, _) => t | none => (s.invar + 1000) % 2 ^ 64
    let rel := s.twin.take.isSome && s.twin.released
    let s := (List.range 16).foldl (fun s n => if (s.port.get n).running then s.haltPort n else s) s
    let s := if rel then s.releaseAll else s
    { s with twin := { s.twin with take := some (t0, 1), released := rel } }.sendTake t0 1
  else
    let s := { s with twin := { s.twin with take := none, released := false } }
    let s := s.releaseAll
    if s.twinState = 0 then s else s.setTwin 7

/-! ### Signals (R482, R483, R488) -/

/-- A corrected signal (R482); its log entry is written at most once per source in any 1 ms. -/
def State.lodgeCorrected (s : State) (source : Nat) : State :=
  let s := (if source < 32 then s.setBit Reg.FC_CORR_LO source else s.setBit Reg.FC_CORR_HI (source - 32)).count Reg.FC_CORR_CNT
  let s := s.fcEvent Fld.FC_EVENT_CORR
  if (s.lodge.corrLogged.get source).any (fun t => decide (s.now < t + 1000000)) then s
  else (s.modLodge (fun l => { l with corrLogged := Table.set l.corrLogged source (some s.now) })).log 0x0E 0 9 source

/-- The escalation time in ns (FC_ESC_TIME). -/
def State.escNs (s : State) : Nat := 1000 * min 1000000 (max 100 (s.fld Reg.FC_ESC_TIME Fld.FC_ESC_TIME_US))

/-- An error signal acts by its class (R480, R483, R485, R488). -/
def State.lodgeError (s : State) (source index : Nat) : State :=
  match s.classOf source index with
  | 0 => s.lodgeCorrected source
  | c =>
    let old := s
    let s := (if source < 32 then s.setBit Reg.FC_STATUS_LO source else s.setBit Reg.FC_STATUS_HI (source - 32)).log 0x0E 0 0xA
      (source * 256 + c)
    let s := (s.faultPin old).modLodge (fun l => { l with
      touched := if l.touched.contains source then l.touched else l.touched ++ [source] })
    match s.fcState with
    | 0 =>
      if c = 2 then s.deviceLevel
      else
        let id := (s.fld Reg.FC_ESC_STATUS Fld.FC_ESC_STATUS_EPISODE_ID + 1) % 2 ^ 16
        let s := s.fence source index
        let s := (((s.setFc 1).setFld Reg.FC_ESC_STATUS Fld.FC_ESC_STATUS_EPISODE_ID id).count Reg.FC_EPISODE).fcEvent
          Fld.FC_EVENT_EPISODE
        s.modLodge (fun l => { l with escUntil := some (s.now + s.escNs) })
    | 1 => if c = 2 then s.deviceLevel else s.fence source index
    | 2 => s.modLodge (fun l => { l with quietUntil := some (s.now + s.quietNs) })
    | _ => s

/-- A signal that a block has raised is taken. -/
def State.takeSig (s : State) (sig : LodgeSig) (act : State → State) : State :=
  if s.lodge.raised.contains sig then act (s.modLodge (fun l => { l with raised := l.raised.erase sig })) else s

def execLodgeErrorSignal (source index : Nat) (s : State) : Host.Outcome State Fault Refusal :=
  answer s (source < 55 && index < 8) (s.takeSig ⟨source, index, false⟩ (fun s => s.lodgeError source index))

def execLodgeCorrectedSignal (source index : Nat) (s : State) : Host.Outcome State Fault Refusal :=
  answer s (source < 55 && index < 8) (s.takeSig ⟨source, index, true⟩ (fun s => s.lodgeCorrected source))

/-! ### Acknowledgement, escalation, recovery (R488, R489, R491) -/

/-- A write of FC_ACK. -/
def State.fcAck (s : State) (data : Word) : State :=
  let id := Fld.FC_ACK_ID.get data
  if s.fcState = 1 ∧ id = s.fld Reg.FC_ESC_STATUS Fld.FC_ESC_STATUS_EPISODE_ID then
    ((s.setFc 0).modLodge (fun l => { l with escUntil := none, touched := [] })).log 0x0E 0 0xB id
  else (s.count Reg.FC_ACK_IGN_CNT).fcEvent Fld.FC_EVENT_ACK_IGN

def execFcAck (i : Initiator) (data : Word) (s : State) : Host.Outcome State Fault Refusal :=
  answer s true (s.swWrite i Reg.FC_ACK data (fun s => s.fcAck data))

/-- The timer expires once its time has passed, so an acknowledgement or a contained error at that very instant comes first (R489). -/
def execEscalationTimeout (s : State) : Host.Outcome State Fault Refusal :=
  answer s true
    (if s.fcState = 1 ∧ s.lodge.escUntil.any (fun t => decide (t < s.now)) = true then
      (s.fcEvent Fld.FC_EVENT_ESCALATED).deviceLevel
    else s)

/-- The fences of the Lodge, as sources and indices. -/
def State.fences (s : State) : List (Nat × Nat) :=
  ((List.range 16).filter (fun n => s.bit Reg.FC_FENCE_PORT n)).map (fun n => (n, 0))
    ++ (List.range 16).flatMap (fun k => (List.range 4).filterMap (fun i => match unitOf (16 + k) i with
      | some (kd, n) => if s.fenced kd n && !(kd == 2 && i != 0) then some (16 + k, i) else none
      | none => none))
    ++ (if s.on Reg.FC_FENCE_UNIT_HI Fld.FC_FENCE_UNIT_HI_MC1 then [(50, 1)] else [])

/-- The tiles of a source that R491 resets with its block. -/
def blockTiles (source : Nat) : List (Nat × Nat) :=
  if 16 ≤ source ∧ source < 32 then ((List.range 4).filter (fun i => (unitOf source i).isSome && !(source % 4 == 2 && i != 0))).map
    (fun i => (source, i))
  else [(source, if source = 46 then 8 else 0)]

/-- A tile comes back into service (R492): at their next document the streams that moved from it go back, also those that a fenced
spare has stopped since, and those that it stopped resume. -/
def State.unfence (s : State) (kind n : Nat) : State :=
  let tile := unitKey kind n
  let s := s.putBit (fenceReg kind n).1 (fenceReg kind n).2 false
  s.modLodge (fun l =>
    let ends (x : Nat × Nat) : Bool := x.2 == tile
      || l.moves.any (fun m => m.kind == kind && m.unit == n && m.ch == x.1 && x.2 == unitKey kind m.spare)
    let stops := l.stops.filter (fun x => !ends x)
    let free := (l.stops.filter (fun x => ends x && !stops.any (fun y => y.1 == x.1))).map (·.1)
    { l with
      stops := stops
      resume := l.resume ++ free
      moves := (l.moves.filter (fun m => m.moved || !(m.kind == kind && m.unit == n))).map (fun m =>
        if m.kind = kind ∧ m.unit = n then { m with back := true } else m) })

def State.unfencePort (s : State) (n : Nat) : State :=
  let s := (s.putBit Reg.FC_FENCE_PORT n false).modLodge (fun l =>
    let stops := l.stops.filter (fun x => x.2 != 128 + n)
    let free := (l.stops.filter (fun x => x.2 == 128 + n && !stops.any (fun y => y.1 == x.1))).map (·.1)
    { l with stops := stops, resume := l.resume ++ free })
  if s.on (Reg.SPn_CTRL n) Fld.SPn_CTRL_EN && !s.dark && !s.inBoot && !(s.port.get n).running then s.startPort n else s

/-- The quiet timer expires once its time has passed (R491), so an error signal at that very instant restarts it (R489): HELD on the fourth
entry within 60 s, otherwise recovery. -/
def doQuiet (s : State) : State :=
  if s.fcState ≠ 2 ∨ s.lodge.quietUntil.any (fun t => decide (t < s.now)) = false ∨ s.twin.take.isSome = true then s
  else
    let times := s.lodge.faultTimes.filter (fun t => decide (s.now < t + 60000000000))
    let s := s.modLodge (fun l => { l with faultTimes := times, quietUntil := none })
    if 4 ≤ times.length then s.setFc 3
    else
      let fences := s.fences
      let more := (s.lodge.touched.flatMap blockTiles).filter (fun t => !fences.any (fun f => f.1 == t.1))
      let s := (fences ++ more).foldl (fun s t => if t.1 = 50 ∧ t.2 = 0 then s else s.unitReset t.1 t.2) s
      let s := ((s.setFc 0).count Reg.FC_RECOVERIES).fcEvent Fld.FC_EVENT_RECOVERED
      let s := (s.log 0x0E 0 0xC (s.reg Reg.FC_RECOVERIES).toNat).modLodge (fun l => { l with touched := [] })
      let s := fences.foldl (fun s t => match unitOf t.1 t.2 with
        | some (k, n) => s.unfence k n
        | none => s) s
      let s := if s.twinState = 7 then s.setTwin (if s.on Reg.GLB_ROLE Fld.GLB_ROLE_PAIRED then 6 else 3) else s
      let s := (List.range 16).foldl (fun s n => s.unfencePort n) s
      (List.range 32).foldl (fun s i => if s.on (Reg.TB_STBi_CFG i) Fld.TB_STBi_CFG_DRIVE then s else s.strobePin i) s

def execQuietTimerExpiry (s : State) : Host.Outcome State Fault Refusal := answer s true (doQuiet s)

/-! ### Revival and injection (R492, R493) -/

/-- A write of FC_REVIVE. -/
def State.fcRevive (s : State) (data : Word) : State :=
  let src := Fld.FC_REVIVE_SOURCE.get data
  let idx := Fld.FC_REVIVE_INDEX.get data
  let names := if 16 ≤ src ∧ src < 32 then (unitOf src idx).isSome else if src = 50 then idx == 1 else decide (src < 55)
  if Fld.FC_REVIVE_GO.get data = 0 then s
  else if s.fcState ≠ 0 ∨ names = false ∨ (32 ≤ src ∧ src < 40) then s.fcEvent Fld.FC_EVENT_REVIVE_IGN
  else
    let s := s.unitReset src idx
    if src < 16 then s.unfencePort src
    else match unitOf src idx with
      | some (k, n) => s.unfence k n
      | none => s

def execFcRevive (i : Initiator) (data : Word) (s : State) : Host.Outcome State Fault Refusal :=
  answer s true (s.swWrite i Reg.FC_REVIVE data (fun s => s.fcRevive data))

/-- A write of FC_INJECT: the signal has the Lodge's own consequences only. -/
def State.fcInject (s : State) (data : Word) : State :=
  let src := Fld.FC_INJECT_SOURCE.get data
  let idx := Fld.FC_INJECT_INDEX.get data
  let names := if 16 ≤ src ∧ src < 32 then (unitOf src idx).isSome else if src = 50 then decide (idx < 2) else decide (src < 55)
  if Fld.FC_INJECT_GO.get data = 0 ∨ names = false then s
  else if Fld.FC_INJECT_KIND.get data = 0 then s.lodgeCorrected src
  else s.lodgeError src idx

def execFcInject (i : Initiator) (data : Word) (s : State) : Host.Outcome State Fault Refusal :=
  answer s true (s.swWrite i Reg.FC_INJECT data (fun s => s.fcInject data))

end Sys2Proof.Machine
end

