-- ==== Sys2Proof/Machine/Power.lean ====
section
/-! DEFINITION. Power states, islands, and the clock, temperature and supply alarms (spec/21, R518 to R532, R542). -/

namespace Sys2Proof.Machine

/-- The power states changed by `f`. -/
def State.modPwr (s : State) (f : PwrSt → PwrSt) : State := { s with pwr := f s.pwr }

/-- PCR_STATUS.STATE (R523). -/
def State.pwrState (s : State) : Nat := s.fld Reg.PCR_STATUS Fld.PCR_STATUS_STATE

/-- The exit latency of a power state in ns (R523). -/
def exitNs : Nat → Nat
  | 0 => 0 | 1 => 2000 | 2 => 60000 | _ => 8000000

/-- PCR_GUARD in ns (R527). -/
def State.guardNs (s : State) : Nat := 1000 * min 10000 (s.fld Reg.PCR_GUARD Fld.PCR_GUARD_US)

/-! ### When the device may sleep (R524 to R527) -/

/-- A GAP segmenter whose gap input is at its active level. -/
def State.gapActive (s : State) (g : Nat) : Bool :=
  s.fld (Reg.ST_SEGs_CFG g) Fld.ST_SEGs_CFG_SRC == 0 && s.trig (s.fld (Reg.ST_SEGs_CFG g) Fld.ST_SEGs_CFG_IN_A)

/-- A valid stream that is not continuous, and its segmenter's SRC. -/
def State.segUsers (s : State) : List Nat :=
  (List.range 64).filter (fun n => s.on (Reg.ST_BINDn n) Fld.ST_BINDn_VALID && !s.on (Reg.ST_BINDn n) Fld.ST_BINDn_CONT)
def State.segSrcOf (s : State) (n : Nat) : Nat :=
  s.fld (Reg.ST_SEGs_CFG (s.fld (Reg.ST_BINDn n) Fld.ST_BINDn_SEG)) Fld.ST_SEGs_CFG_SRC

/-- No document is in the device and none is near (R524). -/
def State.quietDocs (s : State) : Bool :=
  (List.range 4).all (fun g => !s.present g && !s.gapActive g)
    && (List.range 64).all (fun n => !(s.stream.get n).isOpen
      && !(s.on (Reg.ST_BINDn n) Fld.ST_BINDn_VALID && s.on (Reg.ST_BINDn n) Fld.ST_BINDn_CONT))

/-- No line or item waits in the device (R524). -/
def State.quietData (s : State) : Bool :=
  (List.range 4).all (fun p => s.pvLevel p == 0)
    && s.guCtx.all (fun (e : Nat × GuCtx) => e.2.ring.isEmpty)
    && s.queue.all (fun (e : Nat × List Item) => e.2.isEmpty)
    && s.arb.all (fun (e : Nat × ArbSt) => e.2.taken.isNone)
    && s.os.all (fun (e : Nat × OsSt) => e.2.held.isEmpty && (OsSt.buffered e.2).isEmpty && e.2.wait.isEmpty)
    && (List.range 32).all (fun c => s.dmaState c != 1)

/-- Nothing is outstanding on a two-wire bus, at the bridge or on the link (R524). -/
def State.quietLinks (s : State) : Bool :=
  s.tw.all (fun (e : Nat × TwSt) => e.2.cur.isNone && e.2.queue.isEmpty)
    && s.brg.reads.isEmpty && s.tun.isEmpty
    && s.grp.all (fun (e : Nat × GrpSt) => e.2.replay.isEmpty && e.2.queue.isEmpty)

/-- The device is quiet (R524). -/
def State.quiet (s : State) : Bool :=
  s.on Reg.PCR_CTRL Fld.PCR_CTRL_PWR_EN && s.quietDocs && s.quietData && s.quietLinks

/-- The earlier of two times; none is never. -/
def soonest : Option Nat → Option Nat → Option Nat
  | none, b => b
  | a, none => a
  | some a, some b => some (min a b)

/-- The Invar time of the predicted next document edge (R526): computed at the last encoder count of each stream's segmenter. -/
def State.predicted (s : State) : Option Nat :=
  if !s.on Reg.PCR_CTRL Fld.PCR_CTRL_PREDICT then none
  else if s.segUsers.any (fun n => decide (2 ≤ s.segSrcOf n)) then some s.invar
  else s.segUsers.foldl (fun best n =>
    let k := s.fld (Reg.ST_SEGs_CFG (s.fld (Reg.ST_BINDn n) Fld.ST_BINDn_SEG)) Fld.ST_SEGs_CFG_ENC
    let d := signed 32 (s.reg (Reg.ST_OFFSETn n)).toNat - s.fld (Reg.ST_MARGINn n) Fld.ST_MARGINn_LEAD
    let v := signed 32 (s.reg (Reg.TB_ENCk_VEL k)).toNat
    if v ≤ 0 then best else soonest best (some ((s.enc.get k).last + (d * 2 ^ 32 / v).toNat))) none

/-- The time from now to the next known event; none: infinite (R525). -/
def State.horizon (s : State) : Option Nat :=
  let next := (s.reg Reg.PCR_NEXT_EVENT_LO).toNat + (s.reg Reg.PCR_NEXT_EVENT_HI).toNat * 2 ^ 32
  let t := soonest (if next = 0 then none else some next) s.predicted
  let t := (List.range 8).foldl (fun t k =>
    if s.fld (Reg.TB_SCHEDk_CTRL k) Fld.TB_SCHEDk_CTRL_STATE = 1 then soonest t (some (s.slot.get k).time) else t) t
  let t := (List.range 32).foldl (fun t c =>
    if s.dmaState c = 2 ∧ s.dmaBits c 8 3 = 4 then soonest t (some (s.dmaWord c 4 + s.dmaWord c 5 * 2 ^ 32)) else t) t
  t.map (fun x => x - s.invar)

/-- P3 is taken only unpaired, without a PCI Express link, and where P3_EN allows it (R531). -/
def State.mayP3 (s : State) : Bool :=
  s.on Reg.PCR_CTRL Fld.PCR_CTRL_P3_EN && !s.on Reg.GLB_ROLE Fld.GLB_ROLE_PAIRED && !s.on Reg.GLB_PCIE_STATUS Fld.GLB_PCIE_STATUS_LINK_UP

/-- The horizon leaves room for a state. -/
def State.roomFor (s : State) (st : Nat) : Bool :=
  s.horizon.all (fun h => decide (exitNs st + s.guardNs ≤ h))

/-- The deepest state that qualifies (R527). -/
def State.chooseState (s : State) : Nat :=
  let most := s.fld Reg.PCR_CTRL Fld.PCR_CTRL_MAX_STATE
  match [3, 2, 1].find? (fun st => decide (st ≤ most) && s.roomFor st && (st != 3 || s.mayP3)) with
  | some st => st
  | none => 0

/-- PCR_HORIZON shows the horizon in µs (R525). -/
def State.showHorizon (s : State) : State :=
  s.setReg Reg.PCR_HORIZON (BitVec.ofNat 32 (match s.horizon with | none => 0xFFFFFFFF | some h => min 0xFFFFFFFE (h / 1000)))

/-! ### Entry (R528, R532) -/

/-- What the state shows of a wake cause; `pin` is TRIG_IN, then GPIO from 16, then ALERT_N from 32. -/
def State.wakes (s : State) (cause pin : Nat) : Bool :=
  match cause with
  | 1 => !s.roomFor (if s.pwrState = 0 then (s.pwr.entry.map (·.1)).getD 0 else s.pwrState)
  | 2 => (List.range 4).any (fun g => s.gapActive g
      || (s.fld (Reg.ST_SEGs_CFG g) Fld.ST_SEGs_CFG_SRC == 1 && (s.seg.get g).dueLead.isSome))
  | 3 => if pin < 32 then s.bit Reg.PCR_WAKE_EN_PIN pin else s.bit Reg.PCR_WAKE_EN_ALERT (pin - 32)
  | 4 => s.dma.any (fun (e : Nat × DmaSt) => e.2.trigSeen)
  | 5 => decide (pin < 3)
  | 6 => s.lodge.raised.any (fun r => !r.corrected)
  | 7 => !s.on Reg.PCR_CTRL Fld.PCR_CTRL_PWR_EN
  | 8 => s.inP3
  | _ => false

/-- A quiet device chooses its state, unless a wake event meets the choice (R530); the lead of a pair names the moment to its partner (R527,
R532). A following device never chooses. -/
def State.choosePower (s : State) : State :=
  if s.pwr.entry.isSome || s.pwr.exitAt.isSome || s.pwrState != 0 || s.follows || !s.quiet || [2, 4, 6].any (fun c => s.wakes c 0) then s
  else
    let s := s.showHorizon
    let st := s.chooseState
    if st = 0 then s
    else
      let t := if s.leadsPair then s.invar + 2000 else s.invar
      (s.sendDec 7 0 0 1 0 0 (st, t % 2 ^ 32, t / 2 ^ 32)).modPwr (fun p => { p with entry := some (st, t) })

/-- The generators that run. -/
def State.runningGens (s : State) : Nat := (s.reg Reg.TB_STB_RUN).toNat

/-- Entry at its time: the running generators are held, and once their pulses have ended and no port owes a line the groups are
asked to sleep and the islands stop (R528). -/
def State.enterPower (s : State) : State :=
  match s.pwr.entry with
  | none => s
  | some (st, t) =>
    if s.invar < t then s
    else
      let s := s.modPwr (fun p => { p with held := s.runningGens })
      if s.gen.any (fun (e : Nat × GenSt) => !e.2.pulses.isEmpty)
          || s.entry.any (fun (e : Nat × EntrySt) => decide (e.1 < 128) && !e.2.owed.isEmpty) then s
      else
        let s := (s.lpRequest 0 (min st 2)).lpRequest 1 (min st 2)
        ((s.setFld Reg.PCR_STATUS Fld.PCR_STATUS_STATE st).count (Reg.PCR_CNTk (st - 1))).modPwr
          (fun p => { p with entry := none, awake := [] })

def doPowerEntry (s : State) : State := s.choosePower.enterPower

def execPowerStateEntry (s : State) : Host.Outcome State Fault Refusal := answer s true (doPowerEntry s)

/-! ### Wake and exit (R529, R530) -/

/-- The device leaves its state, or the entry that it was making (R529, R530). -/
def State.wakeUp (s : State) (cause : Nat) : State :=
  if s.pwr.exitAt.isSome then s
  else if s.pwrState ≠ 0 then
    let st := s.pwrState
    let s := (s.setFld Reg.PCR_WAKE_LAST Fld.PCR_WAKE_LAST_CAUSE cause).modPwr (fun p => { p with exitAt := some (s.now, st) })
    ((s.lpExit 0).lpExit 1).sendDec 7 0 0 1 0 0 (0, s.invar % 2 ^ 32, s.invar / 2 ^ 32)
  else match s.pwr.entry with
    | none => s
    | some (st, _) =>
      let s := (s.setFld Reg.PCR_STATUS Fld.PCR_STATUS_ENTRY_ABORT 1).count (Reg.PCR_CNTk 3)
      (s.modPwr (fun p => { p with entry := none, exitAt := some (s.now, st) })).sendDec 7 0 0 1 0 0
        (0, s.invar % 2 ^ 32, s.invar / 2 ^ 32)

/-- A wake event; a following device waits for its lead (R532). -/
def doPowerWake (cause pin : Nat) (s : State) : State :=
  if s.follows || !s.wakes cause pin then s else s.showHorizon.wakeUp cause

def execPowerWake (cause pin : Nat) (s : State) : Host.Outcome State Fault Refusal :=
  answer s (1 ≤ cause && cause < 9 && pin < 40) (doPowerWake cause pin s)

/-- A held generator starts again with phase 0, its grid point set as at a start (R295, R529). -/
def State.genRestart (s : State) (i : Nat) : State :=
  s.modGen i (fun g => { g with
    phase := 0
    grid := if s.genSrc i == 2 && decide (s.genIdx i < 2) then s.p64 (s.genIdx i) + (max 1 (s.genPitch i) : Nat) else g.grid })

/-- The pins' latches of P3 make their sources pending (R468). -/
def State.latchedPins (s : State) : State :=
  (List.range 48).foldl (fun s pin =>
    let st := s.ic.src.get (208 + pin)
    if isPin (208 + pin) && st.edgeLatch then
      { s with ic := { s.ic with src := s.ic.src.set (208 + pin) { st with edgeLatch := false } } }.icPend (208 + pin)
    else s) s

/-- The cores restart from their reset vectors after P3, with their memories kept, and their watchdogs with them (R529). -/
def State.coresRestart (s : State) : State :=
  { s with mgt := { s.mgt with wdtAt := Table.set (Table.set s.mgt.wdtAt 0 s.now) 1 s.now } }

/-- The exit latency has passed (R529). -/
def doPowerExit (s : State) : State :=
  match s.pwr.exitAt with
  | none => s
  | some (t, st) =>
    if s.now < t + exitNs st then s
    else
      let slept := s.pwrState ≠ 0
      let s := (List.range 32).foldl (fun s i => if bitB s.pwr.held i then s.genRestart i else s) s
      let s := { s with entry := (List.range 128).foldl (fun t e => Table.modify t e (fun (x : EntrySt) => { x with phase := 0 })) s.entry }
      let s := if st = 3 ∧ slept then s.latchedPins.coresRestart else s
      let s := if slept then (s.setFld Reg.PCR_STATUS Fld.PCR_STATUS_STATE 0).setFld Reg.PCR_STATUS Fld.PCR_STATUS_WAKE 1 else s
      s.modPwr (fun p => { p with held := 0, exitAt := none, awake := [] })

def execPowerExitComplete (s : State) : Host.Outcome State Fault Refusal := answer s true (doPowerExit s)

/-- The partner's power decision (R532): a state and its time, or an exit. -/
def State.powerDecision (s : State) (st t : Nat) : State :=
  if st = 0 then s.wakeUp 9
  else if s.pwrState ≠ 0 ∨ s.pwr.exitAt.isSome = true then s
  else s.modPwr (fun p => { p with entry := some (st, t) })

/-! ### Islands (R518, R522) -/

/-- Whether a power state stops an island (R523): AON is 0, SP0 to SP15 are 1 to 16, the pavilions 17 to 20, PGL 21, the frame-memory
channels 22 to 29, DMA 30, PCIE 31, LNK L0, L1 and T 32 to 34, BRG 35, MGT 36, CTL 37. -/
def islandStops (st isl : Nat) : Bool :=
  if st = 0 ∨ isl = 0 then false else if st = 3 then true else !(isl == 31 || isl == 34 || isl == 36 || isl == 37)

/-- An access to a stopped island wakes that island alone (R522); in P3 it wakes the device, and while the device exits it waits. -/
def doIslandWake (isl : Nat) (s : State) : State :=
  if !islandStops s.pwrState isl || s.pwrState == 3 || s.pwr.exitAt.isSome then s
  else
    let fresh := !s.pwr.awake.any (fun a => a.1 == isl)
    let s := s.modPwr (fun p => { p with awake := p.awake.filter (fun a => a.1 != isl) ++ [(isl, s.now)] })
    if fresh then s.count (Reg.PCR_CNTk 4) else s

def execIslandWake (isl : Nat) (s : State) : Host.Outcome State Fault Refusal := answer s (isl < 38) (doIslandWake isl s)

/-- After 10 µs without an access the island returns (R522). -/
def doIslandReturn (isl : Nat) (s : State) : State :=
  s.modPwr (fun p => { p with awake := p.awake.filter (fun a => !(a.1 == isl && decide (a.2 + 10000 ≤ s.now))) })

def execIslandIdleReturn (isl : Nat) (s : State) : Host.Outcome State Fault Refusal := answer s (isl < 38) (doIslandReturn isl s)

/-! ### Clocks, temperature, supplies (R542, R565) -/

def execPllLockLoss (s : State) : Host.Outcome State Fault Refusal := answer s true (s.raiseError 53 0)

/-- A reading of the junction temperature, in two's complement quarters of a degree. -/
def doThermal (temp : Nat) (s : State) : State :=
  let t := signed 12 temp
  let warn : Int := 4 * (s.fld Reg.PCR_CFG Fld.PCR_CFG_THERM_WARN : Nat)
  let s := s.setFld Reg.PCR_TEMP Fld.PCR_TEMP_TEMP temp
  let s := if warn ≤ t then
      (if s.pwr.warned then s else (s.setFld Reg.PCR_STATUS Fld.PCR_STATUS_THERM_WARN 1).modPwr (fun p => { p with warned := true }))
    else if t ≤ warn - 20 then s.modPwr (fun p => { p with warned := false })
    else s
  if 460 < t then s.raiseError 52 0 else s

def execThermalAlarm (temp : Nat) (s : State) : Host.Outcome State Fault Refusal := answer s (temp < 4096) (doThermal temp s)

/-- While RST_N is low the monitors signal nothing (R569). -/
def execSupplyOutOfWindow (s : State) : Host.Outcome State Fault Refusal :=
  answer s true (if s.boot.rstLow then s else s.raiseError 52 0)

end Sys2Proof.Machine
end

