-- ==== Sys2Proof/Machine/Twin.lean ====
section
/-! DEFINITION. Twin pairs (spec/20): decisions and reports from the partner, the heartbeat, partner loss, takeover, handover,
admission, and the head lead on a HOST device. -/

namespace Sys2Proof.Machine

/-- Twin control changed by `f`. -/
def State.modTwin (s : State) (f : TwinSt → TwinSt) : State := { s with twin := f s.twin }

/-- A class 7 item of a type is taken from group T, and `f` acts on its words. -/
def State.fromPartner (s : State) (typ : Nat) (f : List Nat → State → State) : State :=
  match s.takeItem 2 7 typ with
  | (s, none) => s
  | (s, some (_, words)) => f words s

/-- Entries of `n` words. -/
def entriesOf (n : Nat) (words : List Nat) : List (List Nat) := (chunks n words.length words).filter (fun c => c.length == n)

/-! ### Decisions (R499, R504) -/

/-- The place of a number before another in a sequence modulo 2^32. -/
def before32 (a b : Nat) : Bool := decide (signed 32 (unsigned 32 ((a : Int) - b)) < 0)

/-- The next line of a channel without an admission, and without a capture. -/
def State.nextAdm (s : State) (ch : Nat) : Nat :=
  let c := s.chan.get ch
  ((c.wait.find? (fun w => w.stage == 1)).map (·.seq)).getD c.seq
def State.nextCap (s : State) (ch : Nat) : Nat :=
  let c := s.chan.get ch
  ((c.wait.find? (fun w => w.stage == 0)).map (·.seq)).getD c.capSeq

/-- The context of a GU that serves a stream. -/
def State.decGrid (s : State) (p ch idx g outcome : Nat) : State :=
  match s.guContext p ch idx with
  | none => s
  | some c =>
    let s := s.modGuC p c (fun k => { k with decs := k.decs ++ [(idx, g, outcome)] })
    State.guSettle ((s.guC p c).wait.length + 1) s p c

/-- The latched recipe of a latch point as the lead decided it (R61). -/
def State.decLatch (s : State) (idx doc r : Nat) : State :=
  let s := { s with image := { s.image with latchWait := s.image.latchWait.filter (fun w => w.1 != idx) } }
  if s.image.latches.any (fun l => l.idx == idx) then s else s.recordLatch idx doc r

/-- A load of recipe `r` begins on pavilion `p` now, since the lead's decision on it has come (R61). -/
def State.decLoadStart (s : State) (p r : Nat) : State :=
  { s with pav := s.pav.modify p (fun x => { x with
    loading := some r, loadAfter := (s.pvChans p).foldl (fun t n => t.set n (s.chan.get n).passed) [] }) }

/-- The outcome of a pavilion's load as the lead decided it, for the document at place `place` of channel `ch` (R61): the first entry of a
completed load loads the recipe, and each gives its channel's place. -/
def State.decLoad (s : State) (p ch outcome r place : Nat) : State :=
  if outcome = 1 then
    let s := if (s.pav.get p).recipe = some r then s else (s.decLoadStart p r).finishLoad p
    { s with pav := s.pav.modify p (fun x => { x with after := x.after.set ch place }) }
  else if (s.pvChans p).head? = some ch then (s.decLoadStart p r).abandonLoad p
  else s

/-- A decision of the lead takes effect (R61, R92, R125, R147, R187, R209, R532). -/
def State.applyDec (s : State) (e : List Nat) : State :=
  let w (i : Nat) : Nat := e.getD i 0
  let ch := w 0 / 2 ^ 4 % 64
  let unit := w 0 / 2 ^ 10 % 64
  let outcome := w 0 / 2 ^ 16 % 2
  let reason := w 0 / 2 ^ 17 % 4
  match w 0 % 16 with
  | 0 =>
    if before32 (w 1) (s.nextAdm ch) then s
    else (s.modChan ch (fun c => { c with adms := c.adms ++ [(w 1, outcome, reason)] })).settle ch
  | 1 => match reason with
    | 0 => s.fillOwed unit ch
    | 1 => s.closeMissing unit ch
    | _ => s.decStale unit ch
  | 2 => s.decMember unit ch (w 2) (w 1)
  | 3 => s.decGrid unit ch (w 2) (w 1) outcome
  | 4 => if reason = 0 then s.decLatch (w 1) (w 3) (w 2) else s.decLoad unit ch outcome (w 2) (w 1)
  | 5 =>
    if outcome = 1 then (s.declareLead unit (w 3) (w 2)).setReg (Reg.ST_SEGs_NEXT_DOC unit) (BitVec.ofNat 32 (w 2 + 1))
    else s.declareTrail unit (w 3)
  | 6 =>
    if before32 (w 1) (s.nextCap ch) then s
    else (s.modChan ch (fun c => { c with caps := c.caps ++ [(w 1, w 2 + w 3 * 2 ^ 32, w 4, edgeMark (s.segOf ch).docs - unit)] })).settle ch
  | 7 => s.powerDecision (w 2) (w 3 + w 4 * 2 ^ 32)
  | _ => s

def doTwinDec (s : State) : State :=
  s.fromPartner 1 (fun words s => if s.follows then (entriesOf 5 words).foldl (fun s e => s.applyDec e) s else s)

def execTwinDecReceive (s : State) : Host.Outcome State Fault Refusal := answer s true (doTwinDec s)

/-- A decision of the lead is missing 2 µs after it was needed (R504). -/
def State.decMissing (s : State) : State :=
  ((s.twinEvent Fld.TWN_EVENT_DEC_LATE).count (Reg.TWN_CNTk 3)).raiseError 54 0

/-- What the device decides by itself in place of the missing decision (R504): none where nothing waits that long. Kind 1: the fill of
port `a`, entry `b`, or from `b` = 8 the frame close of channel `b` - 8; kind 4: the oldest latch point, or for `a` = 1 the load of
pavilion `b`; kind 5: segmenter `a`; kind 6: stream `a`. -/
def State.decideLate (s : State) (kind a b : Nat) : Option (State → State) :=
  match kind with
  | 1 =>
    if b < 8 then
      let x := s.entry.get (8 * a + b)
      (match x.owed with
      | o :: _ => if o.deadline.any (fun t => decide (t + 2000 ≤ s.now)) || (x.owed.drop 16).any (fun q => decide (q.time + 2000 ≤ s.invar))
        then some (fun s => s.fillOwed a b) else none
      | [] => if x.held.head?.any (fun l => decide (l.at_ + 2000 ≤ s.now)) then some (fun s => s.decStale a b) else none)
    else
      let t := s.fld (Reg.SPn_FRAME_TIMEOUT a) Fld.SPn_FRAME_TIMEOUT_TIMEOUT
      (match s.openOn a (b - 8) with
      | k :: _ => if t ≠ 0 ∧ (s.entry.get (8 * a + k)).lastPkt + t * 1000 + 2000 ≤ s.now then some (fun s => s.closeMissing a (b - 8))
        else none
      | [] => none)
  | 4 =>
    if a = 1 then
      let pv := s.pav.get b
      if pv.loading.isSome && decide (pv.loadUntil + 2000 ≤ s.now) then
        some (fun s => if s.windowOpen b then s.finishLoad b else s.abandonLoad b)
      else none
    else
      (match s.image.latchWait with
      | w :: rest => if w.2.2 + 2000 ≤ s.now then
          some (fun s => { s with image := { s.image with latchWait := rest } }.latchHere w.1 w.2.1)
        else none
      | [] => none)
  | 5 =>
    if (s.leadDue a).isSome then some (fun s => s.segLead a none)
    else (s.trailDue a).map (fun pos => fun s => s.declareTrail a pos)
  | 6 =>
    (match (s.chan.get a).wait with
    | w :: _ => if w.stage = 0 ∧ w.began + 2000 ≤ s.now then
        some (fun s => (s.modChan a (fun c => { c with caps := c.caps ++ [(w.seq, w.line.tag.time, w.line.tag.enc, edgeMark (s.segOf a).docs)] })).settle a)
      else none
    | [] => none)
  | _ => none

def doDecLate (kind a b : Nat) (s : State) : State :=
  if !s.follows then s
  else match s.decideLate kind a b with
    | some f => f s.decMissing
    | none => s

def execDecLate (kind a b : Nat) (s : State) : Host.Outcome State Fault Refusal :=
  answer s (kind < 8 && a < 64 && b < 24 && (kind != 1 || a < 16) && (kind != 5 || a < 4)) (doDecLate kind a b s)

/-! ### Seal and record reports (R505, R506) -/

def doTwinSeal (s : State) : State :=
  s.fromPartner 2 (fun words s =>
    if s.compares then
      (entriesOf 4 words).foldl (fun s e => s.sealReport (e.getD 0 0 % 32) (e.getD 1 0) (e.getD 2 0) (e.getD 3 0)) s
    else s)

def execTwinSealReceive (s : State) : Host.Outcome State Fault Refusal := answer s true (doTwinSeal s)

def doTwinRec (s : State) : State :=
  s.fromPartner 3 (fun words s =>
    if s.compares then
      (entriesOf 4 words).foldl (fun s e =>
        s.recReport (e.getD 0 0 % 8) (e.getD 0 0 / 16 % 8) (e.getD 1 0) (e.getD 2 0) (e.getD 3 0)) s
    else s)

def execTwinRecReceive (s : State) : Host.Outcome State Fault Refusal := answer s true (doTwinRec s)

/-! ### The admission snapshot (R515) -/

/-- Lists of words in one message: each after its length. -/
def packLists (l : List (List Nat)) : List Nat := l.flatMap (fun x => x.length :: x)
def unpackLists : Nat → List Nat → List (List Nat)
  | 0, _ => []
  | _ + 1, [] => []
  | fuel + 1, n :: t => t.take n :: unpackLists fuel (t.drop n)

/-- A channel of the snapshot: its store, position and loops. -/
def snapDma (d : DmaSt) : List Nat :=
  [b2n d.loading, d.pc, d.off, d.done, d.idx, b2n d.doc.isSome, d.doc.getD 0, d.moved, d.retired, d.stats, d.lastLine, d.loops.length]
    ++ d.loops.flatMap (fun l => [l.first, l.last, l.count, l.iter, unsigned 32 l.srcInc, unsigned 32 l.dstInc]) ++ d.prog

/-- The channel that a snapshot's words give. -/
def unsnapDma (x : List Nat) : DmaSt :=
  let w (i : Nat) : Nat := x.getD i 0
  let loops := (entriesOf 6 ((x.drop 12).take (6 * w 11))).map (fun l =>
    (⟨l.getD 0 0, l.getD 1 0, l.getD 2 0, l.getD 3 0, signed 32 (l.getD 4 0), signed 32 (l.getD 5 0)⟩ : DmaLoop))
  { (default : DmaSt) with
    loading := w 0 == 1, pc := w 1, off := w 2, done := w 3, idx := w 4, doc := if w 5 = 1 then some (w 6) else none
    moved := w 7, retired := w 8, stats := w 9, lastLine := w 10, loops := loops, prog := x.drop (12 + 6 * w 11)
    follow := some (w 8, w 7, w 9) }

/-- A stream and its channel in the snapshot. -/
def State.snapStream (s : State) (n : Nat) : List Nat :=
  let st := s.stream.get n
  let c := s.chan.get n
  [b2n st.isOpen, st.idx, st.doc, st.lead, st.minL, st.maxL, st.next, st.blocks, st.gapIdx.getD (2 ^ 32), c.seq, c.capSeq,
    c.begun, c.passed]

/-- Registers of a table as pairs, without the local ones (R501). -/
def mirroredPairs (t : Table Word) : List Nat := (t.filter (fun e => !isLocal e.1)).flatMap (fun e => [e.1, e.2.toNat])

/-- The lead sends its snapshot: registers, recipe values, LU tables, segmenters, streams, DMA channels, two-wire queues,
recipes, placement pointers of statistics. -/
def State.sendSnap (s : State) : State :=
  let segs := (List.range 4).map (fun g => (s.seg.get g).docs.flatMap (fun d => [d.doc, d.lead, b2n d.trail.isSome, d.trail.getD 0]))
  let dmas := (List.range 32).map (fun c => if s.dmaMirrored c then snapDma (s.dma.get c) else [])
  let tws := (List.range 8).map (fun k => if s.twMirrored k then
      let x := s.tw.get k
      packLists ((x.cur.toList ++ x.queue).map (fun e => TwEntry.words e k))
    else [])
  let recipes := [s.image.latches.flatMap (fun l => [l.idx, l.doc, l.recipe]),
    (List.range 4).map (fun p => match (s.pav.get p).recipe with | some r => r + 1 | none => 0),
    s.ctxRecipe.flatMap (fun e => [e.1, match e.2 with | some r => r + 1 | none => 0]),
    (List.range 32).map (fun n => (s.os.get n).ptr)]
  s.toPartner 8 (packLists ([mirroredPairs s.regs, mirroredPairs s.imgRegs, s.luTable.flatMap (fun e => [e.1, e.2.toNat])]
    ++ segs ++ (List.range 64).map (fun n => s.snapStream n) ++ dmas ++ tws ++ recipes))

/-- What the device held of lines and items before its admission is gone (R516). -/
def State.emptyPath (s : State) : State :=
  let s := (List.range 4).foldl (fun s p => s.setFld (Reg.PGL_PVp_LEVEL p) Fld.PGL_PVp_LEVEL_LEVEL_KIB 0) s
  { s with
    queue := [], arb := [], chan := [], luCtx := [], muCtx := [], muGrp := [], guCtx := [], guPath := [], guSlot := [], os := []
    seg := [], stream := [], dmaDisc := []
    bu := s.bu.map (fun e => (e.1, { e.2 with cur := none, due := [], recOwn := [], recFar := [] })) }

/-- Pairs of a snapshot's list. -/
def pairsOf (x : List Nat) : List (Nat × Nat) := (entriesOf 2 x).map (fun e => (e.getD 0 0, e.getD 1 0))

/-- What shows the device's own lanes, pins and clock in mirrored registers stays over the snapshot (R122, R292, R515;
notes/assumptions/142.md): the lane fields of SPn_STATUS, TB_PIN_LEVEL and TB_SYNC_STATUS. -/
def State.keepOwn (s own : State) : State :=
  let s := (List.range 16).foldl (fun s n => [Fld.SPn_STATUS_TERM_ACTIVE, Fld.SPn_STATUS_ULPS, Fld.SPn_STATUS_RX_ACTIVE].foldl
    (fun s f => s.setFld (Reg.SPn_STATUS n) f (own.fld (Reg.SPn_STATUS n) f)) s) s
  [Reg.TB_PIN_LEVEL, Reg.TB_SYNC_STATUS].foldl (fun s o => s.setReg o (own.reg o)) s

/-- The snapshot takes effect on the admitted device; what its ports' lanes show stays. A stream whose document is open on the lead waits to join. -/
def State.applySnap (s : State) (words : List Nat) : State :=
  let ls := unpackLists (words.length + 1) words
  let part (i : Nat) : List Nat := ls.getD i []
  let own := s
  let s := s.emptyPath
  let keep (t : Table Word) : Table Word := t.filter (fun e => isLocal e.1)
  let s := { s with regs := keep s.regs, imgRegs := keep s.imgRegs, luTable := [] }
  let s := (pairsOf (part 0)).foldl (fun s e => s.setReg e.1 (BitVec.ofNat 32 e.2)) s
  let s := s.keepOwn own
  let s := { s with imgRegs := (pairsOf (part 1)).foldl (fun (t : Table Word) (e : Nat × Nat) => Table.setD t (resetWord e.1) e.1 (BitVec.ofNat 32 e.2)) s.imgRegs }
  let s := { s with luTable := (pairsOf (part 2)).foldl (fun (t : Table Word) (e : Nat × Nat) => Table.setD t luTableInit e.1 (BitVec.ofNat 32 e.2)) [] }
  let s := (List.range 4).foldl (fun s g => s.modSeg g (fun x => { x with docs := (entriesOf 4 (part (3 + g))).map (fun (d : List Nat) =>
    (⟨d.getD 0 0, d.getD 1 0, if d.getD 2 0 = 1 then some (d.getD 3 0) else none⟩ : DocDecl)) })) s
  let s := (List.range 64).foldl (fun s n =>
    let x := part (7 + n)
    let w (i : Nat) : Nat := x.getD i 0
    let open_ := w 0 == 1
    let s := s.modStream n (fun st => { st with
      isOpen := open_, idx := w 1, doc := w 2, lead := w 3, minL := w 4, maxL := w 5, next := w 6, blocks := w 7
      gapIdx := if w 8 = 2 ^ 32 then none else some (w 8), waitJoin := open_
      joinDoc := if w 1 = 0 ∧ open_ = false then 0 else (w 2 + 1) % 2 ^ 32 })
    s.modChan n (fun c => { c with seq := w 9, capSeq := w 10, begun := w 11, passed := w 12 })) s
  let s := (List.range 32).foldl (fun s c => if s.dmaMirrored c then s.modDma c (fun _ => unsnapDma (part (71 + c))) else s) s
  let s := (List.range 8).foldl (fun s k => if s.twMirrored k then
      let es := unpackLists 64 (part (103 + k))
      (s.modTw k (fun _ => { (default : TwSt) with queue := es.map (fun (e : List Nat) => twEntryOf (fun i => e.getD i 0) e) })).showTw k
    else s) s
  let s := { s with image := { s.image with
    latches := (entriesOf 3 (part 111)).map (fun (l : List Nat) => (⟨l.getD 0 0, l.getD 1 0, l.getD 2 0⟩ : Latch)), latchWait := [] } }
  let s := (List.range 4).foldl (fun s p => { s with pav := s.pav.set p { (default : PavSt) with
    recipe := if (part 112).getD p 0 = 0 then none else some ((part 112).getD p 0 - 1) } }) s
  let s := { s with ctxRecipe := (pairsOf (part 113)).foldl (fun (t : Table (Option Nat)) (e : Nat × Nat) =>
    Table.set t e.1 (if e.2 = 0 then none else some (e.2 - 1))) [] }
  let s := (List.range 32).foldl (fun s n => s.modOs n (fun x => { x with ptr := (part 114).getD n 0 })) s
  s.showChan.modTwin (fun x => { x with snapped := true })

def doTwinSnap (s : State) : State :=
  s.fromPartner 8 (fun words s => if s.twinState = 4 then s.applySnap words else s)

def execTwinSnapReceive (s : State) : Host.Outcome State Fault Refusal := answer s true (doTwinSnap s)

/-- Every mirrored channel has come to the position that the last report named. -/
def State.dmaCaughtUp (s : State) : Bool :=
  (List.range 32).all (fun c => !s.dmaMirrored c || s.dmaState c == 0 || s.dmaState c == 5
    || (match (s.dma.get c).follow with
      | some (r, i, _) => decide (r ≤ (s.dma.get c).retired) && decide (i ≤ (s.dma.get c).moved)
      | none => true))

/-- The sync condition (R515, R516): the snapshot has come, Invar is locked, every stream has joined, and the reports cover every item
that the device does not hold. -/
def doSyncCondition (covered : Bool) (s : State) : State :=
  let joined := (List.range 64).all (fun n => !s.on (Reg.ST_BINDn n) Fld.ST_BINDn_VALID || !(s.stream.get n).waitJoin)
  if s.twinState = 4 ∧ s.twin.snapped = true ∧ s.on Reg.TB_SYNC_STATUS Fld.TB_SYNC_STATUS_LOCKED = true ∧ joined = true
      ∧ s.dmaCaughtUp = true ∧ covered = true then
    ((s.twinEvent Fld.TWN_EVENT_ADMITTED).count (Reg.TWN_CNTk 7)).setTwin 5
  else s

def execSyncConditionMet (covered : Bool) (s : State) : Host.Outcome State Fault Refusal := answer s true (doSyncCondition covered s)

/-- ADMIT_TIMEOUT has passed (R517). -/
def doAdmitTimeout (s : State) : State :=
  let ms := max 100 (s.fld Reg.TWN_ADMIT_TIMEOUT Fld.TWN_ADMIT_TIMEOUT_MS)
  if s.twinState = 4 ∧ s.twin.admitAt + 1000000 * ms ≤ s.now then s.admitFail else s

def execAdmitTimeout (s : State) : Host.Outcome State Fault Refusal := answer s true (doAdmitTimeout s)

/-! ### The partner's state, the heartbeat, partner loss (R496 to R499) -/

/-- The partner reports its state. -/
def State.partnerReports (s : State) (st : Nat) : State :=
  let old := s.partnerState
  let s := { s with partnerState := st }.setFld Reg.TWN_STATUS Fld.TWN_STATUS_PARTNER_STATE st
  match s.twinState with
  | 1 => s.twinElect
  | 2 =>
    if st = 6 ∨ st = 7 then s.partnerLost
    else if old = 5 ∧ st ≠ 5 ∧ s.twin.take = none then s.setTwin 3
    else if st = 4 ∧ old ≠ 4 then s.sendSnap
    else s
  | 3 =>
    if st = 5 then
      (if old = 4 then (s.twinEvent Fld.TWN_EVENT_ADMITTED).count (Reg.TWN_CNTk 7) else s).setTwin 2
    else if st = 4 ∧ old ≠ 4 then s.sendSnap
    else s
  | 4 => if st = 6 ∨ st = 7 then s.partnerLost else s
  | 5 => if st = 6 ∨ st = 7 then s.partnerLost else s
  | 6 =>
    if (st = 2 ∨ st = 3) ∧ s.inServiceGroup 2 = true ∧ s.on Reg.TWN_CFG Fld.TWN_CFG_AUTO_ADMIT = true then s.enterAdmit else s
  | _ => s

def doTwinState (s : State) : State := s.fromPartner 6 (fun words s => s.partnerReports (words.getD 0 0 % 8))

def execTwinStateReceive (s : State) : Host.Outcome State Fault Refusal := answer s true (doTwinState s)

/-- Every 1 µs the device reports its state (R499). `hb` tells that a heartbeat edge has arrived since the report before (R497). -/
def execTwinStateReportTick (hb : Bool) (s : State) : Host.Outcome State Fault Refusal :=
  answer s true (if hb then (s.setFld Reg.TWN_STATUS Fld.TWN_STATUS_HB_PRESENT 1).sendState else s.sendState)

/-- No heartbeat edge for 2 µs (R497, R498). -/
def doHeartbeatLoss (s : State) : State :=
  let s := s.setFld Reg.TWN_STATUS Fld.TWN_STATUS_HB_PRESENT 0
  if s.inServiceGroup 2 then s.twinEvent Fld.TWN_EVENT_HB_LOST else s

def execHeartbeatLoss (s : State) : Host.Outcome State Fault Refusal := answer s true (doHeartbeatLoss s)

/-- Group T is silent for 2 µs, or has been out of UP for 2 µs (R498). -/
def doPartnerLoss (silent : Bool) (s : State) : State :=
  if silent || (!s.inServiceGroup 2 && decide (s.twin.downAt + 2000 ≤ s.now)) then s.partnerLost else s

def execPartnerLoss (silent : Bool) (s : State) : Host.Outcome State Fault Refusal := answer s true (doPartnerLoss silent s)

/-- Group T has not been UP for ALONE_MS; `hb` tells that a heartbeat edge arrived in that time (R496). -/
def doAloneTimeout (hb : Bool) (s : State) : State :=
  let ms := max 10 (s.fld Reg.TWN_CFG Fld.TWN_CFG_ALONE_MS)
  if s.inServiceGroup 2 || decide (s.now < s.twin.downAt + 1000000 * ms) then s
  else match s.twinState with
    | 1 => s.setTwin (if hb && s.on Reg.GLB_ROLE Fld.GLB_ROLE_TWIN_ID then 6 else 3)
    | 6 => if hb then s else s.setTwin 3
    | _ => s

def execAloneTimeout (hb : Bool) (s : State) : Host.Outcome State Fault Refusal := answer s true (doAloneTimeout hb s)

/-! ### Commands of TWN_CTRL (R496, R507, R512) -/

/-- A write of TWN_CTRL: HANDOVER, ADMIT, DETACH; one without a transition is ignored. -/
def State.twnCtrl (s : State) (data : Word) : State :=
  let ign (s : State) : State := s.twinEvent Fld.TWN_EVENT_CMD_IGN
  let s := if Fld.TWN_CTRL_HANDOVER.get data = 0 then s
    else if s.twinState = 2 ∧ s.partnerState = 5 ∧ s.twin.take = none then
      let t0 := s.invar + 10000
      (s.modTwin (fun x => { x with take := some (t0, 2), released := false })).sendTake t0 2
    else ign s
  let s := if Fld.TWN_CTRL_ADMIT.get data = 0 then s
    else if s.leads ∧ s.partnerState = 6 ∧ s.inServiceGroup 2 = true then s.toPartner 0 [Reg.TWN_CTRL, 2]
    else ign s
  if Fld.TWN_CTRL_DETACH.get data = 0 then s
  else if s.twinState = 5 then s.setTwin 6
  else ign s

def execTwinHandover (i : Initiator) (data : Word) (s : State) : Host.Outcome State Fault Refusal :=
  answer s true (s.swWrite i Reg.TWN_CTRL data (fun s => s.twnCtrl data))

def execTwinAdmit (i : Initiator) (data : Word) (s : State) : Host.Outcome State Fault Refusal :=
  answer s true (s.swWrite i Reg.TWN_CTRL data (fun s => s.twnCtrl data))

def execTwinDetach (i : Initiator) (data : Word) (s : State) : Host.Outcome State Fault Refusal :=
  answer s true (s.swWrite i Reg.TWN_CTRL data (fun s => s.twnCtrl data))

/-- The lead's ADMIT command reaches a detached partner (R496). -/
def State.admitted (s : State) : State :=
  if s.twinState = 6 ∧ (s.partnerState = 2 ∨ s.partnerState = 3) ∧ s.inServiceGroup 2 = true then s.enterAdmit else s

/-! ### Takeover (R507 to R512) -/

/-- A TAKE message on a shadow. -/
def doTwinTake (s : State) : State :=
  s.fromPartner 7 (fun words s =>
    if s.twinState = 5 then s.fixTake (words.getD 1 0 + words.getD 2 0 * 2 ^ 32) (words.getD 0 0 % 4) else s)

def execTwinTakeReceive (s : State) : Host.Outcome State Fault Refusal := answer s true (doTwinTake s)

/-- The old lead: 100 ns before T0 it releases its shared balls, reports this to its partner (R124) and stops its DMA channels, and at T0 it
enters FAULT or SHADOW (R508). Mirrored two-wire entries are the new lead's. -/
def doOldLeadRelease (s : State) : State :=
  match s.twin.take with
  | none => s
  | some (t0, _) =>
    if s.leads = false ∨ s.invar + 100 < t0 then s
    else
      let fault := decide (2 ≤ s.fcState)
      let s := if s.twin.released then s
        else if fault then (s.releaseAll.modTwin (fun x => { x with released := true })).sendState
        else
          let s := s.releaseShared.sendState
          let s := (List.range 8).foldl (fun s k => if s.twMirrored k then s else s.twDropEntry k) s
          ((List.range 32).foldl (fun s c => s.dmaStop c) s).modTwin (fun x => { x with released := true })
      if s.invar < t0 then s
      else (s.modTwin (fun x => { x with take := none, released := false })).setTwin (if fault then 7 else 5)

def execOldLeadRelease (s : State) : Host.Outcome State Fault Refusal := answer s true (doOldLeadRelease s)

/-- What waits on a channel for the old lead's decisions is decided here (R95, R509). -/
def State.decideWaiting (s : State) (ch : Nat) : State :=
  let ws := (s.chan.get ch).wait
  let s := s.modChan ch (fun c => { c with wait := [], caps := [], adms := [] })
  ws.foldl (fun s w => match w.stage with
    | 0 => (s.bgLine ch w.line).classify ch w.line (edgeMark (s.segOf ch).docs)
    | 1 => s.decideLine ch w.seq w.line
    | 2 => match w.mark with | some m => s.sendMarker ch m | none => s
    | _ => s.truncateNow ch) s

/-- Grid lines that wait for the old lead's decisions are decided here. -/
def State.decideGrid (s : State) (p c : Nat) : State :=
  let ws := (s.guC p c).wait
  let s := s.modGuC p c (fun k => { k with wait := [], decs := [] })
  ws.foldl (fun s w => s.guDecide p c w.line) s

/-- At T0 the shadow is the lead (R509, R511). -/
def doTakeover (s : State) : State :=
  match s.twin.take with
  | none => s
  | some (t0, cause) =>
    if s.twinState ≠ 5 ∨ s.invar < t0 then s
    else
      let s := (s.modTwin (fun x => { x with take := none, released := false })).setTwin 3
      let s := (s.twinEvent Fld.TWN_EVENT_TAKEOVER).count (Reg.TWN_CNTk 4)
      let s := ((s.setReg Reg.TWN_TAKE_TIME_LO (BitVec.ofNat 32 t0)).setReg Reg.TWN_TAKE_TIME_HI
        (BitVec.ofNat 32 (t0 / 2 ^ 32))).setFld Reg.TWN_STATUS Fld.TWN_STATUS_CAUSE cause
      let s := (List.range 8).foldl (fun s k => if s.twMirrored k then s.twTakeover k else s) s
      let s := (List.range 32).foldl (fun s n => if s.on (Reg.OSn_CFG n) Fld.OSn_CFG_VALID then
        s.modOs n (fun x => { x with failover := true, partner := [], sent := [] }) else s) s
      let s := s.dmaTakeover
      let s := (List.range 64).foldl (fun s ch => s.decideWaiting ch) s
      let s := (List.range 4).foldl (fun s p => (List.range 8).foldl (fun s c => s.decideGrid p c) s) s
      let s := (List.range 128).foldl (fun s e => s.decideHeld (e / 8) (e % 8)) s
      let lw := s.image.latchWait
      lw.foldl (fun s w => s.latchHere w.1 w.2.1) { s with image := { s.image with latchWait := [] } }

def execTakeover (s : State) : Host.Outcome State Fault Refusal := answer s true (doTakeover s)

/-! ### The head lead (R513, R514) -/

/-- The head lead that the last LEAD messages name: of two, the one with the later change. -/
def State.headPick (s : State) : Option Nat :=
  match s.twin.heads.get 0, s.twin.heads.get 1 with
  | some (true, t0), some (true, t1) => if t0 < t1 then some 1 else some 0
  | some (true, _), _ => some 0
  | _, some (true, _) => some 1
  | _, _ => s.headLead

/-- A relay or tunnel goes over to a new head lead: items kept from its group are delivered first, in order. -/
def State.flushKept (s : State) (g k : Nat) : State :=
  let x := s.relay.get k
  let s := { s with relay := s.relay.set k { x with kept := [], seen := x.seen ++ x.kept.map (fun i => (i.1, i.2.1)) } }
  x.kept.foldl (fun s i => if k < 32 then s.relayDeliver k g i.1 i.2.2 none else s.tunnelLine (k - 32) i.2.2) s

def doHeadLead (g : Nat) (s : State) : State :=
  match s.takeRx g 6 5 with
  | (s, none) => s
  | (s, some p) =>
    if s.fld Reg.GLB_ROLE Fld.GLB_ROLE_ROLE ≠ 2 ∨ 2 ≤ g then s
    else
      let s := s.modTwin (fun x => { x with
        heads := Table.set x.heads g (some (bitB p.spec0 1, p.spec1 + p.payload.headD 0 * 2 ^ 32)) })
      let old := s.headLead
      let new_ := s.headPick
      if new_ = old then s
      else
        let s := { s with headLead := new_ }
        if old = none then s
        else
          let s := s.twinEvent Fld.TWN_EVENT_HEAD_SWITCH
          (List.range 64).foldl (fun s k => s.flushKept (new_.getD 0) k) s

def execHeadLeadReceive (g : Nat) (s : State) : Host.Outcome State Fault Refusal := answer s (g < 3) (doHeadLead g s)

/-- Every 10 µs (R513). -/
def execHeadLeadRefresh (s : State) : Host.Outcome State Fault Refusal :=
  answer s true (if s.now < s.twin.sentAt + 10000 then s else s.sendLead)

end Sys2Proof.Machine
end

