-- ==== Sys2Proof/Machine/Boot.lean ====
section
/-! DEFINITION. Resets and start-up (spec/21), the image (spec/02) and the firmware checks (spec/22): the flash boot directory, the checks
of R50, applying an image, MC0 and MC1 firmware, SENSOR_GO, the endpoint's readiness and the expansion ROM. -/

namespace Sys2Proof.Machine

/-! ### Flash (R547) -/

/-- Bytes of flash. -/
def State.flashBytes (s : State) (a n : Nat) : List Nat := memRead s.flash 0xFF a n

/-- The little-endian number of `n` bytes at offset `o` of a byte string. -/
def numAt (b : List Nat) (o n : Nat) : Nat := leNat ((b.drop o).take n)

/-- A copy of the boot directory whose MAGIC ("MZBD") and CHECK are good. -/
def goodDir (b : List Nat) : Bool :=
  b.take 4 == [0x4D, 0x5A, 0x42, 0x44] && numAt b 0x7C 4 == crc32c (b.take 0x7C)

/-- Copy `k` of the boot directory. -/
def State.dirCopy (s : State) (k : Nat) : List Nat := s.flashBytes (0x0F0000 + 0x1000 * k) 128

/-- The copy of the boot directory that the device uses, by number and content: of two good ones the later by SEQ. -/
def State.bootDir (s : State) : Option (Nat × List Nat) :=
  let a := s.dirCopy 0
  let b := s.dirCopy 1
  match goodDir a, goodDir b with
  | false, false => none
  | true, false => some (0, a)
  | false, true => some (1, b)
  | true, true =>
    if 0 < diff32 (numAt a 4 4) (numAt b 4 4) then some (0, a)
    else if 0 < diff32 (numAt b 4 4) (numAt a 4 4) then some (1, b)
    else if Config.dirTie a b = 0 then some (0, a) else some (1, b)

/-- Offset and maximum length of a slot in a directory (0 A, 1 B), and the preferred slot of a kind (0 image, 1 MC0, 2 MC1). -/
def dirSlot (d : List Nat) (kind slot : Nat) : Nat × Nat :=
  (numAt d (8 + 16 * kind + 8 * slot) 4, numAt d (12 + 16 * kind + 8 * slot) 4)
def dirPref (d : List Nat) (kind : Nat) : Nat := bitOf (d.getD 0x38 0) kind

/-! ### Signatures (R47, R548, R552, R559) -/

/-- The message that a pure SLH-DSA signature with a context string covers (FIPS 205). -/
def withContext (ctx m : List Nat) : List Nat := [0, ctx.length] ++ ctx ++ m

/-- The context strings "bluti", "mc0fw", "mc1fw", "mzt-session" and "mzt-attest". -/
def ctxBluti : List Nat := [0x62, 0x6C, 0x75, 0x74, 0x69]
def ctxMc0 : List Nat := [0x6D, 0x63, 0x30, 0x66, 0x77]
def ctxMc1 : List Nat := [0x6D, 0x63, 0x31, 0x66, 0x77]
def ctxSession : List Nat := [0x6D, 0x7A, 0x74, 0x2D, 0x73, 0x65, 0x73, 0x73, 0x69, 0x6F, 0x6E]
def ctxAttest : List Nat := [0x6D, 0x7A, 0x74, 0x2D, 0x61, 0x74, 0x74, 0x65, 0x73, 0x74]

/-- The length of a signature at the end of an image or of firmware (R47). -/
def sigLen : Nat := 29792

/-- The signed bytes of an image or of firmware, and its signature. -/
def signedPart (b : List Nat) : List Nat := b.take (b.length - sigLen)
def sigPart (b : List Nat) : List Nat := b.drop (b.length - sigLen)

/-- The 32-byte digest of a byte string (R48, R49). -/
def digest (b : List Nat) : List Nat := shake256 b 32

/-- Whether a public key's digest stands in a VALID owner slot (R48, R551). -/
def State.ownerKeyOk (s : State) (key : List Nat) : Bool :=
  (List.range 4).any (fun k => (s.otp.get k).1 == 1 && (s.otp.get k).2 == digest key)

/-! ### The image format (R42 to R46) -/

/-- A section directory entry (R43): type, flags, offset, size, check. -/
structure Section where
  typ : Nat
  flags : Nat
  off : Nat
  size : Nat
  check : Nat
  deriving DecidableEq, Repr

/-- The sections of an image. -/
def imgSections (b : List Nat) : List Section :=
  (List.range (numAt b 0x14 2)).map (fun k =>
    let o := 0x100 + 16 * k
    ⟨numAt b o 2, numAt b (o + 2) 2, numAt b (o + 4) 4, numAt b (o + 8) 4, numAt b (o + 12) 4⟩)

/-- The bytes of a section. -/
def Section.bytes (b : List Nat) (x : Section) : List Nat := (b.drop x.off).take x.size

/-- The bytes of the first section of a type, and its words. -/
def secBytes (b : List Nat) (typ : Nat) : List Nat :=
  match (imgSections b).find? (fun x => x.typ == typ) with
  | some x => Section.bytes b x
  | none => []
def secWords (b : List Nat) (typ : Nat) : List Nat := wordsOf (secBytes b typ)

/-- The types of the sections that an image must hold once (R44). -/
def neededTypes (recipes : Nat) : List Nat :=
  [1, 2, 3, 4, 5, 6, 7] ++ (List.range recipes).flatMap (fun r => (List.range 5).map (fun p => 0x100 + 16 * r + p))

/-- No two sections share a byte. -/
def disjoint : List Section → Bool
  | [] => true
  | x :: l => l.all (fun y => decide (x.off + x.size ≤ y.off) || decide (y.off + y.size ≤ x.off)
      || x.size == 0 || y.size == 0) && disjoint l

/-- The check of the form (R50, step 2). -/
def imgFormat (b : List Nat) : Bool :=
  let len := numAt b 8 4
  let n := numAt b 0x14 2
  let first := 0x100 + 16 * n
  numAt b 4 2 == 2 && len % 4 == 0 && decide (len ≤ 1048576) && decide (first + sigLen ≤ len)
    && decide (1 ≤ n) && decide (n ≤ 64)
    && decide (1 ≤ numAt b 0x10 1) && decide (numAt b 0x10 1 ≤ 8) && decide (numAt b 0x11 1 < numAt b 0x10 1)
    && decide (numAt b 0x12 1 ≤ 63) && decide (numAt b 0x0F 1 < 4)
    && numAt b 0x13 1 == 0 && numAt b 0x16 2 == 0 && numAt b 0x20 16 == 0
    && (imgSections b).all (fun x => x.flags == 0 && x.off % 16 == 0 && x.size % 4 == 0 && decide (first ≤ x.off)
      && decide (x.off + x.size ≤ len - sigLen))
    && disjoint (imgSections b)
    && (neededTypes (numAt b 0x10 1)).all (fun t => ((imgSections b).filter (fun x => x.typ == t)).length == 1)

/-- A word of the SPARES section (R44). -/
def spareOf (w : Nat) : SpareWord := ⟨w % 8, w / 8 % 32, w / 256 % 32⟩
def spareWordOk (w : Nat) : Bool :=
  let x := spareOf w
  decide (w < 2 ^ 13) && decide (x.kind ≤ 4) && decide (x.unit < unitCount x.kind) && decide (x.spare < unitCount x.kind)

/-- The registers of the GLB, PCR and TWN blocks that the GLOBAL section may write (R46). -/
def globalMay : List Nat :=
  [Reg.GLB_RECIPE_CTRL, Reg.GLB_PCIE_INT_EN, Reg.GLB_PCIE_MIN, Reg.PCR_INT_EN, Reg.PCR_CTRL, Reg.PCR_WAKE_EN_PIN,
    Reg.PCR_WAKE_EN_ALERT, Reg.PCR_CFG, Reg.TWN_INT_EN, Reg.TWN_CFG]

/-- The names of the registers that part 4 of a recipe may write (R46); of the OS block, those that R255 leaves out are
refused. -/
def part4Names : List String :=
  ["PGL_PVp_WM", "PGL_CHn_CFG", "PGL_CHn_QUOTA", "PGL_CHn_ROUTE", "STn_INT_EN", "STn_DOC_MIN_LINES", "STn_DOC_MAX_LINES",
    "ST_MARGINn", "ST_PITCHn"]
def part4NotOs : List String :=
  ["OSn_CTRL", "OSn_STATUS", "OSn_INT_EN", "OSn_CNTk", "OSn_LAST_SEAL", "OSn_LAST_DOC", "OSn_LAST_LINE"]

/-- Whether a section's load list may write a BAR0 offset (R46). -/
def loadMay (typ off : Nat) : Bool :=
  let blk := blockCode off
  let part := typ % 16
  if blk = 0x10 ∨ blk = 0x0E ∨ (0x1000000 ≤ off ∧ off < 0x2000000) then false
  else if blk = 0x01 ∨ blk = 0x0F ∨ blk = 0x11 then typ == 1 && globalMay.contains off
  else if typ < 0x100 then true
  else if part < 4 then decide (0x400000 + 0x40000 * part ≤ off) && decide (off < 0x440000 + 0x40000 * part)
  else match findReg off with
    | some r => part4Names.contains r.name || (blk == 0x06 && !part4NotOs.contains r.name)
    | none => false

/-- Whether a section's load list has only valid records that R46 allows (R45). -/
def loadOk (spares : List SpareWord) (typ : Nat) (words : List Nat) : Bool :=
  (loadOps words).all (fun o => match o with
    | .bad => false
    | .marker k u sp => decide (0x100 ≤ typ) && decide (typ % 16 < 4) && spares.contains ⟨k, u, sp⟩
    | .write _ _ => o.recs.all (fun r => loadMay typ r.off))

/-- The check of the load lists (R50, step 7). -/
def imgLoads (b : List Nat) : Bool :=
  let spares := secWords b 6
  spares.all spareWordOk
    && (([1, 2, 3, 4, 5] ++ (neededTypes (numAt b 0x10 1)).drop 7).all (fun t => loadOk (spares.map spareOf) t (secWords b t)))

/-! ### Verification (R50 to R52) -/

/-- The checks of R50 in their order, each with its code. -/
def State.imgChecks (s : State) (b : List Nat) : List (Nat × Bool) :=
  let key := (b.drop 0x30).take 64
  [(1, b.take 4 == [0x42, 0x4C, 0x55, 0x54]), (2, imgFormat b), (3, numAt b 0x0C 1 == 0xB1), (4, s.ownerKeyOk key),
    (6, (imgSections b).all (fun x => x.check == crc32c (Section.bytes b x))),
    (5, slhVerify key (withContext ctxBluti (signedPart b)) (sigPart b)), (7, imgLoads b)]

/-- The code of the first check that fails, 0 for none; `err` is the step at which a flash read fails, 0 for none. -/
def firstFail : Nat → Nat → List (Nat × Bool) → Nat
  | _, _, [] => 0
  | n, err, (code, ok) :: l => if n = err then 8 else if ok then firstFail (n + 1) err l else code

/-- What an image slot holds, as far as its LENGTH tells; its MAGIC in any case. -/
def State.imageAt (s : State) (d : List Nat) (slot : Nat) : List Nat :=
  let a := (dirSlot d 0 slot).1
  s.flashBytes a (max 4 (min 1048576 (leNat (s.flashBytes (a + 8) 4))))

/-- The outcome of R50 on an image slot. -/
def State.imageCode (s : State) (slot err : Nat) : Nat :=
  match s.bootDir with
  | none => 1
  | some (_, d) => firstFail 1 err (s.imgChecks (s.imageAt d slot))

/-- The preferred slot of a kind; A where no directory is good. -/
def State.prefSlot (s : State) (kind : Nat) : Nat := match s.bootDir with | some (_, d) => dirPref d kind | none => 0

/-! ### Applying an image (R22, R53, R587) -/

/-- The outputs LREF0 and LREF1 that bits of `mask` name run, the others are disabled (R388, R575); a change shows at the pins. -/
def State.driveLref (s : State) (mask : Nat) : State :=
  let old := s.boot.lref
  let s := { s with boot := { s.boot with lref := mask } }
  [0, 1].foldl (fun s g => if bitB mask g = bitB old g then s else s.emit (.pin "LREF" g (b2n (bitB mask g)))) s

/-- A load-list record takes effect; a word for an LU table goes to the table. -/
def State.loadRec (fabric : Bool) (s : State) (r : LoadRec) : State :=
  match (List.range 16).find? (fun lu => r.off == Reg.PVp_LUu_TBL_DATA (lu / 4) (lu % 4)) with
  | some lu => doTblWrite lu (BitVec.ofNat 32 r.val) s
  | none => s.loadWrite fabric r.off r.val

/-- The sections in their order (R53). -/
def State.applySections (s : State) (b : List Nat) : State :=
  let run (s : State) (fabric : Bool) (typ : Nat) : State := (mainRecs (secWords b typ)).foldl (State.loadRec fabric) s
  let dflt := numAt b 0x11 1
  let s := (run s false 1).setFld Reg.GLB_RECIPE_CTRL Fld.GLB_RECIPE_CTRL_NEXT dflt
  let s := run (run (run (run s false 2) false 3) true 4) false 5
  let s := { s with image := { s.image with spares := (secWords b 6).map spareOf } }
  [4, 0, 1, 2, 3].foldl (fun s p => run s false (0x100 + 16 * dflt + p)) s

/-- The recipe store: the words of each recipe section by its type (R53). -/
def recipeStore (b : List Nat) : Table (List Nat) :=
  ((imgSections b).filter (fun x => ((neededTypes (numAt b 0x10 1)).drop 7).contains x.typ)).foldl
    (fun t x => Table.set t x.typ (wordsOf (Section.bytes b x))) []

/-- An image that has passed shows what it declares (R49, R50, GLB_ROLE). -/
def State.showImage (s : State) (slot : Nat) (b : List Nat) : State :=
  let dg := digest (signedPart b)
  let s := { s with
    image := { s.image with
      verified := true, bytes := b, store := recipeStore b, refStream := numAt b 0x12 1, mc1Digest := (b.drop 0x70).take 32 }
    mgt := { s.mgt with slots := s.mgt.slots.set 0 (some slot) } }
  let s := (List.range 8).foldl (fun s k => s.setReg (Reg.GLB_IMG_DIGESTk k) (BitVec.ofNat 32 (numAt dg (4 * k) 4))) s
  let s := (((s.setFld Reg.GLB_IMG_STATUS Fld.GLB_IMG_STATUS_VERIFIED 1).setFld Reg.GLB_IMG_STATUS
    Fld.GLB_IMG_STATUS_SLOT slot).setFld Reg.GLB_IMG_STATUS Fld.GLB_IMG_STATUS_RECIPE_COUNT (numAt b 0x10 1)).setFld
    Reg.GLB_IMG_STATUS Fld.GLB_IMG_STATUS_DEFAULT_RECIPE (numAt b 0x11 1)
  let s := s.setReg Reg.GLB_IMG_VERSION (BitVec.ofNat 32 (numAt b 0x18 4))
  (((s.setFld Reg.GLB_ROLE Fld.GLB_ROLE_IMAGE_ROLE (numAt b 0x0D 1)).setFld Reg.GLB_ROLE Fld.GLB_ROLE_PAIRED
    (bitOf (numAt b 0x0F 1) 0)).setFld Reg.GLB_ROLE Fld.GLB_ROLE_SHARED_SENSORS (bitOf (numAt b 0x0F 1) 1)).setFld
    Reg.GLB_ROLE Fld.GLB_ROLE_TOPOLOGY (numAt b 0x0E 1)

/-- An image whose role the strap confirms is applied (R53): sections, APPLIED, the RESET entry (R563), the twin state (R495, R496), the
link groups (R391), ports that the image enables. -/
def State.applyImage (s : State) (b : List Nat) : State :=
  let dflt := numAt b 0x11 1
  let role := s.fld Reg.GLB_ROLE Fld.GLB_ROLE_STRAP_ROLE
  let s := (s.setFld Reg.GLB_ROLE Fld.GLB_ROLE_ROLE_OK 1).setFld Reg.GLB_ROLE Fld.GLB_ROLE_ROLE role
  let s := s.applySections b
  let s := [0, 1, 2, 3].foldl (fun s p => s.setFld Reg.GLB_RECIPE_ACTIVE ⟨4 * p, 3⟩ dflt) s
  let s := s.setFld Reg.GLB_IMG_STATUS Fld.GLB_IMG_STATUS_APPLIED 1
  let s := { s with boot := { s.boot with appliedAt := s.now } }
  let s := s.setFld Reg.PCR_BOOT_US Fld.PCR_BOOT_US_US (min (2 ^ 24 - 1) ((s.now - s.boot.began) / 1000))
  let s := if role = 1 then s.setFld Reg.LNK_REF_STATUS Fld.LNK_REF_STATUS_SRC 1 else s
  let s := if role = 2 then
      s.driveLref (b2n (s.on (Reg.LNK_Gg_CFG 0) Fld.LNK_Gg_CFG_USED) + 2 * b2n (s.on (Reg.LNK_Gg_CFG 1) Fld.LNK_Gg_CFG_USED))
    else s
  let s := (s.segStart.showTrig.showChan).log 0x0F 0 0x0015 (s.fld Reg.PCR_RESET_CAUSE Fld.PCR_RESET_CAUSE_CAUSE)
  let s := if s.on Reg.GLB_ROLE Fld.GLB_ROLE_PAIRED then
      ({ s with twin := { s.twin with downAt := s.now } }.setTwin 1).wakeGroup 2
    else ((s.setTwin 3).wakeGroup 0).wakeGroup 1
  let s := (List.range 32).foldl (fun s i => if s.on (Reg.TB_STBi_CFG i) Fld.TB_STBi_CFG_DRIVE then s else s.strobePin i) s
  (List.range 16).foldl (fun s n => if s.on (Reg.SPn_CTRL n) Fld.SPn_CTRL_EN then s.enablePort n else s) s

/-- The role check (R22): a strap of 3 matches no image. -/
def State.roleCheck (s : State) (b : List Nat) : State :=
  let strap := s.fld Reg.GLB_ROLE Fld.GLB_ROLE_STRAP_ROLE
  if numAt b 0x0D 1 % 4 = strap ∧ strap ≠ 3 then s.applyImage b
  else
    let s := s.setFld Reg.GLB_ROLE Fld.GLB_ROLE_ROLE_MISMATCH 1
    s.log 0x01 0 0x0001 (s.reg Reg.GLB_ROLE).toNat

/-- Image verification ends (R50 to R53): the preferred slot, or the other one on fallback, or neither. `errA` and `errB` are the steps
at which a read of each slot fails. -/
def doImageVerify (errA errB : Nat) (s : State) : State :=
  if s.boot.verified || s.inReset || s.boot.resetDue.isSome then s
  else
    let s := { s with boot := { s.boot with verified := true } }
    let err (k : Nat) := if k = 0 then errA else errB
    let failFld (k : Nat) := if k = 0 then Fld.GLB_IMG_STATUS_FAIL_A else Fld.GLB_IMG_STATUS_FAIL_B
    let img (k : Nat) := match s.bootDir with | some (_, d) => s.imageAt d k | none => []
    let p := s.prefSlot 0
    let cp := s.imageCode p (err p)
    if cp = 0 then (s.showImage p (img p)).roleCheck (img p)
    else
      let q := 1 - p
      let cq := s.imageCode q (err q)
      let s := s.setFld Reg.GLB_IMG_STATUS (failFld p) cp
      if cq = 0 then
        ((s.setFld Reg.GLB_IMG_STATUS Fld.GLB_IMG_STATUS_FALLBACK 1).showImage q (img q)).roleCheck (img q)
      else
        let s := s.setFld Reg.GLB_IMG_STATUS (failFld q) cq
        (s.log 0x01 0 0x0002 (p * 256 + cp)).log 0x01 0 0x0002 (q * 256 + cq)

def execImageVerify (errA errB : Nat) (s : State) : Host.Outcome State Fault Refusal :=
  answer s (errA < 8 && errB < 8) (doImageVerify errA errB s)

/-! ### Firmware (R548 to R550) -/

/-- What a firmware slot holds, as far as its LENGTH tells. -/
def State.fwAt (s : State) (d : List Nat) (kind slot : Nat) : List Nat :=
  let a := (dirSlot d kind slot).1
  s.flashBytes a (min 262144 (leNat (s.flashBytes (a + 4) 4)))

/-- The checks of a firmware image (R548), coded as in R50: "MZFW"; the header; for MC1 the owner key and the digest that the image
accepts (R549); the signature. -/
def State.fwChecks (s : State) (kind : Nat) (b : List Nat) : List (Nat × Bool) :=
  let owner := (s.image.bytes.drop 0x30).take 64
  let len := numAt b 4 4
  [(1, b.take 4 == [0x4D, 0x5A, 0x46, 0x57]),
    (2, decide (len ≤ 262144) && decide (32 + sigLen ≤ len) && numAt b 0x10 16 == 0),
    (4, kind == 1 || (s.image.verified && s.ownerKeyOk owner && digest (signedPart b) == s.image.mc1Digest)),
    (5, slhVerify (if kind = 1 then Config.vendorKey else owner)
      (withContext (if kind = 1 then ctxMc0 else ctxMc1) (signedPart b)) (sigPart b))]

/-- The outcome of the checks on a firmware slot; `err` tells that a read of it fails. -/
def State.fwCode (s : State) (kind slot : Nat) (err : Bool) : Nat :=
  match s.bootDir with
  | none => 1
  | some (_, d) => firstFail 1 (if err then 1 else 0) (s.fwChecks kind (s.fwAt d kind slot))

/-- The slot of a firmware kind that passes, preferred one first. -/
def State.fwSlot (s : State) (kind : Nat) (errA errB : Bool) : Option Nat :=
  let err (k : Nat) := if k = 0 then errA else errB
  let p := s.prefSlot kind
  if s.fwCode kind p (err p) = 0 then some p
  else if s.fwCode kind (1 - p) (err (1 - p)) = 0 then some (1 - p) else none

/-- Firmware is loaded at its address in a core's tightly coupled memory; what lies beyond its end is not. -/
def State.loadFw (s : State) (core kind slot : Nat) : State :=
  let b := match s.bootDir with | some (_, d) => s.fwAt d kind slot | none => []
  let at_ := numAt b 8 4
  let code := ((signedPart b).drop 32).take (262144 - at_)
  let s := { s with
    tcm := memWrite s.tcm 0 (262144 * core + at_) code
    mgt := { s.mgt with slots := s.mgt.slots.set kind (some slot) } }
  if slot = s.prefSlot kind then s else s.setFld Reg.MGT_STATUS Fld.MGT_STATUS_FW_FALLBACK 1

/-- MC0 firmware is checked once image verification has ended (R549). Without a good slot the recovery service runs and the device stays in
boot state (R550). -/
def doMc0Check (errA errB : Bool) (s : State) : State :=
  if !s.boot.verified || s.boot.mc0Done || s.inReset || s.boot.resetDue.isSome then s
  else
    let s := { s with boot := { s.boot with mc0Done := true } }
    match s.fwSlot 1 errA errB with
    | some k =>
      let b := match s.bootDir with | some (_, d) => s.fwAt d 1 k | none => []
      let s := (s.loadFw 0 1 k).setFld Reg.MGT_STATUS Fld.MGT_STATUS_MC0_SLOT k
      { s with mgt := { s.mgt with mc0Run := true, mc0Digest := digest (signedPart b), wdtAt := s.mgt.wdtAt.set 0 s.now } }
    | none =>
      let s := (s.log 0x10 0 0x000F 1).setFld Reg.MGT_STATUS Fld.MGT_STATUS_RECOVERY 1
      let s := s.portsOff
      let s := if s.inBoot then s else s.setTwin 0
      [0, 1, 2].foldl (fun s g => if s.grpState g = 0 then s else (s.setGrp g 0).groupLost g) s

def execMc0FirmwareCheck (errA errB : Bool) (s : State) : Host.Outcome State Fault Refusal :=
  answer s true (doMc0Check errA errB s)

/-- MC0 checks MC1 firmware once an image is applied (R549, R550): a digest of zeros leaves MC1 in reset. -/
def doMc1Check (errA errB : Bool) (s : State) : State :=
  if !s.on Reg.GLB_IMG_STATUS Fld.GLB_IMG_STATUS_APPLIED || !s.mgt.mc0Run || s.boot.mc1Done then s
  else
    let s := { s with boot := { s.boot with mc1Done := true } }
    if s.image.mc1Digest.all (· == 0) then s
    else match s.fwSlot 2 errA errB with
      | some k =>
        let s := ((s.loadFw 1 2 k).setFld Reg.MGT_STATUS Fld.MGT_STATUS_MC1_SLOT k).setFld Reg.MGT_STATUS Fld.MGT_STATUS_MC1_RUN 1
        { s with mgt := { s.mgt with mc1Digest := s.image.mc1Digest, wdtAt := s.mgt.wdtAt.set 1 s.now } }
      | none => (s.setFld Reg.MGT_STATUS Fld.MGT_STATUS_MC1_FAIL 1).log 0x10 0 0x0010 0

def execMc1FirmwareCheck (errA errB : Bool) (s : State) : Host.Outcome State Fault Refusal :=
  answer s true (doMc1Check errA errB s)

/-! ### Resets (R533 to R538) -/

/-- Every shared ball is released and the heartbeat held low (R123, R299, R435, R534). -/
def State.releaseBalls (s : State) : State :=
  let s := (List.range 32).foldl (fun s i => s.emit (.pin "STB_OUT" i 2)) s
  let s := (List.range 8).foldl (fun s k => s.emit (.bus k "RELEASE" [])) s
  s.emit (.pin "TWN_HB_OUT" 0 0)

/-- The registers of domain POR among those listed. -/
def porRegs (t : Table Word) : Table Word :=
  t.filter (fun e => match findReg e.1 with | some r => r.domain == .por | none => false)

/-- The straps show in GLB_ROLE and TW8_CFG, the owner slots in MGT_OTP_KEYS, and the filtered inputs in TB_PIN_LEVEL (R20, R29, R455,
R551). -/
def State.sample (s : State) (enc : Nat) : State :=
  let s := (s.setFld Reg.GLB_ROLE Fld.GLB_ROLE_STRAP_ROLE s.straps.role).setFld Reg.GLB_ROLE Fld.GLB_ROLE_TWIN_ID s.straps.twinId
  let s := s.setFld Reg.TW8_CFG Fld.TW8_CFG_ADDR (0x4C + s.straps.twinId % 2)
  let s := s.setFld Reg.MGT_OTP_KEYS Fld.MGT_OTP_KEYS_STATE ((List.range 4).foldl (fun a k => a + (s.otp.get k).1 % 4 * 4 ^ k) 0)
  (s.setFld Reg.TB_PIN_LEVEL Fld.TB_PIN_LEVEL_ENC enc).showTrig

/-- What a power-on reset (`por`) or a warm reset leaves (R534): Invar's rate and latches and the registers of domain POR over a warm reset; flash,
OTP, the cores' memories and what stands outside the device over both. -/
def State.wiped (s : State) (por : Bool) : State :=
  let z := State.reset
  { z with
    regs := if por then [] else porRegs s.regs
    now := s.now, invar := if por then 0 else s.invar
    free := s.free, out := s.out, straps := s.straps, pins := s.pins
    filter := { s.filter with run := [] }, trigLevel := s.filter.trig, pending := s.pending
    flash := s.flash, otp := s.otp, tcm := s.tcm, shared := s.shared, mbx := s.mbx
    logRing := if por then [] else s.logRing
    sync := if por then z.sync else { z.sync with rate := s.sync.rate, frac := s.sync.frac, latch := s.sync.latch }
    pcie := { z.pcie with perst := s.pcie.perst, perstAt := s.now }
    boot := { z.boot with began := s.now, lref := s.boot.lref }
    mgt := { z.mgt with wdtAt := Table.set (Table.set [] 0 s.now) 1 s.now } }

/-- The device after a power-on reset (`por`) or a warm reset, before anything has booted: the straps and inputs are sampled, the balls released.
A HOST device drives LREF0 and LREF1 until its image says which it uses (R539, R575; notes/assumptions/140.md). -/
def State.afterReset (s : State) (por : Bool) : State :=
  let z := (((s.wiped por).sample s.filter.enc).releaseBalls).driveLref (if s.straps.role = 2 then 3 else 0)
  let z := if por then z.setFld Reg.TW_BANK Fld.TW_BANK_VSEL (b2n (s.straps.bank33 != 0)) else z
  z.faultPin s

/-- Power-on reset is released with the straps and the sampled supplies as given (R539, R566). -/
def doPowerOn (role twinId : Nat) (bank33 trig33 : Bool) (s : State) : State :=
  { s with straps := ⟨role, twinId, b2n bank33, trig33⟩ }.afterReset true

def execPowerOnReset (role twinId : Nat) (bank33 trig33 : Bool) (s : State) : Host.Outcome State Fault Refusal :=
  answer s (role < 4 && twinId < 2) (doPowerOn role twinId bank33 trig33 s)

/-- A warm reset that is due proceeds, and samples the straps as they stand (R20, R534). -/
def doWarmReset (role twinId : Nat) (s : State) : State :=
  match s.boot.resetDue with
  | none => s
  | some cause =>
    if s.inReset then s
    else
      let s := { s with straps := { s.straps with role := role, twinId := twinId } }.afterReset false
      (s.count (Reg.PCR_CNTk 5)).setFld Reg.PCR_RESET_CAUSE Fld.PCR_RESET_CAUSE_CAUSE cause

def execWarmReset (role twinId : Nat) (s : State) : Host.Outcome State Fault Refusal :=
  answer s (role < 4 && twinId < 2) (doWarmReset role twinId s)

/-- A warm reset is requested; a request that comes while one is due merges into it (R538). -/
def State.wantReset (s : State) (cause : Nat) : State :=
  if s.boot.resetDue.isSome then s else { s with boot := { s.boot with resetDue := some cause } }

/-- RST_N has been low for 1 µs, or rises (R535): the device is held in reset, and the warm reset proceeds when the pin rises. -/
def doRstN (low : Bool) (s : State) : State :=
  if s.boot.off then s
  else if low then
    if s.boot.rstLow then s
    else
      let due := s.boot.resetDue.getD 1
      let s := s.afterReset false
      { s with boot := { s.boot with rstLow := true, resetDue := some due } }
  else { s with boot := { s.boot with rstLow := false } }

def execRstNAssert (low : Bool) (s : State) : Host.Outcome State Fault Refusal := answer s true (doRstN low s)

/-- VDD_AON has fallen, or power is gone: power-on reset holds until its release (R569). -/
def doAonFall (s : State) : State :=
  let s := s.afterReset true
  { s with boot := { s.boot with off := true } }.driveLref 0

def execVddAonFall (s : State) : Host.Outcome State Fault Refusal := answer s true (doAonFall s)

/-- A write to PCR_RESET (R533, R536): KIND 1 starts a warm reset; KIND 2 sends the installation reset to every group in service first. -/
def State.pcrReset (s : State) (data : Word) : State :=
  if !bitB data.toNat 31 then s
  else match data.toNat % 4 with
    | 1 => s.wantReset 2
    | 2 => (s.sendBcast [2 ^ 31, 0, 0, 0]).wantReset 3
    | _ => s

def execPcrResetWarm (i : Initiator) (data : Word) (s : State) : Host.Outcome State Fault Refusal :=
  answer s true (s.swWrite i Reg.PCR_RESET data (fun s => s.pcrReset data))

def execInstallationReset (i : Initiator) (data : Word) (s : State) : Host.Outcome State Fault Refusal :=
  answer s true (s.swWrite i Reg.PCR_RESET data (fun s => s.pcrReset data))

/-- A broadcast arrives (R307, R433, R536): a copy seen before is discarded; it goes on to the other groups, and then arms a slot or
resets the device. -/
def doBcast (g : Nat) (s : State) : State :=
  match s.takeRx g 6 4 with
  | (s, none) => s
  | (s, some p) =>
    let w (k : Nat) := p.payload.getD k 0
    if s.sync.bcastSeen.contains (w 0) || s.boot.resetDue.isSome then s
    else
      let s := s.forwardBcast (some g) p.payload
      if bitB (w 1) 31 then s.wantReset 4
      else s.armSlot (w 1 % 8) 1 ⟨w 2 + w 3 * 2 ^ 32, w 1 / 16 % 16, w 4⟩ true

def execBcastReceive (g : Nat) (s : State) : Host.Outcome State Fault Refusal := answer s (g < 3) (doBcast g s)

/-- PERST_N falls (R375, R535): the endpoint resets as on a Hot Reset; with PERST_WARM a warm reset starts. -/
def doPerst (s : State) : State :=
  if s.pcie.perst then s
  else
    let s := s.flrAll.setFld Reg.GLB_PCIE_STATUS Fld.GLB_PCIE_STATUS_HOT_RESET_EV 1
    let s := { s with pcie := { s.pcie with perst := true } }
    if s.on Reg.PCR_CFG Fld.PCR_CFG_PERST_WARM then s.wantReset 5 else s

def execPerstN (s : State) : Host.Outcome State Fault Refusal := answer s true (doPerst s)

/-! ### Start-up (R378, R540) -/

/-- The endpoint becomes ready: verification has ended and MC0 firmware, or the recovery service, has loaded the subsystem IDs
(R358, R378). -/
def doEndpointReady (s : State) : State :=
  if s.boot.verified && s.boot.mc0Done && !s.pcie.perst && !s.ready then
    let s := { s with ready := true }.setFld Reg.GLB_PCIE_STATUS Fld.GLB_PCIE_STATUS_READY 1
    if s.on Reg.GLB_IMG_STATUS Fld.GLB_IMG_STATUS_APPLIED then
      (List.range 4).foldl (fun s f => s.setCfg f 0x2C (Config.subsystem s.image.bytes)) s
    else s
  else s

def execEndpointReady (s : State) : Host.Outcome State Fault Refusal := answer s true (doEndpointReady s)

/-- Whether the conditions of R540 hold. -/
def State.mayGo (s : State) : Bool :=
  (s.on Reg.FM_STATUS Fld.FM_STATUS_READY || !s.on Reg.FM_CFG Fld.FM_CFG_POPULATED)
    && (!s.on Reg.GLB_ROLE Fld.GLB_ROLE_PAIRED || [2, 3, 5].contains s.twinState)
    && [0, 1].all (fun g => !s.on (Reg.LNK_Gg_CFG g) Fld.LNK_Gg_CFG_USED || s.grpState g == 8 || s.grpState g == 11)
    && (s.on Reg.TB_SYNC_STATUS Fld.TB_SYNC_STATUS_LOCKED || s.isRoot)

/-- Whether a stream's route names a GU context with a delay ring, or a BU context with a record ring (R540). -/
def State.needsFm (s : State) (ch : Nat) : Bool :=
  (match s.routeUnit ch 2 with
    | some p => (s.guContext p ch 0).any (fun c => s.ringLines p c != 0)
    | none => false)
  || (match s.routeUnit ch 3 with
    | some b => (List.range 8).any (fun c =>
        s.on (buCfg b c) Fld.PVp_BUu_CTXc_CFG_VALID && s.fld (buCfg b c) Fld.PVp_BUu_CTXc_CFG_STREAM == ch
          && s.fld (Reg.PVp_BUu_CTXc_RING (b / 2) (b % 2) c) Fld.PVp_BUu_CTXc_RING_NSLOT != 0)
    | none => false)

/-- SENSOR_GO sets once its conditions hold, or late after 500 ms; with frame memory degraded the streams that need it stop. -/
def doSensorGo (s : State) : State :=
  let late := decide (s.boot.appliedAt + 500000000 ≤ s.now)
  if !s.on Reg.GLB_IMG_STATUS Fld.GLB_IMG_STATUS_APPLIED || s.inBoot || s.on Reg.PCR_STATUS Fld.PCR_STATUS_SENSOR_GO
      || !(s.mayGo || late) then s
  else
    let go := s.mayGo
    let s := (s.setFld Reg.PCR_STATUS Fld.PCR_STATUS_SENSOR_GO 1).setFld Reg.PCR_STATUS Fld.PCR_STATUS_SENSOR_GO_EV 1
    let s := if go then s else s.setFld Reg.PCR_STATUS Fld.PCR_STATUS_GO_LATE 1
    let s := if s.on Reg.FM_STATUS Fld.FM_STATUS_DEGRADED then
        ((List.range 64).foldl (fun s ch => if s.needsFm ch then s.stopStream ch 4096 else s) s).setFld Reg.PCR_STATUS
          Fld.PCR_STATUS_START_DEGRADED 1
      else s
    s.checkStreamsReady

def execSensorGo (s : State) : Host.Outcome State Fault Refusal := answer s true (doSensorGo s)

/-! ### The expansion ROM (R63 to R67, R367) -/

/-- The resource descriptor table without its CHECK becomes the table as served (R64). -/
def withCheck (t : List Nat) : List Nat :=
  let z := t.take 0x1C ++ [0, 0, 0, 0] ++ t.drop 0x20
  t.take 0x1C ++ leBytes 4 (crc32c z) ++ t.drop 0x20

/-- An entry of the table in the boot ROM (R65, R66). -/
def romEntry (typ off : Nat) : List Nat := leBytes 4 (typ + 2 ^ 16 + 2 ^ 24) ++ leBytes 4 off ++ leBytes 4 0 ++ leBytes 4 1

/-- The table served before an image is applied (R67): "MZRD", NO_IMAGE, the GLB, MGT and PCR entries. -/
def bootTable : List Nat :=
  withCheck ([0x4D, 0x5A, 0x52, 0x44] ++ leBytes 2 1 ++ leBytes 2 32 ++ leBytes 2 3 ++ leBytes 2 16 ++ leBytes 4 1
    ++ leBytes 4 0x04000000 ++ leBytes 4 0 ++ leBytes 4 0 ++ leBytes 4 0
    ++ romEntry 0x01 0 ++ romEntry 0x10 0xE00000 ++ romEntry 0x0F 0xD00000)

/-- The table of the applied image, with DIGEST_HEAD and CHECK filled in (R64). -/
def State.resourceTable (s : State) : List Nat :=
  if s.on Reg.GLB_IMG_STATUS Fld.GLB_IMG_STATUS_APPLIED then
    let d := secBytes s.image.bytes 7
    let d := d ++ List.replicate (32 - d.length) 0
    let d := d.take (32 + 16 * numAt d 8 2)
    withCheck (d.take 0x14 ++ leBytes 4 (s.reg (Reg.GLB_IMG_DIGESTk 0)).toNat ++ d.drop 0x18)
  else bootTable

/-- A read of the expansion ROM window (R63, R367): option code from flash, then the table, zeros after its end. -/
def doRomRead (a n : Nat) (s : State) : State :=
  if !s.fnServes 0 || !bitB (s.cfgReg 0 0x30).toNat 0 then (s.unsupported 0).emit (.completion 0 1 false [])
  else
    let t := s.resourceTable
    s.emit (.completion 0 0 false ((List.range n).map (fun k =>
      if a + k < 0xF0000 then (s.flash.getD 0xFF (a + k)).toNat else t.getD (a + k - 0xF0000) 0)))

def execExpansionRomRead (a n : Nat) (s : State) : Host.Outcome State Fault Refusal :=
  answer s (1 ≤ n && n ≤ 4096 && a + n ≤ 0x100000) (doRomRead a n s)

end Sys2Proof.Machine
end

