-- ==== Sys2Proof/Machine/Mgmt.lean ====
section
/-! DEFINITION. The management complex (spec/22): the PF2 mailbox and its commands, owner sessions and keys, flash updates, attestation,
the watchdogs, software entries of the event log, the window onto the image. -/

namespace Sys2Proof.Machine

/-- The management complex changed by `f`. -/
def State.modMgt (s : State) (f : MgtSt → MgtSt) : State := { s with mgt := f s.mgt }

/-- Bytes of the mailbox buffer, read and written. -/
def State.mbxRead (s : State) (a n : Nat) : List Nat := memRead s.mbx 0 a n
def State.mbxWrite (s : State) (a : Nat) (bytes : List Nat) : State := { s with mbx := memWrite s.mbx 0 a bytes }

/-- A command's argument. -/
def State.mbxArg (s : State) (j : Nat) : Nat := (s.reg (Reg.MGT_MBX_ARGj j)).toNat

/-! ### Flash ranges (R555) -/

/-- Two ranges share a byte. -/
def overlaps (a n b m : Nat) : Bool := decide (a < b + m) && decide (b < a + n) && n != 0 && m != 0

/-- Whether a range of flash touches a slot of the boot directory. -/
def State.touchesSlot (s : State) (a n kind slot : Nat) : Bool :=
  match s.bootDir with
  | none => false
  | some (_, d) => overlaps a n (dirSlot d kind slot).1 (dirSlot d kind slot).2

/-- Whether a range touches the slot in use of a kind. -/
def State.touchesUsed (s : State) (a n kind : Nat) : Bool :=
  match s.mgt.slots.get kind with
  | none => false
  | some k => s.touchesSlot a n kind k

/-- Whether FLASH_ERASE and FLASH_WRITE are denied a range: the boot directory, the slot of the running MC0 firmware. -/
def State.flashDenied (s : State) (a n : Nat) : Bool :=
  overlaps a n 0x0F0000 0x2000 || (s.mgt.mc0Run && s.touchesUsed a n 1)

/-- A range of flash was written: checks of the slots it touches lapse, and the applied image's window is stale (R555, R560). -/
def State.flashTouched (s : State) (a n : Nat) : State :=
  let stale := s.on Reg.GLB_IMG_STATUS Fld.GLB_IMG_STATUS_APPLIED && s.touchesUsed a n 0
  let s := s.modMgt (fun m => { m with passed := m.passed.filter (fun p => !s.touchesSlot a n p.1 p.2) })
  if stale then s.setFld Reg.GLB_IMG_WINDOW Fld.GLB_IMG_WINDOW_STALE 1 else s

/-- What an erase or a write that fails leaves in its range is free. -/
def State.flashSpoilt (s : State) (a n : Nat) : State :=
  let r := s.freeBytes n
  { r.1 with flash := memWrite r.1.flash 0xFF a r.2 }

/-! ### The commands (R552 to R559); each answers RESULT and DETAIL -/

/-- NONCE (R552). -/
def State.mbxNonce (s : State) : State × Nat × Nat :=
  let r := s.freeBytes 32
  ((r.1.modMgt (fun m => { m with nonce := some r.2 })).mbxWrite 0 r.2, 0, 0)

/-- SESSION_OPEN (R552, R555): the key's digest against slot ARG0, then the signature over the nonce in force. -/
def State.mbxOpen (s : State) : State × Nat × Nat :=
  let k := s.mbxArg 0
  if s.mgt.session.isSome then (s, 7, 0)
  else if 4 ≤ k then (s, 3, 0)
  else
    let key := s.mbxRead 0 64
    let refused := s.log 0x10 0 0x0011 (k * 256 + 2)
    if !((s.otp.get k).1 == 1 && (s.otp.get k).2 == digest key) then (refused, 4, 4)
    else match s.mgt.nonce with
      | none => (refused, 4, 5)
      | some n =>
        if slhVerify key (withContext ctxSession n) (s.mbxRead 64 sigLen) then
          (((s.modMgt (fun m => { m with session := some k })).setFld Reg.MGT_STATUS Fld.MGT_STATUS_SESSION 1).log
            0x10 0 0x0011 (k * 256), 0, 0)
        else (refused, 4, 5)

/-- FLASH_ERASE: ARG0 and ARG1 in units of 64 KiB. -/
def State.mbxErase (s : State) (err : Bool) : State × Nat × Nat :=
  let a := 0x10000 * s.mbxArg 0
  let n := 0x10000 * s.mbxArg 1
  if 2 ^ 32 < a + n then (s, 3, 0)
  else if s.flashDenied a n then (s, 6, 0)
  else
    let s := s.flashTouched a n
    if err then (s.flashSpoilt a n, 5, 0)
    else ({ s with flash := s.flash.filter (fun e => !(decide (a ≤ e.1) && decide (e.1 < a + n))) }, 0, 0)

/-- FLASH_WRITE: ARG1 bytes from the mailbox to flash offset ARG0. -/
def State.mbxFlash (s : State) (err : Bool) : State × Nat × Nat :=
  let a := s.mbxArg 0
  let n := s.mbxArg 1
  if a % 256 ≠ 0 ∨ n % 256 ≠ 0 ∨ 0x20000 < n ∨ 2 ^ 32 < a + n then (s, 3, 0)
  else if s.flashDenied a n then (s, 6, 0)
  else
    let s := s.flashTouched a n
    if err then (s.flashSpoilt a n, 5, 0)
    else ({ s with flash := memWrite s.flash 0xFF a (s.mbxRead 0 n) }, 0, 0)

/-- FLASH_VERIFY: the checks of R50 or R548 on slot ARG1 of kind ARG0; `err` is the step at which a read fails. -/
def State.mbxVerify (s : State) (err : Nat) : State × Nat × Nat :=
  let kind := s.mbxArg 0
  let slot := s.mbxArg 1
  if 3 ≤ kind ∨ 2 ≤ slot then (s, 3, 0)
  else
    let code := if kind = 0 then s.imageCode slot err else s.fwCode kind slot (err != 0)
    let rest (m : MgtSt) := m.passed.filter (· != (kind, slot))
    if code = 0 then (s.modMgt (fun m => { m with passed := (kind, slot) :: rest m }), 0, 0)
    else (s.modMgt (fun m => { m with passed := rest m }), 4, code)

/-- A boot directory with SEQ + 1 and another preferred slot of a kind. -/
def newDir (d : List Nat) (kind slot : Nat) : List Nat :=
  let b := d.take 4 ++ leBytes 4 (numAt d 4 4 + 1) ++ (d.take 0x38).drop 8
    ++ [withBit (d.getD 0x38 0) kind (slot == 1)] ++ (d.take 0x7C).drop 0x39
  b ++ leBytes 4 (crc32c b)

/-- SET_PREFERRED: the older copy of the boot directory is written. -/
def State.mbxPrefer (s : State) (err : Bool) : State × Nat × Nat :=
  let kind := s.mbxArg 0
  let slot := s.mbxArg 1
  if 3 ≤ kind ∨ 2 ≤ slot then (s, 3, 0)
  else if !s.mgt.passed.contains (kind, slot) then (s, 6, 0)
  else match s.bootDir with
    | none => (s, 6, 0)
    | some (k, d) =>
      let a := 0x0F0000 + 0x1000 * (1 - k)
      if err then (s.flashSpoilt a 128, 5, 0)
      else ({ s with flash := memWrite s.flash 0xFF a (newDir d kind slot) }, 0, 0)

/-- Bytes cut or filled with zeros to a length. -/
def fit (n : Nat) (l : List Nat) : List Nat := l.take n ++ List.replicate (n - l.length) 0

/-- The 368 bytes of the attestation report before its signature (R559). -/
def State.report (s : State) : List Nat :=
  let keys := (List.range 4).flatMap (fun k => fit 32 (s.otp.get k).2)
  let digestBytes := (List.range 8).flatMap (fun k => leBytes 4 (s.reg (Reg.GLB_IMG_DIGESTk k)).toNat)
  [0x4D, 0x5A, 0x41, 0x54] ++ leBytes 4 50224
    ++ leBytes 4 (s.reg Reg.GLB_PCIE_DSN_LO).toNat ++ leBytes 4 (s.reg Reg.GLB_PCIE_DSN_HI).toNat
    ++ [s.fld Reg.GLB_ID Fld.GLB_ID_STEPPING, s.fld Reg.GLB_ROLE Fld.GLB_ROLE_ROLE, s.twinState,
      s.fld Reg.MGT_OTP_KEYS Fld.MGT_OTP_KEYS_STATE]
    ++ leBytes 4 (s.reg Reg.GLB_IMG_VERSION).toNat ++ s.mbxRead 0 32 ++ leBytes 8 s.invar
    ++ digestBytes ++ fit 32 s.mgt.mc0Digest ++ fit 32 s.mgt.mc1Digest ++ keys ++ fit 64 s.mgt.idKey
    ++ [(List.range 3).foldl (fun a k => a + ((s.mgt.slots.get k).getD 0) * 2 ^ k) 0] ++ List.replicate 15 0

/-- ATTEST (R559). -/
def State.mbxAttest (s : State) : State × Nat × Nat :=
  (s.mbxWrite 0 (s.report ++ fit 49856 (Config.slhSign (withContext ctxAttest s.report))), 0, 0)

/-- ACC_SET (R556): MC0 writes the region that the descriptor names. -/
def State.mbxAcc (s : State) : State × Nat × Nat :=
  let d := Config.accDescriptor (s.mbxRead 0 16)
  let r := d.1 % 65
  let s := if r = 64 then s.plainWrite Reg.MGT_ACC_DEFAULT d.2.2.2 0
    else ((s.plainWrite (Reg.MGT_ACCr_START r) d.2.1 0).plainWrite (Reg.MGT_ACCr_END r) d.2.2.1 0).plainWrite
      (Reg.MGT_ACCr_PERM r) d.2.2.2 0
  (s.log 0x10 0 0x0012 r, 0, 0)

/-- An owner slot takes a state and a digest; MGT_OTP_KEYS shows it and the log records it (R551, R563). -/
def State.setKey (s : State) (k st : Nat) (dg : List Nat) : State :=
  ({ s with otp := s.otp.set k (st, dg) }.setFld Reg.MGT_OTP_KEYS ⟨2 * k, 2⟩ st).log 0x10 0 0x0013 (k * 256 + st)

/-- Whether some owner slot other than `except` is VALID. -/
def State.someValid (s : State) (except : Nat) : Bool := (List.range 4).any (fun k => k != except && (s.otp.get k).1 == 1)

/-- KEY_PROGRAM and KEY_REVOKE (R551, R554, R555). -/
def State.mbxProgram (s : State) : State × Nat × Nat :=
  match (List.range 4).find? (fun k => (s.otp.get k).1 == 0) with
  | none => (s, 6, 0)
  | some k => (s.setKey k 1 (s.mbxRead 0 32), 0, 0)
def State.mbxRevoke (s : State) : State × Nat × Nat :=
  let k := s.mbxArg 0
  if 4 ≤ k then (s, 3, 0)
  else if !s.someValid k then (s, 6, 0)
  else (s.setKey k 2 (s.otp.get k).2, 0, 0)

/-- Whether a command needs an open session (R554). -/
def State.needsSession (s : State) (code : Nat) : Bool :=
  [0x10, 0x11, 0x13, 0x30, 0x32].contains code || (code == 0x31 && s.someValid 4)

/-- The effect of a command; `err` tells of a flash failure. A code that R554 does not list, or that the recovery service does not
serve, changes nothing and has a free result. -/
def State.mbxRun (s : State) (code err : Nat) : State × Nat × Nat :=
  if s.needsSession code && s.mgt.session.isNone then (s, 2, 0)
  else match code with
    | 0x01 => s.mbxNonce
    | 0x02 => s.mbxOpen
    | 0x03 => (s.endSession, 0, 0)
    | 0x10 => s.mbxErase (err != 0)
    | 0x11 => s.mbxFlash (err != 0)
    | 0x12 => s.mbxVerify err
    | 0x13 => s.mbxPrefer (err != 0)
    | 0x20 => if s.mgt.mc0Run then s.mbxAttest else (s.draw, Config.nat s.free % 256, 0)
    | 0x30 => if s.mgt.mc0Run then s.mbxAcc else (s.draw, Config.nat s.free % 256, 0)
    | 0x31 => s.mbxProgram
    | 0x32 => s.mbxRevoke
    | _ => (s.draw, Config.nat s.free % 256, 0)

/-- A command's result shows, and MBX_DONE sets (R553). -/
def State.mbxEnd (s : State) (code result detail : Nat) : State :=
  (s.setReg Reg.MGT_MBX_STATUS (BitVec.ofNat 32 (result % 256 + detail % 16 * 2 ^ 8 + code % 256 * 2 ^ 16))).setFld
    Reg.MGT_STATUS Fld.MGT_STATUS_MBX_DONE 1

/-- Whether a command can be served now: by MC0 firmware or the recovery service; ATTEST under MC0 waits for ID_READY (R550, R558). -/
def State.canServe (s : State) (code : Nat) : Bool :=
  if s.mgt.mc0Run then code != 0x20 || s.on Reg.MGT_STATUS Fld.MGT_STATUS_ID_READY
  else s.on Reg.MGT_STATUS Fld.MGT_STATUS_RECOVERY

/-- A command is written to MGT_MBX_CMD (R553): while one runs it ends at once with BUSY. -/
def State.mailbox (s : State) (code err : Nat) : State :=
  if s.on Reg.MGT_STATUS Fld.MGT_STATUS_MBX_BUSY then s.mbxEnd code 1 0
  else
    let s := s.setFld Reg.MGT_STATUS Fld.MGT_STATUS_MBX_BUSY 1
    if s.canServe code then
      let r := s.mbxRun code err
      r.1.modMgt (fun m => { m with cmd := some ⟨code, r.2.1, r.2.2, false⟩ })
    else s.modMgt (fun m => { m with cmd := some ⟨code, 0, 0, true⟩ })

/-- The command in progress ends (R553). -/
def doMbxDone (s : State) : State :=
  match s.mgt.cmd with
  | none => s
  | some c =>
    let fin (s : State) (result detail : Nat) : State :=
      ((s.modMgt (fun m => { m with cmd := none })).setFld Reg.MGT_STATUS Fld.MGT_STATUS_MBX_BUSY 0).mbxEnd c.code result detail
    if !c.waits then fin s c.result c.detail
    else if s.canServe c.code then let r := s.mbxRun c.code 0; fin r.1 r.2.1 r.2.2
    else s

def execMbxCommandDone (s : State) : Host.Outcome State Fault Refusal := answer s true (doMbxDone s)

/-- A write of a command code to MGT_MBX_CMD. -/
def State.mbxWriteCmd (s : State) (i : Initiator) (code err : Nat) : State :=
  s.swWrite i Reg.MGT_MBX_CMD (BitVec.ofNat 32 code) (fun s => s.mailbox code err)

def execMbxNonce (i : Initiator) (s : State) : Host.Outcome State Fault Refusal := answer s true (s.mbxWriteCmd i 0x01 0)
def execMbxSessionOpen (i : Initiator) (s : State) : Host.Outcome State Fault Refusal := answer s true (s.mbxWriteCmd i 0x02 0)
def execMbxSessionClose (i : Initiator) (s : State) : Host.Outcome State Fault Refusal := answer s true (s.mbxWriteCmd i 0x03 0)
def execMbxFlashErase (i : Initiator) (err : Bool) (s : State) : Host.Outcome State Fault Refusal :=
  answer s true (s.mbxWriteCmd i 0x10 (b2n err))
def execMbxFlashWrite (i : Initiator) (err : Bool) (s : State) : Host.Outcome State Fault Refusal :=
  answer s true (s.mbxWriteCmd i 0x11 (b2n err))
def execMbxFlashVerify (i : Initiator) (err : Nat) (s : State) : Host.Outcome State Fault Refusal :=
  answer s (err < 8) (s.mbxWriteCmd i 0x12 err)
def execMbxSetPreferred (i : Initiator) (err : Bool) (s : State) : Host.Outcome State Fault Refusal :=
  answer s true (s.mbxWriteCmd i 0x13 (b2n err))
def execMbxAttest (i : Initiator) (s : State) : Host.Outcome State Fault Refusal := answer s true (s.mbxWriteCmd i 0x20 0)
def execMbxAccSet (i : Initiator) (s : State) : Host.Outcome State Fault Refusal := answer s true (s.mbxWriteCmd i 0x30 0)
def execMbxKeyProgram (i : Initiator) (s : State) : Host.Outcome State Fault Refusal := answer s true (s.mbxWriteCmd i 0x31 0)
def execMbxKeyRevoke (i : Initiator) (s : State) : Host.Outcome State Fault Refusal := answer s true (s.mbxWriteCmd i 0x32 0)

/-! ### Watchdogs, log entries by software, the image window, the identity key -/

/-- A write to MGT_WDT_KICK: a core restarts its own watchdog only (R546). -/
def State.kick (s : State) (i : Nat) (data : Word) : State :=
  if 4 ≤ i ∧ i ≤ 5 ∧ bitB data.toNat (i - 4) = true then s.modMgt (fun m => { m with wdtAt := m.wdtAt.set (i - 4) s.now }) else s

def execWdtKick (i : Initiator) (data : Word) (s : State) : Host.Outcome State Fault Refusal :=
  answer s true (s.swWrite i Reg.MGT_WDT_KICK data (fun s => s.kick i.code data))

/-- Whether a core runs; in P3 both are powered off (R523, R529). -/
def State.coreRuns (s : State) (t : Nat) : Bool := !s.inP3 && if t = 0 then s.mgt.mc0Run else s.on Reg.MGT_STATUS Fld.MGT_STATUS_MC1_RUN

/-- A watchdog's period has passed without a kick (R546). -/
def doWdtExpiry (t : Nat) (s : State) : State :=
  let ms := s.fld (Reg.MGT_WDTt_CFG t) Fld.MGT_WDTt_CFG_MS
  if ms = 0 || !s.coreRuns t || decide (s.now < s.mgt.wdtAt.get t + 1000000 * ms) then s
  else (s.modMgt (fun m => { m with wdtAt := m.wdtAt.set t s.now })).raiseError 50 t

def execWdtExpiry (t : Nat) (s : State) : Host.Outcome State Fault Refusal := answer s (t < 2) (doWdtExpiry t s)

/-- A write of MGT_LOG_CODE commits an entry with the ARG that the same initiator last wrote; below 0x8000 it is ignored (R562). The
entry's instance is free. -/
def State.logCode (s : State) (i : Nat) (data : Word) : State :=
  let code := data.toNat % 65536
  if code < 0x8000 then s
  else s.draw.log 0x10 (Config.nat s.free % 256) code (s.logArg.get i).toNat

def execLogCodeWrite (i : Initiator) (data : Word) (s : State) : Host.Outcome State Fault Refusal :=
  answer s true (s.swWrite i Reg.MGT_LOG_CODE data (fun s => s.logCode i.code data))

/-- A read of GLB_IMG_WINDOW_DATA (R560): four image bytes, and OFFSET moves on. -/
def State.imgWindow (s : State) : State × Word :=
  let o := s.fld Reg.GLB_IMG_WINDOW Fld.GLB_IMG_WINDOW_OFFSET
  let ok := s.image.verified && !s.on Reg.GLB_IMG_WINDOW Fld.GLB_IMG_WINDOW_STALE && decide (o < s.image.bytes.length)
  let base := match s.bootDir, s.mgt.slots.get 0 with
    | some (_, d), some k => (dirSlot d 0 k).1
    | _, _ => 0
  (s.setFld Reg.GLB_IMG_WINDOW Fld.GLB_IMG_WINDOW_OFFSET (o + 4),
    if ok then BitVec.ofNat 32 (leNat (s.flashBytes (base + o) 4)) else 0)

def execImgWindowDataRead (i : Initiator) (s : State) : Host.Outcome State Fault Refusal :=
  answer s true (s.swRead i Reg.GLB_IMG_WINDOW_DATA (fun s => s.imgWindow))

/-- The identity key is made (R558). -/
def doIdReady (s : State) : State :=
  if !s.on Reg.GLB_IMG_STATUS Fld.GLB_IMG_STATUS_APPLIED || s.on Reg.MGT_STATUS Fld.MGT_STATUS_ID_READY then s
  else
    let key := (List.range 64).map (fun k => (Config.idByte k).toNat)
    let s := (List.range 16).foldl (fun s k => s.setReg (Reg.MGT_ID_PUBk k) (BitVec.ofNat 32 (numAt key (4 * k) 4))) s
    (s.modMgt (fun m => { m with idKey := key })).setFld Reg.MGT_STATUS Fld.MGT_STATUS_ID_READY 1

def execIdentityKeyReady (s : State) : Host.Outcome State Fault Refusal := answer s true (doIdReady s)

end Sys2Proof.Machine
end

