-- ==== Sys2Proof/Machine/Schedule.lean ====
section
/-! DEFINITION. What registers hold at this moment, and scheduled actions as they come due (spec/11, R305 to R308). -/

namespace Sys2Proof.Machine

/-! ### Live values -/

/-- The sixteen bytes of a log entry (R561). -/
def LogEntry.bytes (e : LogEntry) : List Nat := leBytes 8 e.time ++ [e.blk % 256, e.inst % 256] ++ leBytes 2 e.code ++ leBytes 4 e.arg

/-- What a register that no initiator has to itself shows at this moment, for a read or a snapshot: the image window (R560), the live QUIET bit
(R524), the log (R561), the mailbox (R553), the Glasshouse window (R90), table data (R168), two-wire results (R441), or the register file. -/
def State.live (s : State) (off : Nat) : Word :=
  if off = Reg.GLB_IMG_WINDOW_DATA then s.imgWindow.2
  else if off = Reg.PCR_STATUS then BitVec.ofNat 32 (withBit (s.readReg off).toNat 11 s.quiet)
  else if 0xE10000 ≤ off ∧ off < 0xE20000 then
    BitVec.ofNat 32 (numAt (LogEntry.bytes (s.logRing.get ((off - 0xE10000) / 16))) (off % 16) 4)
  else if 0xE20000 ≤ off ∧ off < 0xE40000 then BitVec.ofNat 32 (leNat (s.mbxRead (off - 0xE20000) 4))
  else if 0x1000000 ≤ off ∧ off < 0x2000000 then BitVec.ofNat 32 (leNat (memRead s.ghouse 0 (off - 0x1000000) 4))
  else match (List.range 16).find? (fun lu => off == Reg.PVp_LUu_TBL_DATA (lu / 4) (lu % 4)) with
    | some lu => s.luWord lu (s.fld (Reg.PVp_LUu_TBL_ADDR (lu / 4) (lu % 4)) Fld.PVp_LUu_TBL_ADDR_ADDR)
    | none => match (List.range 8).find? (fun k => off == Reg.TWk_RDATA k) with
      | some k => (s.twRdata k).2
      | none => s.readReg off

/-! ### Snapshots and slots -/

/-- What a snapshot copies (R308): the live value; Invar's low half; and a free word for the registers that each initiator has to itself, since a
snapshot has no initiator (notes/assumptions/139.md). -/
def State.peek (s : State) (off : Nat) : Word :=
  if off = Reg.TB_TIME_LO then BitVec.ofNat 32 s.invar
  else if off = Reg.TB_TIME_HI then BitVec.ofNat 32 (Config.nat s.free)
  else if off = Reg.MGT_LOG_ARG then BitVec.ofNat 32 (Config.nat (s.free + 1))
  else s.live off

/-- A snapshot at Invar time `t` (R308). -/
def State.snapshot (s : State) (t : Nat) : State :=
  let s0 := s
  let s := (s.setReg Reg.TB_SNAP_TIME_LO (BitVec.ofNat 32 t)).setReg Reg.TB_SNAP_TIME_HI (BitVec.ofNat 32 (t / 2 ^ 32))
  let s := (List.range 6).foldl (fun s j =>
    let off := 4 * s.fld (Reg.TB_SNAP_LISTj j) Fld.TB_SNAP_LISTj_OFFSET
    if off = 0 then s else s.setReg (Reg.TB_SNAP_DATAj j) (s0.peek off)) s
  (s.draw.draw.bumpSeq Reg.TB_SNAP_SEQ).setFld Reg.TB_STATUS Fld.TB_STATUS_SNAP 1

/-- A slot performs its action (R305, R306). -/
def State.fireSlot (s : State) (k : Nat) : State :=
  let c := s.slot.get k
  let s := match c.action with
    | 2 => s.snapshot c.time
    | 3 => s.genSwitch c.arg 0
    | 4 => s.genSwitch 0 c.arg
    | 5 => s.genEvents c.arg
    | _ => s
  (s.setSlot k 2).setBit Reg.TB_STATUS k

/-- A CTRL write with DISARM (R306): an action that is due in the same cycle is still performed. -/
def State.ctrlDisarm (s : State) (k : Nat) (data : Word) : State :=
  let s := if s.slotDue k then s.fireSlot k else s
  (s.plainWrite (Reg.TB_SCHEDk_CTRL k) data 0).setSlot k 0

/-- Any CTRL write: DISARM before ARM. -/
def State.ctrlWrite (s : State) (k : Nat) (data : Word) : State :=
  if bitB data.toNat 9 then s.ctrlDisarm k data
  else if bitB data.toNat 8 then s.ctrlArm k data
  else s.plainWrite (Reg.TB_SCHEDk_CTRL k) data 0

def execSchedArm (i : Initiator) (k : Nat) (data : Word) (s : State) : Host.Outcome State Fault Refusal :=
  answer s (k < 8) (s.swWrite i (Reg.TB_SCHEDk_CTRL k) data (fun s => s.ctrlWrite k data))

def execSchedDisarm (i : Initiator) (k : Nat) (data : Word) (s : State) : Host.Outcome State Fault Refusal :=
  answer s (k < 8) (s.swWrite i (Reg.TB_SCHEDk_CTRL k) data (fun s => s.ctrlWrite k data))

def execSchedFire (k : Nat) (s : State) : Host.Outcome State Fault Refusal :=
  answer s (k < 8) (if s.slotDue k then s.fireSlot k else s)

end Sys2Proof.Machine
end

