-- ==== Sys2Proof/Machine/RegEffect.lean ====
section
/-! DEFINITION. What a write of a register does and what a read of it returns, block by block: the access types of R4 where a register has no
effect of its own, otherwise the operation of its block. Writes from every path come here: host, cores, TW8, links, the mirror. -/

namespace Sys2Proof.Machine

/-- The instance of a register with a base, a stride and a count that an offset names. -/
def instOf (base stride count off : Nat) : Option Nat :=
  if base ≤ off ∧ (off - base) % stride = 0 ∧ (off - base) / stride < count then some ((off - base) / stride) else none

/-- What follows a change of registers that shape balls and wires: inputs whose filter is now bypassed, triggers that changed level through POL, FAULT_N, strobes whose
POL changed, outgoing virtual wires (R292, R294, R432, R484). -/
def State.follow (s old : State) : State :=
  let s := s.bypass old
  let s := (List.range 16).foldl (fun s i => if s.trig i = old.trig i then s else s.trigMoved i) s
  let s := (List.range 32).foldl (fun s i =>
    if s.on (Reg.TB_STBi_CFG i) Fld.TB_STBi_CFG_POL = old.on (Reg.TB_STBi_CFG i) Fld.TB_STBi_CFG_POL then s else s.strobePin i) s
  let s := if s.faultN = old.faultN then s else s.emit (.pin "FAULT_N" 0 (if s.faultN then 0 else 2))
  s.wiresFrom old.wiresOut

/-- A plain write, with what follows. -/
def State.plainThen (s : State) (off : Nat) (data hw : Word) : State := (s.plainWrite off data hw).follow s

/-! ### GLB_EXPERT_EN (R16 to R18) -/

/-- The registers on a block's expert page that hold something else than at reset, or were loaded. -/
def State.expertRegs (s : State) (bit : Nat) : List Nat :=
  (((s.regs ++ s.imgRegs).map (·.1)).filter (fun off => isExpert off && expertBit off == some bit)).eraseDups

/-- A write to GLB_EXPERT_EN: for each bit it clears, the block's expert values return, at once or, in the blocks that carry lines, at
their next line boundary. -/
def State.expertEn (s : State) (data : Word) : State :=
  let old := s.reg Reg.GLB_EXPERT_EN
  let s0 := s
  let s := s.plainWrite Reg.GLB_EXPERT_EN data 0
  let s := (List.range 19).foldl (fun s b =>
    if bitB old.toNat b && !s.bit Reg.GLB_EXPERT_EN b then
      if b < 8 then { s with expertPend := s.expertPend ++ (s.expertRegs b).filter (fun o => !s.expertPend.contains o) }
      else (s.expertRegs b).foldl (fun s o => s.giveBack o) s
    else s) s
  s.follow s0

/-- Whether a register belongs to what returns together (R18): the SP, ST, PGL or OS block, or one unit. -/
def inScope (sc : ExpertScope) (off : Nat) : Bool :=
  match sc with
  | .sp => expertBit off == some 0
  | .st => expertBit off == some 1
  | .pgl => expertBit off == some 2
  | .os => expertBit off == some 7
  | .unit k n => off / 0x100000 == 4 && ownerOf off / 4096 == k.code && ownerOf off / 64 % 64 == n

/-- The return takes effect at a line boundary (R18). -/
def doExpertReturn (sc : ExpertScope) (s : State) : State :=
  let back := s.expertPend.filter (fun o => inScope sc o)
  let s := { s with expertPend := s.expertPend.filter (fun o => !inScope sc o) }
  back.foldl (fun s o => s.giveBack o) s

/-! ### Registers with effects of their own -/

/-- The record that settings would make, in bytes (R245). -/
def BuSet.recBytes (x : BuSet) : Nat :=
  let n := x.regions.length
  64 + n * (8 + 12 * x.nch) + n * x.nch * x.bins * 4 + x.zx * x.zy * (8 + 4 * ((x.nch + 1) / 2)) + 4

/-- The fields of a context's settings that its shares and its record size depend on and software may write: HBINS, REG_EN, ZX, ZY (R243). -/
def BuSet.guarded (x : BuSet) : List Nat :=
  [x.fld 0 Fld.PVp_BUu_CTXc_CFG_HBINS, x.fld 0 Fld.PVp_BUu_CTXc_CFG_REG_EN, x.fld 3 Fld.PVp_BUu_CTXc_ZGRID_ZX, x.fld 3 Fld.PVp_BUu_CTXc_ZGRID_ZY]

/-- A write of HBINS, REG_EN, ZX or ZY (R243): refused where it changes one of them and the context would then exceed its shares or its
record slots. -/
def State.buWrite (s : State) (b c off : Nat) (data hw : Word) : State :=
  let t := s.plainWrite off data hw
  let set (s : State) : BuSet := ⟨(buRegs b c).map (fun o => (s.reg o).toNat), 0, 0⟩
  let x := set t
  let share := Config.buShare s.image.bytes b c
  let fits := decide (x.regions.length * x.nch * x.bins ≤ share.1) && decide (x.zx * x.zy ≤ share.2)
    && decide (x.recBytes ≤ 64 * s.fld (Reg.PVp_BUu_CTXc_RING (b / 2) (b % 2) c) Fld.PVp_BUu_CTXc_RING_SLOT_SIZE)
  if x.guarded = (set s).guarded ∨ fits = true then t else s.conflict 0x23 b 2

/-- Writes in a pavilion: table data (R168), DARK_EN (R160), the BU's guarded fields. -/
def State.pvWrite (s : State) (off : Nat) (data hw : Word) : State :=
  let p := off % 0x100000 / 0x40000
  let d := off % 0x40000
  if d < 0x10000 then
    let u := d / 0x4000
    let c := (d % 0x4000 - 0x100) / 0x20
    if off = Reg.PVp_LUu_TBL_DATA p u then doTblWrite (4 * p + u) data s
    else if 0x100 ≤ d % 0x4000 ∧ c < 8 ∧ off = Reg.PVp_LUu_CTXc_CFG p u c then
      (s.plainWrite off data hw).darkOff off
    else s.plainWrite off data hw
  else if 0x28000 ≤ d ∧ d < 0x30000 then
    let u := (d - 0x28000) / 0x4000
    let r := (d - 0x28000) % 0x4000
    let c := (r - 0x100) / 0x40
    if 0x100 ≤ r ∧ c < 8 ∧ (off = Reg.PVp_BUu_CTXc_CFG p u c ∨ off = Reg.PVp_BUu_CTXc_ZGRID p u c) then
      s.buWrite (2 * p + u) c off data hw
    else s.plainWrite off data hw
  else s.plainWrite off data hw

/-- Writes in the PGL block: the channel selector and the selected channel's drop count. -/
def State.pglWrite (s : State) (off : Nat) (data hw : Word) : State :=
  if off = Reg.PGL_CH_SEL then (s.plainWrite off data hw).showChan
  else if off = Reg.PGL_CH_DROP_CNT then
    if data = 0 then (s.modChan (s.fld Reg.PGL_CH_SEL Fld.PGL_CH_SEL_CH) (fun c => { c with dropCnt := 0 })).showChan else s
  else s.plainWrite off data hw

/-- Writes in the TB block: generator commands, scheduled actions, the rest with what POL brings. -/
def State.tbWrite (s : State) (off : Nat) (data hw : Word) : State :=
  if off = Reg.TB_STB_SW then s.genEvents data.toNat
  else if off = Reg.TB_STB_START then s.genSwitch data.toNat 0
  else if off = Reg.TB_STB_STOP then s.genSwitch 0 data.toNat
  else match (List.range 8).find? (fun k => off == Reg.TB_SCHEDk_CTRL k) with
    | some k => s.ctrlWrite k data
    | none => s.plainThen off data hw

/-- The registers of a DMA channel that are guarded while it runs (R353). -/
def dmaGuarded (c : Nat) : List Nat :=
  [Reg.DMA_CHn_PROG_LO c, Reg.DMA_CHn_PROG_HI c, Reg.DMA_CHn_PROG_CFG c, Reg.DMA_CHn_RING_BASE_LO c,
    Reg.DMA_CHn_RING_BASE_HI c, Reg.DMA_CHn_RING_CFG c, Reg.DMA_CHn_CPL_LO c, Reg.DMA_CHn_CPL_HI c]

/-- Writes in the DMA block. -/
def State.dmaWrite (s : State) (off : Nat) (data hw : Word) : State :=
  let c := (off - Reg.DMA_CHn_CTRL 0) / 0x80
  if off < Reg.DMA_CHn_CTRL 0 ∨ 32 ≤ c then s.plainWrite off data hw
  else if off = Reg.DMA_CHn_CTRL c then s.dmaCtrl c data
  else if off = Reg.DMA_CHn_SEM_ADD c then s.semAdd c (data.toNat % 2 ^ 16)
  else if (dmaGuarded c).contains off && s.dmaState c != 0 && s.dmaState c != 5 then s.cmdIgnored c
  else s.plainWrite off data hw

/-- Writes in the LNK and BRG blocks. -/
def State.lnkWrite (s : State) (off : Nat) (data hw : Word) : State :=
  match (List.range 3).find? (fun g => off == Reg.LNK_Gg_CTRL g) with
  | some g => s.lnkCtrl g data
  | none =>
    if off = Reg.BRG_PERR_POP then (if bitB data.toNat 0 then s.perrPop else s)
    else if 0x980000 ≤ off then s.plainThen off data hw
    else s.plainWrite off data hw

/-- Writes in the TW block. -/
def State.twWrite (s : State) (off : Nat) (data hw : Word) : State :=
  if off = Reg.TW8_CTRL then s.tw8Ctrl data
  else match (List.range 8).find? (fun k => off == Reg.TWk_WDATA k || off == Reg.TWk_QCMD k || off == Reg.TWk_CTRL k) with
    | some k =>
      if off = Reg.TWk_WDATA k then s.twStage k data
      else if off = Reg.TWk_QCMD k then s.twPush k data
      else s.twCtrlFree k data
    | none => s.plainWrite off data hw

/-- Writes in the IC block. Those to the configuration of a reserved source are ignored (R462). -/
def State.icWrite (s : State) (off : Nat) (data hw : Word) : State :=
  if off = Reg.IC_HOST_EOI then doHostEoi (Fld.IC_HOST_EOI_SOURCE.get data) s
  else if off = Reg.IC_HOLD then doHoldWrite data s
  else match (List.range 2).find? (fun t => off == Reg.IC_Tt_EOI t), (List.range 16).find? (fun k =>
      off == Reg.IC_PENDk k || off == Reg.IC_MASKk k) with
    | some t, _ => doCoreEoi t (Fld.IC_Tt_EOI_SOURCE.get data) s
    | none, some k => s.setReg off (data &&& BitVec.ofNat 32 (icWritable k))
    | none, none =>
      if 0xB01000 ≤ off ∧ off < 0xB02000 ∧ srcReserved ((off - 0xB01000) / 8) = true then s else s.plainWrite off data hw

/-- Writes in the FC block: class floors (R480), FAULT_N (R484), commands. -/
def State.fcWrite (s : State) (off : Nat) (data hw : Word) : State :=
  if off = Reg.FC_ACK then s.fcAck data
  else if off = Reg.FC_REVIVE then s.fcRevive data
  else if off = Reg.FC_INJECT then s.fcInject data
  else match (List.range 2).find? (fun w => off == Reg.FC_CLASS_LOw w || off == Reg.FC_CLASS_HIw w) with
    | some w => s.setReg off (BitVec.ofNat 32 (classWord ((if off = Reg.FC_CLASS_LOw w then 0 else 32) + 16 * w) data.toNat))
    | none => s.plainThen off data hw

/-- Writes in the MGT block from an initiator, the mailbox buffer included (R546, R553, R556, R562). -/
def State.mgtWrite (s : State) (i off : Nat) (data hw : Word) : State :=
  if off = Reg.MGT_LOG_ARG then { s with logArg := s.logArg.set i data }
  else if off = Reg.MGT_LOG_CODE then s.logCode i data
  else if off = Reg.MGT_MBX_CMD then s.mailbox (data.toNat % 256) 0
  else if off = Reg.MGT_WDT_KICK then s.kick i data
  else if 0xE20000 ≤ off ∧ off < 0xE40000 then s.mbxWrite (off - 0xE20000) (leBytes 4 data.toNat)
  else s.plainWrite off data hw

/-- The image gives pavilion `p` a clock (R71): it assigns it a stream, or a spare that its SPARES section names. -/
def State.pvClocked (s : State) (p : Nat) : Bool :=
  (List.range 64).any (fun n => s.on (Reg.ST_BINDn n) Fld.ST_BINDn_VALID && s.homePv n == p)
    || s.image.spares.any (fun w => unitPv w.kind w.spare == p)

/-- The clock of a pavilion runs (R71, R522, R523). -/
def State.pvRuns (s : State) (p : Nat) : Bool :=
  s.pvClocked p && (!islandStops s.pwrState (17 + p) || s.pwr.awake.any (fun x => x.1 == 17 + p))

/-- A write through the Glasshouse debug window (R80, R90): refused for a bank of a pavilion whose clock runs. -/
def State.windowWrite (s : State) (off : Nat) (data : Word) : State :=
  let a := off - 0x1000000
  let o := s.bankOwner (a / 0x40000)
  if o < 4 ∧ s.pvRuns o = true then s.conflict 0x12 0 2
  else { s with ghouse := memWrite s.ghouse 0 a (leBytes 4 data.toNat) }

/-- The effect of a write that has passed the checks. `i` is the initiator's code; `hw` has the bits that hardware sets in the same cycle
(R5). -/
def State.regEffect (s : State) (i off : Nat) (data hw : Word) : State :=
  match off / 0x100000 with
  | 0 => if off = Reg.GLB_EXPERT_EN then s.expertEn data else s.plainWrite off data hw
  | 1 => match (List.range 16).find? (fun n => off == Reg.SPn_CTRL n) with
    | some n => if bitB data.toNat 0 then s.enablePort n else s.disablePort n
    | none => s.plainWrite off data hw
  | 3 => s.pglWrite off data hw
  | 4 => s.pvWrite off data hw
  | 6 => s.tbWrite off data hw
  | 7 => if off = Reg.FM_INJECT then s.fmInject data else s.plainWrite off data hw
  | 8 => s.dmaWrite off data hw
  | 9 => s.lnkWrite off data hw
  | 10 => s.twWrite off data hw
  | 11 => s.icWrite off data hw
  | 12 => s.fcWrite off data hw
  | 13 => if off = Reg.PCR_RESET then s.pcrReset data else s.plainWrite off data hw
  | 14 => s.mgtWrite i off data hw
  | 15 => if off = Reg.TWN_CTRL then s.twnCtrl data else s.plainWrite off data hw
  | n => if 16 ≤ n ∧ n < 32 then s.windowWrite off data else s.plainWrite off data hw

/-! ### Reads -/

/-- What a read returns and does: Invar's latch (R285), the initiator's log argument, the live value of any other register with the step of the
image window, table data (R168) or two-wire results (R441), or a claim (R466). `init` is the originating initiator of a read over a group. -/
def State.regRead (s : State) (i : Initiator) (init off : Nat) : State × Word :=
  if off = Reg.TB_TIME_LO then s.readTimeLo (latchKey i init)
  else if off = Reg.TB_TIME_HI then (s, BitVec.ofNat 32 (s.sync.latch.get (latchKey i init)))
  else if off = Reg.MGT_LOG_ARG then (s, s.logArg.get i.code)
  else if off = Reg.GLB_IMG_WINDOW_DATA then (s.imgWindow.1, s.live off)
  else match (List.range 16).find? (fun lu => off == Reg.PVp_LUu_TBL_DATA (lu / 4) (lu % 4)) with
    | some lu => (s.tblAdvance lu, s.live off)
    | none => match (List.range 8).find? (fun k => off == Reg.TWk_RDATA k) with
      | some k => ((s.twRdata k).1, s.live off)
      | none => (doClaim i off s, s.live off)

end Sys2Proof.Machine
end

