-- ==== Sys2Proof/Machine/RegWrite.lean ====
section
/-! DEFINITION. Register accesses as commands: where each initiator's addresses lead (R360 to R363, R544), writes by the host, the cores, TW8
(R455 to R457), the links (R416, R417, R420) and the mirror (R500, R503), counters (R8 to R10), the expert page (R18). -/

namespace Sys2Proof.Machine

/-! ### Where an address leads (R360, R361, R415, R544) -/

/-- What an address of an initiator names. -/
inductive Place where
  /-- A BAR0 offset of the register space. -/
  | reg (off : Nat)
  /-- A BAR0 offset that may only be read. -/
  | readOnly (off : Nat)
  /-- A word of a function's MSI-X table. -/
  | msix (f k : Nat)
  /-- A word of a function's MSI-X pending bits. -/
  | pba (f k : Nat)
  /-- A far BAR0 offset. -/
  | remote (off : Nat)
  /-- A byte of a core's tightly coupled memory, of the mailbox, of the cores' exchange area. -/
  | tcm (a : Nat)
  | mailbox (a : Nat)
  | shared (a : Nat)
  /-- A data address of frame memory. -/
  | frame (a : Nat)
  /-- A byte of the event log, to be read. -/
  | eventLog (a : Nat)
  /-- A byte of the recipe store or of the DMA program store, whose layout no rule gives. -/
  | store (a : Nat)
  /-- Nothing. -/
  | nothing
  /-- Nothing, and the core faults. -/
  | fault
  deriving DecidableEq, Repr

/-- The address map of PF1 and PF2 (R361). -/
def aliasOf (f a : Nat) : Place :=
  if a < 0x1000 then .msix f (a / 4)
  else if a < 0x1020 then .pba f ((a - 0x1000) / 4)
  else if 0x10000 ≤ a ∧ a < 0x11000 then .reg (Reg.DMA_CHn_CTRL 0 + (a - 0x10000))
  else if f = 1 ∧ 0x20000 ≤ a ∧ a < 0x30000 ∧ a % 0x800 < 0x100 then .reg (0x500000 + (a - 0x20000))
  else if 0x30000 ≤ a ∧ a < 0x30100 then .readOnly (a - 0x30000)
  else if f = 2 ∧ 0x100000 ≤ a ∧ a < 0x200000 then .reg (0xE00000 + (a - 0x100000))
  else if f = 2 ∧ 0x200000 ≤ a ∧ a < 0x300000 then .reg (0xC00000 + (a - 0x200000))
  else .nothing

/-- The address map of a core (R544). The recipe store and the DMA program store are MC0's alone, and MC1 only reads the event log; what
MC0's own firmware writes there is outside the register model. -/
def State.coreMap (s : State) (t a : Nat) : Place :=
  if a < 0x40000 then .tcm (0x40000 * t + a)
  else if 0x100A0000 ≤ a ∧ a < 0x100C0000 ∧ t = 0 then .mailbox (a - 0x100A0000)
  else if 0x100C0000 ≤ a ∧ a < 0x10100000 then .shared (a - 0x100C0000)
  else if 0x10080000 ≤ a ∧ a < 0x10090000 then .eventLog (a - 0x10080000)
  else if 0x10000000 ≤ a ∧ a < 0x100A0000 ∧ t = 0 then .store (a - 0x10000000)
  else if 0x40000000 ≤ a ∧ a < 0x42000000 then .reg (a - 0x40000000)
  else if 0x50000000 ≤ a ∧ a < 0x52000000 then .remote (a - 0x50000000)
  else if 0x80000000 ≤ a ∧ a < 0x100000000 then
    .frame (s.fld (Reg.MGT_FMWINt_BASE t) Fld.MGT_FMWINt_BASE_BASE * 0x4000000 + (a - 0x80000000))
  else .fault

/-- Where an address of an initiator leads. -/
def State.place (s : State) (i : Initiator) (a : Nat) : Place :=
  match i with
  | .pf1 => aliasOf 1 a
  | .pf2 => aliasOf 2 a
  | .pf3 =>
    if a < 0x2000000 then .remote a else if a < 0x2001000 then .msix 3 ((a - 0x2000000) / 4)
    else if a < 0x2001020 then .pba 3 ((a - 0x2001000) / 4) else .nothing
  | .mc0 => s.coreMap 0 a
  | .mc1 => s.coreMap 1 a
  | .pf0 | .tw8 =>
    if a < 0x2000000 then .reg a else if a < 0x2001000 then .msix 0 ((a - 0x2000000) / 4)
    else if a < 0x2001020 then .pba 0 ((a - 0x2001000) / 4) else .nothing
  | _ => if a < 0x2000000 then .reg a else .nothing

/-- The bytes of a word that byte enables select go to a memory from address `a`. -/
def putBytes (m : Table Byte) (a be : Nat) (data : Word) : Table Byte :=
  (List.range 4).foldl (fun m k => if bitB be k then memWrite m 0 (a + k) [data.toNat / 256 ^ k % 256] else m) m

/-! ### REG_WRITE -/

/-- A write to an MSI-X table (R364, R369, R556). -/
def State.msixWrite (s : State) (i : Initiator) (f k : Nat) (data : Word) : State :=
  if i.isHost && !s.fnServes i.code then s.aerUncorr i.code 20
  else if !s.granted i 0 (0x2000000 + 4 * k) true then s.refuse i 0 (0x2000000 + 4 * k) true
  else if s.inBoot then s
  else s.setMsix f k data

/-- A core's write through its frame-memory window (R544, R545, R556). -/
def State.frameWrite (s : State) (i : Initiator) (a be : Nat) (data : Word) : State :=
  if !s.fmGranted i a 4 true then s.refuse i 1 a true
  else (List.range 4).foldl (fun s k => if bitB be k then s.fmPut (a + k) [data.toNat / 256 ^ k % 256] else s) s

/-- The size of BAR0 of an initiator's function (R360). -/
def barSize : Initiator → Nat
  | .pf1 => 0x100000
  | .pf2 => 0x400000
  | _ => 0x4000000

/-- A host request that no function answers (R370, R373): the function does not serve, or its BAR0 ends before the address. -/
def State.unserved (s : State) (i : Initiator) (a : Nat) : Bool := i.isHost && (!s.fnServes i.code || decide (barSize i ≤ a))

/-- A write of one double word at an address of an initiator, with byte enables (R14): a write of a register that does not cover all four
bytes is discarded, and so is a poisoned one, or one that no function answers (R370). -/
def doRegWrite (i : Initiator) (a : Nat) (data : Word) (be : Nat) (hw : Word) (poison : Bool) (s : State) : State :=
  if s.inReset || (i == .mc1 && !s.bit Reg.MGT_STATUS 10) then s
  else if s.unserved i a then s.aerUncorr i.code 20
  else if poison && i.isHost then s.aerUncorr i.code 12
  else match s.place i a with
    | .reg off => if be = 15 then s.swWrite i off data (fun s => s.regEffect i.code off data hw) else s
    | .msix f k => if be = 15 then s.msixWrite i f k data else s
    | .remote off => if be = 15 then doRemoteWrite i off [data] s else s
    | .tcm n => { s with tcm := putBytes s.tcm n be data }
    | .mailbox n => { s with mbx := putBytes s.mbx n be data }
    | .shared n => { s with shared := putBytes s.shared n be data }
    | .frame n => s.frameWrite i n be data
    | .eventLog _ => if i == .mc1 then s.emit (.coreFault 1 7) else s
    | .store _ => s
    | .pba _ _ => s
    | .readOnly _ => s
    | .nothing => s
    | .fault => s.emit (.coreFault (i.code - 4) 7)

/-- The initiators that issue accesses of their own on the device. -/
def issues (i : Initiator) : Bool := decide (i.code < 6)

def execRegWrite (i : Initiator) (a : Nat) (data : Word) (be : Nat) (hw : Word) (poison : Bool) (s : State) :
    Host.Outcome State Fault Refusal :=
  answer s (issues i && a % 4 == 0 && be < 16) (doRegWrite i a data be hw poison s)

/-! ### Reads -/

/-- The bytes of a word that a read asks for, in their places (R14). -/
def askedBytes (be : Nat) (w : Word) : Nat :=
  (List.range 4).foldl (fun a k => if bitB be k then a + w.toNat / 256 ^ k % 256 * 256 ^ k else a) 0

/-- A read of an MSI-X table word (R364, R369, R556). -/
def State.msixRead (s : State) (i : Initiator) (f k : Nat) : State × Option Word :=
  if i.isHost && !s.fnServes i.code then ((s.unsupported i.code).emit (.completion i.code 1 false []), none)
  else if !s.granted i 0 (0x2000000 + 4 * k) false then (s.refuse i 0 (0x2000000 + 4 * k) false, none)
  else (s, some (if s.inBoot then 0 else s.msixWord f (k / 4) (k % 4)))

/-- A core's read through its frame-memory window (R544, R545, R556): a marked block faults the core. -/
def State.frameRead (s : State) (i : Initiator) (a : Nat) : State × Option Word :=
  if !s.fmGranted i a 4 false then (s.refuse i 1 a false, none)
  else
    let r := s.fmGet a 4
    if r.2.2 then (r.1.emit (.coreFault (i.code - 4) 5), none) else (r.1, some (BitVec.ofNat 32 (leNat r.2.1)))

/-- The pending bits `32 k` to `32 k + 31` of a function (R361, R368). -/
def State.pbaRead (s : State) (i : Initiator) (f k : Nat) : State × Option Word :=
  if i.isHost && !s.fnServes i.code then ((s.unsupported i.code).emit (.completion i.code 1 false []), none)
  else if !s.granted i 0 (0x2001000 + 4 * k) false then (s.refuse i 0 (0x2001000 + 4 * k) false, none)
  else (s, some (if s.inBoot then 0 else BitVec.ofNat 32 (s.pba.get f / 2 ^ (32 * k))))

/-- A word of the event log in the cores' address map (R561). -/
def State.logWord (s : State) (a : Nat) : Word :=
  BitVec.ofNat 32 (numAt (LogEntry.bytes (s.logRing.get (a / 16))) (a % 16) 4)

/-- The bytes asked for of a word that was read go to its reader. -/
def giveWord (i : Initiator) (be : Nat) (r : State × Option Word) : State :=
  match r.2 with
  | some w => r.1.emit (.readData i (askedBytes be w))
  | none => r.1

/-- A read of the bytes `be` of a double word at an address of an initiator (R3, R13, R14). The read-only alias of the GLB block in PF1 and
PF2 serves as that block does; in boot state PF1's shows GLB_ID alone (R361, R364). A far register is read by REMOTE_READ_ISSUE. -/
def doRegRead (i : Initiator) (a be : Nat) (s : State) : State :=
  if s.inReset || (i == .mc1 && !s.bit Reg.MGT_STATUS 10) then s
  else if s.unserved i a then (s.unsupported i.code).emit (.completion i.code 1 false [])
  else match s.place i a with
    | .reg off => s.swRead i off (fun s => let r := s.regRead i 0 off; (r.1, BitVec.ofNat 32 (askedBytes be r.2)))
    | .readOnly off =>
      if !s.granted i 0 off false then s.refuse i 0 off false
      else if s.inBoot && i == .pf1 && off != Reg.GLB_ID then giveWord i be (s, some 0)
      else let r := s.regRead i 0 off; giveWord i be (r.1, some r.2)
    | .msix f k => giveWord i be (s.msixRead i f k)
    | .pba f k => giveWord i be (s.pbaRead i f k)
    | .remote off => doRemoteRead i off 1 s
    | .tcm n => giveWord i be (s, some (BitVec.ofNat 32 (leNat (memRead s.tcm 0 n 4))))
    | .mailbox n => giveWord i be (s, some (BitVec.ofNat 32 (leNat (memRead s.mbx 0 n 4))))
    | .shared n => giveWord i be (s, some (BitVec.ofNat 32 (leNat (memRead s.shared 0 n 4))))
    | .frame n => giveWord i be (s.frameRead i n)
    | .eventLog n => giveWord i be (s, some (s.logWord n))
    | .store _ => let f := s.freeBytes 4; giveWord i be (f.1, some (BitVec.ofNat 32 (leNat f.2)))
    | .nothing => giveWord i be (s, some 0)
    | .fault => s.emit (.coreFault (i.code - 4) 5)

/-- The read of a status register, by which a target claims its source (R466), is the read of any register (R14): the commands have no row
for a plain read (notes/assumptions/123.md). -/
def execIcClaimRead (i : Initiator) (r : ReadAt) (s : State) : Host.Outcome State Fault Refusal :=
  answer s (issues i && r.addr % 4 == 0 && 0 < r.be && r.be < 16) (doRegRead i r.addr r.be s)

/-! ### Counters (R8 to R10) -/

/-- Whether a register is a counter. -/
def isCounter (off : Nat) : Bool := match findReg off with | some r => r.fields.any (fun f => f.counter) | none => false

/-- A write to a counter; `n` events come in the same cycle and are not lost (R10). The drop count belongs to the channel selected. -/
def State.counterEffect (s : State) (i off : Nat) (data : Word) (n : Nat) : State :=
  let s := s.regEffect i off data 0
  if off = Reg.PGL_CH_DROP_CNT then
    (s.modChan (s.fld Reg.PGL_CH_SEL Fld.PGL_CH_SEL_CH) (fun c => { c with
      dropCnt := BitVec.ofNat 32 (min 0xFFFFFFFF (c.dropCnt.toNat + n)) })).showChan
  else s.countN off n

def execCounterWrite (i : Initiator) (off : Nat) (data : Word) (n : Nat) (s : State) : Host.Outcome State Fault Refusal :=
  answer s (isCounter off) (s.swWrite i off data (fun s => s.counterEffect i.code off data n))

/-! ### The expert page (R18) -/

def execExpertEnWrite (i : Initiator) (data : Word) (s : State) : Host.Outcome State Fault Refusal :=
  answer s true (s.swWrite i Reg.GLB_EXPERT_EN data (fun s => s.expertEn data))

def execExpertValueReturn (sc : ExpertScope) (s : State) : Host.Outcome State Fault Refusal :=
  answer s true (doExpertReturn sc s)

/-! ### The mirror (R500, R503) -/

/-- The lead sends its mirror queue as one CFG message: initiator and offset, then the data. Without a partner that follows there is
nothing to mirror. -/
def State.mirrorSend (s : State) : State :=
  if s.mirrorQ = [] then s
  else
    let words := s.mirrorQ.flatMap (fun m => [m.off + m.init * 2 ^ 28, m.val])
    let s' := { s with mirrorQ := [] }
    if s.leadsPair then s'.toPartner 0 words else s'

/-- The oldest write that waits for room in the mirror queue takes effect (R503). -/
def doMirrorQueued (s : State) : State :=
  let s := s.mirrorSend
  match s.mirrorWait with
  | [] => s
  | m :: rest =>
    let s := { s with mirrorWait := rest }
    s.effect m.init m.off (BitVec.ofNat 32 m.val) (fun s => s.regEffect m.init m.off (BitVec.ofNat 32 m.val) 0)

def execMirrorWriteQueued (s : State) : Host.Outcome State Fault Refusal := answer s true (doMirrorQueued s)

/-- A shadow applies mirrored writes, and keeps a written field through an expert return still to come (R18); the lead's ADMIT command reaches a detached partner the same way (R496, R500). -/
def doTwinCfg (s : State) : State :=
  s.fromPartner 0 (fun words s => (entriesOf 2 words).foldl (fun s e =>
    let off := e.getD 0 0 % 2 ^ 28
    let data : Word := BitVec.ofNat 32 (e.getD 1 0)
    if off = Reg.TWN_CTRL then (if bitB data.toNat 1 then s.admitted else s)
    else if s.follows then
      let s := s.regEffect (e.getD 0 0 / 2 ^ 28) off data 0
      { s with expertPend := s.expertPend.filter (· != off) }
    else s) s)

def execTwinCfgReceive (s : State) : Host.Outcome State Fault Refusal := answer s true (doTwinCfg s)

/-! ### Requests over a link (R416, R417, R420) -/

/-- The initiator of a request that arrived over a group (R415). -/
def linkOf (g : Nat) : Initiator := match g with | 0 => .linkL0 | 1 => .linkL1 | _ => .linkT

/-- A failed write is logged here and reported to its originator (R417, R418). -/
def State.farFails (s : State) (g off reason remote : Nat) : State :=
  (s.perrLog off reason (8 + g) remote g).sendMsg g 6 1 [off, reason + remote * 16, s.invar % 2 ^ 32, s.invar / 2 ^ 32]

/-- One word of a received write (R416, R417). -/
def State.farWrite (s : State) (g off : Nat) (data : Word) (remote : Nat) : State :=
  let i := linkOf g
  if 0x2000000 ≤ off then s.farFails g off 5 remote
  else
    let gate := s.gate i off
    let n := s.reg Reg.GLB_CONFLICT_CNT
    let full := s.bit Reg.GLB_CONFLICT 31
    let t := s.swWrite i off data (fun s => s.regEffect i.code off data 0)
    match gate with
    | .access => t.farFails g off 1 remote
    | .boot => t.farFails g off 2 remote
    | .shadow => t.farFails g off 6 remote
    | .expert => t.farFails g off 8 remote
    | .unreach => t
    | .ok => if t.reg Reg.GLB_CONFLICT_CNT != n || (!full && t.bit Reg.GLB_CONFLICT 31) then t.farFails g off 7 remote else t

/-- The oldest write received on a group is performed, word after word (R363). -/
def doWr (g : Nat) (s : State) : State :=
  match s.takeRx g 1 0 with
  | (s, none) => s
  | (s, some p) =>
    if p.ep then s.farFails g p.spec0 4 p.init
    else ((List.range p.payload.length).foldl (fun s k =>
      s.farWrite g (p.spec0 + 4 * k) (BitVec.ofNat 32 (p.payload.getD k 0)) p.init) s)

def execWrReceive (g : Nat) (s : State) : Host.Outcome State Fault Refusal := answer s (g < 3) (doWr g s)

/-- Words read for a link request: none where the table refuses one (R420, R557). -/
def State.farRead (g remote off : Nat) : Nat → State → State × Option (List Nat)
  | 0, s => (s, some [])
  | n + 1, s =>
    let i := linkOf g
    if !s.granted i 0 off false then (s.refuse i 0 off false, none)
    else
      let r := if 0x2000000 ≤ off ∨ (s.inBoot = true ∧ bootServes i off = false) then (s, (0 : Word)) else s.regRead i remote off
      match State.farRead g remote (off + 4) n r.1 with
      | (s, some l) => (s, some (r.2.toNat :: l))
      | (s, none) => (s, none)

/-- The oldest read received on a group is served, and a CPLD goes back (R420). -/
def doRd (g : Nat) (s : State) : State :=
  match s.takeRx g 2 0 with
  | (s, none) => s
  | (s, some p) =>
    match State.farRead g p.init p.spec0 (min 128 (p.spec1 % 2 ^ 16)) s with
    | (s, some l) => s.sendPkt g ⟨3, 0, true, true, p.ep, 0, p.tag, p.init, 0, 0, l⟩
    | (s, none) => s.sendPkt g ⟨3, 0, true, true, p.ep, 0, p.tag, p.init, 1, 0, []⟩

def execRdReceive (g : Nat) (s : State) : Host.Outcome State Fault Refusal := answer s (g < 3) (doRd g s)

/-! ### TW8 (R455 to R457) -/

/-- One word that TW8 writes at its pointer. -/
def State.tw8Word (s : State) (data : Word) : State :=
  let a := s.tw8Ptr
  let s := { s with tw8Ptr := (a + 4) % 2 ^ 32 }
  let refused := match s.place .tw8 a with
    | .reg off => (match s.gate .tw8 off with | .access => true | .shadow => true | _ => false)
    | .msix _ k => !s.granted .tw8 0 (0x2000000 + 4 * k) true
    | _ => false
  let s := match s.place .tw8 a with
    | .reg off => s.swWrite .tw8 off data (fun s => s.regEffect Initiator.tw8.code off data 0)
    | .msix f k => s.msixWrite .tw8 f k data
    | _ => s
  if refused then s.setFld Reg.TW8_STATUS Fld.TW8_STATUS_REFUSED 1 else s

/-- The bytes of a write up to its STOP take effect together (R456, R457). -/
def doTw8Write (bytes : List Nat) (s : State) : State :=
  if !s.tw8On || s.inReset then s
  else match bytes with
    | 0 :: b =>
      if b.length < 4 then s
      else { s with tw8Ptr := leNat (b.take 4) / 4 * 4 }.setFld Reg.TW8_STATUS Fld.TW8_STATUS_WRITE 1
    | 1 :: b =>
      match wordsOf (b.take 64) with
      | [] => s
      | words => (words.foldl (fun s w => s.tw8Word (BitVec.ofNat 32 w)) s).setFld Reg.TW8_STATUS Fld.TW8_STATUS_WRITE 1
    | _ => s

def execTw8WriteCommit (bytes : List Byte) (s : State) : Host.Outcome State Fault Refusal :=
  answer s true (doTw8Write (bytes.map (·.toNat)) s)

/-- TW8 returns the word at its pointer (R456, R457). -/
def doTw8Read (s : State) : State :=
  if !s.tw8On || s.inReset then s
  else
    let a := s.tw8Ptr
    let s := { s with tw8Ptr := (a + 4) % 2 ^ 32 }
    let r : State × Word := match s.place .tw8 a with
      | .reg off =>
        if !s.granted .tw8 0 off false then
          ((s.refuse .tw8 0 off false).setFld Reg.TW8_STATUS Fld.TW8_STATUS_REFUSED 1, 0xFFFFFFFF)
        else if s.inBoot && !bootServes .tw8 off then (s, 0)
        else s.regRead .tw8 0 off
      | .pba f k =>
        (match s.pbaRead .tw8 f k with
        | (s, some w) => (s, w)
        | (s, none) => (s.setFld Reg.TW8_STATUS Fld.TW8_STATUS_REFUSED 1, 0xFFFFFFFF))
      | .msix f k =>
        if !s.granted .tw8 0 (0x2000000 + 4 * k) false then
          ((s.refuse .tw8 0 (0x2000000 + 4 * k) false).setFld Reg.TW8_STATUS Fld.TW8_STATUS_REFUSED 1, 0xFFFFFFFF)
        else (s, if s.inBoot then 0 else s.msixWord f (k / 4) (k % 4))
      | _ => (s, 0)
    (r.1.emit (.bus 8 "READ" (leBytes 4 r.2.toNat))).setFld Reg.TW8_STATUS Fld.TW8_STATUS_READ 1

def execTw8ReadWord (s : State) : Host.Outcome State Fault Refusal := answer s true (doTw8Read s)

/-! ### The passage of time -/

/-- An encoder position that waits for its 256 ns is sent once they have passed (R304). -/
def State.encLate (s : State) : State := [0, 1].foldl (fun s k => if (s.enc.get k).due then s.sendEnc k else s) s

/-- One nanosecond passes (notes/assumptions/1.md): every second one ends with a sample of the filtered inputs (R292; notes/assumptions/137.md);
the model's clock counts it; Invar counts it at its steered rate, unless the always-on supply is down (R284, R289); a lead sends what its
mirror queue holds (R503), and an encoder position that is due (R304). -/
def State.tick (s : State) : State :=
  let s := if s.now % 2 = 0 ∧ s.boot.off = false then s.sampleInputs else s
  let s := { s with now := s.now + 1 }
  if s.boot.off then s else s.stepRate.mirrorSend.encLate

end Sys2Proof.Machine
end

