-- ==== Sys2Proof/Machine/Dispatch.lean ====
section
/-! DEFINITION. One arm for each command: a direct call of its meaning. -/

namespace Sys2Proof.Machine

def exec (i : Instr) (s : State) : Host.Outcome State Fault Refusal :=
  match i with
  | .regWrite by_ a data be hw poison => Sys2Proof.Machine.execRegWrite by_ a data be hw poison s
  | .counterWrite by_ off data n => Sys2Proof.Machine.execCounterWrite by_ off data n s
  | .expertEnWrite by_ data => Sys2Proof.Machine.execExpertEnWrite by_ data s
  | .expertValueReturn sc => Sys2Proof.Machine.execExpertValueReturn sc s
  | .mirrorWriteQueued => Sys2Proof.Machine.execMirrorWriteQueued s
  | .powerOnReset role twinId bank33 trig33 => Sys2Proof.Machine.execPowerOnReset role twinId bank33 trig33 s
  | .warmReset role twinId => Sys2Proof.Machine.execWarmReset role twinId s
  | .imageVerify errA errB => Sys2Proof.Machine.execImageVerify errA errB s
  | .mc0FirmwareCheck errA errB => Sys2Proof.Machine.execMc0FirmwareCheck errA errB s
  | .mc1FirmwareCheck errA errB => Sys2Proof.Machine.execMc1FirmwareCheck errA errB s
  | .rstNAssert low => Sys2Proof.Machine.execRstNAssert low s
  | .pcrResetWarm by_ data => Sys2Proof.Machine.execPcrResetWarm by_ data s
  | .installationReset by_ data => Sys2Proof.Machine.execInstallationReset by_ data s
  | .sensorGo => Sys2Proof.Machine.execSensorGo s
  | .recipeLoadDone p => Sys2Proof.Machine.execRecipeLoadDone p s
  | .csiLongPacket n h payload crc => Sys2Proof.Machine.execCsiLongPacket n h payload crc s
  | .csiHeaderUncorr n => Sys2Proof.Machine.execCsiHeaderUncorr n s
  | .csiFrameStart n h => Sys2Proof.Machine.execCsiFrameStart n h s
  | .csiFrameEnd n h => Sys2Proof.Machine.execCsiFrameEnd n h s
  | .csiLineStart n h => Sys2Proof.Machine.execCsiLineStart n h s
  | .csiGenericShort n h => Sys2Proof.Machine.execCsiGenericShort n h s
  | .csiNullBlanking n h => Sys2Proof.Machine.execCsiNullBlanking n h s
  | .unknownDtDiscard n h => Sys2Proof.Machine.execUnknownDtDiscard n h s
  | .phySyncError n => Sys2Proof.Machine.execPhySyncError n s
  | .deskewSequence n locked => Sys2Proof.Machine.execDeskewSequence n locked s
  | .ulpsTransition n lane enter => Sys2Proof.Machine.execUlpsTransition n lane enter s
  | .lineTimeout n k => Sys2Proof.Machine.execLineTimeout n k s
  | .frameTimeout n vc => Sys2Proof.Machine.execFrameTimeout n vc s
  | .portEnable by_ n => Sys2Proof.Machine.execPortEnable by_ n s
  | .portDisable by_ n => Sys2Proof.Machine.execPortDisable by_ n s
  | .portStop n => Sys2Proof.Machine.execPortStop n s
  | .segLeadingEdge g wr => Sys2Proof.Machine.execSegLeadingEdge g wr s
  | .segTrailingEdge g => Sys2Proof.Machine.execSegTrailingEdge g s
  | .pglGrant k n => Sys2Proof.Machine.execPglGrant k n s
  | .admissionDecisionTimeout ch => Sys2Proof.Machine.execAdmissionDecisionTimeout ch s
  | .luLine lu gh tblCorr tblBad lutBad => Sys2Proof.Machine.execLuLine lu gh tblCorr tblBad lutBad s
  | .tblDataWrite by_ lu data => Sys2Proof.Machine.execTblDataWrite by_ lu data s
  | .tblDataRead by_ lu => Sys2Proof.Machine.execTblDataRead by_ lu s
  | .muMemberLine mu gh => Sys2Proof.Machine.execMuMemberLine mu gh s
  | .muOutputLine mu g corr bad => Sys2Proof.Machine.execMuOutputLine mu g corr bad s
  | .muMemberTimeout mu c j => Sys2Proof.Machine.execMuMemberTimeout mu c j s
  | .muShadowWait mu c j => Sys2Proof.Machine.execMuShadowWait mu c j s
  | .muMarker mu g => Sys2Proof.Machine.execMuMarker mu g s
  | .guInputLine p gh errs => Sys2Proof.Machine.execGuInputLine p gh errs s
  | .guRelease p q oa ob buf => Sys2Proof.Machine.execGuRelease p q oa ob buf s
  | .guDeskewLine p q errs corr again => Sys2Proof.Machine.execGuDeskewLine p q errs corr again s
  | .guMarker p q => Sys2Proof.Machine.execGuMarker p q s
  | .guDiscardDecisionTimeout p c => Sys2Proof.Machine.execGuDiscardDecisionTimeout p c s
  | .buRecordComplete b c corr bad => Sys2Proof.Machine.execBuRecordComplete b c corr bad s
  | .ofLine o gh errs corr bad seals => Sys2Proof.Machine.execOfLine o gh errs corr bad seals s
  | .statsPlace n => Sys2Proof.Machine.execStatsPlace n s
  | .docHeaderRecord n => Sys2Proof.Machine.execDocHeaderRecord n s
  | .relayItem g fault => Sys2Proof.Machine.execRelayItem g fault s
  | .twinCfgReceive => Sys2Proof.Machine.execTwinCfgReceive s
  | .twinDecReceive => Sys2Proof.Machine.execTwinDecReceive s
  | .twinSealReceive => Sys2Proof.Machine.execTwinSealReceive s
  | .cmpWaitExpiry n => Sys2Proof.Machine.execCmpWaitExpiry n s
  | .twinRecReceive => Sys2Proof.Machine.execTwinRecReceive s
  | .twinDmaReceive => Sys2Proof.Machine.execTwinDmaReceive s
  | .twinTwReceive => Sys2Proof.Machine.execTwinTwReceive s
  | .twinStateReceive => Sys2Proof.Machine.execTwinStateReceive s
  | .twinTakeReceive => Sys2Proof.Machine.execTwinTakeReceive s
  | .twinSnapReceive => Sys2Proof.Machine.execTwinSnapReceive s
  | .decLate kind a b => Sys2Proof.Machine.execDecLate kind a b s
  | .heartbeatLoss => Sys2Proof.Machine.execHeartbeatLoss s
  | .partnerLoss silent => Sys2Proof.Machine.execPartnerLoss silent s
  | .aloneTimeout hb => Sys2Proof.Machine.execAloneTimeout hb s
  | .twinHandover by_ data => Sys2Proof.Machine.execTwinHandover by_ data s
  | .twinAdmit by_ data => Sys2Proof.Machine.execTwinAdmit by_ data s
  | .twinDetach by_ data => Sys2Proof.Machine.execTwinDetach by_ data s
  | .takeover => Sys2Proof.Machine.execTakeover s
  | .syncConditionMet covered => Sys2Proof.Machine.execSyncConditionMet covered s
  | .admitTimeout => Sys2Proof.Machine.execAdmitTimeout s
  | .headLeadReceive g => Sys2Proof.Machine.execHeadLeadReceive g s
  | .timeLoRead by_ init => Sys2Proof.Machine.execTimeLoRead by_ init s
  | .timeExchangeTick g sub => Sys2Proof.Machine.execTimeExchangeTick g sub s
  | .txqReceive g seqNo flags t1 sub => Sys2Proof.Machine.execTxqReceive g seqNo flags t1 sub s
  | .txrReceive g seqNo flags t3 t2 sub => Sys2Proof.Machine.execTxrReceive g seqNo flags t3 t2 sub s
  | .holdoverEnter => Sys2Proof.Machine.execHoldoverEnter s
  | .trigInChange by_ level => Sys2Proof.Machine.execTrigInChange by_ level s
  | .strobeEncEvent by_ => Sys2Proof.Machine.execStrobeEncEvent by_ s
  | .strobeTimeEvent by_ => Sys2Proof.Machine.execStrobeTimeEvent by_ s
  | .stbSw by_ data => Sys2Proof.Machine.execStbSw by_ data s
  | .strobePulseStart by_ => Sys2Proof.Machine.execStrobePulseStart by_ s
  | .strobePulseEnd by_ => Sys2Proof.Machine.execStrobePulseEnd by_ s
  | .stbStart by_ data stop => Sys2Proof.Machine.execStbStart by_ data stop s
  | .stbStop by_ data => Sys2Proof.Machine.execStbStop by_ data s
  | .encTransition k a b => Sys2Proof.Machine.execEncTransition k a b s
  | .encStopped k => Sys2Proof.Machine.execEncStopped k s
  | .encRemoteReceive g => Sys2Proof.Machine.execEncRemoteReceive g s
  | .schedArm by_ k data => Sys2Proof.Machine.execSchedArm by_ k data s
  | .schedDisarm by_ k data => Sys2Proof.Machine.execSchedDisarm by_ k data s
  | .schedFire k => Sys2Proof.Machine.execSchedFire k s
  | .bcastReceive g => Sys2Proof.Machine.execBcastReceive g s
  | .fmStart failed => Sys2Proof.Machine.execFmStart failed s
  | .fmReadComplete a syms bursts => Sys2Proof.Machine.execFmReadComplete a syms bursts s
  | .fmFenceComplete c => Sys2Proof.Machine.execFmFenceComplete c s
  | .fmRetrain c ok => Sys2Proof.Machine.execFmRetrain c ok s
  | .fmScrubRead syms => Sys2Proof.Machine.execFmScrubRead syms s
  | .fmInject by_ data => Sys2Proof.Machine.execFmInject by_ data s
  | .fmInjectDisarm by_ data => Sys2Proof.Machine.execFmInjectDisarm by_ data s
  | .bar2Read a n => Sys2Proof.Machine.execBar2Read a n s
  | .bar2Write a bytes poisoned => Sys2Proof.Machine.execBar2Write a bytes poisoned s
  | .dmaStart by_ c data => Sys2Proof.Machine.execDmaStart by_ c data s
  | .dmaHalt by_ c data => Sys2Proof.Machine.execDmaHalt by_ c data s
  | .dmaResume by_ c data => Sys2Proof.Machine.execDmaResume by_ c data s
  | .dmaStop by_ c data => Sys2Proof.Machine.execDmaStop by_ c data s
  | .dmaProgramLoaded c => Sys2Proof.Machine.execDmaProgramLoaded c s
  | .dmaMoveBytes c buf => Sys2Proof.Machine.execDmaMoveBytes c buf s
  | .dmaMoveItem c buf => Sys2Proof.Machine.execDmaMoveItem c buf s
  | .dmaMoveDoc c buf => Sys2Proof.Machine.execDmaMoveDoc c buf s
  | .dmaLoop c => Sys2Proof.Machine.execDmaLoop c s
  | .dmaWait c => Sys2Proof.Machine.execDmaWait c s
  | .dmaWaitMet c => Sys2Proof.Machine.execDmaWaitMet c s
  | .dmaWaitTimeout c => Sys2Proof.Machine.execDmaWaitTimeout c s
  | .dmaSignal c => Sys2Proof.Machine.execDmaSignal c s
  | .dmaEnd c => Sys2Proof.Machine.execDmaEnd c s
  | .dmaSemAdd by_ c data => Sys2Proof.Machine.execDmaSemAdd by_ c data s
  | .pcieDllAck c => Sys2Proof.Machine.execPcieDllAck c s
  | .configRequest f off write => Sys2Proof.Machine.execConfigRequest f off write s
  | .busMasterDisable f => Sys2Proof.Machine.execBusMasterDisable f s
  | .functionLevelReset f => Sys2Proof.Machine.execFunctionLevelReset f s
  | .flrComplete f => Sys2Proof.Machine.execFlrComplete f s
  | .d3hotEntry f => Sys2Proof.Machine.execD3hotEntry f s
  | .hotReset => Sys2Proof.Machine.execHotReset s
  | .dlDown => Sys2Proof.Machine.execDlDown s
  | .perstN => Sys2Proof.Machine.execPerstN s
  | .pcieCompletion f t status ep data => Sys2Proof.Machine.execPcieCompletion f t status ep data s
  | .completionTimeout t => Sys2Proof.Machine.execCompletionTimeout t s
  | .msixSend f v => Sys2Proof.Machine.execMsixSend f v s
  | .expansionRomRead a n => Sys2Proof.Machine.execExpansionRomRead a n s
  | .resizableBarWrite size => Sys2Proof.Machine.execResizableBarWrite size s
  | .pcieLinkTrained speed width => Sys2Proof.Machine.execPcieLinkTrained speed width s
  | .endpointReady => Sys2Proof.Machine.execEndpointReady s
  | .lnkPllLock g => Sys2Proof.Machine.execLnkPllLock g s
  | .ts1Receive g who rate flags lanes => Sys2Proof.Machine.execTs1Receive g who rate flags lanes s
  | .ts2Receive g who rate flags lanes => Sys2Proof.Machine.execTs2Receive g who rate flags lanes s
  | .identReceive n data => Sys2Proof.Machine.execIdentReceive n data s
  | .lnkTrainTimeout g => Sys2Proof.Machine.execLnkTrainTimeout g s
  | .lnkSpeedLock g => Sys2Proof.Machine.execLnkSpeedLock g s
  | .eqMeasureDone g l margin => Sys2Proof.Machine.execEqMeasureDone g l margin s
  | .lnkFailedIdleEnd g => Sys2Proof.Machine.execLnkFailedIdleEnd g s
  | .symbolLockLoss g l errs => Sys2Proof.Machine.execSymbolLockLoss g l errs s
  | .errorWindowExpiry g errs => Sys2Proof.Machine.execErrorWindowExpiry g errs s
  | .lnkRetrain by_ g data => Sys2Proof.Machine.execLnkRetrain by_ g data s
  | .lnkHold by_ g data => Sys2Proof.Machine.execLnkHold by_ g data s
  | .lnkFull by_ g data => Sys2Proof.Machine.execLnkFull by_ g data s
  | .lpeReceive g req => Sys2Proof.Machine.execLpeReceive g req s
  | .wakeSetReceive g => Sys2Proof.Machine.execWakeSetReceive g s
  | .linkRefLoss okL ok0 ok1 => Sys2Proof.Machine.execLinkRefLoss okL ok0 ok1 s
  | .linkPacketReceive g p good edb buf => Sys2Proof.Machine.execLinkPacketReceive g p good edb buf s
  | .linkAck g seqNo => Sys2Proof.Machine.execLinkAck g seqNo s
  | .linkNak g seqNo => Sys2Proof.Machine.execLinkNak g seqNo s
  | .replayTimeout g => Sys2Proof.Machine.execReplayTimeout g s
  | .creditReceive g cls hdr data => Sys2Proof.Machine.execCreditReceive g cls hdr data s
  | .remoteWriteIssue by_ off data => Sys2Proof.Machine.execRemoteWriteIssue by_ off data s
  | .remoteReadIssue by_ off n => Sys2Proof.Machine.execRemoteReadIssue by_ off n s
  | .wrReceive g => Sys2Proof.Machine.execWrReceive g s
  | .rdReceive g => Sys2Proof.Machine.execRdReceive g s
  | .cpldReceive g => Sys2Proof.Machine.execCpldReceive g s
  | .remoteReadTimeout t => Sys2Proof.Machine.execRemoteReadTimeout t s
  | .tagQuarantineEnd t => Sys2Proof.Machine.execTagQuarantineEnd t s
  | .perrReceive g => Sys2Proof.Machine.execPerrReceive g s
  | .perrPop by_ data => Sys2Proof.Machine.execPerrPop by_ data s
  | .tunCsiReceive g => Sys2Proof.Machine.execTunCsiReceive g s
  | .twReqReceive g => Sys2Proof.Machine.execTwReqReceive g s
  | .twRspReceive g => Sys2Proof.Machine.execTwRspReceive g s
  | .tunTimeout t => Sys2Proof.Machine.execTunTimeout t s
  | .wiresReceive g => Sys2Proof.Machine.execWiresReceive g s
  | .wiresRefresh g => Sys2Proof.Machine.execWiresRefresh g s
  | .edgeReceive g => Sys2Proof.Machine.execEdgeReceive g s
  | .twWdata by_ k data => Sys2Proof.Machine.execTwWdata by_ k data s
  | .twQcmd by_ k data => Sys2Proof.Machine.execTwQcmd by_ k data s
  | .twPop by_ k data clr => Sys2Proof.Machine.execTwPop by_ k data clr s
  | .twClear by_ k data clr => Sys2Proof.Machine.execTwClear by_ k data clr s
  | .twFlush by_ k data clr => Sys2Proof.Machine.execTwFlush by_ k data clr s
  | .twAlertPop by_ k data clr => Sys2Proof.Machine.execTwAlertPop by_ k data clr s
  | .twEntryStart k stopFor highFor jam => Sys2Proof.Machine.execTwEntryStart k stopFor highFor jam s
  | .twEntryEnd k nackAt read => Sys2Proof.Machine.execTwEntryEnd k nackAt read s
  | .twArbLost k bitpos wcnt read => Sys2Proof.Machine.execTwArbLost k bitpos wcnt read s
  | .twArbLostSp k wcnt read => Sys2Proof.Machine.execTwArbLostSp k wcnt read s
  | .twBusError k wcnt read => Sys2Proof.Machine.execTwBusError k wcnt read s
  | .twStretchTimeout k wcnt read high clr => Sys2Proof.Machine.execTwStretchTimeout k wcnt read high clr s
  | .twAlertLow k => Sys2Proof.Machine.execTwAlertLow k s
  | .twAraRead k ans lost => Sys2Proof.Machine.execTwAraRead k ans lost s
  | .twMirrorStart k busFree => Sys2Proof.Machine.execTwMirrorStart k busFree s
  | .tw8WriteCommit bytes => Sys2Proof.Machine.execTw8WriteCommit bytes s
  | .tw8ReadWord => Sys2Proof.Machine.execTw8ReadWord s
  | .tw8Violation => Sys2Proof.Machine.execTw8Violation s
  | .tw8Alert by_ data => Sys2Proof.Machine.execTw8Alert by_ data s
  | .tw8AlertCancel by_ data => Sys2Proof.Machine.execTw8AlertCancel by_ data s
  | .tw8AraAnswer lost => Sys2Proof.Machine.execTw8AraAnswer lost s
  | .icLevelSample src => Sys2Proof.Machine.execIcLevelSample src s
  | .icEdgeEvent src => Sys2Proof.Machine.execIcEdgeEvent src s
  | .icPinFilter pin level cycles => Sys2Proof.Machine.execIcPinFilter pin level cycles s
  | .icPendWrite by_ k data => Sys2Proof.Machine.execIcPendWrite by_ k data s
  | .icMaskWrite by_ k data => Sys2Proof.Machine.execIcMaskWrite by_ k data s
  | .icDeliver src gie0 gie1 ecc => Sys2Proof.Machine.execIcDeliver src gie0 gie1 ecc s
  | .icCoreEoi by_ t data => Sys2Proof.Machine.execIcCoreEoi by_ t data s
  | .icHostEoi by_ data => Sys2Proof.Machine.execIcHostEoi by_ data s
  | .icRemoteComplete src => Sys2Proof.Machine.execIcRemoteComplete src s
  | .icHoldoffExpiry g t => Sys2Proof.Machine.execIcHoldoffExpiry g t s
  | .icHoldWrite by_ data => Sys2Proof.Machine.execIcHoldWrite by_ data s
  | .icHoldTimeout g => Sys2Proof.Machine.execIcHoldTimeout g s
  | .lodgeErrorSignal source index => Sys2Proof.Machine.execLodgeErrorSignal source index s
  | .lodgeCorrectedSignal source index => Sys2Proof.Machine.execLodgeCorrectedSignal source index s
  | .spareLoadDone ch k n => Sys2Proof.Machine.execSpareLoadDone ch k n s
  | .fcAck by_ data => Sys2Proof.Machine.execFcAck by_ data s
  | .escalationTimeout => Sys2Proof.Machine.execEscalationTimeout s
  | .quietTimerExpiry => Sys2Proof.Machine.execQuietTimerExpiry s
  | .fcRevive by_ data => Sys2Proof.Machine.execFcRevive by_ data s
  | .fcInject by_ data => Sys2Proof.Machine.execFcInject by_ data s
  | .powerStateEntry => Sys2Proof.Machine.execPowerStateEntry s
  | .powerWake cause pin => Sys2Proof.Machine.execPowerWake cause pin s
  | .islandWake isl => Sys2Proof.Machine.execIslandWake isl s
  | .islandIdleReturn isl => Sys2Proof.Machine.execIslandIdleReturn isl s
  | .pllLockLoss => Sys2Proof.Machine.execPllLockLoss s
  | .thermalAlarm temp => Sys2Proof.Machine.execThermalAlarm temp s
  | .supplyOutOfWindow => Sys2Proof.Machine.execSupplyOutOfWindow s
  | .mbxNonce by_ => Sys2Proof.Machine.execMbxNonce by_ s
  | .mbxSessionOpen by_ => Sys2Proof.Machine.execMbxSessionOpen by_ s
  | .mbxSessionClose by_ => Sys2Proof.Machine.execMbxSessionClose by_ s
  | .mbxFlashErase by_ err => Sys2Proof.Machine.execMbxFlashErase by_ err s
  | .mbxFlashWrite by_ err => Sys2Proof.Machine.execMbxFlashWrite by_ err s
  | .mbxFlashVerify by_ err => Sys2Proof.Machine.execMbxFlashVerify by_ err s
  | .mbxSetPreferred by_ err => Sys2Proof.Machine.execMbxSetPreferred by_ err s
  | .mbxAttest by_ => Sys2Proof.Machine.execMbxAttest by_ s
  | .mbxAccSet by_ => Sys2Proof.Machine.execMbxAccSet by_ s
  | .mbxKeyProgram by_ => Sys2Proof.Machine.execMbxKeyProgram by_ s
  | .mbxKeyRevoke by_ => Sys2Proof.Machine.execMbxKeyRevoke by_ s
  | .mbxCommandDone => Sys2Proof.Machine.execMbxCommandDone s
  | .wdtKick by_ data => Sys2Proof.Machine.execWdtKick by_ data s
  | .wdtExpiry t => Sys2Proof.Machine.execWdtExpiry t s
  | .logCodeWrite by_ data => Sys2Proof.Machine.execLogCodeWrite by_ data s
  | .imgWindowDataRead by_ => Sys2Proof.Machine.execImgWindowDataRead by_ s
  | .identityKeyReady => Sys2Proof.Machine.execIdentityKeyReady s
  | .vddAonFall => Sys2Proof.Machine.execVddAonFall s
  | .perstNRelease => Sys2Proof.Machine.execPerstNRelease s
  | .powerExitComplete => Sys2Proof.Machine.execPowerExitComplete s
  | .oldLeadRelease => Sys2Proof.Machine.execOldLeadRelease s
  | .hsBurstStart n lane => Sys2Proof.Machine.execHsBurstStart n lane s
  | .twinStateReportTick hb => Sys2Proof.Machine.execTwinStateReportTick hb s
  | .headLeadRefresh => Sys2Proof.Machine.execHeadLeadRefresh s
  | .twAlertRelease k ns => Sys2Proof.Machine.execTwAlertRelease k ns s
  | .twSclStuckLimit k => Sys2Proof.Machine.execTwSclStuckLimit k s
  | .twRdataRead by_ k => Sys2Proof.Machine.execTwRdataRead by_ k s
  | .icClaimRead by_ r => Sys2Proof.Machine.execIcClaimRead by_ r s
  | .pcieTagQuarantineEnd t => Sys2Proof.Machine.execPcieTagQuarantineEnd t s

end Sys2Proof.Machine
end

