-- ==== Sys2Proof/WellFormed.lean ====
section
/-! DEFINITION. Which commands exist on the device: the instance that an operand names is one that the device has, and a value fits its
place in the register, the packet or the set that carries it. A command outside this reaches nothing and changes nothing. -/

namespace Sys2Proof

open Sys2Proof.Machine

/-- A command that can reach the device. -/
def wellFormed : Instr → Bool
  | .regWrite i a _ be _ _ => issues i && a % 4 == 0 && be < 16
  | .counterWrite _ off _ _ => isCounter off
  | .expertEnWrite _ _ => true
  | .expertValueReturn _ => true
  | .mirrorWriteQueued => true
  | .powerOnReset role twinId _ _ => role < 4 && twinId < 2
  | .warmReset role twinId => role < 4 && twinId < 2
  | .imageVerify errA errB => errA < 8 && errB < 8
  | .mc0FirmwareCheck _ _ => true
  | .mc1FirmwareCheck _ _ => true
  | .rstNAssert _ => true
  | .pcrResetWarm _ _ => true
  | .installationReset _ _ => true
  | .sensorGo => true
  | .recipeLoadDone p => p < 4
  | .csiLongPacket n _ _ _ => n < 16
  | .csiHeaderUncorr n => n < 16
  | .csiFrameStart n _ => n < 16
  | .csiFrameEnd n _ => n < 16
  | .csiLineStart n _ => n < 16
  | .csiGenericShort n _ => n < 16
  | .csiNullBlanking n _ => n < 16
  | .unknownDtDiscard n _ => n < 16
  | .phySyncError n => n < 16
  | .deskewSequence n locked => n < 16 && locked < 16
  | .ulpsTransition n lane _ => n < 16 && lane < 5
  | .lineTimeout n k => n < 16 && k < 8
  | .frameTimeout n vc => n < 16 && vc < 16
  | .portEnable _ n => n < 16
  | .portDisable _ n => n < 16
  | .portStop n => n < 16
  | .segLeadingEdge g _ => g < 4
  | .segTrailingEdge g => g < 4
  | .pglGrant k n => k != .bu && decide (n < unitCount k.code)
  | .admissionDecisionTimeout ch => ch < 64
  | .luLine lu _ _ _ _ => lu < 16
  | .tblDataWrite _ lu _ => lu < 16
  | .tblDataRead _ lu => lu < 16
  | .muMemberLine mu _ => mu < 8
  | .muOutputLine mu g _ _ => mu < 8 && g < 4
  | .muMemberTimeout mu c _ => mu < 8 && c < 8
  | .muShadowWait mu c _ => mu < 8 && c < 8
  | .muMarker mu g => mu < 8 && g < 4
  | .guInputLine p _ _ => p < 4
  | .guRelease p q oa ob _ => p < 4 && q < 8 && oa < 3 && ob < 3
  | .guDeskewLine p q _ _ _ => p < 4 && q < 8
  | .guMarker p q => p < 4 && q < 8
  | .guDiscardDecisionTimeout p c => p < 4 && c < 8
  | .buRecordComplete b c _ _ => b < 8 && c < 8
  | .ofLine o _ _ _ _ _ => o < 8
  | .statsPlace n => n < 32
  | .docHeaderRecord n => n < 32
  | .relayItem g _ => g < 2
  | .twinCfgReceive => true
  | .twinDecReceive => true
  | .twinSealReceive => true
  | .cmpWaitExpiry n => n < 32
  | .twinRecReceive => true
  | .twinDmaReceive => true
  | .twinTwReceive => true
  | .twinStateReceive => true
  | .twinTakeReceive => true
  | .twinSnapReceive => true
  | .decLate kind a b => kind < 8 && a < 64 && b < 24 && (kind != 1 || a < 16) && (kind != 5 || a < 4)
  | .heartbeatLoss => true
  | .partnerLoss _ => true
  | .aloneTimeout _ => true
  | .twinHandover _ _ => true
  | .twinAdmit _ _ => true
  | .twinDetach _ _ => true
  | .takeover => true
  | .syncConditionMet _ => true
  | .admitTimeout => true
  | .headLeadReceive g => g < 3
  | .timeLoRead _ init => init < 16
  | .timeExchangeTick g sub => g < 3 && sub < 16
  | .txqReceive g seqNo flags t1 sub => g < 3 && seqNo < 256 && flags < 256 && t1 < 2 ^ 48 && sub < 16
  | .txrReceive g seqNo flags t3 t2 sub => g < 3 && seqNo < 256 && flags < 256 && t3 < 2 ^ 48 && t2 < 2 ^ 48 && sub < 16
  | .holdoverEnter => true
  | .trigInChange i _ => i < 16
  | .strobeEncEvent i => i < 32
  | .strobeTimeEvent i => i < 32
  | .stbSw _ _ => true
  | .strobePulseStart i => i < 32
  | .strobePulseEnd i => i < 32
  | .stbStart _ _ _ => true
  | .stbStop _ _ => true
  | .encTransition k _ _ => k < 2
  | .encStopped k => k < 2
  | .encRemoteReceive g => g < 3
  | .schedArm _ k _ => k < 8
  | .schedDisarm _ k _ => k < 8
  | .schedFire k => k < 8
  | .bcastReceive g => g < 3
  | .fmStart failed => failed < 256
  | .fmReadComplete a _ _ => a < 2 ^ 34
  | .fmFenceComplete c => c < 8
  | .fmRetrain c _ => c < 8
  | .fmScrubRead syms => syms < 3
  | .fmInject _ _ => true
  | .fmInjectDisarm _ _ => true
  | .bar2Read _ n => 0 < n && n ≤ 4096
  | .bar2Write _ bytes _ => bytes != [] && bytes.length ≤ 4096
  | .dmaStart _ c _ => c < 32
  | .dmaHalt _ c _ => c < 32
  | .dmaResume _ c _ => c < 32
  | .dmaStop _ c _ => c < 32
  | .dmaProgramLoaded c => c < 32
  | .dmaMoveBytes c _ => c < 32
  | .dmaMoveItem c _ => c < 32
  | .dmaMoveDoc c _ => c < 32
  | .dmaLoop c => c < 32
  | .dmaWait c => c < 32
  | .dmaWaitMet c => c < 32
  | .dmaWaitTimeout c => c < 32
  | .dmaSignal c => c < 32
  | .dmaEnd c => c < 32
  | .dmaSemAdd _ c _ => c < 32
  | .pcieDllAck c => c < 32
  | .configRequest f off _ => f < 4 && off < 4096 && off % 4 == 0
  | .busMasterDisable f => f < 4
  | .functionLevelReset f => f < 4
  | .flrComplete f => f < 4
  | .d3hotEntry f => f < 4
  | .hotReset => true
  | .dlDown => true
  | .perstN => true
  | .pcieCompletion f t _ _ data => f < 4 && t < 1024 && data.bytes.length ≤ 4096
  | .completionTimeout t => t < 1024
  | .msixSend f v => f < 4 && v < 256
  | .expansionRomRead a n => 1 ≤ n && n ≤ 4096 && a + n ≤ 0x100000
  | .resizableBarWrite size => size < 64
  | .pcieLinkTrained speed width => 1 ≤ speed && speed ≤ 5 && [1, 2, 4, 8, 16].contains width
  | .endpointReady => true
  | .lnkPllLock g => g < 3
  | .ts1Receive g who rate flags lanes => lanesOk g lanes && who < 256 && rate < 256 && flags < 256
  | .ts2Receive g who rate flags lanes => lanesOk g lanes && who < 256 && rate < 256 && flags < 256
  | .identReceive n _ => n < 8
  | .lnkTrainTimeout g => g < 3
  | .lnkSpeedLock g => g < 3
  | .eqMeasureDone g l margin => g < 3 && l < laneCount g && margin < 64
  | .lnkFailedIdleEnd g => g < 3
  | .symbolLockLoss g l _ => g < 3 && l < laneCount g
  | .errorWindowExpiry g errs => g < 3 && errs.length == laneCount g
  | .lnkRetrain _ g _ => g < 3
  | .lnkHold _ g _ => g < 3
  | .lnkFull _ g _ => g < 3
  | .lpeReceive g req => g < 3 && 1 ≤ req && req ≤ 2
  | .wakeSetReceive g => g < 3
  | .linkRefLoss _ _ _ => true
  | .linkPacketReceive g p _ _ _ => g < 3 && p.cls < 16 && p.typ < 16 && p.seq < 4096 && p.tag < 256 && p.init < 16
  | .linkAck g seqNo => g < 3 && seqNo < 4096
  | .linkNak g seqNo => g < 3 && seqNo < 4096
  | .replayTimeout g => g < 3
  | .creditReceive g cls hdr data => g < 3 && cls < 8 && hdr < 2 ^ 16 && data < 2 ^ 16
  | .remoteWriteIssue i off data =>
      (i == .pf3 || i == .mc0 || i == .mc1) && off < 0x2000000 && off % 4 == 0 && data != [] && data.length ≤ (if i == .pf3 then 128 else 1)
  | .remoteReadIssue i off n =>
      (i == .pf3 || i == .mc0 || i == .mc1) && off % 4 == 0 && 0 < n && n ≤ (if i == .pf3 then 1024 else 1) && off + 4 * n ≤ 0x2000000
  | .wrReceive g => g < 3
  | .rdReceive g => g < 3
  | .cpldReceive g => g < 3
  | .remoteReadTimeout t => t.all (fun t => decide (t < 256))
  | .tagQuarantineEnd t => t < 256
  | .perrReceive g => g < 3
  | .perrPop _ _ => true
  | .tunCsiReceive g => g < 2
  | .twReqReceive g => g < 3
  | .twRspReceive g => g < 3
  | .tunTimeout t => t < 16
  | .wiresReceive g => g < 3
  | .wiresRefresh g => g < 3
  | .edgeReceive g => g < 2
  | .twWdata _ k _ => k < 8
  | .twQcmd _ k _ => k < 8
  | .twPop _ k _ clr => k < 8 && clrOk clr
  | .twClear _ k _ clr => k < 8 && clrOk clr
  | .twFlush _ k _ clr => k < 8 && clrOk clr
  | .twAlertPop _ k _ clr => k < 8 && clrOk clr
  | .twEntryStart k _ _ jam => k < 8 && jam.all clrOk
  | .twEntryEnd k _ _ => k < 8
  | .twArbLost k bitpos _ _ => k < 8 && bitpos < 32
  | .twArbLostSp k _ _ => k < 8
  | .twBusError k _ _ => k < 8
  | .twStretchTimeout k _ _ _ clr => k < 8 && clrOk clr
  | .twAlertLow k => k < 8
  | .twAraRead k _ _ => k < 8
  | .twMirrorStart k _ => k < 8
  | .tw8WriteCommit _ => true
  | .tw8ReadWord => true
  | .tw8Violation => true
  | .tw8Alert _ _ => true
  | .tw8AlertCancel _ _ => true
  | .tw8AraAnswer _ => true
  | .icLevelSample src => src < 512
  | .icEdgeEvent src => src < 512
  | .icPinFilter pin _ _ => pin < 48
  | .icPendWrite _ k _ => k < 16
  | .icMaskWrite _ k _ => k < 16
  | .icDeliver src _ _ _ => src < 512
  | .icCoreEoi _ t _ => t < 2
  | .icHostEoi _ _ => true
  | .icRemoteComplete src => src < 512
  | .icHoldoffExpiry g t => g < 32 && t < 4
  | .icHoldWrite _ _ => true
  | .icHoldTimeout g => g < 32
  | .lodgeErrorSignal source index => source < 55 && index < 8
  | .lodgeCorrectedSignal source index => source < 55 && index < 8
  | .spareLoadDone ch k n => ch < 64 && k < 5 && n < unitCount k
  | .fcAck _ _ => true
  | .escalationTimeout => true
  | .quietTimerExpiry => true
  | .fcRevive _ _ => true
  | .fcInject _ _ => true
  | .powerStateEntry => true
  | .powerWake cause pin => 1 ≤ cause && cause < 9 && pin < 40
  | .islandWake isl => isl < 38
  | .islandIdleReturn isl => isl < 38
  | .pllLockLoss => true
  | .thermalAlarm temp => temp < 4096
  | .supplyOutOfWindow => true
  | .mbxNonce _ => true
  | .mbxSessionOpen _ => true
  | .mbxSessionClose _ => true
  | .mbxFlashErase _ _ => true
  | .mbxFlashWrite _ _ => true
  | .mbxFlashVerify _ err => err < 8
  | .mbxSetPreferred _ _ => true
  | .mbxAttest _ => true
  | .mbxAccSet _ => true
  | .mbxKeyProgram _ => true
  | .mbxKeyRevoke _ => true
  | .mbxCommandDone => true
  | .wdtKick _ _ => true
  | .wdtExpiry t => t < 2
  | .logCodeWrite _ _ => true
  | .imgWindowDataRead _ => true
  | .identityKeyReady => true
  | .vddAonFall => true
  | .perstNRelease => true
  | .powerExitComplete => true
  | .oldLeadRelease => true
  | .hsBurstStart n lane => n < 16 && lane < 4
  | .twinStateReportTick _ => true
  | .headLeadRefresh => true
  | .twAlertRelease k _ => k < 8
  | .twSclStuckLimit k => k < 8
  | .twRdataRead _ k => k < 8
  | .icClaimRead i r => issues i && r.addr % 4 == 0 && 0 < r.be && r.be < 16
  | .pcieTagQuarantineEnd t => t < 1024

end Sys2Proof
end

