-- ==== Sys2Proof/Safety.lean ====
section
/-! DEFINITION. What every run keeps, and the terms in which statements speak: the invariant of the device's memories and key slots, what a
command leaves unchanged, and when an access of an initiator takes effect. -/

namespace Sys2Proof.Machine

/-- The register file, the image-loaded values and every memory are in their canonical form, and each owner key slot is EMPTY, VALID or
REVOKED (R551). -/
structure State.Inv (s : State) : Prop where
  regs : s.regs.wfBy resetWord = true
  imgRegs : s.imgRegs.wfBy resetWord = true
  fmMem : Memory.wf s.fmMem = true
  flash : s.flash.wfBy (fun _ => (0xFF : Byte)) = true
  tcm : Memory.wf s.tcm = true
  shared : Memory.wf s.shared = true
  mbx : Memory.wf s.mbx = true
  keys : ∀ n, (s.otp.get n).1 ≤ 2

/-- Every byte of frame memory, flash, the cores' memories and the mailbox buffer reads as before. -/
def SameBytes (s t : State) : Prop :=
  ∀ a, t.fmMem.getD 0 a = s.fmMem.getD 0 a ∧ t.flash.getD 0xFF a = s.flash.getD 0xFF a ∧ t.tcm.getD 0 a = s.tcm.getD 0 a
    ∧ t.shared.getD 0 a = s.shared.getD 0 a ∧ t.mbx.getD 0 a = s.mbx.getD 0 a

/-- Every register outside the list holds what it held. -/
def SameRegsBut (l : List Nat) (s t : State) : Prop := ∀ o, o ∉ l → t.reg o = s.reg o

/-- Nothing of memory changed, and no register outside the list. -/
def Frame (l : List Nat) (s t : State) : Prop := SameBytes s t ∧ SameRegsBut l s t

/-- A register write of an initiator passes every check (R16, R362, R364, R502, R556) and finds room in the mirror queue (R503). -/
def State.writeOpen (s : State) (i : Initiator) (off : Nat) : Prop :=
  s.gate i off = .ok ∧ (isAcc off && i != .mc0) = false
    ∧ (s.leadsPair && !isLocal off && decide (mirrorRoom ≤ s.mirrorQ.length)) = false

/-- A register read of an initiator passes every check (R362, R364, R556). -/
def State.readOpen (s : State) (i : Initiator) (off : Nat) : Prop :=
  s.inReset = false ∧ s.reaches i off = true ∧ (i == .mc1 && !s.bit Reg.MGT_STATUS 10) = false
    ∧ (i.isHost && !s.fnServes i.code) = false ∧ s.granted i 0 off false = true ∧ (s.inBoot && !bootServes i off) = false

/-- A remote access of an initiator passes every check that precedes the bridge (R364, R416, R545, R556): a function that serves, MC1 running,
a granted offset, and for PF3 a device outside boot state that has a far end. -/
def State.remoteOpen (s : State) (i : Initiator) (off : Nat) (write : Bool) : Prop :=
  (i.isHost = true → s.fnServes i.code = true) ∧ (i = .mc1 → s.bit Reg.MGT_STATUS 10 = true) ∧ s.granted i 0 off write = true
    ∧ (i = .pf3 → s.inBoot = false ∧ s.fld Reg.GLB_ROLE Fld.GLB_ROLE_ROLE ≠ 0)

/-- A counter counted once; at its maximum it stays there (R8). -/
def Counted (s t : State) (off : Nat) : Prop := t.reg off = BitVec.ofNat 32 (min 0xFFFFFFFF ((s.reg off).toNat + 1))

/-- A DMA channel of an unpaired device stands, in state `st`, at an instruction with opcode `op`, outside every loop and with no HALT due, and the
instruction after it is in the program and valid. -/
def State.channelAt (s : State) (c op st : Nat) : Prop :=
  c < 32 ∧ s.shadowLike = false ∧ s.leadsPair = false ∧ (s.dma.get c).loading = false ∧ s.dmaOp c = op ∧ s.dmaState c = st
    ∧ (s.dma.get c).haltDue = false ∧ (s.dma.get c).loops = [] ∧ (s.dma.get c).pc + 1 < s.dmaLen c
    ∧ badInstr ((s.dma.get c).prog.getD (8 * ((s.dma.get c).pc + 1)) 0) = false

end Sys2Proof.Machine
end

