-- ==== Sys2Proof/Certificates/Slice0/Obligations.lean ====
section
/-! DEFINITION. The statements about the device that provers are asked to prove: what commands do to registers, memories and outputs, by family, and
what every step keeps. -/

section

open Sys2Proof Sys2Proof.Machine

/-- A step of the device with a command at the front of its queue is that command's effect on the device with the rest of the queue: the command in front
is taken, and no other. It rests on choices and readings of the model: notes/assumptions/ 116. -/
def Obligations.StepTakesFront : Prop :=
  ∀ (c : Instr) (rest : List Instr) (s : State), s.pending = c :: rest → step s = exec c { s with pending := rest }

/-- With no command waiting a step is one nanosecond of time (the model's choice, notes/assumptions/1.md): the clock moves on, and no register and no byte
changes where every filtered input shows its pin and no encoder position waits to be sent; Invar advances by 0, 1 or 2, and stands still while the
always-on supply is down. It rests on choices and readings of the model: notes/assumptions/ 1, 74, 137. -/
def Obligations.IdleStepIsTime : Prop :=
  ∀ s : State, s.pending = [] → s.mirrorQ = [] → (∀ j, j < 20 → s.inputRaw j = s.inputLevel j) → s.filter.run = [] →
    (s.enc.get 0).due = false → (s.enc.get 1).due = false →
    (∀ r : Int, s.sync.rate = r → -(2 ^ 31) ≤ r ∧ r ≤ 2 ^ 31) → s.sync.frac < 2 ^ 32 → s.invar + 2 < 2 ^ 64 →
    ∃ t, step s = .next t ∧ t.now = s.now + 1 ∧ t.pending = [] ∧ Frame [] s t
      ∧ (s.boot.off = true → t.invar = s.invar) ∧ s.invar ≤ t.invar ∧ t.invar ≤ s.invar + 2

/-- Every well-formed command completes, from every state, and leaves the queue as it is; one that names an instance the device does not have, or a value
that does not fit its place, reaches nothing and changes nothing. It rests on choices and readings of the model: notes/assumptions/ 115. -/
def Obligations.WellFormedCompletes : Prop :=
  ∀ (c : Instr) (s : State),
    (wellFormed c = true → ∃ t, exec c s = .next t ∧ t.pending = s.pending)
      ∧ (wellFormed c = false → exec c s = .next s)

/-- Every step keeps the register file, the image-loaded values and every memory in canonical form, and each owner key slot EMPTY, VALID or REVOKED. -/
def Obligations.StepKeepsInv : Prop :=
  ∀ s t : State, s.Inv → step s = .next t → t.Inv

/-- The device after reset has the invariant. It rests on choices and readings of the model: notes/assumptions/ 107. -/
def Obligations.ResetHasInv : Prop :=
  State.reset.Inv

/-- No step takes an owner key slot back to an earlier state, from EMPTY through VALID to REVOKED, and none changes the digest of a slot that is not
EMPTY. -/
def Obligations.KeySlotsOnlyAdvance : Prop :=
  ∀ s t : State, s.Inv → step s = .next t → ∀ n,
    (s.otp.get n).1 ≤ (t.otp.get n).1 ∧ ((s.otp.get n).1 ≠ 0 → (t.otp.get n).2 = (s.otp.get n).2)

/-- A write by PF0 of a register of the GLB, ST, OS or PCR block that has no effect of its own gives each field what its access type says: an RW field
takes the written bits, an RO field keeps its own, a W1C bit clears when written 1 unless hardware sets it in the same cycle, a W1S bit sets when
written 1; a reserved bit stays 0; and nothing else changes, unless the register completes an interrupt source. It rests on choices and readings of
the model: notes/assumptions/ 3, 28, 29, 89, 106. -/
def Obligations.WriteByAccessType : Prop :=
  ∀ (s : State) (off : Nat) (data hw : Word) (r : RegRow),
    s.writeOpen .pf0 off → off / 0x100000 ∈ [0, 2, 5, 13] → off ≠ Reg.GLB_EXPERT_EN → off ≠ Reg.PCR_RESET → off % 4 = 0 →
    findReg off = some r → (∀ f ∈ r.fields, f.counter = false) →
    ∃ t, exec (.regWrite .pf0 off data 15 hw false) s = .next t
      ∧ (∀ f ∈ r.fields, ∀ b, f.lo ≤ b → b < f.lo + f.width →
          t.bit off b = match f.acc with
            | .rw | .rwh => bitB data.toNat b
            | .ro => s.bit off b
            | .w1c => bitB hw.toNat b || (s.bit off b && !bitB data.toNat b)
            | .w1s => s.bit off b || bitB data.toNat b
            | .wo => false)
      ∧ (∀ b, (∀ f ∈ r.fields, b < f.lo ∨ f.lo + f.width ≤ b) → t.bit off b = false)
      ∧ SameBytes s t ∧ (statusSource off = none → SameRegsBut [off] s t)

/-- A write that the device's checks turn away changes no register but the one that counts or captures it: one whose byte enables leave out a byte is
discarded, and does nothing at all where a function serves the host there; one to an expert register whose page is closed is counted in
GLB_EXPERT_DENY_CNT; one of the host to a mirrored register on a following or detached device is counted in GLB_PCIE_SHADOW_WR_IGN_CNT, and one of a
core in TWN_CNT6; one to an address that holds no register is ignored. A write that the access-control table refuses to PF0 is counted, sets ACC_DENY,
is captured while MGT_ACC_LAST.VALID is 0 with its offset, its direction and its class, and leaves every other register as it was; PF0 sees no
completion of a write, but AER logs it. It rests on choices and readings of the model: notes/assumptions/ 108, 119. -/
def Obligations.AccessChecks : Prop :=
  (∀ (s : State) (i : Initiator) (off be : Nat) (data hw : Word), i ∈ [Initiator.pf0, .pf1, .pf2, .pf3] → off % 4 = 0 → be < 15 → off < 0x1000000 →
      ∃ t, exec (.regWrite i off data be hw false) s = .next t ∧ Frame [] s t ∧ (s.unserved i off = false → t = s))
  ∧ (∀ (s : State) (off : Nat) (data hw : Word), s.gate .pf0 off = .expert → off % 4 = 0 → off < 0x2000000 →
      ∃ t, exec (.regWrite .pf0 off data 15 hw false) s = .next t
        ∧ t.reg Reg.GLB_EXPERT_DENY_CNT = BitVec.ofNat 32 (min 0xFFFFFFFF ((s.reg Reg.GLB_EXPERT_DENY_CNT).toNat + 1))
        ∧ Frame [Reg.GLB_EXPERT_DENY_CNT] s t)
  ∧ (∀ (s : State) (off : Nat) (data hw : Word), s.gate .pf0 off = .shadow → off % 4 = 0 → off < 0x2000000 →
      ∃ t, exec (.regWrite .pf0 off data 15 hw false) s = .next t
        ∧ t.reg Reg.GLB_PCIE_SHADOW_WR_IGN_CNT
            = BitVec.ofNat 32 (min 0xFFFFFFFF ((s.reg Reg.GLB_PCIE_SHADOW_WR_IGN_CNT).toNat + 1))
        ∧ Frame [Reg.GLB_PCIE_SHADOW_WR_IGN_CNT] s t)
  ∧ (∀ (s : State) (off : Nat) (data hw : Word), s.gate .mc1 off = .shadow → off % 4 = 0 → off < 0x2000000 →
      ∃ t, exec (.regWrite .mc1 (0x40000000 + off) data 15 hw false) s = .next t
        ∧ t.reg (Reg.TWN_CNTk 6) = BitVec.ofNat 32 (min 0xFFFFFFFF ((s.reg (Reg.TWN_CNTk 6)).toNat + 1))
        ∧ Frame [Reg.TWN_CNTk 6] s t)
  ∧ (∀ (s : State) (off : Nat) (data hw : Word), s.writeOpen .pf0 off → off / 0x100000 ∈ [0, 2, 5, 13, 15] → off % 4 = 0 → findReg off = none →
      ∃ t, exec (.regWrite .pf0 off data 15 hw false) s = .next t ∧ Frame [] s t)
  ∧ (∀ (s : State) (off : Nat) (data hw : Word), s.gate .pf0 off = .access → off % 4 = 0 → off < 0x2000000 →
    ∃ t, exec (.regWrite .pf0 off data 15 hw false) s = .next t
      ∧ t.reg Reg.MGT_ACC_DENY_CNT = BitVec.ofNat 32 (min 0xFFFFFFFF ((s.reg Reg.MGT_ACC_DENY_CNT).toNat + 1))
      ∧ t.bit Reg.MGT_STATUS 1 = true
      ∧ (s.bit Reg.MGT_ACC_LAST 31 = true → t.reg Reg.MGT_ACC_LAST = s.reg Reg.MGT_ACC_LAST)
      ∧ (s.bit Reg.MGT_ACC_LAST 31 = false → t.reg Reg.MGT_ACC_LAST = BitVec.ofNat 32 (off % 2 ^ 26 + 2 ^ 27 + 2 ^ 31))
      ∧ Frame [Reg.MGT_ACC_DENY_CNT, Reg.MGT_STATUS, Reg.MGT_ACC_LAST] s t)

/-- Writing 0 to a counter clears it, and what is counted in the same cycle is not lost; a write of any other value is ignored, and the counter goes on,
to at most 0xFFFF_FFFF. PGL_CH_DROP_CNT is the drop count of the channel that PGL_CH_SEL names. -/
def Obligations.CounterWrite : Prop :=
  (∀ (s : State) (i : Initiator) (off n : Nat) (data : Word), s.writeOpen i off → isCounter off = true → off ≠ Reg.PGL_CH_DROP_CNT →
      ∃ t, exec (.counterWrite i off data n) s = .next t
        ∧ t.reg off = BitVec.ofNat 32 (min 0xFFFFFFFF ((if data = 0 then 0 else (s.reg off).toNat) + n))
        ∧ Frame [off] s t)
  ∧ (∀ (s : State) (i : Initiator) (n : Nat) (data : Word), s.writeOpen i Reg.PGL_CH_DROP_CNT →
      let c := s.fld Reg.PGL_CH_SEL Fld.PGL_CH_SEL_CH
      ∃ t, exec (.counterWrite i Reg.PGL_CH_DROP_CNT data n) s = .next t
        ∧ (t.chan.get c).dropCnt = BitVec.ofNat 32 (min 0xFFFFFFFF ((if data = 0 then 0 else (s.chan.get c).dropCnt.toNat) + n))
        ∧ t.reg Reg.PGL_CH_DROP_CNT = (t.chan.get c).dropCnt
        ∧ Frame [Reg.PGL_CH_DROP_CNT, Reg.PGL_CH_LEVEL] s t)

/-- Clearing a block's bit in GLB_EXPERT_EN: the register takes the written value of its 19 bits; in the blocks that carry lines the return is left to the
next line boundary, and no other register changes while no bit of another block is cleared. Setting bits changes nothing else. At the boundary of a
block or a unit the RW fields of its registers that are to return show the image-loaded values, their other fields keep what they hold, and no other
register changes, but that an LU context whose DARK_EN is 0 then has a D and a DARK_VALID of 0. It rests on choices and readings of the model:
notes/assumptions/ 37. -/
def Obligations.ExpertPage : Prop :=
  (∀ (s : State) (i : Initiator) (data : Word), s.writeOpen i Reg.GLB_EXPERT_EN →
      (∀ b, 8 ≤ b → b < 19 → s.bit Reg.GLB_EXPERT_EN b = true → bitB data.toNat b = true) →
      ∃ t, exec (.expertEnWrite i data) s = .next t
        ∧ t.reg Reg.GLB_EXPERT_EN = BitVec.ofNat 32 (data.toNat % 2 ^ 19)
        ∧ Frame [Reg.GLB_EXPERT_EN] s t)
  ∧ (∀ (s : State) (sc : ExpertScope), s.expertPend.Nodup →
      let back := s.expertPend.filter (fun o => inScope sc o)
      let dark := (back.filterMap luCfgOf).flatMap (fun x =>
        [Reg.PVp_LUu_CTXc_STATE (x.1 / 4) (x.1 % 4) x.2, Reg.PVp_LUu_CTXc_DARK (x.1 / 4) (x.1 % 4) x.2])
      ∃ t, exec (.expertValueReturn sc) s = .next t
        ∧ (∀ off r f b, off ∈ s.expertPend → inScope sc off = true → off ∉ dark → findReg off = some r → f ∈ r.fields → f.lo ≤ b →
            b < f.lo + f.width →
            t.bit off b = if f.acc = .rw ∧ f.counter = false then bitB ((s.imgRegs.find off).getD (resetWord off)).toNat b
              else s.bit off b)
        ∧ (∀ lu c, Reg.PVp_LUu_CTXc_CFG (lu / 4) (lu % 4) c ∈ back → lu < 16 → c < 8 →
            t.on (Reg.PVp_LUu_CTXc_CFG (lu / 4) (lu % 4) c) Fld.PVp_LUu_CTXc_CFG_DARK_EN = false →
            t.fld (Reg.PVp_LUu_CTXc_DARK (lu / 4) (lu % 4) c) Fld.PVp_LUu_CTXc_DARK_D = 0
              ∧ t.on (Reg.PVp_LUu_CTXc_STATE (lu / 4) (lu % 4) c) Fld.PVp_LUu_CTXc_STATE_DARK_VALID = false)
        ∧ t.expertPend = s.expertPend.filter (fun o => !inScope sc o)
        ∧ Frame (back ++ dark) s t)

/-- The lead puts each write that takes effect and is not local in its mirror queue, and sends the queue to its partner as one CFG message of offsets and
values; a write that waits for room takes effect once it has room; a following device applies each mirrored write. It rests on choices and readings of
the model: notes/assumptions/ 1, 36. -/
def Obligations.MirroredWrites : Prop :=
  (∀ (s : State) (i : Initiator) (off : Nat) (data : Word) (eff : State → State), (eff s).leadsPair = true → (eff s).mirrorQ = s.mirrorQ →
      isLocal off = false → statusSource off = none →
      (s.effect i.code off data eff).mirrorQ = s.mirrorQ ++ [⟨i.code, off, data.toNat⟩])
  ∧ (∀ (s : State) (m : MirrorW), s.mirrorQ = [m] → s.mirrorWait = [] → s.leadsPair = true →
      exec .mirrorWriteQueued s = .next ({ s with mirrorQ := [] }.toPartner 0 [m.off + m.init * 2 ^ 28, m.val]))
  ∧ (∀ (s : State) (m : MirrorW) (rest : List MirrorW) (r : RegRow), s.mirrorQ = [] → s.mirrorWait = m :: rest → 4 ≤ m.init →
      m.off / 0x100000 ∈ [2, 5] → findReg m.off = some r →
      ∃ t, exec .mirrorWriteQueued s = .next t ∧ t.mirrorWait = rest
        ∧ t.reg m.off = r.write (s.reg m.off) (BitVec.ofNat 32 m.val) 0 ∧ Frame [m.off] s t)
  ∧ (∀ (s u : State) (p : LinkPkt) (off v i : Nat) (r : RegRow), s.takeItem 2 7 0 = (u, some (p, [off + i * 2 ^ 28, v])) → u.follows = true →
      off / 0x100000 ∈ [2, 5] → findReg off = some r →
      ∃ t, exec .twinCfgReceive s = .next t ∧ t.reg off = r.write (u.reg off) (BitVec.ofNat 32 v) 0 ∧ Frame [off] u t)

/-- A write request that arrived over a lane group writes the register it names; a poisoned one writes nothing and is reported to its originator as a
failed write, reason 4. A read request is answered with a CPLD packet that carries the register's value and the request's tag and originator. It rests
on choices and readings of the model: notes/assumptions/ 2, 31, 35, 36, 51, 124. -/
def Obligations.LinkRequests : Prop :=
  (∀ (s u : State) (g v : Nat) (p : LinkPkt) (r : RegRow), g < 3 → s.takeRx g 1 0 = (u, some p) → p.ep = false → p.payload = [v] →
      u.writeOpen (linkOf g) p.spec0 → p.spec0 / 0x100000 ∈ [2, 5] → findReg p.spec0 = some r →
      ∃ t, exec (.wrReceive g) s = .next t ∧ t.reg p.spec0 = r.write (u.reg p.spec0) (BitVec.ofNat 32 v) 0 ∧ Frame [p.spec0] u t)
  ∧ (∀ (s u : State) (g : Nat) (p : LinkPkt), g < 3 → s.takeRx g 1 0 = (u, some p) → p.ep = true →
      exec (.wrReceive g) s = .next (u.farFails g p.spec0 4 p.init))
  ∧ (∀ (s u : State) (g : Nat) (p : LinkPkt), g < 3 → s.takeRx g 2 0 = (u, some p) → p.spec1 % 2 ^ 16 = 1 → p.spec0 < 0x100000 →
      p.spec0 ≠ Reg.GLB_IMG_WINDOW_DATA → u.granted (linkOf g) 0 p.spec0 false = true →
      exec (.rdReceive g) s
        = .next (u.sendPkt g ⟨3, 0, true, true, p.ep, 0, p.tag, p.init, 0, 0, [(u.readReg p.spec0).toNat]⟩))

/-- A level source that is neither pending nor in service becomes pending when its line is high, and an edge source at each active edge; a pin in edge
mode has its edge when the filtered level rises. In a held group the set goes to the hold latch. Nothing else changes. It rests on choices and
readings of the model: notes/assumptions/ 17, 78, 82, 148. -/
def Obligations.SourcesBecomePending : Prop :=
  (∀ (s : State) (src : Nat), src < 512 → s.isEdge src = false → s.pended src = false → s.inService src = false → s.icLine src = true →
      srcReserved src = false → s.icHeld (src / 16) = false →
      ∃ t, exec (.icLevelSample src) s = .next t ∧ t.pended src = true
        ∧ t.reg (Reg.IC_PENDk (src / 32)) = s.reg (Reg.IC_PENDk (src / 32)) ||| BitVec.ofNat 32 (2 ^ (src % 32))
        ∧ Frame [Reg.IC_PENDk (src / 32)] s t)
  ∧ (∀ (s : State) (src : Nat), src < 512 → s.isEdge src = true → srcReserved src = false → s.icHeld (src / 16) = false →
      ∃ t, exec (.icEdgeEvent src) s = .next t ∧ t.pended src = true
        ∧ t.reg (Reg.IC_PENDk (src / 32)) = s.reg (Reg.IC_PENDk (src / 32)) ||| BitVec.ofNat 32 (2 ^ (src % 32))
        ∧ Frame [Reg.IC_PENDk (src / 32)] s t)
  ∧ (∀ (s : State) (src : Nat), src < 512 → s.isEdge src = true → srcReserved src = false → s.icHeld (src / 16) = true →
      ∃ t, exec (.icEdgeEvent src) s = .next t
        ∧ t.ic.latchPend.get (src / 32) = s.ic.latchPend.get (src / 32) ||| BitVec.ofNat 32 (2 ^ (src % 32)) ∧ Frame [] s t)
  ∧ (∀ (s : State) (pin cycles : Nat) (level : Bool), pin < 48 → isPin (208 + pin) = true → s.inP3 = false →
      s.fld (Reg.IC_PINi_CFG pin) Fld.IC_PINi_CFG_FILT ≤ cycles → s.on (Reg.IC_PINi_CFG pin) Fld.IC_PINi_CFG_MODE = true →
      s.icHeld ((208 + pin) / 16) = false →
      (s.ic.src.get (208 + pin)).pinLevel = s.on (Reg.IC_PINi_CFG pin) Fld.IC_PINi_CFG_POL →
      level = !s.on (Reg.IC_PINi_CFG pin) Fld.IC_PINi_CFG_POL → (pin < 16 → bitB s.trigLevel pin = level) →
      ∃ t, exec (.icPinFilter pin level cycles) s = .next t ∧ t.pended (208 + pin) = true
        ∧ (t.ic.src.get (208 + pin)).pinLevel = level ∧ Frame [Reg.IC_PENDk ((208 + pin) / 32)] s t)

/-- The pending and mask bits of 32 sources stand as software writes them, those of reserved sources apart, whatever hardware does; a write of the
configuration of a reserved source is ignored. It rests on choices and readings of the model: notes/assumptions/ 148. -/
def Obligations.PendingAndMaskWrites : Prop :=
  (∀ (s : State) (i : Initiator) (k : Nat) (data : Word), k < 16 → s.writeOpen i (Reg.IC_PENDk k) →
      ∃ t, exec (.icPendWrite i k data) s = .next t
        ∧ (∀ j, j < 32 → t.bit (Reg.IC_PENDk k) j = (bitB data.toNat j && !srcReserved (32 * k + j))) ∧ Frame [Reg.IC_PENDk k] s t)
  ∧ (∀ (s : State) (i : Initiator) (k : Nat) (data : Word), k < 16 → s.writeOpen i (Reg.IC_MASKk k) →
      ∃ t, exec (.icMaskWrite i k data) s = .next t
        ∧ (∀ j, j < 32 → t.bit (Reg.IC_MASKk k) j = (bitB data.toNat j && !srcReserved (32 * k + j))) ∧ Frame [Reg.IC_MASKk k] s t)
  ∧ (∀ (s : State) (off : Nat) (data hw : Word), s.writeOpen .pf0 off → 0xB01000 ≤ off → off < 0xB02000 → off % 4 = 0 →
      srcReserved ((off - 0xB01000) / 8) = true → statusSource off = none →
      ∃ t, exec (.regWrite .pf0 off data 15 hw false) s = .next t ∧ Frame [] s t)

/-- An offered source that is the first for the target that rotation gives it is delivered there: it is pending no more, it is in service, AUTOMASK masks
it, LAST names the target; a core stacks it and jumps to its vector, the host gets its MSI-X vector requested. No other register changes. A completion
takes the source out of service: a core's EOI that names the top of its stack, the host's for a source without status registers, that of a delivery to
REMOTE by itself in its time. An EOI that completes nothing is counted and shown, and changes nothing else. It rests on choices and readings of the
model: notes/assumptions/ 19, 118, 123. -/
def Obligations.DeliveryAndCompletion : Prop :=
  (∀ (s : State) (src tgt : Nat) (gie0 gie1 : Bool), src < 512 → s.offered src = true → s.chooseTarget gie0 gie1 src = some tgt →
    s.bestFor gie0 gie1 src tgt = true →
    ∃ t, exec (.icDeliver src gie0 gie1 .ok) s = .next t
      ∧ t.pended src = false ∧ t.inService src = true
      ∧ t.masked src = s.on (Reg.IC_SRCs_CFG src) Fld.IC_SRCs_CFG_AUTOMASK
      ∧ t.fld (Reg.IC_SRCs_CFG src) Fld.IC_SRCs_CFG_LAST = tgt
      ∧ (t.ic.src.get src).target = tgt
      ∧ (tgt < 2 → t.coreStack tgt = src :: s.coreStack tgt
          ∧ t.out = s.out ++ [.vector tgt ((s.reg (Reg.IC_Tt_VBASE tgt)).toNat + 4 * src)])
      ∧ (tgt = 2 → t.msixReq = s.msixReq
          ++ [(s.fld (Reg.IC_SRCs_VEC src) Fld.IC_SRCs_VEC_FUNC, s.fld (Reg.IC_SRCs_VEC src) Fld.IC_SRCs_VEC_VEC)])
      ∧ Frame [Reg.IC_PENDk (src / 32), Reg.IC_INSVk (src / 32), Reg.IC_MASKk (src / 32), Reg.IC_SRCs_CFG src, Reg.IC_Tt_ACTIVE tgt] s t)
  ∧ (∀ (s : State) (i : Initiator) (tgt src : Nat) (rest : List Nat) (data : Word), tgt < 2 → s.writeOpen i (Reg.IC_Tt_EOI tgt) →
      s.coreStack tgt = src :: rest → Fld.IC_Tt_EOI_SOURCE.get data = src →
      ∃ t, exec (.icCoreEoi i tgt data) s = .next t ∧ t.inService src = false ∧ t.coreStack tgt = rest
        ∧ Frame [Reg.IC_INSVk (src / 32), Reg.IC_PENDk (src / 32), Reg.IC_SPUR_CNT, Reg.IC_Tt_ACTIVE tgt] s t)
  ∧ (∀ (s : State) (i : Initiator) (tgt : Nat) (data : Word), tgt < 2 → s.writeOpen i (Reg.IC_Tt_EOI tgt) →
      (s.coreStack tgt).head? ≠ some (Fld.IC_Tt_EOI_SOURCE.get data) →
      ∃ t, exec (.icCoreEoi i tgt data) s = .next t
        ∧ t.reg Reg.IC_EOI_ERR_CNT = BitVec.ofNat 32 (min 0xFFFFFFFF ((s.reg Reg.IC_EOI_ERR_CNT).toNat + 1))
        ∧ t.bit Reg.IC_STATUS 0 = true ∧ Frame [Reg.IC_EOI_ERR_CNT, Reg.IC_STATUS] s t)
  ∧ (∀ (s : State) (i : Initiator) (src : Nat) (data : Word), s.writeOpen i Reg.IC_HOST_EOI → Fld.IC_HOST_EOI_SOURCE.get data = src →
      s.inService src = true → (s.ic.src.get src).target = 2 → statusPairs src = [] →
      ∃ t, exec (.icHostEoi i data) s = .next t ∧ t.inService src = false
        ∧ Frame [Reg.IC_INSVk (src / 32), Reg.IC_PENDk (src / 32), Reg.IC_SPUR_CNT] s t)
  ∧ (∀ (s : State) (src : Nat), src < 512 → s.inService src = true → (s.ic.src.get src).target = 3 → (s.ic.src.get src).doneAt ≤ s.now →
      ∃ t, exec (.icRemoteComplete src) s = .next t ∧ t.inService src = false
        ∧ Frame [Reg.IC_INSVk (src / 32), Reg.IC_PENDk (src / 32), Reg.IC_SPUR_CNT] s t)

/-- A hold-off ends at its time. A write of IC_HOLD holds groups; when a group's hold ends, by software or after 4 µs, what its latch holds is ORed into
its pending and mask bits, the latch empties, and an end by time is counted. The first read of a status register by the initiator that handles the
delivery samples the line for the test of a spurious claim, and returns the bytes asked for of the register. A read of a register of the SP, ST, PGL,
OS, FC or TWN block that is no source's status register returns the bytes asked for, and changes nothing. -/
def Obligations.HoldAndClaim : Prop :=
  (∀ (s : State) (g tgt : Nat), g < 32 → tgt < 4 → s.ic.holdoff.get (4 * g + tgt) ≤ s.now →
      ∃ t, exec (.icHoldoffExpiry g tgt) s = .next t ∧ t.ic.holdoff.get (4 * g + tgt) = 0 ∧ Frame [] s t)
  ∧ (∀ (s : State) (i : Initiator) (data : Word), s.writeOpen i Reg.IC_HOLD → (s.reg Reg.IC_HOLD) &&& ~~~data = 0 →
      ∃ t, exec (.icHoldWrite i data) s = .next t ∧ t.reg Reg.IC_HOLD = data
        ∧ (∀ g, g < 32 → bitB data.toNat g = true → s.icHeld g = false → t.ic.heldAt.get g = s.now + 4000) ∧ Frame [Reg.IC_HOLD] s t)
  ∧ (∀ (s : State) (g : Nat), g < 32 → s.icHeld g = true → s.ic.heldAt.get g ≤ s.now →
      ∃ t, exec (.icHoldTimeout g) s = .next t ∧ t.icHeld g = false
        ∧ t.reg Reg.IC_HOLD_TO_CNT = BitVec.ofNat 32 (min 0xFFFFFFFF ((s.reg Reg.IC_HOLD_TO_CNT).toNat + 1))
        ∧ t.bit Reg.IC_STATUS 1 = true
        ∧ (∀ src, src / 16 = g → t.pended src = (s.pended src || bitB (s.ic.latchPend.get (src / 32)).toNat (src % 32))
            ∧ t.masked src = (s.masked src || bitB (s.ic.latchMask.get (src / 32)).toNat (src % 32))
            ∧ bitB (t.ic.latchPend.get (src / 32)).toNat (src % 32) = false)
        ∧ Frame [Reg.IC_HOLD, Reg.IC_PENDk (g / 2), Reg.IC_MASKk (g / 2), Reg.IC_HOLD_TO_CNT, Reg.IC_STATUS] s t)
  ∧ (∀ (s : State) (i : Initiator) (a be off src : Nat), issues i = true → a % 4 = 0 → 0 < be → be < 16 → s.place i a = .reg off →
      s.readOpen i off → statusSource off = some src → s.inService src = true →
      (s.ic.src.get src).claimRead = false → s.claimer src = some i.code → s.isEdge src = false →
      ∃ t, exec (.icClaimRead i ⟨a, be⟩) s = .next t
        ∧ (t.ic.src.get src).claimRead = true ∧ (t.ic.src.get src).spurious = (!s.icLine src)
        ∧ t.out = s.out ++ [.readData i (askedBytes be (s.live off) % 2 ^ 32)] ∧ Frame [] s t)
  ∧ (∀ (s : State) (i : Initiator) (a be off : Nat), issues i = true → a % 4 = 0 → 0 < be → be < 16 → s.place i a = .reg off →
      s.readOpen i off → statusSource off = none → off / 0x100000 ∈ [1, 2, 3, 5, 12, 15] →
      exec (.icClaimRead i ⟨a, be⟩) s = .next (s.emit (.readData i (askedBytes be (s.readReg off) % 2 ^ 32))))

/-- A long packet with a good header, of the data type and channel of a valid line entry whose port waits for no deskew and which takes no reference
event, is delivered as a line of that entry: its pixels are those of the payload when it is as long as its header says and fills WIDTH exactly; a
payload whose CRC fails is flagged CRC_ERR and counted; a packet cut off is padded, flagged CRC_ERR and PAD, and counted. Packets that deliver no
line. An uncorrectable header is discarded and counted, and marks the next line of each valid entry; a packet of an unlisted data type and a burst
with a sync error are discarded and counted; null and blanking packets are discarded without a count, and the end of their burst releases the data
lanes' terminations; a generic short packet is captured. It rests on choices and readings of the model: notes/assumptions/ 21, 23, 25, 120, 121, 145. -/
def Obligations.ReceivedPackets : Prop :=
  (∀ (s : State) (n k bits : Nat) (h : Word) (payload : List Nat) (crc : Option Nat),
    n < 16 → (s.port.get n).running = true →
    checkHeader (s.on (Reg.SPn_PHY_CFG n) Fld.SPn_PHY_CFG_VCX) h.toNat = some (bits, false) →
    unknownDt (hdrDt bits) = false → 0x12 ≤ hdrDt bits → s.openOn n (hdrVc bits) = [] →
    (s.entsOf n (hdrVc bits)).find? (fun k => s.entFld n k Fld.SPn_ENTk_CFG_DT == hdrDt bits) = some k →
    s.on (Reg.SPn_PHY_CFG n) Fld.SPn_PHY_CFG_DESKEW_REQ = false → s.entArea n k = false → s.toRef n k = 0 →
    let b := (dtBits (hdrDt bits)).getD 8
    let w := s.entWidth n k
    let px := shapeTo w (s.entFill n k) (shapeTo (wholePixels b (hdrWc bits)) (s.entFill n k) (unpack b (payload.take (hdrWc bits))))
    wholePixels b (hdrWc bits) = w →
    (payload.length = hdrWc bits → crc = some (crc16 payload) →
        exec (.csiLongPacket n h payload crc) s
          = .next ((s.deliverEntry n k px 0 none false false (leBytes 4 (hdrWord bits) ++ payload ++ leBytes 2 (crc16 payload))).endBurst n))
    ∧ (∀ c, payload.length = hdrWc bits → crc = some c → c ≠ crc16 payload →
        exec (.csiLongPacket n h payload crc) s
          = .next (((s.portCount n 2).deliverEntry n k px (2 ^ flagCrcErr) none false false
              (leBytes 4 (hdrWord bits) ++ payload ++ leBytes 2 c)).endBurst n))
    ∧ (payload.length < hdrWc bits →
        exec (.csiLongPacket n h payload crc) s
          = .next (((s.portCount n 7).deliverEntry n k px (2 ^ flagCrcErr + 2 ^ flagPad) none false false
              (leBytes 4 (hdrWord bits) ++ payload)).endBurst n)))
  ∧ (∀ (s : State) (n : Nat), n < 16 → (s.port.get n).running = true →
      ∃ t, exec (.csiHeaderUncorr n) s = .next t ∧ Counted s t (Reg.SPn_CNTk n 1) ∧ t.bit (Reg.SPn_STATUS n) 1 = true
        ∧ (∀ k, k < 8 → s.entValid n k = true → (t.entry.get (8 * n + k)).hdrErr = true)
        ∧ Frame [Reg.SPn_CNTk n 1, Reg.SPn_STATUS n] s t)
  ∧ (∀ (s : State) (n bits : Nat) (h : Word), n < 16 → (s.port.get n).running = true →
      checkHeader (s.on (Reg.SPn_PHY_CFG n) Fld.SPn_PHY_CFG_VCX) h.toNat = some (bits, false) → unknownDt (hdrDt bits) = true →
      ∃ t, exec (.unknownDtDiscard n h) s = .next t ∧ Counted s t (Reg.SPn_CNTk n 11) ∧ t.bit (Reg.SPn_STATUS n) 11 = true
        ∧ Frame [Reg.SPn_CNTk n 11, Reg.SPn_STATUS n] s t)
  ∧ (∀ (s : State) (n : Nat), n < 16 → (s.port.get n).running = true →
      ∃ t, exec (.phySyncError n) s = .next t ∧ Counted s t (Reg.SPn_CNTk n 15) ∧ t.bit (Reg.SPn_STATUS n) 15 = true
        ∧ Frame [Reg.SPn_CNTk n 15, Reg.SPn_STATUS n] s t)
  ∧ (∀ (s : State) (n bits : Nat) (h : Word), n < 16 → (s.port.get n).running = true →
      checkHeader (s.on (Reg.SPn_PHY_CFG n) Fld.SPn_PHY_CFG_VCX) h.toNat = some (bits, false) →
      ∃ t, exec (.csiNullBlanking n h) s = .next t ∧ t.fld (Reg.SPn_STATUS n) Fld.SPn_STATUS_RX_ACTIVE = 0
        ∧ (t.port.get n).burst = 0 ∧ (t.port.get n).term = (s.port.get n).term / 16 * 16 ∧ Frame [Reg.SPn_STATUS n] s t)
  ∧ (∀ (s : State) (n bits : Nat) (h : Word), n < 16 → (s.port.get n).running = true →
      checkHeader (s.on (Reg.SPn_PHY_CFG n) Fld.SPn_PHY_CFG_VCX) h.toNat = some (bits, false) → 8 ≤ hdrDt bits → hdrDt bits ≤ 15 →
      ∃ t, exec (.csiGenericShort n h) s = .next t
        ∧ t.reg (Reg.SPn_GSP_LAST n) = BitVec.ofNat 32 (hdrWc bits + hdrDt bits * 2 ^ 16 + hdrVc bits * 2 ^ 22 + 2 ^ 31)
        ∧ Frame [Reg.SPn_GSP_LAST n, Reg.SPn_STATUS n] s t)

/-- A Frame Start opens a frame on each area entry of its channel, with the phase counter at 0; a Frame End closes the channel's open frame, here one that
has all its lines; both are reported in SPn_FRAME_NUM. A Line Start owes a line to the entry that takes it as its reference event, at the present
Invar, within the line timeout. It rests on choices and readings of the model: notes/assumptions/ 25, 50. -/
def Obligations.FramesAndOwedLines : Prop :=
  (∀ (s : State) (n bits : Nat) (h : Word), n < 16 → (s.port.get n).running = true →
      checkHeader (s.on (Reg.SPn_PHY_CFG n) Fld.SPn_PHY_CFG_VCX) h.toNat = some (bits, false) → hdrDt bits = 0 →
      s.openOn n (hdrVc bits) = [] →
      ∃ t, exec (.csiFrameStart n h) s = .next t
        ∧ t.reg (Reg.SPn_FRAME_NUM n) = BitVec.ofNat 32 (hdrWc bits + hdrVc bits * 2 ^ 16)
        ∧ (∀ k ∈ s.entsOf n (hdrVc bits), s.entArea n k = true →
            (t.entry.get (8 * n + k)).open_ = true ∧ (t.entry.get (8 * n + k)).delivered = 0 ∧ (t.entry.get (8 * n + k)).phase = 0)
        ∧ Frame [Reg.SPn_FRAME_NUM n, Reg.SPn_STATUS n] s t)
  ∧ (∀ (s : State) (n k bits : Nat) (h : Word), n < 16 → (s.port.get n).running = true →
      checkHeader (s.on (Reg.SPn_PHY_CFG n) Fld.SPn_PHY_CFG_VCX) h.toNat = some (bits, false) → hdrDt bits = 1 →
      s.openOn n (hdrVc bits) = [k] → s.frameLines n k ≤ (s.entry.get (8 * n + k)).delivered →
      ∃ t, exec (.csiFrameEnd n h) s = .next t
        ∧ t.reg (Reg.SPn_FRAME_NUM n) = BitVec.ofNat 32 (hdrWc bits + hdrVc bits * 2 ^ 16 + 2 ^ 20)
        ∧ (t.entry.get (8 * n + k)).open_ = false
        ∧ (t.entry.get (8 * n + k)).dropBefore = (s.entry.get (8 * n + k)).longSeen
        ∧ Frame [Reg.SPn_FRAME_NUM n, Reg.SPn_STATUS n] s t)
  ∧ (∀ (s : State) (n k bits : Nat) (h : Word), n < 16 → (s.port.get n).running = true →
      checkHeader (s.on (Reg.SPn_PHY_CFG n) Fld.SPn_PHY_CFG_VCX) h.toNat = some (bits, false) → hdrDt bits = 2 →
      s.openOn n (hdrVc bits) = [] → s.entsOf n (hdrVc bits) = [k] → s.toRef n k = 1 → (s.entry.get (8 * n + k)).owed.length < 16 →
      ∃ t o, exec (.csiLineStart n h) s = .next t ∧ (t.entry.get (8 * n + k)).owed = (s.entry.get (8 * n + k)).owed ++ [o]
        ∧ o.time = s.invar ∧ o.phase0 = false
        ∧ o.deadline = (if s.fld (Reg.SPn_LINE_TIMEOUT n) Fld.SPn_LINE_TIMEOUT_TIMEOUT = 0 then none
            else some (s.now + s.fld (Reg.SPn_LINE_TIMEOUT n) Fld.SPn_LINE_TIMEOUT_TIMEOUT * 64))
        ∧ Frame [Reg.SPn_STATUS n] s t)

/-- The timer of an owed line delivers a fill line, every pixel FILL_VALUE, flagged LATE, with the owing event's capture, and counts it, before the lines
that waited for that; the frame timer closes the channel's open frames as frames without their Frame End, counted; the lead tells its partner either.
It rests on choices and readings of the model: notes/assumptions/ 2, 50, 120, 145. -/
def Obligations.PortTimeouts : Prop :=
  (∀ (s : State) (n k d : Nat) (o : Owed) (rest : List Owed), n < 16 → k < 8 → s.follows = false →
      (s.entry.get (8 * n + k)).owed = o :: rest → o.deadline = some d → d < s.now → s.entArea n k = false →
      exec (.lineTimeout n k) s
        = .next (((((s.modEntry (8 * n + k) (fun x => { x with owed := rest })).portCount n 3).sendDec 1 k n 1 0 0 (0, 0, 0)).deliverEntry n k
            (List.replicate (s.entWidth n k) (s.entFill n k)) (2 ^ flagLate) (some o) true false []).settleEntry n k))
  ∧ (∀ (s : State) (n k vc : Nat) (rest : List Nat), n < 16 → vc < 16 → s.follows = false →
      s.fld (Reg.SPn_FRAME_TIMEOUT n) Fld.SPn_FRAME_TIMEOUT_TIMEOUT ≠ 0 → s.openOn n vc = k :: rest →
      (s.entry.get (8 * n + k)).lastPkt + s.fld (Reg.SPn_FRAME_TIMEOUT n) Fld.SPn_FRAME_TIMEOUT_TIMEOUT * 1000 ≤ s.now →
      exec (.frameTimeout n vc) s
        = .next ((k :: rest).foldl (fun u j => u.closeFrame n j) ((s.sendDec 1 vc n 1 1 0 (0, 0, 0)).portCount n 8)))

/-- The lanes of a port: a skew calibration adds the lanes that took it, and fails where a lane did not; a lane enters or leaves ULPS; a burst begins, and
a port that may terminate terminates that lane. Setting EN starts a stopped port, with empty entries and no calibration; clearing EN makes it stop at
the end of the packet in progress; when it stops, with no stream bound to it, nothing but the port changes. It rests on choices and readings of the
model: notes/assumptions/ 23, 24, 122, 146. -/
def Obligations.PortLanesAndEnable : Prop :=
  (∀ (s : State) (n locked : Nat), n < 16 → locked < 16 → (s.port.get n).running = true →
      let all := 2 ^ (min (s.fld (Reg.SPn_PHY_CFG n) Fld.SPn_PHY_CFG_LANES) 4) - 1
      let got := Nat.lor (s.fld (Reg.SPn_DESKEW_STAT n) Fld.SPn_DESKEW_STAT_LOCKED) (Nat.land locked all)
      ∃ t, exec (.deskewSequence n locked) s = .next t
        ∧ t.fld (Reg.SPn_DESKEW_STAT n) Fld.SPn_DESKEW_STAT_LOCKED = got % 16
        ∧ (t.on (Reg.SPn_STATUS n) Fld.SPn_STATUS_DESKEW_DONE = true ↔ got = all)
        ∧ (Nat.land locked all ≠ all → t.bit (Reg.SPn_STATUS n) 16 = true)
        ∧ Frame [Reg.SPn_DESKEW_STAT n, Reg.SPn_STATUS n] s t)
  ∧ (∀ (s : State) (n lane : Nat) (enter : Bool), n < 16 → lane < 5 →
      ∃ t, exec (.ulpsTransition n lane enter) s = .next t ∧ bitB (t.port.get n).ulps lane = enter
        ∧ (t.on (Reg.SPn_STATUS n) Fld.SPn_STATUS_ULPS = true ↔ (t.port.get n).ulps ≠ 0) ∧ Frame [Reg.SPn_STATUS n] s t)
  ∧ (∀ (s : State) (n lane : Nat), n < 16 → lane < 4 → (s.port.get n).running = true →
      ∃ t, exec (.hsBurstStart n lane) s = .next t ∧ t.on (Reg.SPn_STATUS n) Fld.SPn_STATUS_RX_ACTIVE = true
        ∧ (s.mayTerminate n = true →
            t.on (Reg.SPn_STATUS n) Fld.SPn_STATUS_TERM_ACTIVE = true ∧ bitB (t.port.get n).term lane = true)
        ∧ (s.mayTerminate n = false → (t.port.get n).term = (s.port.get n).term)
        ∧ Frame [Reg.SPn_STATUS n] s t)
  ∧ (∀ (s : State) (i : Initiator) (n : Nat), n < 16 → s.writeOpen i (Reg.SPn_CTRL n) → (s.port.get n).running = false →
      (s.port.get n).clearDue = false → s.inBoot = false → s.bit Reg.FC_FENCE_PORT n = false →
      s.fld Reg.FC_ESC_STATUS Fld.FC_ESC_STATUS_STATE < 2 →
      ∃ t, exec (.portEnable i n) s = .next t ∧ t.reg (Reg.SPn_CTRL n) = 1 ∧ (t.port.get n).running = true
        ∧ (∀ k, k < 8 → t.entry.get (8 * n + k) = default)
        ∧ t.fld (Reg.SPn_DESKEW_STAT n) Fld.SPn_DESKEW_STAT_LOCKED = 0
        ∧ t.on (Reg.SPn_STATUS n) Fld.SPn_STATUS_DESKEW_DONE = false
        ∧ Frame [Reg.SPn_CTRL n, Reg.SPn_DESKEW_STAT n, Reg.SPn_STATUS n, Reg.PCR_STATUS] s t)
  ∧ (∀ (s : State) (i : Initiator) (n : Nat), n < 16 → s.writeOpen i (Reg.SPn_CTRL n) →
      ∃ t, exec (.portDisable i n) s = .next t ∧ t.reg (Reg.SPn_CTRL n) = 0
        ∧ (t.port.get n).clearDue = (s.port.get n).running ∧ (t.port.get n).setDue = false ∧ Frame [Reg.SPn_CTRL n] s t)
  ∧ (∀ (s : State) (n : Nat), n < 16 → (s.port.get n).clearDue = true → (s.port.get n).setDue = false →
      (∀ st, st < 64 → s.on (Reg.ST_BINDn st) Fld.ST_BINDn_VALID = false) →
      ∃ t, exec (.portStop n) s = .next t ∧ (t.port.get n).running = false ∧ (t.port.get n).clearDue = false
        ∧ (∀ k, k < 8 → t.entry.get (8 * n + k) = default)
        ∧ t.on (Reg.SPn_STATUS n) Fld.SPn_STATUS_TERM_ACTIVE = false ∧ Frame [Reg.SPn_STATUS n] s t)

/-- A leading edge opens a document at the edge's position with the number in NEXT_DOC, which then increments or takes the value that software writes in
the same cycle; a trailing edge gives the newest document its end. -/
def Obligations.SegmenterEdges : Prop :=
  (∀ (s : State) (g pos : Nat) (wr : Option Word), g < 4 → s.follows = false → s.leadDue g = some pos →
      ∃ t, exec (.segLeadingEdge g wr) s = .next t ∧ t.reg (Reg.ST_SEGs_LEAD_POS g) = BitVec.ofNat 32 pos
        ∧ t.reg (Reg.ST_SEGs_NEXT_DOC g) = wr.getD (s.reg (Reg.ST_SEGs_NEXT_DOC g) + 1)
        ∧ t.present g = true
        ∧ (t.seg.get g).docs = (s.seg.get g).docs ++ [⟨(s.reg (Reg.ST_SEGs_NEXT_DOC g)).toNat, pos, none⟩]
        ∧ Frame [Reg.ST_SEGs_LEAD_POS g, Reg.ST_SEGs_STATE g, Reg.ST_SEGs_NEXT_DOC g] s t)
  ∧ (∀ (s : State) (g pos : Nat) (d : DocDecl) (rest : List DocDecl), g < 4 → s.follows = false → s.trailDue g = some pos →
      (s.seg.get g).docs = rest ++ [d] →
      ∃ t, exec (.segTrailingEdge g) s = .next t ∧ t.reg (Reg.ST_SEGs_TRAIL_POS g) = BitVec.ofNat 32 pos
        ∧ t.present g = false ∧ (t.seg.get g).docs = rest ++ [{ d with trail := some pos }]
        ∧ Frame [Reg.ST_SEGs_TRAIL_POS g, Reg.ST_SEGs_STATE g] s t)

/-- The weighted round robin never leaves a unit input idle while a line waits for it: for any credits and any place of the scan it grants one of the
channels that wait. It rests on choices and readings of the model: notes/assumptions/ 20. -/
def Obligations.RoundRobinGrants : Prop :=
  ∀ (ins : List DrrIn) (last : Nat) (credits : List Nat), credits.length = ins.length → (∃ i ∈ ins, i.waiting = true) → (∀ i ∈ ins, 1 ≤ i.weight ∧ i.width < 2 ^ 16) →
    ∃ c i, (drrChoose ins last credits).2 = some c ∧ ins[c]? = some i ∧ i.waiting = true

/-- An admitted line takes its space on its channel and its pavilion, carries DROP_BEFORE where one is due and no more than once, and waits at the first
unit of its chain; a dropped line is counted and, while PGL_DROP_LAST.VALID is 0, captured with its channel, reason and pavilion. A free unit input
takes the line that the round robin grants; a pavilion's load completes, and its staged banks hold the recipe for the documents that the load was for;
a following device that finds no decision 2 µs after a line began shows it and signals Lodge source 54, for every line that is so late. It rests on
choices and readings of the model: notes/assumptions/ 42, 49, 127. -/
def Obligations.PergolaAdmission : Prop :=
  (∀ (s : State) (ch k n : Nat) (l : Line), ch < 64 → s.pvLevel (s.homePv ch) + lineKib (s.streamWidth ch) < 2 ^ 15 →
      s.firstUnit ch = some (k, n) → s.fenced k n = false →
      let t := s.admitLine ch l
      (t.chan.get ch).level = (s.chan.get ch).level + lineKib (s.streamWidth ch)
        ∧ t.pvLevel (s.homePv ch) = s.pvLevel (s.homePv ch) + lineKib (s.streamWidth ch) ∧ (t.chan.get ch).dropDue = false
        ∧ t.waitingAt k n ch = s.waitingAt k n ch
            ++ [.line (if (s.chan.get ch).dropDue then { l with tag := { l.tag with flags := setFlag l.tag.flags flagDrop } } else l)]
        ∧ Frame [Reg.PGL_PVp_LEVEL (s.homePv ch), Reg.PGL_CH_LEVEL, Reg.PGL_CH_DROP_CNT] s t)
  ∧ (∀ (s : State) (ch reason : Nat), ch < 64 → reason < 4 →
      let t := s.dropLine ch reason
      Counted s t Reg.PGL_DROP_CNT ∧ (t.chan.get ch).dropDue = true
        ∧ (s.bit Reg.PGL_DROP_LAST 31 = false →
            t.reg Reg.PGL_DROP_LAST = BitVec.ofNat 32 (ch + reason * 2 ^ 6 + s.homePv ch * 2 ^ 8 + 2 ^ 31))
        ∧ (s.bit Reg.PGL_DROP_LAST 31 = true → t.reg Reg.PGL_DROP_LAST = s.reg Reg.PGL_DROP_LAST)
        ∧ Frame [Reg.PGL_DROP_CNT, Reg.PGL_DROP_LAST, Reg.PGL_CH_LEVEL, Reg.PGL_CH_DROP_CNT] s t)
  ∧ (∀ (s : State) (k : UnitKind) (n c : Nat) (l : Line) (rest : List Item), k ≠ .bu → n < unitCount k.code →
      (s.arb.get (unitKey k.code n)).taken = none → s.fenced k.code n = false →
      (let a := s.arb.get (unitKey k.code n)
        let chs := s.pointChans k.code n
        (drrChoose (chs.map (fun ch => ⟨max 1 (s.fld (Reg.PGL_CHn_CFG ch) Fld.PGL_CHn_CFG_WEIGHT), s.streamWidth ch,
            ((s.waitingAt k.code n ch).head?.map isLine).getD false && !(s.routeUnit ch k.code == some n && s.elder k.code n ch)
              && !s.heldBack ch⟩)) (if a.started then a.last else chs.length - 1)
          (chs.map (fun ch => a.credit.get ch))).2 = some c) →
      s.waitingAt k.code n ((s.pointChans k.code n).getD c 0) = .line l :: rest →
      (s.pav.get (s.homePv ((s.pointChans k.code n).getD c 0))).loading = none →
      ∃ t, exec (.pglGrant k n) s = .next t
        ∧ (t.arb.get (unitKey k.code n)).taken = some ((s.pointChans k.code n).getD c 0, l)
        ∧ t.waitingAt k.code n ((s.pointChans k.code n).getD c 0) = rest ∧ Frame [] s t)
  ∧ (∀ (s : State) (p r : Nat), p < 4 → s.follows = false → (s.pav.get p).loading = some r →
      ∃ t, exec (.recipeLoadDone p) s = .next t ∧ (t.pav.get p).recipe = some r ∧ (t.pav.get p).loading = none
        ∧ (t.pav.get p).after = (s.pav.get p).loadAfter
        ∧ (t.pav.get p).staged = (mainRecs (s.recipePart r p) ++ s.part4Of r p ++ s.spareRecs r p).map (fun x => ⟨ownerOf x.off, x.off, x.val⟩)
        ∧ Frame [Reg.GLB_RECIPE_STATUS] s t)
  ∧ (∀ (s : State) (ch : Nat) (w : WaitLine), ch < 64 → s.follows = true → w ∈ (s.chan.get ch).wait →
      w.stage = 1 → w.late = false → w.began + 2000 ≤ s.now →
      let due (w : WaitLine) : Bool := w.stage == 1 && !w.late && decide (w.began + 2000 ≤ s.now)
      ∃ t, exec (.admissionDecisionTimeout ch) s = .next t ∧ t.bit Reg.PGL_STATUS 1 = true
        ∧ t.lodge.raised = s.lodge.raised ++ List.replicate ((s.chan.get ch).wait.filter due).length ⟨54, 0, false⟩
        ∧ (t.chan.get ch).wait = (s.chan.get ch).wait.map (fun w => if due w then { w with late := true } else w)
        ∧ Frame [Reg.PGL_STATUS] s t)

/-- A context of an LU processes the line that its unit took and passes it to the next unit of the chain, and then the markers behind it, also where the
line was lost in the Glasshouse. Whatever the tables hold, every pixel that leaves fits 16 bits, and a context keeps the line's length; in its neutral
state, with black 0, gain 1.0 and no correction, a 12-bit pixel leaves multiplied by 16. A write of TBL_DATA stores the word at TBL_ADDR and a read
returns it; either moves TBL_ADDR to the next word, modulo the 32,768 words of the table, and changes no other word. It rests on choices and readings
of the model: notes/assumptions/ 45, 46, 92, 114, 125, 126. -/
def Obligations.Linearisation : Prop :=
  (∀ (s u : State) (lu ch c tc : Nat) (gh : Ecc) (tb lb : List Nat) (l : Line), lu < 16 → s.fenced 0 lu = false →
      s.readTaken 0 lu gh = (u, some (ch, l)) → u.luContext lu ch l.tag.idx = some c →
      let v := (u.swapAt ch l.tag.idx (ownerKey 0 lu (1 + c)) [] true).luItem lu c l.tag.doc
      let m := u.marked 0 lu ch l
      let r := v.luProcess lu c m tc tb lb
      exec (.luLine lu gh tc tb lb) s = .next ((r.1.sendTo ch (.line r.2) (kindsAfter 0)).luPassed lu ch)
        ∧ m.px = l.px ∧ r.2.tag = { m.tag with recipe := r.1.ownerRecipe (ownerKey 0 lu (1 + c)) })
  ∧ (∀ (s u : State) (lu ch tc : Nat) (tb lb : List Nat) (gh : Ecc), lu < 16 → s.fenced 0 lu = false →
      (s.arb.get (unitKey 0 lu)).taken.map (·.1) = some ch → s.readTaken 0 lu gh = (u, none) →
      exec (.luLine lu gh tc tb lb) s = .next (u.luPassed lu ch))
  ∧ (∀ (p : LuParams) (entry : Nat → Nat) (px cols : List Nat) (d : Int), px.length = cols.length →
      (luPixels p entry px cols d).1.length = px.length ∧ ∀ v ∈ (luPixels p entry px cols d).1, v ≤ 65535)
  ∧ (∀ (entry : Nat → Nat) (px : List Nat), (∀ v ∈ px, v < 4096) →
      (luPixels ⟨12, 0, 0, false, 0x1000, false⟩ entry px (px.map (fun _ => 0x4000)) 0).1 = px.map (fun v => 16 * v))
  ∧ (∀ (s : State) (i : Initiator) (lu : Nat) (data : Word), lu < 16 → s.writeOpen i (Reg.PVp_LUu_TBL_DATA (lu / 4) (lu % 4)) →
      let a := s.fld (Reg.PVp_LUu_TBL_ADDR (lu / 4) (lu % 4)) Fld.PVp_LUu_TBL_ADDR_ADDR
      ∃ t, exec (.tblDataWrite i lu data) s = .next t ∧ t.luWord lu a = data
        ∧ t.fld (Reg.PVp_LUu_TBL_ADDR (lu / 4) (lu % 4)) Fld.PVp_LUu_TBL_ADDR_ADDR = (a + 1) % 32768
        ∧ (∀ lu' a', lu' < 16 → a' < 32768 → ¬ (lu' = lu ∧ a' = a) → t.luWord lu' a' = s.luWord lu' a')
        ∧ Frame [Reg.PVp_LUu_TBL_ADDR (lu / 4) (lu % 4)] s t)
  ∧ (∀ (s : State) (i : Initiator) (lu : Nat), lu < 16 → s.readOpen i (Reg.PVp_LUu_TBL_DATA (lu / 4) (lu % 4)) →
      let a := s.fld (Reg.PVp_LUu_TBL_ADDR (lu / 4) (lu % 4)) Fld.PVp_LUu_TBL_ADDR_ADDR
      ∃ t, exec (.tblDataRead i lu) s = .next t ∧ t.out = s.out ++ [.readData i (s.luWord lu a).toNat]
        ∧ t.fld (Reg.PVp_LUu_TBL_ADDR (lu / 4) (lu % 4)) Fld.PVp_LUu_TBL_ADDR_ADDR = (a + 1) % 32768
        ∧ t.luTable = s.luTable ∧ Frame [Reg.PVp_LUu_TBL_ADDR (lu / 4) (lu % 4)] s t)

/-- The arithmetic of a merge. The merged value of a channel lies between the least and the greatest of its members' values, whatever their weights; a
resampled value fits 16 bits, and where the four taps agree it is their value; what the compander answers fits 16 bits. -/
def Obligations.MergeArithmetic : Prop :=
  (∀ l : List MemberPx, l ≠ [] → (∀ m ∈ l, 0 ≤ m.weight) → (∃ m ∈ l, mergeE l ≤ m.e) ∧ (∃ m ∈ l, m.e ≤ mergeE l))
  ∧ (∀ cs taps : List Int, 0 ≤ resample cs taps ∧ resample cs taps ≤ 65535)
  ∧ (∀ f x : Int, 0 ≤ f → f < 64 → 0 ≤ x → x ≤ 65535 → resample (kernel f) [x, x, x, x] = x)
  ∧ (∀ (comp : Bool) (shift knee kshift e : Nat), knee ≤ 65535 → compand comp shift knee kshift e ≤ 65535)

/-- A member line that its MU reads joins its context's lines. An output line follows its reference line once its anchors and taps are decided, while no
output stream that it reaches is held: its pixels are the merged pixels of the members, channel by channel, it carries the reference line's tag but
for its flags and recipe, and the group's velocity shows; the reference line is used up, and every word of the tap store in error signals the Lodge. A
member line whose timer has run out is missing by timeout, and counted; a following device waits 2 µs more for its lead's decision, and then also
shows it and signals Lodge source 54. A group's marker follows its last output line once every member's marker has arrived, with TRUNC and SHORT_DOC
where any member's marker has them. It rests on choices and readings of the model: notes/assumptions/ 92, 93, 114, 131, 133. -/
def Obligations.ExposureMerge : Prop :=
  (∀ (s u : State) (mu ch c : Nat) (gh : Ecc) (l : Line), mu < 8 → s.fenced 1 mu = false → s.readTaken 1 mu gh = (u, some (ch, l)) →
      u.muContext mu ch l.tag.idx = some c → (l.tag.idx, l.tag.line) ∉ (u.member mu c).gone →
      ∃ v, exec (.muMemberLine mu gh) s = .next (v.muMarkers mu) ∧ (v.member mu c).lines = (u.member mu c).lines ++ [l] ∧ Frame [] u v)
  ∧ (∀ (s : State) (mu g refC corr : Nat) (bad : List (Nat × Nat × Nat)) (ref : Line) (rest : List Line) (uses : List MemberUse),
      mu < 8 → g < 4 → s.fenced 1 mu = false → ((s.muMarkers mu).mergeGrp mu g).refs = ref :: rest →
      (s.muMarkers mu).heldBack ref.tag.stream = false →
      (s.muMarkers mu).muContext mu ref.tag.stream ref.tag.idx = some refC →
      let t := (s.muMarkers mu).muSwap mu g refC ref
      allSome ((t.muMembers mu ref.tag.stream ref.tag.idx g).map (fun c => t.useMember mu c refC ref (t.groupVel mu g ref))) = some uses →
      ∃ (w : State) (flags recipe : Nat),
        exec (.muOutputLine mu g corr bad) s = .next (w.sendTo ref.tag.stream
          (.line ⟨{ ref.tag with flags := flags, recipe := recipe }, (t.mergePixels mu g (ref.px.headD []).length uses bad).map (·.1)⟩)
          (kindsAfter 1))
        ∧ (w.mergeGrp mu g).refs = rest
        ∧ w.reg (Reg.PVp_MUu_GRPg_VEL (mu / 2) (mu % 2) g) = BitVec.ofNat 32 (unsigned 32 (t.groupVel mu g ref))
        ∧ w.lodge.raised = t.lodge.raised ++ List.replicate corr ⟨17 + 4 * (mu / 2), mu % 2, true⟩
            ++ List.replicate bad.length ⟨17 + 4 * (mu / 2), mu % 2, false⟩)
  ∧ (∀ (s : State) (mu c j idx : Nat), mu < 8 → c < 8 → (s.muMarkers mu).follows = false → (s.muMarkers mu).muLate mu c j 0 = some idx →
      let v := s.muMarkers mu
      ∃ t, exec (.muMemberTimeout mu c j) s = .next t
        ∧ (idx, j) ∈ (t.member mu c).gone
        ∧ Counted v t (Reg.PVp_MUu_CNTk (mu / 2) (mu % 2) 4) ∧ t.bit (Reg.PVp_MUu_STATUS (mu / 2) (mu % 2)) 4 = true
        ∧ Frame [Reg.PVp_MUu_CNTk (mu / 2) (mu % 2) 4, Reg.PVp_MUu_STATUS (mu / 2) (mu % 2)] v t)
  ∧ (∀ (s : State) (mu c j idx : Nat), mu < 8 → c < 8 → (s.muMarkers mu).follows = true → (s.muMarkers mu).muLate mu c j 2000 = some idx →
      let v := s.muMarkers mu
      ∃ t, exec (.muShadowWait mu c j) s = .next t
        ∧ (idx, j) ∈ (t.member mu c).gone
        ∧ t.bit (Reg.PVp_MUu_STATUS (mu / 2) (mu % 2)) 7 = true ∧ t.lodge.raised = v.lodge.raised ++ [⟨54, 0, false⟩]
        ∧ Frame [Reg.PVp_MUu_CNTk (mu / 2) (mu % 2) 4, Reg.PVp_MUu_STATUS (mu / 2) (mu % 2)] v t)
  ∧ (∀ (s : State) (mu g : Nat) (m : Marker), mu < 8 → g < 4 → s.fenced 1 mu = false →
      (s.muMarkers mu).refMark mu g = some m →
      (∀ c ∈ (s.muMarkers mu).muMembers mu m.stream m.idx g, (((s.muMarkers mu).member mu c).markOf m.idx).isSome = true) →
      (∀ l ∈ ((s.muMarkers mu).mergeGrp mu g).refs, m.idx < l.tag.idx) →
      let v := s.muMarkers mu
      let marks := (v.muMembers mu m.stream m.idx g).map (fun c => (v.member mu c).markOf m.idx)
      ∃ w, exec (.muMarker mu g) s = .next (w.sendTo m.stream (.marker { m with
            trunc := marks.any (fun k => k.any (·.trunc)), short := marks.any (fun k => k.any (·.short)) }) (kindsAfter 1))
        ∧ Frame [] v w)

/-- The arithmetic of geometry. A stitched line of two lines of W columns that overlap by OV has 2 W - OV columns: the left line's before the overlap, the
right line's after it, and in the overlap a value between the two. The square root behind the rotation is the integer root. A grid line interpolated
between two lines lies between them. -/
def Obligations.GeometryArithmetic : Prop :=
  (∀ (w ov : Nat) (blend : Bool) (a b : List Nat), ov ≤ w →
      (stitchPx w ov blend a b).length = 2 * w - ov
      ∧ (∀ x, x < w - ov → (stitchPx w ov blend a b).getD x 0 = a.getD x 0)
      ∧ (∀ x, w ≤ x → x < 2 * w - ov → (stitchPx w ov blend a b).getD x 0 = b.getD (x - w + ov) 0)
      ∧ (∀ i, i < ov → min (a.getD (w - ov + i) 0) (b.getD i 0) ≤ (stitchPx w ov blend a b).getD (w - ov + i) 0
          ∧ (stitchPx w ov blend a b).getD (w - ov + i) 0 ≤ max (a.getD (w - ov + i) 0) (b.getD i 0)))
  ∧ (∀ n fuel : Nat, n < 4 ^ fuel → isqrt n fuel 0 * isqrt n fuel 0 ≤ n ∧ n < (isqrt n fuel 0 + 1) * (isqrt n fuel 0 + 1))
  ∧ (∀ (linear : Bool) (prev cur : Line) (f : Int) (g origin dist : Nat) (drop : Bool) (a b : List Nat), 0 ≤ f → f ≤ 64 →
      prev.px = [a] → cur.px = [b] → a.length = b.length →
      ∃ c, (gridMix linear prev cur f g origin dist drop).px = [c] ∧ c.length = a.length
        ∧ ∀ x, x < a.length → min (a.getD x 0) (b.getD x 0) ≤ c.getD x 0 ∧ c.getD x 0 ≤ max (a.getD x 0) (b.getD x 0))

/-- A GU context regrids the line that its unit took, under the document's recipe. A path in PASS mode releases its next grid line, once it is due and no
output stream that it reaches is held, with the line's own number, and a corrected read flags it; a read that comes back marked abandons the line,
counted, and the next one is due to carry DROP_BEFORE. A document-end marker follows the last grid line with the number of lines that the path has
emitted. A path with a box emits its next output line once none of its taps waits and no output stream that it reaches is held, with what the tile
cache then holds: line `out` of the document, as wide as the box, each pixel a 16-bit value. A following device that lacks the lead's decision for a
grid line after 2 µs shows it and signals Lodge source 54, for every line that is so late. It rests on choices and readings of the model:
notes/assumptions/ 92, 94, 95, 96, 97, 114. -/
def Obligations.GeometryLines : Prop :=
  (∀ (s u : State) (p ch c : Nat) (gh : Ecc) (errs : List BuErr) (l : Line), p < 4 → s.fenced 2 p = false →
      s.readTaken 2 p gh = (u, some (ch, l)) → u.guContext p ch l.tag.idx = some c →
      let v := (u.observe ch false errs (.line l)).swapAt ch l.tag.idx (ownerKey 2 p (1 + c)) [] true
      exec (.guInputLine p gh errs) s = .next
        ((v.guRegrid p c ch { l with tag := { l.tag with recipe := v.ownerRecipe (ownerKey 2 p (1 + c)) } }).guMarkers p))
  ∧ (∀ (s u : State) (p q idx ca oa ob o : Nat) (x : GuLine) (l : Line), p < 4 → q < 8 → oa < 3 → ob < 3 → s.fenced 2 p = false →
      s.on (Reg.PVp_GU_PATHq_CFG p q) Fld.PVp_GU_PATHq_CFG_VALID = true → (s.guMarkers p).guDoc p q = some idx →
      (s.guMarkers p).guPathCtxs p q = [ca] → ((s.guMarkers p).guP p q).cur = some idx →
      let v := State.guSkip p q idx 65536 (s.guMarkers p)
      let g := (v.guP p q).next
      v.guPathCtxs p q = [ca] → v.guAt p ca idx g = .line x → v.guEnded p q = false → v.heldBack (v.guStream p ca) = false →
      v.guRead p ca idx g oa = (u, some l, o) → (u.guP p q).mode = 0 →
      (o < 2 → ∃ (w : State) (flags : Nat),
        exec (.guRelease p q oa ob .ok) s = .next (w.sendTo (v.guStream p ca) (.line
          { (u.guP p q).join false (v.guStream p ca) (some l) none with
            tag := { ((u.guP p q).join false (v.guStream p ca) (some l) none).tag with line := g, flags := flags } })
          (kindsAfter 2))
        ∧ (o = 1 → bitB flags flagEccCorr = true)
        ∧ (w.guP p q).next = g + 1 ∧ (w.guP p q).out = (u.guP p q).out + 1)
      ∧ (2 ≤ o → ∃ w, exec (.guRelease p q oa ob .ok) s = .next w ∧ (w.guP p q).next = g + 1
        ∧ (w.guP p q).absent = (u.guP p q).absent ++ [g] ∧ (w.guP p q).dropDue = true
        ∧ Counted u w (Reg.PVp_GU_CNTk p 8) ∧ w.bit (Reg.PVp_GU_STATUS p) 8 = true))
  ∧ (∀ (s : State) (p q idx ca : Nat) (m : Marker), p < 4 → q < 8 → s.fenced 2 p = false →
      s.on (Reg.PVp_GU_PATHq_CFG p q) Fld.PVp_GU_PATHq_CFG_VALID = true → (s.guMarkers p).guDoc p q = some idx →
      (s.guMarkers p).guPathCtxs p q = [ca] → ((s.guMarkers p).guP p q).cur = some idx →
      let v := State.guSkip p q idx 65536 (s.guMarkers p)
      v.guEnded p q = true → (v.guP p q).mode = 0 → (v.guC p ca).markOf idx = some m →
      exec (.guMarker p q) s = .next ((v.guClose p q idx).sendTo (v.guStream p ca)
        (.marker { m with count := (v.guP p q).out }) (kindsAfter 2)))
  ∧ (∀ (s : State) (p q corr : Nat) (errs : List (Nat × Nat)) (again : List Nat) (b : GuBox), p < 4 → q < 8 → s.fenced 2 p = false →
      (s.guP p q).cur.isSome = true → (s.guP p q).mode ≠ 0 →
      let u := (((s.guMarkers p).guFollow p q).guFinish p q).guCacheEcc p q corr again
      let v := State.guLoad p q b ((u.guP p q).lines.length + 1) u errs
      let ch := v.guStream p ((v.guPathCtxs p q).headD 0)
      (u.guP p q).box = some b → (u.guP p q).hasLine (u.guEnded p q) (u.guP p q).out = true →
      u.heldBack (u.guStream p ((u.guPathCtxs p q).headD 0)) = false → ((v.guP p q).plan b (v.guEnded p q)).waits = false →
      ∃ (w : State) (l : Line),
        exec (.guDeskewLine p q errs corr again) s = .next (w.sendTo ch (.line l) (kindsAfter 2))
        ∧ l.tag.line = (v.guP p q).out ∧ l.tag.stream = ch
        ∧ (∀ c ∈ l.px, c.length = b.wout ∧ ∀ y ∈ c, y ≤ 65535) ∧ (w.guP p q).out = (v.guP p q).out + 1)
  ∧ (∀ (s : State) (p c : Nat) (x : GuWait), p < 4 → c < 8 → s.follows = true → x ∈ (s.guC p c).wait →
      x.late = false → x.began + 2000 ≤ s.now →
      let due (w : GuWait) : Bool := !w.late && decide (w.began + 2000 ≤ s.now)
      ∃ t, exec (.guDiscardDecisionTimeout p c) s = .next t
        ∧ t.on (Reg.PVp_GU_STATUS p) Fld.PVp_GU_STATUS_DECISION_TIMEOUT = true
        ∧ t.lodge.raised = s.lodge.raised ++ List.replicate ((s.guC p c).wait.filter due).length ⟨54, 0, false⟩
        ∧ (t.guC p c).wait = (s.guC p c).wait.map (fun w => if due w then { w with late := true } else w)
        ∧ Frame [Reg.PVp_GU_STATUS p] s t)

/-- The arithmetic of output. A sample of B bits is the 16-bit value divided by 2^(16 - B), rounded half up, and at most 2^B - 1; samples packed into
bytes read as one little-endian number whose digits to the base 2^B they are, in as few bytes as hold it; a payload is a multiple of eight bytes and
adds fewer than eight zeros; a tag is 32 bytes and a document header record 128, of which the last four are the CRC-32C of the rest. The samples of a
line are the selected channels' values so converted, with B as OSn_FMT.BITS gives. -/
def Obligations.OutputArithmetic : Prop :=
  (∀ b v : Nat, b ∈ [8, 10, 12, 14, 16] → v < 65536 →
      sampleOf b v ≤ 2 ^ b - 1 ∧ (b = 16 → sampleOf b v = v)
      ∧ sampleOf b v * 2 ^ (16 - b) ≤ v + 2 ^ (16 - b) / 2
      ∧ (v + 2 ^ (16 - b) / 2 < (sampleOf b v + 1) * 2 ^ (16 - b) ∨ sampleOf b v = 2 ^ b - 1))
  ∧ (∀ (b : Nat) (l : List Nat), b ∈ [8, 10, 12, 14, 16] → (∀ x ∈ l, x < 2 ^ b) →
      leNat (packSamples b l) = l.foldr (fun x a => x + 2 ^ b * a) 0 ∧ (packSamples b l).length = (b * l.length + 7) / 8)
  ∧ (∀ l : List Nat, (pad8 l).length % 8 = 0 ∧ (pad8 l).length < l.length + 8 ∧ (pad8 l).take l.length = l
      ∧ ∀ x ∈ (pad8 l).drop l.length, x = 0)
  ∧ (∀ (n width v : Nat) (t : Tag), (tagBytes n width t v).length = 32)
  ∧ (∀ (s : State) (n : Nat) (d : OsDoc) (m : Marker), (s.headerBytes n d m).length = 128
      ∧ (s.headerBytes n d m).drop 124 = leBytes 4 (crc32c ((s.headerBytes n d m).take 124)))
  ∧ (∀ (d : OsDoc) (px : List (List Nat)) (i : Nat) (c : List Nat), i < d.nsel → px[d.sel i]? = some c →
      d.bits ∈ [8, 10, 12, 14, 16] ∧ (d.samples px)[i]? = some (c.map (sampleOf d.bits)))

/-- An OF formats the line that it took, with the marker's flags where the marker waits right behind it, for the output stream its context feeds, and
counts it where that is enabled. Of an uncoded document that is open in the stream and enabled, the stream then shows the CRC-32C of the record's
payload as the last seal, with the line's document and line number, and counts one record. It rests on choices and readings of the model:
notes/assumptions/ 41, 43, 47, 91, 92, 103, 114, 134. -/
def Obligations.FormattedLine : Prop :=
  (∀ (s u : State) (o ch c n : Nat) (gh : Ecc) (errs : List BuErr) (f : OsFaults) (l : Line), o < 8 → s.fenced 4 o = false →
      s.readTaken 4 o gh = (u, some (ch, l)) → u.firstUnit ch ≠ some (4, o) →
      let m := u.marked 4 o ch l
      let w := u.swapAt ch l.tag.idx (ownerKey 4 o 0) ((List.range 8).map (fun k => ownerKey 4 o (1 + k))) false
      let x := (w.observeOf ch errs (.line m)).ofErrors o f
      w.routeUnit ch 3 = none → x.ofContext o ch = some c → x.ofFeeds o c = [n] →
      let v := x.osLine o n ch m f
      v.ofFeeds o c = [n] →
      exec (.ofLine o gh errs f.corr ⟨f.bad, f.coded⟩ f.seals) s
        = .next ((if v.osEnabled n then v.ofCount o 0 1 else v).ofMarkers o f))
  ∧ (∀ (u : State) (o n ch : Nat) (l : Line) (d : OsDoc), n < 32 → (u.os.get n).cur = some d → d.idx = l.tag.idx → d.en = true → d.isJls = false →
      d.beyond l.px = false → u.compares = false → u.osOff = false → u.mute n l.tag.idx = false →
      let v := u.osLine o n ch l ⟨0, [], [], []⟩
      v.reg (Reg.OSn_LAST_SEAL n) = BitVec.ofNat 32 (crc32c (d.payload l.px)) ∧ v.reg (Reg.OSn_LAST_DOC n) = BitVec.ofNat 32 l.tag.doc
        ∧ v.reg (Reg.OSn_LAST_LINE n) = BitVec.ofNat 32 l.tag.line ∧ Counted u v (Reg.OSn_CNTk n 0))

/-- A statistics context completes its oldest record into slot SEQ modulo NSLOT of its ring, in frame memory that is healthy there: the slot holds the
record's bytes, no other byte of memory changes, REC names the slot, SEQ moves on, counter 0 counts and DONE sets, and with OS_EN the record is due to
its output stream; a record whose slot the output stream has not freed is lost, and counter 1 counts. Accumulators that do not read count 0 and set
ECC_ERR in the record; every error counts and signals. A fenced unit completes only a record that has ECC_ERR. It rests on choices and readings of the
model: notes/assumptions/ 16, 39, 97, 98, 136. -/
def Obligations.StatisticsRecord : Prop :=
  (∀ (s : State) (b c corr : Nat) (bad : List Nat) (r : BuRec) (rest : List BuRec), b < 8 → c < 8 →
    (s.bu.get (8 * b + c)).due = r :: rest → (s.fenced 3 b = false ∨ r.err = true) →
    let ring := Reg.PVp_BUu_CTXc_RING (b / 2) (b % 2) c
    let q := { r with err := r.err || !bad.isEmpty, acc := bad.foldl (fun (t : Table Nat) k => Table.set t k 0) r.acc }
    let bytes := q.bytes b c
    let slot := (s.reg (Reg.PVp_BUu_CTXc_SEQ (b / 2) (b % 2) c)).toNat % max 1 (s.fld ring Fld.PVp_BUu_CTXc_RING_NSLOT)
    let addr := s.fld (Reg.PVp_BUu_CTXc_REC_BASE (b / 2) (b % 2) c) Fld.PVp_BUu_CTXc_REC_BASE_BASE
      + slot * s.fld ring Fld.PVp_BUu_CTXc_RING_SLOT_SIZE
    let n := r.set.fld 0 Fld.PVp_BUu_CTXc_CFG_OS
    let toOs := r.set.fld 0 Fld.PVp_BUu_CTXc_CFG_OS_EN = 1
    ∃ t, exec (.buRecordComplete b c corr bad) s = .next t
      ∧ (t.bu.get (8 * b + c)).due = rest
      ∧ t.reg (Reg.PVp_BUu_CTXc_SEQ (b / 2) (b % 2) c) = s.reg (Reg.PVp_BUu_CTXc_SEQ (b / 2) (b % 2) c) + 1
      ∧ t.reg (Reg.PVp_BUu_CNTk (b / 2) (b % 2) 3)
          = BitVec.ofNat 32 (min 0xFFFFFFFF ((s.reg (Reg.PVp_BUu_CNTk (b / 2) (b % 2) 3)).toNat + corr))
      ∧ t.reg (Reg.PVp_BUu_CNTk (b / 2) (b % 2) 4)
          = BitVec.ofNat 32 (min 0xFFFFFFFF ((s.reg (Reg.PVp_BUu_CNTk (b / 2) (b % 2) 4)).toNat + bad.length))
      ∧ (slot ∈ (s.bu.get (8 * b + c)).busy →
          Counted s t (Reg.PVp_BUu_CNTk (b / 2) (b % 2) 1) ∧ t.bit (Reg.PVp_BUu_STATUS (b / 2) (b % 2)) 1 = true
          ∧ (toOs → Counted s t (Reg.OSn_CNTk n 3)) ∧ SameBytes s t)
      ∧ (slot ∉ (s.bu.get (8 * b + c)).busy → s.bit Reg.FM_INJECT 31 = false → 64 * addr + bytes.length ≤ s.fmTop →
          (∀ k, addr ≤ k → k < addr + (bytes.length + 63) / 64 → s.fmOutcome k 0 = 0) →
          t.reg (Reg.PVp_BUu_CTXc_REC (b / 2) (b % 2) c) = BitVec.ofNat 32 (addr % 2 ^ 28)
          ∧ Counted s t (Reg.PVp_BUu_CNTk (b / 2) (b % 2) 0) ∧ t.bit (Reg.PVp_BUu_STATUS (b / 2) (b % 2)) 0 = true
          ∧ (∀ i, i < bytes.length → t.fmMem.getD 0 (64 * addr + i) = BitVec.ofNat 8 (bytes.getD i 0))
          ∧ (∀ a, a < 64 * addr ∨ 64 * addr + bytes.length ≤ a → t.fmMem.getD 0 a = s.fmMem.getD 0 a)
          ∧ (toOs → slot ∈ (t.bu.get (8 * b + c)).busy ∧ (t.os.get n).stats
              = (s.os.get n).stats ++ [⟨r.idx, r.doc, r.set.fld 0 Fld.PVp_BUu_CTXc_CFG_REC_IDX, 8 * b + c, slot, bytes⟩])))
  ∧ (∀ (s : State) (b c corr : Nat) (bad : List Nat) (r : BuRec) (rest : List BuRec), b < 8 → c < 8 →
      (s.bu.get (8 * b + c)).due = r :: rest → s.fenced 3 b = true → r.err = false → exec (.buRecordComplete b c corr bad) s = .next s)

/-- An output stream that holds nothing places its next statistics record, of a document that it has latched with EN = 1, at its placement pointer, or at
the base where the record would pass the area's end: the pointer moves on by the size rounded up to 64 bytes, the record's slot is free again and
counter 2 counts; a record larger than the area is lost and counter 3 counts. The header record of a document whose marker has come, and that waits
for nothing, enters DOC and counter 1 counts. It rests on choices and readings of the model: notes/assumptions/ 72, 99, 101, 102, 128, 135. -/
def Obligations.PlacedRecords : Prop :=
  (∀ (s : State) (n : Nat) (x : OsStat) (d : OsDoc), n < 32 → s.nextStat n = some x → (s.os.get n).held = [] →
      x.idx < (s.os.get n).seen → (s.os.get n).docOf x.idx = some d → d.en = true → s.mute n x.idx = false →
      let size := d.regs.getD 8 0 / 64 * 64
      ∃ t, exec (.statsPlace n) s = .next t
        ∧ (t.os.get n).stats = (s.os.get n).stats.erase x ∧ (t.os.get n).run = some (x.ctx, x.idx)
        ∧ (t.bu.get x.ctx).busy = (s.bu.get x.ctx).busy.filter (fun k => k != x.slot)
        ∧ (size < x.bytes.length → Counted s t (Reg.OSn_CNTk n 3) ∧ (t.os.get n).ptr = (s.os.get n).ptr)
        ∧ (x.bytes.length ≤ size → Counted s t (Reg.OSn_CNTk n 2)
            ∧ (t.os.get n).ptr = (if size < (s.os.get n).ptr + x.bytes.length then 0 else (s.os.get n).ptr)
                + (x.bytes.length + 63) / 64 * 64))
  ∧ (∀ (s : State) (n : Nat) (d : OsDoc) (m : Marker) (rest : List OsDoc), n < 32 →
      let u := (s.feeders n).foldl (fun s f => s.ofMarkers f.1 ⟨0, [], [], []⟩) s
      (u.os.get n).hdrs = d :: rest → d.mark = some m → (∀ r ∈ (u.os.get n).wait, r.tag.idx ≠ d.idx) →
      u.statsDue n d.idx d.doc = false → u.osOff = false → u.mute n d.idx = false →
      ∃ v, exec (.docHeaderRecord n) s
          = .next (v.osProduce n ⟨2, d.doc, 0, 0, false, u.headerBytes n d m, 0, d.regs.getD 9 0⟩)
        ∧ (v.os.get n).hdrs = rest ∧ Counted u v (Reg.OSn_CNTk n 1) ∧ v.bit (Reg.OSn_STATUS n) 1 = true
        ∧ Frame [Reg.OSn_CNTk n 1, Reg.OSn_STATUS n] u v)

/-- A relay delivers an item of the group that faces the head lead: a line record whose seal differs from the one in its tag counts SEAL_BAD, and is
delivered as it came. Where the lead waits for its partner's seal report and CMP_WAIT has passed, the record leaves, TWN_CNT1 counts, and a later
report is still compared. A report of the shadow for the waiting record ends the wait; a difference counts in TWN_CNT0 and sets MISMATCH. Reports of a
record's CHECK that differ count in TWN_CNT2. It rests on choices and readings of the model: notes/assumptions/ 147. -/
def Obligations.SealComparison : Prop :=
  (∀ (s u : State) (g n : Nat) (p0 p : LinkPkt) (words : List Nat), g < 2 → (s.grp.get g).rx.find? (fun q => q.cls == 5) = some p0 →
      s.relayOf (p0.spec0 % 32) = some n → s.facesHeadLead g = true → (s.os.get n).held = [] → s.takeItem g 5 p0.typ = (u, some (p, words)) →
      (s.relay.get n).seen = [] → (s.relay.get n).kept = [] → u.fld Reg.GLB_ROLE Fld.GLB_ROLE_TOPOLOGY ≠ 2 →
      exec (.relayItem g none) s = .next ({ u with relay := u.relay.set n (s.relay.get n) }.relayDeliver n g p.typ
        ((words.flatMap (leBytes 4)).take (if p.spec1 = 0 then 4 * words.length else p.spec1)) none))
  ∧ (∀ (s : State) (n g : Nat) (d : OsDoc) (bytes : List Nat), n < 32 →
      (s.os.get n).docOf (leNat ((bytes.drop 4).take 4)) = some d → d.en = true → crc32c (bytes.drop 32) ≠ leNat ((bytes.drop 28).take 4) →
      ∃ (v : State) (tag : Tag), s.relayDeliver n g 0 bytes none
          = v.osRecord n tag (leNat ((bytes.drop 12).take 4) % 2 ^ 16) (bytes.drop 32) (crc32c (bytes.drop 32)) (leNat ((bytes.drop 28).take 4))
        ∧ tag.doc = leNat ((bytes.drop 4).take 4) ∧ Counted s v (Reg.OSn_CNTk n 4) ∧ v.bit (Reg.OSn_STATUS n) 4 = true
        ∧ Frame [Reg.OSn_CNTk n 4, Reg.OSn_STATUS n] s v)
  ∧ (∀ (s : State) (n : Nat) (r : OsRec), n < 32 → (s.os.get n).wait = [r] → r.cmp = none →
      r.since + 1000 * max 1 (s.fld Reg.TWN_CFG Fld.TWN_CFG_CMP_WAIT) ≤ s.now →
      ∃ v, exec (.cmpWaitExpiry n) s = .next (v.osLeave n r false) ∧ (v.os.get n).wait = []
        ∧ (v.os.get n).sent = (s.os.get n).sent ++ [(r.tag.doc, r.tag.line, r.sealv)]
        ∧ Counted s v (Reg.TWN_CNTk 1) ∧ Frame [Reg.TWN_CNTk 1] s v)
  ∧ (∀ (s u : State) (p : LinkPkt) (n doc line v : Nat) (r : OsRec), s.takeItem 2 7 2 = (u, some (p, [n, doc, line, v])) → n < 32 →
      u.compares = true → u.twinState = 2 → (u.os.get n).wait = [r] → r.tag.doc = doc → r.tag.line = line → r.cmp = none →
      ∃ w, exec .twinSealReceive s = .next (w.osLeave n r (r.sealv != v)) ∧ (w.os.get n).wait = []
        ∧ (r.sealv = v → Frame [] u w)
        ∧ (r.sealv ≠ v → Counted u w (Reg.TWN_CNTk 0) ∧ w.on Reg.TWN_EVENT Fld.TWN_EVENT_MISMATCH = true
            ∧ (u.bit Reg.TWN_MM_DOC 31 = false → w.reg Reg.TWN_MM_DOC = BitVec.ofNat 32 (doc % 2 ^ 31 + 2 ^ 31))
            ∧ Frame [Reg.TWN_CNTk 0, Reg.TWN_EVENT, Reg.TWN_MM_DOC, Reg.TWN_MM_LINE] u w))
  ∧ (∀ (s u : State) (p : LinkPkt) (b c q doc far own : Nat), s.takeItem 2 7 3 = (u, some (p, [b + 16 * c, q, doc, far])) → b < 8 → c < 8 →
      u.compares = true → (u.bu.get (8 * b + c)).recOwn = [(q, doc, own)] →
      ∃ t, exec .twinRecReceive s = .next t ∧ (t.bu.get (8 * b + c)).recOwn = []
        ∧ (own = far → Frame [] u t)
        ∧ (own ≠ far → Counted u t (Reg.TWN_CNTk 2) ∧ t.on Reg.TWN_EVENT Fld.TWN_EVENT_REC_DIFF = true
            ∧ Frame [Reg.TWN_CNTk 2, Reg.TWN_EVENT] u t))

/-- The address map of frame memory puts different chunks in different places, and spreads any eight consecutive chunks of an aligned row over the eight
channels. A completed read counts the repeats of its bursts; with one symbol in error it is corrected, written back and counted, with more, or where a
burst fails more than three repeats, it is uncorrectable, captured, and fences its channel; poison is counted; an error that is found ahead waits for
the block's next access. The scrubber moves on by one block, and its passes count. A fence that completes shows in FENCED. Start-up trains the
channels, sets READY and shows the capacity. A channel that retrains well stays as it was. It rests on choices and readings of the model:
notes/assumptions/ 132. -/
def Obligations.FrameMemoryHealth : Prop :=
  (∀ a b : Nat, fmHome a = fmHome b → a / 256 = b / 256)
  ∧ (∀ j i i' : Nat, i < 8 → i' < 8 → (fmHome (256 * (8 * j + i))).1 = (fmHome (256 * (8 * j + i'))).1 → i = i')
  ∧ (∀ (s : State) (a syms repeats : Nat), a < s.fmTop → a < 2 ^ 34 →
      let b := a / 64
      let c := s.fmChannel (64 * b)
      let m := { s with fm := { s.fm with link := s.fm.link.set b (syms, repeats) } }
      let repeated (t : State) : Prop :=
        t.reg (Reg.FM_CNTk 3) = BitVec.ofNat 32 (min 0xFFFFFFFF ((s.reg (Reg.FM_CNTk 3)).toNat + min 3 repeats)) ∧ t.fm.link.get b = (0, 0)
      exec (.fmReadComplete a syms ⟨repeats, true⟩) s = .next m
      ∧ (s.fmDead (64 * b) = false → s.fmStale b = false →
          m.fmOutcome b 0 = min 2 (s.fm.flaw.get b + syms + if 3 < repeats then 2 else 0))
      ∧ (m.fmOutcome b 0 = 0 → ∃ t, exec (.fmReadComplete a syms ⟨repeats, false⟩) s = .next t ∧ repeated t
          ∧ t.lodge.raised = s.lodge.raised ∧ Frame [Reg.FM_CNTk 3, Reg.FM_STATUS] s t)
      ∧ (m.fmOutcome b 0 = 1 → ∃ t, exec (.fmReadComplete a syms ⟨repeats, false⟩) s = .next t ∧ repeated t ∧ t.fm.flaw.get b = 0
          ∧ Counted s t (Reg.FM_CNTk 0) ∧ t.lodge.raised = s.lodge.raised ++ [⟨32 + c, 0, true⟩] ∧ t.fm.fences = s.fm.fences
          ∧ Frame [Reg.FM_CNTk 0, Reg.FM_CNTk 3, Reg.FM_STATUS] s t)
      ∧ (m.fmOutcome b 0 = 2 → ∃ t, exec (.fmReadComplete a syms ⟨repeats, false⟩) s = .next t ∧ repeated t ∧ c ∈ t.fm.fences
          ∧ Counted s t (Reg.FM_CNTk 1) ∧ t.lodge.raised = s.lodge.raised ++ [⟨32 + c, 0, false⟩]
          ∧ (s.bit Reg.FM_UNCORR_ADDR_HI 31 = false →
              t.reg Reg.FM_UNCORR_ADDR_LO = BitVec.ofNat 32 (64 * b % 2 ^ 32) ∧ t.bit Reg.FM_UNCORR_ADDR_HI 31 = true)
          ∧ (s.fm.fences = [] → s.on Reg.FM_CFG Fld.FM_CFG_RESERVE = true →
              t.fm.moved = some c ∧ t.on Reg.FM_STATUS Fld.FM_STATUS_REMAPPED = true)
          ∧ Frame [Reg.FM_CNTk 1, Reg.FM_CNTk 3, Reg.FM_STATUS, Reg.FM_UNCORR_ADDR_LO, Reg.FM_UNCORR_ADDR_HI] s t)
      ∧ (m.fmOutcome b 0 = 3 → ∃ t, exec (.fmReadComplete a syms ⟨repeats, false⟩) s = .next t ∧ repeated t
          ∧ Counted s t (Reg.FM_CNTk 2) ∧ t.fm.fences = s.fm.fences ∧ Frame [Reg.FM_CNTk 2, Reg.FM_CNTk 3, Reg.FM_STATUS] s t))
  ∧ (∀ (s : State) (syms : Nat), syms < 3 → s.on Reg.FM_STATUS Fld.FM_STATUS_READY = true →
      s.fld Reg.FM_SCRUB_CTRL Fld.FM_SCRUB_CTRL_PERIOD_H ≠ 0 →
      ∃ t, exec (.fmScrubRead syms) s = .next t
        ∧ t.fm.scrub = (if s.fmTop / 64 ≤ s.fm.scrub + 1 then 0 else s.fm.scrub + 1)
        ∧ (s.fmTop / 64 ≤ s.fm.scrub + 1 → Counted s t (Reg.FM_CNTk 4))
        ∧ Frame [Reg.FM_SCRUB_POS, Reg.FM_STATUS, Reg.FM_CNTk 0, Reg.FM_CNTk 1, Reg.FM_CNTk 3, Reg.FM_CNTk 4, Reg.FM_UNCORR_ADDR_LO,
            Reg.FM_UNCORR_ADDR_HI] s t)
  ∧ (∀ (s : State) (c : Nat), c < 8 → c ∈ s.fm.fencing →
      ∃ t, exec (.fmFenceComplete c) s = .next t ∧ t.bit Reg.FM_STATUS (8 + c) = true ∧ c ∉ t.fm.fencing ∧ t.fm.fences = s.fm.fences
        ∧ Frame [Reg.FM_STATUS, Reg.MGT_LOG_SEQ] s t)
  ∧ (∀ (s : State), s.on Reg.GLB_IMG_STATUS Fld.GLB_IMG_STATUS_APPLIED = true → s.on Reg.FM_CFG Fld.FM_CFG_POPULATED = true →
      s.on Reg.FM_STATUS Fld.FM_STATUS_TRAINED = false →
      ∃ t, exec (.fmStart 0) s = .next t ∧ t.on Reg.FM_STATUS Fld.FM_STATUS_TRAINED = true ∧ t.on Reg.FM_STATUS Fld.FM_STATUS_READY = true
        ∧ t.fld Reg.FM_CAPACITY Fld.FM_CAPACITY_MIB = s.fmImageMib ∧ t.fm.fences = s.fm.fences
        ∧ SameRegsBut [Reg.FM_STATUS, Reg.FM_CAPACITY] s t)
  ∧ (∀ (s : State) (c : Nat), c < 8 → exec (.fmRetrain c true) s = .next
      (if s.on Reg.FM_STATUS Fld.FM_STATUS_TRAINED && !s.fm.fences.contains c && decide (s.fm.pauses.get c ≤ s.now) then
        
          let ms := max 10 (s.fld Reg.FM_SCRUB_CTRL Fld.FM_SCRUB_CTRL_RETRAIN_MS)
          { s with fm := { s.fm with pauses := Table.set s.fm.pauses c (s.now + ms * 1000000) } }
        else s))

/-- A write of the host through BAR2 changes the bytes it names and no other, in frame memory that is healthy there; a read of bytes returns them. A write
of FM_INJECT with ARM arms the injection, one with DISARM takes it back, and the next write of the target block stores symbols in error. It rests on
choices and readings of the model: notes/assumptions/ 99, 100, 132. -/
def Obligations.FrameMemoryAccess : Prop :=
  (∀ (s : State) (a : Nat) (bytes : List Byte), bytes ≠ [] → bytes.length ≤ 4096 → s.fnServes 0 = true → a + bytes.length ≤ s.bar2Size →
      s.fmGranted .pf0 a bytes.length true = true → s.inBoot = false → a + bytes.length ≤ s.fmEnd → s.bit Reg.FM_INJECT 31 = false →
      (∀ k, a / 64 ≤ k → k ≤ (a + bytes.length - 1) / 64 → s.fmOutcome k 0 = 0) →
      ∃ t, exec (.bar2Write a bytes false) s = .next t
        ∧ (∀ i, i < bytes.length → t.fmMem.getD 0 (a + i) = bytes.getD i 0)
        ∧ (∀ x, x < a ∨ a + bytes.length ≤ x → t.fmMem.getD 0 x = s.fmMem.getD 0 x)
        ∧ SameRegsBut [Reg.FM_CNTk 3, Reg.FM_STATUS] s t)
  ∧ (∀ (s : State) (a n : Nat), 0 < n → n ≤ 4096 → s.fnServes 0 = true → a + n ≤ s.bar2Size → s.fmGranted .pf0 a n false = true →
      s.inBoot = false → a + n ≤ s.fmEnd → (∀ k, a / 64 ≤ k → k ≤ (a + n - 1) / 64 → s.fmOutcome k 0 = 0) →
      ∃ t, exec (.bar2Read a n) s = .next t ∧ t.out = s.out ++ [.completion 0 0 false (memRead s.fmMem 0 a n)]
        ∧ Frame [Reg.FM_CNTk 3, Reg.FM_STATUS] s t)
  ∧ (∀ (s : State) (i : Initiator) (data : Word), s.writeOpen i Reg.FM_INJECT → bitB data.toNat 31 = true → bitB data.toNat 30 = false →
      ∃ t, exec (.fmInject i data) s = .next t ∧ t.reg Reg.FM_INJECT = data ∧ Frame [Reg.FM_INJECT] s t)
  ∧ (∀ (s : State) (i : Initiator) (data : Word), s.writeOpen i Reg.FM_INJECT → bitB data.toNat 30 = true →
      ∃ t, exec (.fmInjectDisarm i data) s = .next t ∧ t.reg Reg.FM_INJECT = BitVec.ofNat 32 (data.toNat % 2 ^ 30) ∧ Frame [Reg.FM_INJECT] s t)
  ∧ (∀ (s : State) (b : Nat) (bytes : List Nat), bytes.length = 64 → s.fmDead (64 * b) = false → s.fmMet b < 2 → s.bit Reg.FM_INJECT 31 = true →
      s.fld Reg.FM_INJECT Fld.FM_INJECT_ADDR = b →
      let t := s.fmWritePart (64 * b) bytes
      t.fm.flaw.get b = (if s.fld Reg.FM_INJECT Fld.FM_INJECT_NSYM = 2 then 2 else 1) ∧ t.bit Reg.FM_INJECT 31 = false)

/-- Image verification. Without a good boot directory both slots fail with code 1, the failures are logged, and the device stays in boot state. The
preferred slot is taken where it passes every check, else the other one, with FALLBACK; an image that passed shows VERIFIED, its slot, its version,
its recipe count, and the role bits it declares. An image whose role the strap does not confirm sets ROLE_MISMATCH and is not applied; an image whose
role it confirms is applied. It rests on choices and readings of the model: notes/assumptions/ 6, 9, 10, 11, 12, 40. -/
def Obligations.ImageVerification : Prop :=
  (∀ (s : State) (ea eb : Nat), ea < 8 → eb < 8 → s.boot.verified = false → s.inReset = false → s.boot.resetDue = none →
      s.bootDir = none →
      ∃ t, exec (.imageVerify ea eb) s = .next t ∧ t.boot.verified = true ∧ t.twinState = s.twinState
        ∧ t.fld Reg.GLB_IMG_STATUS Fld.GLB_IMG_STATUS_FAIL_A = 1 ∧ t.fld Reg.GLB_IMG_STATUS Fld.GLB_IMG_STATUS_FAIL_B = 1
        ∧ t.on Reg.GLB_IMG_STATUS Fld.GLB_IMG_STATUS_VERIFIED = s.on Reg.GLB_IMG_STATUS Fld.GLB_IMG_STATUS_VERIFIED
        ∧ t.on Reg.GLB_IMG_STATUS Fld.GLB_IMG_STATUS_APPLIED = s.on Reg.GLB_IMG_STATUS Fld.GLB_IMG_STATUS_APPLIED
        ∧ t.reg Reg.MGT_LOG_SEQ = s.reg Reg.MGT_LOG_SEQ + 2 ∧ Frame [Reg.GLB_IMG_STATUS, Reg.MGT_LOG_SEQ] s t)
  ∧ (∀ (s : State) (ea eb n : Nat) (d : List Nat), ea < 8 → eb < 8 → s.boot.verified = false → s.inReset = false → s.boot.resetDue = none →
      s.bootDir = some (n, d) →
      let p := s.prefSlot 0
      let err (k : Nat) : Nat := if k = 0 then ea else eb
      let v := { s with boot := { s.boot with verified := true } }
      (s.imageCode p (err p) = 0 ∧ exec (.imageVerify ea eb) s = .next ((v.showImage p (s.imageAt d p)).roleCheck (s.imageAt d p)))
      ∨ (s.imageCode p (err p) ≠ 0 ∧ s.imageCode (1 - p) (err (1 - p)) = 0 ∧ ∃ w : State, w.on Reg.GLB_IMG_STATUS Fld.GLB_IMG_STATUS_FALLBACK = true
          ∧ Frame [Reg.GLB_IMG_STATUS] v w
          ∧ exec (.imageVerify ea eb) s = .next ((w.showImage (1 - p) (s.imageAt d (1 - p))).roleCheck (s.imageAt d (1 - p))))
      ∨ (s.imageCode p (err p) ≠ 0 ∧ s.imageCode (1 - p) (err (1 - p)) ≠ 0 ∧ ∃ t, exec (.imageVerify ea eb) s = .next t
          ∧ Frame [Reg.GLB_IMG_STATUS, Reg.MGT_LOG_SEQ] s t))
  ∧ (∀ (s : State) (slot : Nat) (b : List Nat), slot < 2 →
      let t := s.showImage slot b
      t.on Reg.GLB_IMG_STATUS Fld.GLB_IMG_STATUS_VERIFIED = true ∧ t.fld Reg.GLB_IMG_STATUS Fld.GLB_IMG_STATUS_SLOT = slot
        ∧ t.reg Reg.GLB_IMG_VERSION = BitVec.ofNat 32 (numAt b 0x18 4)
        ∧ t.fld Reg.GLB_IMG_STATUS Fld.GLB_IMG_STATUS_RECIPE_COUNT = numAt b 0x10 1 % 16
        ∧ t.fld Reg.GLB_ROLE Fld.GLB_ROLE_IMAGE_ROLE = numAt b 0x0D 1 % 4
        ∧ t.on Reg.GLB_ROLE Fld.GLB_ROLE_PAIRED = bitB (numAt b 0x0F 1) 0
        ∧ (∀ k, k < 8 → t.reg (Reg.GLB_IMG_DIGESTk k) = BitVec.ofNat 32 (numAt (digest (signedPart b)) (4 * k) 4))
        ∧ Frame ([Reg.GLB_IMG_STATUS, Reg.GLB_IMG_VERSION, Reg.GLB_ROLE] ++ (List.range 8).map Reg.GLB_IMG_DIGESTk) s t)
  ∧ (∀ (s : State) (b : List Nat), numAt b 0x0D 1 % 4 ≠ s.fld Reg.GLB_ROLE Fld.GLB_ROLE_STRAP_ROLE →
      let t := s.roleCheck b
      t.on Reg.GLB_ROLE Fld.GLB_ROLE_ROLE_MISMATCH = true ∧ t.reg Reg.MGT_LOG_SEQ = s.reg Reg.MGT_LOG_SEQ + 1 ∧ t.twinState = s.twinState
        ∧ Frame [Reg.GLB_ROLE, Reg.MGT_LOG_SEQ] s t)
  ∧ (∀ (s : State) (b : List Nat), numAt b 0x0D 1 % 4 = s.fld Reg.GLB_ROLE Fld.GLB_ROLE_STRAP_ROLE → s.fld Reg.GLB_ROLE Fld.GLB_ROLE_STRAP_ROLE ≠ 3 →
      s.roleCheck b = s.applyImage b)

/-- Start-up after the image. MC0 runs the firmware slot that passes, or, where neither does, the recovery service, in boot state; MC1 stays in reset
where the image names no firmware for it. The endpoint becomes ready once both checks have ended. SENSOR_GO sets when its conditions hold, or late
after 500 ms. Before an image is applied a read of the expansion ROM window at 0xF0000 returns the table of the boot ROM, and below it the option code
in flash. It rests on choices and readings of the model: notes/assumptions/ 12, 13, 15, 24, 69, 84, 140. -/
def Obligations.StartUp : Prop :=
  (∀ (s : State) (ea eb : Bool), s.boot.verified = true → s.boot.mc0Done = false → s.inReset = false → s.boot.resetDue = none → s.inBoot = true →
      (∀ g, g < 3 → s.grpState g = 0) →
      ∃ t, exec (.mc0FirmwareCheck ea eb) s = .next t ∧ t.boot.mc0Done = true ∧ t.twinState = 0
        ∧ ((s.fwSlot 1 ea eb = none ∧ t.on Reg.MGT_STATUS Fld.MGT_STATUS_RECOVERY = true ∧ t.mgt.mc0Run = s.mgt.mc0Run
              ∧ t.reg Reg.MGT_LOG_SEQ = s.reg Reg.MGT_LOG_SEQ + 1
              ∧ ((∀ n, n < 16 → (s.port.get n).running = false) →
                  Frame ([Reg.MGT_STATUS, Reg.MGT_LOG_SEQ] ++ (List.range 16).map Reg.SPn_STATUS) s t))
          ∨ ∃ k, s.fwSlot 1 ea eb = some k ∧ t.fld Reg.MGT_STATUS Fld.MGT_STATUS_MC0_SLOT = k ∧ t.mgt.mc0Run = true
              ∧ SameRegsBut [Reg.MGT_STATUS] s t))
  ∧ (∀ (s : State) (ea eb : Bool), s.on Reg.GLB_IMG_STATUS Fld.GLB_IMG_STATUS_APPLIED = true → s.mgt.mc0Run = true → s.boot.mc1Done = false →
      ∃ t, exec (.mc1FirmwareCheck ea eb) s = .next t ∧ t.boot.mc1Done = true
        ∧ (s.image.mc1Digest.all (fun x => x == 0) = true → Frame [] s t)
        ∧ (s.image.mc1Digest.all (fun x => x == 0) = false →
            (s.fwSlot 2 ea eb = none ∧ t.on Reg.MGT_STATUS Fld.MGT_STATUS_MC1_FAIL = true
              ∧ t.on Reg.MGT_STATUS Fld.MGT_STATUS_MC1_RUN = s.on Reg.MGT_STATUS Fld.MGT_STATUS_MC1_RUN
              ∧ t.reg Reg.MGT_LOG_SEQ = s.reg Reg.MGT_LOG_SEQ + 1 ∧ Frame [Reg.MGT_STATUS, Reg.MGT_LOG_SEQ] s t)
            ∨ ∃ k, s.fwSlot 2 ea eb = some k ∧ t.on Reg.MGT_STATUS Fld.MGT_STATUS_MC1_RUN = true
              ∧ t.fld Reg.MGT_STATUS Fld.MGT_STATUS_MC1_SLOT = k ∧ SameRegsBut [Reg.MGT_STATUS] s t))
  ∧ (∀ (s : State), s.boot.verified = true → s.boot.mc0Done = true → s.pcie.perst = false → s.ready = false →
      ∃ t, exec .endpointReady s = .next t ∧ t.ready = true ∧ t.on Reg.GLB_PCIE_STATUS Fld.GLB_PCIE_STATUS_READY = true
        ∧ Frame [Reg.GLB_PCIE_STATUS] s t)
  ∧ (∀ (s : State), s.on Reg.GLB_IMG_STATUS Fld.GLB_IMG_STATUS_APPLIED = true → s.inBoot = false →
      s.on Reg.PCR_STATUS Fld.PCR_STATUS_SENSOR_GO = false → s.on Reg.FM_STATUS Fld.FM_STATUS_DEGRADED = false →
      s.mayGo = true ∨ s.boot.appliedAt + 500000000 ≤ s.now →
      ∃ t, exec .sensorGo s = .next t ∧ t.on Reg.PCR_STATUS Fld.PCR_STATUS_SENSOR_GO = true
        ∧ t.on Reg.PCR_STATUS Fld.PCR_STATUS_GO_LATE = (s.on Reg.PCR_STATUS Fld.PCR_STATUS_GO_LATE || !s.mayGo)
        ∧ Frame [Reg.PCR_STATUS] s t)
  ∧ (∀ (s : State), s.fnServes 0 = true → bitB (s.cfgReg 0 0x30).toNat 0 = true →
      s.on Reg.GLB_IMG_STATUS Fld.GLB_IMG_STATUS_APPLIED = false →
      exec (.expansionRomRead 0xF0000 4) s = .next (s.emit (.completion 0 0 false [0x4D, 0x5A, 0x52, 0x44])))
  ∧ (∀ (s : State) (a n : Nat), s.fnServes 0 = true → bitB (s.cfgReg 0 0x30).toNat 0 = true → 1 ≤ n → n ≤ 4096 → a + n ≤ 0xF0000 →
      exec (.expansionRomRead a n) s = .next (s.emit (.completion 0 0 false (memRead s.flash 0xFF a n))))

/-- Resets. Power-on reset gives every register its reset value, but for those that show the straps and the inputs, and clears the event log; a warm reset
that is due keeps the registers of domain POR and the event log, and shows and counts its cause; both leave the device in boot state with frame memory
empty, and keep flash, the one-time memory and the waiting commands. RST_N low holds the device in reset until it rises. A write of PCR_RESET starts a
warm reset, an installation reset reaches the other devices first, a broadcast of one starts one here; a request made while one is due merges into it.
PERST_N resets the endpoint. It rests on choices and readings of the model: notes/assumptions/ 7, 8, 47, 83. -/
def Obligations.Resets : Prop :=
  (∀ (s : State) (role twin : Nat) (b33 t33 : Bool), role < 4 → twin < 2 →
      ∃ t, exec (.powerOnReset role twin b33 t33) s = .next t
        ∧ (∀ off, off ∉ [Reg.GLB_ROLE, Reg.TW8_CFG, Reg.MGT_OTP_KEYS, Reg.TB_PIN_LEVEL, Reg.TW_BANK] → t.reg off = resetWord off)
        ∧ t.fld Reg.GLB_ROLE Fld.GLB_ROLE_STRAP_ROLE = role ∧ t.fld Reg.GLB_ROLE Fld.GLB_ROLE_TWIN_ID = twin
        ∧ t.inBoot = true ∧ t.fmMem = [] ∧ t.logRing = [] ∧ t.invar = 0 ∧ t.flash = s.flash ∧ t.otp = s.otp ∧ t.pending = s.pending)
  ∧ (∀ (s : State) (role twin cause : Nat), role < 4 → twin < 2 → cause < 8 → s.boot.resetDue = some cause → s.inReset = false →
      ∃ t, exec (.warmReset role twin) s = .next t
        ∧ (∀ off, off ∉ [Reg.GLB_ROLE, Reg.TW8_CFG, Reg.MGT_OTP_KEYS, Reg.TB_PIN_LEVEL, Reg.PCR_CNTk 5, Reg.PCR_RESET_CAUSE] →
            t.reg off = match findReg off with | some r => if r.domain = .por then s.reg off else resetWord off | none => resetWord off)
        ∧ t.fld Reg.GLB_ROLE Fld.GLB_ROLE_STRAP_ROLE = role ∧ t.fld Reg.PCR_RESET_CAUSE Fld.PCR_RESET_CAUSE_CAUSE = cause
        ∧ Counted s t (Reg.PCR_CNTk 5) ∧ t.boot.resetDue = none ∧ t.inBoot = true ∧ t.fmMem = [] ∧ t.logRing = s.logRing
        ∧ t.invar = s.invar ∧ t.flash = s.flash ∧ t.otp = s.otp ∧ t.pending = s.pending)
  ∧ (∀ (s : State), s.inReset = false →
      (∃ t, exec (.rstNAssert true) s = .next t ∧ t.inReset = true ∧ t.inBoot = true ∧ t.boot.resetDue = some (s.boot.resetDue.getD 1)
        ∧ t.fmMem = [] ∧ t.logRing = s.logRing)
      ∧ ∃ t, exec .vddAonFall s = .next t ∧ t.inReset = true ∧ t.inBoot = true ∧ t.fmMem = [] ∧ t.logRing = [])
  ∧ (∀ (s : State) (due : Option Nat), s.boot.off = false → s.boot.rstLow = true → s.boot.resetDue = due →
      ∃ t, exec (.rstNAssert false) s = .next t ∧ t.inReset = false ∧ t.boot.resetDue = due ∧ Frame [] s t)
  ∧ (∀ (s : State) (i : Initiator) (data : Word), s.writeOpen i Reg.PCR_RESET → bitB data.toNat 31 = true → data.toNat % 4 = 1 →
      ∃ t, exec (.pcrResetWarm i data) s = .next t ∧ t.boot.resetDue = some (s.boot.resetDue.getD 2) ∧ Frame [] s t)
  ∧ (∀ (s : State) (i : Initiator) (data : Word), s.writeOpen i Reg.PCR_RESET → bitB data.toNat 31 = true → data.toNat % 4 = 2 →
      s.expertPend = [] → exec (.installationReset i data) s = .next ((s.sendBcast [2 ^ 31, 0, 0, 0]).wantReset 3)
        ∧ ((s.sendBcast [2 ^ 31, 0, 0, 0]).wantReset 3).boot.resetDue = some (s.boot.resetDue.getD 3))
  ∧ (∀ (s u : State) (g id : Nat) (p : LinkPkt), g < 3 → s.takeRx g 6 4 = (u, some p) → p.payload = [id, 2 ^ 31, 0, 0, 0] → u.boot.resetDue = none →
      (id ∈ u.sync.bcastSeen → exec (.bcastReceive g) s = .next u)
      ∧ (id ∉ u.sync.bcastSeen → ∃ t, exec (.bcastReceive g) s = .next t ∧ t.boot.resetDue = some 4 ∧ id ∈ t.sync.bcastSeen ∧ Frame [] u t))
  ∧ (∀ (s : State), s.pcie.perst = false → s.boot.resetDue = none →
      ∃ t, exec .perstN s = .next t ∧ t.pcie.perst = true ∧ t.on Reg.GLB_PCIE_STATUS Fld.GLB_PCIE_STATUS_HOT_RESET_EV = true
        ∧ (∀ f, f < 4 → t.memEnable f = false ∧ t.busMaster f = false))
  ∧ (∀ (s : State), s.pcie.perst = true →
      ∃ t, exec .perstNRelease s = .next t ∧ t.pcie.perst = false ∧ t.pcie.perstAt = s.now ∧ Frame [] s t)

/-- What reset leaves where the spec gives the value: the device identification, the boot state, the default Lodge classes, the default scrub period and
retraining interval, frame memory not ready, every port disabled, no source pending or masked, and no command waiting. It rests on choices and
readings of the model: notes/assumptions/ 3, 6, 7, 107, 112. -/
def Obligations.AfterReset : Prop :=
  let s := State.reset
  s.reg Reg.GLB_ID = 0x000960B1 ∧ s.inBoot = true ∧ s.inReset = false ∧ s.pending = [] ∧ s.mirrorQ = [] ∧ s.ready = false
    ∧ s.reg (Reg.FC_CLASS_LOw 0) = 0 ∧ s.reg (Reg.FC_CLASS_LOw 1) = 0x55555555 ∧ s.reg (Reg.FC_CLASS_HIw 0) = 0x55555555
    ∧ s.reg (Reg.FC_CLASS_HIw 1) = 0x1AA5
    ∧ s.fld Reg.FM_SCRUB_CTRL Fld.FM_SCRUB_CTRL_PERIOD_H = 24 ∧ s.fld Reg.FM_SCRUB_CTRL Fld.FM_SCRUB_CTRL_RETRAIN_MS = 100
    ∧ s.on Reg.FM_STATUS Fld.FM_STATUS_READY = false ∧ (∀ p, p < 16 → s.on (Reg.SPn_CTRL p) Fld.SPn_CTRL_EN = false)
    ∧ (∀ k, k < 16 → s.reg (Reg.IC_PENDk k) = 0 ∧ s.reg (Reg.IC_MASKk k) = 0)

/-- Invar. A read of TB_TIME_LO returns the low half and latches the high half for its initiator. A group in service sends requests and answers them with
the arrival time. A follower whose only upstream is group g takes from the four timestamps the hop delay and its offset: it shows the delay, its
upstream and hop count, locks after 64 exchanges below 1 ns, and steps Invar only when an offset is above 1 µs, which it flags and signals. A follower
with no upstream enters holdover and keeps counting. It rests on choices and readings of the model: notes/assumptions/ 1, 74, 138. -/
def Obligations.InvarTime : Prop :=
  (∀ (s : State) (i : Initiator) (init : Nat), init < 16 → s.readOpen i Reg.TB_TIME_LO →
      exec (.timeLoRead i init) s = .next
        ({ s with sync := { s.sync with latch := s.sync.latch.set (latchKey i init) (s.invar / 2 ^ 32 % 2 ^ 32) } }.emit
          (.readData i (s.invar % 2 ^ 32))))
  ∧ (∀ (s : State) (g sub : Nat), g < 3 → sub < 16 → s.inServiceGroup g = true →
      ∃ t, exec (.timeExchangeTick g sub) s = .next t ∧ t.sync.sent.get g = some (s.sync.seq.get g, (s.invar * 16 + sub) % 2 ^ 48)
        ∧ t.sync.seq.get g = (s.sync.seq.get g + 1) % 256 ∧ t.out.length = s.out.length + 1 ∧ Frame [] s t)
  ∧ (∀ (s : State) (g n flags t1 sub : Nat), g < 3 → n < 256 → flags < 256 → t1 < 2 ^ 48 → sub < 16 → s.inServiceGroup g = true →
      ∃ t, exec (.txqReceive g n flags t1 sub) s = .next t
        ∧ t.out = s.out ++ [.ordered g 0x2F ([n, t.syncFlags] ++ leBytes 6 (s.invar * 16 + sub) ++ leBytes 6 (s.invar * 16 + sub))]
        ∧ Frame [] s t)
  ∧ (∀ (s : State) (g n flags t1 t2 t3 sub : Nat), g < 3 → n < 256 → flags < 256 → t2 < 2 ^ 48 → t3 < 2 ^ 48 → sub < 16 →
      s.sync.sent.get g = some (n, t1) → s.inServiceGroup g = true →
      (∀ h, h < 3 → h ≠ g → (s.inServiceGroup h || s.grpState h == 12 || s.grpState h == 13) = false) → s.isRoot = false → flags % 16 < 15 →
      let d (a b : Nat) : Int := signed 48 (unsigned 48 ((a : Int) - b))
      let hop := (d t2 t1 + d (s.stamp sub) t3) * 125 + 4 * signed 16 (s.fld (Reg.TB_HOPg_CFG g) Fld.TB_HOPg_CFG_ASYM)
      let off := d t2 t1 * 250 - hop
      ∃ t, exec (.txrReceive g n flags t3 t2 sub) s = .next t
        ∧ t.fld (Reg.TB_HOPg_CFG g) Fld.TB_HOPg_CFG_DELAY = unsigned 16 (hop / 250)
        ∧ t.fld Reg.TB_SYNC_STATUS Fld.TB_SYNC_STATUS_UPSTREAM = g ∧ t.fld Reg.TB_SYNC_STATUS Fld.TB_SYNC_STATUS_HOPS = flags % 16 + 1
        ∧ t.on Reg.TB_SYNC_STATUS Fld.TB_SYNC_STATUS_HOLDOVER = false
        ∧ t.sync.good = (if off.natAbs < 4000 then min 64 (s.sync.good + 1) else 0)
        ∧ (t.sync.good = 64 → t.on Reg.TB_SYNC_STATUS Fld.TB_SYNC_STATUS_LOCKED = true)
        ∧ (s.sync.set = true → off.natAbs ≤ 4000000 → t.invar = s.invar)
        ∧ (s.sync.set = true → 4000000 < off.natAbs → t.on Reg.TB_STATUS Fld.TB_STATUS_TIME_STEP = true
            ∧ t.lodge.raised = s.lodge.raised ++ [⟨48, 0, false⟩])
        ∧ Frame [Reg.TB_HOPg_CFG g, Reg.TB_SYNC_STATUS, Reg.TB_STATUS] s t)
  ∧ (∀ (s : State), s.isRoot = false → s.inBoot = false → s.pickUpstream = none → s.on Reg.TB_SYNC_STATUS Fld.TB_SYNC_STATUS_HOLDOVER = false →
      ∃ t, exec .holdoverEnter s = .next t ∧ t.on Reg.TB_SYNC_STATUS Fld.TB_SYNC_STATUS_HOLDOVER = true
        ∧ t.on Reg.TB_SYNC_STATUS Fld.TB_SYNC_STATUS_LOCKED = false ∧ t.fld Reg.TB_SYNC_STATUS Fld.TB_SYNC_STATUS_HOPS = 15
        ∧ t.sync.rate = s.sync.rate ∧ t.invar = s.invar ∧ t.lodge.raised = s.lodge.raised ++ [⟨48, 0, false⟩] ∧ Frame [Reg.TB_SYNC_STATUS] s t)

/-- Strobe generators. A running generator that no other is chained to takes an event at each multiple of its pitch (TIME), at one Invar has just counted
past too, or at its next grid point (ENC): its phase counter advances, a pulse is decided DELAY later and WIDTH long where the phase's bit is 1, and
the grid point advances by the pitch. A software event does the same for each generator whose bit is 1. A decided pulse starts and ends at its times;
a pending stop takes effect with the last. A start sets the phase to 0 and the run bit; a stop waits for decided pulses, and wins over a start in the
same cycle, be it before or after. It rests on choices and readings of the model: notes/assumptions/ 76. -/
def Obligations.Strobes : Prop :=
  (∀ (s : State) (i : Nat), i < 32 → s.genSrc i = 3 → s.invar % max 16 (s.genPitch i) ≤ s.sync.skip →
      (s.gen.get i).lastT ≠ some (s.invar - s.invar % max 16 (s.genPitch i)) → s.genTakes i = true → (s.gen.get i).stopDue = false → (∀ j, j < 32 → ¬(s.genSrc j = 4 ∧ s.genIdx j = i)) → (s.gen.get i).pulses = [] →
      let c := Reg.TB_STBi_CFG i
      let start := s.invar - s.invar % max 16 (s.genPitch i) + s.fld (Reg.TB_STBi_DELAY i) Fld.TB_STBi_DELAY_DELAY
      ∃ t, exec (.strobeTimeEvent i) s = .next t
        ∧ (t.gen.get i).phase = ((s.gen.get i).phase + 1) % (s.fld c Fld.TB_STBi_CFG_NPH + 1)
        ∧ (t.gen.get i).pulses = (if bitB (s.fld c Fld.TB_STBi_CFG_PHMASK) (s.gen.get i).phase then
            [(start, start + max 1 (s.fld (Reg.TB_STBi_WIDTH i) Fld.TB_STBi_WIDTH_WIDTH))] else [])
        ∧ (∀ j, j ≠ i → t.gen.get j = s.gen.get j) ∧ Frame [] s t)
  ∧ (∀ (s : State) (i : Nat), i < 32 → s.genSrc i = 2 → s.genIdx i < 2 → s.genTakes i = true → (s.gen.get i).stopDue = false →
      0 ≤ diff38 (s.p64 (s.genIdx i)) (s.gen.get i).grid → diff38 (s.gen.get i).grid (s.p64 (s.genIdx i)) ≤ 0 →
      (∀ j, j < 32 → ¬(s.genSrc j = 4 ∧ s.genIdx j = i)) → (s.gen.get i).pulses = [] →
      let start := s.invar + s.fld (Reg.TB_STBi_DELAY i) Fld.TB_STBi_DELAY_DELAY
      ∃ t, exec (.strobeEncEvent i) s = .next t ∧ (t.gen.get i).grid = (s.gen.get i).grid + (max 1 (s.genPitch i) : Nat)
        ∧ (t.gen.get i).pulses = (if bitB (s.fld (Reg.TB_STBi_CFG i) Fld.TB_STBi_CFG_PHMASK) (s.gen.get i).phase then
            [(start, start + max 1 (s.fld (Reg.TB_STBi_WIDTH i) Fld.TB_STBi_WIDTH_WIDTH))] else [])
        ∧ (∀ j, j ≠ i → t.gen.get j = s.gen.get j) ∧ Frame [] s t)
  ∧ (∀ (s : State) (i : Initiator) (data : Word), s.writeOpen i Reg.TB_STB_SW → (∀ j, j < 32 → s.genSrc j ≠ 4) →
      ∃ t, exec (.stbSw i data) s = .next t
        ∧ (∀ j, j < 32 → (t.gen.get j).phase = if bitB data.toNat j && s.genTakes j && !(s.gen.get j).stopDue then
            ((s.gen.get j).phase + 1) % (s.fld (Reg.TB_STBi_CFG j) Fld.TB_STBi_CFG_NPH + 1) else (s.gen.get j).phase)
        ∧ Frame [Reg.TB_STB_OVR_CNT, Reg.TB_STATUS] s t)
  ∧ (∀ (s : State) (i : Nat) (p : Nat × Nat) (rest : List (Nat × Nat)), i < 32 → (s.gen.get i).pulses = p :: rest → (s.gen.get i).high = false →
      p.1 ≤ s.invar → s.drivesStrobe i = true → (∀ n, n < 16 → (s.port.get n).running = false) →
      ∃ t, exec (.strobePulseStart i) s = .next t ∧ (t.gen.get i).high = true ∧ (t.gen.get i).pulses = p :: rest
        ∧ t.out = s.out ++ [.pin "STB_OUT" i (b2n (!s.on (Reg.TB_STBi_CFG i) Fld.TB_STBi_CFG_POL))] ∧ Frame [] s t)
  ∧ (∀ (s : State) (i : Nat) (p : Nat × Nat) (rest : List (Nat × Nat)), i < 32 → (s.gen.get i).pulses = p :: rest → (s.gen.get i).high = true →
      p.2 ≤ s.invar → s.drivesStrobe i = true →
      ∃ t, exec (.strobePulseEnd i) s = .next t ∧ (t.gen.get i).high = false ∧ (t.gen.get i).pulses = rest
        ∧ t.out = s.out ++ [.pin "STB_OUT" i (b2n (s.on (Reg.TB_STBi_CFG i) Fld.TB_STBi_CFG_POL))]
        ∧ t.bit Reg.TB_STB_RUN i = (s.bit Reg.TB_STB_RUN i && !((s.gen.get i).stopDue && rest.isEmpty)) ∧ Frame [Reg.TB_STB_RUN] s t)
  ∧ (∀ (s : State) (i : Initiator) (data stop : Word), s.writeOpen i Reg.TB_STB_START →
      ∃ t, exec (.stbStart i data stop) s = .next t
        ∧ (∀ j, j < 32 → (s.gen.get j).stopAt = some s.now → t.bit Reg.TB_STB_RUN j = true → s.bit Reg.TB_STB_RUN j = true)
        ∧ (∀ j, j < 32 → bitB stop.toNat j = false → (s.gen.get j).stopAt ≠ some s.now → t.bit Reg.TB_STB_RUN j = (s.bit Reg.TB_STB_RUN j || bitB data.toNat j)
            ∧ (bitB data.toNat j = true → (t.gen.get j).phase = 0 ∧ (t.gen.get j).stopDue = false))
        ∧ (∀ j, j < 32 → bitB stop.toNat j = true → (s.gen.get j).pulses = [] → t.bit Reg.TB_STB_RUN j = false)
        ∧ Frame [Reg.TB_STB_RUN] s t)
  ∧ (∀ (s : State) (i : Initiator) (data : Word), s.writeOpen i Reg.TB_STB_STOP →
      ∃ t, exec (.stbStop i data) s = .next t
        ∧ (∀ j, j < 32 → t.bit Reg.TB_STB_RUN j
            = (s.bit Reg.TB_STB_RUN j && !(bitB data.toNat j && decide ((s.gen.get j).pulses = []))))
        ∧ (∀ j, j < 32 → bitB data.toNat j = true → s.bit Reg.TB_STB_RUN j = true → (s.gen.get j).pulses ≠ [] → (t.gen.get j).stopDue = true)
        ∧ Frame [Reg.TB_STB_RUN] s t)

/-- Trigger and encoder inputs. With FILT 0 a new level at a trigger pin shows in TB_PIN_LEVEL after POL; with a filter the pin's level alone is noted,
and the filtered level takes it with the FILT-th sample in a row that differs. In MODE 0 a transition of one input counts one step in the direction
that the other gives, and ends STOPPED; a change of both leaves the position, counts an error and flags it. With no count for STOP_US the velocity is
0 and STOPPED sets. A remote encoder takes the position and velocity of an ENC message. It rests on choices and readings of the model:
notes/assumptions/ 76, 137. -/
def Obligations.EncodersAndTriggers : Prop :=
  (∀ (s : State) (i : Nat) (level : Bool), i < 16 → bitB s.trigLevel i = !level → s.fld Reg.GLB_RECIPE_CTRL Fld.GLB_RECIPE_CTRL_CODE_STROBE ≠ i →
      (∀ j, j < 32 → ¬(s.genSrc j = 1 ∧ s.genIdx j = i)) → s.inputTaps i = 0 →
      ∃ t, exec (.trigInChange i level) s = .next t ∧ bitB t.trigLevel i = level
        ∧ t.bit Reg.TB_PIN_LEVEL i = (level != s.on (Reg.TB_TRIGi_CFG i) Fld.TB_TRIGi_CFG_POL) ∧ Frame [Reg.TB_PIN_LEVEL] s t)
  ∧ (∀ (s : State) (i : Nat) (level : Bool), i < 16 → s.inputTaps i ≠ 0 →
      exec (.trigInChange i level) s = .next (s.modFilter (fun x => { x with trig := withBit x.trig i level })))
  ∧ (∀ (s : State) (k : Nat) (a b : Bool), k < 2 → s.inputTaps (16 + 2 * k) ≠ 0 →
      exec (.encTransition k a b) s = .next (s.modFilter (fun x => { x with enc := withBit (withBit x.enc (2 * k) a) (2 * k + 1) b })))
  ∧ (∀ (s : State) (i : Nat), i < 16 → s.inputRaw i ≠ s.inputLevel i →
      bitB s.sampleInputs.trigLevel i = (if s.filter.run.get i + 1 < s.inputTaps i then bitB s.trigLevel i else bitB s.filter.trig i)
        ∧ (s.filter.run.get i + 1 < s.inputTaps i → s.sampleInputs.filter.run.get i = s.filter.run.get i + 1))
  ∧ (∀ (s : State) (k : Nat) (a b : Bool), k < 2 → s.inputTaps (16 + 2 * k) = 0 → s.on (Reg.TB_ENCk_CFG k) Fld.TB_ENCk_CFG_SRC = false →
      s.fld (Reg.TB_ENCk_CFG k) Fld.TB_ENCk_CFG_MODE = 0 → (s.bit Reg.TB_PIN_LEVEL (16 + 2 * k) != a) = !(s.bit Reg.TB_PIN_LEVEL (17 + 2 * k) != b) →
      let fwd := if s.bit Reg.TB_PIN_LEVEL (16 + 2 * k) != a then a != b else a == b
      ∃ t, exec (.encTransition k a b) s = .next t
        ∧ t.reg (Reg.TB_ENCk_POS k) = (if fwd != s.on (Reg.TB_ENCk_CFG k) Fld.TB_ENCk_CFG_DIR then s.reg (Reg.TB_ENCk_POS k) + 1
            else s.reg (Reg.TB_ENCk_POS k) - 1)
        ∧ t.bit Reg.TB_STATUS (14 + k) = false ∧ t.bit Reg.TB_PIN_LEVEL (16 + 2 * k) = a ∧ t.bit Reg.TB_PIN_LEVEL (17 + 2 * k) = b
        ∧ ((s.enc.get k).hist = [] → t.reg (Reg.TB_ENCk_VEL k) = 0)
        ∧ Frame [Reg.TB_ENCk_POS k, Reg.TB_ENCk_VEL k, Reg.TB_STATUS, Reg.TB_PIN_LEVEL] s t)
  ∧ (∀ (s : State) (k : Nat) (a b : Bool), k < 2 → s.inputTaps (16 + 2 * k) = 0 → s.on (Reg.TB_ENCk_CFG k) Fld.TB_ENCk_CFG_SRC = false →
      s.bit Reg.TB_PIN_LEVEL (16 + 2 * k) = !a → s.bit Reg.TB_PIN_LEVEL (17 + 2 * k) = !b →
      ∃ t, exec (.encTransition k a b) s = .next t ∧ Counted s t (Reg.TB_ENCk_ERR_CNT k) ∧ t.bit Reg.TB_STATUS (10 + k) = true
        ∧ Frame [Reg.TB_ENCk_ERR_CNT k, Reg.TB_STATUS, Reg.TB_PIN_LEVEL] s t)
  ∧ (∀ (s : State) (k : Nat), k < 2 → s.on (Reg.TB_ENCk_CFG k) Fld.TB_ENCk_CFG_SRC = false → s.bit Reg.TB_STATUS (14 + k) = false →
      (s.enc.get k).last + 1000 * max 1 (s.fld (Reg.TB_ENCk_CFG k) Fld.TB_ENCk_CFG_STOP_US) ≤ s.invar →
      ∃ t, exec (.encStopped k) s = .next t ∧ t.reg (Reg.TB_ENCk_VEL k) = 0 ∧ t.bit Reg.TB_STATUS (14 + k) = true
        ∧ Frame [Reg.TB_ENCk_VEL k, Reg.TB_STATUS] s t)
  ∧ (∀ (s u : State) (g k pos vel lo hi : Nat) (p : LinkPkt), g < 3 → k < 2 → s.takeRx g 6 2 = (u, some p) → p.payload = [k, pos, vel, lo, hi] →
      u.on (Reg.TB_ENCk_CFG k) Fld.TB_ENCk_CFG_SRC = true → u.facesHeadLead g = true →
      ∃ t, exec (.encRemoteReceive g) s = .next t ∧ t.reg (Reg.TB_ENCk_POS k) = BitVec.ofNat 32 pos
        ∧ t.reg (Reg.TB_ENCk_VEL k) = BitVec.ofNat 32 vel ∧ Frame [Reg.TB_ENCk_POS k, Reg.TB_ENCk_VEL k] u t)

/-- Scheduled actions. An ARM at least 2 µs ahead makes the slot ARMED with the registers' time, action and argument; with less lead the slot is MISSED,
which is counted and flagged. A slot that is due performs its action, is DONE and sets its SCHED bit, and one that is not due waits; a snapshot
captures its time, counts, and sets SNAP. A DISARM of a slot that is not due makes it IDLE. It rests on choices and readings of the model:
notes/assumptions/ 33, 75, 139. -/
def Obligations.ScheduledActions : Prop :=
  (∀ (s : State) (i : Initiator) (k : Nat) (data : Word), k < 8 → s.writeOpen i (Reg.TB_SCHEDk_CTRL k) → bitB data.toNat 8 = true →
      bitB data.toNat 9 = false → s.follows = false →
      let time := (s.reg (Reg.TB_SCHEDk_TIME_LO k)).toNat + (s.reg (Reg.TB_SCHEDk_TIME_HI k)).toNat * 2 ^ 32
      ∃ t, exec (.schedArm i k data) s = .next t ∧ t.slot.get k = ⟨time, data.toNat % 16, (s.reg (Reg.TB_SCHEDk_ARG k)).toNat⟩
        ∧ (s.invar + 2000 ≤ time → t.slotState k = 1 ∧ Frame [Reg.TB_SCHEDk_CTRL k] s t)
        ∧ (time < s.invar + 2000 → t.slotState k = 3 ∧ Counted s t Reg.TB_SCHED_MISS_CNT
            ∧ t.on Reg.TB_STATUS Fld.TB_STATUS_SCHED_MISS = true
            ∧ Frame [Reg.TB_SCHEDk_CTRL k, Reg.TB_SCHED_MISS_CNT, Reg.TB_STATUS] s t))
  ∧ (∀ (s : State) (i : Initiator) (k : Nat) (data : Word), k < 8 → s.writeOpen i (Reg.TB_SCHEDk_CTRL k) → bitB data.toNat 9 = true →
      s.slotDue k = false →
      ∃ t, exec (.schedDisarm i k data) s = .next t ∧ t.slotState k = 0 ∧ t.slot.get k = s.slot.get k ∧ Frame [Reg.TB_SCHEDk_CTRL k] s t)
  ∧ (∀ (s : State) (k : Nat), k < 8 →
      (s.slotDue k = false → exec (.schedFire k) s = .next s)
      ∧ (s.slotDue k = true →
          ∃ t, exec (.schedFire k) s = .next t ∧ t.slotState k = 2 ∧ t.bit Reg.TB_STATUS k = true
            ∧ ((s.slot.get k).action = 2 → t.reg Reg.TB_SNAP_TIME_LO = BitVec.ofNat 32 (s.slot.get k).time
                ∧ t.reg Reg.TB_SNAP_SEQ = s.reg Reg.TB_SNAP_SEQ + 1 ∧ t.on Reg.TB_STATUS Fld.TB_STATUS_SNAP = true)
            ∧ ((s.slot.get k).action = 3 → ∀ j, j < 32 → bitB (s.slot.get k).arg j = true → (s.gen.get j).stopAt ≠ some s.now → t.bit Reg.TB_STB_RUN j = true)
            ∧ ((s.slot.get k).action ∉ [2, 3, 4, 5] → Frame [Reg.TB_SCHEDk_CTRL k, Reg.TB_STATUS] s t)))

/-- A DMA channel whose output stream is not bound, on an unpaired device: START on an idle channel with its program in frame memory begins the load and
clears the cursor and the pc, or enters HALTED_BME where the owner may not issue requests; HALT halts a running channel at once between items; RESUME
lets a halted one run; STOP abandons the program in any state; a command without effect in the present state sets CMD_IGN and nothing else. A write of
SEM_ADD adds to the semaphore, up to 0xFFFF. On a HEAD, whose channels are off, START changes nothing. It rests on choices and readings of the model:
notes/assumptions/ 70, 109, 119. -/
def Obligations.ChannelCommands : Prop :=
  (∀ (s : State) (i : Initiator) (c : Nat) (data : Word), c < 32 → s.writeOpen i (Reg.DMA_CHn_CTRL c) → data.toNat % 16 = 1 → s.dmaState c = 0 →
      s.shadowLike = false →
      s.fld Reg.GLB_ROLE Fld.GLB_ROLE_ROLE ≠ 1 → s.on (Reg.DMA_CHn_BIND c) Fld.DMA_CHn_BIND_OS_EN = false → s.on (Reg.DMA_CHn_PROG_CFG c) Fld.DMA_CHn_PROG_CFG_SPACE = true →
      s.progAddr c + s.progBytes c ≤ s.fmEnd →
      ∃ t, exec (.dmaStart i c data) s = .next t ∧ (t.dma.get c).loading = true
        ∧ t.dmaState c = (if s.dmaCan c then 1 else 4) ∧ t.bit Reg.DMA_CH_ACTIVE c = s.dmaCan c
        ∧ t.reg (Reg.DMA_CHn_RING_CURSOR c) = 0 ∧ t.reg (Reg.DMA_CHn_PC c) = 0
        ∧ Frame [Reg.DMA_CHn_STATUS c, Reg.DMA_CH_ACTIVE, Reg.DMA_CH_FAULT, Reg.DMA_CHn_RING_CURSOR c, Reg.DMA_CHn_PC c] s t)
  ∧ (∀ (s : State) (i : Initiator) (c : Nat) (data : Word), c < 32 → s.writeOpen i (Reg.DMA_CHn_CTRL c) → data.toNat % 16 = 2 →
      (s.dmaState c = 1 ∧ s.dmaMidway c = false ∨ s.dmaState c = 2) → (s.reg (Reg.DMA_CHn_CPL_LO c)).toNat % 2 = 0 →
      ∃ t, exec (.dmaHalt i c data) s = .next t ∧ t.dmaState c = 3 ∧ t.on (Reg.DMA_CHn_STATUS c) Fld.DMA_CHn_STATUS_HALT_EV = true
        ∧ (t.dma.get c).pc = (s.dma.get c).pc ∧ Frame [Reg.DMA_CHn_STATUS c, Reg.DMA_CH_ACTIVE, Reg.DMA_CH_FAULT] s t)
  ∧ (∀ (s : State) (i : Initiator) (c : Nat) (data : Word), c < 32 → s.writeOpen i (Reg.DMA_CHn_CTRL c) → data.toNat % 16 = 4 → s.dmaState c = 3 →
      s.on (Reg.DMA_CHn_BIND c) Fld.DMA_CHn_BIND_OS_EN = false → (s.dma.get c).reads = [] →
      ∃ t, exec (.dmaResume i c data) s = .next t ∧ t.dmaState c = 1 ∧ (t.dma.get c).pc = (s.dma.get c).pc
        ∧ (t.dma.get c).done = (s.dma.get c).done ∧ Frame [Reg.DMA_CHn_STATUS c, Reg.DMA_CH_ACTIVE, Reg.DMA_CH_FAULT] s t)
  ∧ (∀ (s : State) (i : Initiator) (c : Nat) (data : Word), c < 32 → s.writeOpen i (Reg.DMA_CHn_CTRL c) → bitB data.toNat 3 = true →
      s.on (Reg.DMA_CHn_BIND c) Fld.DMA_CHn_BIND_OS_EN = false →
      ∃ t, exec (.dmaStop i c data) s = .next t ∧ t.dmaState c = 0 ∧ t.dma.get c = default ∧ t.bit Reg.DMA_CH_ACTIVE c = false
        ∧ Frame [Reg.DMA_CHn_STATUS c, Reg.DMA_CH_ACTIVE, Reg.DMA_CH_FAULT] s t)
  ∧ (∀ (s : State) (i : Initiator) (c : Nat) (data resume : Word), c < 32 → s.writeOpen i (Reg.DMA_CHn_CTRL c) → data.toNat % 16 = 2 →
      resume.toNat % 16 = 4 → s.dmaState c ∈ [0, 5] → s.leadsPair = false →
      ∃ t, exec (.dmaHalt i c data) s = .next t ∧ exec (.dmaResume i c resume) s = .next t ∧ t.dma = s.dma ∧ t.dmaState c = s.dmaState c
        ∧ t.on (Reg.DMA_CHn_STATUS c) Fld.DMA_CHn_STATUS_CMD_IGN = true ∧ Frame [Reg.DMA_CHn_STATUS c] s t)
  ∧ (∀ (s : State) (i : Initiator) (c : Nat) (data : Word), c < 32 → s.writeOpen i (Reg.DMA_CHn_SEM_ADD c) →
      ∃ t, exec (.dmaSemAdd i c data) s = .next t
        ∧ t.reg (Reg.DMA_CHn_SEM c) = BitVec.ofNat 32 (min 0xFFFF ((s.reg (Reg.DMA_CHn_SEM c)).toNat + data.toNat % 2 ^ 16))
        ∧ Frame [Reg.DMA_CHn_SEM c] s t)
  ∧ (∀ (s : State) (i : Initiator) (c : Nat) (data : Word), c < 32 → s.writeOpen i (Reg.DMA_CHn_CTRL c) → data.toNat % 16 = 1 → s.dmaState c = 0 →
      s.fld Reg.GLB_ROLE Fld.GLB_ROLE_ROLE = 1 →
      ∃ t, exec (.dmaStart i c data) s = .next t ∧ t.dma = s.dma ∧ t.dmaState c = 0 ∧ Frame [] s t)

/-- A DMA channel's program, where the instructions involved are valid. Once its host reads are complete the program is in the store and begins at 0. A
LOOP enters its body; at a fifth level it is a fault. A WAIT that is met retires, and takes its amount from a semaphore; one that is not waits, and
retires when it is met. A TIMEOUT lets the channel go on, flags it, or halts it with ERR 12. A SIGNAL writes its value, adds to a semaphore and shows
its code. END makes the channel idle and shows DONE. It rests on choices and readings of the model: notes/assumptions/ 109, 152. -/
def Obligations.ChannelPrograms : Prop :=
  (∀ (s : State) (c : Nat), c < 32 → s.shadowLike = false → s.leadsPair = false → (s.dma.get c).loading = true → s.dmaState c = 1 →
      s.on (Reg.DMA_CHn_PROG_CFG c) Fld.DMA_CHn_PROG_CFG_SPACE = false → (s.dma.get c).reads.all (fun r => r.got.length == r.len) = true →
      (s.dma.get c).haltDue = false →
      let words := wordsOf ((s.dma.get c).reads.flatMap (fun r => r.got))
      8 ≤ words.length → badInstr (words.getD 0 0) = false →
      ∃ t, exec (.dmaProgramLoaded c) s = .next t ∧ (t.dma.get c).prog = words ∧ (t.dma.get c).loading = false ∧ (t.dma.get c).pc = 0
        ∧ t.dmaState c = 1 ∧ Frame [Reg.DMA_CHn_PC c] s t)
  ∧ (∀ (s : State) (c : Nat), s.channelAt c 2 1 → (s.dma.get c).pc + 1 + s.dmaBits c 8 6 ≤ s.dmaLen c →
      ∃ t, exec (.dmaLoop c) s = .next t ∧ (t.dma.get c).pc = (s.dma.get c).pc + 1 ∧ t.dmaState c = 1
        ∧ (t.dma.get c).loops = [⟨(s.dma.get c).pc + 1, (s.dma.get c).pc + 1 + s.dmaBits c 8 6, s.dmaWord c 1, 0, signed 32 (s.dmaWord c 2),
            signed 32 (s.dmaWord c 3)⟩]
        ∧ Frame [Reg.DMA_CHn_PC c] s t)
  ∧ (∀ (s : State) (c : Nat), c < 32 → s.shadowLike = false → (s.dma.get c).loading = false → s.dmaOp c = 2 → s.dmaState c = 1 →
      4 ≤ (s.dma.get c).loops.length → (s.reg (Reg.DMA_CHn_CPL_LO c)).toNat % 2 = 0 → s.on (Reg.DMA_CHn_BIND c) Fld.DMA_CHn_BIND_OS_EN = false →
      ∃ t, exec (.dmaLoop c) s = .next t ∧ t.dmaState c = 5 ∧ t.fld (Reg.DMA_CHn_STATUS c) Fld.DMA_CHn_STATUS_ERR = 2
        ∧ t.bit Reg.DMA_CH_FAULT c = true ∧ Frame [Reg.DMA_CHn_STATUS c, Reg.DMA_CH_ACTIVE, Reg.DMA_CH_FAULT] s t)
  ∧ (∀ (s : State) (c : Nat), s.channelAt c 3 1 → s.dmaBits c 8 3 ≠ 2 → s.semForeign c = false → (s.dma.get c).waiting = false →
      ∃ t, exec (.dmaWait c) s = .next t
        ∧ (s.waitMet c = true → t.dmaState c = 1 ∧ (t.dma.get c).pc = (s.dma.get c).pc + 1)
        ∧ (s.waitMet c = false → t.dmaState c = 2 ∧ (t.dma.get c).pc = (s.dma.get c).pc ∧ (t.dma.get c).waiting = true)
        ∧ Frame [Reg.DMA_CHn_STATUS c, Reg.DMA_CH_ACTIVE, Reg.DMA_CH_FAULT, Reg.DMA_CHn_PC c, Reg.DMA_CHn_SEM (s.dmaBits c 16 5)] s t)
  ∧ (∀ (s : State) (c : Nat), s.channelAt c 3 2 → (s.dma.get c).waiting = true → s.waitMet c = true →
      ∃ t, exec (.dmaWaitMet c) s = .next t ∧ t.dmaState c = 1 ∧ (t.dma.get c).pc = (s.dma.get c).pc + 1
        ∧ t.reg (Reg.DMA_CHn_SEM (s.dmaBits c 16 5)) = (if s.dmaBits c 8 3 = 3 then
            BitVec.ofNat 32 ((s.reg (Reg.DMA_CHn_SEM (s.dmaBits c 16 5))).toNat - s.dmaWord c 1) else s.reg (Reg.DMA_CHn_SEM (s.dmaBits c 16 5)))
        ∧ Frame [Reg.DMA_CHn_STATUS c, Reg.DMA_CH_ACTIVE, Reg.DMA_CH_FAULT, Reg.DMA_CHn_PC c, Reg.DMA_CHn_SEM (s.dmaBits c 16 5)] s t)
  ∧ (∀ (s : State) (c : Nat), s.channelAt c 3 2 → (s.dma.get c).waiting = true → s.waitMet c = false → s.dmaWord c 2 ≠ 0 →
      (s.dma.get c).since + 1000 * s.dmaWord c 2 ≤ s.now → (s.reg (Reg.DMA_CHn_CPL_LO c)).toNat % 2 = 0 →
      ∃ t, exec (.dmaWaitTimeout c) s = .next t
        ∧ (s.dmaBits c 11 2 < 2 → t.dmaState c = 1 ∧ (t.dma.get c).pc = (s.dma.get c).pc + 1
            ∧ t.on (Reg.DMA_CHn_STATUS c) Fld.DMA_CHn_STATUS_WAIT_TO
              = (s.on (Reg.DMA_CHn_STATUS c) Fld.DMA_CHn_STATUS_WAIT_TO || s.dmaBits c 11 2 == 1))
        ∧ (2 ≤ s.dmaBits c 11 2 → t.dmaState c = 3 ∧ t.fld (Reg.DMA_CHn_STATUS c) Fld.DMA_CHn_STATUS_ERR = 12
            ∧ (t.dma.get c).pc = (s.dma.get c).pc)
        ∧ Frame [Reg.DMA_CHn_STATUS c, Reg.DMA_CH_ACTIVE, Reg.DMA_CH_FAULT, Reg.DMA_CHn_PC c] s t)
  ∧ (∀ (s : State) (c : Nat), s.channelAt c 4 1 → s.dmaBits c 11 1 = 0 → (s.dmaWord c 4 + s.dmaWord c 5 * 2 ^ 32) % 4 = 0 →
      s.dmaOwner c ≠ 3 → s.dmaCan c = true → s.dmaWord c 5 < 2 ^ 32 → s.dmaWord c 4 < 2 ^ 32 →
      let k := s.dmaBits c 24 5
      ∃ t, exec (.dmaSignal c) s = .next t ∧ (t.dma.get c).pc = (s.dma.get c).pc + 1 ∧ t.dmaState c = 1
        ∧ t.out = s.out ++ (if s.dmaBits c 10 1 = 1 then
            [.hostWrite (s.dmaOwner c) (s.dmaWord c 4 + s.dmaWord c 5 * 2 ^ 32) (leBytes 4 (s.signalValue c))] else [])
        ∧ (s.dmaBits c 9 1 = 1 → t.reg (Reg.DMA_CHn_SEM k)
            = BitVec.ofNat 32 (min 0xFFFF ((s.reg (Reg.DMA_CHn_SEM k)).toNat + s.dmaWord c 2 % 2 ^ 16)))
        ∧ (s.dmaBits c 8 1 = 1 → t.on (Reg.DMA_CHn_STATUS c) Fld.DMA_CHn_STATUS_SIG = true
            ∧ t.fld (Reg.DMA_CHn_STATUS c) Fld.DMA_CHn_STATUS_SIG_CODE = s.dmaBits c 16 8)
        ∧ Frame [Reg.DMA_CHn_STATUS c, Reg.DMA_CHn_PC c, Reg.DMA_CHn_SEM k] s t)
  ∧ (∀ (s : State) (c : Nat), c < 32 → s.shadowLike = false → (s.dma.get c).loading = false → s.dmaOp c = 5 → s.dmaState c = 1 →
      (s.reg (Reg.DMA_CHn_CPL_LO c)).toNat % 2 = 0 → s.on (Reg.DMA_CHn_BIND c) Fld.DMA_CHn_BIND_OS_EN = false →
      ∃ t, exec (.dmaEnd c) s = .next t ∧ t.dmaState c = 0 ∧ t.on (Reg.DMA_CHn_STATUS c) Fld.DMA_CHn_STATUS_DONE = true
        ∧ t.bit Reg.DMA_CH_ACTIVE c = false ∧ Frame [Reg.DMA_CHn_STATUS c, Reg.DMA_CH_ACTIVE, Reg.DMA_CH_FAULT] s t)

/-- A DMA channel's moves. Bytes of healthy frame memory up to a 4 KiB boundary go to the host at the destination address. One line record goes into the
ring at its cursor: the semaphore loses 1, the cursor moves on, the item leaves its queue and counts; with the semaphore at 0 the channel waits. A
document's MOVE ends at its header, and waits while nothing is queued. The lead reports a position once the host's data link layer has acknowledged
it; a channel in shadow mode keeps the program that the lead sends it, and follows the lead's position. It rests on choices and readings of the model:
notes/assumptions/ 71, 72. -/
def Obligations.ChannelMoves : Prop :=
  (∀ (s : State) (c : Nat), s.channelAt c 1 1 → s.mvMode c = 0 → s.mvSrc c = 1 → s.mvDst c = 0 → s.mvErr c = none → s.dmaCan c = true →
      (s.dma.get c).off = 0 → (s.dma.get c).done = 0 → 0 < s.mvLen c → s.mvSrcAddr c % 4096 + s.mvLen c ≤ 4096 →
      (∀ k, s.mvSrcAddr c / 64 ≤ k → k ≤ (s.mvSrcAddr c + s.mvLen c - 1) / 64 → s.fmOutcome k 0 = 0 ∧ s.fm.link.get k = (0, 0)) →
      ∃ t, exec (.dmaMoveBytes c .ok) s = .next t ∧ (t.dma.get c).pc = (s.dma.get c).pc + 1 ∧ t.dmaState c = 1
        ∧ t.out = s.out ++ [.hostWrite (s.dmaOwner c) (s.mvDstAddr c) (memRead s.fmMem 0 (s.mvSrcAddr c) (s.mvLen c))]
        ∧ Frame [Reg.DMA_CHn_PC c] s t)
  ∧ (∀ (s : State) (c : Nat) (it : OsItem) (rest : List OsItem), s.channelAt c 1 1 → s.mvMode c = 1 → s.mvSrc c = 2 → s.mvDst c = 2 →
      s.mvErr c = none → s.dmaCan c = true →
      let n := s.fld (Reg.DMA_CHn_BIND c) Fld.DMA_CHn_BIND_OS
      let slot := 64 * max 1 (s.fld (Reg.DMA_CHn_RING_CFG c) Fld.DMA_CHn_RING_CFG_SLOT_SIZE)
      let cursor := (s.reg (Reg.DMA_CHn_RING_CURSOR c)).toNat
      let base := (s.reg (Reg.DMA_CHn_RING_BASE_LO c)).toNat / 64 * 64 + (s.reg (Reg.DMA_CHn_RING_BASE_HI c)).toNat * 2 ^ 32
      (s.os.get n).lineQ = it :: rest → (s.os.get n).held = [] → it.again = false → it.bytes ≠ [] → it.bytes.length ≤ slot →
      base + cursor * slot < 2 ^ 64 →
      (0 < (s.reg (Reg.DMA_CHn_SEM c)).toNat →
        ∃ t, exec (.dmaMoveItem c .ok) s = .next t ∧ (t.dma.get c).pc = (s.dma.get c).pc + 1 ∧ (t.os.get n).lineQ = rest
          ∧ t.out = s.out ++ [.hostWrite (s.dmaOwner c) (base + cursor * slot) it.bytes]
          ∧ t.reg (Reg.DMA_CHn_SEM c) = s.reg (Reg.DMA_CHn_SEM c) - 1
          ∧ (t.reg (Reg.DMA_CHn_RING_CURSOR c)).toNat = (cursor + 1) % max 1 (s.fld (Reg.DMA_CHn_RING_CFG c) Fld.DMA_CHn_RING_CFG_NSLOT)
          ∧ Counted s t (Reg.DMA_CHn_ITEM_CNT c) ∧ t.reg (Reg.DMA_CHn_LAST_DOC c) = BitVec.ofNat 32 it.doc
          ∧ Frame [Reg.DMA_CHn_SEM c, Reg.DMA_CHn_RING_CURSOR c, Reg.DMA_CHn_ITEM_CNT c, Reg.DMA_CHn_LAST_DOC c, Reg.DMA_CHn_PC c,
              Reg.DMA_CHn_STATUS c, Reg.DMA_CH_ACTIVE, Reg.DMA_CH_FAULT, Reg.OSn_STATUS n] s t)
      ∧ ((s.reg (Reg.DMA_CHn_SEM c)).toNat = 0 →
        ∃ t, exec (.dmaMoveItem c .ok) s = .next t ∧ t.dmaState c = 2 ∧ (t.os.get n).lineQ = it :: rest ∧ t.out = s.out
          ∧ Frame [Reg.DMA_CHn_STATUS c, Reg.DMA_CH_ACTIVE, Reg.DMA_CH_FAULT] s t))
  ∧ (∀ (s : State) (c : Nat), s.channelAt c 1 1 → s.mvMode c = 2 → s.mvErr c = none →
      let n := s.fld (Reg.DMA_CHn_BIND c) Fld.DMA_CHn_BIND_OS
      (s.os.get n).lineQ = [] → (∀ h rest, (s.os.get n).docQ = h :: rest → (s.dma.get c).doc = none ∨ (s.dma.get c).doc = some h.doc) →
      ∃ t, exec (.dmaMoveDoc c .ok) s = .next t ∧ (t.os.get n).docQ = (s.os.get n).docQ
        ∧ (t.dma.get c).pc = (s.dma.get c).pc + (if (s.os.get n).docQ = [] then 0 else 1)
        ∧ t.dmaState c = (if (s.os.get n).docQ = [] then 2 else 1)
        ∧ Frame [Reg.DMA_CHn_PC c, Reg.DMA_CHn_STATUS c, Reg.DMA_CH_ACTIVE, Reg.DMA_CH_FAULT] s t)
  ∧ (∀ (s : State) (c r i q doc : Nat) (rest : List (Nat × Nat × Nat × Nat)), c < 32 → (s.dma.get c).unack = (r, i, q, doc) :: rest →
      s.leadsPair = true → s.dmaMirrored c = true →
      exec (.pcieDllAck c) s = .next ((s.modDma c (fun d => { d with unack := rest })).toPartner 4 [1 + c * 16, r, i, q, doc]))
  ∧ (∀ (s u : State) (c : Nat) (p : LinkPkt) (prog : List Nat), c < 32 → s.takeItem 2 7 4 = (u, some (p, c * 16 :: prog)) → u.dmaQuiet c = true →
      u.dmaState c ≠ 1 →
      ∃ t, exec .twinDmaReceive s = .next t ∧ (t.dma.get c).progIn = some prog ∧ Frame [] u t)
  ∧ (∀ (s u : State) (c r i q doc : Nat) (p : LinkPkt), c < 32 → s.takeItem 2 7 4 = (u, some (p, [1 + c * 16, r, i, q, doc])) → u.dmaQuiet c = true →
      exec .twinDmaReceive s = .next ((u.modDma c (fun d => { d with follow := some (r, i, q), followDoc := doc })).dmaFollow c))

/-- Configuration space. A request to a function that is not ready, or that resets, is completed with Retry Status; else a read returns the double word,
and a write of the Command register takes its enable bits. Clearing Bus Master Enable, or entering D3hot, halts the function's running channels in
HALTED_BME and no other function's. A function-level reset idles its channels, clears its enables, ends an owner session of PF2, and completes with
its bit in GLB_PCIE_STATUS. A BAR Size from 8 to 14 resizes BAR2; another leaves it. It rests on choices and readings of the model: notes/assumptions/
5, 14, 84. -/
def Obligations.ConfigurationSpace : Prop :=
  (∀ (s : State) (f off : Nat) (w : Option (Word × Nat)), f < 4 → off < 4096 → off % 4 = 0 → s.pcie.perst = false → s.cfgRetry f = true →
      exec (.configRequest f off w) s = .next (s.emit (.completion f 2 false [])))
  ∧ (∀ (s : State) (f off : Nat), f < 4 → off < 4096 → off % 4 = 0 → s.pcie.perst = false → s.cfgRetry f = false →
      exec (.configRequest f off none) s = .next (s.emit (.completion f 0 false (leBytes 4 (s.cfgRead f off).toNat))))
  ∧ (∀ (s : State) (f off be : Nat) (data : Word), f < 4 → off < 4096 → off % 4 = 0 → s.pcie.perst = false → s.cfgRetry f = false →
      ∃ t, exec (.configRequest f off (some (data, be))) s = .next t ∧ t.out.getLast? = some (.completion f 0 false []))
  ∧ (∀ (s : State) (f be : Nat) (data : Word), f < 4 → bitB be 0 = true → s.pcie.perst = false → s.cfgRetry f = false →
      ∃ t, exec (.configRequest f 4 (some (data, be))) s = .next t ∧ t.memEnable f = bitB data.toNat 1 ∧ t.busMaster f = bitB data.toNat 2
        ∧ t.inD0 f = s.inD0 f ∧ ∀ g, g ≠ f → t.busMaster g = s.busMaster g)
  ∧ (∀ (s : State) (f : Nat), f < 4 → s.pcie.perst = false → s.cfgRetry f = false → s.busMaster f = true → s.inD0 f = true →
      (∃ t, exec (.busMasterDisable f) s = .next t ∧ t.busMaster f = false ∧ t.memEnable f = s.memEnable f
        ∧ (∀ c, c < 32 → t.dmaState c = if s.dmaOwner c = f ∧ s.dmaState c ∈ [1, 2, 3] ∧ s.dmaQuiet c = false then 4 else s.dmaState c))
      ∧ ∃ t, exec (.d3hotEntry f) s = .next t ∧ t.inD0 f = false ∧ t.busMaster f = true
        ∧ (∀ c, c < 32 → t.dmaState c = if s.dmaOwner c = f ∧ s.dmaState c ∈ [1, 2, 3] ∧ s.dmaQuiet c = false then 4 else s.dmaState c))
  ∧ (∀ (s : State) (f : Nat), f < 4 → s.pcie.perst = false → s.cfgRetry f = false → s.boot.resetDue = none →
      ∃ t, exec (.functionLevelReset f) s = .next t ∧ t.flrUntil.get f = some (s.now + 10000000) ∧ t.memEnable f = false ∧ t.busMaster f = false
        ∧ (f = 2 → t.mgt.session = none) ∧ (f ≠ 2 → t.mgt.session = s.mgt.session)
        ∧ (∀ c, c < 32 → s.dmaOwner c = f → s.dmaQuiet c = false → t.dmaState c = 0))
  ∧ (∀ (s : State) (f e : Nat), f < 4 → s.flrUntil.get f = some e →
      ∃ t, exec (.flrComplete f) s = .next t ∧ t.flrUntil.get f = none ∧ t.bit Reg.GLB_PCIE_STATUS (19 + f) = true ∧ Frame [Reg.GLB_PCIE_STATUS] s t)
  ∧ (∀ (s : State) (size : Nat), size < 64 → s.pcie.perst = false → s.cfgRetry 0 = false →
      ∃ t, exec (.resizableBarWrite size) s = .next t ∧ t.bar2Size = (if 8 ≤ size ∧ size ≤ 14 then 2 ^ (20 + size) else s.bar2Size))

/-- The endpoint. A Hot Reset, or the link going down, acts on all four functions as a function-level reset and is flagged; the latter signals Lodge
source 41. A link that trains shows its speed and width, and whether it is below the image's least. A completion with an error faults the channel
whose read it ends; one that nothing expects is logged, and counted when its tag is in quarantine; one that the buffer's check cannot correct is an
internal error, logged and signalled; a completion timeout counts, quarantines the tag and faults the channel, or none where the read was given up. A
vector that is raised sends its message when it may, and else is pending. It rests on choices and readings of the model: notes/assumptions/ 14, 73,
144. -/
def Obligations.EndpointEvents : Prop :=
  (∀ (s : State), s.pcie.perst = false → s.boot.resetDue = none →
      ∃ t, exec .hotReset s = .next t ∧ t.on Reg.GLB_PCIE_STATUS Fld.GLB_PCIE_STATUS_HOT_RESET_EV = true
        ∧ (∀ f, f < 4 → t.memEnable f = false ∧ t.busMaster f = false ∧ t.flrUntil.get f = some (s.now + 10000000)) ∧ t.mgt.session = none)
  ∧ (∀ (s : State), s.pcie.perst = false → s.boot.resetDue = none → s.on Reg.GLB_PCIE_STATUS Fld.GLB_PCIE_STATUS_LINK_UP = true →
      ∃ t, exec .dlDown s = .next t ∧ t.on Reg.GLB_PCIE_STATUS Fld.GLB_PCIE_STATUS_LINK_DOWN_EV = true
        ∧ t.on Reg.GLB_PCIE_STATUS Fld.GLB_PCIE_STATUS_LINK_UP = false ∧ (⟨41, 0, false⟩ : LodgeSig) ∈ t.lodge.raised
        ∧ (∀ f, f < 4 → t.memEnable f = false ∧ t.flrUntil.get f = some (s.now + 10000000)))
  ∧ (∀ (s : State) (speed width : Nat), 1 ≤ speed → speed ≤ 5 → width ∈ [1, 2, 4, 8, 16] → s.pcie.perst = false →
      let low := speed < s.fld Reg.GLB_PCIE_MIN Fld.GLB_PCIE_MIN_MIN_SPEED ∨ width < s.fld Reg.GLB_PCIE_MIN Fld.GLB_PCIE_MIN_MIN_WIDTH
      ∃ t, exec (.pcieLinkTrained speed width) s = .next t ∧ t.on Reg.GLB_PCIE_STATUS Fld.GLB_PCIE_STATUS_LINK_UP = true
        ∧ t.fld Reg.GLB_PCIE_STATUS Fld.GLB_PCIE_STATUS_SPEED = speed ∧ t.fld Reg.GLB_PCIE_STATUS Fld.GLB_PCIE_STATUS_WIDTH = width
        ∧ (low → t.on Reg.GLB_PCIE_STATUS Fld.GLB_PCIE_STATUS_LINK_LOW_EV = true ∧ t.reg Reg.MGT_LOG_SEQ = s.reg Reg.MGT_LOG_SEQ + 1)
        ∧ (¬low → Frame [Reg.GLB_PCIE_STATUS] s t) ∧ Frame [Reg.GLB_PCIE_STATUS, Reg.MGT_LOG_SEQ] s t)
  ∧ (∀ (s : State) (f tag status c : Nat) (data : List Nat), f < 4 → tag < 1024 → data.length ≤ 4096 → s.tagChannel tag = some c → status ≠ 0 →
      (s.reg (Reg.DMA_CHn_CPL_LO c)).toNat % 2 = 0 → s.on (Reg.DMA_CHn_BIND c) Fld.DMA_CHn_BIND_OS_EN = false →
      ∃ t, exec (.pcieCompletion f tag status false ⟨data, .ok⟩) s = .next t ∧ t.dmaState c = 5
        ∧ t.fld (Reg.DMA_CHn_STATUS c) Fld.DMA_CHn_STATUS_ERR = 5 ∧ (t.dma.get c).reads = []
        ∧ Frame [Reg.DMA_CHn_STATUS c, Reg.DMA_CH_ACTIVE, Reg.DMA_CH_FAULT] s t)
  ∧ (∀ (s : State) (f tag c : Nat) (data : List Nat) (r : DmaRead), f < 4 → tag < 1024 → s.tagChannel tag = some c → (s.dma.get c).loading = true →
      (s.dma.get c).reads = [r] → r.tag = some tag → r.got = [] → data.length = r.len → data.length ≤ 4096 → (∀ x ∈ data, x < 256) →
      ∃ t, exec (.pcieCompletion f tag 0 false ⟨data, .ok⟩) s = .next t ∧ (t.dma.get c).reads = [{ r with got := data, tag := none }] ∧ Frame [] s t)
  ∧ (∀ (s : State) (f tag status : Nat) (data : List Nat), f < 4 → tag < 1024 → data.length ≤ 4096 → s.tagChannel tag = none →
      s.pcie.owed.find? (fun o => o.1 == tag) = none →
      ∃ t, exec (.pcieCompletion f tag status false ⟨data, .ok⟩) s = .next t ∧ bitB (t.cfgReg f 0x104).toNat 16 = true
        ∧ (s.pcie.quar.any (fun q => q.1 == tag) = true → Counted s t Reg.GLB_PCIE_LATE_CPL_CNT ∧ Frame [Reg.GLB_PCIE_LATE_CPL_CNT] s t)
        ∧ (s.pcie.quar.any (fun q => q.1 == tag) = false → Frame [] s t))
  ∧ (∀ (s : State) (f tag status bad : Nat) (data : List Nat), f < 4 → tag < 1024 → data.length ≤ 4096 → s.tagChannel tag = none →
      s.pcie.owed.find? (fun o => o.1 == tag) = none → s.pcie.quar.any (fun q => q.1 == tag) = false →
      ∃ t, exec (.pcieCompletion f tag status false ⟨data, (.uncorr bad)⟩) s = .next t
        ∧ t.on Reg.GLB_PCIE_STATUS Fld.GLB_PCIE_STATUS_INT_ERR = true ∧ bitB (t.cfgReg f 0x104).toNat 22 = true
        ∧ (⟨41, 0, false⟩ : LodgeSig) ∈ t.lodge.raised ∧ Frame [Reg.GLB_PCIE_STATUS] s t)
  ∧ (∀ (s : State) (tag f left since : Nat) (disc : Bool), tag < 1024 → s.tagChannel tag = none →
      s.pcie.owed.find? (fun o => o.1 == tag) = some (tag, f, left, disc, since) → s.ctoDue f since = true →
      ∃ t, exec (.completionTimeout tag) s = .next t ∧ Counted s t Reg.GLB_PCIE_CTO_CNT ∧ t.dma = s.dma
        ∧ t.pcie.quar = s.pcie.quar ++ [(tag, s.now + 2 * (s.ctoRange f).2)] ∧ bitB (t.cfgReg f 0x104).toNat 14 = true
        ∧ Frame [Reg.GLB_PCIE_CTO_CNT] s t)
  ∧ (∀ (s : State) (tag c : Nat) (r : DmaRead), tag < 1024 → s.tagChannel tag = some c → (s.dma.get c).reads = [r] → r.tag = some tag →
      let f := s.dmaOwner c
      bitB (s.cfgReg f 0x78).toNat 4 = false → r.since + (s.ctoRange f).1 ≤ s.now → (s.reg (Reg.DMA_CHn_CPL_LO c)).toNat % 2 = 0 →
      s.on (Reg.DMA_CHn_BIND c) Fld.DMA_CHn_BIND_OS_EN = false →
      ∃ t, exec (.completionTimeout tag) s = .next t ∧ t.dmaState c = 5 ∧ Counted s t Reg.GLB_PCIE_CTO_CNT
        ∧ t.pcie.quar = s.pcie.quar ++ [(tag, s.now + 2 * (s.ctoRange f).2)] ∧ bitB (t.cfgReg f 0x104).toNat 14 = true
        ∧ Frame [Reg.DMA_CHn_STATUS c, Reg.DMA_CH_ACTIVE, Reg.DMA_CH_FAULT, Reg.GLB_PCIE_CTO_CNT] s t)
  ∧ (∀ (s : State) (tag : Nat), tag < 1024 →
      ∃ t, exec (.pcieTagQuarantineEnd tag) s = .next t ∧ Frame [] s t
        ∧ ∀ q, q ∈ t.pcie.quar ↔ q ∈ s.pcie.quar ∧ ¬(q.1 = tag ∧ q.2 ≤ s.now))
  ∧ (∀ (s : State) (f v : Nat), f < 4 → v < 256 → (s.msixReq.contains (f, v) || s.pbaBit f v) = true →
      ∃ t, exec (.msixSend f v) s = .next t ∧ (f, v) ∉ t.msixReq ∧ t.pbaBit f v = !s.msixMay f v ∧ Frame [] s t
        ∧ t.out = s.out ++ (if s.msixMay f v then [.hostWrite f ((s.msixWord f v 0).toNat + (s.msixWord f v 1).toNat * 2 ^ 32)
            (leBytes 4 (s.msixWord f v 2).toNat)] else []))

/-- The training of a lane group. The lock of its PLL takes it from WAKE to ALIGN; the eighth TS1 there to CONFIG; in CONFIG the lanes' order and the far
end's identity are checked, and a wrong wiring or rate holds the group; the sixteenth agreeing TS1 takes it to SPEED, and the lock there to EQ. A lane
measures its settings in order and keeps the widest opening. The sixteenth TS2 takes group L to UP and group T to IDENT, which equal digests end in UP
and unequal ones in HELD. A state that lasts too long fails the group, and a failed group begins again after its idle time. It rests on choices and
readings of the model: notes/assumptions/ 26, 63, 64, 111, 151. -/
def Obligations.LaneTraining : Prop :=
  (∀ (s : State) (g : Nat), g < 3 → s.grpState g = 1 →
      ∃ t, exec (.lnkPllLock g) s = .next t ∧ t.grpState g = 2 ∧ t.on Reg.LNK_REF_STATUS Fld.LNK_REF_STATUS_PLL_LOCK = true
        ∧ Frame [Reg.LNK_Gg_STATUS g, Reg.TWN_STATUS, Reg.LNK_REF_STATUS] s t)
  ∧ (∀ (s : State) (g who rate flags : Nat) (lanes : List TsLane), lanesOk g lanes = true → who < 256 → rate < 256 → flags < 256 →
      s.grpState g = 2 → (s.grp.get g).train.short = false → (∀ l ∈ lanes, l.inv = false) →
      ∃ t, exec (.ts1Receive g who rate flags lanes) s = .next t
        ∧ t.grpState g = (if (s.grp.get g).train.ts1 + 1 < 8 then 2 else 3)
        ∧ (t.grp.get g).train.ts1 = (if (s.grp.get g).train.ts1 + 1 < 8 then (s.grp.get g).train.ts1 + 1 else 0)
        ∧ Frame [Reg.LNK_Gg_STATUS g, Reg.TWN_STATUS] s t)
  ∧ (∀ (s : State) (g who rate flags far : Nat) (lanes : List TsLane), lanesOk g lanes = true → who < 256 → rate < 256 → flags < 256 → far < 4 →
      s.grpState g = 3 → (∀ l ∈ lanes, l.lane / 16 % 4 = far) →
      lanes.map (fun l => l.lane % 16) ∈ [List.range (laneCount g), (List.range (laneCount g)).reverse] →
      ∃ t, exec (.ts1Receive g who rate flags lanes) s = .next t
        ∧ t.reg (Reg.LNK_Gg_FAR g) = BitVec.ofNat 32 (who + far * 2 ^ 8 + rate % 16 * 2 ^ 10 + 2 ^ 31)
        ∧ (s.identity g who rate far = 0 → t.grpState g = if (s.grp.get g).train.ts1 + 1 < 16 then 3 else 4)
        ∧ (s.identity g who rate far = 1 → t.grpState g = 11 ∧ t.on (Reg.LNK_Gg_STATUS g) Fld.LNK_Gg_STATUS_WIRING_MISMATCH = true)
        ∧ (s.identity g who rate far = 2 → t.grpState g = 11 ∧ t.on (Reg.LNK_Gg_STATUS g) Fld.LNK_Gg_STATUS_RATE_MISMATCH = true)
        ∧ (s.identity g who rate far = 3 → t.grpState g = 11 ∧ t.on Reg.GLB_ROLE Fld.GLB_ROLE_TWIN_ID_CONFLICT = true))
  ∧ (∀ (s : State) (g who rate flags : Nat) (lanes : List TsLane), lanesOk g lanes = true → who < 256 → rate < 256 → flags < 256 →
      s.grpState g = 3 → lanes.map (fun l => l.lane % 16) ∉ [List.range (laneCount g), (List.range (laneCount g)).reverse] →
      ∃ t, exec (.ts1Receive g who rate flags lanes) s = .next t ∧ t.grpState g = 11
        ∧ t.on (Reg.LNK_Gg_STATUS g) Fld.LNK_Gg_STATUS_LANE_ORDER = true)
  ∧ (∀ (s : State) (g : Nat), g < 3 → s.grpState g = 4 →
      let adapt := (s.grp.get g).train.adapt
      ∃ t, exec (.lnkSpeedLock g) s = .next t ∧ t.grpState g = 5 ∧ (t.grp.get g).train.eqDone = !adapt
        ∧ (adapt = true → (t.grp.get g).train.tried = [] ∧ Frame [Reg.LNK_Gg_STATUS g, Reg.TWN_STATUS] s t))
  ∧ (∀ (s : State) (g l margin : Nat), g < 3 → l < laneCount g → margin < 64 → s.grpState g = 5 → (s.grp.get g).train.eqDone = false →
      (s.grp.get g).train.tried.get l < s.eqCount g → s.eqEchoed g l = true →
      let i := (s.grp.get g).train.tried.get l
      let best := (s.grp.get g).train.best.get l
      ∃ t, exec (.eqMeasureDone g l margin) s = .next t ∧ (t.grp.get g).train.tried.get l = i + 1
        ∧ (best.1 = 0 ∨ best.2 < margin → (t.grp.get g).train.best.get l = (i + 1, margin))
        ∧ (best.1 ≠ 0 → margin < best.2 → (t.grp.get g).train.best.get l = best))
  ∧ (∀ (s : State) (g who rate flags : Nat) (lanes : List TsLane), lanesOk g lanes = true → who < 256 → rate < 256 → flags < 256 →
      s.grpState g = 6 → (s.grp.get g).train.short = false → (s.grp.get g).train.again = false →
      ∃ t, exec (.ts2Receive g who rate flags lanes) s = .next t
        ∧ t.grpState g = (if (s.grp.get g).train.ts2 + 1 < 16 then 6 else if g = 2 then 7 else 8)
        ∧ Frame [Reg.LNK_Gg_STATUS g, Reg.TWN_STATUS] s t)
  ∧ (∀ (s : State) (g who rate flags : Nat) (lanes : List TsLane), lanesOk g lanes = true → who < 256 → rate < 256 → flags < 256 →
      s.grpState g = 9 → (s.grp.get g).train.confirm = true → (s.grp.get g).train.again = false →
      ∃ t, exec (.ts2Receive g who rate flags lanes) s = .next t
        ∧ t.grpState g = (if (s.grp.get g).train.ts2 + 1 < 16 then 9 else 8))
  ∧ (∀ (s : State) (n : Nat) (data : Word), n < 8 → s.grpState 2 = 7 → (s.grp.get 2).train.again = false →
      (∀ k, k < 8 → k ≠ n → ((s.grp.get 2).train.ident.get k).isSome = true) →
      ∃ t, exec (.identReceive n data) s = .next t
        ∧ ((∀ k, k < 8 → k ≠ n → (s.grp.get 2).train.ident.get k = some (s.reg (Reg.GLB_IMG_DIGESTk k)).toNat) →
            data = s.reg (Reg.GLB_IMG_DIGESTk n) → t.grpState 2 = 8)
        ∧ (data ≠ s.reg (Reg.GLB_IMG_DIGESTk n) →
            t.grpState 2 = 11 ∧ t.on (Reg.LNK_Gg_STATUS 2) Fld.LNK_Gg_STATUS_DIGEST_MISMATCH = true))
  ∧ (∀ (s : State) (g n : Nat), g < 3 → trainLimit (s.grpState g) = some n → (s.grp.get g).train.entered + n ≤ s.now →
      ∃ t, exec (.lnkTrainTimeout g) s = .next t ∧ t.grpState g = 10 ∧ Counted s t (Reg.LNK_Gg_CNTk g 2)
        ∧ (s.grpState g = 9 → t.on (Reg.LNK_Gg_STATUS g) Fld.LNK_Gg_STATUS_DOWN_EV = true ∧ Counted s t (Reg.LNK_Gg_CNTk g 3)
            ∧ (⟨42 + g, 0, false⟩ : LodgeSig) ∈ t.lodge.raised))
  ∧ (∀ (s : State) (g : Nat), g < 3 → s.grpState g = 10 → (s.grp.get g).train.entered + 1000000 ≤ s.now →
      ∃ t, exec (.lnkFailedIdleEnd g) s = .next t ∧ t.grpState g = 1 ∧ t.reg (Reg.LNK_Gg_FAR g) = 0
        ∧ Frame [Reg.LNK_Gg_STATUS g, Reg.TWN_STATUS, Reg.LNK_Gg_FAR g] s t)

/-- A lane group in service. Errors are counted by lane; a loss of symbol lock, more than ERR_THR of them in a window, or a RETRAIN command retrains it;
HOLD switches it off and FULL trains it from the start. It enters the shallower of the lane power states that both ends ask for, and a WAKE set ends
LP1. A HEAD device that loses the reference in use takes the other where that is good. It rests on choices and readings of the model:
notes/assumptions/ 64, 65, 149. -/
def Obligations.LaneService : Prop :=
  (∀ (s : State) (g l n : Nat), g < 3 → l < laneCount g →
      ∃ t, exec (.symbolLockLoss g l n) s = .next t
        ∧ t.reg (Reg.LNK_Gg_LANEl_ERR_CNT g l) = BitVec.ofNat 32 (min 0xFFFFFFFF ((s.reg (Reg.LNK_Gg_LANEl_ERR_CNT g l)).toNat + n))
        ∧ t.grpState g = (if s.inServiceGroup g then 9 else s.grpState g)
        ∧ (s.inServiceGroup g = true → Counted s t (Reg.LNK_Gg_CNTk g 5))
        ∧ Frame [Reg.LNK_Gg_LANEl_ERR_CNT g l, Reg.LNK_Gg_CNTk g 0, Reg.LNK_Gg_CNTk g 1, Reg.LNK_Gg_CNTk g 5, Reg.LNK_Gg_STATUS g,
            Reg.TWN_STATUS] s t)
  ∧ (∀ (s : State) (g : Nat) (errs : List Nat), g < 3 → errs.length = laneCount g →
      (s.grp.get g).train.errsFrom + 1000000 ≤ s.now →
      let thr := s.fld (Reg.LNK_Gg_CFG g) Fld.LNK_Gg_CFG_ERR_THR
      ∃ t, exec (.errorWindowExpiry g errs) s = .next t
        ∧ t.grpState g = (if thr ≠ 0 ∧ thr < errs.foldl (· + ·) 0 ∧ s.grpState g = 8 then 9 else s.grpState g) ∧ (t.grp.get g).train.errsFrom = s.now
        ∧ ∀ l, l < laneCount g → t.reg (Reg.LNK_Gg_LANEl_ERR_CNT g l)
            = BitVec.ofNat 32 (min 0xFFFFFFFF ((s.reg (Reg.LNK_Gg_LANEl_ERR_CNT g l)).toNat + errs.getD l 0)))
  ∧ (∀ (s : State) (i : Initiator) (g : Nat) (data : Word), g < 3 → s.writeOpen i (Reg.LNK_Gg_CTRL g) → data.toNat % 8 = 1 → s.grpState g = 8 →
      ∃ t, exec (.lnkRetrain i g data) s = .next t ∧ t.grpState g = 9 ∧ Counted s t (Reg.LNK_Gg_CNTk g 1)
        ∧ t.on (Reg.LNK_Gg_STATUS g) Fld.LNK_Gg_STATUS_RETRAIN_EV = true
        ∧ Frame [Reg.LNK_Gg_CTRL g, Reg.LNK_Gg_CNTk g 1, Reg.LNK_Gg_STATUS g, Reg.TWN_STATUS] s t)
  ∧ (∀ (s : State) (i : Initiator) (g : Nat) (data : Word), g < 3 → s.writeOpen i (Reg.LNK_Gg_CTRL g) → bitB data.toNat 1 = true →
      ∃ t, exec (.lnkHold i g data) s = .next t ∧ t.grpState g = 0 ∧ t.on (Reg.LNK_Gg_CTRL g) Fld.LNK_Gg_CTRL_HOLD = true
        ∧ (s.grpState g ≠ 0 → (t.grp.get g).queue = [] ∧ (t.grp.get g).replay = []))
  ∧ (∀ (s : State) (i : Initiator) (g : Nat) (data : Word), g < 3 → s.writeOpen i (Reg.LNK_Gg_CTRL g) → bitB data.toNat 1 = false →
      bitB data.toNat 2 = true → s.grpState g ≠ 0 →
      ∃ t, exec (.lnkFull i g data) s = .next t ∧ t.grpState g = 1 ∧ t.reg (Reg.LNK_Gg_FAR g) = 0
        ∧ (t.grp.get g).queue = [] ∧ (t.grp.get g).replay = [])
  ∧ (∀ (s : State) (g req : Nat), g < 3 → 1 ≤ req → req ≤ 2 → s.inServiceGroup g = true → (s.grp.get g).replay = [] →
      let m := min (s.grp.get g).train.lpOwn req
      ∃ t, exec (.lpeReceive g req) s = .next t ∧ (t.grp.get g).train.lpFar = req ∧ t.grpState g = (if 1 ≤ m then 11 + m else 8)
        ∧ (1 ≤ m → Counted s t (Reg.LNK_Gg_CNTk g (5 + m)))
        ∧ Frame [Reg.LNK_Gg_CNTk g 6, Reg.LNK_Gg_CNTk g 7, Reg.LNK_Gg_STATUS g, Reg.TWN_STATUS] s t)
  ∧ (∀ (s : State) (g req : Nat), g < 3 → 1 ≤ req → req ≤ 2 → s.inServiceGroup g = true → (s.grp.get g).replay ≠ [] →
      ∃ t, exec (.lpeReceive g req) s = .next t ∧ (t.grp.get g).train.lpOwn = 0 ∧ (t.grp.get g).train.lpFar = 0 ∧ t.regs = s.regs)
  ∧ (∀ (s : State) (g : Nat), g < 3 → s.grpState g ∈ [8, 12] → (s.grp.get g).train.again = false →
      ∃ t, exec (.wakeSetReceive g) s = .next t ∧ t.grpState g = 8 ∧ (t.grp.get g).train.lpOwn = 0 ∧ (t.grp.get g).train.lpFar = 0
        ∧ (g < 2 → Frame [Reg.LNK_Gg_STATUS g, Reg.BRG_CNTk 4] s t))
  ∧ (∀ (s : State) (okL ok1 : Bool), s.fld Reg.GLB_ROLE Fld.GLB_ROLE_ROLE = 1 → s.fld Reg.LNK_REF_STATUS Fld.LNK_REF_STATUS_SRC = 1 →
      (∀ g, g < 3 → s.grpState g ∈ [0, 8, 9, 10, 11]) →
      ∃ t, exec (.linkRefLoss okL false ok1) s = .next t ∧ t.on Reg.LNK_REF_STATUS Fld.LNK_REF_STATUS_LOST_EV = true
        ∧ t.fld Reg.LNK_REF_STATUS Fld.LNK_REF_STATUS_SRC = (if ok1 then 2 else 3)
        ∧ (ok1 = true → t.on Reg.LNK_REF_STATUS Fld.LNK_REF_STATUS_SWITCH_EV = true)
        ∧ ∀ g, g < 3 → t.grpState g = if s.grpState g = 8 then 9 else s.grpState g)
  ∧ (∀ (s : State) (okL ok1 : Bool), s.fld Reg.GLB_ROLE Fld.GLB_ROLE_ROLE = 1 → s.fld Reg.LNK_REF_STATUS Fld.LNK_REF_STATUS_SRC = 1 →
      ∃ t, exec (.linkRefLoss okL true ok1) s = .next t ∧ t.fld Reg.LNK_REF_STATUS Fld.LNK_REF_STATUS_SRC = 1
        ∧ t.on Reg.LNK_REF_STATUS Fld.LNK_REF_STATUS_LREF0_OK = true ∧ Frame [Reg.LNK_REF_STATUS] s t)

/-- Packets of the link protocol. A packet with a good LCRC and the expected SEQ is accepted, acknowledged and kept for its receiver; another is not, and
is answered with a NAK; one that EDB ends is not, and one of class 0 has no SEQ. An ACK takes what it covers out of the replay buffer, a NAK or 4 µs
without one sends the rest again and counts; credits that arrive are added, of every class. A packet's bytes follow one another over the lanes from
the stream's next lane on, and lane 0 follows an ordered set. It rests on choices and readings of the model: notes/assumptions/ 22, 30, 32, 65, 113,
141. -/
def Obligations.LinkProtocol : Prop :=
  (∀ (s : State) (g : Nat) (p : LinkPkt), g < 3 → p.cls < 16 → p.typ < 16 → p.seq < 4096 → p.tag < 256 → p.init < 16 → p.cls ≠ 0 →
      s.inServiceGroup g = true → malformed g p = false → p.seq = (s.grp.get g).rxNext →
      ∃ t, exec (.linkPacketReceive g p true false .ok) s = .next t ∧ (t.grp.get g).rx = (s.grp.get g).rx ++ [p]
        ∧ (t.grp.get g).rxNext = (p.seq + 1) % 4096
        ∧ t.out = s.out ++ [.packet g (s.nextLane g) (LinkPkt.words ⟨0, 0, true, true, false, 0, 0, 0, p.seq, 0, []⟩)] ∧ Frame [] s t)
  ∧ (∀ (s : State) (g : Nat) (p : LinkPkt) (good : Bool) (buf : Ecc), g < 3 → p.cls < 16 → p.typ < 16 → p.seq < 4096 → p.tag < 256 →
      p.init < 16 → p.cls ≠ 0 → s.inServiceGroup g = true → good = false ∨ p.seq ≠ (s.grp.get g).rxNext →
      exec (.linkPacketReceive g p good false buf) s = .next (s.frame g
        (LinkPkt.words ⟨0, 1, true, true, false, 0, 0, 0, ((s.grp.get g).rxNext + 4095) % 4096, 0, []⟩)))
  ∧ (∀ (s : State) (g : Nat) (p : LinkPkt) (good : Bool) (buf : Ecc), g < 3 → p.cls < 16 → p.typ < 16 → p.seq < 4096 → p.tag < 256 →
      p.init < 16 → exec (.linkPacketReceive g p good true buf) s = .next s)
  ∧ (∀ (s : State) (g : Nat) (p : LinkPkt) (buf : Ecc), g < 3 → p.cls = 0 → p.typ < 16 → p.seq < 4096 → p.tag < 256 → p.init < 16 →
      s.inServiceGroup g = true →
      exec (.linkPacketReceive g p true false buf) s = .next (if malformed g p = true then s.markMalformed else s))
  ∧ (∀ (s : State) (g n : Nat), g < 3 → n < 4096 → s.inServiceGroup g = true → (s.grp.get g).queue = [] →
      (∃ t, exec (.linkAck g n) s = .next t ∧ (t.grp.get g).replay = dropAcked n (s.grp.get g).replay ∧ t.out = s.out ∧ Frame [] s t)
      ∧ ∃ t, exec (.linkNak g n) s = .next t ∧ (t.grp.get g).replay = dropAcked n (s.grp.get g).replay
        ∧ t.out = ((dropAcked n (s.grp.get g).replay).foldl (fun s p => s.frame g (LinkPkt.words p)) s).out
        ∧ (dropAcked n (s.grp.get g).replay ≠ [] → Counted s t (Reg.BRG_CNTk 4))
        ∧ (dropAcked n (s.grp.get g).replay = [] → t.reg (Reg.BRG_CNTk 4) = s.reg (Reg.BRG_CNTk 4)) ∧ Frame [Reg.BRG_CNTk 4] s t)
  ∧ (∀ (s : State) (g : Nat), g < 3 → s.inServiceGroup g = true → (s.grp.get g).replay ≠ [] → (s.grp.get g).ackAt + 4000 ≤ s.now →
      ∃ t, exec (.replayTimeout g) s = .next t ∧ (t.grp.get g).replay = (s.grp.get g).replay
        ∧ t.out = ((s.grp.get g).replay.foldl (fun s p => s.frame g (LinkPkt.words p)) s).out
        ∧ Counted s t (Reg.BRG_CNTk 4) ∧ Frame [Reg.BRG_CNTk 4] s t)
  ∧ (∀ (s : State) (g cls hdr data : Nat), g < 3 → cls < 8 → hdr < 2 ^ 16 → data < 2 ^ 16 → s.inServiceGroup g = true →
      (s.grp.get g).queue = [] →
      ∃ t, exec (.creditReceive g cls hdr data) s = .next t ∧ (t.grp.get g).hdr.get cls = (s.grp.get g).hdr.get cls + hdr
        ∧ (t.grp.get g).data.get cls = (s.grp.get g).data.get cls + data ∧ Frame [] s t)
  ∧ (∀ (s : State) (g : Nat) (ws : List Nat), (s.frame g ws).out = s.out ++ [.packet g (s.nextLane g) ws]
      ∧ ((s.frame g ws).grp.get g).lane = (s.nextLane g + (4 * ws.length + 2)) % laneCount g)
  ∧ (∀ (s : State) (g typ : Nat) (symbols : List Nat), (s.orderedSet g typ symbols).nextLane g = 0)
  ∧ (∀ (n : Nat) (l : List LinkPkt), ∀ p ∈ l, (n + 4096 - p.seq) % 4096 ≥ 2048 → p ∈ dropAcked n l)

/-- Remote accesses, virtual wires and segmenter edges. A remote write or read of PF3, MC0 or MC1 over a path is sent as a packet with its offset; without
a path a write is logged as failed, reason 3, and a read completes with all ones. A completion ends its read and reaches the initiator; one for a tag
in quarantine is counted as late; a timeout completes with all ones, counts, and quarantines the tag. The failure log takes a reported failure and
gives up its oldest entry. Incoming wires take their levels; an edge message of the head lead gives a REMOTE segmenter its edge, and one of another
device does not. It rests on choices and readings of the model: notes/assumptions/ 33, 34, 35, 77, 108, 130. -/
def Obligations.RemoteAccess : Prop :=
  (∀ (s : State) (i : Initiator) (off : Nat) (data : List Word), i ∈ [.pf3, .mc0, .mc1] → off < 0x2000000 → off % 4 = 0 → data ≠ [] →
      data.length ≤ (if i = .pf3 then 128 else 1) → s.remoteOpen i off true → s.shadowLike = false →
      s.on Reg.BRG_STATUS Fld.BRG_STATUS_PERR_STOP = false → s.remTarget i ∈ [0, 1, 3] →
      let g := if s.remTarget i = 3 then 2 else s.remTarget i
      (s.hasPath g = true → exec (.remoteWriteIssue i off data) s
          = .next (s.sendPkt g ⟨1, 0, true, true, false, 0, 0, i.code, off, 0, data.map (·.toNat)⟩))
      ∧ (s.hasPath g = false → s.fld Reg.BRG_PERR_STATUS Fld.BRG_PERR_STATUS_NUM = 0 → s.on Reg.BRG_CTRL Fld.BRG_CTRL_STOP_ON_PERR = false →
          ∃ t, exec (.remoteWriteIssue i off data) s = .next t ∧ t.reg (Reg.BRG_PERR_LOGe_ADDR 0) = BitVec.ofNat 32 off
            ∧ t.reg (Reg.BRG_PERR_LOGe_INFO 0) = BitVec.ofNat 32 (3 + i.code * 2 ^ 4 + 3 * 2 ^ 12)
            ∧ t.fld Reg.BRG_PERR_STATUS Fld.BRG_PERR_STATUS_NUM = 1 ∧ Counted s t (Reg.BRG_CNTk 1)
            ∧ Frame [Reg.BRG_CNTk 1, Reg.BRG_PERR_LOGe_ADDR 0, Reg.BRG_PERR_LOGe_INFO 0, Reg.BRG_PERR_LOGe_TIME 0, Reg.BRG_PERR_STATUS,
                Reg.BRG_STATUS] s t))
  ∧ (∀ (s : State) (i : Initiator) (off n : Nat), i ∈ [.pf3, .mc0, .mc1] → 0 < n → n ≤ (if i = .pf3 then 128 else 1) → off + 4 * n ≤ 0x2000000 →
      off % 4 = 0 → s.remoteOpen i off false → s.remTarget i ∈ [0, 1, 3] →
      let g := if s.remTarget i = 3 then 2 else s.remTarget i
      (s.hasPath g = true → ∀ tag, s.remTag = some tag →
        ∃ t, exec (.remoteReadIssue i off n) s = .next t ∧ t.brg.reads = s.brg.reads ++ [⟨some tag, i.code, g, off, n, s.now⟩]
          ∧ Frame [Reg.BRG_TAGS] s t)
      ∧ (s.hasPath g = false → ∃ t, exec (.remoteReadIssue i off n) s = .next t
          ∧ t.out = s.out ++ [if i = .pf3 then .completion 3 0 false (List.replicate (4 * n) 255) else .readData i 0xFFFFFFFF] ∧ Counted s t (Reg.BRG_CNTk 3)
          ∧ t.on Reg.BRG_STATUS Fld.BRG_STATUS_LINK_LOST = true ∧ Frame [Reg.BRG_CNTk 3, Reg.BRG_STATUS] s t))
  ∧ (∀ (s u : State) (g : Nat) (p : LinkPkt), g < 3 → s.takeRx g 3 0 = (u, some p) →
      (∀ r, u.brg.reads = [r] → r.tag = some p.tag → r.init = 4 → p.ep = false → p.spec0 % 256 = 0 →
        ∃ t, exec (.cpldReceive g) s = .next t ∧ t.brg.reads = [] ∧ t.out = u.out ++ [.readData .mc0 (p.payload.getD 0 0)]
          ∧ Frame [Reg.BRG_TAGS] u t)
      ∧ (u.brg.reads = [] → u.brg.quar.any (fun q => q.1 == p.tag) = true →
          ∃ t, exec (.cpldReceive g) s = .next t ∧ Counted u t Reg.BRG_LATE_CNT ∧ t.on Reg.BRG_STATUS Fld.BRG_STATUS_LATE = true
            ∧ Frame [Reg.BRG_LATE_CNT, Reg.BRG_STATUS] u t))
  ∧ (∀ (s : State) (tag : Nat) (r : RemRead), tag < 256 → s.brg.reads = [r] → r.tag = some tag → r.init = 4 → r.words = 1 →
      r.since + s.rdTimeout ≤ s.now →
      ∃ t, exec (.remoteReadTimeout (some tag)) s = .next t ∧ t.brg.reads = [] ∧ t.brg.quar = s.brg.quar ++ [(tag, s.now + 2 * s.rdTimeout)]
        ∧ t.out = s.out ++ [.readData .mc0 0xFFFFFFFF] ∧ Counted s t (Reg.BRG_CNTk 0) ∧ t.on Reg.BRG_STATUS Fld.BRG_STATUS_RD_TO = true
        ∧ Frame [Reg.BRG_CNTk 0, Reg.BRG_STATUS, Reg.BRG_TAGS] s t)
  ∧ (∀ (s : State) (tag : Nat), tag < 256 →
      ∃ t, exec (.tagQuarantineEnd tag) s = .next t ∧ Frame [Reg.BRG_TAGS] s t
        ∧ ∀ q, q ∈ t.brg.quar ↔ q ∈ s.brg.quar ∧ ¬(q.1 = tag ∧ q.2 ≤ s.now))
  ∧ (∀ (s u : State) (g off w : Nat) (p : LinkPkt) (time : List Nat), g < 3 → s.takeRx g 6 1 = (u, some p) → p.payload = off :: w :: time → off < 2 ^ 26 →
      u.fld Reg.BRG_PERR_STATUS Fld.BRG_PERR_STATUS_NUM = 0 → u.on Reg.BRG_CTRL Fld.BRG_CTRL_STOP_ON_PERR = false →
      ∃ t, exec (.perrReceive g) s = .next t ∧ t.reg (Reg.BRG_PERR_LOGe_ADDR 0) = BitVec.ofNat 32 off
        ∧ t.reg (Reg.BRG_PERR_LOGe_INFO 0) = BitVec.ofNat 32 (w % 256 + g * 2 ^ 12) ∧ t.fld Reg.BRG_PERR_STATUS Fld.BRG_PERR_STATUS_NUM = 1
        ∧ t.on Reg.BRG_STATUS Fld.BRG_STATUS_PERR = true ∧ Counted u t (Reg.BRG_CNTk 1))
  ∧ (∀ (s : State) (i : Initiator) (data : Word), s.writeOpen i Reg.BRG_PERR_POP → bitB data.toNat 0 = true →
      0 < s.fld Reg.BRG_PERR_STATUS Fld.BRG_PERR_STATUS_NUM →
      ∃ t, exec (.perrPop i data) s = .next t
        ∧ t.fld Reg.BRG_PERR_STATUS Fld.BRG_PERR_STATUS_NUM = s.fld Reg.BRG_PERR_STATUS Fld.BRG_PERR_STATUS_NUM - 1
        ∧ ∀ e, e < 7 → t.reg (Reg.BRG_PERR_LOGe_ADDR e) = s.reg (Reg.BRG_PERR_LOGe_ADDR (e + 1))
          ∧ t.reg (Reg.BRG_PERR_LOGe_INFO e) = s.reg (Reg.BRG_PERR_LOGe_INFO (e + 1))
          ∧ t.reg (Reg.BRG_PERR_LOGe_TIME e) = s.reg (Reg.BRG_PERR_LOGe_TIME (e + 1)))
  ∧ (∀ (s u : State) (g new tog : Nat) (p : LinkPkt), g < 3 → s.takeRx g 6 0 = (u, some p) → u.wireGroup = some g → p.payload = [new, tog] →
      new < 2 ^ 32 → tog < 2 ^ 32 →
      ∃ t, exec (.wiresReceive g) s = .next t ∧ t.wires = new ∧ t.reg Reg.BRG_VW_IN = BitVec.ofNat 32 new)
  ∧ (∀ (s : State) (g : Nat), g < 3 → s.inServiceGroup g = true → s.brg.wiresAt.get g + 10000 ≤ s.now →
      ∃ t, exec (.wiresRefresh g) s = .next t ∧ t.brg.wiresAt.get g = s.now ∧ Frame [] s t)
  ∧ (∀ (s u : State) (g sg pos doc : Nat) (p : LinkPkt), g < 2 → sg < 4 → s.takeRx g 6 3 = (u, some p) → u.follows = false →
      u.fld (Reg.ST_SEGs_CFG sg) Fld.ST_SEGs_CFG_SRC = 3 →
      (u.facesHeadLead g = false → p.payload = [sg + 256, pos, doc] ∨ p.payload = [sg, pos, doc] → exec (.edgeReceive g) s = .next u)
      ∧ (u.facesHeadLead g = true → p.payload = [sg + 256, pos, doc] → exec (.edgeReceive g) s
          = .next ((u.declareLead sg pos doc).setReg (Reg.ST_SEGs_NEXT_DOC sg) (BitVec.ofNat 32 (doc + 1))))
      ∧ (u.facesHeadLead g = true → p.payload = [sg, pos, doc] → u.present sg = true → exec (.edgeReceive g) s = .next (u.declareTrail sg pos)))
  ∧ (∀ (s u : State) (g : Nat) (p0 p : LinkPkt) (words : List Nat), g < 2 → (s.grp.get g).rx.find? (fun q => q.cls == 4) = some p0 → p0.typ = 0 →
      s.takeItem g 4 0 = (u, some (p, words)) → s.facesHeadLead g = true → (s.relay.get (32 + p0.spec0 % 32)).seen = [] →
      (s.relay.get (32 + p0.spec0 % 32)).kept = [] → u.fld Reg.GLB_ROLE Fld.GLB_ROLE_TOPOLOGY ≠ 2 →
      exec (.tunCsiReceive g) s = .next ({ u with relay := u.relay.set (32 + p0.spec0 % 32) (s.relay.get (32 + p0.spec0 % 32)) }.tunnelLine
        (p0.spec0 % 32) words))

/-- The queues of a two-wire controller. WDATA stages bytes; QCMD queues an entry with the staged bytes, or is counted when the queue is full, or is a
conflict when the controller serves a tunnel. POP drops the oldest result and ALERT_POP the oldest alert; FLUSH ends what waits with BUS_ERR; CLEAR
drives the bus clear, and a bus that stays low is the stuck state. RDATA gives the oldest result's next bytes. A mirrored entry of the lead joins the
shadow's queue. A tunnelled request joins the far controller's queue or is refused; its response, or its timeout, ends it. It rests on choices and
readings of the model: notes/assumptions/ 58, 59, 60, 143. -/
def Obligations.TwoWireQueues : Prop :=
  (∀ (s : State) (i : Initiator) (k : Nat) (data : Word), k < 8 → s.writeOpen i (Reg.TWk_WDATA k) →
      ∃ t, exec (.twWdata i k data) s = .next t ∧ (t.tw.get k).stage = ((s.tw.get k).stage ++ leBytes 4 data.toNat).take 64 ∧ Frame [] s t)
  ∧ (∀ (s : State) (i : Initiator) (k : Nat) (data : Word), k < 8 → s.writeOpen i (Reg.TWk_QCMD k) →
      s.on Reg.GLB_ROLE Fld.GLB_ROLE_PAIRED = false → s.on (Reg.TWk_STATUS k) Fld.TWk_STATUS_IN_STUCK = false →
      let full := 16 ≤ ((s.tw.get k).queue.filter (fun e => !e.ara)).length
      let own := s.on (Reg.TWk_CFG k) Fld.TWk_CFG_OWNER
      ∃ t, exec (.twQcmd i k data) s = .next t ∧ (t.tw.get k).stage = []
        ∧ (own = false → ¬full → ∃ e : TwEntry, (t.tw.get k).queue = (s.tw.get k).queue ++ [e] ∧ e.addr = data.toNat % 128
            ∧ e.wdata = ((s.tw.get k).stage ++ List.replicate 64 0).take (min 64 (data.toNat / 2 ^ 8 % 128))
            ∧ e.rlen = min 64 (data.toNat / 2 ^ 16 % 128) ∧ e.rs = bitB data.toNat 24 ∧ e.tag = data.toNat / 2 ^ 28 % 16
            ∧ Frame [Reg.TWk_STATUS k, Reg.TWk_RES k, Reg.TWk_ALERT k] s t)
        ∧ (own = false → full → (t.tw.get k).queue = (s.tw.get k).queue ∧ t.on (Reg.TWk_STATUS k) Fld.TWk_STATUS_QOVF = true
            ∧ Counted s t (Reg.TWk_CNTj k 7) ∧ Frame [Reg.TWk_STATUS k, Reg.TWk_CNTj k 7] s t)
        ∧ (own = true → (t.tw.get k).queue = (s.tw.get k).queue ∧ Counted s t Reg.GLB_CONFLICT_CNT
            ∧ Frame [Reg.GLB_CONFLICT, Reg.GLB_CONFLICT_CNT] s t))
  ∧ (∀ (s : State) (i : Initiator) (k : Nat) (data : Word) (clr : Option Nat), k < 8 → s.writeOpen i (Reg.TWk_CTRL k) → clrOk clr = true →
      s.on (Reg.TWk_STATUS k) Fld.TWk_STATUS_IN_STUCK = false →
      (data.toNat % 16 = 1 → ∃ t, exec (.twPop i k data clr) s = .next t ∧ (t.tw.get k).results = (s.tw.get k).results.drop 1
        ∧ t.reg (Reg.TWk_RES k) = BitVec.ofNat 32 (match (s.tw.get k).results.drop 1 with | r :: _ => TwRes.word r + 2 ^ 31 | [] => 0)
        ∧ Frame [Reg.TWk_STATUS k, Reg.TWk_RES k, Reg.TWk_ALERT k] s t)
      ∧ (data.toNat % 16 = 8 → ∃ t, exec (.twAlertPop i k data clr) s = .next t ∧ (t.tw.get k).alerts = (s.tw.get k).alerts.drop 1
        ∧ (t.tw.get k).results = (s.tw.get k).results ∧ Frame [Reg.TWk_STATUS k, Reg.TWk_RES k, Reg.TWk_ALERT k] s t))
  ∧ (∀ (s : State) (i : Initiator) (k : Nat) (e : TwEntry) (data : Word) (clr : Option Nat), k < 8 → s.writeOpen i (Reg.TWk_CTRL k) →
      clrOk clr = true → data.toNat % 16 = 4 →
      s.on Reg.GLB_ROLE Fld.GLB_ROLE_PAIRED = false → (s.tw.get k).cur = none → (s.tw.get k).queue = [e] → e.ara = false → e.tun = none →
      ∃ t, exec (.twFlush i k data clr) s = .next t ∧ (t.tw.get k).queue = [] ∧ (t.tw.get k).stage = []
        ∧ (t.tw.get k).results = (s.tw.get k).results ++ [⟨5, e.tag, 0, 0, []⟩] ∧ Counted s t (Reg.TWk_CNTj k 0)
        ∧ t.on (Reg.TWk_STATUS k) Fld.TWk_STATUS_ERR = true
        ∧ Frame [Reg.TWk_STATUS k, Reg.TWk_RES k, Reg.TWk_ALERT k, Reg.TWk_CNTj k 0] s t)
  ∧ (∀ (s : State) (i : Initiator) (k : Nat) (data : Word) (clr : Option Nat), k < 8 → s.writeOpen i (Reg.TWk_CTRL k) → clrOk clr = true →
      data.toNat % 16 = 2 → s.twDark = false →
      (s.tw.get k).cur = none → (s.tw.get k).queue = [] →
      ∃ t, exec (.twClear i k data clr) s = .next t ∧ Counted s t (Reg.TWk_CNTj k 5)
        ∧ t.on (Reg.TWk_STATUS k) Fld.TWk_STATUS_IN_STUCK = clr.isNone
        ∧ t.lodge.raised = s.lodge.raised ++ (if clr.isNone then [⟨46, k, false⟩] else [])
        ∧ Frame [Reg.TWk_STATUS k, Reg.TWk_CNTj k 5] s t)
  ∧ (∀ (s : State) (i : Initiator) (k : Nat) (r : TwRes) (rest : List TwRes), k < 8 → s.readOpen i (Reg.TWk_RDATA k) →
      (s.tw.get k).results = r :: rest →
      ∃ t, exec (.twRdataRead i k) s = .next t ∧ (t.tw.get k).rpos = (s.tw.get k).rpos + 4 ∧ (t.tw.get k).results = r :: rest
        ∧ t.out = s.out ++ [.readData i (leNat ((r.data.drop (s.tw.get k).rpos).take 4))] ∧ Frame [] s t)
  ∧ (∀ (s u : State) (p : LinkPkt) (k : Nat) (words : List Nat), k < 8 → s.takeItem 2 7 5 = (u, some (p, k :: words)) → u.follows = true →
      u.twMirrored k = true →
      ∃ t, exec .twinTwReceive s = .next t
        ∧ (t.tw.get k).queue = (u.tw.get k).queue ++ [twEntryOf (fun n => (k :: words).getD n 0) (k :: words)]
        ∧ Frame [Reg.TWk_STATUS k, Reg.TWk_RES k, Reg.TWk_ALERT k] u t)
  ∧ (∀ (s u : State) (g : Nat) (p0 p : LinkPkt) (words : List Nat), g < 3 → (s.grp.get g).rx.find? (fun q => q.cls == 4) = some p0 →
      p0.typ = 1 → s.takeItem g 4 1 = (u, some (p, words)) →
      let b := p0.payload.flatMap (leBytes 4)
      let k := b.getD 0 0 % 8
      let e : TwEntry := ⟨b.getD 1 0 % 128, (b.drop 8 ++ List.replicate (min 64 (b.getD 2 0)) 0).take (min 64 (b.getD 2 0)), min 64 (b.getD 3 0),
        bitB (b.getD 4 0) 0, p.tag % 16, false, some (g, p.tag), none, 0⟩
      (s.on (Reg.TWk_CFG k) Fld.TWk_CFG_OWNER = false → exec (.twReqReceive g) s = .next (u.twRespond g p.tag 9 0 0 []))
      ∧ (s.on (Reg.TWk_CFG k) Fld.TWk_CFG_OWNER = true → (s.tw.get k).queue.length < 16 → u.twShadow k = false →
          exec (.twReqReceive g) s = .next (u.twAccept k e)))
  ∧ (∀ (s u : State) (g : Nat) (p : LinkPkt) (words : List Nat), g < 3 → s.takeItem g 4 2 = (u, some (p, words)) →
      (u.tun.any (fun x => x.tag == p.tag) = true →
        ∃ t, exec (.twRspReceive g) s = .next t ∧ (∀ x, x ∈ t.tun ↔ x ∈ u.tun ∧ x.tag ≠ p.tag)
          ∧ t.out.length = u.out.length + 1 ∧ Frame [] u t)
      ∧ (u.tun = [] → u.tunQuar.any (fun q => q.1 == p.tag) = true →
          ∃ t, exec (.twRspReceive g) s = .next t ∧ Counted u t Reg.BRG_LATE_CNT ∧ t.on Reg.BRG_STATUS Fld.BRG_STATUS_LATE = true
            ∧ Frame [Reg.BRG_LATE_CNT, Reg.BRG_STATUS] u t))
  ∧ (∀ (s : State) (tag : Nat) (x : TunTx), tag < 16 → s.tun = [x] → x.tag = tag → x.since + s.tunTimeout ≤ s.now →
      ∃ t, exec (.tunTimeout tag) s = .next t ∧ t.tun = [] ∧ t.tunQuar = s.tunQuar ++ [(tag, s.now + 2 * s.tunTimeout)]
        ∧ t.out = s.out ++ [.bus tag "TW_RSP" [7, 0, 0, 0]] ∧ Counted s t (Reg.BRG_CNTk 6)
        ∧ t.on Reg.BRG_STATUS Fld.BRG_STATUS_TUN_TO = true ∧ Frame [Reg.BRG_CNTk 6, Reg.BRG_STATUS] s t)

/-- The two-wire buses of an unpaired device. A controller begins its oldest entry once the bus is free, and a mirrored entry at its start time. An entry
ends with OK and its data, with ADDR_NACK or DATA_NACK at the byte the target refused, with ARB_LOST once its retries are used up, with ARB_LOST_SP,
BUS_ERR or TIMEOUT; each is counted. An alert line that is low sets its level, an answered Alert Response Address read logs the address, and one that
nobody answers is ALERT_STUCK. It rests on choices and readings of the model: notes/assumptions/ 58, 59, 61, 67. -/
def Obligations.TwoWireBus : Prop :=
  (∀ (s : State) (k n high : Nat) (e : TwEntry) (q : List TwEntry), k < 8 → s.on Reg.GLB_ROLE Fld.GLB_ROLE_PAIRED = false → s.twDark = false →
      (s.tw.get k).live = false → (s.tw.get k).cur = none → (s.tw.get k).queue = e :: q → e.ara = false → (s.tw.get k).results.length < 16 →
      (s.tw.get k).clearDue = false → s.on (Reg.TWk_STATUS k) Fld.TWk_STATUS_IN_STUCK = false → s.araWants k = false → s.tBuf k ≤ n →
      ∃ t, exec (.twEntryStart k (some n) high none) s = .next t ∧ (t.tw.get k).cur = some e ∧ (t.tw.get k).live = true ∧ (t.tw.get k).queue = q
        ∧ t.out = s.out ++ [.bus k "START" [TwEntry.firstByte e]] ∧ t.on (Reg.TWk_STATUS k) Fld.TWk_STATUS_BUSY = true
        ∧ Frame [Reg.TWk_STATUS k, Reg.TWk_RES k, Reg.TWk_ALERT k] s t)
  ∧ (∀ (s : State) (k at_ : Nat) (free : Bool) (e : TwEntry) (q : List TwEntry), k < 8 → s.twDark = false → s.twinState ≠ 6 →
      (s.tw.get k).cur = none → (s.tw.get k).queue = e :: q → e.start = some at_ → at_ ≤ s.invar →
      ∃ t, exec (.twMirrorStart k free) s = .next t
        ∧ (free = true → (t.tw.get k).cur = some { e with start := none } ∧ (t.tw.get k).live = true ∧ (t.tw.get k).queue = q)
        ∧ (free = false → (t.tw.get k).cur = none ∧ (t.tw.get k).queue = { e with start := none } :: q)
        ∧ Frame [Reg.TWk_STATUS k, Reg.TWk_RES k, Reg.TWk_ALERT k] s t)
  ∧ (∀ (s : State) (k : Nat) (e : TwEntry), k < 8 → s.on Reg.GLB_ROLE Fld.GLB_ROLE_PAIRED = false → s.twDark = false →
      (s.tw.get k).cur = some e → (s.tw.get k).live = true → e.ara = false → e.tun = none →
      let res := (s.tw.get k).results
      let n := e.wdata.length
      (∀ read : List Nat, read.length = e.rlen → (∀ x ∈ read, x < 256) →
        ∃ t, exec (.twEntryEnd k none read) s = .next t ∧ (t.tw.get k).cur = none ∧ (t.tw.get k).results = res ++ [⟨0, e.tag, n, 0, read⟩]
          ∧ Counted s t (Reg.TWk_CNTj k 0) ∧ t.on (Reg.TWk_STATUS k) Fld.TWk_STATUS_DONE = true
          ∧ Frame [Reg.TWk_STATUS k, Reg.TWk_RES k, Reg.TWk_ALERT k, Reg.TWk_CNTj k 0] s t)
      ∧ (∀ (j : Nat) (read : List Nat), j ≤ n →
        ∃ t, exec (.twEntryEnd k (some j) read) s = .next t
          ∧ (t.tw.get k).results = res ++ [if j = 0 then ⟨1, e.tag, 0, 0, []⟩ else ⟨2, e.tag, j - 1, 0, []⟩]
          ∧ Counted s t (Reg.TWk_CNTj k 1) ∧ t.on (Reg.TWk_STATUS k) Fld.TWk_STATUS_ERR = true)
      ∧ (∀ (bitpos w : Nat), bitpos < 32 → w ≤ n →
        ∃ t, exec (.twArbLost k bitpos w []) s = .next t ∧ Counted s t (Reg.TWk_CNTj k 2) ∧ t.on (Reg.TWk_STATUS k) Fld.TWk_STATUS_ARB = true
          ∧ (e.tries < s.fld (Reg.TWk_CFG k) Fld.TWk_CFG_RETRIES → (t.tw.get k).cur = some { e with tries := e.tries + 1 }
              ∧ (t.tw.get k).live = false ∧ (t.tw.get k).results = res)
          ∧ (s.fld (Reg.TWk_CFG k) Fld.TWk_CFG_RETRIES ≤ e.tries → (t.tw.get k).cur = none
              ∧ (t.tw.get k).results = res ++ [⟨3, e.tag, w, bitpos, []⟩]))
      ∧ (∀ w : Nat, w ≤ n →
        (∃ t, exec (.twArbLostSp k w []) s = .next t ∧ (t.tw.get k).results = res ++ [⟨4, e.tag, w, 0, []⟩] ∧ Counted s t (Reg.TWk_CNTj k 3))
        ∧ (∃ t, exec (.twBusError k w []) s = .next t ∧ (t.tw.get k).results = res ++ [⟨5, e.tag, w, 0, []⟩] ∧ Counted s t (Reg.TWk_CNTj k 4))
        ∧ (∃ t, exec (.twStretchTimeout k w [] false none) s = .next t ∧ (t.tw.get k).results = res ++ [⟨7, e.tag, w, 0, []⟩]
            ∧ (t.tw.get k).clearDue = true)
        ∧ ∀ p, 1 ≤ p → p ≤ 9 → ∃ t, exec (.twStretchTimeout k w [] true (some p)) s = .next t
            ∧ (t.tw.get k).results = res ++ [⟨7, e.tag, w, 0, []⟩] ∧ Counted s t (Reg.TWk_CNTj k 5)))
  ∧ (∀ (s : State) (k : Nat), k < 8 → s.twDark = false → (s.tw.get k).clearDue = true → (s.tw.get k).cur = none → (s.tw.get k).queue = [] →
      ∃ t, exec (.twSclStuckLimit k) s = .next t ∧ t.on (Reg.TWk_STATUS k) Fld.TWk_STATUS_IN_STUCK = true
        ∧ t.on (Reg.TWk_STATUS k) Fld.TWk_STATUS_STUCK = true ∧ t.lodge.raised = s.lodge.raised ++ [⟨46, k, false⟩]
        ∧ Frame [Reg.TWk_STATUS k] s t)
  ∧ (∀ (s : State) (k ns : Nat), k < 8 →
      (∃ t, exec (.twAlertLow k) s = .next t ∧ t.on (Reg.TWk_STATUS k) Fld.TWk_STATUS_ALERT_LEVEL = true ∧ Frame [Reg.TWk_STATUS k] s t)
      ∧ ∃ t, exec (.twAlertRelease k ns) s = .next t ∧ t.on (Reg.TWk_STATUS k) Fld.TWk_STATUS_ALERT_LEVEL = false
        ∧ (t.tw.get k).araOff = ((s.tw.get k).araOff && decide (ns < 1000)) ∧ Frame [Reg.TWk_STATUS k] s t)
  ∧ (∀ (s : State) (k : Nat), k < 8 → s.on Reg.GLB_ROLE Fld.GLB_ROLE_PAIRED = false → s.twDark = false → (s.tw.get k).cur = none →
      s.araWants k = true → s.on (Reg.TWk_STATUS k) Fld.TWk_STATUS_IN_STUCK = false → (s.tw.get k).araLast = false →
      (s.tw.get k).queue.any (fun e => e.ara) = false → (s.tw.get k).alerts.length < 8 →
      (∀ b : Nat, ∃ t, exec (.twAraRead k (some b) false) s = .next t ∧ (t.tw.get k).alerts = (s.tw.get k).alerts ++ [b / 2 % 128]
        ∧ Counted s t (Reg.TWk_CNTj k 6) ∧ t.on (Reg.TWk_STATUS k) Fld.TWk_STATUS_ALERT = true)
      ∧ ∃ t, exec (.twAraRead k none false) s = .next t ∧ (t.tw.get k).araOff = true ∧ (t.tw.get k).alerts = (s.tw.get k).alerts
        ∧ t.on (Reg.TWk_STATUS k) Fld.TWk_STATUS_ALERT_STUCK = true ∧ Frame [Reg.TWk_STATUS k] s t)

/-- The board target TW8, enabled. A write that begins with POINTER and four bytes sets the pointer to a word; one that begins with DATA writes the word's
register and moves the pointer on; a read returns the register at the pointer and moves it on. An alert pulls its line until it is cancelled or its
address is read; a START in an acknowledge slot commits nothing and is counted. It rests on choices and readings of the model: notes/assumptions/ 62,
112. -/
def Obligations.BoardTarget : Prop :=
  (∀ (s : State) (b0 b1 b2 b3 : Byte), s.tw8On = true → s.inReset = false →
      ∃ t, exec (.tw8WriteCommit [0, b0, b1, b2, b3]) s = .next t
        ∧ t.tw8Ptr = (b0.toNat + b1.toNat * 256 + b2.toNat * 65536 + b3.toNat * 16777216) / 4 * 4
        ∧ t.on Reg.TW8_STATUS Fld.TW8_STATUS_WRITE = true ∧ Frame [Reg.TW8_STATUS] s t)
  ∧ (∀ (s : State) (b0 b1 b2 b3 : Byte) (r : RegRow), s.tw8On = true → s.inReset = false → s.writeOpen .tw8 s.tw8Ptr →
      s.tw8Ptr / 0x100000 ∈ [2, 5] → s.tw8Ptr % 4 = 0 → findReg s.tw8Ptr = some r →
      ∃ t, exec (.tw8WriteCommit [1, b0, b1, b2, b3]) s = .next t ∧ t.tw8Ptr = s.tw8Ptr + 4
        ∧ t.reg s.tw8Ptr = r.write (s.reg s.tw8Ptr) (BitVec.ofNat 32 (b0.toNat + b1.toNat * 256 + b2.toNat * 65536 + b3.toNat * 16777216)) 0
        ∧ Frame [s.tw8Ptr, Reg.TW8_STATUS] s t)
  ∧ (∀ (s : State) (r : RegRow), s.tw8On = true → s.inReset = false → s.inBoot = false → s.granted .tw8 0 s.tw8Ptr false = true →
      s.tw8Ptr / 0x100000 ∈ [2, 5] → s.tw8Ptr % 4 = 0 → findReg s.tw8Ptr = some r → statusSource s.tw8Ptr = none →
      ∃ t, exec .tw8ReadWord s = .next t ∧ t.tw8Ptr = s.tw8Ptr + 4 ∧ t.out = s.out ++ [.bus 8 "READ" (leBytes 4 (s.readReg s.tw8Ptr).toNat)]
        ∧ t.on Reg.TW8_STATUS Fld.TW8_STATUS_READ = true ∧ Frame [Reg.TW8_STATUS] s t)
  ∧ (∀ (s : State) (i : Initiator) (data : Word), s.writeOpen i Reg.TW8_CTRL →
      (data.toNat % 4 = 1 → ∃ t, exec (.tw8Alert i data) s = .next t ∧ t.on Reg.TW8_CTRL Fld.TW8_CTRL_ALERT = true ∧ Frame [Reg.TW8_CTRL] s t)
      ∧ (bitB data.toNat 1 = true → ∃ t, exec (.tw8AlertCancel i data) s = .next t ∧ t.on Reg.TW8_CTRL Fld.TW8_CTRL_ALERT = false ∧ Frame [Reg.TW8_CTRL] s t))
  ∧ (∀ (s : State), s.tw8On = true → s.on Reg.TW8_CTRL Fld.TW8_CTRL_ALERT = true →
      (∃ t, exec (.tw8AraAnswer false) s = .next t ∧ t.on Reg.TW8_CTRL Fld.TW8_CTRL_ALERT = false
        ∧ t.out = s.out ++ [.bus 8 "ARA" [2 * s.fld Reg.TW8_CFG Fld.TW8_CFG_ADDR], .pin "TGT_ALERT_N" 0 1] ∧ Frame [Reg.TW8_CTRL] s t)
      ∧ exec (.tw8AraAnswer true) s = .next s)
  ∧ (∀ (s : State), s.tw8On = true →
      ∃ t, exec .tw8Violation s = .next t ∧ t.on Reg.TW8_STATUS Fld.TW8_STATUS_VIOLATION = true ∧ Counted s t Reg.TW8_VIOL_CNT
        ∧ t.tw8Ptr = s.tw8Ptr ∧ Frame [Reg.TW8_STATUS, Reg.TW8_VIOL_CNT] s t)

/-- The Lodge. A corrected signal, or an error of class corrected, sets its bit, counts, and is logged at most once a millisecond. A contained error in
NORMAL sets its FC_STATUS bit and opens an episode with a new EPISODE_ID and an escalation time; it fences a port or MC1. A fatal error, or an episode
that nobody acknowledges in time, once that time has passed, enters the fault state: the quiet timer starts, a lead with a shadow in step fixes a
takeover 1 µs ahead, and any other device that is past BOOT is in twin state FAULT. Errors in FAULT restart the quiet timer; its expiry recovers, and
the fourth entry in 60 s holds. FC_ACK, FC_REVIVE and FC_INJECT have the effects of their rules. It rests on choices and readings of the model:
notes/assumptions/ 48, 66, 67, 68, 104, 150. -/
def Obligations.LodgeEpisodes : Prop :=
  (∀ (s : State) (source index : Nat) (corrected : Bool), source < 55 → index < 8 →
      (⟨source, index, corrected⟩ : LodgeSig) ∈ s.lodge.raised → (corrected = false → s.classOf source index = 0) →
      let soon := (s.lodge.corrLogged.get source).any (fun x => decide (s.now < x + 1000000))
      ∃ t, exec (if corrected then .lodgeCorrectedSignal source index else .lodgeErrorSignal source index) s = .next t
        ∧ t.bit (if source < 32 then Reg.FC_CORR_LO else Reg.FC_CORR_HI) (source % 32) = true ∧ Counted s t Reg.FC_CORR_CNT
        ∧ t.on Reg.FC_EVENT Fld.FC_EVENT_CORR = true
        ∧ t.reg Reg.MGT_LOG_SEQ = s.reg Reg.MGT_LOG_SEQ + (if soon then 0 else 1)
        ∧ t.lodge.raised = s.lodge.raised.erase ⟨source, index, corrected⟩
        ∧ Frame [Reg.FC_CORR_LO, Reg.FC_CORR_HI, Reg.FC_CORR_CNT, Reg.FC_EVENT, Reg.MGT_LOG_SEQ] s t)
  ∧ (∀ (s : State) (source index : Nat), 32 ≤ source → source < 55 → source ≠ 50 → index < 8 →
      (⟨source, index, false⟩ : LodgeSig) ∈ s.lodge.raised → s.classOf source index = 1 →
      (s.fcState = 0 →
        ∃ t, exec (.lodgeErrorSignal source index) s = .next t ∧ t.bit Reg.FC_STATUS_HI (source - 32) = true ∧ t.fcState = 1
          ∧ t.fld Reg.FC_ESC_STATUS Fld.FC_ESC_STATUS_EPISODE_ID = (s.fld Reg.FC_ESC_STATUS Fld.FC_ESC_STATUS_EPISODE_ID + 1) % 2 ^ 16
          ∧ Counted s t Reg.FC_EPISODE ∧ t.on Reg.FC_EVENT Fld.FC_EVENT_EPISODE = true ∧ t.lodge.escUntil = some (s.now + s.escNs)
          ∧ t.reg Reg.MGT_LOG_SEQ = s.reg Reg.MGT_LOG_SEQ + 1
          ∧ Frame [Reg.FC_STATUS_HI, Reg.FC_ESC_STATUS, Reg.FC_EPISODE, Reg.FC_EVENT, Reg.MGT_LOG_SEQ] s t)
      ∧ (s.fcState = 1 → ∃ t, exec (.lodgeErrorSignal source index) s = .next t ∧ t.bit Reg.FC_STATUS_HI (source - 32) = true
          ∧ t.lodge.escUntil = s.lodge.escUntil ∧ Frame [Reg.FC_STATUS_HI, Reg.MGT_LOG_SEQ] s t)
      ∧ (s.fcState = 2 → ∃ t, exec (.lodgeErrorSignal source index) s = .next t ∧ t.bit Reg.FC_STATUS_HI (source - 32) = true
          ∧ t.lodge.quietUntil = some (s.now + s.quietNs) ∧ Frame [Reg.FC_STATUS_HI, Reg.MGT_LOG_SEQ] s t))
  ∧ (∀ (s : State), s.fcState = 0 →
      (∀ source < 16, (⟨source, 0, false⟩ : LodgeSig) ∈ s.lodge.raised → s.classOf source 0 = 1 → s.bit Reg.FC_FENCE_PORT source = false →
        (∀ ch < 64, (s.stream.get ch).isOpen = false) →
        ∃ t, exec (.lodgeErrorSignal source 0) s = .next t ∧ t.fcState = 1 ∧ t.bit Reg.FC_FENCE_PORT source = true
          ∧ (t.port.get source).running = false ∧ t.bit Reg.FC_STATUS_LO source = true)
      ∧ ((⟨50, 1, false⟩ : LodgeSig) ∈ s.lodge.raised → s.classOf 50 1 = 1 →
        ∃ t, exec (.lodgeErrorSignal 50 1) s = .next t ∧ t.fcState = 1 ∧ t.on Reg.FC_FENCE_UNIT_HI Fld.FC_FENCE_UNIT_HI_MC1 = true
          ∧ t.on Reg.MGT_STATUS Fld.MGT_STATUS_MC1_RUN = false))
  ∧ (∀ (s : State) (source index : Nat), source < 55 → index < 8 → (⟨source, index, false⟩ : LodgeSig) ∈ s.lodge.raised →
      s.classOf source index = 2 → s.fcState < 2 → (∀ n < 16, (s.port.get n).running = false) →
      ∃ t, exec (.lodgeErrorSignal source index) s = .next t ∧ t.fcState = 2 ∧ t.on Reg.FC_EVENT Fld.FC_EVENT_FAULT = true
        ∧ t.lodge.quietUntil = some (s.now + s.quietNs) ∧ t.lodge.faultTimes = s.lodge.faultTimes ++ [s.now]
        ∧ (s.twinState = 2 → s.partnerState = 5 → s.twin.take = none →
            t.twinState = 2 ∧ t.twin.take = some ((s.invar + 1000) % 2 ^ 64, 1))
        ∧ (¬(s.twinState = 2 ∧ s.partnerState = 5) → t.twinState = (if s.twinState = 0 then 0 else 7)))
  ∧ (∀ (s : State) (d : Nat), s.fcState = 1 → s.lodge.escUntil = some d → (∀ n < 16, (s.port.get n).running = false) →
      (s.now ≤ d → exec .escalationTimeout s = .next s)
      ∧ (d < s.now → ∃ t, exec .escalationTimeout s = .next t ∧ t.fcState = 2 ∧ t.on Reg.FC_EVENT Fld.FC_EVENT_ESCALATED = true
          ∧ t.on Reg.FC_EVENT Fld.FC_EVENT_FAULT = true))
  ∧ (∀ (s : State) (i : Initiator) (data : Word), s.writeOpen i Reg.FC_ACK →
      let hit := s.fcState = 1 ∧ data.toNat / 2 ^ 16 = s.fld Reg.FC_ESC_STATUS Fld.FC_ESC_STATUS_EPISODE_ID
      ∃ t, exec (.fcAck i data) s = .next t
        ∧ (hit → t.fcState = 0 ∧ t.lodge.escUntil = none ∧ t.reg Reg.MGT_LOG_SEQ = s.reg Reg.MGT_LOG_SEQ + 1
            ∧ Frame [Reg.FC_ESC_STATUS, Reg.MGT_LOG_SEQ] s t)
        ∧ (¬hit → Counted s t Reg.FC_ACK_IGN_CNT ∧ t.on Reg.FC_EVENT Fld.FC_EVENT_ACK_IGN = true
            ∧ Frame [Reg.FC_ACK_IGN_CNT, Reg.FC_EVENT] s t))
  ∧ (∀ (s : State) (d : Nat), s.fcState = 2 → s.lodge.quietUntil = some d → s.twin.take = none →
      let n := (s.lodge.faultTimes.filter (fun x => decide (s.now < x + 60000000000))).length
      (s.now ≤ d → exec .quietTimerExpiry s = .next s)
      ∧ (d < s.now → 4 ≤ n → ∃ t, exec .quietTimerExpiry s = .next t ∧ t.fcState = 3 ∧ Frame [Reg.FC_ESC_STATUS] s t)
      ∧ (d < s.now → n < 4 → s.fences = [] → (∀ x ∈ s.lodge.touched, 32 ≤ x ∧ x ≠ 50) →
          ∃ t, exec .quietTimerExpiry s = .next t ∧ t.fcState = 0 ∧ Counted s t Reg.FC_RECOVERIES
            ∧ t.on Reg.FC_EVENT Fld.FC_EVENT_RECOVERED = true ∧ t.lodge.touched = []
            ∧ (s.twinState = 7 → t.twinState = if s.on Reg.GLB_ROLE Fld.GLB_ROLE_PAIRED then 6 else 3)))
  ∧ (∀ (s : State) (i : Initiator) (data : Word), s.writeOpen i Reg.FC_REVIVE →
      Fld.FC_REVIVE_GO.get data = 1 → s.boot.resetDue = none →
      let src := Fld.FC_REVIVE_SOURCE.get data
      (s.fcState ≠ 0 → ∃ t, exec (.fcRevive i data) s = .next t ∧ t.on Reg.FC_EVENT Fld.FC_EVENT_REVIVE_IGN = true
          ∧ Frame [Reg.FC_EVENT] s t)
      ∧ (32 ≤ src → src < 40 → ∃ t, exec (.fcRevive i data) s = .next t ∧ t.on Reg.FC_EVENT Fld.FC_EVENT_REVIVE_IGN = true
          ∧ Frame [Reg.FC_EVENT] s t)
      ∧ (s.fcState = 0 → src < 16 → ∃ t, exec (.fcRevive i data) s = .next t ∧ t.bit Reg.FC_FENCE_PORT src = false
          ∧ Counted s t (Reg.PCR_CNTk 6))
      ∧ (s.fcState = 0 → src = 50 → Fld.FC_REVIVE_INDEX.get data = 1 → ∃ t, exec (.fcRevive i data) s = .next t
          ∧ t.on Reg.FC_FENCE_UNIT_HI Fld.FC_FENCE_UNIT_HI_MC1 = false ∧ t.on Reg.MGT_STATUS Fld.MGT_STATUS_MC1_RUN = true
          ∧ Frame [Reg.FC_FENCE_UNIT_HI, Reg.MGT_STATUS, Reg.PCR_CNTk 6] s t))
  ∧ (∀ (s : State) (i : Initiator) (data : Word), s.writeOpen i Reg.FC_INJECT → Fld.FC_INJECT_GO.get data = 1 →
      let src := Fld.FC_INJECT_SOURCE.get data
      32 ≤ src → src < 55 → src ≠ 50 →
      (Fld.FC_INJECT_KIND.get data = 0 → ∃ t, exec (.fcInject i data) s = .next t ∧ t.bit Reg.FC_CORR_HI (src - 32) = true
          ∧ Counted s t Reg.FC_CORR_CNT ∧ Frame [Reg.FC_CORR_HI, Reg.FC_CORR_CNT, Reg.FC_EVENT, Reg.MGT_LOG_SEQ] s t)
      ∧ (Fld.FC_INJECT_KIND.get data = 1 → s.classOf src (Fld.FC_INJECT_INDEX.get data) = 1 → s.fcState = 0 →
          ∃ t, exec (.fcInject i data) s = .next t ∧ t.bit Reg.FC_STATUS_HI (src - 32) = true ∧ t.fcState = 1 ∧ Counted s t Reg.FC_EPISODE))
  ∧ (∀ (s : State) (ch k n d : Nat) (m : MoveSt), ch < 64 → k < 5 → n < unitCount k → s.lodge.moves = [m] → m.ch = ch → m.kind = k →
      m.unit = n → m.loadUntil = some d →
      ∃ t, exec (.spareLoadDone ch k n) s = .next t ∧ t.lodge.moves = [{ m with loadUntil := none }] ∧ SameBytes s t)

/-- Power states of an unpaired device, islands and alarms. The state chosen is the deepest that MAX_STATE, the horizon with the exit latency and the
guard interval, and for P3 its own conditions allow. A quiet device without open pulses, which no wake event meets, enters it, and counts it. A wake
event that holds ends the state or aborts the entry, and the exit ends after the state's latency, with every held generator at phase 0. An access
wakes its island alone, for 10 µs past the last one. A PLL that loses lock, a supply outside its window and a junction above 115 °C raise their Lodge
errors. It rests on choices and readings of the model: notes/assumptions/ 79, 80, 81, 82, 147. -/
def Obligations.PowerStates : Prop :=
  (∀ s : State, s.chooseState ≤ s.fld Reg.PCR_CTRL Fld.PCR_CTRL_MAX_STATE ∧ s.chooseState ≤ 3
      ∧ (s.chooseState = 3 → s.mayP3 = true) ∧ (s.chooseState ≠ 0 → s.roomFor s.chooseState = true)
      ∧ ∀ st, 1 ≤ st → st ≤ 3 → st ≤ s.fld Reg.PCR_CTRL Fld.PCR_CTRL_MAX_STATE → s.roomFor st = true → (st = 3 → s.mayP3 = true) →
          st ≤ s.chooseState)
  ∧ (∀ s : State, s.pwr.entry = none → s.pwr.exitAt = none → s.pwrState = 0 → s.follows = false → s.leadsPair = false →
      (s.quiet = false ∨ (∃ c ∈ [2, 4, 6], s.wakes c 0 = true) → exec .powerStateEntry s = .next s)
      ∧ (s.quiet = true → (∀ c ∈ [2, 4, 6], s.wakes c 0 = false) → s.chooseState ≠ 0 → (∀ e ∈ s.gen, e.2.pulses = []) → (∀ e ∈ s.entry, e.1 < 128 → e.2.owed = []) →
          ∃ t, exec .powerStateEntry s = .next t ∧ t.pwrState = s.chooseState ∧ Counted s t (Reg.PCR_CNTk (s.chooseState - 1))
            ∧ t.pwr.entry = none ∧ t.pwr.held = s.runningGens ∧ t.pwr.awake = []
            ∧ t.reg Reg.PCR_HORIZON = BitVec.ofNat 32 (match s.horizon with | none => 0xFFFFFFFF | some h => min 0xFFFFFFFE (h / 1000))))
  ∧ (∀ (s : State) (cause pin : Nat), 1 ≤ cause → cause < 9 → pin < 40 → s.follows = false → s.pwr.exitAt = none →
      (s.wakes cause pin = false → exec (.powerWake cause pin) s = .next s)
      ∧ (s.wakes cause pin = true → s.pwrState ≠ 0 → ∃ t, exec (.powerWake cause pin) s = .next t
          ∧ t.fld Reg.PCR_WAKE_LAST Fld.PCR_WAKE_LAST_CAUSE = cause ∧ t.pwr.exitAt = some (s.now, s.pwrState) ∧ t.pwrState = s.pwrState)
      ∧ ∀ st at_ : Nat, s.wakes cause pin = true → s.pwrState = 0 → s.pwr.entry = some (st, at_) →
          ∃ t, exec (.powerWake cause pin) s = .next t ∧ t.on Reg.PCR_STATUS Fld.PCR_STATUS_ENTRY_ABORT = true ∧ Counted s t (Reg.PCR_CNTk 3)
            ∧ t.pwr.entry = none ∧ t.pwr.exitAt = some (s.now, st) ∧ Frame [Reg.PCR_STATUS, Reg.PCR_CNTk 3, Reg.PCR_HORIZON] s t)
  ∧ (∀ (s : State) (at_ st : Nat), s.pwr.exitAt = some (at_, st) → s.pwrState = st → 1 ≤ st → st < 3 →
      (s.now < at_ + exitNs st → exec .powerExitComplete s = .next s)
      ∧ (at_ + exitNs st ≤ s.now → ∃ t, exec .powerExitComplete s = .next t ∧ t.pwrState = 0 ∧ t.on Reg.PCR_STATUS Fld.PCR_STATUS_WAKE = true
          ∧ t.pwr.exitAt = none ∧ t.pwr.held = 0 ∧ (∀ i < 32, bitB s.pwr.held i = true → (t.gen.get i).phase = 0)
          ∧ (∀ e < 128, (t.entry.get e).phase = 0) ∧ Frame [Reg.PCR_STATUS] s t))
  ∧ exitNs 1 = 2000 ∧ exitNs 2 = 60000 ∧ exitNs 3 = 8000000
  ∧ (∀ (s : State) (isl : Nat), isl < 38 → islandStops s.pwrState isl = true → s.pwrState ≠ 3 → s.pwr.exitAt = none →
      ∃ t, exec (.islandWake isl) s = .next t ∧ (isl, s.now) ∈ t.pwr.awake
        ∧ ((∀ a ∈ s.pwr.awake, a.1 ≠ isl) → Counted s t (Reg.PCR_CNTk 4) ∧ Frame [Reg.PCR_CNTk 4] s t)
        ∧ ((∃ a ∈ s.pwr.awake, a.1 = isl) → Frame [] s t))
  ∧ (∀ (s : State) (isl : Nat), isl < 38 →
      ∃ t, exec (.islandIdleReturn isl) s = .next t ∧ (∀ a, a ∈ t.pwr.awake ↔ a ∈ s.pwr.awake ∧ (a.1 ≠ isl ∨ s.now < a.2 + 10000)) ∧ Frame [] s t)
  ∧ (∀ s : State,
      (∃ t, exec .pllLockLoss s = .next t ∧ t.lodge.raised = s.lodge.raised ++ [⟨53, 0, false⟩] ∧ Frame [] s t)
      ∧ (s.boot.rstLow = true → exec .supplyOutOfWindow s = .next s)
      ∧ (s.boot.rstLow = false → ∃ t, exec .supplyOutOfWindow s = .next t ∧ t.lodge.raised = s.lodge.raised ++ [⟨52, 0, false⟩] ∧ Frame [] s t))
  ∧ (∀ (s : State) (temp : Nat), temp < 4096 →
      let deg4 := if temp < 2048 then (temp : Int) else (temp : Int) - 4096
      let warn : Int := 4 * (s.fld Reg.PCR_CFG Fld.PCR_CFG_THERM_WARN : Nat)
      ∃ t, exec (.thermalAlarm temp) s = .next t ∧ t.fld Reg.PCR_TEMP Fld.PCR_TEMP_TEMP = temp
        ∧ t.lodge.raised = s.lodge.raised ++ (if 460 < deg4 then [⟨52, 0, false⟩] else [])
        ∧ (warn ≤ deg4 → s.pwr.warned = false → t.on Reg.PCR_STATUS Fld.PCR_STATUS_THERM_WARN = true ∧ t.pwr.warned = true)
        ∧ (deg4 < warn → t.reg Reg.PCR_STATUS = s.reg Reg.PCR_STATUS ∧ t.pwr.warned = (s.pwr.warned && decide (warn - 20 < deg4)))
        ∧ Frame [Reg.PCR_TEMP, Reg.PCR_STATUS] s t)

/-- What the twins tell each other. A decision of the lead acts on a device that follows, and on no other. A decision that is missing is taken by the
device itself, and is an event, a count and a Lodge error. The snapshot acts in ADMIT. A shadow keeps the earliest takeover it hears of. A STATE
report shows the partner's state and moves a joining, leading, lone, following or detached device. The report and the heartbeat's loss show
HB_PRESENT. A HOST device follows the head whose lead state changed last. It rests on choices and readings of the model: notes/assumptions/ 31, 49,
51, 53, 54, 57, 61, 124, 127, 129, 142. -/
def Obligations.TwinMessages : Prop :=
  (∀ (s u : State) (p : LinkPkt) (w0 w1 w2 w3 w4 : Nat), s.takeItem 2 7 1 = (u, some (p, [w0, w1, w2, w3, w4])) →
      (u.follows = false → exec .twinDecReceive s = .next u)
      ∧ (u.follows = true → exec .twinDecReceive s = .next (u.applyDec [w0, w1, w2, w3, w4])
          ∧ (w0 % 16 = 7 → w2 ≠ 0 → u.pwrState = 0 → u.pwr.exitAt = none →
              ∃ t, exec .twinDecReceive s = .next t ∧ t.pwr.entry = some (w2, w3 + w4 * 2 ^ 32) ∧ Frame [] u t)))
  ∧ (∀ (s : State) (kind a b : Nat), kind < 8 → a < 64 → b < 24 → (kind = 1 → a < 16) → (kind = 5 → a < 4) →
      (s.follows = false → exec (.decLate kind a b) s = .next s)
      ∧ (s.follows = true → s.decideLate kind a b = none → exec (.decLate kind a b) s = .next s)
      ∧ ∀ f, s.follows = true → s.decideLate kind a b = some f → exec (.decLate kind a b) s = .next (f s.decMissing))
  ∧ (∀ s : State, s.decMissing.on Reg.TWN_EVENT Fld.TWN_EVENT_DEC_LATE = true ∧ Counted s s.decMissing (Reg.TWN_CNTk 3)
      ∧ s.decMissing.lodge.raised = s.lodge.raised ++ [⟨54, 0, false⟩] ∧ Frame [Reg.TWN_EVENT, Reg.TWN_CNTk 3] s s.decMissing)
  ∧ (∀ (s u : State) (p : LinkPkt) (words : List Nat), s.takeItem 2 7 8 = (u, some (p, words)) →
      (u.twinState ≠ 4 → exec .twinSnapReceive s = .next u)
      ∧ (u.twinState = 4 → ∃ t, exec .twinSnapReceive s = .next t ∧ t = u.applySnap words ∧ t.twin.snapped = true ∧ t.queue = []))
  ∧ (∀ (s u : State) (p : LinkPkt) (c lo hi : Nat), s.takeItem 2 7 7 = (u, some (p, [c, lo, hi])) →
      let t0 := lo + hi * 2 ^ 32
      (u.twinState ≠ 5 → exec .twinTakeReceive s = .next u)
      ∧ (u.twinState = 5 → ∃ t, exec .twinTakeReceive s = .next t ∧ Frame [] u t
          ∧ (u.twin.take = none → t.twin.take = some (t0, c % 4))
          ∧ ∀ x d, u.twin.take = some (x, d) → t.twin.take = some (if x < t0 then (x, d) else (t0, c % 4))))
  ∧ (∀ (s u : State) (p : LinkPkt) (w0 w1 : Nat), s.takeItem 2 7 6 = (u, some (p, [w0, w1])) →
      let st := w0 % 8
      let paired := u.inServiceGroup 2
      ∃ t, exec .twinStateReceive s = .next t
        ∧ t.partnerState = st ∧ t.fld Reg.TWN_STATUS Fld.TWN_STATUS_PARTNER_STATE = st
        ∧ (u.twinState = 1 → paired = true → st = 1 → t.twinState = if u.fld Reg.GLB_ROLE Fld.GLB_ROLE_TWIN_ID = 0 then 2 else 5)
        ∧ (u.twinState = 1 → paired = true → st = 2 ∨ st = 3 → t.twinState = if u.on Reg.TWN_CFG Fld.TWN_CFG_AUTO_ADMIT then 4 else 6)
        ∧ (u.twinState = 2 → st = 6 ∨ st = 7 → u.fcState < 2 →
            t.twinState = 3 ∧ t.on Reg.TWN_EVENT Fld.TWN_EVENT_PARTNER_LOST = true ∧ Counted u t (Reg.TWN_CNTk 5))
        ∧ (u.twinState = 3 → st = 5 → t.twinState = 2)
        ∧ (u.twinState = 3 → st = 5 → u.partnerState = 4 → t.on Reg.TWN_EVENT Fld.TWN_EVENT_ADMITTED = true ∧ Counted u t (Reg.TWN_CNTk 7))
        ∧ (u.twinState = 4 → st = 6 ∨ st = 7 → t.twinState = 6 ∧ t.on Reg.TWN_EVENT Fld.TWN_EVENT_ADMIT_FAIL = true)
        ∧ (u.twinState = 5 → st = 6 ∨ st = 7 → u.on Reg.TWN_STATUS Fld.TWN_STATUS_HB_PRESENT = false → u.twin.take = none →
            t.twinState = 5 ∧ t.twin.take = some (u.invar, 0))
        ∧ (u.twinState = 5 → st = 6 ∨ st = 7 → u.on Reg.TWN_STATUS Fld.TWN_STATUS_HB_PRESENT = true → u.twin.take = none → t.twinState = 6)
        ∧ (u.twinState = 6 → paired = true → st = 2 ∨ st = 3 → u.on Reg.TWN_CFG Fld.TWN_CFG_AUTO_ADMIT = true →
            t.twinState = 4 ∧ ∀ n < 64, (t.stream.get n).waitJoin = true))
  ∧ (∀ (s : State) (hb : Bool), ∃ t, exec (.twinStateReportTick hb) s = .next t ∧ Frame [Reg.TWN_STATUS] s t
      ∧ (hb = true → t.on Reg.TWN_STATUS Fld.TWN_STATUS_HB_PRESENT = true) ∧ (hb = false → t.reg Reg.TWN_STATUS = s.reg Reg.TWN_STATUS))
  ∧ (∀ s : State, ∃ t, exec .heartbeatLoss s = .next t ∧ t.on Reg.TWN_STATUS Fld.TWN_STATUS_HB_PRESENT = false
      ∧ t.on Reg.TWN_EVENT Fld.TWN_EVENT_HB_LOST = (s.on Reg.TWN_EVENT Fld.TWN_EVENT_HB_LOST || s.inServiceGroup 2)
      ∧ Frame [Reg.TWN_STATUS, Reg.TWN_EVENT] s t)
  ∧ (∀ (s u : State) (p : LinkPkt) (g w0 w1 w2 : Nat), g < 2 → s.takeRx g 6 5 = (u, some p) → p.spec0 = w0 → p.spec1 = w1 → p.payload = [w2] →
      u.fld Reg.GLB_ROLE Fld.GLB_ROLE_ROLE = 2 → bitB w0 1 = true → (∀ k < 64, (u.relay.get k).kept = []) →
      let at_ := w1 + w2 * 2 ^ 32
      (u.headLead = none → u.twin.heads.get (1 - g) = none → ∃ t, exec (.headLeadReceive g) s = .next t ∧ t.headLead = some g ∧ Frame [] u t)
      ∧ ∀ t0, u.headLead = some (1 - g) → u.twin.heads.get (1 - g) = some (true, t0) →
          (t0 < at_ → ∃ t, exec (.headLeadReceive g) s = .next t ∧ t.headLead = some g
              ∧ t.on Reg.TWN_EVENT Fld.TWN_EVENT_HEAD_SWITCH = true ∧ Frame [Reg.TWN_EVENT] u t)
          ∧ (at_ < t0 → ∃ t, exec (.headLeadReceive g) s = .next t ∧ t.headLead = some (1 - g) ∧ Frame [] u t))
  ∧ (∀ s : State, (s.now < s.twin.sentAt + 10000 → exec .headLeadRefresh s = .next s)
      ∧ (s.twin.sentAt + 10000 ≤ s.now → s.fld Reg.GLB_ROLE Fld.GLB_ROLE_ROLE = 1 →
          ∃ t, exec .headLeadRefresh s = .next t ∧ t.twin.sentAt = s.now ∧ Frame [] s t))

/-- The twin states. Entering a state shows it in TWN_STATUS, in SYNC, in GLB_ROLE.LEAD and in SHADOW_APPLY. An admission ends in SHADOW when the sync
condition holds, and in DETACHED at its timeout. A silent partner makes a lead go on alone, detaches a shadow that still hears the heartbeat, and
makes one that does not fix a takeover. A joining or detached device becomes ALONE once group T has stayed away. HANDOVER fixes a takeover 10 µs
ahead, ADMIT tells a detached partner, DETACH detaches a shadow, and each is ignored elsewhere. The old lead releases its balls 100 ns before T0 and
leaves the lead state at T0, where the shadow becomes the lead. It rests on choices and readings of the model: notes/assumptions/ 51, 52, 55, 56, 69,
105, 110, 138. -/
def Obligations.TwinStates : Prop :=
  (∀ (s : State) (st : Nat), st < 8 → (s.setTwin st).twinState = st
      ∧ (s.setTwin st).on Reg.GLB_ROLE Fld.GLB_ROLE_LEAD = (st == 2 || st == 3)
      ∧ (s.setTwin st).on Reg.TWN_STATUS Fld.TWN_STATUS_SYNC = (st == 2 || st == 5)
      ∧ (s.setTwin st).on Reg.PGL_STATUS Fld.PGL_STATUS_SHADOW_APPLY = (st == 4 || st == 5))
  ∧ (∀ s : State, s.twinState = 4 →
      exec (.syncConditionMet false) s = .next s
      ∧ (s.twin.snapped = true → s.on Reg.TB_SYNC_STATUS Fld.TB_SYNC_STATUS_LOCKED = true →
          (∀ n < 64, s.on (Reg.ST_BINDn n) Fld.ST_BINDn_VALID = true → (s.stream.get n).waitJoin = false) → s.dmaCaughtUp = true →
          ∃ t, exec (.syncConditionMet true) s = .next t ∧ t.twinState = 5 ∧ t.on Reg.TWN_EVENT Fld.TWN_EVENT_ADMITTED = true
            ∧ Counted s t (Reg.TWN_CNTk 7))
      ∧ (s.twin.admitAt + 1000000 * max 100 (s.fld Reg.TWN_ADMIT_TIMEOUT Fld.TWN_ADMIT_TIMEOUT_MS) ≤ s.now →
          ∃ t, exec .admitTimeout s = .next t ∧ t.twinState = 6 ∧ t.on Reg.TWN_EVENT Fld.TWN_EVENT_ADMIT_FAIL = true
            ∧ t.reg Reg.MGT_LOG_SEQ = s.reg Reg.MGT_LOG_SEQ + 1)
      ∧ (s.now < s.twin.admitAt + 1000000 * max 100 (s.fld Reg.TWN_ADMIT_TIMEOUT Fld.TWN_ADMIT_TIMEOUT_MS) → exec .admitTimeout s = .next s))
  ∧ (∀ s : State,
      (s.twinState = 2 → s.fcState < 2 → ∃ t, exec (.partnerLoss true) s = .next t ∧ t.twinState = 3
        ∧ t.on Reg.TWN_EVENT Fld.TWN_EVENT_PARTNER_LOST = true ∧ Counted s t (Reg.TWN_CNTk 5))
      ∧ (s.twinState = 5 → s.on Reg.TWN_STATUS Fld.TWN_STATUS_HB_PRESENT = true → s.twin.take = none →
          ∃ t, exec (.partnerLoss true) s = .next t ∧ t.twinState = 6)
      ∧ (s.twinState = 5 → s.on Reg.TWN_STATUS Fld.TWN_STATUS_HB_PRESENT = false → s.twin.take = none →
          ∃ t, exec (.partnerLoss true) s = .next t ∧ t.twinState = 5 ∧ t.twin.take = some (s.invar, 0)
            ∧ Frame [Reg.TWN_EVENT, Reg.TWN_CNTk 5] s t)
      ∧ (s.inServiceGroup 2 = true → exec (.partnerLoss false) s = .next s)
      ∧ (s.twinState ∉ [2, 4, 5] → exec (.partnerLoss true) s = .next s))
  ∧ (∀ (s : State) (hb : Bool), s.inServiceGroup 2 = false →
      s.twin.downAt + 1000000 * max 10 (s.fld Reg.TWN_CFG Fld.TWN_CFG_ALONE_MS) ≤ s.now →
      (s.twinState = 1 → ∃ t, exec (.aloneTimeout hb) s = .next t
        ∧ t.twinState = if hb && s.on Reg.GLB_ROLE Fld.GLB_ROLE_TWIN_ID then 6 else 3)
      ∧ (s.twinState = 6 → ∃ t, exec (.aloneTimeout hb) s = .next t ∧ t.twinState = if hb then 6 else 3))
  ∧ (∀ (s : State) (i : Initiator) (data : Word), s.writeOpen i Reg.TWN_CTRL →
      let bit (k : Nat) : Bool := bitB data.toNat k
      (bit 0 = true → s.twinState = 2 → s.partnerState = 5 → s.twin.take = none →
        ∃ t, exec (.twinHandover i data) s = .next t ∧ t.twin.take = some (s.invar + 10000, 2) ∧ t.twinState = 2 ∧ Frame [Reg.TWN_EVENT] s t
          ∧ (bit 1 = false → bit 2 = false → Frame [] s t))
      ∧ (bit 0 = true → bit 2 = false → s.twinState ≠ 2 → ∃ t, exec (.twinHandover i data) s = .next t ∧ t.on Reg.TWN_EVENT Fld.TWN_EVENT_CMD_IGN = true
          ∧ t.twin.take = s.twin.take ∧ Frame [Reg.TWN_EVENT] s t)
      ∧ (bit 0 = false → bit 1 = true → bit 2 = false → s.leads = true → s.partnerState = 6 → s.inServiceGroup 2 = true →
          ∃ t, exec (.twinAdmit i data) s = .next t ∧ Frame [] s t)
      ∧ (bit 1 = true → bit 2 = false → s.leads = false → s.twinState ≠ 2 → ∃ t, exec (.twinAdmit i data) s = .next t ∧ t.on Reg.TWN_EVENT Fld.TWN_EVENT_CMD_IGN = true ∧ Frame [Reg.TWN_EVENT] s t)
      ∧ (bit 2 = true → s.twinState = 5 → ∃ t, exec (.twinDetach i data) s = .next t ∧ t.twinState = 6)
      ∧ (bit 0 = false → bit 1 = false → bit 2 = true → s.twinState ≠ 5 → ∃ t, exec (.twinDetach i data) s = .next t ∧ t.on Reg.TWN_EVENT Fld.TWN_EVENT_CMD_IGN = true ∧ Frame [Reg.TWN_EVENT] s t))
  ∧ (∀ (s : State) (t0 c : Nat), s.twin.take = some (t0, c) → s.leads = true →
      (s.invar + 100 < t0 → exec .oldLeadRelease s = .next s)
      ∧ (t0 ≤ s.invar + 100 → s.invar < t0 → s.fcState < 2 → ∃ t, exec .oldLeadRelease s = .next t ∧ t.twin.released = true ∧ t.twin.take = some (t0, c))
      ∧ (t0 ≤ s.invar → s.twin.released = true → ∃ t, exec .oldLeadRelease s = .next t ∧ t.twin.take = none
          ∧ t.twinState = if s.fcState < 2 then 5 else 7))
  ∧ (∀ (s : State) (t0 c : Nat), s.twin.take = some (t0, c) → s.twinState = 5 → c < 4 →
      (s.invar < t0 → exec .takeover s = .next s)
      ∧ (t0 ≤ s.invar → (∀ ch < 64, (s.chan.get ch).wait = []) → (∀ p < 4, ∀ k < 8, (s.guC p k).wait = []) → s.image.latchWait = [] →
          ∃ t, exec .takeover s = .next t ∧ t.twinState = 3 ∧ t.twin.take = none ∧ t.on Reg.GLB_ROLE Fld.GLB_ROLE_LEAD = true
            ∧ t.on Reg.TWN_EVENT Fld.TWN_EVENT_TAKEOVER = true ∧ Counted s t (Reg.TWN_CNTk 4)
            ∧ t.fld Reg.TWN_STATUS Fld.TWN_STATUS_CAUSE = c ∧ t.reg Reg.TWN_TAKE_TIME_LO = BitVec.ofNat 32 t0
            ∧ t.reg Reg.TWN_TAKE_TIME_HI = BitVec.ofNat 32 (t0 / 2 ^ 32)))

/-- The management complex, with MC0 firmware running. A mailbox command that finds the mailbox busy ends with BUSY; one that needs an owner session ends
with NO_SESSION without one; otherwise its effect and its result are those of its rule, and MBX_COMMAND_DONE shows them. An erase and a write change
the bytes of their range and no others, and are denied the boot directory. Watchdogs, software log entries, the image window and the identity key act
by their rules. It rests on choices and readings of the model: notes/assumptions/ 12, 15, 16, 18, 27, 40, 85, 86, 87, 88. -/
def Obligations.Management : Prop :=
  (∀ (s : State) (i : Initiator), s.writeOpen i Reg.MGT_MBX_CMD → s.on Reg.MGT_STATUS Fld.MGT_STATUS_MBX_BUSY = true →
      ∃ t, exec (.mbxNonce i) s = .next t ∧ t.reg Reg.MGT_MBX_STATUS = BitVec.ofNat 32 (1 + 2 ^ 16)
        ∧ t.on Reg.MGT_STATUS Fld.MGT_STATUS_MBX_DONE = true ∧ t.mgt.nonce = s.mgt.nonce ∧ Frame [Reg.MGT_MBX_STATUS, Reg.MGT_STATUS] s t)
  ∧ (∀ (s : State) (i : Initiator), s.writeOpen i Reg.MGT_MBX_CMD → s.on Reg.MGT_STATUS Fld.MGT_STATUS_MBX_BUSY = false → s.mgt.mc0Run = true →
      let ends (t : State) (code result detail : Nat) : Prop :=
        t.mgt.cmd = some ⟨code, result, detail, false⟩ ∧ t.on Reg.MGT_STATUS Fld.MGT_STATUS_MBX_BUSY = true
      let a := s.mbxArg 0
      let n := s.mbxArg 1
      (∃ t b, exec (.mbxNonce i) s = .next t ∧ ends t 1 0 0 ∧ b.length = 32 ∧ t.mgt.nonce = some b ∧ memRead t.mbx 0 0 32 = b
        ∧ SameRegsBut [Reg.MGT_STATUS] s t)
      ∧ (∀ k, s.mgt.session = some k →
          (∃ t, exec (.mbxSessionOpen i) s = .next t ∧ ends t 2 7 0 ∧ t.mgt.session = some k ∧ Frame [Reg.MGT_STATUS] s t)
          ∧ (∃ t, exec (.mbxSessionClose i) s = .next t ∧ ends t 3 0 0 ∧ t.mgt.session = none
              ∧ t.on Reg.MGT_STATUS Fld.MGT_STATUS_SESSION = false ∧ Frame [Reg.MGT_STATUS, Reg.MGT_LOG_SEQ] s t)
          ∧ (s.flashDenied (0x10000 * a) (0x10000 * n) = true → 0x10000 * a + 0x10000 * n ≤ 2 ^ 32 →
              ∃ t, exec (.mbxFlashErase i false) s = .next t ∧ ends t 0x10 6 0 ∧ Frame [Reg.MGT_STATUS] s t)
          ∧ (s.flashDenied (0x10000 * a) (0x10000 * n) = false → 0x10000 * a + 0x10000 * n ≤ 2 ^ 32 →
              ∃ t, exec (.mbxFlashErase i false) s = .next t ∧ ends t 0x10 0 0 ∧ SameRegsBut [Reg.MGT_STATUS, Reg.GLB_IMG_WINDOW] s t
                ∧ ∀ x, t.flash.getD 0xFF x = if 0x10000 * a ≤ x ∧ x < 0x10000 * a + 0x10000 * n then 0xFF else s.flash.getD 0xFF x)
          ∧ (a % 256 = 0 → n % 256 = 0 → n ≤ 0x20000 → a + n ≤ 2 ^ 32 → s.flashDenied a n = false →
              (∃ t, exec (.mbxFlashWrite i false) s = .next t ∧ ends t 0x11 0 0 ∧ SameRegsBut [Reg.MGT_STATUS, Reg.GLB_IMG_WINDOW] s t
                ∧ ∀ x, t.flash.getD 0xFF x = if a ≤ x ∧ x < a + n then s.mbx.getD 0 (x - a) else s.flash.getD 0xFF x)
              ∧ ∃ t, exec (.mbxFlashWrite i true) s = .next t ∧ ends t 0x11 5 0
                ∧ ∀ x, x < a ∨ a + n ≤ x → t.flash.getD 0xFF x = s.flash.getD 0xFF x)
          ∧ (a < 3 → n < 2 → ∃ t, exec (.mbxSetPreferred i false) s = .next t
              ∧ ((a, n) ∉ s.mgt.passed → ends t 0x13 6 0 ∧ t.flash = s.flash)
              ∧ ((a, n) ∈ s.mgt.passed → match s.bootDir with
                | none => ends t 0x13 6 0 ∧ t.flash = s.flash
                | some (c, d) => ends t 0x13 0 0 ∧ t.flash = memWrite s.flash 0xFF (0x0F0000 + 0x1000 * (1 - c)) (newDir d a n)))
          ∧ (∃ t, exec (.mbxAccSet i) s = .next t ∧ ends t 0x30 0 0 ∧ t.reg Reg.MGT_LOG_SEQ = s.reg Reg.MGT_LOG_SEQ + 1)
          ∧ ((s.otp.get 0).1 = 0 → ∃ t, exec (.mbxKeyProgram i) s = .next t ∧ ends t 0x31 0 0 ∧ t.otp.get 0 = (1, s.mbxRead 0 32)
              ∧ t.fld Reg.MGT_OTP_KEYS ⟨0, 2⟩ = 1 ∧ Frame [Reg.MGT_STATUS, Reg.MGT_OTP_KEYS, Reg.MGT_LOG_SEQ] s t)
          ∧ (a < 4 → s.someValid a = true → ∃ t, exec (.mbxKeyRevoke i) s = .next t ∧ ends t 0x32 0 0 ∧ t.otp.get a = (2, (s.otp.get a).2)
              ∧ Frame [Reg.MGT_STATUS, Reg.MGT_OTP_KEYS, Reg.MGT_LOG_SEQ] s t)
          ∧ (a < 4 → s.someValid a = false → ∃ t, exec (.mbxKeyRevoke i) s = .next t ∧ ends t 0x32 6 0 ∧ t.otp = s.otp))
      ∧ (s.mgt.session = none →
          (∀ nonce, s.mgt.nonce = some nonce → a < 4 → ∃ t, exec (.mbxSessionOpen i) s = .next t
            ∧ t.mgt.session = (if (s.otp.get a).1 = 1 ∧ (s.otp.get a).2 = digest (s.mbxRead 0 64)
                ∧ slhVerify (s.mbxRead 0 64) (withContext ctxSession nonce) (s.mbxRead 64 sigLen) = true then some a else none))
          ∧ (∃ t, exec (.mbxFlashErase i false) s = .next t ∧ ends t 0x10 2 0 ∧ Frame [Reg.MGT_STATUS] s t)
          ∧ (∃ t, exec (.mbxSetPreferred i false) s = .next t ∧ ends t 0x13 2 0 ∧ Frame [Reg.MGT_STATUS] s t)
          ∧ (∃ t, exec (.mbxAccSet i) s = .next t ∧ ends t 0x30 2 0 ∧ Frame [Reg.MGT_STATUS] s t))
      ∧ (∀ err, err < 8 → a < 3 → n < 2 → ∃ t, exec (.mbxFlashVerify i err) s = .next t ∧ SameRegsBut [Reg.MGT_STATUS] s t
          ∧ ((ends t 0x12 0 0 ∧ (a, n) ∈ t.mgt.passed) ∨ ((a, n) ∉ t.mgt.passed ∧ ∃ code, code ≠ 0 ∧ ends t 0x12 4 code)))
      ∧ (s.on Reg.MGT_STATUS Fld.MGT_STATUS_ID_READY = true → ∃ t, exec (.mbxAttest i) s = .next t ∧ ends t 0x20 0 0
          ∧ memRead t.mbx 0 0 4 = [0x4D, 0x5A, 0x41, 0x54] ∧ SameRegsBut [Reg.MGT_STATUS] s t))
  ∧ (∀ (s : State) (c r d : Nat), s.mgt.cmd = some ⟨c, r, d, false⟩ →
      ∃ t, exec .mbxCommandDone s = .next t ∧ t.mgt.cmd = none ∧ t.on Reg.MGT_STATUS Fld.MGT_STATUS_MBX_BUSY = false
        ∧ t.on Reg.MGT_STATUS Fld.MGT_STATUS_MBX_DONE = true
        ∧ t.reg Reg.MGT_MBX_STATUS = BitVec.ofNat 32 (r % 256 + d % 16 * 2 ^ 8 + c % 256 * 2 ^ 16) ∧ Frame [Reg.MGT_MBX_STATUS, Reg.MGT_STATUS] s t)
  ∧ (∀ (s : State) (i : Initiator) (data : Word), s.writeOpen i Reg.MGT_WDT_KICK →
      ∃ t, exec (.wdtKick i data) s = .next t ∧ Frame [] s t
        ∧ ∀ c < 2, t.mgt.wdtAt.get c = if i.code = 4 + c ∧ bitB data.toNat c = true then s.now else s.mgt.wdtAt.get c)
  ∧ (∀ (s : State) (c : Nat), c < 2 → s.coreRuns c = true →
      let ms := s.fld (Reg.MGT_WDTt_CFG c) Fld.MGT_WDTt_CFG_MS
      (ms = 0 ∨ s.now < s.mgt.wdtAt.get c + 1000000 * ms → exec (.wdtExpiry c) s = .next s)
      ∧ (ms ≠ 0 → s.mgt.wdtAt.get c + 1000000 * ms ≤ s.now → ∃ t, exec (.wdtExpiry c) s = .next t
          ∧ t.lodge.raised = s.lodge.raised ++ [⟨50, c, false⟩] ∧ t.mgt.wdtAt.get c = s.now ∧ Frame [] s t))
  ∧ (∀ (s : State) (i : Initiator) (data : Word), s.writeOpen i Reg.MGT_LOG_CODE →
      let code := data.toNat % 65536
      ∃ t, exec (.logCodeWrite i data) s = .next t
        ∧ (code < 0x8000 → t.logRing = s.logRing ∧ Frame [] s t)
        ∧ (0x8000 ≤ code → Frame [Reg.MGT_LOG_SEQ] s t ∧ t.reg Reg.MGT_LOG_SEQ = s.reg Reg.MGT_LOG_SEQ + 1
            ∧ let e := t.logRing.get ((s.reg Reg.MGT_LOG_SEQ).toNat % 4096)
              e.time = s.invar ∧ e.code = code ∧ e.arg = (s.logArg.get i.code).toNat))
  ∧ (∀ (s : State) (i : Initiator), s.readOpen i Reg.GLB_IMG_WINDOW_DATA →
      let o := s.fld Reg.GLB_IMG_WINDOW Fld.GLB_IMG_WINDOW_OFFSET
      ∃ t, exec (.imgWindowDataRead i) s = .next t ∧ t.fld Reg.GLB_IMG_WINDOW Fld.GLB_IMG_WINDOW_OFFSET = (o + 4) % 2 ^ 20
        ∧ Frame [Reg.GLB_IMG_WINDOW] s t
        ∧ (s.image.verified = false ∨ s.on Reg.GLB_IMG_WINDOW Fld.GLB_IMG_WINDOW_STALE = true ∨ s.image.bytes.length ≤ o →
            t.out = s.out ++ [.readData i 0]))
  ∧ (∀ s : State,
      (s.on Reg.GLB_IMG_STATUS Fld.GLB_IMG_STATUS_APPLIED = false → exec .identityKeyReady s = .next s)
      ∧ (s.on Reg.GLB_IMG_STATUS Fld.GLB_IMG_STATUS_APPLIED = true → s.on Reg.MGT_STATUS Fld.MGT_STATUS_ID_READY = false →
          ∃ t, exec .identityKeyReady s = .next t ∧ t.on Reg.MGT_STATUS Fld.MGT_STATUS_ID_READY = true ∧ t.mgt.idKey.length = 64
            ∧ Frame (Reg.MGT_STATUS :: (List.range 16).map Reg.MGT_ID_PUBk) s t))

end
end

