-- ==== Sys2Proof/Laws/Table.lean ====
section
/-! SUPPORT. The laws of numbered tables and of addressed memories: what a read gives after a write, and that every operation keeps the canonical
form. -/

namespace Sys2Proof

variable {α : Type}

/-! ### Reading after writing -/

@[simp] theorem Table.find_nil (k : Nat) : Table.find ([] : Table α) k = none := rfl

@[simp] theorem Table.getD_nil (d : α) (k : Nat) : Table.getD ([] : Table α) d k = d := rfl

theorem Table.find_erase_same (t : Table α) (k : Nat) : (t.erase k).find k = none := by
  induction t with
  | nil => rfl
  | cons e t ih =>
    obtain ⟨j, v⟩ := e
    by_cases h : j = k <;> simp [Table.erase, Table.find, h, ih]

theorem Table.find_erase_other (t : Table α) {k n : Nat} (h : n ≠ k) : (t.erase k).find n = t.find n := by
  induction t with
  | nil => rfl
  | cons e t ih =>
    obtain ⟨j, v⟩ := e
    by_cases hj : j = k
    · have : j ≠ n := fun e => h (e ▸ hj)
      simp [Table.erase, Table.find, hj, ih, Ne.symm h]
    · by_cases hn : j = n
      · subst hn
        simp [Table.erase, Table.find, hj]
      · simp [Table.erase, Table.find, hj, hn, ih]

theorem Table.find_insert_same (t : Table α) {k : Nat} (v : α) (h : t.find k = none) : (t.insert k v).find k = some v := by
  induction t with
  | nil => simp [Table.insert, Table.find]
  | cons e t ih =>
    obtain ⟨j, w⟩ := e
    by_cases hj : j = k
    · simp [Table.find, hj] at h
    · by_cases hk : k < j
      · simp [Table.insert, Table.find, hk]
      · simp only [Table.find, hj, if_false] at h
        simp [Table.insert, Table.find, hk, hj, ih h]

theorem Table.find_insert_other (t : Table α) {k n : Nat} (v : α) (h : n ≠ k) : (t.insert k v).find n = t.find n := by
  induction t with
  | nil => simp [Table.insert, Table.find, Ne.symm h]
  | cons e t ih =>
    obtain ⟨j, w⟩ := e
    by_cases hk : k < j
    · simp [Table.insert, Table.find, hk, Ne.symm h]
    · by_cases hj : j = n
      · subst hj
        simp [Table.insert, Table.find, hk]
      · simp [Table.insert, Table.find, hk, hj, ih]

section
variable [DecidableEq α]

/-- The entry written is the entry read. -/
@[simp] theorem Table.getD_setD_same (t : Table α) (d : α) (k : Nat) (v : α) : (t.setD d k v).getD d k = v := by
  unfold Table.setD Table.getD
  split
  · rename_i h
    rw [Table.find_erase_same]
    exact h.symm
  · rw [Table.find_insert_same _ _ (Table.find_erase_same t k)]
    rfl

/-- Every other entry reads as before, whatever unlisted entries hold. -/
theorem Table.find_setD_other (t : Table α) (d : α) {k n : Nat} (v : α) (h : n ≠ k) : (t.setD d k v).find n = t.find n := by
  unfold Table.setD
  split
  · exact Table.find_erase_other t h
  · rw [Table.find_insert_other _ _ h, Table.find_erase_other t h]

theorem Table.getD_setD_other (t : Table α) (d e : α) {k n : Nat} (v : α) (h : n ≠ k) :
    (t.setD d k v).getD e n = t.getD e n := by
  unfold Table.getD
  rw [Table.find_setD_other t d v h]

@[simp] theorem Table.get_set_same [Inhabited α] (t : Table α) (k : Nat) (v : α) : (t.set k v).get k = v :=
  Table.getD_setD_same t default k v

theorem Table.get_set_other [Inhabited α] (t : Table α) {k n : Nat} (v : α) (h : n ≠ k) : (t.set k v).get n = t.get n :=
  Table.getD_setD_other t default default v h

@[simp] theorem Table.get_modify_same [Inhabited α] (t : Table α) (k : Nat) (f : α → α) :
    (t.modify k f).get k = f (t.get k) := Table.get_set_same t k _

theorem Table.get_modify_other [Inhabited α] (t : Table α) {k n : Nat} (f : α → α) (h : n ≠ k) :
    (t.modify k f).get n = t.get n := Table.get_set_other t _ h

end

/-! ### The canonical form -/

theorem Table.risesFrom_mono {t : Table α} {lo hi : Nat} (h : lo ≤ hi) (e : Table.risesFrom hi t = true) :
    Table.risesFrom lo t = true := by
  cases t with
  | nil => rfl
  | cons x t =>
    simp only [Table.risesFrom, Bool.and_eq_true, decide_eq_true_eq] at e ⊢
    exact ⟨by omega, e.2⟩

theorem Table.risesFrom_erase {t : Table α} {lo k : Nat} (e : Table.risesFrom lo t = true) :
    Table.risesFrom lo (t.erase k) = true := by
  induction t generalizing lo with
  | nil => rfl
  | cons x t ih =>
    obtain ⟨j, v⟩ := x
    simp only [Table.risesFrom, Bool.and_eq_true, decide_eq_true_eq] at e
    unfold Table.erase
    split
    · exact Table.risesFrom_mono (by omega) (ih e.2)
    · simp only [Table.risesFrom, Bool.and_eq_true, decide_eq_true_eq]
      exact ⟨e.1, ih e.2⟩

theorem Table.risesFrom_insert {t : Table α} {lo k : Nat} (v : α) (hk : lo ≤ k) (n : t.find k = none)
    (e : Table.risesFrom lo t = true) : Table.risesFrom lo (t.insert k v) = true := by
  induction t generalizing lo with
  | nil => simp [Table.insert, Table.risesFrom, hk]
  | cons x t ih =>
    obtain ⟨j, w⟩ := x
    have hj : j ≠ k := by
      intro h
      simp [Table.find, h] at n
    simp only [Table.find, hj, if_false] at n
    simp only [Table.risesFrom, Bool.and_eq_true, decide_eq_true_eq] at e
    unfold Table.insert
    split
    · simp only [Table.risesFrom, Bool.and_eq_true, decide_eq_true_eq]
      exact ⟨hk, by omega, e.2⟩
    · simp only [Table.risesFrom, Bool.and_eq_true, decide_eq_true_eq]
      exact ⟨e.1, ih (by omega) n e.2⟩

theorem Table.risesFrom_filter {t : Table α} {lo : Nat} (p : Nat × α → Bool) (e : Table.risesFrom lo t = true) :
    Table.risesFrom lo (t.filter p) = true := by
  induction t generalizing lo with
  | nil => rfl
  | cons x t ih =>
    obtain ⟨j, v⟩ := x
    simp only [Table.risesFrom, Bool.and_eq_true, decide_eq_true_eq] at e
    rw [List.filter_cons]
    split
    · simp only [Table.risesFrom, Bool.and_eq_true, decide_eq_true_eq]
      exact ⟨e.1, ih e.2⟩
    · exact Table.risesFrom_mono (by omega) (ih e.2)

theorem Table.mem_erase {t : Table α} {k : Nat} {e : Nat × α} (h : e ∈ t.erase k) : e ∈ t := by
  induction t with
  | nil => exact h
  | cons x t ih =>
    obtain ⟨j, v⟩ := x
    unfold Table.erase at h
    split at h
    · exact List.mem_cons_of_mem _ (ih h)
    · rcases List.mem_cons.mp h with h | h
      · exact h ▸ List.mem_cons_self
      · exact List.mem_cons_of_mem _ (ih h)

theorem Table.mem_insert {t : Table α} {k : Nat} {v : α} {e : Nat × α} (h : e ∈ t.insert k v) : e = (k, v) ∨ e ∈ t := by
  induction t with
  | nil => exact Or.inl (List.mem_singleton.mp h)
  | cons x t ih =>
    obtain ⟨j, w⟩ := x
    unfold Table.insert at h
    split at h
    · exact List.mem_cons.mp h
    · rcases List.mem_cons.mp h with h | h
      · exact Or.inr (h ▸ List.mem_cons_self)
      · rcases ih h with h | h
        · exact Or.inl h
        · exact Or.inr (List.mem_cons_of_mem _ h)

section
variable [DecidableEq α]

theorem Table.wfBy_iff {d : Nat → α} {t : Table α} :
    t.wfBy d = true ↔ Table.risesFrom 0 t = true ∧ ∀ e ∈ t, e.2 ≠ d e.1 := by
  simp [Table.wfBy]

/-- A write keeps the canonical form. -/
theorem Table.wfBy_setD {d : Nat → α} {t : Table α} (h : t.wfBy d = true) (k : Nat) (v : α) :
    (t.setD (d k) k v).wfBy d = true := by
  rw [Table.wfBy_iff] at h ⊢
  unfold Table.setD
  split
  · exact ⟨Table.risesFrom_erase h.1, fun e he => h.2 e (Table.mem_erase he)⟩
  · rename_i hv
    refine ⟨Table.risesFrom_insert v (by omega) (Table.find_erase_same t k) (Table.risesFrom_erase h.1), fun e he => ?_⟩
    rcases Table.mem_insert he with he | he
    · rw [he]
      exact hv
    · exact h.2 e (Table.mem_erase he)

/-- So does taking entries out. -/
theorem Table.wfBy_filter {d : Nat → α} {t : Table α} (h : t.wfBy d = true) (p : Nat × α → Bool) :
    Table.wfBy d (t.filter p) = true := by
  rw [Table.wfBy_iff] at h ⊢
  exact ⟨Table.risesFrom_filter p h.1, fun e he => h.2 e ((List.mem_filter.mp he).1)⟩

@[simp] theorem Table.wfBy_nil (d : Nat → α) : Table.wfBy d ([] : Table α) = true := rfl

end

/-! ### Addressed memories -/

/-- Every memory operation is `memWrite`, and `memWrite` keeps the canonical form. -/
theorem memWrite_wfBy {d : Byte} {m : Table Byte} (h : m.wfBy (fun _ => d) = true) (a : Nat) (l : List Nat) :
    (memWrite m d a l).wfBy (fun _ => d) = true := by
  induction l generalizing m a with
  | nil => exact h
  | cons b l ih => exact ih (Table.wfBy_setD (d := fun _ => d) h a (BitVec.ofNat 8 b)) (a + 1)

/-- Bytes outside those written read as before. -/
theorem getD_memWrite_outside (m : Table Byte) (d : Byte) (a : Nat) (l : List Nat) {n : Nat} (h : n < a ∨ a + l.length ≤ n) :
    (memWrite m d a l).getD d n = m.getD d n := by
  induction l generalizing m a with
  | nil => rfl
  | cons b l ih =>
    rw [List.length_cons] at h
    unfold memWrite
    rw [ih _ _ (by omega), Table.getD_setD_other _ _ _ _ (by omega)]

/-- Bytes written are the bytes read. -/
theorem getD_memWrite_inside (m : Table Byte) (d : Byte) (a : Nat) (l : List Nat) {k : Nat} (h : k < l.length) :
    (memWrite m d a l).getD d (a + k) = BitVec.ofNat 8 (l.getD k 0) := by
  induction l generalizing m a k with
  | nil => simp at h
  | cons b l ih =>
    unfold memWrite
    cases k with
    | zero => rw [getD_memWrite_outside _ _ _ _ (by omega)]; simp
    | succ k =>
      have := ih (m.setD d a (BitVec.ofNat 8 b)) (a + 1) (k := k) (by simpa using h)
      rw [show a + (k + 1) = a + 1 + k by omega, this]
      simp

/-! ### Register fields -/

theorem Fld.get_lt (f : Fld) (w : Word) : f.get w < 2 ^ f.width := Nat.mod_lt _ (Nat.two_pow_pos _)

end Sys2Proof
end

