-- ==== Sys2Proof/Laws/Regs.lean ====
section
/-! SUPPORT. The laws of the register file: a register read after a write of it, and after a write of another. -/

namespace Sys2Proof.Machine

@[simp] theorem State.reg_setReg_same (s : State) (off : Nat) (w : Word) : (s.setReg off w).reg off = w :=
  Table.getD_setD_same s.regs (resetWord off) off w

theorem State.reg_setReg_other (s : State) {off n : Nat} (w : Word) (h : n ≠ off) : (s.setReg off w).reg n = s.reg n := by
  unfold State.setReg State.reg
  rw [Table.find_setD_other _ _ _ h]

theorem State.reg_setFld_same (s : State) (off : Nat) (f : Fld) (v : Nat) :
    (s.setFld off f v).reg off = f.put (s.reg off) v := State.reg_setReg_same s off _

theorem State.reg_setFld_other (s : State) {off n : Nat} (f : Fld) (v : Nat) (h : n ≠ off) :
    (s.setFld off f v).reg n = s.reg n := State.reg_setReg_other s _ h

theorem State.reg_setBit_same (s : State) (off b : Nat) : (s.setBit off b).reg off = s.reg off ||| BitVec.ofNat 32 (2 ^ b) :=
  State.reg_setReg_same s off _

theorem State.reg_setBit_other (s : State) {off n : Nat} (b : Nat) (h : n ≠ off) : (s.setBit off b).reg n = s.reg n :=
  State.reg_setReg_other s _ h

theorem State.reg_putBit_other (s : State) {off n : Nat} (b : Nat) (v : Bool) (h : n ≠ off) :
    (s.putBit off b v).reg n = s.reg n := State.reg_setReg_other s _ h

theorem State.reg_countN_same (s : State) (off n : Nat) :
    (s.countN off n).reg off = BitVec.ofNat 32 (min 0xFFFFFFFF ((s.reg off).toNat + n)) := State.reg_setReg_same s off _

theorem State.reg_countN_other (s : State) {off k : Nat} (n : Nat) (h : k ≠ off) : (s.countN off n).reg k = s.reg k :=
  State.reg_setReg_other s _ h

theorem State.reg_count_same (s : State) (off : Nat) :
    (s.count off).reg off = BitVec.ofNat 32 (min 0xFFFFFFFF ((s.reg off).toNat + 1)) := State.reg_setReg_same s off _

theorem State.reg_count_other (s : State) {off k : Nat} (h : k ≠ off) : (s.count off).reg k = s.reg k :=
  State.reg_setReg_other s _ h

theorem State.reg_bumpSeq_same (s : State) (off : Nat) : (s.bumpSeq off).reg off = s.reg off + 1 :=
  State.reg_setReg_same s off _

theorem State.reg_bumpSeq_other (s : State) {off k : Nat} (h : k ≠ off) : (s.bumpSeq off).reg k = s.reg k :=
  State.reg_setReg_other s _ h

@[simp] theorem State.reg_emit (s : State) (o : Out) (off : Nat) : (s.emit o).reg off = s.reg off := rfl

/-- A register write keeps the register file's canonical form. -/
theorem State.setReg_wf {s : State} (h : s.regs.wfBy resetWord = true) (off : Nat) (w : Word) :
    (s.setReg off w).regs.wfBy resetWord = true := Table.wfBy_setD (d := resetWord) h off w

end Sys2Proof.Machine
end

