-- ==== Sys2Proof/Laws/State.lean ====
section
/-! SUPPORT. What the basic updates of the state leave alone: one lemma for each field and update, true by definition. -/

namespace Sys2Proof.Machine

@[simp] theorem State.setReg_imgRegs (s : State) (a : Nat) (w : Word) : (s.setReg a w).imgRegs = s.imgRegs := rfl
@[simp] theorem State.setReg_expertPend (s : State) (a : Nat) (w : Word) : (s.setReg a w).expertPend = s.expertPend := rfl
@[simp] theorem State.setReg_now (s : State) (a : Nat) (w : Word) : (s.setReg a w).now = s.now := rfl
@[simp] theorem State.setReg_invar (s : State) (a : Nat) (w : Word) : (s.setReg a w).invar = s.invar := rfl
@[simp] theorem State.setReg_free (s : State) (a : Nat) (w : Word) : (s.setReg a w).free = s.free := rfl
@[simp] theorem State.setReg_out (s : State) (a : Nat) (w : Word) : (s.setReg a w).out = s.out := rfl
@[simp] theorem State.setReg_straps (s : State) (a : Nat) (w : Word) : (s.setReg a w).straps = s.straps := rfl
@[simp] theorem State.setReg_headLead (s : State) (a : Nat) (w : Word) : (s.setReg a w).headLead = s.headLead := rfl
@[simp] theorem State.setReg_gen (s : State) (a : Nat) (w : Word) : (s.setReg a w).gen = s.gen := rfl
@[simp] theorem State.setReg_grp (s : State) (a : Nat) (w : Word) : (s.setReg a w).grp = s.grp := rfl
@[simp] theorem State.setReg_image (s : State) (a : Nat) (w : Word) : (s.setReg a w).image = s.image := rfl
@[simp] theorem State.setReg_pav (s : State) (a : Nat) (w : Word) : (s.setReg a w).pav = s.pav := rfl
@[simp] theorem State.setReg_ctxRecipe (s : State) (a : Nat) (w : Word) : (s.setReg a w).ctxRecipe = s.ctxRecipe := rfl
@[simp] theorem State.setReg_chan (s : State) (a : Nat) (w : Word) : (s.setReg a w).chan = s.chan := rfl
@[simp] theorem State.setReg_queue (s : State) (a : Nat) (w : Word) : (s.setReg a w).queue = s.queue := rfl
@[simp] theorem State.setReg_arb (s : State) (a : Nat) (w : Word) : (s.setReg a w).arb = s.arb := rfl
@[simp] theorem State.setReg_ghouse (s : State) (a : Nat) (w : Word) : (s.setReg a w).ghouse = s.ghouse := rfl
@[simp] theorem State.setReg_port (s : State) (a : Nat) (w : Word) : (s.setReg a w).port = s.port := rfl
@[simp] theorem State.setReg_entry (s : State) (a : Nat) (w : Word) : (s.setReg a w).entry = s.entry := rfl
@[simp] theorem State.setReg_seg (s : State) (a : Nat) (w : Word) : (s.setReg a w).seg = s.seg := rfl
@[simp] theorem State.setReg_stream (s : State) (a : Nat) (w : Word) : (s.setReg a w).stream = s.stream := rfl
@[simp] theorem State.setReg_logRing (s : State) (a : Nat) (w : Word) : (s.setReg a w).logRing = s.logRing := rfl
@[simp] theorem State.setReg_logArg (s : State) (a : Nat) (w : Word) : (s.setReg a w).logArg = s.logArg := rfl
@[simp] theorem State.setReg_lodge (s : State) (a : Nat) (w : Word) : (s.setReg a w).lodge = s.lodge := rfl
@[simp] theorem State.setReg_ic (s : State) (a : Nat) (w : Word) : (s.setReg a w).ic = s.ic := rfl
@[simp] theorem State.setReg_wires (s : State) (a : Nat) (w : Word) : (s.setReg a w).wires = s.wires := rfl
@[simp] theorem State.setReg_filter (s : State) (a : Nat) (w : Word) : (s.setReg a w).filter = s.filter := rfl
@[simp] theorem State.setReg_trigLevel (s : State) (a : Nat) (w : Word) : (s.setReg a w).trigLevel = s.trigLevel := rfl
@[simp] theorem State.setReg_pins (s : State) (a : Nat) (w : Word) : (s.setReg a w).pins = s.pins := rfl
@[simp] theorem State.setReg_mirrorQ (s : State) (a : Nat) (w : Word) : (s.setReg a w).mirrorQ = s.mirrorQ := rfl
@[simp] theorem State.setReg_mirrorWait (s : State) (a : Nat) (w : Word) : (s.setReg a w).mirrorWait = s.mirrorWait := rfl
@[simp] theorem State.setReg_partnerState (s : State) (a : Nat) (w : Word) : (s.setReg a w).partnerState = s.partnerState := rfl
@[simp] theorem State.setReg_cfg (s : State) (a : Nat) (w : Word) : (s.setReg a w).cfg = s.cfg := rfl
@[simp] theorem State.setReg_flrUntil (s : State) (a : Nat) (w : Word) : (s.setReg a w).flrUntil = s.flrUntil := rfl
@[simp] theorem State.setReg_ready (s : State) (a : Nat) (w : Word) : (s.setReg a w).ready = s.ready := rfl
@[simp] theorem State.setReg_msixReq (s : State) (a : Nat) (w : Word) : (s.setReg a w).msixReq = s.msixReq := rfl
@[simp] theorem State.setReg_luCtx (s : State) (a : Nat) (w : Word) : (s.setReg a w).luCtx = s.luCtx := rfl
@[simp] theorem State.setReg_luTable (s : State) (a : Nat) (w : Word) : (s.setReg a w).luTable = s.luTable := rfl
@[simp] theorem State.setReg_muCtx (s : State) (a : Nat) (w : Word) : (s.setReg a w).muCtx = s.muCtx := rfl
@[simp] theorem State.setReg_muGrp (s : State) (a : Nat) (w : Word) : (s.setReg a w).muGrp = s.muGrp := rfl
@[simp] theorem State.setReg_fmMem (s : State) (a : Nat) (w : Word) : (s.setReg a w).fmMem = s.fmMem := rfl
@[simp] theorem State.setReg_fm (s : State) (a : Nat) (w : Word) : (s.setReg a w).fm = s.fm := rfl
@[simp] theorem State.setReg_bu (s : State) (a : Nat) (w : Word) : (s.setReg a w).bu = s.bu := rfl
@[simp] theorem State.setReg_guCtx (s : State) (a : Nat) (w : Word) : (s.setReg a w).guCtx = s.guCtx := rfl
@[simp] theorem State.setReg_guPath (s : State) (a : Nat) (w : Word) : (s.setReg a w).guPath = s.guPath := rfl
@[simp] theorem State.setReg_guSlot (s : State) (a : Nat) (w : Word) : (s.setReg a w).guSlot = s.guSlot := rfl
@[simp] theorem State.setReg_os (s : State) (a : Nat) (w : Word) : (s.setReg a w).os = s.os := rfl
@[simp] theorem State.setReg_relay (s : State) (a : Nat) (w : Word) : (s.setReg a w).relay = s.relay := rfl
@[simp] theorem State.setReg_mm (s : State) (a : Nat) (w : Word) : (s.setReg a w).mm = s.mm := rfl
@[simp] theorem State.setReg_dmaDisc (s : State) (a : Nat) (w : Word) : (s.setReg a w).dmaDisc = s.dmaDisc := rfl
@[simp] theorem State.setReg_enc (s : State) (a : Nat) (w : Word) : (s.setReg a w).enc = s.enc := rfl
@[simp] theorem State.setReg_slot (s : State) (a : Nat) (w : Word) : (s.setReg a w).slot = s.slot := rfl
@[simp] theorem State.setReg_sync (s : State) (a : Nat) (w : Word) : (s.setReg a w).sync = s.sync := rfl
@[simp] theorem State.setReg_dma (s : State) (a : Nat) (w : Word) : (s.setReg a w).dma = s.dma := rfl
@[simp] theorem State.setReg_pcie (s : State) (a : Nat) (w : Word) : (s.setReg a w).pcie = s.pcie := rfl
@[simp] theorem State.setReg_msix (s : State) (a : Nat) (w : Word) : (s.setReg a w).msix = s.msix := rfl
@[simp] theorem State.setReg_pba (s : State) (a : Nat) (w : Word) : (s.setReg a w).pba = s.pba := rfl
@[simp] theorem State.setReg_brg (s : State) (a : Nat) (w : Word) : (s.setReg a w).brg = s.brg := rfl
@[simp] theorem State.setReg_tw (s : State) (a : Nat) (w : Word) : (s.setReg a w).tw = s.tw := rfl
@[simp] theorem State.setReg_tw8Ptr (s : State) (a : Nat) (w : Word) : (s.setReg a w).tw8Ptr = s.tw8Ptr := rfl
@[simp] theorem State.setReg_tun (s : State) (a : Nat) (w : Word) : (s.setReg a w).tun = s.tun := rfl
@[simp] theorem State.setReg_tunQuar (s : State) (a : Nat) (w : Word) : (s.setReg a w).tunQuar = s.tunQuar := rfl
@[simp] theorem State.setReg_twin (s : State) (a : Nat) (w : Word) : (s.setReg a w).twin = s.twin := rfl
@[simp] theorem State.setReg_mgt (s : State) (a : Nat) (w : Word) : (s.setReg a w).mgt = s.mgt := rfl
@[simp] theorem State.setReg_boot (s : State) (a : Nat) (w : Word) : (s.setReg a w).boot = s.boot := rfl
@[simp] theorem State.setReg_pwr (s : State) (a : Nat) (w : Word) : (s.setReg a w).pwr = s.pwr := rfl
@[simp] theorem State.setReg_flash (s : State) (a : Nat) (w : Word) : (s.setReg a w).flash = s.flash := rfl
@[simp] theorem State.setReg_otp (s : State) (a : Nat) (w : Word) : (s.setReg a w).otp = s.otp := rfl
@[simp] theorem State.setReg_tcm (s : State) (a : Nat) (w : Word) : (s.setReg a w).tcm = s.tcm := rfl
@[simp] theorem State.setReg_shared (s : State) (a : Nat) (w : Word) : (s.setReg a w).shared = s.shared := rfl
@[simp] theorem State.setReg_mbx (s : State) (a : Nat) (w : Word) : (s.setReg a w).mbx = s.mbx := rfl
@[simp] theorem State.setReg_pending (s : State) (a : Nat) (w : Word) : (s.setReg a w).pending = s.pending := rfl

@[simp] theorem State.setFld_imgRegs (s : State) (a : Nat) (f : Fld) (v : Nat) : (s.setFld a f v).imgRegs = s.imgRegs := rfl
@[simp] theorem State.setFld_expertPend (s : State) (a : Nat) (f : Fld) (v : Nat) : (s.setFld a f v).expertPend = s.expertPend := rfl
@[simp] theorem State.setFld_now (s : State) (a : Nat) (f : Fld) (v : Nat) : (s.setFld a f v).now = s.now := rfl
@[simp] theorem State.setFld_invar (s : State) (a : Nat) (f : Fld) (v : Nat) : (s.setFld a f v).invar = s.invar := rfl
@[simp] theorem State.setFld_free (s : State) (a : Nat) (f : Fld) (v : Nat) : (s.setFld a f v).free = s.free := rfl
@[simp] theorem State.setFld_out (s : State) (a : Nat) (f : Fld) (v : Nat) : (s.setFld a f v).out = s.out := rfl
@[simp] theorem State.setFld_straps (s : State) (a : Nat) (f : Fld) (v : Nat) : (s.setFld a f v).straps = s.straps := rfl
@[simp] theorem State.setFld_headLead (s : State) (a : Nat) (f : Fld) (v : Nat) : (s.setFld a f v).headLead = s.headLead := rfl
@[simp] theorem State.setFld_gen (s : State) (a : Nat) (f : Fld) (v : Nat) : (s.setFld a f v).gen = s.gen := rfl
@[simp] theorem State.setFld_grp (s : State) (a : Nat) (f : Fld) (v : Nat) : (s.setFld a f v).grp = s.grp := rfl
@[simp] theorem State.setFld_image (s : State) (a : Nat) (f : Fld) (v : Nat) : (s.setFld a f v).image = s.image := rfl
@[simp] theorem State.setFld_pav (s : State) (a : Nat) (f : Fld) (v : Nat) : (s.setFld a f v).pav = s.pav := rfl
@[simp] theorem State.setFld_ctxRecipe (s : State) (a : Nat) (f : Fld) (v : Nat) : (s.setFld a f v).ctxRecipe = s.ctxRecipe := rfl
@[simp] theorem State.setFld_chan (s : State) (a : Nat) (f : Fld) (v : Nat) : (s.setFld a f v).chan = s.chan := rfl
@[simp] theorem State.setFld_queue (s : State) (a : Nat) (f : Fld) (v : Nat) : (s.setFld a f v).queue = s.queue := rfl
@[simp] theorem State.setFld_arb (s : State) (a : Nat) (f : Fld) (v : Nat) : (s.setFld a f v).arb = s.arb := rfl
@[simp] theorem State.setFld_ghouse (s : State) (a : Nat) (f : Fld) (v : Nat) : (s.setFld a f v).ghouse = s.ghouse := rfl
@[simp] theorem State.setFld_port (s : State) (a : Nat) (f : Fld) (v : Nat) : (s.setFld a f v).port = s.port := rfl
@[simp] theorem State.setFld_entry (s : State) (a : Nat) (f : Fld) (v : Nat) : (s.setFld a f v).entry = s.entry := rfl
@[simp] theorem State.setFld_seg (s : State) (a : Nat) (f : Fld) (v : Nat) : (s.setFld a f v).seg = s.seg := rfl
@[simp] theorem State.setFld_stream (s : State) (a : Nat) (f : Fld) (v : Nat) : (s.setFld a f v).stream = s.stream := rfl
@[simp] theorem State.setFld_logRing (s : State) (a : Nat) (f : Fld) (v : Nat) : (s.setFld a f v).logRing = s.logRing := rfl
@[simp] theorem State.setFld_logArg (s : State) (a : Nat) (f : Fld) (v : Nat) : (s.setFld a f v).logArg = s.logArg := rfl
@[simp] theorem State.setFld_lodge (s : State) (a : Nat) (f : Fld) (v : Nat) : (s.setFld a f v).lodge = s.lodge := rfl
@[simp] theorem State.setFld_ic (s : State) (a : Nat) (f : Fld) (v : Nat) : (s.setFld a f v).ic = s.ic := rfl
@[simp] theorem State.setFld_wires (s : State) (a : Nat) (f : Fld) (v : Nat) : (s.setFld a f v).wires = s.wires := rfl
@[simp] theorem State.setFld_filter (s : State) (a : Nat) (f : Fld) (v : Nat) : (s.setFld a f v).filter = s.filter := rfl
@[simp] theorem State.setFld_trigLevel (s : State) (a : Nat) (f : Fld) (v : Nat) : (s.setFld a f v).trigLevel = s.trigLevel := rfl
@[simp] theorem State.setFld_pins (s : State) (a : Nat) (f : Fld) (v : Nat) : (s.setFld a f v).pins = s.pins := rfl
@[simp] theorem State.setFld_mirrorQ (s : State) (a : Nat) (f : Fld) (v : Nat) : (s.setFld a f v).mirrorQ = s.mirrorQ := rfl
@[simp] theorem State.setFld_mirrorWait (s : State) (a : Nat) (f : Fld) (v : Nat) : (s.setFld a f v).mirrorWait = s.mirrorWait := rfl
@[simp] theorem State.setFld_partnerState (s : State) (a : Nat) (f : Fld) (v : Nat) : (s.setFld a f v).partnerState = s.partnerState := rfl
@[simp] theorem State.setFld_cfg (s : State) (a : Nat) (f : Fld) (v : Nat) : (s.setFld a f v).cfg = s.cfg := rfl
@[simp] theorem State.setFld_flrUntil (s : State) (a : Nat) (f : Fld) (v : Nat) : (s.setFld a f v).flrUntil = s.flrUntil := rfl
@[simp] theorem State.setFld_ready (s : State) (a : Nat) (f : Fld) (v : Nat) : (s.setFld a f v).ready = s.ready := rfl
@[simp] theorem State.setFld_msixReq (s : State) (a : Nat) (f : Fld) (v : Nat) : (s.setFld a f v).msixReq = s.msixReq := rfl
@[simp] theorem State.setFld_luCtx (s : State) (a : Nat) (f : Fld) (v : Nat) : (s.setFld a f v).luCtx = s.luCtx := rfl
@[simp] theorem State.setFld_luTable (s : State) (a : Nat) (f : Fld) (v : Nat) : (s.setFld a f v).luTable = s.luTable := rfl
@[simp] theorem State.setFld_muCtx (s : State) (a : Nat) (f : Fld) (v : Nat) : (s.setFld a f v).muCtx = s.muCtx := rfl
@[simp] theorem State.setFld_muGrp (s : State) (a : Nat) (f : Fld) (v : Nat) : (s.setFld a f v).muGrp = s.muGrp := rfl
@[simp] theorem State.setFld_fmMem (s : State) (a : Nat) (f : Fld) (v : Nat) : (s.setFld a f v).fmMem = s.fmMem := rfl
@[simp] theorem State.setFld_fm (s : State) (a : Nat) (f : Fld) (v : Nat) : (s.setFld a f v).fm = s.fm := rfl
@[simp] theorem State.setFld_bu (s : State) (a : Nat) (f : Fld) (v : Nat) : (s.setFld a f v).bu = s.bu := rfl
@[simp] theorem State.setFld_guCtx (s : State) (a : Nat) (f : Fld) (v : Nat) : (s.setFld a f v).guCtx = s.guCtx := rfl
@[simp] theorem State.setFld_guPath (s : State) (a : Nat) (f : Fld) (v : Nat) : (s.setFld a f v).guPath = s.guPath := rfl
@[simp] theorem State.setFld_guSlot (s : State) (a : Nat) (f : Fld) (v : Nat) : (s.setFld a f v).guSlot = s.guSlot := rfl
@[simp] theorem State.setFld_os (s : State) (a : Nat) (f : Fld) (v : Nat) : (s.setFld a f v).os = s.os := rfl
@[simp] theorem State.setFld_relay (s : State) (a : Nat) (f : Fld) (v : Nat) : (s.setFld a f v).relay = s.relay := rfl
@[simp] theorem State.setFld_mm (s : State) (a : Nat) (f : Fld) (v : Nat) : (s.setFld a f v).mm = s.mm := rfl
@[simp] theorem State.setFld_dmaDisc (s : State) (a : Nat) (f : Fld) (v : Nat) : (s.setFld a f v).dmaDisc = s.dmaDisc := rfl
@[simp] theorem State.setFld_enc (s : State) (a : Nat) (f : Fld) (v : Nat) : (s.setFld a f v).enc = s.enc := rfl
@[simp] theorem State.setFld_slot (s : State) (a : Nat) (f : Fld) (v : Nat) : (s.setFld a f v).slot = s.slot := rfl
@[simp] theorem State.setFld_sync (s : State) (a : Nat) (f : Fld) (v : Nat) : (s.setFld a f v).sync = s.sync := rfl
@[simp] theorem State.setFld_dma (s : State) (a : Nat) (f : Fld) (v : Nat) : (s.setFld a f v).dma = s.dma := rfl
@[simp] theorem State.setFld_pcie (s : State) (a : Nat) (f : Fld) (v : Nat) : (s.setFld a f v).pcie = s.pcie := rfl
@[simp] theorem State.setFld_msix (s : State) (a : Nat) (f : Fld) (v : Nat) : (s.setFld a f v).msix = s.msix := rfl
@[simp] theorem State.setFld_pba (s : State) (a : Nat) (f : Fld) (v : Nat) : (s.setFld a f v).pba = s.pba := rfl
@[simp] theorem State.setFld_brg (s : State) (a : Nat) (f : Fld) (v : Nat) : (s.setFld a f v).brg = s.brg := rfl
@[simp] theorem State.setFld_tw (s : State) (a : Nat) (f : Fld) (v : Nat) : (s.setFld a f v).tw = s.tw := rfl
@[simp] theorem State.setFld_tw8Ptr (s : State) (a : Nat) (f : Fld) (v : Nat) : (s.setFld a f v).tw8Ptr = s.tw8Ptr := rfl
@[simp] theorem State.setFld_tun (s : State) (a : Nat) (f : Fld) (v : Nat) : (s.setFld a f v).tun = s.tun := rfl
@[simp] theorem State.setFld_tunQuar (s : State) (a : Nat) (f : Fld) (v : Nat) : (s.setFld a f v).tunQuar = s.tunQuar := rfl
@[simp] theorem State.setFld_twin (s : State) (a : Nat) (f : Fld) (v : Nat) : (s.setFld a f v).twin = s.twin := rfl
@[simp] theorem State.setFld_mgt (s : State) (a : Nat) (f : Fld) (v : Nat) : (s.setFld a f v).mgt = s.mgt := rfl
@[simp] theorem State.setFld_boot (s : State) (a : Nat) (f : Fld) (v : Nat) : (s.setFld a f v).boot = s.boot := rfl
@[simp] theorem State.setFld_pwr (s : State) (a : Nat) (f : Fld) (v : Nat) : (s.setFld a f v).pwr = s.pwr := rfl
@[simp] theorem State.setFld_flash (s : State) (a : Nat) (f : Fld) (v : Nat) : (s.setFld a f v).flash = s.flash := rfl
@[simp] theorem State.setFld_otp (s : State) (a : Nat) (f : Fld) (v : Nat) : (s.setFld a f v).otp = s.otp := rfl
@[simp] theorem State.setFld_tcm (s : State) (a : Nat) (f : Fld) (v : Nat) : (s.setFld a f v).tcm = s.tcm := rfl
@[simp] theorem State.setFld_shared (s : State) (a : Nat) (f : Fld) (v : Nat) : (s.setFld a f v).shared = s.shared := rfl
@[simp] theorem State.setFld_mbx (s : State) (a : Nat) (f : Fld) (v : Nat) : (s.setFld a f v).mbx = s.mbx := rfl
@[simp] theorem State.setFld_pending (s : State) (a : Nat) (f : Fld) (v : Nat) : (s.setFld a f v).pending = s.pending := rfl

@[simp] theorem State.setBit_imgRegs (s : State) (a b : Nat) : (s.setBit a b).imgRegs = s.imgRegs := rfl
@[simp] theorem State.setBit_expertPend (s : State) (a b : Nat) : (s.setBit a b).expertPend = s.expertPend := rfl
@[simp] theorem State.setBit_now (s : State) (a b : Nat) : (s.setBit a b).now = s.now := rfl
@[simp] theorem State.setBit_invar (s : State) (a b : Nat) : (s.setBit a b).invar = s.invar := rfl
@[simp] theorem State.setBit_free (s : State) (a b : Nat) : (s.setBit a b).free = s.free := rfl
@[simp] theorem State.setBit_out (s : State) (a b : Nat) : (s.setBit a b).out = s.out := rfl
@[simp] theorem State.setBit_straps (s : State) (a b : Nat) : (s.setBit a b).straps = s.straps := rfl
@[simp] theorem State.setBit_headLead (s : State) (a b : Nat) : (s.setBit a b).headLead = s.headLead := rfl
@[simp] theorem State.setBit_gen (s : State) (a b : Nat) : (s.setBit a b).gen = s.gen := rfl
@[simp] theorem State.setBit_grp (s : State) (a b : Nat) : (s.setBit a b).grp = s.grp := rfl
@[simp] theorem State.setBit_image (s : State) (a b : Nat) : (s.setBit a b).image = s.image := rfl
@[simp] theorem State.setBit_pav (s : State) (a b : Nat) : (s.setBit a b).pav = s.pav := rfl
@[simp] theorem State.setBit_ctxRecipe (s : State) (a b : Nat) : (s.setBit a b).ctxRecipe = s.ctxRecipe := rfl
@[simp] theorem State.setBit_chan (s : State) (a b : Nat) : (s.setBit a b).chan = s.chan := rfl
@[simp] theorem State.setBit_queue (s : State) (a b : Nat) : (s.setBit a b).queue = s.queue := rfl
@[simp] theorem State.setBit_arb (s : State) (a b : Nat) : (s.setBit a b).arb = s.arb := rfl
@[simp] theorem State.setBit_ghouse (s : State) (a b : Nat) : (s.setBit a b).ghouse = s.ghouse := rfl
@[simp] theorem State.setBit_port (s : State) (a b : Nat) : (s.setBit a b).port = s.port := rfl
@[simp] theorem State.setBit_entry (s : State) (a b : Nat) : (s.setBit a b).entry = s.entry := rfl
@[simp] theorem State.setBit_seg (s : State) (a b : Nat) : (s.setBit a b).seg = s.seg := rfl
@[simp] theorem State.setBit_stream (s : State) (a b : Nat) : (s.setBit a b).stream = s.stream := rfl
@[simp] theorem State.setBit_logRing (s : State) (a b : Nat) : (s.setBit a b).logRing = s.logRing := rfl
@[simp] theorem State.setBit_logArg (s : State) (a b : Nat) : (s.setBit a b).logArg = s.logArg := rfl
@[simp] theorem State.setBit_lodge (s : State) (a b : Nat) : (s.setBit a b).lodge = s.lodge := rfl
@[simp] theorem State.setBit_ic (s : State) (a b : Nat) : (s.setBit a b).ic = s.ic := rfl
@[simp] theorem State.setBit_wires (s : State) (a b : Nat) : (s.setBit a b).wires = s.wires := rfl
@[simp] theorem State.setBit_filter (s : State) (a b : Nat) : (s.setBit a b).filter = s.filter := rfl
@[simp] theorem State.setBit_trigLevel (s : State) (a b : Nat) : (s.setBit a b).trigLevel = s.trigLevel := rfl
@[simp] theorem State.setBit_pins (s : State) (a b : Nat) : (s.setBit a b).pins = s.pins := rfl
@[simp] theorem State.setBit_mirrorQ (s : State) (a b : Nat) : (s.setBit a b).mirrorQ = s.mirrorQ := rfl
@[simp] theorem State.setBit_mirrorWait (s : State) (a b : Nat) : (s.setBit a b).mirrorWait = s.mirrorWait := rfl
@[simp] theorem State.setBit_partnerState (s : State) (a b : Nat) : (s.setBit a b).partnerState = s.partnerState := rfl
@[simp] theorem State.setBit_cfg (s : State) (a b : Nat) : (s.setBit a b).cfg = s.cfg := rfl
@[simp] theorem State.setBit_flrUntil (s : State) (a b : Nat) : (s.setBit a b).flrUntil = s.flrUntil := rfl
@[simp] theorem State.setBit_ready (s : State) (a b : Nat) : (s.setBit a b).ready = s.ready := rfl
@[simp] theorem State.setBit_msixReq (s : State) (a b : Nat) : (s.setBit a b).msixReq = s.msixReq := rfl
@[simp] theorem State.setBit_luCtx (s : State) (a b : Nat) : (s.setBit a b).luCtx = s.luCtx := rfl
@[simp] theorem State.setBit_luTable (s : State) (a b : Nat) : (s.setBit a b).luTable = s.luTable := rfl
@[simp] theorem State.setBit_muCtx (s : State) (a b : Nat) : (s.setBit a b).muCtx = s.muCtx := rfl
@[simp] theorem State.setBit_muGrp (s : State) (a b : Nat) : (s.setBit a b).muGrp = s.muGrp := rfl
@[simp] theorem State.setBit_fmMem (s : State) (a b : Nat) : (s.setBit a b).fmMem = s.fmMem := rfl
@[simp] theorem State.setBit_fm (s : State) (a b : Nat) : (s.setBit a b).fm = s.fm := rfl
@[simp] theorem State.setBit_bu (s : State) (a b : Nat) : (s.setBit a b).bu = s.bu := rfl
@[simp] theorem State.setBit_guCtx (s : State) (a b : Nat) : (s.setBit a b).guCtx = s.guCtx := rfl
@[simp] theorem State.setBit_guPath (s : State) (a b : Nat) : (s.setBit a b).guPath = s.guPath := rfl
@[simp] theorem State.setBit_guSlot (s : State) (a b : Nat) : (s.setBit a b).guSlot = s.guSlot := rfl
@[simp] theorem State.setBit_os (s : State) (a b : Nat) : (s.setBit a b).os = s.os := rfl
@[simp] theorem State.setBit_relay (s : State) (a b : Nat) : (s.setBit a b).relay = s.relay := rfl
@[simp] theorem State.setBit_mm (s : State) (a b : Nat) : (s.setBit a b).mm = s.mm := rfl
@[simp] theorem State.setBit_dmaDisc (s : State) (a b : Nat) : (s.setBit a b).dmaDisc = s.dmaDisc := rfl
@[simp] theorem State.setBit_enc (s : State) (a b : Nat) : (s.setBit a b).enc = s.enc := rfl
@[simp] theorem State.setBit_slot (s : State) (a b : Nat) : (s.setBit a b).slot = s.slot := rfl
@[simp] theorem State.setBit_sync (s : State) (a b : Nat) : (s.setBit a b).sync = s.sync := rfl
@[simp] theorem State.setBit_dma (s : State) (a b : Nat) : (s.setBit a b).dma = s.dma := rfl
@[simp] theorem State.setBit_pcie (s : State) (a b : Nat) : (s.setBit a b).pcie = s.pcie := rfl
@[simp] theorem State.setBit_msix (s : State) (a b : Nat) : (s.setBit a b).msix = s.msix := rfl
@[simp] theorem State.setBit_pba (s : State) (a b : Nat) : (s.setBit a b).pba = s.pba := rfl
@[simp] theorem State.setBit_brg (s : State) (a b : Nat) : (s.setBit a b).brg = s.brg := rfl
@[simp] theorem State.setBit_tw (s : State) (a b : Nat) : (s.setBit a b).tw = s.tw := rfl
@[simp] theorem State.setBit_tw8Ptr (s : State) (a b : Nat) : (s.setBit a b).tw8Ptr = s.tw8Ptr := rfl
@[simp] theorem State.setBit_tun (s : State) (a b : Nat) : (s.setBit a b).tun = s.tun := rfl
@[simp] theorem State.setBit_tunQuar (s : State) (a b : Nat) : (s.setBit a b).tunQuar = s.tunQuar := rfl
@[simp] theorem State.setBit_twin (s : State) (a b : Nat) : (s.setBit a b).twin = s.twin := rfl
@[simp] theorem State.setBit_mgt (s : State) (a b : Nat) : (s.setBit a b).mgt = s.mgt := rfl
@[simp] theorem State.setBit_boot (s : State) (a b : Nat) : (s.setBit a b).boot = s.boot := rfl
@[simp] theorem State.setBit_pwr (s : State) (a b : Nat) : (s.setBit a b).pwr = s.pwr := rfl
@[simp] theorem State.setBit_flash (s : State) (a b : Nat) : (s.setBit a b).flash = s.flash := rfl
@[simp] theorem State.setBit_otp (s : State) (a b : Nat) : (s.setBit a b).otp = s.otp := rfl
@[simp] theorem State.setBit_tcm (s : State) (a b : Nat) : (s.setBit a b).tcm = s.tcm := rfl
@[simp] theorem State.setBit_shared (s : State) (a b : Nat) : (s.setBit a b).shared = s.shared := rfl
@[simp] theorem State.setBit_mbx (s : State) (a b : Nat) : (s.setBit a b).mbx = s.mbx := rfl
@[simp] theorem State.setBit_pending (s : State) (a b : Nat) : (s.setBit a b).pending = s.pending := rfl

@[simp] theorem State.putBit_imgRegs (s : State) (a b : Nat) (v : Bool) : (s.putBit a b v).imgRegs = s.imgRegs := rfl
@[simp] theorem State.putBit_expertPend (s : State) (a b : Nat) (v : Bool) : (s.putBit a b v).expertPend = s.expertPend := rfl
@[simp] theorem State.putBit_now (s : State) (a b : Nat) (v : Bool) : (s.putBit a b v).now = s.now := rfl
@[simp] theorem State.putBit_invar (s : State) (a b : Nat) (v : Bool) : (s.putBit a b v).invar = s.invar := rfl
@[simp] theorem State.putBit_free (s : State) (a b : Nat) (v : Bool) : (s.putBit a b v).free = s.free := rfl
@[simp] theorem State.putBit_out (s : State) (a b : Nat) (v : Bool) : (s.putBit a b v).out = s.out := rfl
@[simp] theorem State.putBit_straps (s : State) (a b : Nat) (v : Bool) : (s.putBit a b v).straps = s.straps := rfl
@[simp] theorem State.putBit_headLead (s : State) (a b : Nat) (v : Bool) : (s.putBit a b v).headLead = s.headLead := rfl
@[simp] theorem State.putBit_gen (s : State) (a b : Nat) (v : Bool) : (s.putBit a b v).gen = s.gen := rfl
@[simp] theorem State.putBit_grp (s : State) (a b : Nat) (v : Bool) : (s.putBit a b v).grp = s.grp := rfl
@[simp] theorem State.putBit_image (s : State) (a b : Nat) (v : Bool) : (s.putBit a b v).image = s.image := rfl
@[simp] theorem State.putBit_pav (s : State) (a b : Nat) (v : Bool) : (s.putBit a b v).pav = s.pav := rfl
@[simp] theorem State.putBit_ctxRecipe (s : State) (a b : Nat) (v : Bool) : (s.putBit a b v).ctxRecipe = s.ctxRecipe := rfl
@[simp] theorem State.putBit_chan (s : State) (a b : Nat) (v : Bool) : (s.putBit a b v).chan = s.chan := rfl
@[simp] theorem State.putBit_queue (s : State) (a b : Nat) (v : Bool) : (s.putBit a b v).queue = s.queue := rfl
@[simp] theorem State.putBit_arb (s : State) (a b : Nat) (v : Bool) : (s.putBit a b v).arb = s.arb := rfl
@[simp] theorem State.putBit_ghouse (s : State) (a b : Nat) (v : Bool) : (s.putBit a b v).ghouse = s.ghouse := rfl
@[simp] theorem State.putBit_port (s : State) (a b : Nat) (v : Bool) : (s.putBit a b v).port = s.port := rfl
@[simp] theorem State.putBit_entry (s : State) (a b : Nat) (v : Bool) : (s.putBit a b v).entry = s.entry := rfl
@[simp] theorem State.putBit_seg (s : State) (a b : Nat) (v : Bool) : (s.putBit a b v).seg = s.seg := rfl
@[simp] theorem State.putBit_stream (s : State) (a b : Nat) (v : Bool) : (s.putBit a b v).stream = s.stream := rfl
@[simp] theorem State.putBit_logRing (s : State) (a b : Nat) (v : Bool) : (s.putBit a b v).logRing = s.logRing := rfl
@[simp] theorem State.putBit_logArg (s : State) (a b : Nat) (v : Bool) : (s.putBit a b v).logArg = s.logArg := rfl
@[simp] theorem State.putBit_lodge (s : State) (a b : Nat) (v : Bool) : (s.putBit a b v).lodge = s.lodge := rfl
@[simp] theorem State.putBit_ic (s : State) (a b : Nat) (v : Bool) : (s.putBit a b v).ic = s.ic := rfl
@[simp] theorem State.putBit_wires (s : State) (a b : Nat) (v : Bool) : (s.putBit a b v).wires = s.wires := rfl
@[simp] theorem State.putBit_filter (s : State) (a b : Nat) (v : Bool) : (s.putBit a b v).filter = s.filter := rfl
@[simp] theorem State.putBit_trigLevel (s : State) (a b : Nat) (v : Bool) : (s.putBit a b v).trigLevel = s.trigLevel := rfl
@[simp] theorem State.putBit_pins (s : State) (a b : Nat) (v : Bool) : (s.putBit a b v).pins = s.pins := rfl
@[simp] theorem State.putBit_mirrorQ (s : State) (a b : Nat) (v : Bool) : (s.putBit a b v).mirrorQ = s.mirrorQ := rfl
@[simp] theorem State.putBit_mirrorWait (s : State) (a b : Nat) (v : Bool) : (s.putBit a b v).mirrorWait = s.mirrorWait := rfl
@[simp] theorem State.putBit_partnerState (s : State) (a b : Nat) (v : Bool) : (s.putBit a b v).partnerState = s.partnerState := rfl
@[simp] theorem State.putBit_cfg (s : State) (a b : Nat) (v : Bool) : (s.putBit a b v).cfg = s.cfg := rfl
@[simp] theorem State.putBit_flrUntil (s : State) (a b : Nat) (v : Bool) : (s.putBit a b v).flrUntil = s.flrUntil := rfl
@[simp] theorem State.putBit_ready (s : State) (a b : Nat) (v : Bool) : (s.putBit a b v).ready = s.ready := rfl
@[simp] theorem State.putBit_msixReq (s : State) (a b : Nat) (v : Bool) : (s.putBit a b v).msixReq = s.msixReq := rfl
@[simp] theorem State.putBit_luCtx (s : State) (a b : Nat) (v : Bool) : (s.putBit a b v).luCtx = s.luCtx := rfl
@[simp] theorem State.putBit_luTable (s : State) (a b : Nat) (v : Bool) : (s.putBit a b v).luTable = s.luTable := rfl
@[simp] theorem State.putBit_muCtx (s : State) (a b : Nat) (v : Bool) : (s.putBit a b v).muCtx = s.muCtx := rfl
@[simp] theorem State.putBit_muGrp (s : State) (a b : Nat) (v : Bool) : (s.putBit a b v).muGrp = s.muGrp := rfl
@[simp] theorem State.putBit_fmMem (s : State) (a b : Nat) (v : Bool) : (s.putBit a b v).fmMem = s.fmMem := rfl
@[simp] theorem State.putBit_fm (s : State) (a b : Nat) (v : Bool) : (s.putBit a b v).fm = s.fm := rfl
@[simp] theorem State.putBit_bu (s : State) (a b : Nat) (v : Bool) : (s.putBit a b v).bu = s.bu := rfl
@[simp] theorem State.putBit_guCtx (s : State) (a b : Nat) (v : Bool) : (s.putBit a b v).guCtx = s.guCtx := rfl
@[simp] theorem State.putBit_guPath (s : State) (a b : Nat) (v : Bool) : (s.putBit a b v).guPath = s.guPath := rfl
@[simp] theorem State.putBit_guSlot (s : State) (a b : Nat) (v : Bool) : (s.putBit a b v).guSlot = s.guSlot := rfl
@[simp] theorem State.putBit_os (s : State) (a b : Nat) (v : Bool) : (s.putBit a b v).os = s.os := rfl
@[simp] theorem State.putBit_relay (s : State) (a b : Nat) (v : Bool) : (s.putBit a b v).relay = s.relay := rfl
@[simp] theorem State.putBit_mm (s : State) (a b : Nat) (v : Bool) : (s.putBit a b v).mm = s.mm := rfl
@[simp] theorem State.putBit_dmaDisc (s : State) (a b : Nat) (v : Bool) : (s.putBit a b v).dmaDisc = s.dmaDisc := rfl
@[simp] theorem State.putBit_enc (s : State) (a b : Nat) (v : Bool) : (s.putBit a b v).enc = s.enc := rfl
@[simp] theorem State.putBit_slot (s : State) (a b : Nat) (v : Bool) : (s.putBit a b v).slot = s.slot := rfl
@[simp] theorem State.putBit_sync (s : State) (a b : Nat) (v : Bool) : (s.putBit a b v).sync = s.sync := rfl
@[simp] theorem State.putBit_dma (s : State) (a b : Nat) (v : Bool) : (s.putBit a b v).dma = s.dma := rfl
@[simp] theorem State.putBit_pcie (s : State) (a b : Nat) (v : Bool) : (s.putBit a b v).pcie = s.pcie := rfl
@[simp] theorem State.putBit_msix (s : State) (a b : Nat) (v : Bool) : (s.putBit a b v).msix = s.msix := rfl
@[simp] theorem State.putBit_pba (s : State) (a b : Nat) (v : Bool) : (s.putBit a b v).pba = s.pba := rfl
@[simp] theorem State.putBit_brg (s : State) (a b : Nat) (v : Bool) : (s.putBit a b v).brg = s.brg := rfl
@[simp] theorem State.putBit_tw (s : State) (a b : Nat) (v : Bool) : (s.putBit a b v).tw = s.tw := rfl
@[simp] theorem State.putBit_tw8Ptr (s : State) (a b : Nat) (v : Bool) : (s.putBit a b v).tw8Ptr = s.tw8Ptr := rfl
@[simp] theorem State.putBit_tun (s : State) (a b : Nat) (v : Bool) : (s.putBit a b v).tun = s.tun := rfl
@[simp] theorem State.putBit_tunQuar (s : State) (a b : Nat) (v : Bool) : (s.putBit a b v).tunQuar = s.tunQuar := rfl
@[simp] theorem State.putBit_twin (s : State) (a b : Nat) (v : Bool) : (s.putBit a b v).twin = s.twin := rfl
@[simp] theorem State.putBit_mgt (s : State) (a b : Nat) (v : Bool) : (s.putBit a b v).mgt = s.mgt := rfl
@[simp] theorem State.putBit_boot (s : State) (a b : Nat) (v : Bool) : (s.putBit a b v).boot = s.boot := rfl
@[simp] theorem State.putBit_pwr (s : State) (a b : Nat) (v : Bool) : (s.putBit a b v).pwr = s.pwr := rfl
@[simp] theorem State.putBit_flash (s : State) (a b : Nat) (v : Bool) : (s.putBit a b v).flash = s.flash := rfl
@[simp] theorem State.putBit_otp (s : State) (a b : Nat) (v : Bool) : (s.putBit a b v).otp = s.otp := rfl
@[simp] theorem State.putBit_tcm (s : State) (a b : Nat) (v : Bool) : (s.putBit a b v).tcm = s.tcm := rfl
@[simp] theorem State.putBit_shared (s : State) (a b : Nat) (v : Bool) : (s.putBit a b v).shared = s.shared := rfl
@[simp] theorem State.putBit_mbx (s : State) (a b : Nat) (v : Bool) : (s.putBit a b v).mbx = s.mbx := rfl
@[simp] theorem State.putBit_pending (s : State) (a b : Nat) (v : Bool) : (s.putBit a b v).pending = s.pending := rfl

@[simp] theorem State.countN_imgRegs (s : State) (a n : Nat) : (s.countN a n).imgRegs = s.imgRegs := rfl
@[simp] theorem State.countN_expertPend (s : State) (a n : Nat) : (s.countN a n).expertPend = s.expertPend := rfl
@[simp] theorem State.countN_now (s : State) (a n : Nat) : (s.countN a n).now = s.now := rfl
@[simp] theorem State.countN_invar (s : State) (a n : Nat) : (s.countN a n).invar = s.invar := rfl
@[simp] theorem State.countN_free (s : State) (a n : Nat) : (s.countN a n).free = s.free := rfl
@[simp] theorem State.countN_out (s : State) (a n : Nat) : (s.countN a n).out = s.out := rfl
@[simp] theorem State.countN_straps (s : State) (a n : Nat) : (s.countN a n).straps = s.straps := rfl
@[simp] theorem State.countN_headLead (s : State) (a n : Nat) : (s.countN a n).headLead = s.headLead := rfl
@[simp] theorem State.countN_gen (s : State) (a n : Nat) : (s.countN a n).gen = s.gen := rfl
@[simp] theorem State.countN_grp (s : State) (a n : Nat) : (s.countN a n).grp = s.grp := rfl
@[simp] theorem State.countN_image (s : State) (a n : Nat) : (s.countN a n).image = s.image := rfl
@[simp] theorem State.countN_pav (s : State) (a n : Nat) : (s.countN a n).pav = s.pav := rfl
@[simp] theorem State.countN_ctxRecipe (s : State) (a n : Nat) : (s.countN a n).ctxRecipe = s.ctxRecipe := rfl
@[simp] theorem State.countN_chan (s : State) (a n : Nat) : (s.countN a n).chan = s.chan := rfl
@[simp] theorem State.countN_queue (s : State) (a n : Nat) : (s.countN a n).queue = s.queue := rfl
@[simp] theorem State.countN_arb (s : State) (a n : Nat) : (s.countN a n).arb = s.arb := rfl
@[simp] theorem State.countN_ghouse (s : State) (a n : Nat) : (s.countN a n).ghouse = s.ghouse := rfl
@[simp] theorem State.countN_port (s : State) (a n : Nat) : (s.countN a n).port = s.port := rfl
@[simp] theorem State.countN_entry (s : State) (a n : Nat) : (s.countN a n).entry = s.entry := rfl
@[simp] theorem State.countN_seg (s : State) (a n : Nat) : (s.countN a n).seg = s.seg := rfl
@[simp] theorem State.countN_stream (s : State) (a n : Nat) : (s.countN a n).stream = s.stream := rfl
@[simp] theorem State.countN_logRing (s : State) (a n : Nat) : (s.countN a n).logRing = s.logRing := rfl
@[simp] theorem State.countN_logArg (s : State) (a n : Nat) : (s.countN a n).logArg = s.logArg := rfl
@[simp] theorem State.countN_lodge (s : State) (a n : Nat) : (s.countN a n).lodge = s.lodge := rfl
@[simp] theorem State.countN_ic (s : State) (a n : Nat) : (s.countN a n).ic = s.ic := rfl
@[simp] theorem State.countN_wires (s : State) (a n : Nat) : (s.countN a n).wires = s.wires := rfl
@[simp] theorem State.countN_filter (s : State) (a n : Nat) : (s.countN a n).filter = s.filter := rfl
@[simp] theorem State.countN_trigLevel (s : State) (a n : Nat) : (s.countN a n).trigLevel = s.trigLevel := rfl
@[simp] theorem State.countN_pins (s : State) (a n : Nat) : (s.countN a n).pins = s.pins := rfl
@[simp] theorem State.countN_mirrorQ (s : State) (a n : Nat) : (s.countN a n).mirrorQ = s.mirrorQ := rfl
@[simp] theorem State.countN_mirrorWait (s : State) (a n : Nat) : (s.countN a n).mirrorWait = s.mirrorWait := rfl
@[simp] theorem State.countN_partnerState (s : State) (a n : Nat) : (s.countN a n).partnerState = s.partnerState := rfl
@[simp] theorem State.countN_cfg (s : State) (a n : Nat) : (s.countN a n).cfg = s.cfg := rfl
@[simp] theorem State.countN_flrUntil (s : State) (a n : Nat) : (s.countN a n).flrUntil = s.flrUntil := rfl
@[simp] theorem State.countN_ready (s : State) (a n : Nat) : (s.countN a n).ready = s.ready := rfl
@[simp] theorem State.countN_msixReq (s : State) (a n : Nat) : (s.countN a n).msixReq = s.msixReq := rfl
@[simp] theorem State.countN_luCtx (s : State) (a n : Nat) : (s.countN a n).luCtx = s.luCtx := rfl
@[simp] theorem State.countN_luTable (s : State) (a n : Nat) : (s.countN a n).luTable = s.luTable := rfl
@[simp] theorem State.countN_muCtx (s : State) (a n : Nat) : (s.countN a n).muCtx = s.muCtx := rfl
@[simp] theorem State.countN_muGrp (s : State) (a n : Nat) : (s.countN a n).muGrp = s.muGrp := rfl
@[simp] theorem State.countN_fmMem (s : State) (a n : Nat) : (s.countN a n).fmMem = s.fmMem := rfl
@[simp] theorem State.countN_fm (s : State) (a n : Nat) : (s.countN a n).fm = s.fm := rfl
@[simp] theorem State.countN_bu (s : State) (a n : Nat) : (s.countN a n).bu = s.bu := rfl
@[simp] theorem State.countN_guCtx (s : State) (a n : Nat) : (s.countN a n).guCtx = s.guCtx := rfl
@[simp] theorem State.countN_guPath (s : State) (a n : Nat) : (s.countN a n).guPath = s.guPath := rfl
@[simp] theorem State.countN_guSlot (s : State) (a n : Nat) : (s.countN a n).guSlot = s.guSlot := rfl
@[simp] theorem State.countN_os (s : State) (a n : Nat) : (s.countN a n).os = s.os := rfl
@[simp] theorem State.countN_relay (s : State) (a n : Nat) : (s.countN a n).relay = s.relay := rfl
@[simp] theorem State.countN_mm (s : State) (a n : Nat) : (s.countN a n).mm = s.mm := rfl
@[simp] theorem State.countN_dmaDisc (s : State) (a n : Nat) : (s.countN a n).dmaDisc = s.dmaDisc := rfl
@[simp] theorem State.countN_enc (s : State) (a n : Nat) : (s.countN a n).enc = s.enc := rfl
@[simp] theorem State.countN_slot (s : State) (a n : Nat) : (s.countN a n).slot = s.slot := rfl
@[simp] theorem State.countN_sync (s : State) (a n : Nat) : (s.countN a n).sync = s.sync := rfl
@[simp] theorem State.countN_dma (s : State) (a n : Nat) : (s.countN a n).dma = s.dma := rfl
@[simp] theorem State.countN_pcie (s : State) (a n : Nat) : (s.countN a n).pcie = s.pcie := rfl
@[simp] theorem State.countN_msix (s : State) (a n : Nat) : (s.countN a n).msix = s.msix := rfl
@[simp] theorem State.countN_pba (s : State) (a n : Nat) : (s.countN a n).pba = s.pba := rfl
@[simp] theorem State.countN_brg (s : State) (a n : Nat) : (s.countN a n).brg = s.brg := rfl
@[simp] theorem State.countN_tw (s : State) (a n : Nat) : (s.countN a n).tw = s.tw := rfl
@[simp] theorem State.countN_tw8Ptr (s : State) (a n : Nat) : (s.countN a n).tw8Ptr = s.tw8Ptr := rfl
@[simp] theorem State.countN_tun (s : State) (a n : Nat) : (s.countN a n).tun = s.tun := rfl
@[simp] theorem State.countN_tunQuar (s : State) (a n : Nat) : (s.countN a n).tunQuar = s.tunQuar := rfl
@[simp] theorem State.countN_twin (s : State) (a n : Nat) : (s.countN a n).twin = s.twin := rfl
@[simp] theorem State.countN_mgt (s : State) (a n : Nat) : (s.countN a n).mgt = s.mgt := rfl
@[simp] theorem State.countN_boot (s : State) (a n : Nat) : (s.countN a n).boot = s.boot := rfl
@[simp] theorem State.countN_pwr (s : State) (a n : Nat) : (s.countN a n).pwr = s.pwr := rfl
@[simp] theorem State.countN_flash (s : State) (a n : Nat) : (s.countN a n).flash = s.flash := rfl
@[simp] theorem State.countN_otp (s : State) (a n : Nat) : (s.countN a n).otp = s.otp := rfl
@[simp] theorem State.countN_tcm (s : State) (a n : Nat) : (s.countN a n).tcm = s.tcm := rfl
@[simp] theorem State.countN_shared (s : State) (a n : Nat) : (s.countN a n).shared = s.shared := rfl
@[simp] theorem State.countN_mbx (s : State) (a n : Nat) : (s.countN a n).mbx = s.mbx := rfl
@[simp] theorem State.countN_pending (s : State) (a n : Nat) : (s.countN a n).pending = s.pending := rfl

@[simp] theorem State.count_imgRegs (s : State) (a : Nat) : (s.count a).imgRegs = s.imgRegs := rfl
@[simp] theorem State.count_expertPend (s : State) (a : Nat) : (s.count a).expertPend = s.expertPend := rfl
@[simp] theorem State.count_now (s : State) (a : Nat) : (s.count a).now = s.now := rfl
@[simp] theorem State.count_invar (s : State) (a : Nat) : (s.count a).invar = s.invar := rfl
@[simp] theorem State.count_free (s : State) (a : Nat) : (s.count a).free = s.free := rfl
@[simp] theorem State.count_out (s : State) (a : Nat) : (s.count a).out = s.out := rfl
@[simp] theorem State.count_straps (s : State) (a : Nat) : (s.count a).straps = s.straps := rfl
@[simp] theorem State.count_headLead (s : State) (a : Nat) : (s.count a).headLead = s.headLead := rfl
@[simp] theorem State.count_gen (s : State) (a : Nat) : (s.count a).gen = s.gen := rfl
@[simp] theorem State.count_grp (s : State) (a : Nat) : (s.count a).grp = s.grp := rfl
@[simp] theorem State.count_image (s : State) (a : Nat) : (s.count a).image = s.image := rfl
@[simp] theorem State.count_pav (s : State) (a : Nat) : (s.count a).pav = s.pav := rfl
@[simp] theorem State.count_ctxRecipe (s : State) (a : Nat) : (s.count a).ctxRecipe = s.ctxRecipe := rfl
@[simp] theorem State.count_chan (s : State) (a : Nat) : (s.count a).chan = s.chan := rfl
@[simp] theorem State.count_queue (s : State) (a : Nat) : (s.count a).queue = s.queue := rfl
@[simp] theorem State.count_arb (s : State) (a : Nat) : (s.count a).arb = s.arb := rfl
@[simp] theorem State.count_ghouse (s : State) (a : Nat) : (s.count a).ghouse = s.ghouse := rfl
@[simp] theorem State.count_port (s : State) (a : Nat) : (s.count a).port = s.port := rfl
@[simp] theorem State.count_entry (s : State) (a : Nat) : (s.count a).entry = s.entry := rfl
@[simp] theorem State.count_seg (s : State) (a : Nat) : (s.count a).seg = s.seg := rfl
@[simp] theorem State.count_stream (s : State) (a : Nat) : (s.count a).stream = s.stream := rfl
@[simp] theorem State.count_logRing (s : State) (a : Nat) : (s.count a).logRing = s.logRing := rfl
@[simp] theorem State.count_logArg (s : State) (a : Nat) : (s.count a).logArg = s.logArg := rfl
@[simp] theorem State.count_lodge (s : State) (a : Nat) : (s.count a).lodge = s.lodge := rfl
@[simp] theorem State.count_ic (s : State) (a : Nat) : (s.count a).ic = s.ic := rfl
@[simp] theorem State.count_wires (s : State) (a : Nat) : (s.count a).wires = s.wires := rfl
@[simp] theorem State.count_filter (s : State) (a : Nat) : (s.count a).filter = s.filter := rfl
@[simp] theorem State.count_trigLevel (s : State) (a : Nat) : (s.count a).trigLevel = s.trigLevel := rfl
@[simp] theorem State.count_pins (s : State) (a : Nat) : (s.count a).pins = s.pins := rfl
@[simp] theorem State.count_mirrorQ (s : State) (a : Nat) : (s.count a).mirrorQ = s.mirrorQ := rfl
@[simp] theorem State.count_mirrorWait (s : State) (a : Nat) : (s.count a).mirrorWait = s.mirrorWait := rfl
@[simp] theorem State.count_partnerState (s : State) (a : Nat) : (s.count a).partnerState = s.partnerState := rfl
@[simp] theorem State.count_cfg (s : State) (a : Nat) : (s.count a).cfg = s.cfg := rfl
@[simp] theorem State.count_flrUntil (s : State) (a : Nat) : (s.count a).flrUntil = s.flrUntil := rfl
@[simp] theorem State.count_ready (s : State) (a : Nat) : (s.count a).ready = s.ready := rfl
@[simp] theorem State.count_msixReq (s : State) (a : Nat) : (s.count a).msixReq = s.msixReq := rfl
@[simp] theorem State.count_luCtx (s : State) (a : Nat) : (s.count a).luCtx = s.luCtx := rfl
@[simp] theorem State.count_luTable (s : State) (a : Nat) : (s.count a).luTable = s.luTable := rfl
@[simp] theorem State.count_muCtx (s : State) (a : Nat) : (s.count a).muCtx = s.muCtx := rfl
@[simp] theorem State.count_muGrp (s : State) (a : Nat) : (s.count a).muGrp = s.muGrp := rfl
@[simp] theorem State.count_fmMem (s : State) (a : Nat) : (s.count a).fmMem = s.fmMem := rfl
@[simp] theorem State.count_fm (s : State) (a : Nat) : (s.count a).fm = s.fm := rfl
@[simp] theorem State.count_bu (s : State) (a : Nat) : (s.count a).bu = s.bu := rfl
@[simp] theorem State.count_guCtx (s : State) (a : Nat) : (s.count a).guCtx = s.guCtx := rfl
@[simp] theorem State.count_guPath (s : State) (a : Nat) : (s.count a).guPath = s.guPath := rfl
@[simp] theorem State.count_guSlot (s : State) (a : Nat) : (s.count a).guSlot = s.guSlot := rfl
@[simp] theorem State.count_os (s : State) (a : Nat) : (s.count a).os = s.os := rfl
@[simp] theorem State.count_relay (s : State) (a : Nat) : (s.count a).relay = s.relay := rfl
@[simp] theorem State.count_mm (s : State) (a : Nat) : (s.count a).mm = s.mm := rfl
@[simp] theorem State.count_dmaDisc (s : State) (a : Nat) : (s.count a).dmaDisc = s.dmaDisc := rfl
@[simp] theorem State.count_enc (s : State) (a : Nat) : (s.count a).enc = s.enc := rfl
@[simp] theorem State.count_slot (s : State) (a : Nat) : (s.count a).slot = s.slot := rfl
@[simp] theorem State.count_sync (s : State) (a : Nat) : (s.count a).sync = s.sync := rfl
@[simp] theorem State.count_dma (s : State) (a : Nat) : (s.count a).dma = s.dma := rfl
@[simp] theorem State.count_pcie (s : State) (a : Nat) : (s.count a).pcie = s.pcie := rfl
@[simp] theorem State.count_msix (s : State) (a : Nat) : (s.count a).msix = s.msix := rfl
@[simp] theorem State.count_pba (s : State) (a : Nat) : (s.count a).pba = s.pba := rfl
@[simp] theorem State.count_brg (s : State) (a : Nat) : (s.count a).brg = s.brg := rfl
@[simp] theorem State.count_tw (s : State) (a : Nat) : (s.count a).tw = s.tw := rfl
@[simp] theorem State.count_tw8Ptr (s : State) (a : Nat) : (s.count a).tw8Ptr = s.tw8Ptr := rfl
@[simp] theorem State.count_tun (s : State) (a : Nat) : (s.count a).tun = s.tun := rfl
@[simp] theorem State.count_tunQuar (s : State) (a : Nat) : (s.count a).tunQuar = s.tunQuar := rfl
@[simp] theorem State.count_twin (s : State) (a : Nat) : (s.count a).twin = s.twin := rfl
@[simp] theorem State.count_mgt (s : State) (a : Nat) : (s.count a).mgt = s.mgt := rfl
@[simp] theorem State.count_boot (s : State) (a : Nat) : (s.count a).boot = s.boot := rfl
@[simp] theorem State.count_pwr (s : State) (a : Nat) : (s.count a).pwr = s.pwr := rfl
@[simp] theorem State.count_flash (s : State) (a : Nat) : (s.count a).flash = s.flash := rfl
@[simp] theorem State.count_otp (s : State) (a : Nat) : (s.count a).otp = s.otp := rfl
@[simp] theorem State.count_tcm (s : State) (a : Nat) : (s.count a).tcm = s.tcm := rfl
@[simp] theorem State.count_shared (s : State) (a : Nat) : (s.count a).shared = s.shared := rfl
@[simp] theorem State.count_mbx (s : State) (a : Nat) : (s.count a).mbx = s.mbx := rfl
@[simp] theorem State.count_pending (s : State) (a : Nat) : (s.count a).pending = s.pending := rfl

@[simp] theorem State.bumpSeq_imgRegs (s : State) (a : Nat) : (s.bumpSeq a).imgRegs = s.imgRegs := rfl
@[simp] theorem State.bumpSeq_expertPend (s : State) (a : Nat) : (s.bumpSeq a).expertPend = s.expertPend := rfl
@[simp] theorem State.bumpSeq_now (s : State) (a : Nat) : (s.bumpSeq a).now = s.now := rfl
@[simp] theorem State.bumpSeq_invar (s : State) (a : Nat) : (s.bumpSeq a).invar = s.invar := rfl
@[simp] theorem State.bumpSeq_free (s : State) (a : Nat) : (s.bumpSeq a).free = s.free := rfl
@[simp] theorem State.bumpSeq_out (s : State) (a : Nat) : (s.bumpSeq a).out = s.out := rfl
@[simp] theorem State.bumpSeq_straps (s : State) (a : Nat) : (s.bumpSeq a).straps = s.straps := rfl
@[simp] theorem State.bumpSeq_headLead (s : State) (a : Nat) : (s.bumpSeq a).headLead = s.headLead := rfl
@[simp] theorem State.bumpSeq_gen (s : State) (a : Nat) : (s.bumpSeq a).gen = s.gen := rfl
@[simp] theorem State.bumpSeq_grp (s : State) (a : Nat) : (s.bumpSeq a).grp = s.grp := rfl
@[simp] theorem State.bumpSeq_image (s : State) (a : Nat) : (s.bumpSeq a).image = s.image := rfl
@[simp] theorem State.bumpSeq_pav (s : State) (a : Nat) : (s.bumpSeq a).pav = s.pav := rfl
@[simp] theorem State.bumpSeq_ctxRecipe (s : State) (a : Nat) : (s.bumpSeq a).ctxRecipe = s.ctxRecipe := rfl
@[simp] theorem State.bumpSeq_chan (s : State) (a : Nat) : (s.bumpSeq a).chan = s.chan := rfl
@[simp] theorem State.bumpSeq_queue (s : State) (a : Nat) : (s.bumpSeq a).queue = s.queue := rfl
@[simp] theorem State.bumpSeq_arb (s : State) (a : Nat) : (s.bumpSeq a).arb = s.arb := rfl
@[simp] theorem State.bumpSeq_ghouse (s : State) (a : Nat) : (s.bumpSeq a).ghouse = s.ghouse := rfl
@[simp] theorem State.bumpSeq_port (s : State) (a : Nat) : (s.bumpSeq a).port = s.port := rfl
@[simp] theorem State.bumpSeq_entry (s : State) (a : Nat) : (s.bumpSeq a).entry = s.entry := rfl
@[simp] theorem State.bumpSeq_seg (s : State) (a : Nat) : (s.bumpSeq a).seg = s.seg := rfl
@[simp] theorem State.bumpSeq_stream (s : State) (a : Nat) : (s.bumpSeq a).stream = s.stream := rfl
@[simp] theorem State.bumpSeq_logRing (s : State) (a : Nat) : (s.bumpSeq a).logRing = s.logRing := rfl
@[simp] theorem State.bumpSeq_logArg (s : State) (a : Nat) : (s.bumpSeq a).logArg = s.logArg := rfl
@[simp] theorem State.bumpSeq_lodge (s : State) (a : Nat) : (s.bumpSeq a).lodge = s.lodge := rfl
@[simp] theorem State.bumpSeq_ic (s : State) (a : Nat) : (s.bumpSeq a).ic = s.ic := rfl
@[simp] theorem State.bumpSeq_wires (s : State) (a : Nat) : (s.bumpSeq a).wires = s.wires := rfl
@[simp] theorem State.bumpSeq_filter (s : State) (a : Nat) : (s.bumpSeq a).filter = s.filter := rfl
@[simp] theorem State.bumpSeq_trigLevel (s : State) (a : Nat) : (s.bumpSeq a).trigLevel = s.trigLevel := rfl
@[simp] theorem State.bumpSeq_pins (s : State) (a : Nat) : (s.bumpSeq a).pins = s.pins := rfl
@[simp] theorem State.bumpSeq_mirrorQ (s : State) (a : Nat) : (s.bumpSeq a).mirrorQ = s.mirrorQ := rfl
@[simp] theorem State.bumpSeq_mirrorWait (s : State) (a : Nat) : (s.bumpSeq a).mirrorWait = s.mirrorWait := rfl
@[simp] theorem State.bumpSeq_partnerState (s : State) (a : Nat) : (s.bumpSeq a).partnerState = s.partnerState := rfl
@[simp] theorem State.bumpSeq_cfg (s : State) (a : Nat) : (s.bumpSeq a).cfg = s.cfg := rfl
@[simp] theorem State.bumpSeq_flrUntil (s : State) (a : Nat) : (s.bumpSeq a).flrUntil = s.flrUntil := rfl
@[simp] theorem State.bumpSeq_ready (s : State) (a : Nat) : (s.bumpSeq a).ready = s.ready := rfl
@[simp] theorem State.bumpSeq_msixReq (s : State) (a : Nat) : (s.bumpSeq a).msixReq = s.msixReq := rfl
@[simp] theorem State.bumpSeq_luCtx (s : State) (a : Nat) : (s.bumpSeq a).luCtx = s.luCtx := rfl
@[simp] theorem State.bumpSeq_luTable (s : State) (a : Nat) : (s.bumpSeq a).luTable = s.luTable := rfl
@[simp] theorem State.bumpSeq_muCtx (s : State) (a : Nat) : (s.bumpSeq a).muCtx = s.muCtx := rfl
@[simp] theorem State.bumpSeq_muGrp (s : State) (a : Nat) : (s.bumpSeq a).muGrp = s.muGrp := rfl
@[simp] theorem State.bumpSeq_fmMem (s : State) (a : Nat) : (s.bumpSeq a).fmMem = s.fmMem := rfl
@[simp] theorem State.bumpSeq_fm (s : State) (a : Nat) : (s.bumpSeq a).fm = s.fm := rfl
@[simp] theorem State.bumpSeq_bu (s : State) (a : Nat) : (s.bumpSeq a).bu = s.bu := rfl
@[simp] theorem State.bumpSeq_guCtx (s : State) (a : Nat) : (s.bumpSeq a).guCtx = s.guCtx := rfl
@[simp] theorem State.bumpSeq_guPath (s : State) (a : Nat) : (s.bumpSeq a).guPath = s.guPath := rfl
@[simp] theorem State.bumpSeq_guSlot (s : State) (a : Nat) : (s.bumpSeq a).guSlot = s.guSlot := rfl
@[simp] theorem State.bumpSeq_os (s : State) (a : Nat) : (s.bumpSeq a).os = s.os := rfl
@[simp] theorem State.bumpSeq_relay (s : State) (a : Nat) : (s.bumpSeq a).relay = s.relay := rfl
@[simp] theorem State.bumpSeq_mm (s : State) (a : Nat) : (s.bumpSeq a).mm = s.mm := rfl
@[simp] theorem State.bumpSeq_dmaDisc (s : State) (a : Nat) : (s.bumpSeq a).dmaDisc = s.dmaDisc := rfl
@[simp] theorem State.bumpSeq_enc (s : State) (a : Nat) : (s.bumpSeq a).enc = s.enc := rfl
@[simp] theorem State.bumpSeq_slot (s : State) (a : Nat) : (s.bumpSeq a).slot = s.slot := rfl
@[simp] theorem State.bumpSeq_sync (s : State) (a : Nat) : (s.bumpSeq a).sync = s.sync := rfl
@[simp] theorem State.bumpSeq_dma (s : State) (a : Nat) : (s.bumpSeq a).dma = s.dma := rfl
@[simp] theorem State.bumpSeq_pcie (s : State) (a : Nat) : (s.bumpSeq a).pcie = s.pcie := rfl
@[simp] theorem State.bumpSeq_msix (s : State) (a : Nat) : (s.bumpSeq a).msix = s.msix := rfl
@[simp] theorem State.bumpSeq_pba (s : State) (a : Nat) : (s.bumpSeq a).pba = s.pba := rfl
@[simp] theorem State.bumpSeq_brg (s : State) (a : Nat) : (s.bumpSeq a).brg = s.brg := rfl
@[simp] theorem State.bumpSeq_tw (s : State) (a : Nat) : (s.bumpSeq a).tw = s.tw := rfl
@[simp] theorem State.bumpSeq_tw8Ptr (s : State) (a : Nat) : (s.bumpSeq a).tw8Ptr = s.tw8Ptr := rfl
@[simp] theorem State.bumpSeq_tun (s : State) (a : Nat) : (s.bumpSeq a).tun = s.tun := rfl
@[simp] theorem State.bumpSeq_tunQuar (s : State) (a : Nat) : (s.bumpSeq a).tunQuar = s.tunQuar := rfl
@[simp] theorem State.bumpSeq_twin (s : State) (a : Nat) : (s.bumpSeq a).twin = s.twin := rfl
@[simp] theorem State.bumpSeq_mgt (s : State) (a : Nat) : (s.bumpSeq a).mgt = s.mgt := rfl
@[simp] theorem State.bumpSeq_boot (s : State) (a : Nat) : (s.bumpSeq a).boot = s.boot := rfl
@[simp] theorem State.bumpSeq_pwr (s : State) (a : Nat) : (s.bumpSeq a).pwr = s.pwr := rfl
@[simp] theorem State.bumpSeq_flash (s : State) (a : Nat) : (s.bumpSeq a).flash = s.flash := rfl
@[simp] theorem State.bumpSeq_otp (s : State) (a : Nat) : (s.bumpSeq a).otp = s.otp := rfl
@[simp] theorem State.bumpSeq_tcm (s : State) (a : Nat) : (s.bumpSeq a).tcm = s.tcm := rfl
@[simp] theorem State.bumpSeq_shared (s : State) (a : Nat) : (s.bumpSeq a).shared = s.shared := rfl
@[simp] theorem State.bumpSeq_mbx (s : State) (a : Nat) : (s.bumpSeq a).mbx = s.mbx := rfl
@[simp] theorem State.bumpSeq_pending (s : State) (a : Nat) : (s.bumpSeq a).pending = s.pending := rfl

@[simp] theorem State.emit_regs (s : State) (o : Out) : (s.emit o).regs = s.regs := rfl
@[simp] theorem State.emit_imgRegs (s : State) (o : Out) : (s.emit o).imgRegs = s.imgRegs := rfl
@[simp] theorem State.emit_expertPend (s : State) (o : Out) : (s.emit o).expertPend = s.expertPend := rfl
@[simp] theorem State.emit_now (s : State) (o : Out) : (s.emit o).now = s.now := rfl
@[simp] theorem State.emit_invar (s : State) (o : Out) : (s.emit o).invar = s.invar := rfl
@[simp] theorem State.emit_free (s : State) (o : Out) : (s.emit o).free = s.free := rfl
@[simp] theorem State.emit_straps (s : State) (o : Out) : (s.emit o).straps = s.straps := rfl
@[simp] theorem State.emit_headLead (s : State) (o : Out) : (s.emit o).headLead = s.headLead := rfl
@[simp] theorem State.emit_gen (s : State) (o : Out) : (s.emit o).gen = s.gen := rfl
@[simp] theorem State.emit_grp (s : State) (o : Out) : (s.emit o).grp = s.grp := rfl
@[simp] theorem State.emit_image (s : State) (o : Out) : (s.emit o).image = s.image := rfl
@[simp] theorem State.emit_pav (s : State) (o : Out) : (s.emit o).pav = s.pav := rfl
@[simp] theorem State.emit_ctxRecipe (s : State) (o : Out) : (s.emit o).ctxRecipe = s.ctxRecipe := rfl
@[simp] theorem State.emit_chan (s : State) (o : Out) : (s.emit o).chan = s.chan := rfl
@[simp] theorem State.emit_queue (s : State) (o : Out) : (s.emit o).queue = s.queue := rfl
@[simp] theorem State.emit_arb (s : State) (o : Out) : (s.emit o).arb = s.arb := rfl
@[simp] theorem State.emit_ghouse (s : State) (o : Out) : (s.emit o).ghouse = s.ghouse := rfl
@[simp] theorem State.emit_port (s : State) (o : Out) : (s.emit o).port = s.port := rfl
@[simp] theorem State.emit_entry (s : State) (o : Out) : (s.emit o).entry = s.entry := rfl
@[simp] theorem State.emit_seg (s : State) (o : Out) : (s.emit o).seg = s.seg := rfl
@[simp] theorem State.emit_stream (s : State) (o : Out) : (s.emit o).stream = s.stream := rfl
@[simp] theorem State.emit_logRing (s : State) (o : Out) : (s.emit o).logRing = s.logRing := rfl
@[simp] theorem State.emit_logArg (s : State) (o : Out) : (s.emit o).logArg = s.logArg := rfl
@[simp] theorem State.emit_lodge (s : State) (o : Out) : (s.emit o).lodge = s.lodge := rfl
@[simp] theorem State.emit_ic (s : State) (o : Out) : (s.emit o).ic = s.ic := rfl
@[simp] theorem State.emit_wires (s : State) (o : Out) : (s.emit o).wires = s.wires := rfl
@[simp] theorem State.emit_filter (s : State) (o : Out) : (s.emit o).filter = s.filter := rfl
@[simp] theorem State.emit_trigLevel (s : State) (o : Out) : (s.emit o).trigLevel = s.trigLevel := rfl
@[simp] theorem State.emit_pins (s : State) (o : Out) : (s.emit o).pins = s.pins := rfl
@[simp] theorem State.emit_mirrorQ (s : State) (o : Out) : (s.emit o).mirrorQ = s.mirrorQ := rfl
@[simp] theorem State.emit_mirrorWait (s : State) (o : Out) : (s.emit o).mirrorWait = s.mirrorWait := rfl
@[simp] theorem State.emit_partnerState (s : State) (o : Out) : (s.emit o).partnerState = s.partnerState := rfl
@[simp] theorem State.emit_cfg (s : State) (o : Out) : (s.emit o).cfg = s.cfg := rfl
@[simp] theorem State.emit_flrUntil (s : State) (o : Out) : (s.emit o).flrUntil = s.flrUntil := rfl
@[simp] theorem State.emit_ready (s : State) (o : Out) : (s.emit o).ready = s.ready := rfl
@[simp] theorem State.emit_msixReq (s : State) (o : Out) : (s.emit o).msixReq = s.msixReq := rfl
@[simp] theorem State.emit_luCtx (s : State) (o : Out) : (s.emit o).luCtx = s.luCtx := rfl
@[simp] theorem State.emit_luTable (s : State) (o : Out) : (s.emit o).luTable = s.luTable := rfl
@[simp] theorem State.emit_muCtx (s : State) (o : Out) : (s.emit o).muCtx = s.muCtx := rfl
@[simp] theorem State.emit_muGrp (s : State) (o : Out) : (s.emit o).muGrp = s.muGrp := rfl
@[simp] theorem State.emit_fmMem (s : State) (o : Out) : (s.emit o).fmMem = s.fmMem := rfl
@[simp] theorem State.emit_fm (s : State) (o : Out) : (s.emit o).fm = s.fm := rfl
@[simp] theorem State.emit_bu (s : State) (o : Out) : (s.emit o).bu = s.bu := rfl
@[simp] theorem State.emit_guCtx (s : State) (o : Out) : (s.emit o).guCtx = s.guCtx := rfl
@[simp] theorem State.emit_guPath (s : State) (o : Out) : (s.emit o).guPath = s.guPath := rfl
@[simp] theorem State.emit_guSlot (s : State) (o : Out) : (s.emit o).guSlot = s.guSlot := rfl
@[simp] theorem State.emit_os (s : State) (o : Out) : (s.emit o).os = s.os := rfl
@[simp] theorem State.emit_relay (s : State) (o : Out) : (s.emit o).relay = s.relay := rfl
@[simp] theorem State.emit_mm (s : State) (o : Out) : (s.emit o).mm = s.mm := rfl
@[simp] theorem State.emit_dmaDisc (s : State) (o : Out) : (s.emit o).dmaDisc = s.dmaDisc := rfl
@[simp] theorem State.emit_enc (s : State) (o : Out) : (s.emit o).enc = s.enc := rfl
@[simp] theorem State.emit_slot (s : State) (o : Out) : (s.emit o).slot = s.slot := rfl
@[simp] theorem State.emit_sync (s : State) (o : Out) : (s.emit o).sync = s.sync := rfl
@[simp] theorem State.emit_dma (s : State) (o : Out) : (s.emit o).dma = s.dma := rfl
@[simp] theorem State.emit_pcie (s : State) (o : Out) : (s.emit o).pcie = s.pcie := rfl
@[simp] theorem State.emit_msix (s : State) (o : Out) : (s.emit o).msix = s.msix := rfl
@[simp] theorem State.emit_pba (s : State) (o : Out) : (s.emit o).pba = s.pba := rfl
@[simp] theorem State.emit_brg (s : State) (o : Out) : (s.emit o).brg = s.brg := rfl
@[simp] theorem State.emit_tw (s : State) (o : Out) : (s.emit o).tw = s.tw := rfl
@[simp] theorem State.emit_tw8Ptr (s : State) (o : Out) : (s.emit o).tw8Ptr = s.tw8Ptr := rfl
@[simp] theorem State.emit_tun (s : State) (o : Out) : (s.emit o).tun = s.tun := rfl
@[simp] theorem State.emit_tunQuar (s : State) (o : Out) : (s.emit o).tunQuar = s.tunQuar := rfl
@[simp] theorem State.emit_twin (s : State) (o : Out) : (s.emit o).twin = s.twin := rfl
@[simp] theorem State.emit_mgt (s : State) (o : Out) : (s.emit o).mgt = s.mgt := rfl
@[simp] theorem State.emit_boot (s : State) (o : Out) : (s.emit o).boot = s.boot := rfl
@[simp] theorem State.emit_pwr (s : State) (o : Out) : (s.emit o).pwr = s.pwr := rfl
@[simp] theorem State.emit_flash (s : State) (o : Out) : (s.emit o).flash = s.flash := rfl
@[simp] theorem State.emit_otp (s : State) (o : Out) : (s.emit o).otp = s.otp := rfl
@[simp] theorem State.emit_tcm (s : State) (o : Out) : (s.emit o).tcm = s.tcm := rfl
@[simp] theorem State.emit_shared (s : State) (o : Out) : (s.emit o).shared = s.shared := rfl
@[simp] theorem State.emit_mbx (s : State) (o : Out) : (s.emit o).mbx = s.mbx := rfl
@[simp] theorem State.emit_pending (s : State) (o : Out) : (s.emit o).pending = s.pending := rfl

@[simp] theorem State.draw_regs (s : State) : (s.draw).regs = s.regs := rfl
@[simp] theorem State.draw_imgRegs (s : State) : (s.draw).imgRegs = s.imgRegs := rfl
@[simp] theorem State.draw_expertPend (s : State) : (s.draw).expertPend = s.expertPend := rfl
@[simp] theorem State.draw_now (s : State) : (s.draw).now = s.now := rfl
@[simp] theorem State.draw_invar (s : State) : (s.draw).invar = s.invar := rfl
@[simp] theorem State.draw_out (s : State) : (s.draw).out = s.out := rfl
@[simp] theorem State.draw_straps (s : State) : (s.draw).straps = s.straps := rfl
@[simp] theorem State.draw_headLead (s : State) : (s.draw).headLead = s.headLead := rfl
@[simp] theorem State.draw_gen (s : State) : (s.draw).gen = s.gen := rfl
@[simp] theorem State.draw_grp (s : State) : (s.draw).grp = s.grp := rfl
@[simp] theorem State.draw_image (s : State) : (s.draw).image = s.image := rfl
@[simp] theorem State.draw_pav (s : State) : (s.draw).pav = s.pav := rfl
@[simp] theorem State.draw_ctxRecipe (s : State) : (s.draw).ctxRecipe = s.ctxRecipe := rfl
@[simp] theorem State.draw_chan (s : State) : (s.draw).chan = s.chan := rfl
@[simp] theorem State.draw_queue (s : State) : (s.draw).queue = s.queue := rfl
@[simp] theorem State.draw_arb (s : State) : (s.draw).arb = s.arb := rfl
@[simp] theorem State.draw_ghouse (s : State) : (s.draw).ghouse = s.ghouse := rfl
@[simp] theorem State.draw_port (s : State) : (s.draw).port = s.port := rfl
@[simp] theorem State.draw_entry (s : State) : (s.draw).entry = s.entry := rfl
@[simp] theorem State.draw_seg (s : State) : (s.draw).seg = s.seg := rfl
@[simp] theorem State.draw_stream (s : State) : (s.draw).stream = s.stream := rfl
@[simp] theorem State.draw_logRing (s : State) : (s.draw).logRing = s.logRing := rfl
@[simp] theorem State.draw_logArg (s : State) : (s.draw).logArg = s.logArg := rfl
@[simp] theorem State.draw_lodge (s : State) : (s.draw).lodge = s.lodge := rfl
@[simp] theorem State.draw_ic (s : State) : (s.draw).ic = s.ic := rfl
@[simp] theorem State.draw_wires (s : State) : (s.draw).wires = s.wires := rfl
@[simp] theorem State.draw_filter (s : State) : (s.draw).filter = s.filter := rfl
@[simp] theorem State.draw_trigLevel (s : State) : (s.draw).trigLevel = s.trigLevel := rfl
@[simp] theorem State.draw_pins (s : State) : (s.draw).pins = s.pins := rfl
@[simp] theorem State.draw_mirrorQ (s : State) : (s.draw).mirrorQ = s.mirrorQ := rfl
@[simp] theorem State.draw_mirrorWait (s : State) : (s.draw).mirrorWait = s.mirrorWait := rfl
@[simp] theorem State.draw_partnerState (s : State) : (s.draw).partnerState = s.partnerState := rfl
@[simp] theorem State.draw_cfg (s : State) : (s.draw).cfg = s.cfg := rfl
@[simp] theorem State.draw_flrUntil (s : State) : (s.draw).flrUntil = s.flrUntil := rfl
@[simp] theorem State.draw_ready (s : State) : (s.draw).ready = s.ready := rfl
@[simp] theorem State.draw_msixReq (s : State) : (s.draw).msixReq = s.msixReq := rfl
@[simp] theorem State.draw_luCtx (s : State) : (s.draw).luCtx = s.luCtx := rfl
@[simp] theorem State.draw_luTable (s : State) : (s.draw).luTable = s.luTable := rfl
@[simp] theorem State.draw_muCtx (s : State) : (s.draw).muCtx = s.muCtx := rfl
@[simp] theorem State.draw_muGrp (s : State) : (s.draw).muGrp = s.muGrp := rfl
@[simp] theorem State.draw_fmMem (s : State) : (s.draw).fmMem = s.fmMem := rfl
@[simp] theorem State.draw_fm (s : State) : (s.draw).fm = s.fm := rfl
@[simp] theorem State.draw_bu (s : State) : (s.draw).bu = s.bu := rfl
@[simp] theorem State.draw_guCtx (s : State) : (s.draw).guCtx = s.guCtx := rfl
@[simp] theorem State.draw_guPath (s : State) : (s.draw).guPath = s.guPath := rfl
@[simp] theorem State.draw_guSlot (s : State) : (s.draw).guSlot = s.guSlot := rfl
@[simp] theorem State.draw_os (s : State) : (s.draw).os = s.os := rfl
@[simp] theorem State.draw_relay (s : State) : (s.draw).relay = s.relay := rfl
@[simp] theorem State.draw_mm (s : State) : (s.draw).mm = s.mm := rfl
@[simp] theorem State.draw_dmaDisc (s : State) : (s.draw).dmaDisc = s.dmaDisc := rfl
@[simp] theorem State.draw_enc (s : State) : (s.draw).enc = s.enc := rfl
@[simp] theorem State.draw_slot (s : State) : (s.draw).slot = s.slot := rfl
@[simp] theorem State.draw_sync (s : State) : (s.draw).sync = s.sync := rfl
@[simp] theorem State.draw_dma (s : State) : (s.draw).dma = s.dma := rfl
@[simp] theorem State.draw_pcie (s : State) : (s.draw).pcie = s.pcie := rfl
@[simp] theorem State.draw_msix (s : State) : (s.draw).msix = s.msix := rfl
@[simp] theorem State.draw_pba (s : State) : (s.draw).pba = s.pba := rfl
@[simp] theorem State.draw_brg (s : State) : (s.draw).brg = s.brg := rfl
@[simp] theorem State.draw_tw (s : State) : (s.draw).tw = s.tw := rfl
@[simp] theorem State.draw_tw8Ptr (s : State) : (s.draw).tw8Ptr = s.tw8Ptr := rfl
@[simp] theorem State.draw_tun (s : State) : (s.draw).tun = s.tun := rfl
@[simp] theorem State.draw_tunQuar (s : State) : (s.draw).tunQuar = s.tunQuar := rfl
@[simp] theorem State.draw_twin (s : State) : (s.draw).twin = s.twin := rfl
@[simp] theorem State.draw_mgt (s : State) : (s.draw).mgt = s.mgt := rfl
@[simp] theorem State.draw_boot (s : State) : (s.draw).boot = s.boot := rfl
@[simp] theorem State.draw_pwr (s : State) : (s.draw).pwr = s.pwr := rfl
@[simp] theorem State.draw_flash (s : State) : (s.draw).flash = s.flash := rfl
@[simp] theorem State.draw_otp (s : State) : (s.draw).otp = s.otp := rfl
@[simp] theorem State.draw_tcm (s : State) : (s.draw).tcm = s.tcm := rfl
@[simp] theorem State.draw_shared (s : State) : (s.draw).shared = s.shared := rfl
@[simp] theorem State.draw_mbx (s : State) : (s.draw).mbx = s.mbx := rfl
@[simp] theorem State.draw_pending (s : State) : (s.draw).pending = s.pending := rfl

@[simp] theorem State.raiseError_regs (s : State) (a b : Nat) : (s.raiseError a b).regs = s.regs := rfl
@[simp] theorem State.raiseError_imgRegs (s : State) (a b : Nat) : (s.raiseError a b).imgRegs = s.imgRegs := rfl
@[simp] theorem State.raiseError_expertPend (s : State) (a b : Nat) : (s.raiseError a b).expertPend = s.expertPend := rfl
@[simp] theorem State.raiseError_now (s : State) (a b : Nat) : (s.raiseError a b).now = s.now := rfl
@[simp] theorem State.raiseError_invar (s : State) (a b : Nat) : (s.raiseError a b).invar = s.invar := rfl
@[simp] theorem State.raiseError_free (s : State) (a b : Nat) : (s.raiseError a b).free = s.free := rfl
@[simp] theorem State.raiseError_out (s : State) (a b : Nat) : (s.raiseError a b).out = s.out := rfl
@[simp] theorem State.raiseError_straps (s : State) (a b : Nat) : (s.raiseError a b).straps = s.straps := rfl
@[simp] theorem State.raiseError_headLead (s : State) (a b : Nat) : (s.raiseError a b).headLead = s.headLead := rfl
@[simp] theorem State.raiseError_gen (s : State) (a b : Nat) : (s.raiseError a b).gen = s.gen := rfl
@[simp] theorem State.raiseError_grp (s : State) (a b : Nat) : (s.raiseError a b).grp = s.grp := rfl
@[simp] theorem State.raiseError_image (s : State) (a b : Nat) : (s.raiseError a b).image = s.image := rfl
@[simp] theorem State.raiseError_pav (s : State) (a b : Nat) : (s.raiseError a b).pav = s.pav := rfl
@[simp] theorem State.raiseError_ctxRecipe (s : State) (a b : Nat) : (s.raiseError a b).ctxRecipe = s.ctxRecipe := rfl
@[simp] theorem State.raiseError_chan (s : State) (a b : Nat) : (s.raiseError a b).chan = s.chan := rfl
@[simp] theorem State.raiseError_queue (s : State) (a b : Nat) : (s.raiseError a b).queue = s.queue := rfl
@[simp] theorem State.raiseError_arb (s : State) (a b : Nat) : (s.raiseError a b).arb = s.arb := rfl
@[simp] theorem State.raiseError_ghouse (s : State) (a b : Nat) : (s.raiseError a b).ghouse = s.ghouse := rfl
@[simp] theorem State.raiseError_port (s : State) (a b : Nat) : (s.raiseError a b).port = s.port := rfl
@[simp] theorem State.raiseError_entry (s : State) (a b : Nat) : (s.raiseError a b).entry = s.entry := rfl
@[simp] theorem State.raiseError_seg (s : State) (a b : Nat) : (s.raiseError a b).seg = s.seg := rfl
@[simp] theorem State.raiseError_stream (s : State) (a b : Nat) : (s.raiseError a b).stream = s.stream := rfl
@[simp] theorem State.raiseError_logRing (s : State) (a b : Nat) : (s.raiseError a b).logRing = s.logRing := rfl
@[simp] theorem State.raiseError_logArg (s : State) (a b : Nat) : (s.raiseError a b).logArg = s.logArg := rfl
@[simp] theorem State.raiseError_ic (s : State) (a b : Nat) : (s.raiseError a b).ic = s.ic := rfl
@[simp] theorem State.raiseError_wires (s : State) (a b : Nat) : (s.raiseError a b).wires = s.wires := rfl
@[simp] theorem State.raiseError_filter (s : State) (a b : Nat) : (s.raiseError a b).filter = s.filter := rfl
@[simp] theorem State.raiseError_trigLevel (s : State) (a b : Nat) : (s.raiseError a b).trigLevel = s.trigLevel := rfl
@[simp] theorem State.raiseError_pins (s : State) (a b : Nat) : (s.raiseError a b).pins = s.pins := rfl
@[simp] theorem State.raiseError_mirrorQ (s : State) (a b : Nat) : (s.raiseError a b).mirrorQ = s.mirrorQ := rfl
@[simp] theorem State.raiseError_mirrorWait (s : State) (a b : Nat) : (s.raiseError a b).mirrorWait = s.mirrorWait := rfl
@[simp] theorem State.raiseError_partnerState (s : State) (a b : Nat) : (s.raiseError a b).partnerState = s.partnerState := rfl
@[simp] theorem State.raiseError_cfg (s : State) (a b : Nat) : (s.raiseError a b).cfg = s.cfg := rfl
@[simp] theorem State.raiseError_flrUntil (s : State) (a b : Nat) : (s.raiseError a b).flrUntil = s.flrUntil := rfl
@[simp] theorem State.raiseError_ready (s : State) (a b : Nat) : (s.raiseError a b).ready = s.ready := rfl
@[simp] theorem State.raiseError_msixReq (s : State) (a b : Nat) : (s.raiseError a b).msixReq = s.msixReq := rfl
@[simp] theorem State.raiseError_luCtx (s : State) (a b : Nat) : (s.raiseError a b).luCtx = s.luCtx := rfl
@[simp] theorem State.raiseError_luTable (s : State) (a b : Nat) : (s.raiseError a b).luTable = s.luTable := rfl
@[simp] theorem State.raiseError_muCtx (s : State) (a b : Nat) : (s.raiseError a b).muCtx = s.muCtx := rfl
@[simp] theorem State.raiseError_muGrp (s : State) (a b : Nat) : (s.raiseError a b).muGrp = s.muGrp := rfl
@[simp] theorem State.raiseError_fmMem (s : State) (a b : Nat) : (s.raiseError a b).fmMem = s.fmMem := rfl
@[simp] theorem State.raiseError_fm (s : State) (a b : Nat) : (s.raiseError a b).fm = s.fm := rfl
@[simp] theorem State.raiseError_bu (s : State) (a b : Nat) : (s.raiseError a b).bu = s.bu := rfl
@[simp] theorem State.raiseError_guCtx (s : State) (a b : Nat) : (s.raiseError a b).guCtx = s.guCtx := rfl
@[simp] theorem State.raiseError_guPath (s : State) (a b : Nat) : (s.raiseError a b).guPath = s.guPath := rfl
@[simp] theorem State.raiseError_guSlot (s : State) (a b : Nat) : (s.raiseError a b).guSlot = s.guSlot := rfl
@[simp] theorem State.raiseError_os (s : State) (a b : Nat) : (s.raiseError a b).os = s.os := rfl
@[simp] theorem State.raiseError_relay (s : State) (a b : Nat) : (s.raiseError a b).relay = s.relay := rfl
@[simp] theorem State.raiseError_mm (s : State) (a b : Nat) : (s.raiseError a b).mm = s.mm := rfl
@[simp] theorem State.raiseError_dmaDisc (s : State) (a b : Nat) : (s.raiseError a b).dmaDisc = s.dmaDisc := rfl
@[simp] theorem State.raiseError_enc (s : State) (a b : Nat) : (s.raiseError a b).enc = s.enc := rfl
@[simp] theorem State.raiseError_slot (s : State) (a b : Nat) : (s.raiseError a b).slot = s.slot := rfl
@[simp] theorem State.raiseError_sync (s : State) (a b : Nat) : (s.raiseError a b).sync = s.sync := rfl
@[simp] theorem State.raiseError_dma (s : State) (a b : Nat) : (s.raiseError a b).dma = s.dma := rfl
@[simp] theorem State.raiseError_pcie (s : State) (a b : Nat) : (s.raiseError a b).pcie = s.pcie := rfl
@[simp] theorem State.raiseError_msix (s : State) (a b : Nat) : (s.raiseError a b).msix = s.msix := rfl
@[simp] theorem State.raiseError_pba (s : State) (a b : Nat) : (s.raiseError a b).pba = s.pba := rfl
@[simp] theorem State.raiseError_brg (s : State) (a b : Nat) : (s.raiseError a b).brg = s.brg := rfl
@[simp] theorem State.raiseError_tw (s : State) (a b : Nat) : (s.raiseError a b).tw = s.tw := rfl
@[simp] theorem State.raiseError_tw8Ptr (s : State) (a b : Nat) : (s.raiseError a b).tw8Ptr = s.tw8Ptr := rfl
@[simp] theorem State.raiseError_tun (s : State) (a b : Nat) : (s.raiseError a b).tun = s.tun := rfl
@[simp] theorem State.raiseError_tunQuar (s : State) (a b : Nat) : (s.raiseError a b).tunQuar = s.tunQuar := rfl
@[simp] theorem State.raiseError_twin (s : State) (a b : Nat) : (s.raiseError a b).twin = s.twin := rfl
@[simp] theorem State.raiseError_mgt (s : State) (a b : Nat) : (s.raiseError a b).mgt = s.mgt := rfl
@[simp] theorem State.raiseError_boot (s : State) (a b : Nat) : (s.raiseError a b).boot = s.boot := rfl
@[simp] theorem State.raiseError_pwr (s : State) (a b : Nat) : (s.raiseError a b).pwr = s.pwr := rfl
@[simp] theorem State.raiseError_flash (s : State) (a b : Nat) : (s.raiseError a b).flash = s.flash := rfl
@[simp] theorem State.raiseError_otp (s : State) (a b : Nat) : (s.raiseError a b).otp = s.otp := rfl
@[simp] theorem State.raiseError_tcm (s : State) (a b : Nat) : (s.raiseError a b).tcm = s.tcm := rfl
@[simp] theorem State.raiseError_shared (s : State) (a b : Nat) : (s.raiseError a b).shared = s.shared := rfl
@[simp] theorem State.raiseError_mbx (s : State) (a b : Nat) : (s.raiseError a b).mbx = s.mbx := rfl
@[simp] theorem State.raiseError_pending (s : State) (a b : Nat) : (s.raiseError a b).pending = s.pending := rfl

@[simp] theorem State.raiseCorr_regs (s : State) (a b : Nat) : (s.raiseCorr a b).regs = s.regs := rfl
@[simp] theorem State.raiseCorr_imgRegs (s : State) (a b : Nat) : (s.raiseCorr a b).imgRegs = s.imgRegs := rfl
@[simp] theorem State.raiseCorr_expertPend (s : State) (a b : Nat) : (s.raiseCorr a b).expertPend = s.expertPend := rfl
@[simp] theorem State.raiseCorr_now (s : State) (a b : Nat) : (s.raiseCorr a b).now = s.now := rfl
@[simp] theorem State.raiseCorr_invar (s : State) (a b : Nat) : (s.raiseCorr a b).invar = s.invar := rfl
@[simp] theorem State.raiseCorr_free (s : State) (a b : Nat) : (s.raiseCorr a b).free = s.free := rfl
@[simp] theorem State.raiseCorr_out (s : State) (a b : Nat) : (s.raiseCorr a b).out = s.out := rfl
@[simp] theorem State.raiseCorr_straps (s : State) (a b : Nat) : (s.raiseCorr a b).straps = s.straps := rfl
@[simp] theorem State.raiseCorr_headLead (s : State) (a b : Nat) : (s.raiseCorr a b).headLead = s.headLead := rfl
@[simp] theorem State.raiseCorr_gen (s : State) (a b : Nat) : (s.raiseCorr a b).gen = s.gen := rfl
@[simp] theorem State.raiseCorr_grp (s : State) (a b : Nat) : (s.raiseCorr a b).grp = s.grp := rfl
@[simp] theorem State.raiseCorr_image (s : State) (a b : Nat) : (s.raiseCorr a b).image = s.image := rfl
@[simp] theorem State.raiseCorr_pav (s : State) (a b : Nat) : (s.raiseCorr a b).pav = s.pav := rfl
@[simp] theorem State.raiseCorr_ctxRecipe (s : State) (a b : Nat) : (s.raiseCorr a b).ctxRecipe = s.ctxRecipe := rfl
@[simp] theorem State.raiseCorr_chan (s : State) (a b : Nat) : (s.raiseCorr a b).chan = s.chan := rfl
@[simp] theorem State.raiseCorr_queue (s : State) (a b : Nat) : (s.raiseCorr a b).queue = s.queue := rfl
@[simp] theorem State.raiseCorr_arb (s : State) (a b : Nat) : (s.raiseCorr a b).arb = s.arb := rfl
@[simp] theorem State.raiseCorr_ghouse (s : State) (a b : Nat) : (s.raiseCorr a b).ghouse = s.ghouse := rfl
@[simp] theorem State.raiseCorr_port (s : State) (a b : Nat) : (s.raiseCorr a b).port = s.port := rfl
@[simp] theorem State.raiseCorr_entry (s : State) (a b : Nat) : (s.raiseCorr a b).entry = s.entry := rfl
@[simp] theorem State.raiseCorr_seg (s : State) (a b : Nat) : (s.raiseCorr a b).seg = s.seg := rfl
@[simp] theorem State.raiseCorr_stream (s : State) (a b : Nat) : (s.raiseCorr a b).stream = s.stream := rfl
@[simp] theorem State.raiseCorr_logRing (s : State) (a b : Nat) : (s.raiseCorr a b).logRing = s.logRing := rfl
@[simp] theorem State.raiseCorr_logArg (s : State) (a b : Nat) : (s.raiseCorr a b).logArg = s.logArg := rfl
@[simp] theorem State.raiseCorr_ic (s : State) (a b : Nat) : (s.raiseCorr a b).ic = s.ic := rfl
@[simp] theorem State.raiseCorr_wires (s : State) (a b : Nat) : (s.raiseCorr a b).wires = s.wires := rfl
@[simp] theorem State.raiseCorr_filter (s : State) (a b : Nat) : (s.raiseCorr a b).filter = s.filter := rfl
@[simp] theorem State.raiseCorr_trigLevel (s : State) (a b : Nat) : (s.raiseCorr a b).trigLevel = s.trigLevel := rfl
@[simp] theorem State.raiseCorr_pins (s : State) (a b : Nat) : (s.raiseCorr a b).pins = s.pins := rfl
@[simp] theorem State.raiseCorr_mirrorQ (s : State) (a b : Nat) : (s.raiseCorr a b).mirrorQ = s.mirrorQ := rfl
@[simp] theorem State.raiseCorr_mirrorWait (s : State) (a b : Nat) : (s.raiseCorr a b).mirrorWait = s.mirrorWait := rfl
@[simp] theorem State.raiseCorr_partnerState (s : State) (a b : Nat) : (s.raiseCorr a b).partnerState = s.partnerState := rfl
@[simp] theorem State.raiseCorr_cfg (s : State) (a b : Nat) : (s.raiseCorr a b).cfg = s.cfg := rfl
@[simp] theorem State.raiseCorr_flrUntil (s : State) (a b : Nat) : (s.raiseCorr a b).flrUntil = s.flrUntil := rfl
@[simp] theorem State.raiseCorr_ready (s : State) (a b : Nat) : (s.raiseCorr a b).ready = s.ready := rfl
@[simp] theorem State.raiseCorr_msixReq (s : State) (a b : Nat) : (s.raiseCorr a b).msixReq = s.msixReq := rfl
@[simp] theorem State.raiseCorr_luCtx (s : State) (a b : Nat) : (s.raiseCorr a b).luCtx = s.luCtx := rfl
@[simp] theorem State.raiseCorr_luTable (s : State) (a b : Nat) : (s.raiseCorr a b).luTable = s.luTable := rfl
@[simp] theorem State.raiseCorr_muCtx (s : State) (a b : Nat) : (s.raiseCorr a b).muCtx = s.muCtx := rfl
@[simp] theorem State.raiseCorr_muGrp (s : State) (a b : Nat) : (s.raiseCorr a b).muGrp = s.muGrp := rfl
@[simp] theorem State.raiseCorr_fmMem (s : State) (a b : Nat) : (s.raiseCorr a b).fmMem = s.fmMem := rfl
@[simp] theorem State.raiseCorr_fm (s : State) (a b : Nat) : (s.raiseCorr a b).fm = s.fm := rfl
@[simp] theorem State.raiseCorr_bu (s : State) (a b : Nat) : (s.raiseCorr a b).bu = s.bu := rfl
@[simp] theorem State.raiseCorr_guCtx (s : State) (a b : Nat) : (s.raiseCorr a b).guCtx = s.guCtx := rfl
@[simp] theorem State.raiseCorr_guPath (s : State) (a b : Nat) : (s.raiseCorr a b).guPath = s.guPath := rfl
@[simp] theorem State.raiseCorr_guSlot (s : State) (a b : Nat) : (s.raiseCorr a b).guSlot = s.guSlot := rfl
@[simp] theorem State.raiseCorr_os (s : State) (a b : Nat) : (s.raiseCorr a b).os = s.os := rfl
@[simp] theorem State.raiseCorr_relay (s : State) (a b : Nat) : (s.raiseCorr a b).relay = s.relay := rfl
@[simp] theorem State.raiseCorr_mm (s : State) (a b : Nat) : (s.raiseCorr a b).mm = s.mm := rfl
@[simp] theorem State.raiseCorr_dmaDisc (s : State) (a b : Nat) : (s.raiseCorr a b).dmaDisc = s.dmaDisc := rfl
@[simp] theorem State.raiseCorr_enc (s : State) (a b : Nat) : (s.raiseCorr a b).enc = s.enc := rfl
@[simp] theorem State.raiseCorr_slot (s : State) (a b : Nat) : (s.raiseCorr a b).slot = s.slot := rfl
@[simp] theorem State.raiseCorr_sync (s : State) (a b : Nat) : (s.raiseCorr a b).sync = s.sync := rfl
@[simp] theorem State.raiseCorr_dma (s : State) (a b : Nat) : (s.raiseCorr a b).dma = s.dma := rfl
@[simp] theorem State.raiseCorr_pcie (s : State) (a b : Nat) : (s.raiseCorr a b).pcie = s.pcie := rfl
@[simp] theorem State.raiseCorr_msix (s : State) (a b : Nat) : (s.raiseCorr a b).msix = s.msix := rfl
@[simp] theorem State.raiseCorr_pba (s : State) (a b : Nat) : (s.raiseCorr a b).pba = s.pba := rfl
@[simp] theorem State.raiseCorr_brg (s : State) (a b : Nat) : (s.raiseCorr a b).brg = s.brg := rfl
@[simp] theorem State.raiseCorr_tw (s : State) (a b : Nat) : (s.raiseCorr a b).tw = s.tw := rfl
@[simp] theorem State.raiseCorr_tw8Ptr (s : State) (a b : Nat) : (s.raiseCorr a b).tw8Ptr = s.tw8Ptr := rfl
@[simp] theorem State.raiseCorr_tun (s : State) (a b : Nat) : (s.raiseCorr a b).tun = s.tun := rfl
@[simp] theorem State.raiseCorr_tunQuar (s : State) (a b : Nat) : (s.raiseCorr a b).tunQuar = s.tunQuar := rfl
@[simp] theorem State.raiseCorr_twin (s : State) (a b : Nat) : (s.raiseCorr a b).twin = s.twin := rfl
@[simp] theorem State.raiseCorr_mgt (s : State) (a b : Nat) : (s.raiseCorr a b).mgt = s.mgt := rfl
@[simp] theorem State.raiseCorr_boot (s : State) (a b : Nat) : (s.raiseCorr a b).boot = s.boot := rfl
@[simp] theorem State.raiseCorr_pwr (s : State) (a b : Nat) : (s.raiseCorr a b).pwr = s.pwr := rfl
@[simp] theorem State.raiseCorr_flash (s : State) (a b : Nat) : (s.raiseCorr a b).flash = s.flash := rfl
@[simp] theorem State.raiseCorr_otp (s : State) (a b : Nat) : (s.raiseCorr a b).otp = s.otp := rfl
@[simp] theorem State.raiseCorr_tcm (s : State) (a b : Nat) : (s.raiseCorr a b).tcm = s.tcm := rfl
@[simp] theorem State.raiseCorr_shared (s : State) (a b : Nat) : (s.raiseCorr a b).shared = s.shared := rfl
@[simp] theorem State.raiseCorr_mbx (s : State) (a b : Nat) : (s.raiseCorr a b).mbx = s.mbx := rfl
@[simp] theorem State.raiseCorr_pending (s : State) (a b : Nat) : (s.raiseCorr a b).pending = s.pending := rfl

end Sys2Proof.Machine
end

