-- ==== Sys2Proof/Laws/Access.lean ====
section
/-! SUPPORT. What a register access of an initiator comes to once it has passed the checks: the effect of the write, with the host's completion
of an interrupt source and the mirror beside it. -/

namespace Sys2Proof.Machine

/-- A write that passes the checks has its effect. -/
theorem State.swWrite_open {s : State} {i : Initiator} {off : Nat} (h : s.writeOpen i off) (data : Word) (eff : State → State) :
    s.swWrite i off data eff = s.effect i.code off data eff := by
  obtain ⟨h1, h2, h3⟩ := h
  unfold State.swWrite
  rw [h1]
  simp only [h2, h3]
  rfl

/-- A read that passes the checks answers what the register gives. -/
theorem State.swRead_open {s : State} {i : Initiator} {off : Nat} (h : s.readOpen i off) (eff : State → State × Word) :
    s.swRead i off eff = (eff s).1.emit (.readData i (eff s).2.toNat) := by
  obtain ⟨h1, h2, h3, h4, h5, h6⟩ := h
  unfold State.swRead
  simp [h1, h2, h3, h4, h5, h6]

theorem State.icHostStatus_none {s : State} {i off : Nat} (h : statusSource off = none) : s.icHostStatus i off = s := by
  unfold State.icHostStatus; rw [h]

/-- Beside its effect a write changes no register, unless a host function writes a status register. -/
theorem State.effect_reg {s : State} {i off : Nat} (h : statusSource off = none ∨ 4 ≤ i) (data : Word) (eff : State → State) (o : Nat) :
    (s.effect i off data eff).reg o = (eff s).reg o := by
  unfold State.effect
  have e : ∀ t : State, (if i < 4 then t.icHostStatus i off else t) = t := by
    intro t
    rcases h with h | h
    · rw [State.icHostStatus_none h]; simp
    · simp [Nat.not_lt.mpr h]
  simp only [e]
  split <;> rfl

theorem State.effect_kept {s : State} {i off : Nat} (h : statusSource off = none ∨ 4 ≤ i) (data : Word) (eff : State → State) :
    (s.effect i off data eff).fmMem = (eff s).fmMem ∧ (s.effect i off data eff).flash = (eff s).flash
      ∧ (s.effect i off data eff).tcm = (eff s).tcm ∧ (s.effect i off data eff).shared = (eff s).shared
      ∧ (s.effect i off data eff).mbx = (eff s).mbx := by
  unfold State.effect
  have e : ∀ t : State, (if i < 4 then t.icHostStatus i off else t) = t := by
    intro t
    rcases h with h | h
    · rw [State.icHostStatus_none h]; simp
    · simp [Nat.not_lt.mpr h]
  simp only [e]
  split <;> exact ⟨rfl, rfl, rfl, rfl, rfl⟩

end Sys2Proof.Machine
end

