-- ==== Sys2Proof/Laws/Frame.lean ====
section
/-! SUPPORT. Frames: what a write of a register leaves alone, in the terms of Safety.lean, and the rules by which a frame is shown. -/

namespace Sys2Proof.Machine

/-- A register after a write of a register, the same one or another. -/
theorem State.reg_setReg (s : State) (off n : Nat) (w : Word) : (s.setReg off w).reg n = if n = off then w else s.reg n := by
  by_cases h : n = off
  · subst h; simp
  · simp [h, State.reg_setReg_other s w h]

/-- A state differs from another in its registers only through its register file. -/
theorem State.reg_congr {s t : State} (h : t.regs = s.regs) (n : Nat) : t.reg n = s.reg n := by unfold State.reg; rw [h]

theorem SameBytes.of {s t : State} (h1 : t.fmMem = s.fmMem) (h2 : t.flash = s.flash) (h3 : t.tcm = s.tcm) (h4 : t.shared = s.shared)
    (h5 : t.mbx = s.mbx) : SameBytes s t := by intro a; rw [h1, h2, h3, h4, h5]; simp

theorem SameBytes.refl (s : State) : SameBytes s s := fun _ => ⟨rfl, rfl, rfl, rfl, rfl⟩

theorem SameBytes.trans {s t u : State} (h : SameBytes s t) (k : SameBytes t u) : SameBytes s u := by
  intro a
  obtain ⟨a1, a2, a3, a4, a5⟩ := h a
  obtain ⟨b1, b2, b3, b4, b5⟩ := k a
  exact ⟨b1.trans a1, b2.trans a2, b3.trans a3, b4.trans a4, b5.trans a5⟩

theorem Frame.refl (l : List Nat) (s : State) : Frame l s s := ⟨SameBytes.refl s, fun _ _ => rfl⟩

theorem Frame.trans {l : List Nat} {s t u : State} (h : Frame l s t) (k : Frame l t u) : Frame l s u :=
  ⟨h.1.trans k.1, fun o ho => (k.2 o ho).trans (h.2 o ho)⟩

theorem Frame.mono {l m : List Nat} {s t : State} (h : Frame l s t) (k : ∀ o ∈ l, o ∈ m) : Frame m s t :=
  ⟨h.1, fun o ho => h.2 o (fun x => ho (k o x))⟩

theorem Frame.setReg (s : State) (off : Nat) (w : Word) : Frame [off] s (s.setReg off w) :=
  ⟨SameBytes.of rfl rfl rfl rfl rfl, fun o ho => by simp at ho; exact State.reg_setReg_other s w ho⟩

/-- A change that touches neither the register file nor a memory. -/
theorem Frame.same {s t : State} (h : t.regs = s.regs) (h1 : t.fmMem = s.fmMem) (h2 : t.flash = s.flash) (h3 : t.tcm = s.tcm)
    (h4 : t.shared = s.shared) (h5 : t.mbx = s.mbx) (l : List Nat) : Frame l s t :=
  ⟨SameBytes.of h1 h2 h3 h4 h5, fun o _ => State.reg_congr h o⟩

/-- What a software write that passes the checks leaves alone is what its effect leaves alone. -/
theorem Frame.effect {s : State} {i off : Nat} (h : statusSource off = none ∨ 4 ≤ i) (data : Word) (eff : State → State) {l : List Nat}
    (k : Frame l s (eff s)) : Frame l s (s.effect i off data eff) := by
  obtain ⟨a, b, c, d, e⟩ := State.effect_kept (s := s) h data eff
  exact k.trans ⟨SameBytes.of a b c d e, fun o _ => State.effect_reg h data eff o⟩

end Sys2Proof.Machine
end

