-- ==== Sys2Proof/Laws/Moves.lean ====
section
/-! SUPPORT. What a command can do to the register file, the memories, the owner key slots and the queue, said once: a chain of moves, each a
write of one entry, a selection of registers that a reset keeps, or a step of a key slot. Every operation of the model is such a chain
(the files Moves*.lean beside this one), so what every move keeps, every command keeps. -/

namespace Sys2Proof.Machine

/-- The parts of the state that moves are told of. -/
structure Kept where
  regs : Table Word
  imgRegs : Table Word
  fmMem : Table Byte
  flash : Table Byte
  tcm : Table Byte
  shared : Table Byte
  mbx : Table Byte
  otp : Table (Nat × List Nat)
  pending : List Instr

/-- Those parts of a state. -/
def State.kept (s : State) : Kept :=
  ⟨s.regs, s.imgRegs, s.fmMem, s.flash, s.tcm, s.shared, s.mbx, s.otp, s.pending⟩

/-- A chain of moves. -/
inductive KMoves (k : Kept) : Kept → Prop
  | refl : KMoves k k
  | reg {j : Kept} (h : KMoves k j) (a : Nat) (w : Word) : KMoves k { j with regs := j.regs.setD (resetWord a) a w }
  | regKeep {j : Kept} (h : KMoves k j) (p : Nat × Word → Bool) : KMoves k { j with regs := j.regs.filter p }
  | img {j : Kept} (h : KMoves k j) (a : Nat) (w : Word) :
      KMoves k { j with imgRegs := j.imgRegs.setD (resetWord a) a w }
  | imgKeep {j : Kept} (h : KMoves k j) (p : Nat × Word → Bool) : KMoves k { j with imgRegs := j.imgRegs.filter p }
  | fm {j : Kept} (h : KMoves k j) (a : Nat) (b : Byte) : KMoves k { j with fmMem := j.fmMem.setD 0 a b }
  | fmClear {j : Kept} (h : KMoves k j) : KMoves k { j with fmMem := [] }
  | flash {j : Kept} (h : KMoves k j) (a : Nat) (b : Byte) : KMoves k { j with flash := j.flash.setD 0xFF a b }
  | flashKeep {j : Kept} (h : KMoves k j) (p : Nat × Byte → Bool) : KMoves k { j with flash := j.flash.filter p }
  | tcm {j : Kept} (h : KMoves k j) (a : Nat) (b : Byte) : KMoves k { j with tcm := j.tcm.setD 0 a b }
  | shared {j : Kept} (h : KMoves k j) (a : Nat) (b : Byte) : KMoves k { j with shared := j.shared.setD 0 a b }
  | mbx {j : Kept} (h : KMoves k j) (a : Nat) (b : Byte) : KMoves k { j with mbx := j.mbx.setD 0 a b }
  | program {j : Kept} (h : KMoves k j) (n : Nat) (d : List Nat) (e : (j.otp.get n).1 = 0) :
      KMoves k { j with otp := j.otp.set n (1, d) }
  | revoke {j : Kept} (h : KMoves k j) (n : Nat) : KMoves k { j with otp := j.otp.set n (2, (j.otp.get n).2) }

/-- The second state comes from the first by moves. -/
def Moves (s t : State) : Prop := KMoves s.kept t.kept

theorem Moves.refl (s : State) : Moves s s := KMoves.refl

theorem Moves.same {s t : State} (h : Moves s t) (u : State) (e : u.kept = t.kept) : Moves s u := by
  unfold Moves; rw [e]; exact h

/-- A state that differs from a moved one only where moves are not told of it. -/
theorem Moves.mk {s t : State} {x2 : List Nat} {x3 : Nat} {x4 : Nat} {x5 : Nat} {x6 : List Out} {x7 : Straps} {x8 : Option Nat} {x9 : Table GenSt} {x10 : Table GrpSt} {x11 : ImageSt} {x12 : Table PavSt} {x13 : Table (Option Nat)} {x14 : Table ChanSt} {x15 : Table (List Item)} {x16 : Table ArbSt} {x17 : Table Byte} {x18 : Table PortSt} {x19 : Table EntrySt} {x20 : Table SegSt} {x21 : Table StreamSt} {x22 : Table LogEntry} {x23 : Table Word} {x24 : LodgeSt} {x25 : BandSt} {x26 : Nat} {xf : FilterSt} {x27 : Nat} {x28 : Nat} {x29 : List MirrorW} {x30 : List MirrorW} {x31 : Nat} {x32 : Table Word} {x33 : Table (Option Nat)} {x34 : Bool} {x35 : List (Nat × Nat)} {x36 : Table LuCtx} {x37 : Table Word} {x38 : Table MuCtx} {x39 : Table MuGrp} {x41 : FmSt} {x42 : Table BuCtx} {x43 : Table GuCtx} {x44 : Table GuPath} {x45 : Table (List GuPub)} {x46 : Table OsSt} {x47 : Table RelaySt} {x48 : MmSt} {x49 : Table (List Nat)} {x50 : Table EncSt} {x51 : Table SlotSt} {x52 : SyncSt} {x53 : Table DmaSt} {x54 : PcieSt} {x55 : Table Word} {x56 : Table Nat} {x57 : BrgSt} {x58 : Table TwSt} {x59 : Nat} {x60 : List TunTx} {x61 : List (Nat × Nat)} {x62 : TwinSt} {x63 : MgtSt} {x64 : BootSt} {x65 : PwrSt}
    (h : Moves s t) : Moves s (State.mk t.regs t.imgRegs x2 x3 x4 x5 x6 x7 x8 x9 x10 x11 x12 x13 x14 x15 x16 x17 x18 x19 x20 x21 x22 x23 x24 x25 x26 xf x27 x28 x29 x30 x31 x32 x33 x34 x35 x36 x37 x38 x39 t.fmMem x41 x42 x43 x44 x45 x46 x47 x48 x49 x50 x51 x52 x53 x54 x55 x56 x57 x58 x59 x60 x61 x62 x63 x64 x65 t.flash t.otp t.tcm t.shared t.mbx t.pending) := h.same _ rfl

/-- Writing bytes to a memory is a chain of moves. -/
theorem KMoves.fmBytes {k j : Kept} (h : KMoves k j) (a : Nat) (bytes : List Nat) :
    KMoves k { j with fmMem := memWrite j.fmMem 0 a bytes } := by
  induction bytes generalizing j a with
  | nil => exact h
  | cons b l ih => exact ih (h.fm a (BitVec.ofNat 8 b)) (a + 1)

theorem KMoves.flashBytes {k j : Kept} (h : KMoves k j) (a : Nat) (bytes : List Nat) :
    KMoves k { j with flash := memWrite j.flash 0xFF a bytes } := by
  induction bytes generalizing j a with
  | nil => exact h
  | cons b l ih => exact ih (h.flash a (BitVec.ofNat 8 b)) (a + 1)

theorem KMoves.tcmBytes {k j : Kept} (h : KMoves k j) (a : Nat) (bytes : List Nat) :
    KMoves k { j with tcm := memWrite j.tcm 0 a bytes } := by
  induction bytes generalizing j a with
  | nil => exact h
  | cons b l ih => exact ih (h.tcm a (BitVec.ofNat 8 b)) (a + 1)

theorem KMoves.sharedBytes {k j : Kept} (h : KMoves k j) (a : Nat) (bytes : List Nat) :
    KMoves k { j with shared := memWrite j.shared 0 a bytes } := by
  induction bytes generalizing j a with
  | nil => exact h
  | cons b l ih => exact ih (h.shared a (BitVec.ofNat 8 b)) (a + 1)

theorem KMoves.mbxBytes {k j : Kept} (h : KMoves k j) (a : Nat) (bytes : List Nat) :
    KMoves k { j with mbx := memWrite j.mbx 0 a bytes } := by
  induction bytes generalizing j a with
  | nil => exact h
  | cons b l ih => exact ih (h.mbx a (BitVec.ofNat 8 b)) (a + 1)

theorem Moves.mkFm {s t : State} {x2 : List Nat} {x3 : Nat} {x4 : Nat} {x5 : Nat} {x6 : List Out} {x7 : Straps} {x8 : Option Nat} {x9 : Table GenSt} {x10 : Table GrpSt} {x11 : ImageSt} {x12 : Table PavSt} {x13 : Table (Option Nat)} {x14 : Table ChanSt} {x15 : Table (List Item)} {x16 : Table ArbSt} {x17 : Table Byte} {x18 : Table PortSt} {x19 : Table EntrySt} {x20 : Table SegSt} {x21 : Table StreamSt} {x22 : Table LogEntry} {x23 : Table Word} {x24 : LodgeSt} {x25 : BandSt} {x26 : Nat} {xf : FilterSt} {x27 : Nat} {x28 : Nat} {x29 : List MirrorW} {x30 : List MirrorW} {x31 : Nat} {x32 : Table Word} {x33 : Table (Option Nat)} {x34 : Bool} {x35 : List (Nat × Nat)} {x36 : Table LuCtx} {x37 : Table Word} {x38 : Table MuCtx} {x39 : Table MuGrp} {x41 : FmSt} {x42 : Table BuCtx} {x43 : Table GuCtx} {x44 : Table GuPath} {x45 : Table (List GuPub)} {x46 : Table OsSt} {x47 : Table RelaySt} {x48 : MmSt} {x49 : Table (List Nat)} {x50 : Table EncSt} {x51 : Table SlotSt} {x52 : SyncSt} {x53 : Table DmaSt} {x54 : PcieSt} {x55 : Table Word} {x56 : Table Nat} {x57 : BrgSt} {x58 : Table TwSt} {x59 : Nat} {x60 : List TunTx} {x61 : List (Nat × Nat)} {x62 : TwinSt} {x63 : MgtSt} {x64 : BootSt} {x65 : PwrSt}
    {a : Nat} {bytes : List Nat} (h : Moves s t) : Moves s (State.mk t.regs t.imgRegs x2 x3 x4 x5 x6 x7 x8 x9 x10 x11 x12 x13 x14 x15 x16 x17 x18 x19 x20 x21 x22 x23 x24 x25 x26 xf x27 x28 x29 x30 x31 x32 x33 x34 x35 x36 x37 x38 x39 (memWrite t.fmMem 0 a bytes) x41 x42 x43 x44 x45 x46 x47 x48 x49 x50 x51 x52 x53 x54 x55 x56 x57 x58 x59 x60 x61 x62 x63 x64 x65 t.flash t.otp t.tcm t.shared t.mbx t.pending) :=
  KMoves.fmBytes h a bytes

theorem Moves.mkFmClear {s t : State} {x2 : List Nat} {x3 : Nat} {x4 : Nat} {x5 : Nat} {x6 : List Out} {x7 : Straps} {x8 : Option Nat} {x9 : Table GenSt} {x10 : Table GrpSt} {x11 : ImageSt} {x12 : Table PavSt} {x13 : Table (Option Nat)} {x14 : Table ChanSt} {x15 : Table (List Item)} {x16 : Table ArbSt} {x17 : Table Byte} {x18 : Table PortSt} {x19 : Table EntrySt} {x20 : Table SegSt} {x21 : Table StreamSt} {x22 : Table LogEntry} {x23 : Table Word} {x24 : LodgeSt} {x25 : BandSt} {x26 : Nat} {xf : FilterSt} {x27 : Nat} {x28 : Nat} {x29 : List MirrorW} {x30 : List MirrorW} {x31 : Nat} {x32 : Table Word} {x33 : Table (Option Nat)} {x34 : Bool} {x35 : List (Nat × Nat)} {x36 : Table LuCtx} {x37 : Table Word} {x38 : Table MuCtx} {x39 : Table MuGrp} {x41 : FmSt} {x42 : Table BuCtx} {x43 : Table GuCtx} {x44 : Table GuPath} {x45 : Table (List GuPub)} {x46 : Table OsSt} {x47 : Table RelaySt} {x48 : MmSt} {x49 : Table (List Nat)} {x50 : Table EncSt} {x51 : Table SlotSt} {x52 : SyncSt} {x53 : Table DmaSt} {x54 : PcieSt} {x55 : Table Word} {x56 : Table Nat} {x57 : BrgSt} {x58 : Table TwSt} {x59 : Nat} {x60 : List TunTx} {x61 : List (Nat × Nat)} {x62 : TwinSt} {x63 : MgtSt} {x64 : BootSt} {x65 : PwrSt}
    (h : Moves s t) : Moves s (State.mk t.regs t.imgRegs x2 x3 x4 x5 x6 x7 x8 x9 x10 x11 x12 x13 x14 x15 x16 x17 x18 x19 x20 x21 x22 x23 x24 x25 x26 xf x27 x28 x29 x30 x31 x32 x33 x34 x35 x36 x37 x38 x39 [] x41 x42 x43 x44 x45 x46 x47 x48 x49 x50 x51 x52 x53 x54 x55 x56 x57 x58 x59 x60 x61 x62 x63 x64 x65 t.flash t.otp t.tcm t.shared t.mbx t.pending) :=
  KMoves.fmClear h

theorem Moves.mkFlash {s t : State} {x2 : List Nat} {x3 : Nat} {x4 : Nat} {x5 : Nat} {x6 : List Out} {x7 : Straps} {x8 : Option Nat} {x9 : Table GenSt} {x10 : Table GrpSt} {x11 : ImageSt} {x12 : Table PavSt} {x13 : Table (Option Nat)} {x14 : Table ChanSt} {x15 : Table (List Item)} {x16 : Table ArbSt} {x17 : Table Byte} {x18 : Table PortSt} {x19 : Table EntrySt} {x20 : Table SegSt} {x21 : Table StreamSt} {x22 : Table LogEntry} {x23 : Table Word} {x24 : LodgeSt} {x25 : BandSt} {x26 : Nat} {xf : FilterSt} {x27 : Nat} {x28 : Nat} {x29 : List MirrorW} {x30 : List MirrorW} {x31 : Nat} {x32 : Table Word} {x33 : Table (Option Nat)} {x34 : Bool} {x35 : List (Nat × Nat)} {x36 : Table LuCtx} {x37 : Table Word} {x38 : Table MuCtx} {x39 : Table MuGrp} {x41 : FmSt} {x42 : Table BuCtx} {x43 : Table GuCtx} {x44 : Table GuPath} {x45 : Table (List GuPub)} {x46 : Table OsSt} {x47 : Table RelaySt} {x48 : MmSt} {x49 : Table (List Nat)} {x50 : Table EncSt} {x51 : Table SlotSt} {x52 : SyncSt} {x53 : Table DmaSt} {x54 : PcieSt} {x55 : Table Word} {x56 : Table Nat} {x57 : BrgSt} {x58 : Table TwSt} {x59 : Nat} {x60 : List TunTx} {x61 : List (Nat × Nat)} {x62 : TwinSt} {x63 : MgtSt} {x64 : BootSt} {x65 : PwrSt}
    {a : Nat} {bytes : List Nat} (h : Moves s t) : Moves s (State.mk t.regs t.imgRegs x2 x3 x4 x5 x6 x7 x8 x9 x10 x11 x12 x13 x14 x15 x16 x17 x18 x19 x20 x21 x22 x23 x24 x25 x26 xf x27 x28 x29 x30 x31 x32 x33 x34 x35 x36 x37 x38 x39 t.fmMem x41 x42 x43 x44 x45 x46 x47 x48 x49 x50 x51 x52 x53 x54 x55 x56 x57 x58 x59 x60 x61 x62 x63 x64 x65 (memWrite t.flash 0xFF a bytes) t.otp t.tcm t.shared t.mbx t.pending) :=
  KMoves.flashBytes h a bytes

theorem Moves.mkFlashKeep {s t : State} {x2 : List Nat} {x3 : Nat} {x4 : Nat} {x5 : Nat} {x6 : List Out} {x7 : Straps} {x8 : Option Nat} {x9 : Table GenSt} {x10 : Table GrpSt} {x11 : ImageSt} {x12 : Table PavSt} {x13 : Table (Option Nat)} {x14 : Table ChanSt} {x15 : Table (List Item)} {x16 : Table ArbSt} {x17 : Table Byte} {x18 : Table PortSt} {x19 : Table EntrySt} {x20 : Table SegSt} {x21 : Table StreamSt} {x22 : Table LogEntry} {x23 : Table Word} {x24 : LodgeSt} {x25 : BandSt} {x26 : Nat} {xf : FilterSt} {x27 : Nat} {x28 : Nat} {x29 : List MirrorW} {x30 : List MirrorW} {x31 : Nat} {x32 : Table Word} {x33 : Table (Option Nat)} {x34 : Bool} {x35 : List (Nat × Nat)} {x36 : Table LuCtx} {x37 : Table Word} {x38 : Table MuCtx} {x39 : Table MuGrp} {x41 : FmSt} {x42 : Table BuCtx} {x43 : Table GuCtx} {x44 : Table GuPath} {x45 : Table (List GuPub)} {x46 : Table OsSt} {x47 : Table RelaySt} {x48 : MmSt} {x49 : Table (List Nat)} {x50 : Table EncSt} {x51 : Table SlotSt} {x52 : SyncSt} {x53 : Table DmaSt} {x54 : PcieSt} {x55 : Table Word} {x56 : Table Nat} {x57 : BrgSt} {x58 : Table TwSt} {x59 : Nat} {x60 : List TunTx} {x61 : List (Nat × Nat)} {x62 : TwinSt} {x63 : MgtSt} {x64 : BootSt} {x65 : PwrSt}
    {p : Nat × Byte → Bool} (h : Moves s t) : Moves s (State.mk t.regs t.imgRegs x2 x3 x4 x5 x6 x7 x8 x9 x10 x11 x12 x13 x14 x15 x16 x17 x18 x19 x20 x21 x22 x23 x24 x25 x26 xf x27 x28 x29 x30 x31 x32 x33 x34 x35 x36 x37 x38 x39 t.fmMem x41 x42 x43 x44 x45 x46 x47 x48 x49 x50 x51 x52 x53 x54 x55 x56 x57 x58 x59 x60 x61 x62 x63 x64 x65 (t.flash.filter p) t.otp t.tcm t.shared t.mbx t.pending) :=
  KMoves.flashKeep h p

theorem Moves.mkTcm {s t : State} {x2 : List Nat} {x3 : Nat} {x4 : Nat} {x5 : Nat} {x6 : List Out} {x7 : Straps} {x8 : Option Nat} {x9 : Table GenSt} {x10 : Table GrpSt} {x11 : ImageSt} {x12 : Table PavSt} {x13 : Table (Option Nat)} {x14 : Table ChanSt} {x15 : Table (List Item)} {x16 : Table ArbSt} {x17 : Table Byte} {x18 : Table PortSt} {x19 : Table EntrySt} {x20 : Table SegSt} {x21 : Table StreamSt} {x22 : Table LogEntry} {x23 : Table Word} {x24 : LodgeSt} {x25 : BandSt} {x26 : Nat} {xf : FilterSt} {x27 : Nat} {x28 : Nat} {x29 : List MirrorW} {x30 : List MirrorW} {x31 : Nat} {x32 : Table Word} {x33 : Table (Option Nat)} {x34 : Bool} {x35 : List (Nat × Nat)} {x36 : Table LuCtx} {x37 : Table Word} {x38 : Table MuCtx} {x39 : Table MuGrp} {x41 : FmSt} {x42 : Table BuCtx} {x43 : Table GuCtx} {x44 : Table GuPath} {x45 : Table (List GuPub)} {x46 : Table OsSt} {x47 : Table RelaySt} {x48 : MmSt} {x49 : Table (List Nat)} {x50 : Table EncSt} {x51 : Table SlotSt} {x52 : SyncSt} {x53 : Table DmaSt} {x54 : PcieSt} {x55 : Table Word} {x56 : Table Nat} {x57 : BrgSt} {x58 : Table TwSt} {x59 : Nat} {x60 : List TunTx} {x61 : List (Nat × Nat)} {x62 : TwinSt} {x63 : MgtSt} {x64 : BootSt} {x65 : PwrSt}
    {a : Nat} {bytes : List Nat} (h : Moves s t) : Moves s (State.mk t.regs t.imgRegs x2 x3 x4 x5 x6 x7 x8 x9 x10 x11 x12 x13 x14 x15 x16 x17 x18 x19 x20 x21 x22 x23 x24 x25 x26 xf x27 x28 x29 x30 x31 x32 x33 x34 x35 x36 x37 x38 x39 t.fmMem x41 x42 x43 x44 x45 x46 x47 x48 x49 x50 x51 x52 x53 x54 x55 x56 x57 x58 x59 x60 x61 x62 x63 x64 x65 t.flash t.otp (memWrite t.tcm 0 a bytes) t.shared t.mbx t.pending) :=
  KMoves.tcmBytes h a bytes

theorem Moves.mkMbx {s t : State} {x2 : List Nat} {x3 : Nat} {x4 : Nat} {x5 : Nat} {x6 : List Out} {x7 : Straps} {x8 : Option Nat} {x9 : Table GenSt} {x10 : Table GrpSt} {x11 : ImageSt} {x12 : Table PavSt} {x13 : Table (Option Nat)} {x14 : Table ChanSt} {x15 : Table (List Item)} {x16 : Table ArbSt} {x17 : Table Byte} {x18 : Table PortSt} {x19 : Table EntrySt} {x20 : Table SegSt} {x21 : Table StreamSt} {x22 : Table LogEntry} {x23 : Table Word} {x24 : LodgeSt} {x25 : BandSt} {x26 : Nat} {xf : FilterSt} {x27 : Nat} {x28 : Nat} {x29 : List MirrorW} {x30 : List MirrorW} {x31 : Nat} {x32 : Table Word} {x33 : Table (Option Nat)} {x34 : Bool} {x35 : List (Nat × Nat)} {x36 : Table LuCtx} {x37 : Table Word} {x38 : Table MuCtx} {x39 : Table MuGrp} {x41 : FmSt} {x42 : Table BuCtx} {x43 : Table GuCtx} {x44 : Table GuPath} {x45 : Table (List GuPub)} {x46 : Table OsSt} {x47 : Table RelaySt} {x48 : MmSt} {x49 : Table (List Nat)} {x50 : Table EncSt} {x51 : Table SlotSt} {x52 : SyncSt} {x53 : Table DmaSt} {x54 : PcieSt} {x55 : Table Word} {x56 : Table Nat} {x57 : BrgSt} {x58 : Table TwSt} {x59 : Nat} {x60 : List TunTx} {x61 : List (Nat × Nat)} {x62 : TwinSt} {x63 : MgtSt} {x64 : BootSt} {x65 : PwrSt}
    {a : Nat} {bytes : List Nat} (h : Moves s t) : Moves s (State.mk t.regs t.imgRegs x2 x3 x4 x5 x6 x7 x8 x9 x10 x11 x12 x13 x14 x15 x16 x17 x18 x19 x20 x21 x22 x23 x24 x25 x26 xf x27 x28 x29 x30 x31 x32 x33 x34 x35 x36 x37 x38 x39 t.fmMem x41 x42 x43 x44 x45 x46 x47 x48 x49 x50 x51 x52 x53 x54 x55 x56 x57 x58 x59 x60 x61 x62 x63 x64 x65 t.flash t.otp t.tcm t.shared (memWrite t.mbx 0 a bytes) t.pending) :=
  KMoves.mbxBytes h a bytes


/-- A fold of writes of image-loaded values is a chain of moves. -/
theorem KMoves.imgWrites {k j : Kept} (h : KMoves k j) (l : List (Nat × Nat)) :
    KMoves k { j with imgRegs := l.foldl (fun (t : Table Word) (e : Nat × Nat) =>
      Table.setD t (resetWord e.1) e.1 (BitVec.ofNat 32 e.2)) j.imgRegs } := by
  induction l generalizing j with
  | nil => exact h
  | cons e l ih => exact ih (h.img e.1 (BitVec.ofNat 32 e.2))

theorem Moves.mkKeep {s t : State} {x2 : List Nat} {x3 : Nat} {x4 : Nat} {x5 : Nat} {x6 : List Out} {x7 : Straps} {x8 : Option Nat} {x9 : Table GenSt} {x10 : Table GrpSt} {x11 : ImageSt} {x12 : Table PavSt} {x13 : Table (Option Nat)} {x14 : Table ChanSt} {x15 : Table (List Item)} {x16 : Table ArbSt} {x17 : Table Byte} {x18 : Table PortSt} {x19 : Table EntrySt} {x20 : Table SegSt} {x21 : Table StreamSt} {x22 : Table LogEntry} {x23 : Table Word} {x24 : LodgeSt} {x25 : BandSt} {x26 : Nat} {xf : FilterSt} {x27 : Nat} {x28 : Nat} {x29 : List MirrorW} {x30 : List MirrorW} {x31 : Nat} {x32 : Table Word} {x33 : Table (Option Nat)} {x34 : Bool} {x35 : List (Nat × Nat)} {x36 : Table LuCtx} {x37 : Table Word} {x38 : Table MuCtx} {x39 : Table MuGrp} {x41 : FmSt} {x42 : Table BuCtx} {x43 : Table GuCtx} {x44 : Table GuPath} {x45 : Table (List GuPub)} {x46 : Table OsSt} {x47 : Table RelaySt} {x48 : MmSt} {x49 : Table (List Nat)} {x50 : Table EncSt} {x51 : Table SlotSt} {x52 : SyncSt} {x53 : Table DmaSt} {x54 : PcieSt} {x55 : Table Word} {x56 : Table Nat} {x57 : BrgSt} {x58 : Table TwSt} {x59 : Nat} {x60 : List TunTx} {x61 : List (Nat × Nat)} {x62 : TwinSt} {x63 : MgtSt} {x64 : BootSt} {x65 : PwrSt}
    {p q : Nat × Word → Bool} (h : Moves s t) : Moves s (State.mk (t.regs.filter p) (t.imgRegs.filter q) x2 x3 x4 x5 x6 x7 x8 x9 x10 x11 x12 x13 x14 x15 x16 x17 x18 x19 x20 x21 x22 x23 x24 x25 x26 xf x27 x28 x29 x30 x31 x32 x33 x34 x35 x36 x37 x38 x39 t.fmMem x41 x42 x43 x44 x45 x46 x47 x48 x49 x50 x51 x52 x53 x54 x55 x56 x57 x58 x59 x60 x61 x62 x63 x64 x65 t.flash t.otp t.tcm t.shared t.mbx t.pending) :=
  KMoves.imgKeep (KMoves.regKeep h p) q

theorem Moves.mkImg {s t : State} {x2 : List Nat} {x3 : Nat} {x4 : Nat} {x5 : Nat} {x6 : List Out} {x7 : Straps} {x8 : Option Nat} {x9 : Table GenSt} {x10 : Table GrpSt} {x11 : ImageSt} {x12 : Table PavSt} {x13 : Table (Option Nat)} {x14 : Table ChanSt} {x15 : Table (List Item)} {x16 : Table ArbSt} {x17 : Table Byte} {x18 : Table PortSt} {x19 : Table EntrySt} {x20 : Table SegSt} {x21 : Table StreamSt} {x22 : Table LogEntry} {x23 : Table Word} {x24 : LodgeSt} {x25 : BandSt} {x26 : Nat} {xf : FilterSt} {x27 : Nat} {x28 : Nat} {x29 : List MirrorW} {x30 : List MirrorW} {x31 : Nat} {x32 : Table Word} {x33 : Table (Option Nat)} {x34 : Bool} {x35 : List (Nat × Nat)} {x36 : Table LuCtx} {x37 : Table Word} {x38 : Table MuCtx} {x39 : Table MuGrp} {x41 : FmSt} {x42 : Table BuCtx} {x43 : Table GuCtx} {x44 : Table GuPath} {x45 : Table (List GuPub)} {x46 : Table OsSt} {x47 : Table RelaySt} {x48 : MmSt} {x49 : Table (List Nat)} {x50 : Table EncSt} {x51 : Table SlotSt} {x52 : SyncSt} {x53 : Table DmaSt} {x54 : PcieSt} {x55 : Table Word} {x56 : Table Nat} {x57 : BrgSt} {x58 : Table TwSt} {x59 : Nat} {x60 : List TunTx} {x61 : List (Nat × Nat)} {x62 : TwinSt} {x63 : MgtSt} {x64 : BootSt} {x65 : PwrSt}
    {l : List (Nat × Nat)} (h : Moves s t) : Moves s (State.mk t.regs (l.foldl (fun (t : Table Word) (e : Nat × Nat) =>
      Table.setD t (resetWord e.1) e.1 (BitVec.ofNat 32 e.2)) t.imgRegs) x2 x3 x4 x5 x6 x7 x8 x9 x10 x11 x12 x13 x14 x15 x16 x17 x18 x19 x20 x21 x22 x23 x24 x25 x26 xf x27 x28 x29 x30 x31 x32 x33 x34 x35 x36 x37 x38 x39 t.fmMem x41 x42 x43 x44 x45 x46 x47 x48 x49 x50 x51 x52 x53 x54 x55 x56 x57 x58 x59 x60 x61 x62 x63 x64 x65 t.flash t.otp t.tcm t.shared t.mbx t.pending) :=
  KMoves.imgWrites h l

theorem Moves.mkProgram {s t : State} {x2 : List Nat} {x3 : Nat} {x4 : Nat} {x5 : Nat} {x6 : List Out} {x7 : Straps} {x8 : Option Nat} {x9 : Table GenSt} {x10 : Table GrpSt} {x11 : ImageSt} {x12 : Table PavSt} {x13 : Table (Option Nat)} {x14 : Table ChanSt} {x15 : Table (List Item)} {x16 : Table ArbSt} {x17 : Table Byte} {x18 : Table PortSt} {x19 : Table EntrySt} {x20 : Table SegSt} {x21 : Table StreamSt} {x22 : Table LogEntry} {x23 : Table Word} {x24 : LodgeSt} {x25 : BandSt} {x26 : Nat} {xf : FilterSt} {x27 : Nat} {x28 : Nat} {x29 : List MirrorW} {x30 : List MirrorW} {x31 : Nat} {x32 : Table Word} {x33 : Table (Option Nat)} {x34 : Bool} {x35 : List (Nat × Nat)} {x36 : Table LuCtx} {x37 : Table Word} {x38 : Table MuCtx} {x39 : Table MuGrp} {x41 : FmSt} {x42 : Table BuCtx} {x43 : Table GuCtx} {x44 : Table GuPath} {x45 : Table (List GuPub)} {x46 : Table OsSt} {x47 : Table RelaySt} {x48 : MmSt} {x49 : Table (List Nat)} {x50 : Table EncSt} {x51 : Table SlotSt} {x52 : SyncSt} {x53 : Table DmaSt} {x54 : PcieSt} {x55 : Table Word} {x56 : Table Nat} {x57 : BrgSt} {x58 : Table TwSt} {x59 : Nat} {x60 : List TunTx} {x61 : List (Nat × Nat)} {x62 : TwinSt} {x63 : MgtSt} {x64 : BootSt} {x65 : PwrSt}
    {n : Nat} {d : List Nat} (e : (t.otp.get n).1 = 0) (h : Moves s t) : Moves s (State.mk t.regs t.imgRegs x2 x3 x4 x5 x6 x7 x8 x9 x10 x11 x12 x13 x14 x15 x16 x17 x18 x19 x20 x21 x22 x23 x24 x25 x26 xf x27 x28 x29 x30 x31 x32 x33 x34 x35 x36 x37 x38 x39 t.fmMem x41 x42 x43 x44 x45 x46 x47 x48 x49 x50 x51 x52 x53 x54 x55 x56 x57 x58 x59 x60 x61 x62 x63 x64 x65 t.flash (t.otp.set n (1, d)) t.tcm t.shared t.mbx t.pending) :=
  KMoves.program h n d e

theorem Moves.mkRevoke {s t : State} {x2 : List Nat} {x3 : Nat} {x4 : Nat} {x5 : Nat} {x6 : List Out} {x7 : Straps} {x8 : Option Nat} {x9 : Table GenSt} {x10 : Table GrpSt} {x11 : ImageSt} {x12 : Table PavSt} {x13 : Table (Option Nat)} {x14 : Table ChanSt} {x15 : Table (List Item)} {x16 : Table ArbSt} {x17 : Table Byte} {x18 : Table PortSt} {x19 : Table EntrySt} {x20 : Table SegSt} {x21 : Table StreamSt} {x22 : Table LogEntry} {x23 : Table Word} {x24 : LodgeSt} {x25 : BandSt} {x26 : Nat} {xf : FilterSt} {x27 : Nat} {x28 : Nat} {x29 : List MirrorW} {x30 : List MirrorW} {x31 : Nat} {x32 : Table Word} {x33 : Table (Option Nat)} {x34 : Bool} {x35 : List (Nat × Nat)} {x36 : Table LuCtx} {x37 : Table Word} {x38 : Table MuCtx} {x39 : Table MuGrp} {x41 : FmSt} {x42 : Table BuCtx} {x43 : Table GuCtx} {x44 : Table GuPath} {x45 : Table (List GuPub)} {x46 : Table OsSt} {x47 : Table RelaySt} {x48 : MmSt} {x49 : Table (List Nat)} {x50 : Table EncSt} {x51 : Table SlotSt} {x52 : SyncSt} {x53 : Table DmaSt} {x54 : PcieSt} {x55 : Table Word} {x56 : Table Nat} {x57 : BrgSt} {x58 : Table TwSt} {x59 : Nat} {x60 : List TunTx} {x61 : List (Nat × Nat)} {x62 : TwinSt} {x63 : MgtSt} {x64 : BootSt} {x65 : PwrSt}
    {n : Nat} (h : Moves s t) : Moves s (State.mk t.regs t.imgRegs x2 x3 x4 x5 x6 x7 x8 x9 x10 x11 x12 x13 x14 x15 x16 x17 x18 x19 x20 x21 x22 x23 x24 x25 x26 xf x27 x28 x29 x30 x31 x32 x33 x34 x35 x36 x37 x38 x39 t.fmMem x41 x42 x43 x44 x45 x46 x47 x48 x49 x50 x51 x52 x53 x54 x55 x56 x57 x58 x59 x60 x61 x62 x63 x64 x65 t.flash (t.otp.set n (2, (t.otp.get n).2)) t.tcm t.shared t.mbx t.pending) :=
  KMoves.revoke h n

/-- A fold of an operation that moves. -/
theorem moves_foldl {α : Type} {s t : State} {f : State → α → State} {l : List α}
    (k : ∀ u a, Moves s u → Moves s (f u a)) (h : Moves s t) : Moves s (l.foldl f t) := by
  induction l generalizing t with
  | nil => exact h
  | cons a l ih => exact ih (k t a h)

/-- A fold of an operation that moves and answers something beside. -/
theorem moves_foldl_fst {α β : Type} {s : State} {f : State × β → α → State × β} {l : List α} {t : State × β}
    (k : ∀ u a, Moves s u.1 → Moves s (f u a).1) (h : Moves s t.1) : Moves s (l.foldl f t).1 := by
  induction l generalizing t with
  | nil => exact h
  | cons a l ih => exact ih (k t a h)

end Sys2Proof.Machine
end

