-- ==== Sys2Proof/Laws/MovesRegs.lean ====
section
/-! SUPPORT. What the operations of Machine/Regs.lean can do to the memories, the register file, the key slots and the queue: moves, and nothing
else. -/

namespace Sys2Proof.Machine

theorem State.setReg_moves {s₀ s : State} {off : Nat} {w : Word} (h : Moves s₀ s) : Moves s₀ (s.setReg off w) :=
  KMoves.reg h off w

theorem State.setFld_moves {s₀ : State} {s : State} {off : Nat} {f : Fld} {v : Nat} (hm : Moves s₀ s) :
    Moves s₀ (State.setFld s off f v) := by
  unfold State.setFld
  repeat' first
    | with_reducible assumption
    | with_reducible apply State.setReg_moves
    | split

theorem State.setBit_moves {s₀ : State} {s : State} {off b : Nat} (hm : Moves s₀ s) :
    Moves s₀ (State.setBit s off b) := by
  unfold State.setBit
  repeat' first
    | with_reducible assumption
    | with_reducible apply State.setReg_moves
    | split

theorem State.putBit_moves {s₀ : State} {s : State} {off b : Nat} {v : Bool} (hm : Moves s₀ s) :
    Moves s₀ (State.putBit s off b v) := by
  unfold State.putBit
  repeat' first
    | with_reducible assumption
    | with_reducible apply State.setReg_moves
    | split

theorem State.countN_moves {s₀ : State} {s : State} {off n : Nat} (hm : Moves s₀ s) :
    Moves s₀ (State.countN s off n) := by
  unfold State.countN
  repeat' first
    | with_reducible assumption
    | with_reducible apply State.setReg_moves
    | split

theorem State.count_moves {s₀ : State} {s : State} {off : Nat} (hm : Moves s₀ s) :
    Moves s₀ (State.count s off) := by
  unfold State.count
  repeat' first
    | with_reducible assumption
    | with_reducible apply State.countN_moves
    | split

theorem State.bumpSeq_moves {s₀ : State} {s : State} {off : Nat} (hm : Moves s₀ s) :
    Moves s₀ (State.bumpSeq s off) := by
  unfold State.bumpSeq
  repeat' first
    | with_reducible assumption
    | with_reducible apply State.setReg_moves
    | split

theorem State.emit_moves {s₀ : State} {s : State} {o : Out} (hm : Moves s₀ s) :
    Moves s₀ (State.emit s o) := by
  unfold State.emit
  repeat' first
    | with_reducible assumption
    | split
    | (conv => arg 2; arg 73; skip
       with_reducible apply Moves.mk)

theorem State.plainWrite_moves {s₀ : State} {s : State} {off : Nat} {new hw : Word} (hm : Moves s₀ s) :
    Moves s₀ (State.plainWrite s off new hw) := by
  unfold State.plainWrite
  repeat' first
    | with_reducible assumption
    | with_reducible apply State.setReg_moves
    | split
    | dsimp only
    | (conv => arg 2; arg 73; skip
       with_reducible apply Moves.mk)

theorem State.darkOff_moves {s₀ : State} {s : State} {off : Nat} (hm : Moves s₀ s) :
    Moves s₀ (State.darkOff s off) := by
  unfold State.darkOff
  repeat' first
    | with_reducible assumption
    | (intro _; intros)
    | (extract_lets +onlyGivenNames x; refine (fun (hx : Moves s₀ x) => ?_) ?_; clear_value x; rotate_left; subst x; rotate_right)
    | (extract_lets +onlyGivenNames x; refine (fun (hx : Moves s₀ x.1) => ?_) ?_; clear_value x; rotate_left; subst x; rotate_right)
    | (extract_lets +onlyGivenNames x; first | clear_value x | subst x)
    | with_reducible apply State.setFld_moves
    | split
    | dsimp only
    | (conv => arg 2; arg 73; skip
       with_reducible apply Moves.mk)

theorem State.loadWrite_moves {s₀ s : State} {fabric : Bool} {off val : Nat} (h : Moves s₀ s) :
    Moves s₀ (s.loadWrite fabric off val) := by
  unfold State.loadWrite
  split
  · exact h
  · exact KMoves.img (State.darkOff_moves (State.setReg_moves h)) _ _

theorem State.giveBack_moves {s₀ : State} {s : State} {off : Nat} (hm : Moves s₀ s) :
    Moves s₀ (State.giveBack s off) := by
  unfold State.giveBack
  repeat' first
    | with_reducible assumption
    | (intro _; intros)
    | (extract_lets +onlyGivenNames x; refine (fun (hx : Moves s₀ x) => ?_) ?_; clear_value x; rotate_left; subst x; rotate_right)
    | (extract_lets +onlyGivenNames x; refine (fun (hx : Moves s₀ x.1) => ?_) ?_; clear_value x; rotate_left; subst x; rotate_right)
    | (extract_lets +onlyGivenNames x; first | clear_value x | subst x)
    | with_reducible apply moves_foldl
    | with_reducible apply moves_foldl_fst
    | with_reducible apply State.darkOff_moves
    | with_reducible apply State.setReg_moves
    | split
    | dsimp only
    | (conv => arg 2; arg 73; skip
       with_reducible apply Moves.mk)

end Sys2Proof.Machine
end

