-- ==== Sys2Proof/Laws/MovesLinkTx.lean ====
section
/-! SUPPORT. What the operations of Machine/LinkTx.lean can do to the memories, the register file, the key slots and the queue: moves, and nothing
else. -/

namespace Sys2Proof.Machine

theorem State.modGrp_moves {s₀ : State} {s : State} {g : Nat} {f : GrpSt → GrpSt} (hm : Moves s₀ s) :
    Moves s₀ (State.modGrp s g f) := by
  unfold State.modGrp
  repeat' first
    | with_reducible assumption
    | split
    | (conv => arg 2; arg 73; skip
       with_reducible apply Moves.mk)

theorem State.frame_moves {s₀ : State} {s : State} {g : Nat} {words : List Nat} (hm : Moves s₀ s) :
    Moves s₀ (State.frame s g words) := by
  unfold State.frame
  repeat' first
    | with_reducible assumption
    | (intro _; intros)
    | (extract_lets +onlyGivenNames x; refine (fun (hx : Moves s₀ x) => ?_) ?_; clear_value x; rotate_left; subst x; rotate_right)
    | (extract_lets +onlyGivenNames x; refine (fun (hx : Moves s₀ x.1) => ?_) ?_; clear_value x; rotate_left; subst x; rotate_right)
    | (extract_lets +onlyGivenNames x; first | clear_value x | subst x)
    | with_reducible apply State.emit_moves
    | with_reducible apply State.modGrp_moves
    | with_reducible apply State.packet_moves
    | split
    | (conv => arg 2; arg 73; skip
       with_reducible apply Moves.mk)

theorem State.orderedSet_moves {s₀ : State} {s : State} {g typ : Nat} {symbols : List Nat} (hm : Moves s₀ s) :
    Moves s₀ (State.orderedSet s g typ symbols) := by
  unfold State.orderedSet
  repeat' first
    | with_reducible assumption
    | (intro _; intros)
    | with_reducible apply State.emit_moves
    | with_reducible apply State.modGrp_moves
    | split
    | (conv => arg 2; arg 73; skip
       with_reducible apply Moves.mk)

theorem State.pump_moves {s₀ : State} {s : State} {g : Nat} {y0 : Nat} (hm : Moves s₀ s) :
    Moves s₀ (State.pump s g y0) := by
  induction y0 generalizing s with
  | zero =>
    unfold State.pump
    repeat' first
      | with_reducible assumption
      | (extract_lets +onlyGivenNames x; refine (fun (hx : Moves s₀ x) => ?_) ?_; clear_value x; rotate_left; subst x; rotate_right)
      | (extract_lets +onlyGivenNames x; refine (fun (hx : Moves s₀ x.1) => ?_) ?_; clear_value x; rotate_left; subst x; rotate_right)
      | (extract_lets +onlyGivenNames x; first | clear_value x | subst x)
      | with_reducible apply State.frame_moves
      | split
      | dsimp only
      | (conv => arg 2; arg 73; skip
         with_reducible apply Moves.mk)
  | succ n ih =>
    unfold State.pump
    repeat' first
      | with_reducible assumption
      | (extract_lets +onlyGivenNames x; refine (fun (hx : Moves s₀ x) => ?_) ?_; clear_value x; rotate_left; subst x; rotate_right)
      | (extract_lets +onlyGivenNames x; refine (fun (hx : Moves s₀ x.1) => ?_) ?_; clear_value x; rotate_left; subst x; rotate_right)
      | (extract_lets +onlyGivenNames x; first | clear_value x | subst x)
      | with_reducible apply ih
      | with_reducible apply State.frame_moves
      | split
      | dsimp only
      | (conv => arg 2; arg 73; skip
         with_reducible apply Moves.mk)

theorem State.sendPkt_moves {s₀ : State} {s : State} {g : Nat} {p : LinkPkt} (hm : Moves s₀ s) :
    Moves s₀ (State.sendPkt s g p) := by
  unfold State.sendPkt
  repeat' first
    | with_reducible assumption
    | (intro _; intros)
    | (extract_lets +onlyGivenNames x; refine (fun (hx : Moves s₀ x) => ?_) ?_; clear_value x; rotate_left; subst x; rotate_right)
    | (extract_lets +onlyGivenNames x; refine (fun (hx : Moves s₀ x.1) => ?_) ?_; clear_value x; rotate_left; subst x; rotate_right)
    | (extract_lets +onlyGivenNames x; first | clear_value x | subst x)
    | with_reducible apply State.modGrp_moves
    | with_reducible apply State.pump_moves
    | split
    | (conv => arg 2; arg 73; skip
       with_reducible apply Moves.mk)

theorem State.sendCtl_moves {s₀ : State} {s : State} {g typ spec0 spec1 : Nat} (hm : Moves s₀ s) :
    Moves s₀ (State.sendCtl s g typ spec0 spec1) := by
  unfold State.sendCtl
  repeat' first
    | with_reducible assumption
    | with_reducible apply State.frame_moves
    | split

theorem State.sendItem_moves {s₀ : State} {s : State} {g cls typ tag spec0 spec1 : Nat} {words : List Nat} (hm : Moves s₀ s) :
    Moves s₀ (State.sendItem s g cls typ tag spec0 spec1 words) := by
  unfold State.sendItem
  repeat' first
    | with_reducible assumption
    | (intro _; intros)
    | with_reducible apply moves_foldl
    | with_reducible apply moves_foldl_fst
    | with_reducible apply State.sendPkt_moves
    | split

theorem State.sendMsg_moves {s₀ : State} {s : State} {g cls typ : Nat} {words : List Nat} (hm : Moves s₀ s) :
    Moves s₀ (State.sendMsg s g cls typ words) := by
  unfold State.sendMsg
  repeat' first
    | with_reducible assumption
    | with_reducible apply State.sendItem_moves
    | split

theorem State.takeRx_moves {s₀ : State} {s : State} {g cls typ : Nat} (hm : Moves s₀ s) :
    Moves s₀ (State.takeRx s g cls typ).1 := by
  unfold State.takeRx
  repeat' first
    | with_reducible assumption
    | (intro _; intros)
    | (extract_lets +onlyGivenNames x; refine (fun (hx : Moves s₀ x) => ?_) ?_; clear_value x; rotate_left; subst x; rotate_right)
    | (extract_lets +onlyGivenNames x; refine (fun (hx : Moves s₀ x.1) => ?_) ?_; clear_value x; rotate_left; subst x; rotate_right)
    | (extract_lets +onlyGivenNames x; first | clear_value x | subst x)
    | with_reducible apply State.modGrp_moves
    | with_reducible apply State.sendCtl_moves
    | split
    | dsimp only
    | (conv => arg 2; arg 73; skip
       with_reducible apply Moves.mk)

theorem State.takeItem_moves {s₀ : State} {s : State} {g cls typ : Nat} (hm : Moves s₀ s) :
    Moves s₀ (State.takeItem s g cls typ).1 := by
  unfold State.takeItem
  repeat' first
    | with_reducible assumption
    | (intro _; intros)
    | (extract_lets +onlyGivenNames x; refine (fun (hx : Moves s₀ x) => ?_) ?_; clear_value x; rotate_left; subst x; rotate_right)
    | (extract_lets +onlyGivenNames x; refine (fun (hx : Moves s₀ x.1) => ?_) ?_; clear_value x; rotate_left; subst x; rotate_right)
    | (extract_lets +onlyGivenNames x; first | clear_value x | subst x)
    | with_reducible apply moves_foldl
    | with_reducible apply moves_foldl_fst
    | with_reducible apply State.modGrp_moves
    | with_reducible apply State.sendCtl_moves
    | split
    | dsimp only
    | (conv => arg 2; arg 73; skip
       with_reducible apply Moves.mk)

end Sys2Proof.Machine
end

