-- ==== Sys2Proof/Laws/MovesOps.lean ====
section
/-! SUPPORT. What the operations of Machine/Ops.lean can do to the memories, the register file, the key slots and the queue: moves, and nothing
else. -/

namespace Sys2Proof.Machine

/-- Whatever a meaning answers comes from its state by moves. -/
def Answered (s : State) (o : Host.Outcome State Fault Refusal) : Prop := ∀ t, o = .next t → Moves s t

/-- A meaning answers its effect, or its state as it was. -/
theorem answered {s u : State} {b : Bool} (h : Moves s u) : Answered s (answer s b u) := by
  intro t e
  cases e
  cases b
  · exact Moves.refl s
  · exact h

theorem State.draw_moves {s₀ s : State} (hm : Moves s₀ s) : Moves s₀ s.draw := Moves.mk hm

theorem State.log_moves {s₀ : State} {s : State} {blk inst code arg : Nat} (hm : Moves s₀ s) :
    Moves s₀ (State.log s blk inst code arg) := by
  unfold State.log
  repeat' first
    | with_reducible assumption
    | (extract_lets +onlyGivenNames x; refine (fun (hx : Moves s₀ x) => ?_) ?_; clear_value x; rotate_left; subst x; rotate_right)
    | (extract_lets +onlyGivenNames x; refine (fun (hx : Moves s₀ x.1) => ?_) ?_; clear_value x; rotate_left; subst x; rotate_right)
    | (extract_lets +onlyGivenNames x; first | clear_value x | subst x)
    | with_reducible apply State.bumpSeq_moves
    | split
    | (conv => arg 2; arg 73; skip
       with_reducible apply Moves.mk)

theorem State.raiseError_moves {s₀ : State} {s : State} {source index : Nat} (hm : Moves s₀ s) :
    Moves s₀ (State.raiseError s source index) := by
  unfold State.raiseError
  repeat' first
    | with_reducible assumption
    | split
    | (conv => arg 2; arg 73; skip
       with_reducible apply Moves.mk)

theorem State.raiseCorr_moves {s₀ : State} {s : State} {source index : Nat} (hm : Moves s₀ s) :
    Moves s₀ (State.raiseCorr s source index) := by
  unfold State.raiseCorr
  repeat' first
    | with_reducible assumption
    | split
    | (conv => arg 2; arg 73; skip
       with_reducible apply Moves.mk)

theorem State.raiseErrors_moves {s₀ : State} {s : State} {source index n : Nat} (hm : Moves s₀ s) :
    Moves s₀ (State.raiseErrors s source index n) := by
  unfold State.raiseErrors
  repeat' first
    | with_reducible assumption
    | split
    | (conv => arg 2; arg 73; skip
       with_reducible apply Moves.mk)

theorem State.raiseCorrs_moves {s₀ : State} {s : State} {source index n : Nat} (hm : Moves s₀ s) :
    Moves s₀ (State.raiseCorrs s source index n) := by
  unfold State.raiseCorrs
  repeat' first
    | with_reducible assumption
    | split
    | (conv => arg 2; arg 73; skip
       with_reducible apply Moves.mk)

theorem State.countAndSet_moves {s₀ : State} {s : State} {cnt status bit : Nat} (hm : Moves s₀ s) :
    Moves s₀ (State.countAndSet s cnt status bit) := by
  unfold State.countAndSet
  repeat' first
    | with_reducible assumption
    | with_reducible apply State.count_moves
    | with_reducible apply State.setBit_moves
    | split

theorem State.toPartner_moves {s₀ : State} {s : State} {typ : Nat} {words : List Nat} (hm : Moves s₀ s) :
    Moves s₀ (State.toPartner s typ words) := by
  unfold State.toPartner
  repeat' first
    | with_reducible assumption
    | with_reducible apply State.sendMsg_moves
    | split

theorem State.sendDec_moves {s₀ : State} {s : State} {kind ch unit outcome reason seqNo : Nat} {v : Nat × Nat × Nat} (hm : Moves s₀ s) :
    Moves s₀ (State.sendDec s kind ch unit outcome reason seqNo v) := by
  unfold State.sendDec
  repeat' first
    | with_reducible assumption
    | with_reducible apply State.toPartner_moves
    | split

theorem State.icPend_moves {s₀ : State} {s : State} {src : Nat} (hm : Moves s₀ s) :
    Moves s₀ (State.icPend s src) := by
  unfold State.icPend
  repeat' first
    | with_reducible assumption
    | (intro _; intros)
    | (extract_lets +onlyGivenNames x; refine (fun (hx : Moves s₀ x) => ?_) ?_; clear_value x; rotate_left; subst x; rotate_right)
    | (extract_lets +onlyGivenNames x; refine (fun (hx : Moves s₀ x.1) => ?_) ?_; clear_value x; rotate_left; subst x; rotate_right)
    | (extract_lets +onlyGivenNames x; first | clear_value x | subst x)
    | with_reducible apply State.setBit_moves
    | split
    | (conv => arg 2; arg 73; skip
       with_reducible apply Moves.mk)

theorem State.icMask_moves {s₀ : State} {s : State} {src : Nat} (hm : Moves s₀ s) :
    Moves s₀ (State.icMask s src) := by
  unfold State.icMask
  repeat' first
    | with_reducible assumption
    | (intro _; intros)
    | (extract_lets +onlyGivenNames x; refine (fun (hx : Moves s₀ x) => ?_) ?_; clear_value x; rotate_left; subst x; rotate_right)
    | (extract_lets +onlyGivenNames x; refine (fun (hx : Moves s₀ x.1) => ?_) ?_; clear_value x; rotate_left; subst x; rotate_right)
    | (extract_lets +onlyGivenNames x; first | clear_value x | subst x)
    | with_reducible apply State.setBit_moves
    | split
    | (conv => arg 2; arg 73; skip
       with_reducible apply Moves.mk)

theorem State.icComplete_moves {s₀ : State} {s : State} {src : Nat} (hm : Moves s₀ s) :
    Moves s₀ (State.icComplete s src) := by
  unfold State.icComplete
  repeat' first
    | with_reducible assumption
    | (extract_lets +onlyGivenNames x; refine (fun (hx : Moves s₀ x) => ?_) ?_; clear_value x; rotate_left; subst x; rotate_right)
    | (extract_lets +onlyGivenNames x; refine (fun (hx : Moves s₀ x.1) => ?_) ?_; clear_value x; rotate_left; subst x; rotate_right)
    | (extract_lets +onlyGivenNames x; first | clear_value x | subst x)
    | with_reducible apply State.count_moves
    | with_reducible apply State.icPend_moves
    | with_reducible apply State.putBit_moves
    | split
    | (conv => arg 2; arg 73; skip
       with_reducible apply Moves.mk)

theorem State.icHostStatus_moves {s₀ : State} {s : State} {i : Nat} {off : Nat} (hm : Moves s₀ s) :
    Moves s₀ (State.icHostStatus s i off) := by
  unfold State.icHostStatus
  repeat' first
    | with_reducible assumption
    | (extract_lets +onlyGivenNames x; refine (fun (hx : Moves s₀ x) => ?_) ?_; clear_value x; rotate_left; subst x; rotate_right)
    | (extract_lets +onlyGivenNames x; refine (fun (hx : Moves s₀ x.1) => ?_) ?_; clear_value x; rotate_left; subst x; rotate_right)
    | (extract_lets +onlyGivenNames x; first | clear_value x | subst x)
    | with_reducible apply State.icComplete_moves
    | split
    | dsimp only
    | (conv => arg 2; arg 73; skip
       with_reducible apply Moves.mk)

theorem State.modDma_moves {s₀ : State} {s : State} {c : Nat} {f : DmaSt → DmaSt} (hm : Moves s₀ s) :
    Moves s₀ (State.modDma s c f) := by
  unfold State.modDma
  repeat' first
    | with_reducible assumption
    | split
    | (conv => arg 2; arg 73; skip
       with_reducible apply Moves.mk)

theorem State.setCfg_moves {s₀ : State} {s : State} {f off : Nat} {w : Word} (hm : Moves s₀ s) :
    Moves s₀ (State.setCfg s f off w) := by
  unfold State.setCfg
  repeat' first
    | with_reducible assumption
    | split
    | (conv => arg 2; arg 73; skip
       with_reducible apply Moves.mk)

theorem State.logHeader_moves {s₀ : State} {s : State} {f : Nat} (hm : Moves s₀ s) :
    Moves s₀ (State.logHeader s f) := by
  unfold State.logHeader
  repeat' first
    | with_reducible assumption
    | (intro _; intros)
    | with_reducible apply moves_foldl
    | with_reducible apply moves_foldl_fst
    | with_reducible apply State.setCfg_moves
    | split

theorem State.aerUncorr_moves {s₀ : State} {s : State} {f b : Nat} (hm : Moves s₀ s) :
    Moves s₀ (State.aerUncorr s f b) := by
  unfold State.aerUncorr
  repeat' first
    | with_reducible assumption
    | (extract_lets +onlyGivenNames x; refine (fun (hx : Moves s₀ x) => ?_) ?_; clear_value x; rotate_left; subst x; rotate_right)
    | (extract_lets +onlyGivenNames x; refine (fun (hx : Moves s₀ x.1) => ?_) ?_; clear_value x; rotate_left; subst x; rotate_right)
    | (extract_lets +onlyGivenNames x; first | clear_value x | subst x)
    | with_reducible apply State.logHeader_moves
    | with_reducible apply State.setCfg_moves
    | split

theorem State.aerCorr_moves {s₀ : State} {s : State} {f b : Nat} (hm : Moves s₀ s) :
    Moves s₀ (State.aerCorr s f b) := by
  unfold State.aerCorr
  repeat' first
    | with_reducible assumption
    | with_reducible apply State.setCfg_moves
    | split

theorem State.unsupported_moves {s₀ : State} {s : State} {f : Nat} (hm : Moves s₀ s) :
    Moves s₀ (State.unsupported s f) := by
  unfold State.unsupported
  repeat' first
    | with_reducible assumption
    | with_reducible apply State.aerUncorr_moves
    | with_reducible apply State.count_moves
    | split

theorem State.refuse_moves {s₀ : State} {s : State} {i : Initiator} {space addr : Nat} {write : Bool} (hm : Moves s₀ s) :
    Moves s₀ (State.refuse s i space addr write) := by
  unfold State.refuse
  repeat' first
    | with_reducible assumption
    | (extract_lets +onlyGivenNames x; refine (fun (hx : Moves s₀ x) => ?_) ?_; clear_value x; rotate_left; subst x; rotate_right)
    | (extract_lets +onlyGivenNames x; refine (fun (hx : Moves s₀ x.1) => ?_) ?_; clear_value x; rotate_left; subst x; rotate_right)
    | (extract_lets +onlyGivenNames x; first | clear_value x | subst x)
    | with_reducible apply State.aerUncorr_moves
    | with_reducible apply State.count_moves
    | with_reducible apply State.emit_moves
    | with_reducible apply State.setBit_moves
    | with_reducible apply State.setReg_moves
    | split
    | dsimp only
    | (conv => arg 2; arg 73; skip
       with_reducible apply Moves.mk)

theorem State.effect_moves {s₀ : State} {s : State} {i : Nat} {off : Nat} {data : Word} {eff : State → State} (h_eff : ∀ x0, Moves s₀ x0 → Moves s₀ (eff x0)) (hm : Moves s₀ s) :
    Moves s₀ (State.effect s i off data eff) := by
  unfold State.effect
  repeat' first
    | with_reducible assumption
    | (intro _; intros)
    | (extract_lets +onlyGivenNames x; refine (fun (hx : Moves s₀ x) => ?_) ?_; clear_value x; rotate_left; subst x; rotate_right)
    | (extract_lets +onlyGivenNames x; refine (fun (hx : Moves s₀ x.1) => ?_) ?_; clear_value x; rotate_left; subst x; rotate_right)
    | (extract_lets +onlyGivenNames x; first | clear_value x | subst x)
    | with_reducible apply h_eff
    | with_reducible apply State.icHostStatus_moves
    | split
    | (conv => arg 2; arg 73; skip
       with_reducible apply Moves.mk)

theorem State.swWrite_moves {s₀ : State} {s : State} {i : Initiator} {off : Nat} {data : Word} {eff : State → State} (h_eff : ∀ x0, Moves s₀ x0 → Moves s₀ (eff x0)) (hm : Moves s₀ s) :
    Moves s₀ (State.swWrite s i off data eff) := by
  unfold State.swWrite
  repeat' first
    | with_reducible assumption
    | (intro _; intros)
    | with_reducible apply h_eff
    | with_reducible apply State.aerUncorr_moves
    | with_reducible apply State.count_moves
    | with_reducible apply State.effect_moves
    | with_reducible apply State.refuse_moves
    | split
    | dsimp only
    | (conv => arg 2; arg 73; skip
       with_reducible apply Moves.mk)

theorem State.swRead_moves {s₀ : State} {s : State} {i : Initiator} {off : Nat} {eff : State → State × Word} (h_eff : ∀ x0, Moves s₀ x0 → Moves s₀ (eff x0).1) (hm : Moves s₀ s) :
    Moves s₀ (State.swRead s i off eff) := by
  unfold State.swRead
  repeat' first
    | with_reducible assumption
    | (intro _; intros)
    | (extract_lets +onlyGivenNames x; refine (fun (hx : Moves s₀ x) => ?_) ?_; clear_value x; rotate_left; subst x; rotate_right)
    | (extract_lets +onlyGivenNames x; refine (fun (hx : Moves s₀ x.1) => ?_) ?_; clear_value x; rotate_left; subst x; rotate_right)
    | (extract_lets +onlyGivenNames x; first | clear_value x | subst x)
    | with_reducible apply h_eff
    | with_reducible apply State.emit_moves
    | with_reducible apply State.refuse_moves
    | with_reducible apply State.unsupported_moves
    | split

theorem State.sendWires_moves {s₀ : State} {s : State} {g toggled : Nat} (hm : Moves s₀ s) :
    Moves s₀ (State.sendWires s g toggled) := by
  unfold State.sendWires
  repeat' first
    | with_reducible assumption
    | with_reducible apply State.sendMsg_moves
    | split
    | (conv => arg 2; arg 73; skip
       with_reducible apply Moves.mk)

theorem State.wiresChanged_moves {s₀ : State} {s : State} {toggled : Nat} (hm : Moves s₀ s) :
    Moves s₀ (State.wiresChanged s toggled) := by
  unfold State.wiresChanged
  repeat' first
    | with_reducible assumption
    | with_reducible apply State.sendWires_moves
    | split

theorem State.wiresFrom_moves {s₀ : State} {s : State} {old : Nat} (hm : Moves s₀ s) :
    Moves s₀ (State.wiresFrom s old) := by
  unfold State.wiresFrom
  repeat' first
    | with_reducible assumption
    | with_reducible apply State.wiresChanged_moves
    | split

theorem State.conflict_moves {s₀ : State} {s : State} {blk inst kind : Nat} (hm : Moves s₀ s) :
    Moves s₀ (State.conflict s blk inst kind) := by
  unfold State.conflict
  repeat' first
    | with_reducible assumption
    | (extract_lets +onlyGivenNames x; refine (fun (hx : Moves s₀ x) => ?_) ?_; clear_value x; rotate_left; subst x; rotate_right)
    | (extract_lets +onlyGivenNames x; refine (fun (hx : Moves s₀ x.1) => ?_) ?_; clear_value x; rotate_left; subst x; rotate_right)
    | (extract_lets +onlyGivenNames x; first | clear_value x | subst x)
    | with_reducible apply State.count_moves
    | with_reducible apply State.setReg_moves
    | split

end Sys2Proof.Machine
end

