-- ==== Sys2Proof/Laws/MovesBandstand.lean ====
section
/-! SUPPORT. What the operations of Machine/Bandstand.lean can do to the memories, the register file, the key slots and the queue: moves, and nothing
else. -/

namespace Sys2Proof.Machine

theorem doLevelSample_moves {s₀ : State} {src : Nat} {s : State} (hm : Moves s₀ s) :
    Moves s₀ (doLevelSample src s) := by
  unfold doLevelSample
  repeat' first
    | with_reducible assumption
    | with_reducible apply State.icPend_moves
    | split

@[simp] theorem execIcLevelSample_moves {s₀ : State} {src : Nat} :
    Answered s₀ (execIcLevelSample src s₀) := by
  have hm := Moves.refl s₀
  refine answered ?_
  repeat' first
    | with_reducible assumption
    | with_reducible apply doLevelSample_moves
    | split

@[simp] theorem execIcEdgeEvent_moves {s₀ : State} {src : Nat} :
    Answered s₀ (execIcEdgeEvent src s₀) := by
  have hm := Moves.refl s₀
  refine answered ?_
  repeat' first
    | with_reducible assumption
    | with_reducible apply State.icPend_moves
    | split

theorem doPinFilter_moves {s₀ : State} {pin : Nat} {level : Bool} {cycles : Nat} {s : State} (hm : Moves s₀ s) :
    Moves s₀ (doPinFilter pin level cycles s) := by
  unfold doPinFilter
  repeat' first
    | with_reducible assumption
    | (extract_lets +onlyGivenNames x; refine (fun (hx : Moves s₀ x) => ?_) ?_; clear_value x; rotate_left; subst x; rotate_right)
    | (extract_lets +onlyGivenNames x; refine (fun (hx : Moves s₀ x.1) => ?_) ?_; clear_value x; rotate_left; subst x; rotate_right)
    | (extract_lets +onlyGivenNames x; first | clear_value x | subst x)
    | with_reducible apply State.icPend_moves
    | split
    | (conv => arg 2; arg 73; skip
       with_reducible apply Moves.mk)

@[simp] theorem execIcPinFilter_moves {s₀ : State} {pin : Nat} {level : Bool} {cycles : Nat} :
    Answered s₀ (execIcPinFilter pin level cycles s₀) := by
  have hm := Moves.refl s₀
  refine answered ?_
  repeat' first
    | with_reducible assumption
    | with_reducible apply doPinFilter_moves
    | split

@[simp] theorem execIcPendWrite_moves {s₀ : State} {i : Initiator} {k : Nat} {data : Word} :
    Answered s₀ (execIcPendWrite i k data s₀) := by
  have hm := Moves.refl s₀
  refine answered ?_
  repeat' first
    | with_reducible assumption
    | (intro _; intros)
    | with_reducible apply State.setReg_moves
    | with_reducible apply State.swWrite_moves
    | split

@[simp] theorem execIcMaskWrite_moves {s₀ : State} {i : Initiator} {k : Nat} {data : Word} :
    Answered s₀ (execIcMaskWrite i k data s₀) := by
  have hm := Moves.refl s₀
  refine answered ?_
  repeat' first
    | with_reducible assumption
    | (intro _; intros)
    | with_reducible apply State.setReg_moves
    | with_reducible apply State.swWrite_moves
    | split

theorem State.showStack_moves {s₀ : State} {s : State} {t : Nat} (hm : Moves s₀ s) :
    Moves s₀ (State.showStack s t) := by
  unfold State.showStack
  repeat' first
    | with_reducible assumption
    | (extract_lets +onlyGivenNames x; refine (fun (hx : Moves s₀ x) => ?_) ?_; clear_value x; rotate_left; subst x; rotate_right)
    | (extract_lets +onlyGivenNames x; refine (fun (hx : Moves s₀ x.1) => ?_) ?_; clear_value x; rotate_left; subst x; rotate_right)
    | (extract_lets +onlyGivenNames x; first | clear_value x | subst x)
    | with_reducible apply State.setReg_moves
    | split
    | dsimp only
    | (conv => arg 2; arg 73; skip
       with_reducible apply Moves.mk)

theorem State.setStack_moves {s₀ : State} {s : State} {t : Nat} {l : List Nat} (hm : Moves s₀ s) :
    Moves s₀ (State.setStack s t l) := by
  unfold State.setStack
  repeat' first
    | with_reducible assumption
    | with_reducible apply State.showStack_moves
    | split
    | (conv => arg 2; arg 73; skip
       with_reducible apply Moves.mk)

theorem State.deliverTo_moves {s₀ : State} {s : State} {src t : Nat} (hm : Moves s₀ s) :
    Moves s₀ (State.deliverTo s src t) := by
  unfold State.deliverTo
  repeat' first
    | with_reducible assumption
    | (extract_lets +onlyGivenNames x; refine (fun (hx : Moves s₀ x) => ?_) ?_; clear_value x; rotate_left; subst x; rotate_right)
    | (extract_lets +onlyGivenNames x; refine (fun (hx : Moves s₀ x.1) => ?_) ?_; clear_value x; rotate_left; subst x; rotate_right)
    | (extract_lets +onlyGivenNames x; first | clear_value x | subst x)
    | with_reducible apply State.emit_moves
    | with_reducible apply State.setStack_moves
    | with_reducible apply State.wiresChanged_moves
    | split
    | dsimp only
    | (conv => arg 2; arg 73; skip
       with_reducible apply Moves.mk)

theorem State.deliver_moves {s₀ : State} {s : State} {src t : Nat} (hm : Moves s₀ s) :
    Moves s₀ (State.deliver s src t) := by
  unfold State.deliver
  repeat' first
    | with_reducible assumption
    | (extract_lets +onlyGivenNames x; refine (fun (hx : Moves s₀ x) => ?_) ?_; clear_value x; rotate_left; subst x; rotate_right)
    | (extract_lets +onlyGivenNames x; refine (fun (hx : Moves s₀ x.1) => ?_) ?_; clear_value x; rotate_left; subst x; rotate_right)
    | (extract_lets +onlyGivenNames x; first | clear_value x | subst x)
    | with_reducible apply State.deliverTo_moves
    | with_reducible apply State.icMask_moves
    | with_reducible apply State.putBit_moves
    | with_reducible apply State.setBit_moves
    | with_reducible apply State.setFld_moves
    | split
    | (conv => arg 2; arg 73; skip
       with_reducible apply Moves.mk)

theorem State.icDisable_moves {s₀ : State} {s : State} {l : List Nat} (hm : Moves s₀ s) :
    Moves s₀ (State.icDisable s l) := by
  unfold State.icDisable
  repeat' first
    | with_reducible assumption
    | (intro _; intros)
    | with_reducible apply moves_foldl
    | with_reducible apply moves_foldl_fst
    | with_reducible apply State.putBit_moves
    | with_reducible apply State.setBit_moves
    | split

theorem State.icEcc_moves {s₀ : State} {s : State} {src : Nat} {y0 : Ecc} (hm : Moves s₀ s) :
    Moves s₀ (State.icEcc s src y0) := by
  unfold State.icEcc
  repeat' first
    | with_reducible assumption
    | (intro _; intros)
    | (extract_lets +onlyGivenNames x; refine (fun (hx : Moves s₀ x) => ?_) ?_; clear_value x; rotate_left; subst x; rotate_right)
    | (extract_lets +onlyGivenNames x; refine (fun (hx : Moves s₀ x.1) => ?_) ?_; clear_value x; rotate_left; subst x; rotate_right)
    | (extract_lets +onlyGivenNames x; first | clear_value x | subst x)
    | with_reducible apply State.icDisable_moves
    | with_reducible apply State.raiseCorrs_moves
    | with_reducible apply State.raiseError_moves
    | with_reducible apply State.setBit_moves
    | split

theorem doDeliver_moves {s₀ : State} {src : Nat} {gie0 gie1 : Bool} {ecc : Ecc} {s : State} (hm : Moves s₀ s) :
    Moves s₀ (doDeliver src gie0 gie1 ecc s) := by
  unfold doDeliver
  repeat' first
    | with_reducible assumption
    | (extract_lets +onlyGivenNames x; refine (fun (hx : Moves s₀ x) => ?_) ?_; clear_value x; rotate_left; subst x; rotate_right)
    | (extract_lets +onlyGivenNames x; refine (fun (hx : Moves s₀ x.1) => ?_) ?_; clear_value x; rotate_left; subst x; rotate_right)
    | (extract_lets +onlyGivenNames x; first | clear_value x | subst x)
    | with_reducible apply State.deliver_moves
    | with_reducible apply State.icEcc_moves
    | split
    | dsimp only
    | (conv => arg 2; arg 73; skip
       with_reducible apply Moves.mk)

@[simp] theorem execIcDeliver_moves {s₀ : State} {src : Nat} {gie0 gie1 : Bool} {ecc : Ecc} :
    Answered s₀ (execIcDeliver src gie0 gie1 ecc s₀) := by
  have hm := Moves.refl s₀
  refine answered ?_
  repeat' first
    | with_reducible assumption
    | with_reducible apply doDeliver_moves
    | split

theorem State.eoiError_moves {s₀ : State} {s : State} (hm : Moves s₀ s) :
    Moves s₀ (State.eoiError s) := by
  unfold State.eoiError
  repeat' first
    | with_reducible assumption
    | with_reducible apply State.count_moves
    | with_reducible apply State.setBit_moves
    | split

theorem doCoreEoi_moves {s₀ : State} {t src : Nat} {s : State} (hm : Moves s₀ s) :
    Moves s₀ (doCoreEoi t src s) := by
  unfold doCoreEoi
  repeat' first
    | with_reducible assumption
    | (extract_lets +onlyGivenNames x; refine (fun (hx : Moves s₀ x) => ?_) ?_; clear_value x; rotate_left; subst x; rotate_right)
    | (extract_lets +onlyGivenNames x; refine (fun (hx : Moves s₀ x.1) => ?_) ?_; clear_value x; rotate_left; subst x; rotate_right)
    | (extract_lets +onlyGivenNames x; first | clear_value x | subst x)
    | with_reducible apply State.eoiError_moves
    | with_reducible apply State.icComplete_moves
    | with_reducible apply State.setStack_moves
    | split
    | dsimp only
    | (conv => arg 2; arg 73; skip
       with_reducible apply Moves.mk)

@[simp] theorem execIcCoreEoi_moves {s₀ : State} {i : Initiator} {t : Nat} {data : Word} :
    Answered s₀ (execIcCoreEoi i t data s₀) := by
  have hm := Moves.refl s₀
  refine answered ?_
  repeat' first
    | with_reducible assumption
    | with_reducible apply doCoreEoi_moves
    | with_reducible apply State.swWrite_moves
    | split

theorem doHostEoi_moves {s₀ : State} {src : Nat} {s : State} (hm : Moves s₀ s) :
    Moves s₀ (doHostEoi src s) := by
  unfold doHostEoi
  repeat' first
    | with_reducible assumption
    | (extract_lets +onlyGivenNames x; refine (fun (hx : Moves s₀ x) => ?_) ?_; clear_value x; rotate_left; subst x; rotate_right)
    | (extract_lets +onlyGivenNames x; refine (fun (hx : Moves s₀ x.1) => ?_) ?_; clear_value x; rotate_left; subst x; rotate_right)
    | (extract_lets +onlyGivenNames x; first | clear_value x | subst x)
    | with_reducible apply State.eoiError_moves
    | with_reducible apply State.icComplete_moves
    | split

@[simp] theorem execIcHostEoi_moves {s₀ : State} {i : Initiator} {data : Word} :
    Answered s₀ (execIcHostEoi i data s₀) := by
  have hm := Moves.refl s₀
  refine answered ?_
  repeat' first
    | with_reducible assumption
    | with_reducible apply doHostEoi_moves
    | with_reducible apply State.swWrite_moves
    | split

@[simp] theorem execIcRemoteComplete_moves {s₀ : State} {src : Nat} :
    Answered s₀ (execIcRemoteComplete src s₀) := by
  have hm := Moves.refl s₀
  refine answered ?_
  repeat' first
    | with_reducible assumption
    | (extract_lets +onlyGivenNames x; refine (fun (hx : Moves s₀ x) => ?_) ?_; clear_value x; rotate_left; subst x; rotate_right)
    | (extract_lets +onlyGivenNames x; refine (fun (hx : Moves s₀ x.1) => ?_) ?_; clear_value x; rotate_left; subst x; rotate_right)
    | (extract_lets +onlyGivenNames x; first | clear_value x | subst x)
    | with_reducible apply State.icComplete_moves
    | split
    | dsimp only

@[simp] theorem execIcHoldoffExpiry_moves {s₀ : State} {g t : Nat} :
    Answered s₀ (execIcHoldoffExpiry g t s₀) := by
  have hm := Moves.refl s₀
  refine answered ?_
  repeat' first
    | with_reducible assumption
    | split
    | dsimp only
    | (conv => arg 2; arg 73; skip
       with_reducible apply Moves.mk)

theorem State.releaseHold_moves {s₀ : State} {s : State} {g : Nat} (hm : Moves s₀ s) :
    Moves s₀ (State.releaseHold s g) := by
  unfold State.releaseHold
  repeat' first
    | with_reducible assumption
    | (extract_lets +onlyGivenNames x; refine (fun (hx : Moves s₀ x) => ?_) ?_; clear_value x; rotate_left; subst x; rotate_right)
    | (extract_lets +onlyGivenNames x; refine (fun (hx : Moves s₀ x.1) => ?_) ?_; clear_value x; rotate_left; subst x; rotate_right)
    | (extract_lets +onlyGivenNames x; first | clear_value x | subst x)
    | with_reducible apply State.setReg_moves
    | split
    | (conv => arg 2; arg 73; skip
       with_reducible apply Moves.mk)

theorem doHoldWrite_moves {s₀ : State} {data : Word} {s : State} (hm : Moves s₀ s) :
    Moves s₀ (doHoldWrite data s) := by
  unfold doHoldWrite
  repeat' first
    | with_reducible assumption
    | (intro _; intros)
    | (extract_lets +onlyGivenNames x; refine (fun (hx : Moves s₀ x) => ?_) ?_; clear_value x; rotate_left; subst x; rotate_right)
    | (extract_lets +onlyGivenNames x; refine (fun (hx : Moves s₀ x.1) => ?_) ?_; clear_value x; rotate_left; subst x; rotate_right)
    | (extract_lets +onlyGivenNames x; first | clear_value x | subst x)
    | with_reducible apply moves_foldl
    | with_reducible apply moves_foldl_fst
    | with_reducible apply State.releaseHold_moves
    | with_reducible apply State.setReg_moves
    | split
    | (conv => arg 2; arg 73; skip
       with_reducible apply Moves.mk)

@[simp] theorem execIcHoldWrite_moves {s₀ : State} {i : Initiator} {data : Word} :
    Answered s₀ (execIcHoldWrite i data s₀) := by
  have hm := Moves.refl s₀
  refine answered ?_
  repeat' first
    | with_reducible assumption
    | with_reducible apply doHoldWrite_moves
    | with_reducible apply State.swWrite_moves
    | split

theorem doHoldTimeout_moves {s₀ : State} {g : Nat} {s : State} (hm : Moves s₀ s) :
    Moves s₀ (doHoldTimeout g s) := by
  unfold doHoldTimeout
  repeat' first
    | with_reducible assumption
    | with_reducible apply State.count_moves
    | with_reducible apply State.putBit_moves
    | with_reducible apply State.releaseHold_moves
    | with_reducible apply State.setBit_moves
    | split

@[simp] theorem execIcHoldTimeout_moves {s₀ : State} {g : Nat} :
    Answered s₀ (execIcHoldTimeout g s₀) := by
  have hm := Moves.refl s₀
  refine answered ?_
  repeat' first
    | with_reducible assumption
    | with_reducible apply doHoldTimeout_moves
    | split

theorem doClaim_moves {s₀ : State} {i : Initiator} {off : Nat} {s : State} (hm : Moves s₀ s) :
    Moves s₀ (doClaim i off s) := by
  unfold doClaim
  repeat' first
    | with_reducible assumption
    | (extract_lets +onlyGivenNames x; refine (fun (hx : Moves s₀ x) => ?_) ?_; clear_value x; rotate_left; subst x; rotate_right)
    | (extract_lets +onlyGivenNames x; refine (fun (hx : Moves s₀ x.1) => ?_) ?_; clear_value x; rotate_left; subst x; rotate_right)
    | (extract_lets +onlyGivenNames x; first | clear_value x | subst x)
    | split
    | dsimp only
    | (conv => arg 2; arg 73; skip
       with_reducible apply Moves.mk)

end Sys2Proof.Machine
end

