-- ==== Sys2Proof/Laws/MovesFrameMemory.lean ====
section
/-! SUPPORT. What the operations of Machine/FrameMemory.lean can do to the memories, the register file, the key slots and the queue: moves, and nothing
else. -/

namespace Sys2Proof.Machine

theorem State.fmCount_moves {s₀ : State} {s : State} {k n : Nat} (hm : Moves s₀ s) :
    Moves s₀ (State.fmCount s k n) := by
  unfold State.fmCount
  repeat' first
    | with_reducible assumption
    | with_reducible apply State.countN_moves
    | with_reducible apply State.setBit_moves
    | split

theorem State.fmBurst_moves {s₀ : State} {s : State} {b : Nat} (hm : Moves s₀ s) :
    Moves s₀ (State.fmBurst s b) := by
  unfold State.fmBurst
  repeat' first
    | with_reducible assumption
    | (extract_lets +onlyGivenNames x; refine (fun (hx : Moves s₀ x) => ?_) ?_; clear_value x; rotate_left; subst x; rotate_right)
    | (extract_lets +onlyGivenNames x; refine (fun (hx : Moves s₀ x.1) => ?_) ?_; clear_value x; rotate_left; subst x; rotate_right)
    | (extract_lets +onlyGivenNames x; first | clear_value x | subst x)
    | with_reducible apply State.fmCount_moves
    | split
    | (conv => arg 2; arg 73; skip
       with_reducible apply Moves.mk)

theorem State.fmFence_moves {s₀ : State} {s : State} {c : Nat} (hm : Moves s₀ s) :
    Moves s₀ (State.fmFence s c) := by
  unfold State.fmFence
  repeat' first
    | with_reducible assumption
    | (extract_lets +onlyGivenNames x; refine (fun (hx : Moves s₀ x) => ?_) ?_; clear_value x; rotate_left; subst x; rotate_right)
    | (extract_lets +onlyGivenNames x; refine (fun (hx : Moves s₀ x.1) => ?_) ?_; clear_value x; rotate_left; subst x; rotate_right)
    | (extract_lets +onlyGivenNames x; first | clear_value x | subst x)
    | with_reducible apply State.setFld_moves
    | split
    | (conv => arg 2; arg 73; skip
       with_reducible apply Moves.mk)

theorem State.fmReadBlock_moves {s₀ : State} {s : State} {b extra : Nat} (hm : Moves s₀ s) :
    Moves s₀ (State.fmReadBlock s b extra).1 := by
  unfold State.fmReadBlock
  repeat' first
    | with_reducible assumption
    | (extract_lets +onlyGivenNames x; refine (fun (hx : Moves s₀ x) => ?_) ?_; clear_value x; rotate_left; subst x; rotate_right)
    | (extract_lets +onlyGivenNames x; refine (fun (hx : Moves s₀ x.1) => ?_) ?_; clear_value x; rotate_left; subst x; rotate_right)
    | (extract_lets +onlyGivenNames x; first | clear_value x | subst x)
    | with_reducible apply State.fmBurst_moves
    | with_reducible apply State.fmCount_moves
    | with_reducible apply State.fmFence_moves
    | with_reducible apply State.raiseCorr_moves
    | with_reducible apply State.raiseError_moves
    | with_reducible apply State.setReg_moves
    | split
    | dsimp only
    | (conv => arg 2; arg 73; skip
       with_reducible apply Moves.mk)

theorem State.freeBytes_moves {s₀ : State} {s : State} {n : Nat} (hm : Moves s₀ s) :
    Moves s₀ (State.freeBytes s n).1 := by
  unfold State.freeBytes
  repeat' first
    | with_reducible assumption
    | (intro _; intros)
    | split
    | dsimp only
    | (conv => arg 2; arg 73; skip
       with_reducible apply Moves.mk)

theorem State.fmReadPart_moves {s₀ : State} {s : State} {a n extra : Nat} (hm : Moves s₀ s) :
    Moves s₀ (State.fmReadPart s a n extra).1 := by
  unfold State.fmReadPart
  repeat' first
    | with_reducible assumption
    | (rename _ = ((_ : State), _) => heq; have hk := congrArg Prod.fst heq; dsimp only at hk; subst hk; clear heq)
    | (extract_lets +onlyGivenNames x; refine (fun (hx : Moves s₀ x) => ?_) ?_; clear_value x; rotate_left; subst x; rotate_right)
    | (extract_lets +onlyGivenNames x; refine (fun (hx : Moves s₀ x.1) => ?_) ?_; clear_value x; rotate_left; subst x; rotate_right)
    | (extract_lets +onlyGivenNames x; first | clear_value x | subst x)
    | with_reducible apply State.fmReadBlock_moves
    | with_reducible apply State.freeBytes_moves
    | split
    | dsimp only
    | (conv => arg 2; arg 73; skip
       with_reducible apply Moves.mk)

theorem State.fmFetch_moves {s₀ : State} {s : State} {a extra : Nat} (hm : Moves s₀ s) :
    Moves s₀ (State.fmFetch s a extra).1 := by
  unfold State.fmFetch
  repeat' first
    | with_reducible assumption
    | with_reducible apply State.fmReadPart_moves
    | split
    | dsimp only

theorem State.fmRead_moves {s₀ : State} {lim n : Nat} {s : State} {a b : Nat} (h : Moves s₀ s) :
    Moves s₀ (State.fmRead lim n s a b).1 := by
  induction n generalizing s a b with
  | zero => exact h
  | succ n ih =>
    unfold State.fmRead
    split
    · exact h
    · dsimp only
      apply ih
      split
      · exact State.fmReadPart_moves h
      · exact h

theorem State.fmGet_moves {s₀ : State} {s : State} {a n : Nat} (hm : Moves s₀ s) :
    Moves s₀ (State.fmGet s a n).1 := by
  unfold State.fmGet
  repeat' first
    | with_reducible assumption
    | with_reducible apply State.fmRead_moves
    | split
    | dsimp only

theorem State.fmShow_moves {s₀ : State} {s : State} {a n : Nat} (hm : Moves s₀ s) :
    Moves s₀ (State.fmShow s a n).1 := by
  unfold State.fmShow
  repeat' first
    | with_reducible assumption
    | with_reducible apply State.fmRead_moves
    | split
    | dsimp only

theorem State.fmWritePart_moves {s₀ : State} {s : State} {a : Nat} {bytes : List Nat} (hm : Moves s₀ s) :
    Moves s₀ (State.fmWritePart s a bytes) := by
  unfold State.fmWritePart
  repeat' first
    | with_reducible assumption
    | (extract_lets +onlyGivenNames x; refine (fun (hx : Moves s₀ x) => ?_) ?_; clear_value x; rotate_left; subst x; rotate_right)
    | (extract_lets +onlyGivenNames x; refine (fun (hx : Moves s₀ x.1) => ?_) ?_; clear_value x; rotate_left; subst x; rotate_right)
    | (extract_lets +onlyGivenNames x; first | clear_value x | subst x)
    | with_reducible apply State.fmBurst_moves
    | with_reducible apply State.fmReadBlock_moves
    | with_reducible apply State.setFld_moves
    | split
    | (conv => arg 2; arg 73; skip
       with_reducible apply Moves.mk)
    | (conv => arg 2; arg 73; skip
       with_reducible apply Moves.mkFm)

theorem State.fmWrite_moves {s₀ : State} {lim : Nat} {y0 : Nat} {y1 : State} {y2 : Nat} {y3 : List Nat} (hm : Moves s₀ y1) :
    Moves s₀ (State.fmWrite lim y0 y1 y2 y3) := by
  induction y0 generalizing y1 y2 y3 with
  | zero =>
    unfold State.fmWrite
    repeat' first
      | with_reducible assumption
      | (extract_lets +onlyGivenNames x; refine (fun (hx : Moves s₀ x) => ?_) ?_; clear_value x; rotate_left; subst x; rotate_right)
      | (extract_lets +onlyGivenNames x; refine (fun (hx : Moves s₀ x.1) => ?_) ?_; clear_value x; rotate_left; subst x; rotate_right)
      | (extract_lets +onlyGivenNames x; first | clear_value x | subst x)
      | with_reducible apply State.fmWritePart_moves
      | split
  | succ n ih =>
    unfold State.fmWrite
    repeat' first
      | with_reducible assumption
      | (extract_lets +onlyGivenNames x; refine (fun (hx : Moves s₀ x) => ?_) ?_; clear_value x; rotate_left; subst x; rotate_right)
      | (extract_lets +onlyGivenNames x; refine (fun (hx : Moves s₀ x.1) => ?_) ?_; clear_value x; rotate_left; subst x; rotate_right)
      | (extract_lets +onlyGivenNames x; first | clear_value x | subst x)
      | with_reducible apply ih
      | with_reducible apply State.fmWritePart_moves
      | split

theorem State.fmPut_moves {s₀ : State} {s : State} {a : Nat} {bytes : List Nat} (hm : Moves s₀ s) :
    Moves s₀ (State.fmPut s a bytes) := by
  unfold State.fmPut
  repeat' first
    | with_reducible assumption
    | with_reducible apply State.fmWrite_moves
    | split

theorem State.fmPlace_moves {s₀ : State} {s : State} {a : Nat} {bytes : List Nat} (hm : Moves s₀ s) :
    Moves s₀ (State.fmPlace s a bytes) := by
  unfold State.fmPlace
  repeat' first
    | with_reducible assumption
    | with_reducible apply State.fmWrite_moves
    | split

theorem doFmReadComplete_moves {s₀ : State} {a syms repeats : Nat} {ahead : Bool} {s : State} (hm : Moves s₀ s) :
    Moves s₀ (doFmReadComplete a syms repeats ahead s) := by
  unfold doFmReadComplete
  repeat' first
    | with_reducible assumption
    | (extract_lets +onlyGivenNames x; refine (fun (hx : Moves s₀ x) => ?_) ?_; clear_value x; rotate_left; subst x; rotate_right)
    | (extract_lets +onlyGivenNames x; refine (fun (hx : Moves s₀ x.1) => ?_) ?_; clear_value x; rotate_left; subst x; rotate_right)
    | (extract_lets +onlyGivenNames x; first | clear_value x | subst x)
    | with_reducible apply State.fmReadBlock_moves
    | split
    | (conv => arg 2; arg 73; skip
       with_reducible apply Moves.mk)

@[simp] theorem execFmReadComplete_moves {s₀ : State} {a syms : Nat} {bursts : FmBursts} :
    Answered s₀ (execFmReadComplete a syms bursts s₀) := by
  have hm := Moves.refl s₀
  refine answered ?_
  repeat' first
    | with_reducible assumption
    | (extract_lets +onlyGivenNames x; refine (fun (hx : Moves s₀ x) => ?_) ?_; clear_value x; rotate_left; subst x; rotate_right)
    | (extract_lets +onlyGivenNames x; refine (fun (hx : Moves s₀ x.1) => ?_) ?_; clear_value x; rotate_left; subst x; rotate_right)
    | (extract_lets +onlyGivenNames x; first | clear_value x | subst x)
    | with_reducible apply doFmReadComplete_moves
    | split
    | dsimp only

theorem doFmFenceComplete_moves {s₀ : State} {c : Nat} {s : State} (hm : Moves s₀ s) :
    Moves s₀ (doFmFenceComplete c s) := by
  unfold doFmFenceComplete
  repeat' first
    | with_reducible assumption
    | with_reducible apply State.log_moves
    | with_reducible apply State.setBit_moves
    | split
    | (conv => arg 2; arg 73; skip
       with_reducible apply Moves.mk)

@[simp] theorem execFmFenceComplete_moves {s₀ : State} {c : Nat} :
    Answered s₀ (execFmFenceComplete c s₀) := by
  have hm := Moves.refl s₀
  refine answered ?_
  repeat' first
    | with_reducible assumption
    | (extract_lets +onlyGivenNames x; refine (fun (hx : Moves s₀ x) => ?_) ?_; clear_value x; rotate_left; subst x; rotate_right)
    | (extract_lets +onlyGivenNames x; refine (fun (hx : Moves s₀ x.1) => ?_) ?_; clear_value x; rotate_left; subst x; rotate_right)
    | (extract_lets +onlyGivenNames x; first | clear_value x | subst x)
    | with_reducible apply doFmFenceComplete_moves
    | split
    | dsimp only

theorem State.fmFailed_moves {s₀ : State} {s : State} {mask : Nat} (hm : Moves s₀ s) :
    Moves s₀ (State.fmFailed s mask) := by
  unfold State.fmFailed
  repeat' first
    | with_reducible assumption
    | (intro _; intros)
    | with_reducible apply moves_foldl
    | with_reducible apply moves_foldl_fst
    | with_reducible apply State.fmFence_moves
    | with_reducible apply State.raiseError_moves
    | split

theorem doFmStart_moves {s₀ : State} {failed : Nat} {s : State} (hm : Moves s₀ s) :
    Moves s₀ (doFmStart failed s) := by
  unfold doFmStart
  repeat' first
    | with_reducible assumption
    | (intro _; intros)
    | (extract_lets +onlyGivenNames x; refine (fun (hx : Moves s₀ x) => ?_) ?_; clear_value x; rotate_left; subst x; rotate_right)
    | (extract_lets +onlyGivenNames x; refine (fun (hx : Moves s₀ x.1) => ?_) ?_; clear_value x; rotate_left; subst x; rotate_right)
    | (extract_lets +onlyGivenNames x; first | clear_value x | subst x)
    | with_reducible apply moves_foldl
    | with_reducible apply moves_foldl_fst
    | with_reducible apply State.fmFailed_moves
    | with_reducible apply State.setFld_moves
    | split
    | (conv => arg 2; arg 73; skip
       with_reducible apply Moves.mk)
    | (conv => arg 2; arg 73; skip
       with_reducible apply Moves.mkFmClear)

@[simp] theorem execFmStart_moves {s₀ : State} {failed : Nat} :
    Answered s₀ (execFmStart failed s₀) := by
  have hm := Moves.refl s₀
  refine answered ?_
  repeat' first
    | with_reducible assumption
    | with_reducible apply doFmStart_moves
    | split

theorem doFmRetrain_moves {s₀ : State} {c : Nat} {ok : Bool} {s : State} (hm : Moves s₀ s) :
    Moves s₀ (doFmRetrain c ok s) := by
  unfold doFmRetrain
  repeat' first
    | with_reducible assumption
    | (extract_lets +onlyGivenNames x; refine (fun (hx : Moves s₀ x) => ?_) ?_; clear_value x; rotate_left; subst x; rotate_right)
    | (extract_lets +onlyGivenNames x; refine (fun (hx : Moves s₀ x.1) => ?_) ?_; clear_value x; rotate_left; subst x; rotate_right)
    | (extract_lets +onlyGivenNames x; first | clear_value x | subst x)
    | with_reducible apply State.fmFailed_moves
    | split
    | (conv => arg 2; arg 73; skip
       with_reducible apply Moves.mk)

@[simp] theorem execFmRetrain_moves {s₀ : State} {c : Nat} {ok : Bool} :
    Answered s₀ (execFmRetrain c ok s₀) := by
  have hm := Moves.refl s₀
  refine answered ?_
  repeat' first
    | with_reducible assumption
    | with_reducible apply doFmRetrain_moves
    | split

theorem doFmScrub_moves {s₀ : State} {syms : Nat} {s : State} (hm : Moves s₀ s) :
    Moves s₀ (doFmScrub syms s) := by
  unfold doFmScrub
  repeat' first
    | with_reducible assumption
    | (extract_lets +onlyGivenNames x; refine (fun (hx : Moves s₀ x) => ?_) ?_; clear_value x; rotate_left; subst x; rotate_right)
    | (extract_lets +onlyGivenNames x; refine (fun (hx : Moves s₀ x.1) => ?_) ?_; clear_value x; rotate_left; subst x; rotate_right)
    | (extract_lets +onlyGivenNames x; first | clear_value x | subst x)
    | with_reducible apply State.fmCount_moves
    | with_reducible apply State.fmReadBlock_moves
    | with_reducible apply State.setFld_moves
    | split
    | (conv => arg 2; arg 73; skip
       with_reducible apply Moves.mk)

@[simp] theorem execFmScrubRead_moves {s₀ : State} {syms : Nat} :
    Answered s₀ (execFmScrubRead syms s₀) := by
  have hm := Moves.refl s₀
  refine answered ?_
  repeat' first
    | with_reducible assumption
    | with_reducible apply doFmScrub_moves
    | split

theorem State.fmInject_moves {s₀ : State} {s : State} {data : Word} (hm : Moves s₀ s) :
    Moves s₀ (State.fmInject s data) := by
  unfold State.fmInject
  repeat' first
    | with_reducible assumption
    | (extract_lets +onlyGivenNames x; refine (fun (hx : Moves s₀ x) => ?_) ?_; clear_value x; rotate_left; subst x; rotate_right)
    | (extract_lets +onlyGivenNames x; refine (fun (hx : Moves s₀ x.1) => ?_) ?_; clear_value x; rotate_left; subst x; rotate_right)
    | (extract_lets +onlyGivenNames x; first | clear_value x | subst x)
    | with_reducible apply State.setReg_moves
    | split

@[simp] theorem execFmInject_moves {s₀ : State} {i : Initiator} {data : Word} :
    Answered s₀ (execFmInject i data s₀) := by
  have hm := Moves.refl s₀
  refine answered ?_
  repeat' first
    | with_reducible assumption
    | (intro _; intros)
    | with_reducible apply State.fmInject_moves
    | with_reducible apply State.swWrite_moves
    | split

@[simp] theorem execFmInjectDisarm_moves {s₀ : State} {i : Initiator} {data : Word} :
    Answered s₀ (execFmInjectDisarm i data s₀) := by
  have hm := Moves.refl s₀
  refine answered ?_
  repeat' first
    | with_reducible assumption
    | (intro _; intros)
    | with_reducible apply State.fmInject_moves
    | with_reducible apply State.swWrite_moves
    | split

end Sys2Proof.Machine
end

