-- ==== Sys2Proof/Laws/MovesRecipe.lean ====
section
/-! SUPPORT. What the operations of Machine/Recipe.lean can do to the memories, the register file, the key slots and the queue: moves, and nothing
else. -/

namespace Sys2Proof.Machine

theorem State.pvLoadingBit_moves {s₀ : State} {s : State} {p : Nat} {b : Bool} (hm : Moves s₀ s) :
    Moves s₀ (State.pvLoadingBit s p b) := by
  unfold State.pvLoadingBit
  repeat' first
    | with_reducible assumption
    | with_reducible apply State.putBit_moves
    | split

theorem State.pvPendingBit_moves {s₀ : State} {s : State} {p : Nat} {b : Bool} (hm : Moves s₀ s) :
    Moves s₀ (State.pvPendingBit s p b) := by
  unfold State.pvPendingBit
  repeat' first
    | with_reducible assumption
    | with_reducible apply State.putBit_moves
    | split

theorem State.tryLoadStart_moves {s₀ : State} {s : State} {p : Nat} (hm : Moves s₀ s) :
    Moves s₀ (State.tryLoadStart s p) := by
  unfold State.tryLoadStart
  repeat' first
    | with_reducible assumption
    | (intro _; intros)
    | (extract_lets +onlyGivenNames x; refine (fun (hx : Moves s₀ x) => ?_) ?_; clear_value x; rotate_left; subst x; rotate_right)
    | (extract_lets +onlyGivenNames x; refine (fun (hx : Moves s₀ x.1) => ?_) ?_; clear_value x; rotate_left; subst x; rotate_right)
    | (extract_lets +onlyGivenNames x; first | clear_value x | subst x)
    | with_reducible apply moves_foldl
    | with_reducible apply moves_foldl_fst
    | with_reducible apply State.pvLoadingBit_moves
    | split
    | dsimp only
    | (conv => arg 2; arg 73; skip
       with_reducible apply Moves.mk)

theorem State.sendLoad_moves {s₀ : State} {s : State} {p outcome r : Nat} {places : Table Nat} (hm : Moves s₀ s) :
    Moves s₀ (State.sendLoad s p outcome r places) := by
  unfold State.sendLoad
  repeat' first
    | with_reducible assumption
    | (intro _; intros)
    | with_reducible apply moves_foldl
    | with_reducible apply moves_foldl_fst
    | with_reducible apply State.sendDec_moves
    | split

theorem State.abandonLoad_moves {s₀ : State} {s : State} {p : Nat} (hm : Moves s₀ s) :
    Moves s₀ (State.abandonLoad s p) := by
  unfold State.abandonLoad
  repeat' first
    | with_reducible assumption
    | (extract_lets +onlyGivenNames x; refine (fun (hx : Moves s₀ x) => ?_) ?_; clear_value x; rotate_left; subst x; rotate_right)
    | (extract_lets +onlyGivenNames x; refine (fun (hx : Moves s₀ x.1) => ?_) ?_; clear_value x; rotate_left; subst x; rotate_right)
    | (extract_lets +onlyGivenNames x; first | clear_value x | subst x)
    | with_reducible apply State.count_moves
    | with_reducible apply State.log_moves
    | with_reducible apply State.pvLoadingBit_moves
    | with_reducible apply State.sendLoad_moves
    | split
    | dsimp only
    | (conv => arg 2; arg 73; skip
       with_reducible apply Moves.mk)

theorem State.finishLoad_moves {s₀ : State} {s : State} {p : Nat} (hm : Moves s₀ s) :
    Moves s₀ (State.finishLoad s p) := by
  unfold State.finishLoad
  repeat' first
    | with_reducible assumption
    | (intro _; intros)
    | (extract_lets +onlyGivenNames x; refine (fun (hx : Moves s₀ x) => ?_) ?_; clear_value x; rotate_left; subst x; rotate_right)
    | (extract_lets +onlyGivenNames x; refine (fun (hx : Moves s₀ x.1) => ?_) ?_; clear_value x; rotate_left; subst x; rotate_right)
    | (extract_lets +onlyGivenNames x; first | clear_value x | subst x)
    | with_reducible apply State.pvLoadingBit_moves
    | with_reducible apply State.pvPendingBit_moves
    | with_reducible apply State.sendLoad_moves
    | split
    | dsimp only
    | (conv => arg 2; arg 73; skip
       with_reducible apply Moves.mk)

theorem State.takeStaged_moves {s₀ : State} {s : State} {p : Nat} {pick : Nat → Bool} (hm : Moves s₀ s) :
    Moves s₀ (State.takeStaged s p pick) := by
  unfold State.takeStaged
  repeat' first
    | with_reducible assumption
    | (intro _; intros)
    | (extract_lets +onlyGivenNames x; refine (fun (hx : Moves s₀ x) => ?_) ?_; clear_value x; rotate_left; subst x; rotate_right)
    | (extract_lets +onlyGivenNames x; refine (fun (hx : Moves s₀ x.1) => ?_) ?_; clear_value x; rotate_left; subst x; rotate_right)
    | (extract_lets +onlyGivenNames x; first | clear_value x | subst x)
    | with_reducible apply moves_foldl
    | with_reducible apply moves_foldl_fst
    | with_reducible apply State.loadWrite_moves
    | with_reducible apply State.pvPendingBit_moves
    | split
    | (conv => arg 2; arg 73; skip
       with_reducible apply Moves.mk)

theorem State.swapAt_moves {s₀ : State} {s : State} {ch idx owner : Nat} {also : List Nat} {before : Bool} (hm : Moves s₀ s) :
    Moves s₀ (State.swapAt s ch idx owner also before) := by
  unfold State.swapAt
  repeat' first
    | with_reducible assumption
    | (intro _; intros)
    | (extract_lets +onlyGivenNames x; refine (fun (hx : Moves s₀ x) => ?_) ?_; clear_value x; rotate_left; subst x; rotate_right)
    | (extract_lets +onlyGivenNames x; refine (fun (hx : Moves s₀ x.1) => ?_) ?_; clear_value x; rotate_left; subst x; rotate_right)
    | (extract_lets +onlyGivenNames x; first | clear_value x | subst x)
    | with_reducible apply moves_foldl
    | with_reducible apply moves_foldl_fst
    | with_reducible apply State.setFld_moves
    | with_reducible apply State.takeStaged_moves
    | split
    | dsimp only
    | (conv => arg 2; arg 73; skip
       with_reducible apply Moves.mk)

theorem State.recordLatch_moves {s₀ : State} {s : State} {idx doc r : Nat} (hm : Moves s₀ s) :
    Moves s₀ (State.recordLatch s idx doc r) := by
  unfold State.recordLatch
  repeat' first
    | with_reducible assumption
    | (extract_lets +onlyGivenNames x; refine (fun (hx : Moves s₀ x) => ?_) ?_; clear_value x; rotate_left; subst x; rotate_right)
    | (extract_lets +onlyGivenNames x; refine (fun (hx : Moves s₀ x.1) => ?_) ?_; clear_value x; rotate_left; subst x; rotate_right)
    | (extract_lets +onlyGivenNames x; first | clear_value x | subst x)
    | with_reducible apply State.setFld_moves
    | split
    | (conv => arg 2; arg 73; skip
       with_reducible apply Moves.mk)

theorem State.latchHere_moves {s₀ : State} {s : State} {idx doc : Nat} (hm : Moves s₀ s) :
    Moves s₀ (State.latchHere s idx doc) := by
  unfold State.latchHere
  repeat' first
    | with_reducible assumption
    | (extract_lets +onlyGivenNames x; refine (fun (hx : Moves s₀ x) => ?_) ?_; clear_value x; rotate_left; subst x; rotate_right)
    | (extract_lets +onlyGivenNames x; refine (fun (hx : Moves s₀ x.1) => ?_) ?_; clear_value x; rotate_left; subst x; rotate_right)
    | (extract_lets +onlyGivenNames x; first | clear_value x | subst x)
    | with_reducible apply State.count_moves
    | with_reducible apply State.log_moves
    | with_reducible apply State.recordLatch_moves
    | with_reducible apply State.sendDec_moves
    | split

theorem State.latchPoint_moves {s₀ : State} {s : State} {n idx doc : Nat} (hm : Moves s₀ s) :
    Moves s₀ (State.latchPoint s n idx doc) := by
  unfold State.latchPoint
  repeat' first
    | with_reducible assumption
    | (intro _; intros)
    | with_reducible apply State.latchHere_moves
    | split
    | (conv => arg 2; arg 73; skip
       with_reducible apply Moves.mk)

@[simp] theorem execRecipeLoadDone_moves {s₀ : State} {p : Nat} :
    Answered s₀ (execRecipeLoadDone p s₀) := by
  have hm := Moves.refl s₀
  refine answered ?_
  repeat' first
    | with_reducible assumption
    | with_reducible apply State.finishLoad_moves
    | split

end Sys2Proof.Machine
end

