-- ==== Sys2Proof/Laws/MovesLinear.lean ====
section
/-! SUPPORT. What the operations of Machine/Linear.lean can do to the memories, the register file, the key slots and the queue: moves, and nothing
else. -/

namespace Sys2Proof.Machine

theorem State.setLuWord_moves {s₀ : State} {s : State} {lu a : Nat} {w : Word} (hm : Moves s₀ s) :
    Moves s₀ (State.setLuWord s lu a w) := by
  unfold State.setLuWord
  repeat' first
    | with_reducible assumption
    | split
    | (conv => arg 2; arg 73; skip
       with_reducible apply Moves.mk)

theorem State.luItem_moves {s₀ : State} {s : State} {lu c doc : Nat} (hm : Moves s₀ s) :
    Moves s₀ (State.luItem s lu c doc) := by
  unfold State.luItem
  repeat' first
    | with_reducible assumption
    | (extract_lets +onlyGivenNames x; refine (fun (hx : Moves s₀ x) => ?_) ?_; clear_value x; rotate_left; subst x; rotate_right)
    | (extract_lets +onlyGivenNames x; refine (fun (hx : Moves s₀ x.1) => ?_) ?_; clear_value x; rotate_left; subst x; rotate_right)
    | (extract_lets +onlyGivenNames x; first | clear_value x | subst x)
    | with_reducible apply State.setFld_moves
    | split
    | (conv => arg 2; arg 73; skip
       with_reducible apply Moves.mk)

theorem State.luCount_moves {s₀ : State} {s : State} {lu k n : Nat} (hm : Moves s₀ s) :
    Moves s₀ (State.luCount s lu k n) := by
  unfold State.luCount
  repeat' first
    | with_reducible assumption
    | with_reducible apply State.countN_moves
    | with_reducible apply State.setBit_moves
    | split

theorem State.luDark_moves {s₀ : State} {s : State} {lu c : Nat} {l : Line} {cols : List Nat} (hm : Moves s₀ s) :
    Moves s₀ (State.luDark s lu c l cols).1 := by
  unfold State.luDark
  repeat' first
    | with_reducible assumption
    | (extract_lets +onlyGivenNames x; refine (fun (hx : Moves s₀ x) => ?_) ?_; clear_value x; rotate_left; subst x; rotate_right)
    | (extract_lets +onlyGivenNames x; refine (fun (hx : Moves s₀ x.1) => ?_) ?_; clear_value x; rotate_left; subst x; rotate_right)
    | (extract_lets +onlyGivenNames x; first | clear_value x | subst x)
    | with_reducible apply State.setFld_moves
    | split
    | dsimp only
    | (conv => arg 2; arg 73; skip
       with_reducible apply Moves.mk)

theorem State.luProcess_moves {s₀ : State} {s : State} {lu c : Nat} {l : Line} {tblCorr : Nat} {tblBad lutBad : List Nat} (hm : Moves s₀ s) :
    Moves s₀ (State.luProcess s lu c l tblCorr tblBad lutBad).1 := by
  unfold State.luProcess
  repeat' first
    | with_reducible assumption
    | (intro _; intros)
    | (extract_lets +onlyGivenNames x; refine (fun (hx : Moves s₀ x) => ?_) ?_; clear_value x; rotate_left; subst x; rotate_right)
    | (extract_lets +onlyGivenNames x; refine (fun (hx : Moves s₀ x.1) => ?_) ?_; clear_value x; rotate_left; subst x; rotate_right)
    | (extract_lets +onlyGivenNames x; first | clear_value x | subst x)
    | with_reducible apply moves_foldl
    | with_reducible apply moves_foldl_fst
    | with_reducible apply State.draw_moves
    | with_reducible apply State.luCount_moves
    | with_reducible apply State.luDark_moves
    | with_reducible apply State.raiseCorrs_moves
    | with_reducible apply State.raiseErrors_moves
    | split
    | dsimp only
    | (conv => arg 2; arg 73; skip
       with_reducible apply Moves.mk)

theorem State.tblAdvance_moves {s₀ : State} {s : State} {lu : Nat} (hm : Moves s₀ s) :
    Moves s₀ (State.tblAdvance s lu) := by
  unfold State.tblAdvance
  repeat' first
    | with_reducible assumption
    | (extract_lets +onlyGivenNames x; refine (fun (hx : Moves s₀ x) => ?_) ?_; clear_value x; rotate_left; subst x; rotate_right)
    | (extract_lets +onlyGivenNames x; refine (fun (hx : Moves s₀ x.1) => ?_) ?_; clear_value x; rotate_left; subst x; rotate_right)
    | (extract_lets +onlyGivenNames x; first | clear_value x | subst x)
    | with_reducible apply State.setFld_moves
    | split

theorem doTblWrite_moves {s₀ : State} {lu : Nat} {data : Word} {s : State} (hm : Moves s₀ s) :
    Moves s₀ (doTblWrite lu data s) := by
  unfold doTblWrite
  repeat' first
    | with_reducible assumption
    | with_reducible apply State.setLuWord_moves
    | with_reducible apply State.tblAdvance_moves
    | split

@[simp] theorem execTblDataWrite_moves {s₀ : State} {i : Initiator} {lu : Nat} {data : Word} :
    Answered s₀ (execTblDataWrite i lu data s₀) := by
  have hm := Moves.refl s₀
  refine answered ?_
  repeat' first
    | with_reducible assumption
    | with_reducible apply doTblWrite_moves
    | with_reducible apply State.swWrite_moves
    | split

@[simp] theorem execTblDataRead_moves {s₀ : State} {i : Initiator} {lu : Nat} :
    Answered s₀ (execTblDataRead i lu s₀) := by
  have hm := Moves.refl s₀
  refine answered ?_
  repeat' first
    | with_reducible assumption
    | (intro _; intros)
    | with_reducible apply State.swRead_moves
    | with_reducible apply State.tblAdvance_moves
    | split

end Sys2Proof.Machine
end

