-- ==== Sys2Proof/Laws/MovesPergola.lean ====
section
/-! SUPPORT. What the operations of Machine/Pergola.lean can do to the memories, the register file, the key slots and the queue: moves, and nothing
else. -/

namespace Sys2Proof.Machine

theorem State.setWaiting_moves {s₀ : State} {s : State} {kind n ch : Nat} {l : List Item} (hm : Moves s₀ s) :
    Moves s₀ (State.setWaiting s kind n ch l) := by
  unfold State.setWaiting
  repeat' first
    | with_reducible assumption
    | split
    | (conv => arg 2; arg 73; skip
       with_reducible apply Moves.mk)

theorem State.modChan_moves {s₀ : State} {s : State} {ch : Nat} {f : ChanSt → ChanSt} (hm : Moves s₀ s) :
    Moves s₀ (State.modChan s ch f) := by
  unfold State.modChan
  repeat' first
    | with_reducible assumption
    | split
    | (conv => arg 2; arg 73; skip
       with_reducible apply Moves.mk)

theorem State.leaveFirst_moves {s₀ : State} {s : State} {kind n ch : Nat} {it : Item} (hm : Moves s₀ s) :
    Moves s₀ (State.leaveFirst s kind n ch it) := by
  unfold State.leaveFirst
  repeat' first
    | with_reducible assumption
    | (intro _; intros)
    | with_reducible apply State.modChan_moves
    | split
    | (conv => arg 2; arg 73; skip
       with_reducible apply Moves.mk)

theorem State.entered_moves {s₀ : State} {s : State} {ch : Nat} {it : Item} (hm : Moves s₀ s) :
    Moves s₀ (State.entered s ch it) := by
  unfold State.entered
  repeat' first
    | with_reducible assumption
    | (intro _; intros)
    | (extract_lets +onlyGivenNames x; refine (fun (hx : Moves s₀ x) => ?_) ?_; clear_value x; rotate_left; subst x; rotate_right)
    | (extract_lets +onlyGivenNames x; refine (fun (hx : Moves s₀ x.1) => ?_) ?_; clear_value x; rotate_left; subst x; rotate_right)
    | (extract_lets +onlyGivenNames x; first | clear_value x | subst x)
    | with_reducible apply State.abandonLoad_moves
    | with_reducible apply State.modChan_moves
    | with_reducible apply State.tryLoadStart_moves
    | split
    | dsimp only
    | (conv => arg 2; arg 73; skip
       with_reducible apply Moves.mk)

theorem State.enteredAt_moves {s₀ : State} {s : State} {kind n ch : Nat} {it : Item} (hm : Moves s₀ s) :
    Moves s₀ (State.enteredAt s kind n ch it) := by
  unfold State.enteredAt
  repeat' first
    | with_reducible assumption
    | with_reducible apply State.entered_moves
    | split

theorem State.markerIn_moves {s₀ : State} {s : State} {kind n ch : Nat} {m : Marker} (hm : Moves s₀ s) :
    Moves s₀ (State.markerIn s kind n ch m) := by
  unfold State.markerIn
  repeat' first
    | with_reducible assumption
    | with_reducible apply State.enteredAt_moves
    | with_reducible apply State.leaveFirst_moves
    | split

theorem State.showChan_moves {s₀ : State} {s : State} (hm : Moves s₀ s) :
    Moves s₀ (State.showChan s) := by
  unfold State.showChan
  repeat' first
    | with_reducible assumption
    | (extract_lets +onlyGivenNames x; refine (fun (hx : Moves s₀ x) => ?_) ?_; clear_value x; rotate_left; subst x; rotate_right)
    | (extract_lets +onlyGivenNames x; refine (fun (hx : Moves s₀ x.1) => ?_) ?_; clear_value x; rotate_left; subst x; rotate_right)
    | (extract_lets +onlyGivenNames x; first | clear_value x | subst x)
    | with_reducible apply State.setFld_moves
    | with_reducible apply State.setReg_moves
    | split

theorem State.release_moves {s₀ : State} {s : State} {ch kib : Nat} (hm : Moves s₀ s) :
    Moves s₀ (State.release s ch kib) := by
  unfold State.release
  repeat' first
    | with_reducible assumption
    | (intro _; intros)
    | (extract_lets +onlyGivenNames x; refine (fun (hx : Moves s₀ x) => ?_) ?_; clear_value x; rotate_left; subst x; rotate_right)
    | (extract_lets +onlyGivenNames x; refine (fun (hx : Moves s₀ x.1) => ?_) ?_; clear_value x; rotate_left; subst x; rotate_right)
    | (extract_lets +onlyGivenNames x; first | clear_value x | subst x)
    | with_reducible apply State.modChan_moves
    | with_reducible apply State.setFld_moves
    | with_reducible apply State.showChan_moves
    | split
    | (conv => arg 2; arg 73; skip
       with_reducible apply Moves.mk)

theorem State.freeLine_moves {s₀ : State} {s : State} {kind n ch : Nat} {l : Line} (hm : Moves s₀ s) :
    Moves s₀ (State.freeLine s kind n ch l) := by
  unfold State.freeLine
  repeat' first
    | with_reducible assumption
    | with_reducible apply State.leaveFirst_moves
    | with_reducible apply State.release_moves
    | split

theorem State.luMarker_moves {s₀ : State} {s : State} {lu ch : Nat} {m : Marker} (hm : Moves s₀ s) :
    Moves s₀ (State.luMarker s lu ch m) := by
  unfold State.luMarker
  repeat' first
    | with_reducible assumption
    | (extract_lets +onlyGivenNames x; refine (fun (hx : Moves s₀ x) => ?_) ?_; clear_value x; rotate_left; subst x; rotate_right)
    | (extract_lets +onlyGivenNames x; refine (fun (hx : Moves s₀ x.1) => ?_) ?_; clear_value x; rotate_left; subst x; rotate_right)
    | (extract_lets +onlyGivenNames x; first | clear_value x | subst x)
    | with_reducible apply State.luItem_moves
    | with_reducible apply State.markerIn_moves
    | split
    | dsimp only
    | (conv => arg 2; arg 73; skip
       with_reducible apply Moves.mk)

theorem State.sendTo_moves {s₀ : State} {s : State} {ch : Nat} {it : Item} {y0 : List Nat} (hm : Moves s₀ s) :
    Moves s₀ (State.sendTo s ch it y0) := by
  induction y0 generalizing s with
  | nil =>
    unfold State.sendTo
    repeat' first
      | with_reducible assumption
      | (intro _; intros)
      | (extract_lets +onlyGivenNames x; refine (fun (hx : Moves s₀ x) => ?_) ?_; clear_value x; rotate_left; subst x; rotate_right)
      | (extract_lets +onlyGivenNames x; refine (fun (hx : Moves s₀ x.1) => ?_) ?_; clear_value x; rotate_left; subst x; rotate_right)
      | (extract_lets +onlyGivenNames x; first | clear_value x | subst x)
      | with_reducible apply State.freeLine_moves
      | with_reducible apply State.luMarker_moves
      | with_reducible apply State.markerIn_moves
      | with_reducible apply State.setWaiting_moves
      | split
      | dsimp only
      | (conv => arg 2; arg 73; skip
         with_reducible apply Moves.mk)
  | cons a l ih =>
    unfold State.sendTo
    repeat' first
      | with_reducible assumption
      | (intro _; intros)
      | (extract_lets +onlyGivenNames x; refine (fun (hx : Moves s₀ x) => ?_) ?_; clear_value x; rotate_left; subst x; rotate_right)
      | (extract_lets +onlyGivenNames x; refine (fun (hx : Moves s₀ x.1) => ?_) ?_; clear_value x; rotate_left; subst x; rotate_right)
      | (extract_lets +onlyGivenNames x; first | clear_value x | subst x)
      | with_reducible apply ih
      | with_reducible apply State.freeLine_moves
      | with_reducible apply State.luMarker_moves
      | with_reducible apply State.markerIn_moves
      | with_reducible apply State.setWaiting_moves
      | split
      | dsimp only
      | (conv => arg 2; arg 73; skip
         with_reducible apply Moves.mk)

theorem State.sendFirst_moves {s₀ : State} {s : State} {ch : Nat} {it : Item} (hm : Moves s₀ s) :
    Moves s₀ (State.sendFirst s ch it) := by
  unfold State.sendFirst
  repeat' first
    | with_reducible assumption
    | (intro _; intros)
    | with_reducible apply State.modChan_moves
    | with_reducible apply State.sendTo_moves
    | split
    | dsimp only
    | (conv => arg 2; arg 73; skip
       with_reducible apply Moves.mk)

theorem State.drainMarkers_moves {s₀ s : State} {lu ch : Nat} {l : List Item} (h : Moves s₀ s) :
    Moves s₀ (s.drainMarkers lu ch l) := by
  induction l generalizing s with
  | nil => exact h
  | cons a l ih =>
    cases a with
    | line _ => exact h
    | marker m => exact ih (State.sendTo_moves (State.luMarker_moves (State.setWaiting_moves h)))

theorem State.enterDrop_moves {s₀ : State} {s : State} {p : Nat} (hm : Moves s₀ s) :
    Moves s₀ (State.enterDrop s p) := by
  unfold State.enterDrop
  repeat' first
    | with_reducible assumption
    | (intro _; intros)
    | (extract_lets +onlyGivenNames x; refine (fun (hx : Moves s₀ x) => ?_) ?_; clear_value x; rotate_left; subst x; rotate_right)
    | (extract_lets +onlyGivenNames x; refine (fun (hx : Moves s₀ x.1) => ?_) ?_; clear_value x; rotate_left; subst x; rotate_right)
    | (extract_lets +onlyGivenNames x; first | clear_value x | subst x)
    | with_reducible apply State.setFld_moves
    | split
    | dsimp only
    | (conv => arg 2; arg 73; skip
       with_reducible apply Moves.mk)

theorem State.dropLine_moves {s₀ : State} {s : State} {ch reason : Nat} (hm : Moves s₀ s) :
    Moves s₀ (State.dropLine s ch reason) := by
  unfold State.dropLine
  repeat' first
    | with_reducible assumption
    | (intro _; intros)
    | (extract_lets +onlyGivenNames x; refine (fun (hx : Moves s₀ x) => ?_) ?_; clear_value x; rotate_left; subst x; rotate_right)
    | (extract_lets +onlyGivenNames x; refine (fun (hx : Moves s₀ x.1) => ?_) ?_; clear_value x; rotate_left; subst x; rotate_right)
    | (extract_lets +onlyGivenNames x; first | clear_value x | subst x)
    | with_reducible apply State.count_moves
    | with_reducible apply State.modChan_moves
    | with_reducible apply State.setReg_moves
    | with_reducible apply State.showChan_moves
    | split
    | (conv => arg 2; arg 73; skip
       with_reducible apply Moves.mk)

theorem State.admitLine_moves {s₀ : State} {s : State} {ch : Nat} {l : Line} (hm : Moves s₀ s) :
    Moves s₀ (State.admitLine s ch l) := by
  unfold State.admitLine
  repeat' first
    | with_reducible assumption
    | (intro _; intros)
    | (extract_lets +onlyGivenNames x; refine (fun (hx : Moves s₀ x) => ?_) ?_; clear_value x; rotate_left; subst x; rotate_right)
    | (extract_lets +onlyGivenNames x; refine (fun (hx : Moves s₀ x.1) => ?_) ?_; clear_value x; rotate_left; subst x; rotate_right)
    | (extract_lets +onlyGivenNames x; first | clear_value x | subst x)
    | with_reducible apply State.enterDrop_moves
    | with_reducible apply State.modChan_moves
    | with_reducible apply State.sendFirst_moves
    | with_reducible apply State.setFld_moves
    | with_reducible apply State.showChan_moves
    | split
    | (conv => arg 2; arg 73; skip
       with_reducible apply Moves.mk)

theorem State.shutLine_moves {s₀ : State} {s : State} {ch : Nat} {l : Line} (hm : Moves s₀ s) :
    Moves s₀ (State.shutLine s ch l) := by
  unfold State.shutLine
  repeat' first
    | with_reducible assumption
    | with_reducible apply State.entered_moves
    | split

theorem State.applyAdmission_moves {s₀ : State} {s : State} {ch : Nat} {l : Line} {shut : Bool} {outcome reason : Nat} (hm : Moves s₀ s) :
    Moves s₀ (State.applyAdmission s ch l shut outcome reason) := by
  unfold State.applyAdmission
  repeat' first
    | with_reducible assumption
    | with_reducible apply State.admitLine_moves
    | with_reducible apply State.dropLine_moves
    | with_reducible apply State.raiseError_moves
    | with_reducible apply State.setBit_moves
    | with_reducible apply State.shutLine_moves
    | split

theorem State.decideLine_moves {s₀ : State} {s : State} {ch seqNo : Nat} {l : Line} (hm : Moves s₀ s) :
    Moves s₀ (State.decideLine s ch seqNo l) := by
  unfold State.decideLine
  repeat' first
    | with_reducible assumption
    | with_reducible apply State.admitLine_moves
    | with_reducible apply State.dropLine_moves
    | with_reducible apply State.sendDec_moves
    | with_reducible apply State.shutLine_moves
    | split
    | dsimp only
    | (conv => arg 2; arg 73; skip
       with_reducible apply Moves.mk)

theorem State.beginLine_moves {s₀ : State} {s : State} {ch : Nat} {l : Line} (hm : Moves s₀ s) :
    Moves s₀ (State.beginLine s ch l) := by
  unfold State.beginLine
  repeat' first
    | with_reducible assumption
    | (intro _; intros)
    | (extract_lets +onlyGivenNames x; refine (fun (hx : Moves s₀ x) => ?_) ?_; clear_value x; rotate_left; subst x; rotate_right)
    | (extract_lets +onlyGivenNames x; refine (fun (hx : Moves s₀ x.1) => ?_) ?_; clear_value x; rotate_left; subst x; rotate_right)
    | (extract_lets +onlyGivenNames x; first | clear_value x | subst x)
    | with_reducible apply State.applyAdmission_moves
    | with_reducible apply State.decideLine_moves
    | with_reducible apply State.modChan_moves
    | split
    | dsimp only
    | (conv => arg 2; arg 73; skip
       with_reducible apply Moves.mk)

theorem State.passLine_moves {s₀ : State} {s : State} {ch : Nat} (hm : Moves s₀ s) :
    Moves s₀ (State.passLine s ch) := by
  unfold State.passLine
  repeat' first
    | with_reducible assumption
    | (intro _; intros)
    | (extract_lets +onlyGivenNames x; refine (fun (hx : Moves s₀ x) => ?_) ?_; clear_value x; rotate_left; subst x; rotate_right)
    | (extract_lets +onlyGivenNames x; refine (fun (hx : Moves s₀ x.1) => ?_) ?_; clear_value x; rotate_left; subst x; rotate_right)
    | (extract_lets +onlyGivenNames x; first | clear_value x | subst x)
    | with_reducible apply State.modChan_moves
    | split
    | (conv => arg 2; arg 73; skip
       with_reducible apply Moves.mk)

theorem State.sendMarker_moves {s₀ : State} {s : State} {ch : Nat} {m : Marker} (hm : Moves s₀ s) :
    Moves s₀ (State.sendMarker s ch m) := by
  unfold State.sendMarker
  repeat' first
    | with_reducible assumption
    | with_reducible apply State.entered_moves
    | with_reducible apply State.sendFirst_moves
    | split

theorem State.beginMarker_moves {s₀ : State} {s : State} {ch : Nat} {m : Marker} (hm : Moves s₀ s) :
    Moves s₀ (State.beginMarker s ch m) := by
  unfold State.beginMarker
  repeat' first
    | with_reducible assumption
    | (intro _; intros)
    | with_reducible apply State.modChan_moves
    | with_reducible apply State.sendMarker_moves
    | split
    | (conv => arg 2; arg 73; skip
       with_reducible apply Moves.mk)

theorem State.emptyUnit_moves {s₀ : State} {s : State} {kind n : Nat} (hm : Moves s₀ s) :
    Moves s₀ (State.emptyUnit s kind n) := by
  unfold State.emptyUnit
  repeat' first
    | with_reducible assumption
    | (intro _; intros)
    | (extract_lets +onlyGivenNames x; refine (fun (hx : Moves s₀ x) => ?_) ?_; clear_value x; rotate_left; subst x; rotate_right)
    | (extract_lets +onlyGivenNames x; refine (fun (hx : Moves s₀ x.1) => ?_) ?_; clear_value x; rotate_left; subst x; rotate_right)
    | (extract_lets +onlyGivenNames x; first | clear_value x | subst x)
    | with_reducible apply moves_foldl
    | with_reducible apply moves_foldl_fst
    | with_reducible apply State.freeLine_moves
    | with_reducible apply State.markerIn_moves
    | with_reducible apply State.sendTo_moves
    | with_reducible apply State.setWaiting_moves
    | split
    | dsimp only
    | (conv => arg 2; arg 73; skip
       with_reducible apply Moves.mk)

theorem State.grant_moves {s₀ : State} {s : State} {kind n : Nat} (hm : Moves s₀ s) :
    Moves s₀ (State.grant s kind n) := by
  unfold State.grant
  repeat' first
    | with_reducible assumption
    | (intro _; intros)
    | (extract_lets +onlyGivenNames x; refine (fun (hx : Moves s₀ x) => ?_) ?_; clear_value x; rotate_left; subst x; rotate_right)
    | (extract_lets +onlyGivenNames x; refine (fun (hx : Moves s₀ x.1) => ?_) ?_; clear_value x; rotate_left; subst x; rotate_right)
    | (extract_lets +onlyGivenNames x; first | clear_value x | subst x)
    | with_reducible apply moves_foldl
    | with_reducible apply moves_foldl_fst
    | with_reducible apply State.enteredAt_moves
    | with_reducible apply State.setWaiting_moves
    | split
    | dsimp only
    | (conv => arg 2; arg 73; skip
       with_reducible apply Moves.mk)

theorem State.resetPoint_moves {s₀ : State} {s : State} {kind : Nat} {n : Option Nat} (hm : Moves s₀ s) :
    Moves s₀ (State.resetPoint s kind n) := by
  unfold State.resetPoint
  repeat' first
    | with_reducible assumption
    | (intro _; intros)
    | split
    | dsimp only
    | (conv => arg 2; arg 73; skip
       with_reducible apply Moves.mk)

@[simp] theorem execPglGrant_moves {s₀ : State} {k : UnitKind} {n : Nat} :
    Answered s₀ (execPglGrant k n s₀) := by
  have hm := Moves.refl s₀
  refine answered ?_
  repeat' first
    | with_reducible assumption
    | with_reducible apply State.grant_moves
    | split

theorem State.readTaken_moves {s₀ : State} {s : State} {kind n : Nat} {gh : Ecc} (hm : Moves s₀ s) :
    Moves s₀ (State.readTaken s kind n gh).1 := by
  unfold State.readTaken
  repeat' first
    | with_reducible assumption
    | (extract_lets +onlyGivenNames x; refine (fun (hx : Moves s₀ x) => ?_) ?_; clear_value x; rotate_left; subst x; rotate_right)
    | (extract_lets +onlyGivenNames x; refine (fun (hx : Moves s₀ x.1) => ?_) ?_; clear_value x; rotate_left; subst x; rotate_right)
    | (extract_lets +onlyGivenNames x; first | clear_value x | subst x)
    | with_reducible apply State.count_moves
    | with_reducible apply State.countN_moves
    | with_reducible apply State.dropLine_moves
    | with_reducible apply State.freeLine_moves
    | with_reducible apply State.raiseCorrs_moves
    | with_reducible apply State.raiseError_moves
    | with_reducible apply State.setReg_moves
    | split
    | dsimp only
    | (conv => arg 2; arg 73; skip
       with_reducible apply Moves.mk)

theorem doAdmissionTimeout_moves {s₀ : State} {ch : Nat} {s : State} (hm : Moves s₀ s) :
    Moves s₀ (doAdmissionTimeout ch s) := by
  unfold doAdmissionTimeout
  repeat' first
    | with_reducible assumption
    | (intro _; intros)
    | (extract_lets +onlyGivenNames x; refine (fun (hx : Moves s₀ x) => ?_) ?_; clear_value x; rotate_left; subst x; rotate_right)
    | (extract_lets +onlyGivenNames x; refine (fun (hx : Moves s₀ x.1) => ?_) ?_; clear_value x; rotate_left; subst x; rotate_right)
    | (extract_lets +onlyGivenNames x; first | clear_value x | subst x)
    | with_reducible apply State.modChan_moves
    | with_reducible apply State.raiseErrors_moves
    | with_reducible apply State.setBit_moves
    | split
    | (conv => arg 2; arg 73; skip
       with_reducible apply Moves.mk)

@[simp] theorem execAdmissionDecisionTimeout_moves {s₀ : State} {ch : Nat} :
    Answered s₀ (execAdmissionDecisionTimeout ch s₀) := by
  have hm := Moves.refl s₀
  refine answered ?_
  repeat' first
    | with_reducible assumption
    | with_reducible apply doAdmissionTimeout_moves
    | split

theorem State.luPassed_moves {s₀ : State} {s : State} {lu ch : Nat} (hm : Moves s₀ s) :
    Moves s₀ (State.luPassed s lu ch) := by
  unfold State.luPassed
  repeat' first
    | with_reducible assumption
    | (extract_lets +onlyGivenNames x; refine (fun (hx : Moves s₀ x) => ?_) ?_; clear_value x; rotate_left; subst x; rotate_right)
    | (extract_lets +onlyGivenNames x; refine (fun (hx : Moves s₀ x.1) => ?_) ?_; clear_value x; rotate_left; subst x; rotate_right)
    | (extract_lets +onlyGivenNames x; first | clear_value x | subst x)
    | with_reducible apply State.drainMarkers_moves
    | split
    | dsimp only
    | (conv => arg 2; arg 73; skip
       with_reducible apply Moves.mk)

theorem doLuLine_moves {s₀ : State} {lu : Nat} {gh : Ecc} {tblCorr : Nat} {tblBad lutBad : List Nat} {s : State} (hm : Moves s₀ s) :
    Moves s₀ (doLuLine lu gh tblCorr tblBad lutBad s) := by
  unfold doLuLine
  repeat' first
    | with_reducible assumption
    | (rename _ = ((_ : State), _) => heq; have hk := congrArg Prod.fst heq; dsimp only at hk; subst hk; clear heq)
    | (extract_lets +onlyGivenNames x; refine (fun (hx : Moves s₀ x) => ?_) ?_; clear_value x; rotate_left; subst x; rotate_right)
    | (extract_lets +onlyGivenNames x; refine (fun (hx : Moves s₀ x.1) => ?_) ?_; clear_value x; rotate_left; subst x; rotate_right)
    | (extract_lets +onlyGivenNames x; first | clear_value x | subst x)
    | with_reducible apply State.luItem_moves
    | with_reducible apply State.luPassed_moves
    | with_reducible apply State.luProcess_moves
    | with_reducible apply State.readTaken_moves
    | with_reducible apply State.sendTo_moves
    | with_reducible apply State.swapAt_moves
    | split
    | dsimp only
    | (conv => arg 2; arg 73; skip
       with_reducible apply Moves.mk)

@[simp] theorem execLuLine_moves {s₀ : State} {lu : Nat} {gh : Ecc} {tblCorr : Nat} {tblBad lutBad : List Nat} :
    Answered s₀ (execLuLine lu gh tblCorr tblBad lutBad s₀) := by
  have hm := Moves.refl s₀
  refine answered ?_
  repeat' first
    | with_reducible assumption
    | with_reducible apply doLuLine_moves
    | split

end Sys2Proof.Machine
end

