-- ==== Sys2Proof/Laws/MovesStream.lean ====
section
/-! SUPPORT. What the operations of Machine/Stream.lean can do to the memories, the register file, the key slots and the queue: moves, and nothing
else. -/

namespace Sys2Proof.Machine

theorem State.modStream_moves {s₀ : State} {s : State} {n : Nat} {f : StreamSt → StreamSt} (hm : Moves s₀ s) :
    Moves s₀ (State.modStream s n f) := by
  unfold State.modStream
  repeat' first
    | with_reducible assumption
    | split
    | (conv => arg 2; arg 73; skip
       with_reducible apply Moves.mk)

theorem State.reroute_moves {s₀ : State} {s : State} {ch kind src dst : Nat} (hm : Moves s₀ s) :
    Moves s₀ (State.reroute s ch kind src dst) := by
  unfold State.reroute
  repeat' first
    | with_reducible assumption
    | with_reducible apply State.setFld_moves
    | split

theorem State.showSpare_moves {s₀ : State} {s : State} {ch : Nat} (hm : Moves s₀ s) :
    Moves s₀ (State.showSpare s ch) := by
  unfold State.showSpare
  repeat' first
    | with_reducible assumption
    | (intro _; intros)
    | with_reducible apply State.setFld_moves
    | split

theorem State.dropSpare_moves {s₀ : State} {s : State} {m : MoveSt} (hm : Moves s₀ s) :
    Moves s₀ (State.dropSpare s m) := by
  unfold State.dropSpare
  repeat' first
    | with_reducible assumption
    | (intro _; intros)
    | (extract_lets +onlyGivenNames x; refine (fun (hx : Moves s₀ x) => ?_) ?_; clear_value x; rotate_left; subst x; rotate_right)
    | (extract_lets +onlyGivenNames x; refine (fun (hx : Moves s₀ x.1) => ?_) ?_; clear_value x; rotate_left; subst x; rotate_right)
    | (extract_lets +onlyGivenNames x; first | clear_value x | subst x)
    | with_reducible apply State.pvPendingBit_moves
    | split
    | (conv => arg 2; arg 73; skip
       with_reducible apply Moves.mk)

theorem State.moveStep_moves {s₀ : State} {s : State} {m : MoveSt} (hm : Moves s₀ s) :
    Moves s₀ (State.moveStep s m).1 := by
  unfold State.moveStep
  repeat' first
    | with_reducible assumption
    | with_reducible apply State.dropSpare_moves
    | with_reducible apply State.reroute_moves
    | split
    | dsimp only
    | (conv => arg 2; arg 73; skip
       with_reducible apply Moves.mk)

theorem State.openMoves_moves {s₀ : State} {s : State} {n : Nat} (hm : Moves s₀ s) :
    Moves s₀ (State.openMoves s n) := by
  unfold State.openMoves
  repeat' first
    | with_reducible assumption
    | (intro _; intros)
    | (extract_lets +onlyGivenNames x; refine (fun (hx : Moves s₀ x) => ?_) ?_; clear_value x; rotate_left; subst x; rotate_right)
    | (extract_lets +onlyGivenNames x; refine (fun (hx : Moves s₀ x.1) => ?_) ?_; clear_value x; rotate_left; subst x; rotate_right)
    | (extract_lets +onlyGivenNames x; first | clear_value x | subst x)
    | with_reducible apply moves_foldl
    | with_reducible apply moves_foldl_fst
    | with_reducible apply State.modStream_moves
    | with_reducible apply State.moveStep_moves
    | with_reducible apply State.putBit_moves
    | with_reducible apply State.showSpare_moves
    | split
    | (conv => arg 2; arg 73; skip
       with_reducible apply Moves.mk)

theorem State.swapStream_moves {s₀ : State} {s : State} {n idx : Nat} (hm : Moves s₀ s) :
    Moves s₀ (State.swapStream s n idx) := by
  unfold State.swapStream
  repeat' first
    | with_reducible assumption
    | (intro _; intros)
    | (extract_lets +onlyGivenNames x; refine (fun (hx : Moves s₀ x) => ?_) ?_; clear_value x; rotate_left; subst x; rotate_right)
    | (extract_lets +onlyGivenNames x; refine (fun (hx : Moves s₀ x.1) => ?_) ?_; clear_value x; rotate_left; subst x; rotate_right)
    | (extract_lets +onlyGivenNames x; first | clear_value x | subst x)
    | with_reducible apply moves_foldl
    | with_reducible apply moves_foldl_fst
    | with_reducible apply State.reroute_moves
    | with_reducible apply State.resetPoint_moves
    | with_reducible apply State.swapAt_moves
    | split

theorem State.openDoc_moves {s₀ : State} {s : State} {n doc lead : Nat} (hm : Moves s₀ s) :
    Moves s₀ (State.openDoc s n doc lead) := by
  unfold State.openDoc
  repeat' first
    | with_reducible assumption
    | (intro _; intros)
    | (extract_lets +onlyGivenNames x; refine (fun (hx : Moves s₀ x) => ?_) ?_; clear_value x; rotate_left; subst x; rotate_right)
    | (extract_lets +onlyGivenNames x; refine (fun (hx : Moves s₀ x.1) => ?_) ?_; clear_value x; rotate_left; subst x; rotate_right)
    | (extract_lets +onlyGivenNames x; first | clear_value x | subst x)
    | with_reducible apply State.modStream_moves
    | with_reducible apply State.openMoves_moves
    | with_reducible apply State.setBit_moves
    | with_reducible apply State.setReg_moves
    | with_reducible apply State.swapStream_moves
    | split
    | (conv => arg 2; arg 73; skip
       with_reducible apply Moves.mk)

theorem State.endDoc_moves {s₀ : State} {s : State} {n used minL : Nat} {trunc : Bool} {trail : Option Nat} (hm : Moves s₀ s) :
    Moves s₀ (State.endDoc s n used minL trunc trail) := by
  unfold State.endDoc
  repeat' first
    | with_reducible assumption
    | (intro _; intros)
    | (extract_lets +onlyGivenNames x; refine (fun (hx : Moves s₀ x) => ?_) ?_; clear_value x; rotate_left; subst x; rotate_right)
    | (extract_lets +onlyGivenNames x; refine (fun (hx : Moves s₀ x.1) => ?_) ?_; clear_value x; rotate_left; subst x; rotate_right)
    | (extract_lets +onlyGivenNames x; first | clear_value x | subst x)
    | with_reducible apply State.beginMarker_moves
    | with_reducible apply State.count_moves
    | with_reducible apply State.countAndSet_moves
    | with_reducible apply State.entered_moves
    | with_reducible apply State.latchPoint_moves
    | with_reducible apply State.modStream_moves
    | with_reducible apply State.putBit_moves
    | with_reducible apply State.setBit_moves
    | with_reducible apply State.setReg_moves
    | split
    | (conv => arg 2; arg 73; skip
       with_reducible apply Moves.mk)

theorem State.closeDoc_moves {s₀ : State} {s : State} {n : Nat} {trunc : Bool} {docs : List DocDecl} (hm : Moves s₀ s) :
    Moves s₀ (State.closeDoc s n trunc docs) := by
  unfold State.closeDoc
  repeat' first
    | with_reducible assumption
    | (extract_lets +onlyGivenNames x; refine (fun (hx : Moves s₀ x) => ?_) ?_; clear_value x; rotate_left; subst x; rotate_right)
    | (extract_lets +onlyGivenNames x; refine (fun (hx : Moves s₀ x.1) => ?_) ?_; clear_value x; rotate_left; subst x; rotate_right)
    | (extract_lets +onlyGivenNames x; first | clear_value x | subst x)
    | with_reducible apply State.endDoc_moves
    | split

theorem State.truncateNow_moves {s₀ : State} {s : State} {n : Nat} (hm : Moves s₀ s) :
    Moves s₀ (State.truncateNow s n) := by
  unfold State.truncateNow
  repeat' first
    | with_reducible assumption
    | (intro _; intros)
    | (extract_lets +onlyGivenNames x; refine (fun (hx : Moves s₀ x) => ?_) ?_; clear_value x; rotate_left; subst x; rotate_right)
    | (extract_lets +onlyGivenNames x; refine (fun (hx : Moves s₀ x.1) => ?_) ?_; clear_value x; rotate_left; subst x; rotate_right)
    | (extract_lets +onlyGivenNames x; first | clear_value x | subst x)
    | with_reducible apply State.closeDoc_moves
    | with_reducible apply State.modStream_moves
    | split
    | (conv => arg 2; arg 73; skip
       with_reducible apply Moves.mk)

theorem State.truncateDoc_moves {s₀ : State} {s : State} {n : Nat} (hm : Moves s₀ s) :
    Moves s₀ (State.truncateDoc s n) := by
  unfold State.truncateDoc
  repeat' first
    | with_reducible assumption
    | (intro _; intros)
    | with_reducible apply State.modChan_moves
    | with_reducible apply State.truncateNow_moves
    | split
    | (conv => arg 2; arg 73; skip
       with_reducible apply Moves.mk)

theorem State.numberLine_moves {s₀ : State} {s : State} {n : Nat} {l : Line} {lastLine : Bool} {docs : List DocDecl} (hm : Moves s₀ s) :
    Moves s₀ (State.numberLine s n l lastLine docs) := by
  unfold State.numberLine
  repeat' first
    | with_reducible assumption
    | (intro _; intros)
    | (extract_lets +onlyGivenNames x; refine (fun (hx : Moves s₀ x) => ?_) ?_; clear_value x; rotate_left; subst x; rotate_right)
    | (extract_lets +onlyGivenNames x; refine (fun (hx : Moves s₀ x.1) => ?_) ?_; clear_value x; rotate_left; subst x; rotate_right)
    | (extract_lets +onlyGivenNames x; first | clear_value x | subst x)
    | with_reducible apply State.beginLine_moves
    | with_reducible apply State.closeDoc_moves
    | with_reducible apply State.modStream_moves
    | with_reducible apply State.passLine_moves
    | with_reducible apply State.setReg_moves
    | split
    | (conv => arg 2; arg 73; skip
       with_reducible apply Moves.mk)

theorem State.gapLine_moves {s₀ : State} {s : State} {n : Nat} (hm : Moves s₀ s) :
    Moves s₀ (State.gapLine s n) := by
  unfold State.gapLine
  repeat' first
    | with_reducible assumption
    | with_reducible apply State.count_moves
    | split

theorem State.classifyCont_moves {s₀ : State} {s : State} {n : Nat} {l : Line} (hm : Moves s₀ s) :
    Moves s₀ (State.classifyCont s n l) := by
  unfold State.classifyCont
  repeat' first
    | with_reducible assumption
    | (intro _; intros)
    | (extract_lets +onlyGivenNames x; refine (fun (hx : Moves s₀ x) => ?_) ?_; clear_value x; rotate_left; subst x; rotate_right)
    | (extract_lets +onlyGivenNames x; refine (fun (hx : Moves s₀ x.1) => ?_) ?_; clear_value x; rotate_left; subst x; rotate_right)
    | (extract_lets +onlyGivenNames x; first | clear_value x | subst x)
    | with_reducible apply State.modStream_moves
    | with_reducible apply State.numberLine_moves
    | with_reducible apply State.openDoc_moves
    | split
    | (conv => arg 2; arg 73; skip
       with_reducible apply Moves.mk)

theorem State.classifyDoc_moves {s₀ : State} {docs : List DocDecl} {y0 : Nat} {y1 : State} {y2 : Nat} {y3 : Line} (hm : Moves s₀ y1) :
    Moves s₀ (State.classifyDoc docs y0 y1 y2 y3) := by
  induction y0 generalizing y1 y2 y3 with
  | zero =>
    unfold State.classifyDoc
    repeat' first
      | with_reducible assumption
      | (intro _; intros)
      | (extract_lets +onlyGivenNames x; refine (fun (hx : Moves s₀ x) => ?_) ?_; clear_value x; rotate_left; subst x; rotate_right)
      | (extract_lets +onlyGivenNames x; refine (fun (hx : Moves s₀ x.1) => ?_) ?_; clear_value x; rotate_left; subst x; rotate_right)
      | (extract_lets +onlyGivenNames x; first | clear_value x | subst x)
      | with_reducible apply State.closeDoc_moves
      | with_reducible apply State.endDoc_moves
      | with_reducible apply State.gapLine_moves
      | with_reducible apply State.modStream_moves
      | with_reducible apply State.numberLine_moves
      | with_reducible apply State.openDoc_moves
      | with_reducible apply State.setBit_moves
      | with_reducible apply State.setReg_moves
      | split
      | dsimp only
      | (conv => arg 2; arg 73; skip
         with_reducible apply Moves.mk)
  | succ n ih =>
    unfold State.classifyDoc
    repeat' first
      | with_reducible assumption
      | (intro _; intros)
      | (extract_lets +onlyGivenNames x; refine (fun (hx : Moves s₀ x) => ?_) ?_; clear_value x; rotate_left; subst x; rotate_right)
      | (extract_lets +onlyGivenNames x; refine (fun (hx : Moves s₀ x.1) => ?_) ?_; clear_value x; rotate_left; subst x; rotate_right)
      | (extract_lets +onlyGivenNames x; first | clear_value x | subst x)
      | with_reducible apply ih
      | with_reducible apply State.closeDoc_moves
      | with_reducible apply State.endDoc_moves
      | with_reducible apply State.gapLine_moves
      | with_reducible apply State.modStream_moves
      | with_reducible apply State.numberLine_moves
      | with_reducible apply State.openDoc_moves
      | with_reducible apply State.setBit_moves
      | with_reducible apply State.setReg_moves
      | split
      | dsimp only
      | (conv => arg 2; arg 73; skip
         with_reducible apply Moves.mk)

theorem State.classify_moves {s₀ : State} {s : State} {n : Nat} {l : Line} {mark : Nat} (hm : Moves s₀ s) :
    Moves s₀ (State.classify s n l mark) := by
  unfold State.classify
  repeat' first
    | with_reducible assumption
    | (extract_lets +onlyGivenNames x; refine (fun (hx : Moves s₀ x) => ?_) ?_; clear_value x; rotate_left; subst x; rotate_right)
    | (extract_lets +onlyGivenNames x; refine (fun (hx : Moves s₀ x.1) => ?_) ?_; clear_value x; rotate_left; subst x; rotate_right)
    | (extract_lets +onlyGivenNames x; first | clear_value x | subst x)
    | with_reducible apply State.classifyDoc_moves
    | with_reducible apply State.classifyCont_moves
    | split

theorem State.modSeg_moves {s₀ : State} {s : State} {g : Nat} {f : SegSt → SegSt} (hm : Moves s₀ s) :
    Moves s₀ (State.modSeg s g f) := by
  unfold State.modSeg
  repeat' first
    | with_reducible assumption
    | split
    | (conv => arg 2; arg 73; skip
       with_reducible apply Moves.mk)

theorem State.bgLine_moves {s₀ : State} {s : State} {n : Nat} {l : Line} (hm : Moves s₀ s) :
    Moves s₀ (State.bgLine s n l) := by
  unfold State.bgLine
  repeat' first
    | with_reducible assumption
    | (intro _; intros)
    | with_reducible apply moves_foldl
    | with_reducible apply moves_foldl_fst
    | with_reducible apply State.modSeg_moves
    | split
    | (conv => arg 2; arg 73; skip
       with_reducible apply Moves.mk)

theorem State.sendEdge_moves {s₀ : State} {s : State} {g pos doc : Nat} {leading : Bool} (hm : Moves s₀ s) :
    Moves s₀ (State.sendEdge s g pos doc leading) := by
  unfold State.sendEdge
  repeat' first
    | with_reducible assumption
    | with_reducible apply State.sendMsg_moves
    | split

theorem State.declareLead_moves {s₀ : State} {s : State} {g pos doc : Nat} (hm : Moves s₀ s) :
    Moves s₀ (State.declareLead s g pos doc) := by
  unfold State.declareLead
  repeat' first
    | with_reducible assumption
    | (intro _; intros)
    | (extract_lets +onlyGivenNames x; refine (fun (hx : Moves s₀ x) => ?_) ?_; clear_value x; rotate_left; subst x; rotate_right)
    | (extract_lets +onlyGivenNames x; refine (fun (hx : Moves s₀ x.1) => ?_) ?_; clear_value x; rotate_left; subst x; rotate_right)
    | (extract_lets +onlyGivenNames x; first | clear_value x | subst x)
    | with_reducible apply State.modSeg_moves
    | with_reducible apply State.sendDec_moves
    | with_reducible apply State.sendEdge_moves
    | with_reducible apply State.setFld_moves
    | with_reducible apply State.setReg_moves
    | split
    | (conv => arg 2; arg 73; skip
       with_reducible apply Moves.mk)

theorem State.declareTrail_moves {s₀ : State} {s : State} {g pos : Nat} (hm : Moves s₀ s) :
    Moves s₀ (State.declareTrail s g pos) := by
  unfold State.declareTrail
  repeat' first
    | with_reducible assumption
    | (intro _; intros)
    | (extract_lets +onlyGivenNames x; refine (fun (hx : Moves s₀ x) => ?_) ?_; clear_value x; rotate_left; subst x; rotate_right)
    | (extract_lets +onlyGivenNames x; refine (fun (hx : Moves s₀ x.1) => ?_) ?_; clear_value x; rotate_left; subst x; rotate_right)
    | (extract_lets +onlyGivenNames x; first | clear_value x | subst x)
    | with_reducible apply State.modSeg_moves
    | with_reducible apply State.sendDec_moves
    | with_reducible apply State.sendEdge_moves
    | with_reducible apply State.setFld_moves
    | with_reducible apply State.setReg_moves
    | split
    | (conv => arg 2; arg 73; skip
       with_reducible apply Moves.mk)

theorem State.segLead_moves {s₀ : State} {s : State} {g : Nat} {wr : Option Word} (hm : Moves s₀ s) :
    Moves s₀ (State.segLead s g wr) := by
  unfold State.segLead
  repeat' first
    | with_reducible assumption
    | (extract_lets +onlyGivenNames x; refine (fun (hx : Moves s₀ x) => ?_) ?_; clear_value x; rotate_left; subst x; rotate_right)
    | (extract_lets +onlyGivenNames x; refine (fun (hx : Moves s₀ x.1) => ?_) ?_; clear_value x; rotate_left; subst x; rotate_right)
    | (extract_lets +onlyGivenNames x; first | clear_value x | subst x)
    | with_reducible apply State.declareLead_moves
    | with_reducible apply State.setReg_moves
    | split
    | dsimp only
    | (conv => arg 2; arg 73; skip
       with_reducible apply Moves.mk)

@[simp] theorem execSegLeadingEdge_moves {s₀ : State} {g : Nat} {wr : Option Word} :
    Answered s₀ (execSegLeadingEdge g wr s₀) := by
  have hm := Moves.refl s₀
  refine answered ?_
  repeat' first
    | with_reducible assumption
    | with_reducible apply State.segLead_moves
    | split

@[simp] theorem execSegTrailingEdge_moves {s₀ : State} {g : Nat} :
    Answered s₀ (execSegTrailingEdge g s₀) := by
  have hm := Moves.refl s₀
  refine answered ?_
  repeat' first
    | with_reducible assumption
    | with_reducible apply State.declareTrail_moves
    | split
    | dsimp only
    | (conv => arg 2; arg 73; skip
       with_reducible apply Moves.mk)

theorem State.runWait_moves {s₀ : State} {y0 : Nat} {y1 : State} {y2 : Nat} (hm : Moves s₀ y1) :
    Moves s₀ (State.runWait y0 y1 y2) := by
  induction y0 generalizing y1 y2 with
  | zero =>
    unfold State.runWait
    repeat' first
      | with_reducible assumption
      | (intro _; intros)
      | (extract_lets +onlyGivenNames x; refine (fun (hx : Moves s₀ x) => ?_) ?_; clear_value x; rotate_left; subst x; rotate_right)
      | (extract_lets +onlyGivenNames x; refine (fun (hx : Moves s₀ x.1) => ?_) ?_; clear_value x; rotate_left; subst x; rotate_right)
      | (extract_lets +onlyGivenNames x; have _ : _ → _ := x; subst x)
      | (extract_lets +onlyGivenNames x; first | clear_value x | subst x)
      | with_reducible apply State.applyAdmission_moves
      | with_reducible apply State.classify_moves
      | with_reducible apply State.modChan_moves
      | with_reducible apply State.sendMarker_moves
      | with_reducible apply State.truncateNow_moves
      | split
      | dsimp only
      | (conv => arg 2; arg 73; skip
         with_reducible apply Moves.mk)
  | succ n ih =>
    unfold State.runWait
    repeat' first
      | with_reducible assumption
      | (intro _; intros)
      | (extract_lets +onlyGivenNames x; refine (fun (hx : Moves s₀ x) => ?_) ?_; clear_value x; rotate_left; subst x; rotate_right)
      | (extract_lets +onlyGivenNames x; refine (fun (hx : Moves s₀ x.1) => ?_) ?_; clear_value x; rotate_left; subst x; rotate_right)
      | (extract_lets +onlyGivenNames x; have _ : _ → _ := x; subst x)
      | (extract_lets +onlyGivenNames x; first | clear_value x | subst x)
      | with_reducible apply ih
      | with_reducible apply State.applyAdmission_moves
      | with_reducible apply State.classify_moves
      | with_reducible apply State.modChan_moves
      | with_reducible apply State.sendMarker_moves
      | with_reducible apply State.truncateNow_moves
      | split
      | dsimp only
      | (conv => arg 2; arg 73; skip
         with_reducible apply Moves.mk)

theorem State.settle_moves {s₀ : State} {s : State} {n : Nat} (hm : Moves s₀ s) :
    Moves s₀ (State.settle s n) := by
  unfold State.settle
  repeat' first
    | with_reducible assumption
    | with_reducible apply State.runWait_moves
    | split

theorem State.deliverStream_moves {s₀ : State} {s : State} {n : Nat} {l : Line} {edges : Option (List Nat)} (hm : Moves s₀ s) :
    Moves s₀ (State.deliverStream s n l edges) := by
  unfold State.deliverStream
  repeat' first
    | with_reducible assumption
    | (intro _; intros)
    | (extract_lets +onlyGivenNames x; refine (fun (hx : Moves s₀ x) => ?_) ?_; clear_value x; rotate_left; subst x; rotate_right)
    | (extract_lets +onlyGivenNames x; refine (fun (hx : Moves s₀ x.1) => ?_) ?_; clear_value x; rotate_left; subst x; rotate_right)
    | (extract_lets +onlyGivenNames x; first | clear_value x | subst x)
    | with_reducible apply State.bgLine_moves
    | with_reducible apply State.classify_moves
    | with_reducible apply State.modChan_moves
    | with_reducible apply State.sendDec_moves
    | with_reducible apply State.settle_moves
    | split
    | (conv => arg 2; arg 73; skip
       with_reducible apply Moves.mk)

end Sys2Proof.Machine
end

