-- ==== Sys2Proof/Laws/MovesPort.lean ====
section
/-! SUPPORT. What the operations of Machine/Port.lean can do to the memories, the register file, the key slots and the queue: moves, and nothing
else. -/

namespace Sys2Proof.Machine

theorem State.modPort_moves {s₀ : State} {s : State} {n : Nat} {f : PortSt → PortSt} (hm : Moves s₀ s) :
    Moves s₀ (State.modPort s n f) := by
  unfold State.modPort
  repeat' first
    | with_reducible assumption
    | split
    | (conv => arg 2; arg 73; skip
       with_reducible apply Moves.mk)

theorem State.modEntry_moves {s₀ : State} {s : State} {e : Nat} {f : EntrySt → EntrySt} (hm : Moves s₀ s) :
    Moves s₀ (State.modEntry s e f) := by
  unfold State.modEntry
  repeat' first
    | with_reducible assumption
    | split
    | (conv => arg 2; arg 73; skip
       with_reducible apply Moves.mk)

theorem State.portEvent_moves {s₀ : State} {s : State} {n b : Nat} (hm : Moves s₀ s) :
    Moves s₀ (State.portEvent s n b) := by
  unfold State.portEvent
  repeat' first
    | with_reducible assumption
    | (extract_lets +onlyGivenNames x; refine (fun (hx : Moves s₀ x) => ?_) ?_; clear_value x; rotate_left; subst x; rotate_right)
    | (extract_lets +onlyGivenNames x; refine (fun (hx : Moves s₀ x.1) => ?_) ?_; clear_value x; rotate_left; subst x; rotate_right)
    | (extract_lets +onlyGivenNames x; first | clear_value x | subst x)
    | with_reducible apply State.raiseError_moves
    | with_reducible apply State.setBit_moves
    | split

theorem State.portCount_moves {s₀ : State} {s : State} {n k : Nat} (hm : Moves s₀ s) :
    Moves s₀ (State.portCount s n k) := by
  unfold State.portCount
  repeat' first
    | with_reducible assumption
    | with_reducible apply State.count_moves
    | with_reducible apply State.portEvent_moves
    | split

theorem State.toStreams_moves {s₀ : State} {s : State} {e : Nat} {streams : List Nat} {sync : Bool} {px : List Nat} {flags : Nat} {cap : Nat → Nat × Nat × Option (List Nat)} (hm : Moves s₀ s) :
    Moves s₀ (State.toStreams s e streams sync px flags cap) := by
  unfold State.toStreams
  repeat' first
    | with_reducible assumption
    | (intro _; intros)
    | (extract_lets +onlyGivenNames x; refine (fun (hx : Moves s₀ x) => ?_) ?_; clear_value x; rotate_left; subst x; rotate_right)
    | (extract_lets +onlyGivenNames x; refine (fun (hx : Moves s₀ x.1) => ?_) ?_; clear_value x; rotate_left; subst x; rotate_right)
    | (extract_lets +onlyGivenNames x; first | clear_value x | subst x)
    | with_reducible apply moves_foldl
    | with_reducible apply moves_foldl_fst
    | with_reducible apply State.countAndSet_moves
    | with_reducible apply State.deliverStream_moves
    | with_reducible apply State.modEntry_moves
    | split
    | dsimp only
    | (conv => arg 2; arg 73; skip
       with_reducible apply Moves.mk)

theorem State.sendCsi_moves {s₀ : State} {s : State} {t n k flags : Nat} {ph0 sync : Bool} {cap : Nat × Nat} {bytes : List Nat} {fill : Bool} (hm : Moves s₀ s) :
    Moves s₀ (State.sendCsi s t n k flags ph0 sync cap bytes fill) := by
  unfold State.sendCsi
  repeat' first
    | with_reducible assumption
    | (intro _; intros)
    | (extract_lets +onlyGivenNames x; refine (fun (hx : Moves s₀ x) => ?_) ?_; clear_value x; rotate_left; subst x; rotate_right)
    | (extract_lets +onlyGivenNames x; refine (fun (hx : Moves s₀ x.1) => ?_) ?_; clear_value x; rotate_left; subst x; rotate_right)
    | (extract_lets +onlyGivenNames x; first | clear_value x | subst x)
    | with_reducible apply moves_foldl
    | with_reducible apply moves_foldl_fst
    | with_reducible apply State.sendItem_moves
    | split

theorem State.checkStreamsReady_moves {s₀ : State} {s : State} (hm : Moves s₀ s) :
    Moves s₀ (State.checkStreamsReady s) := by
  unfold State.checkStreamsReady
  repeat' first
    | with_reducible assumption
    | (intro _; intros)
    | (extract_lets +onlyGivenNames x; refine (fun (hx : Moves s₀ x) => ?_) ?_; clear_value x; rotate_left; subst x; rotate_right)
    | (extract_lets +onlyGivenNames x; refine (fun (hx : Moves s₀ x.1) => ?_) ?_; clear_value x; rotate_left; subst x; rotate_right)
    | (extract_lets +onlyGivenNames x; first | clear_value x | subst x)
    | with_reducible apply State.setBit_moves
    | split

theorem State.deliverEntry_moves {s₀ : State} {s : State} {n k : Nat} {px : List Nat} {flags : Nat} {owed : Option Owed} {fill frameFill : Bool} {bytes : List Nat} (hm : Moves s₀ s) :
    Moves s₀ (State.deliverEntry s n k px flags owed fill frameFill bytes) := by
  unfold State.deliverEntry
  repeat' first
    | with_reducible assumption
    | (intro _; intros)
    | (extract_lets +onlyGivenNames x; refine (fun (hx : Moves s₀ x) => ?_) ?_; clear_value x; rotate_left; subst x; rotate_right)
    | (extract_lets +onlyGivenNames x; refine (fun (hx : Moves s₀ x.1) => ?_) ?_; clear_value x; rotate_left; subst x; rotate_right)
    | (extract_lets +onlyGivenNames x; first | clear_value x | subst x)
    | with_reducible apply State.checkStreamsReady_moves
    | with_reducible apply State.modEntry_moves
    | with_reducible apply State.modPort_moves
    | with_reducible apply State.sendCsi_moves
    | with_reducible apply State.toStreams_moves
    | split
    | dsimp only
    | (conv => arg 2; arg 73; skip
       with_reducible apply Moves.mk)

theorem State.openFrame_moves {s₀ : State} {s : State} {n k : Nat} (hm : Moves s₀ s) :
    Moves s₀ (State.openFrame s n k) := by
  unfold State.openFrame
  repeat' first
    | with_reducible assumption
    | (intro _; intros)
    | with_reducible apply State.modEntry_moves
    | split
    | (conv => arg 2; arg 73; skip
       with_reducible apply Moves.mk)

theorem State.closeFrame_moves {s₀ : State} {s : State} {n k : Nat} (hm : Moves s₀ s) :
    Moves s₀ (State.closeFrame s n k) := by
  unfold State.closeFrame
  repeat' first
    | with_reducible assumption
    | (intro _; intros)
    | (extract_lets +onlyGivenNames x; refine (fun (hx : Moves s₀ x) => ?_) ?_; clear_value x; rotate_left; subst x; rotate_right)
    | (extract_lets +onlyGivenNames x; refine (fun (hx : Moves s₀ x.1) => ?_) ?_; clear_value x; rotate_left; subst x; rotate_right)
    | (extract_lets +onlyGivenNames x; first | clear_value x | subst x)
    | with_reducible apply moves_foldl
    | with_reducible apply moves_foldl_fst
    | with_reducible apply State.deliverEntry_moves
    | with_reducible apply State.modEntry_moves
    | with_reducible apply State.portCount_moves
    | split
    | (conv => arg 2; arg 73; skip
       with_reducible apply Moves.mk)

theorem State.closeMissing_moves {s₀ : State} {s : State} {n vc : Nat} (hm : Moves s₀ s) :
    Moves s₀ (State.closeMissing s n vc) := by
  unfold State.closeMissing
  repeat' first
    | with_reducible assumption
    | (intro _; intros)
    | with_reducible apply moves_foldl
    | with_reducible apply moves_foldl_fst
    | with_reducible apply State.closeFrame_moves
    | with_reducible apply State.portCount_moves
    | split
    | dsimp only
    | (conv => arg 2; arg 73; skip
       with_reducible apply Moves.mk)

theorem State.touchFrame_moves {s₀ : State} {s : State} {n vc : Nat} (hm : Moves s₀ s) :
    Moves s₀ (State.touchFrame s n vc) := by
  unfold State.touchFrame
  repeat' first
    | with_reducible assumption
    | (intro _; intros)
    | with_reducible apply moves_foldl
    | with_reducible apply moves_foldl_fst
    | with_reducible apply State.modEntry_moves
    | split
    | (conv => arg 2; arg 73; skip
       with_reducible apply Moves.mk)

theorem State.inFrame_moves {s₀ : State} {s : State} {n k : Nat} {f : State → State} (h_f : ∀ x0, Moves s₀ x0 → Moves s₀ (f x0)) (hm : Moves s₀ s) :
    Moves s₀ (State.inFrame s n k f) := by
  unfold State.inFrame
  repeat' first
    | with_reducible assumption
    | (intro _; intros)
    | (extract_lets +onlyGivenNames x; refine (fun (hx : Moves s₀ x) => ?_) ?_; clear_value x; rotate_left; subst x; rotate_right)
    | (extract_lets +onlyGivenNames x; refine (fun (hx : Moves s₀ x.1) => ?_) ?_; clear_value x; rotate_left; subst x; rotate_right)
    | (extract_lets +onlyGivenNames x; first | clear_value x | subst x)
    | with_reducible apply h_f
    | with_reducible apply State.modEntry_moves
    | with_reducible apply State.portCount_moves
    | split
    | (conv => arg 2; arg 73; skip
       with_reducible apply Moves.mk)

theorem State.fillOldest_moves {s₀ : State} {s : State} {n k : Nat} (hm : Moves s₀ s) :
    Moves s₀ (State.fillOldest s n k) := by
  unfold State.fillOldest
  repeat' first
    | with_reducible assumption
    | (intro _; intros)
    | (extract_lets +onlyGivenNames x; refine (fun (hx : Moves s₀ x) => ?_) ?_; clear_value x; rotate_left; subst x; rotate_right)
    | (extract_lets +onlyGivenNames x; refine (fun (hx : Moves s₀ x.1) => ?_) ?_; clear_value x; rotate_left; subst x; rotate_right)
    | (extract_lets +onlyGivenNames x; first | clear_value x | subst x)
    | with_reducible apply State.deliverEntry_moves
    | with_reducible apply State.inFrame_moves
    | with_reducible apply State.modEntry_moves
    | with_reducible apply State.portCount_moves
    | with_reducible apply State.sendDec_moves
    | split
    | dsimp only
    | (conv => arg 2; arg 73; skip
       with_reducible apply Moves.mk)

theorem State.staleLine_moves {s₀ : State} {s : State} {n k : Nat} (hm : Moves s₀ s) :
    Moves s₀ (State.staleLine s n k) := by
  unfold State.staleLine
  repeat' first
    | with_reducible assumption
    | with_reducible apply State.portCount_moves
    | with_reducible apply State.sendDec_moves
    | split

theorem State.matchLine_moves {s₀ : State} {s : State} {n k : Nat} {l : HeldLine} (hm : Moves s₀ s) :
    Moves s₀ (State.matchLine s n k l) := by
  unfold State.matchLine
  repeat' first
    | with_reducible assumption
    | (intro _; intros)
    | with_reducible apply State.deliverEntry_moves
    | with_reducible apply State.inFrame_moves
    | with_reducible apply State.modEntry_moves
    | with_reducible apply State.staleLine_moves
    | split
    | dsimp only
    | (conv => arg 2; arg 73; skip
       with_reducible apply Moves.mk)

theorem State.settleHeld_moves {s₀ : State} {n k : Nat} {y0 : Nat} {y1 : State} (hm : Moves s₀ y1) :
    Moves s₀ (State.settleHeld n k y0 y1) := by
  induction y0 generalizing y1 with
  | zero =>
    unfold State.settleHeld
    repeat' first
      | with_reducible assumption
      | (intro _; intros)
      | (extract_lets +onlyGivenNames x; refine (fun (hx : Moves s₀ x) => ?_) ?_; clear_value x; rotate_left; subst x; rotate_right)
      | (extract_lets +onlyGivenNames x; refine (fun (hx : Moves s₀ x.1) => ?_) ?_; clear_value x; rotate_left; subst x; rotate_right)
      | (extract_lets +onlyGivenNames x; first | clear_value x | subst x)
      | with_reducible apply State.matchLine_moves
      | with_reducible apply State.modEntry_moves
      | with_reducible apply State.staleLine_moves
      | split
      | dsimp only
      | (conv => arg 2; arg 73; skip
         with_reducible apply Moves.mk)
  | succ n ih =>
    unfold State.settleHeld
    repeat' first
      | with_reducible assumption
      | (intro _; intros)
      | (extract_lets +onlyGivenNames x; refine (fun (hx : Moves s₀ x) => ?_) ?_; clear_value x; rotate_left; subst x; rotate_right)
      | (extract_lets +onlyGivenNames x; refine (fun (hx : Moves s₀ x.1) => ?_) ?_; clear_value x; rotate_left; subst x; rotate_right)
      | (extract_lets +onlyGivenNames x; first | clear_value x | subst x)
      | with_reducible apply ih
      | with_reducible apply State.matchLine_moves
      | with_reducible apply State.modEntry_moves
      | with_reducible apply State.staleLine_moves
      | split
      | dsimp only
      | (conv => arg 2; arg 73; skip
         with_reducible apply Moves.mk)

theorem State.settleEntry_moves {s₀ : State} {s : State} {n k : Nat} (hm : Moves s₀ s) :
    Moves s₀ (State.settleEntry s n k) := by
  unfold State.settleEntry
  repeat' first
    | with_reducible assumption
    | with_reducible apply State.settleHeld_moves
    | split

theorem State.fillOwed_moves {s₀ : State} {s : State} {n k : Nat} (hm : Moves s₀ s) :
    Moves s₀ (State.fillOwed s n k) := by
  unfold State.fillOwed
  repeat' first
    | with_reducible assumption
    | with_reducible apply State.fillOldest_moves
    | with_reducible apply State.settleEntry_moves
    | split

theorem State.decStale_moves {s₀ : State} {s : State} {n k : Nat} (hm : Moves s₀ s) :
    Moves s₀ (State.decStale s n k) := by
  unfold State.decStale
  repeat' first
    | with_reducible assumption
    | (intro _; intros)
    | with_reducible apply State.modEntry_moves
    | with_reducible apply State.settleEntry_moves
    | split
    | (conv => arg 2; arg 73; skip
       with_reducible apply Moves.mk)

theorem State.decideHeld_moves {s₀ : State} {s : State} {n k : Nat} (hm : Moves s₀ s) :
    Moves s₀ (State.decideHeld s n k) := by
  unfold State.decideHeld
  repeat' first
    | with_reducible assumption
    | (intro _; intros)
    | (extract_lets +onlyGivenNames x; refine (fun (hx : Moves s₀ x) => ?_) ?_; clear_value x; rotate_left; subst x; rotate_right)
    | (extract_lets +onlyGivenNames x; refine (fun (hx : Moves s₀ x.1) => ?_) ?_; clear_value x; rotate_left; subst x; rotate_right)
    | (extract_lets +onlyGivenNames x; first | clear_value x | subst x)
    | with_reducible apply moves_foldl
    | with_reducible apply moves_foldl_fst
    | with_reducible apply State.fillOldest_moves
    | with_reducible apply State.matchLine_moves
    | with_reducible apply State.modEntry_moves
    | split
    | dsimp only
    | (conv => arg 2; arg 73; skip
       with_reducible apply Moves.mk)

theorem State.owe_moves {s₀ : State} {s : State} {n k : Nat} (hm : Moves s₀ s) :
    Moves s₀ (State.owe s n k) := by
  unfold State.owe
  repeat' first
    | with_reducible assumption
    | (intro _; intros)
    | (extract_lets +onlyGivenNames x; refine (fun (hx : Moves s₀ x) => ?_) ?_; clear_value x; rotate_left; subst x; rotate_right)
    | (extract_lets +onlyGivenNames x; refine (fun (hx : Moves s₀ x.1) => ?_) ?_; clear_value x; rotate_left; subst x; rotate_right)
    | (extract_lets +onlyGivenNames x; first | clear_value x | subst x)
    | with_reducible apply State.fillOldest_moves
    | with_reducible apply State.modEntry_moves
    | split
    | dsimp only
    | (conv => arg 2; arg 73; skip
       with_reducible apply Moves.mk)

theorem State.oweStrobe_moves {s₀ : State} {s : State} {i : Nat} (hm : Moves s₀ s) :
    Moves s₀ (State.oweStrobe s i) := by
  unfold State.oweStrobe
  repeat' first
    | with_reducible assumption
    | (intro _; intros)
    | with_reducible apply moves_foldl
    | with_reducible apply moves_foldl_fst
    | with_reducible apply State.modEntry_moves
    | with_reducible apply State.owe_moves
    | split
    | (conv => arg 2; arg 73; skip
       with_reducible apply Moves.mk)

theorem State.oweDue_moves {s₀ : State} {s : State} {n k : Nat} (hm : Moves s₀ s) :
    Moves s₀ (State.oweDue s n k) := by
  unfold State.oweDue
  repeat' first
    | with_reducible assumption
    | (intro _; intros)
    | (extract_lets +onlyGivenNames x; refine (fun (hx : Moves s₀ x) => ?_) ?_; clear_value x; rotate_left; subst x; rotate_right)
    | (extract_lets +onlyGivenNames x; refine (fun (hx : Moves s₀ x.1) => ?_) ?_; clear_value x; rotate_left; subst x; rotate_right)
    | (extract_lets +onlyGivenNames x; first | clear_value x | subst x)
    | with_reducible apply State.modEntry_moves
    | with_reducible apply State.owe_moves
    | split
    | (conv => arg 2; arg 73; skip
       with_reducible apply Moves.mk)

@[simp] theorem execLineTimeout_moves {s₀ : State} {n k : Nat} :
    Answered s₀ (execLineTimeout n k s₀) := by
  have hm := Moves.refl s₀
  refine answered ?_
  repeat' first
    | with_reducible assumption
    | with_reducible apply State.fillOwed_moves
    | split
    | dsimp only
    | (conv => arg 2; arg 73; skip
       with_reducible apply Moves.mk)

@[simp] theorem execFrameTimeout_moves {s₀ : State} {n vc : Nat} :
    Answered s₀ (execFrameTimeout n vc s₀) := by
  have hm := Moves.refl s₀
  refine answered ?_
  repeat' first
    | with_reducible assumption
    | (extract_lets +onlyGivenNames x; refine (fun (hx : Moves s₀ x) => ?_) ?_; clear_value x; rotate_left; subst x; rotate_right)
    | (extract_lets +onlyGivenNames x; refine (fun (hx : Moves s₀ x.1) => ?_) ?_; clear_value x; rotate_left; subst x; rotate_right)
    | (extract_lets +onlyGivenNames x; first | clear_value x | subst x)
    | with_reducible apply State.closeMissing_moves
    | with_reducible apply State.sendDec_moves
    | split
    | dsimp only
    | (conv => arg 2; arg 73; skip
       with_reducible apply Moves.mk)

theorem State.endBurst_moves {s₀ : State} {s : State} {n : Nat} (hm : Moves s₀ s) :
    Moves s₀ (State.endBurst s n) := by
  unfold State.endBurst
  repeat' first
    | with_reducible assumption
    | (intro _; intros)
    | with_reducible apply State.modPort_moves
    | with_reducible apply State.setFld_moves
    | split
    | (conv => arg 2; arg 73; skip
       with_reducible apply Moves.mk)

theorem State.badHeader_moves {s₀ : State} {s : State} {n : Nat} (hm : Moves s₀ s) :
    Moves s₀ (State.badHeader s n) := by
  unfold State.badHeader
  repeat' first
    | with_reducible assumption
    | (intro _; intros)
    | with_reducible apply moves_foldl
    | with_reducible apply moves_foldl_fst
    | with_reducible apply State.modEntry_moves
    | with_reducible apply State.portCount_moves
    | split
    | (conv => arg 2; arg 73; skip
       with_reducible apply Moves.mk)

theorem State.packet_moves {s₀ : State} {s : State} {n : Nat} {h : Word} {f : State → Nat → State} (h_f : ∀ x0 x1, Moves s₀ x0 → Moves s₀ (f x0 x1)) (hm : Moves s₀ s) :
    Moves s₀ (State.packet s n h f) := by
  unfold State.packet
  repeat' first
    | with_reducible assumption
    | (intro _; intros)
    | (extract_lets +onlyGivenNames x; refine (fun (hx : Moves s₀ x) => ?_) ?_; clear_value x; rotate_left; subst x; rotate_right)
    | (extract_lets +onlyGivenNames x; refine (fun (hx : Moves s₀ x.1) => ?_) ?_; clear_value x; rotate_left; subst x; rotate_right)
    | (extract_lets +onlyGivenNames x; first | clear_value x | subst x)
    | with_reducible apply h_f
    | with_reducible apply State.badHeader_moves
    | with_reducible apply State.endBurst_moves
    | with_reducible apply State.portCount_moves
    | with_reducible apply State.touchFrame_moves
    | split
    | dsimp only
    | (conv => arg 2; arg 73; skip
       with_reducible apply Moves.mk)

theorem State.checkPayload_moves {s₀ : State} {s : State} {n bits : Nat} {payload : List Nat} {crc : Option Nat} (hm : Moves s₀ s) :
    Moves s₀ (State.checkPayload s n bits payload crc) := by
  unfold State.checkPayload
  repeat' first
    | with_reducible assumption
    | with_reducible apply State.portCount_moves
    | split

theorem State.entryPacket_moves {s₀ : State} {s : State} {n k : Nat} {bits : Nat} {payload : List Nat} {crc : Option Nat} (hm : Moves s₀ s) :
    Moves s₀ (State.entryPacket s n k bits payload crc) := by
  unfold State.entryPacket
  repeat' first
    | with_reducible assumption
    | (intro _; intros)
    | (extract_lets +onlyGivenNames x; refine (fun (hx : Moves s₀ x) => ?_) ?_; clear_value x; rotate_left; subst x; rotate_right)
    | (extract_lets +onlyGivenNames x; refine (fun (hx : Moves s₀ x.1) => ?_) ?_; clear_value x; rotate_left; subst x; rotate_right)
    | (extract_lets +onlyGivenNames x; first | clear_value x | subst x)
    | with_reducible apply State.deliverEntry_moves
    | with_reducible apply State.inFrame_moves
    | with_reducible apply State.matchLine_moves
    | with_reducible apply State.modEntry_moves
    | with_reducible apply State.oweDue_moves
    | with_reducible apply State.portCount_moves
    | with_reducible apply State.settleEntry_moves
    | split
    | dsimp only
    | (conv => arg 2; arg 73; skip
       with_reducible apply Moves.mk)

theorem State.longPacket_moves {s₀ : State} {s : State} {n : Nat} {bits : Nat} {payload : List Nat} {crc : Option Nat} (hm : Moves s₀ s) :
    Moves s₀ (State.longPacket s n bits payload crc) := by
  unfold State.longPacket
  repeat' first
    | with_reducible assumption
    | (intro _; intros)
    | (extract_lets +onlyGivenNames x; refine (fun (hx : Moves s₀ x) => ?_) ?_; clear_value x; rotate_left; subst x; rotate_right)
    | (extract_lets +onlyGivenNames x; refine (fun (hx : Moves s₀ x.1) => ?_) ?_; clear_value x; rotate_left; subst x; rotate_right)
    | (extract_lets +onlyGivenNames x; first | clear_value x | subst x)
    | with_reducible apply State.checkPayload_moves
    | with_reducible apply State.entryPacket_moves
    | with_reducible apply State.openFrame_moves
    | with_reducible apply State.portCount_moves
    | split
    | dsimp only
    | (conv => arg 2; arg 73; skip
       with_reducible apply Moves.mk)

@[simp] theorem execCsiLongPacket_moves {s₀ : State} {n : Nat} {h : Word} {payload : List Nat} {crc : Option Nat} :
    Answered s₀ (execCsiLongPacket n h payload crc s₀) := by
  have hm := Moves.refl s₀
  refine answered ?_
  repeat' first
    | with_reducible assumption
    | (intro _; intros)
    | with_reducible apply State.longPacket_moves
    | with_reducible apply State.packet_moves
    | split

@[simp] theorem execCsiHeaderUncorr_moves {s₀ : State} {n : Nat} :
    Answered s₀ (execCsiHeaderUncorr n s₀) := by
  have hm := Moves.refl s₀
  refine answered ?_
  repeat' first
    | with_reducible assumption
    | with_reducible apply State.badHeader_moves
    | with_reducible apply State.endBurst_moves
    | split

theorem State.frameNum_moves {s₀ : State} {s : State} {n bits fe : Nat} (hm : Moves s₀ s) :
    Moves s₀ (State.frameNum s n bits fe) := by
  unfold State.frameNum
  repeat' first
    | with_reducible assumption
    | with_reducible apply State.setReg_moves
    | split

@[simp] theorem execCsiFrameStart_moves {s₀ : State} {n : Nat} {h : Word} :
    Answered s₀ (execCsiFrameStart n h s₀) := by
  have hm := Moves.refl s₀
  refine answered ?_
  repeat' first
    | with_reducible assumption
    | (intro _; intros)
    | (extract_lets +onlyGivenNames x; refine (fun (hx : Moves s₀ x) => ?_) ?_; clear_value x; rotate_left; subst x; rotate_right)
    | (extract_lets +onlyGivenNames x; refine (fun (hx : Moves s₀ x.1) => ?_) ?_; clear_value x; rotate_left; subst x; rotate_right)
    | (extract_lets +onlyGivenNames x; first | clear_value x | subst x)
    | with_reducible apply moves_foldl
    | with_reducible apply moves_foldl_fst
    | with_reducible apply State.closeMissing_moves
    | with_reducible apply State.frameNum_moves
    | with_reducible apply State.openFrame_moves
    | with_reducible apply State.packet_moves
    | split
    | dsimp only

@[simp] theorem execCsiFrameEnd_moves {s₀ : State} {n : Nat} {h : Word} :
    Answered s₀ (execCsiFrameEnd n h s₀) := by
  have hm := Moves.refl s₀
  refine answered ?_
  repeat' first
    | with_reducible assumption
    | (intro _; intros)
    | with_reducible apply moves_foldl
    | with_reducible apply moves_foldl_fst
    | with_reducible apply State.closeFrame_moves
    | with_reducible apply State.frameNum_moves
    | with_reducible apply State.packet_moves
    | split

@[simp] theorem execCsiLineStart_moves {s₀ : State} {n : Nat} {h : Word} :
    Answered s₀ (execCsiLineStart n h s₀) := by
  have hm := Moves.refl s₀
  refine answered ?_
  repeat' first
    | with_reducible assumption
    | (intro _; intros)
    | with_reducible apply moves_foldl
    | with_reducible apply moves_foldl_fst
    | with_reducible apply State.owe_moves
    | with_reducible apply State.packet_moves
    | split

@[simp] theorem execCsiGenericShort_moves {s₀ : State} {n : Nat} {h : Word} :
    Answered s₀ (execCsiGenericShort n h s₀) := by
  have hm := Moves.refl s₀
  refine answered ?_
  repeat' first
    | with_reducible assumption
    | (intro _; intros)
    | with_reducible apply State.packet_moves
    | with_reducible apply State.setReg_moves
    | split

@[simp] theorem execCsiNullBlanking_moves {s₀ : State} {n : Nat} {h : Word} :
    Answered s₀ (execCsiNullBlanking n h s₀) := by
  have hm := Moves.refl s₀
  refine answered ?_
  repeat' first
    | with_reducible assumption
    | (intro _; intros)
    | with_reducible apply State.packet_moves
    | split

@[simp] theorem execUnknownDtDiscard_moves {s₀ : State} {n : Nat} {h : Word} :
    Answered s₀ (execUnknownDtDiscard n h s₀) := by
  have hm := Moves.refl s₀
  refine answered ?_
  repeat' first
    | with_reducible assumption
    | (intro _; intros)
    | with_reducible apply State.packet_moves
    | with_reducible apply State.portCount_moves
    | split

@[simp] theorem execPhySyncError_moves {s₀ : State} {n : Nat} :
    Answered s₀ (execPhySyncError n s₀) := by
  have hm := Moves.refl s₀
  refine answered ?_
  repeat' first
    | with_reducible assumption
    | with_reducible apply State.endBurst_moves
    | with_reducible apply State.portCount_moves
    | split

@[simp] theorem execDeskewSequence_moves {s₀ : State} {n locked : Nat} :
    Answered s₀ (execDeskewSequence n locked s₀) := by
  have hm := Moves.refl s₀
  refine answered ?_
  repeat' first
    | with_reducible assumption
    | (extract_lets +onlyGivenNames x; refine (fun (hx : Moves s₀ x) => ?_) ?_; clear_value x; rotate_left; subst x; rotate_right)
    | (extract_lets +onlyGivenNames x; refine (fun (hx : Moves s₀ x.1) => ?_) ?_; clear_value x; rotate_left; subst x; rotate_right)
    | (extract_lets +onlyGivenNames x; first | clear_value x | subst x)
    | with_reducible apply State.endBurst_moves
    | with_reducible apply State.portEvent_moves
    | with_reducible apply State.setFld_moves
    | split
    | dsimp only

@[simp] theorem execUlpsTransition_moves {s₀ : State} {n lane : Nat} {enter : Bool} :
    Answered s₀ (execUlpsTransition n lane enter s₀) := by
  have hm := Moves.refl s₀
  refine answered ?_
  repeat' first
    | with_reducible assumption
    | (intro _; intros)
    | (extract_lets +onlyGivenNames x; refine (fun (hx : Moves s₀ x) => ?_) ?_; clear_value x; rotate_left; subst x; rotate_right)
    | (extract_lets +onlyGivenNames x; refine (fun (hx : Moves s₀ x.1) => ?_) ?_; clear_value x; rotate_left; subst x; rotate_right)
    | (extract_lets +onlyGivenNames x; first | clear_value x | subst x)
    | with_reducible apply State.modPort_moves
    | with_reducible apply State.setFld_moves
    | split
    | dsimp only
    | (conv => arg 2; arg 73; skip
       with_reducible apply Moves.mk)

@[simp] theorem execHsBurstStart_moves {s₀ : State} {n lane : Nat} :
    Answered s₀ (execHsBurstStart n lane s₀) := by
  have hm := Moves.refl s₀
  refine answered ?_
  repeat' first
    | with_reducible assumption
    | (intro _; intros)
    | (extract_lets +onlyGivenNames x; refine (fun (hx : Moves s₀ x) => ?_) ?_; clear_value x; rotate_left; subst x; rotate_right)
    | (extract_lets +onlyGivenNames x; refine (fun (hx : Moves s₀ x.1) => ?_) ?_; clear_value x; rotate_left; subst x; rotate_right)
    | (extract_lets +onlyGivenNames x; first | clear_value x | subst x)
    | with_reducible apply State.modPort_moves
    | with_reducible apply State.setFld_moves
    | split
    | dsimp only
    | (conv => arg 2; arg 73; skip
       with_reducible apply Moves.mk)

theorem State.setTerm_moves {s₀ : State} {s : State} {n : Nat} (hm : Moves s₀ s) :
    Moves s₀ (State.setTerm s n) := by
  unfold State.setTerm
  repeat' first
    | with_reducible assumption
    | (intro _; intros)
    | (extract_lets +onlyGivenNames x; refine (fun (hx : Moves s₀ x) => ?_) ?_; clear_value x; rotate_left; subst x; rotate_right)
    | (extract_lets +onlyGivenNames x; refine (fun (hx : Moves s₀ x.1) => ?_) ?_; clear_value x; rotate_left; subst x; rotate_right)
    | (extract_lets +onlyGivenNames x; first | clear_value x | subst x)
    | with_reducible apply State.modPort_moves
    | with_reducible apply State.setFld_moves
    | split
    | (conv => arg 2; arg 73; skip
       with_reducible apply Moves.mk)

theorem State.startPort_moves {s₀ : State} {s : State} {n : Nat} (hm : Moves s₀ s) :
    Moves s₀ (State.startPort s n) := by
  unfold State.startPort
  repeat' first
    | with_reducible assumption
    | (intro _; intros)
    | (extract_lets +onlyGivenNames x; refine (fun (hx : Moves s₀ x) => ?_) ?_; clear_value x; rotate_left; subst x; rotate_right)
    | (extract_lets +onlyGivenNames x; refine (fun (hx : Moves s₀ x.1) => ?_) ?_; clear_value x; rotate_left; subst x; rotate_right)
    | (extract_lets +onlyGivenNames x; first | clear_value x | subst x)
    | with_reducible apply moves_foldl
    | with_reducible apply moves_foldl_fst
    | with_reducible apply State.modEntry_moves
    | with_reducible apply State.modPort_moves
    | with_reducible apply State.setFld_moves
    | with_reducible apply State.setTerm_moves
    | split
    | (conv => arg 2; arg 73; skip
       with_reducible apply Moves.mk)

theorem State.haltPort_moves {s₀ : State} {s : State} {n : Nat} (hm : Moves s₀ s) :
    Moves s₀ (State.haltPort s n) := by
  unfold State.haltPort
  repeat' first
    | with_reducible assumption
    | (intro _; intros)
    | (extract_lets +onlyGivenNames x; refine (fun (hx : Moves s₀ x) => ?_) ?_; clear_value x; rotate_left; subst x; rotate_right)
    | (extract_lets +onlyGivenNames x; refine (fun (hx : Moves s₀ x.1) => ?_) ?_; clear_value x; rotate_left; subst x; rotate_right)
    | (extract_lets +onlyGivenNames x; first | clear_value x | subst x)
    | with_reducible apply moves_foldl
    | with_reducible apply moves_foldl_fst
    | with_reducible apply State.modEntry_moves
    | with_reducible apply State.modPort_moves
    | with_reducible apply State.setFld_moves
    | with_reducible apply State.truncateDoc_moves
    | split
    | (conv => arg 2; arg 73; skip
       with_reducible apply Moves.mk)

theorem State.stopPort_moves {s₀ : State} {s : State} {n : Nat} (hm : Moves s₀ s) :
    Moves s₀ (State.stopPort s n) := by
  unfold State.stopPort
  repeat' first
    | with_reducible assumption
    | with_reducible apply State.haltPort_moves
    | with_reducible apply State.setTerm_moves
    | split

theorem State.enablePort_moves {s₀ : State} {s : State} {n : Nat} (hm : Moves s₀ s) :
    Moves s₀ (State.enablePort s n) := by
  unfold State.enablePort
  repeat' first
    | with_reducible assumption
    | (intro _; intros)
    | (extract_lets +onlyGivenNames x; refine (fun (hx : Moves s₀ x) => ?_) ?_; clear_value x; rotate_left; subst x; rotate_right)
    | (extract_lets +onlyGivenNames x; refine (fun (hx : Moves s₀ x.1) => ?_) ?_; clear_value x; rotate_left; subst x; rotate_right)
    | (extract_lets +onlyGivenNames x; first | clear_value x | subst x)
    | with_reducible apply State.checkStreamsReady_moves
    | with_reducible apply State.modPort_moves
    | with_reducible apply State.setReg_moves
    | with_reducible apply State.startPort_moves
    | split
    | (conv => arg 2; arg 73; skip
       with_reducible apply Moves.mk)

theorem State.disablePort_moves {s₀ : State} {s : State} {n : Nat} (hm : Moves s₀ s) :
    Moves s₀ (State.disablePort s n) := by
  unfold State.disablePort
  repeat' first
    | with_reducible assumption
    | (intro _; intros)
    | with_reducible apply State.modPort_moves
    | with_reducible apply State.setReg_moves
    | split
    | (conv => arg 2; arg 73; skip
       with_reducible apply Moves.mk)

@[simp] theorem execPortEnable_moves {s₀ : State} {i : Initiator} {n : Nat} :
    Answered s₀ (execPortEnable i n s₀) := by
  have hm := Moves.refl s₀
  refine answered ?_
  repeat' first
    | with_reducible assumption
    | (intro _; intros)
    | with_reducible apply State.enablePort_moves
    | with_reducible apply State.swWrite_moves
    | split

@[simp] theorem execPortDisable_moves {s₀ : State} {i : Initiator} {n : Nat} :
    Answered s₀ (execPortDisable i n s₀) := by
  have hm := Moves.refl s₀
  refine answered ?_
  repeat' first
    | with_reducible assumption
    | (intro _; intros)
    | with_reducible apply State.disablePort_moves
    | with_reducible apply State.swWrite_moves
    | split

@[simp] theorem execPortStop_moves {s₀ : State} {n : Nat} :
    Answered s₀ (execPortStop n s₀) := by
  have hm := Moves.refl s₀
  refine answered ?_
  repeat' first
    | with_reducible assumption
    | (extract_lets +onlyGivenNames x; refine (fun (hx : Moves s₀ x) => ?_) ?_; clear_value x; rotate_left; subst x; rotate_right)
    | (extract_lets +onlyGivenNames x; refine (fun (hx : Moves s₀ x.1) => ?_) ?_; clear_value x; rotate_left; subst x; rotate_right)
    | (extract_lets +onlyGivenNames x; first | clear_value x | subst x)
    | with_reducible apply State.startPort_moves
    | with_reducible apply State.stopPort_moves
    | split
    | dsimp only

theorem State.tunnelLine_moves {s₀ : State} {s : State} {t : Nat} {words : List Nat} (hm : Moves s₀ s) :
    Moves s₀ (State.tunnelLine s t words) := by
  unfold State.tunnelLine
  repeat' first
    | with_reducible assumption
    | (intro _; intros)
    | (extract_lets +onlyGivenNames x; refine (fun (hx : Moves s₀ x) => ?_) ?_; clear_value x; rotate_left; subst x; rotate_right)
    | (extract_lets +onlyGivenNames x; refine (fun (hx : Moves s₀ x.1) => ?_) ?_; clear_value x; rotate_left; subst x; rotate_right)
    | (extract_lets +onlyGivenNames x; first | clear_value x | subst x)
    | with_reducible apply State.modEntry_moves
    | with_reducible apply State.toStreams_moves
    | split
    | (conv => arg 2; arg 73; skip
       with_reducible apply Moves.mk)

end Sys2Proof.Machine
end

