-- ==== Sys2Proof/Laws/MovesOrangery.lean ====
section
/-! SUPPORT. What the operations of Machine/Orangery.lean can do to the memories, the register file, the key slots and the queue: moves, and nothing
else. -/

namespace Sys2Proof.Machine

theorem State.muCount_moves {s₀ : State} {s : State} {mu k n : Nat} (hm : Moves s₀ s) :
    Moves s₀ (State.muCount s mu k n) := by
  unfold State.muCount
  repeat' first
    | with_reducible assumption
    | with_reducible apply State.countN_moves
    | with_reducible apply State.setBit_moves
    | split

theorem State.refEvent_moves {s₀ : State} {s : State} {mu ch idx c j : Nat} {l : List Line} (hm : Moves s₀ s) :
    Moves s₀ (State.refEvent s mu ch idx c j l) := by
  unfold State.refEvent
  repeat' first
    | with_reducible assumption
    | (intro _; intros)
    | (extract_lets +onlyGivenNames x; refine (fun (hx : Moves s₀ x) => ?_) ?_; clear_value x; rotate_left; subst x; rotate_right)
    | (extract_lets +onlyGivenNames x; refine (fun (hx : Moves s₀ x.1) => ?_) ?_; clear_value x; rotate_left; subst x; rotate_right)
    | (extract_lets +onlyGivenNames x; first | clear_value x | subst x)
    | split
    | (conv => arg 2; arg 73; skip
       with_reducible apply Moves.mk)

theorem State.modMember_moves {s₀ : State} {s : State} {mu c : Nat} {f : MuCtx → MuCtx} (hm : Moves s₀ s) :
    Moves s₀ (State.modMember s mu c f) := by
  unfold State.modMember
  repeat' first
    | with_reducible assumption
    | split
    | (conv => arg 2; arg 73; skip
       with_reducible apply Moves.mk)

theorem State.modMergeGrp_moves {s₀ : State} {s : State} {mu g : Nat} {f : MuGrp → MuGrp} (hm : Moves s₀ s) :
    Moves s₀ (State.modMergeGrp s mu g f) := by
  unfold State.modMergeGrp
  repeat' first
    | with_reducible assumption
    | split
    | (conv => arg 2; arg 73; skip
       with_reducible apply Moves.mk)

theorem State.muArrive_moves {s₀ : State} {y0 : Nat} {y1 : State} {y2 : Nat} {y3 : Nat} (hm : Moves s₀ y1) :
    Moves s₀ (State.muArrive y0 y1 y2 y3) := by
  induction y0 generalizing y1 y2 y3 with
  | zero =>
    unfold State.muArrive
    repeat' first
      | with_reducible assumption
      | (intro _; intros)
      | (extract_lets +onlyGivenNames x; refine (fun (hx : Moves s₀ x) => ?_) ?_; clear_value x; rotate_left; subst x; rotate_right)
      | (extract_lets +onlyGivenNames x; refine (fun (hx : Moves s₀ x.1) => ?_) ?_; clear_value x; rotate_left; subst x; rotate_right)
      | (extract_lets +onlyGivenNames x; first | clear_value x | subst x)
      | with_reducible apply State.markerIn_moves
      | with_reducible apply State.modMember_moves
      | with_reducible apply State.refEvent_moves
      | with_reducible apply State.sendTo_moves
      | with_reducible apply State.setWaiting_moves
      | split
      | dsimp only
      | (conv => arg 2; arg 73; skip
         with_reducible apply Moves.mk)
  | succ n ih =>
    unfold State.muArrive
    repeat' first
      | with_reducible assumption
      | (intro _; intros)
      | (extract_lets +onlyGivenNames x; refine (fun (hx : Moves s₀ x) => ?_) ?_; clear_value x; rotate_left; subst x; rotate_right)
      | (extract_lets +onlyGivenNames x; refine (fun (hx : Moves s₀ x.1) => ?_) ?_; clear_value x; rotate_left; subst x; rotate_right)
      | (extract_lets +onlyGivenNames x; first | clear_value x | subst x)
      | with_reducible apply ih
      | with_reducible apply State.markerIn_moves
      | with_reducible apply State.modMember_moves
      | with_reducible apply State.refEvent_moves
      | with_reducible apply State.sendTo_moves
      | with_reducible apply State.setWaiting_moves
      | split
      | dsimp only
      | (conv => arg 2; arg 73; skip
         with_reducible apply Moves.mk)

theorem State.muMarkers_moves {s₀ : State} {s : State} {mu : Nat} (hm : Moves s₀ s) :
    Moves s₀ (State.muMarkers s mu) := by
  unfold State.muMarkers
  repeat' first
    | with_reducible assumption
    | (intro _; intros)
    | with_reducible apply moves_foldl
    | with_reducible apply moves_foldl_fst
    | with_reducible apply State.muArrive_moves
    | split

theorem doMuMemberLine_moves {s₀ : State} {mu : Nat} {gh : Ecc} {s : State} (hm : Moves s₀ s) :
    Moves s₀ (doMuMemberLine mu gh s) := by
  unfold doMuMemberLine
  repeat' first
    | with_reducible assumption
    | (intro _; intros)
    | (rename _ = ((_ : State), _) => heq; have hk := congrArg Prod.fst heq; dsimp only at hk; subst hk; clear heq)
    | (extract_lets +onlyGivenNames x; refine (fun (hx : Moves s₀ x) => ?_) ?_; clear_value x; rotate_left; subst x; rotate_right)
    | (extract_lets +onlyGivenNames x; refine (fun (hx : Moves s₀ x.1) => ?_) ?_; clear_value x; rotate_left; subst x; rotate_right)
    | (extract_lets +onlyGivenNames x; first | clear_value x | subst x)
    | with_reducible apply State.modMember_moves
    | with_reducible apply State.muMarkers_moves
    | with_reducible apply State.readTaken_moves
    | with_reducible apply State.refEvent_moves
    | with_reducible apply State.sendTo_moves
    | split
    | dsimp only
    | (conv => arg 2; arg 73; skip
       with_reducible apply Moves.mk)

@[simp] theorem execMuMemberLine_moves {s₀ : State} {mu : Nat} {gh : Ecc} :
    Answered s₀ (execMuMemberLine mu gh s₀) := by
  have hm := Moves.refl s₀
  refine answered ?_
  repeat' first
    | with_reducible assumption
    | with_reducible apply doMuMemberLine_moves
    | split

theorem State.muSwap_moves {s₀ : State} {s : State} {mu g refC : Nat} {ref : Line} (hm : Moves s₀ s) :
    Moves s₀ (State.muSwap s mu g refC ref) := by
  unfold State.muSwap
  repeat' first
    | with_reducible assumption
    | (intro _; intros)
    | (extract_lets +onlyGivenNames x; refine (fun (hx : Moves s₀ x) => ?_) ?_; clear_value x; rotate_left; subst x; rotate_right)
    | (extract_lets +onlyGivenNames x; refine (fun (hx : Moves s₀ x.1) => ?_) ?_; clear_value x; rotate_left; subst x; rotate_right)
    | (extract_lets +onlyGivenNames x; first | clear_value x | subst x)
    | with_reducible apply State.swapAt_moves
    | split

theorem doMuOutputLine_moves {s₀ : State} {mu g corr : Nat} {bad : List (Nat × Nat × Nat)} {s : State} (hm : Moves s₀ s) :
    Moves s₀ (doMuOutputLine mu g corr bad s) := by
  unfold doMuOutputLine
  repeat' first
    | with_reducible assumption
    | (intro _; intros)
    | (extract_lets +onlyGivenNames x; refine (fun (hx : Moves s₀ x) => ?_) ?_; clear_value x; rotate_left; subst x; rotate_right)
    | (extract_lets +onlyGivenNames x; refine (fun (hx : Moves s₀ x.1) => ?_) ?_; clear_value x; rotate_left; subst x; rotate_right)
    | (extract_lets +onlyGivenNames x; first | clear_value x | subst x)
    | with_reducible apply moves_foldl
    | with_reducible apply moves_foldl_fst
    | with_reducible apply State.modMergeGrp_moves
    | with_reducible apply State.muCount_moves
    | with_reducible apply State.muMarkers_moves
    | with_reducible apply State.muSwap_moves
    | with_reducible apply State.raiseCorrs_moves
    | with_reducible apply State.raiseErrors_moves
    | with_reducible apply State.sendTo_moves
    | with_reducible apply State.setReg_moves
    | split
    | dsimp only
    | (conv => arg 2; arg 73; skip
       with_reducible apply Moves.mk)

@[simp] theorem execMuOutputLine_moves {s₀ : State} {mu g corr : Nat} {bad : List (Nat × Nat × Nat)} :
    Answered s₀ (execMuOutputLine mu g corr bad s₀) := by
  have hm := Moves.refl s₀
  refine answered ?_
  repeat' first
    | with_reducible assumption
    | with_reducible apply doMuOutputLine_moves
    | split

theorem State.loseMember_moves {s₀ : State} {s : State} {mu c idx j : Nat} (hm : Moves s₀ s) :
    Moves s₀ (State.loseMember s mu c idx j) := by
  unfold State.loseMember
  repeat' first
    | with_reducible assumption
    | (intro _; intros)
    | with_reducible apply State.modMember_moves
    | with_reducible apply State.muCount_moves
    | split
    | (conv => arg 2; arg 73; skip
       with_reducible apply Moves.mk)

theorem doMuMemberTimeout_moves {s₀ : State} {mu c j : Nat} {s : State} (hm : Moves s₀ s) :
    Moves s₀ (doMuMemberTimeout mu c j s) := by
  unfold doMuMemberTimeout
  repeat' first
    | with_reducible assumption
    | (extract_lets +onlyGivenNames x; refine (fun (hx : Moves s₀ x) => ?_) ?_; clear_value x; rotate_left; subst x; rotate_right)
    | (extract_lets +onlyGivenNames x; refine (fun (hx : Moves s₀ x.1) => ?_) ?_; clear_value x; rotate_left; subst x; rotate_right)
    | (extract_lets +onlyGivenNames x; first | clear_value x | subst x)
    | with_reducible apply State.loseMember_moves
    | with_reducible apply State.muMarkers_moves
    | with_reducible apply State.sendDec_moves
    | split
    | dsimp only
    | (conv => arg 2; arg 73; skip
       with_reducible apply Moves.mk)

@[simp] theorem execMuMemberTimeout_moves {s₀ : State} {mu c j : Nat} :
    Answered s₀ (execMuMemberTimeout mu c j s₀) := by
  have hm := Moves.refl s₀
  refine answered ?_
  repeat' first
    | with_reducible assumption
    | with_reducible apply doMuMemberTimeout_moves
    | split

theorem doMuShadowWait_moves {s₀ : State} {mu c j : Nat} {s : State} (hm : Moves s₀ s) :
    Moves s₀ (doMuShadowWait mu c j s) := by
  unfold doMuShadowWait
  repeat' first
    | with_reducible assumption
    | (extract_lets +onlyGivenNames x; refine (fun (hx : Moves s₀ x) => ?_) ?_; clear_value x; rotate_left; subst x; rotate_right)
    | (extract_lets +onlyGivenNames x; refine (fun (hx : Moves s₀ x.1) => ?_) ?_; clear_value x; rotate_left; subst x; rotate_right)
    | (extract_lets +onlyGivenNames x; first | clear_value x | subst x)
    | with_reducible apply State.loseMember_moves
    | with_reducible apply State.muMarkers_moves
    | with_reducible apply State.raiseError_moves
    | with_reducible apply State.setBit_moves
    | split
    | dsimp only
    | (conv => arg 2; arg 73; skip
       with_reducible apply Moves.mk)

@[simp] theorem execMuShadowWait_moves {s₀ : State} {mu c j : Nat} :
    Answered s₀ (execMuShadowWait mu c j s₀) := by
  have hm := Moves.refl s₀
  refine answered ?_
  repeat' first
    | with_reducible assumption
    | with_reducible apply doMuShadowWait_moves
    | split

theorem State.decMember_moves {s₀ : State} {s : State} {mu ch idx j : Nat} (hm : Moves s₀ s) :
    Moves s₀ (State.decMember s mu ch idx j) := by
  unfold State.decMember
  repeat' first
    | with_reducible assumption
    | with_reducible apply State.loseMember_moves
    | split
    | dsimp only
    | (conv => arg 2; arg 73; skip
       with_reducible apply Moves.mk)

theorem doMuMarker_moves {s₀ : State} {mu g : Nat} {s : State} (hm : Moves s₀ s) :
    Moves s₀ (doMuMarker mu g s) := by
  unfold doMuMarker
  repeat' first
    | with_reducible assumption
    | (intro _; intros)
    | (extract_lets +onlyGivenNames x; refine (fun (hx : Moves s₀ x) => ?_) ?_; clear_value x; rotate_left; subst x; rotate_right)
    | (extract_lets +onlyGivenNames x; refine (fun (hx : Moves s₀ x.1) => ?_) ?_; clear_value x; rotate_left; subst x; rotate_right)
    | (extract_lets +onlyGivenNames x; first | clear_value x | subst x)
    | with_reducible apply moves_foldl
    | with_reducible apply moves_foldl_fst
    | with_reducible apply State.modMember_moves
    | with_reducible apply State.modMergeGrp_moves
    | with_reducible apply State.muMarkers_moves
    | with_reducible apply State.sendTo_moves
    | split
    | dsimp only
    | (conv => arg 2; arg 73; skip
       with_reducible apply Moves.mk)

@[simp] theorem execMuMarker_moves {s₀ : State} {mu g : Nat} :
    Answered s₀ (execMuMarker mu g s₀) := by
  have hm := Moves.refl s₀
  refine answered ?_
  repeat' first
    | with_reducible assumption
    | with_reducible apply doMuMarker_moves
    | split

end Sys2Proof.Machine
end

