-- ==== Sys2Proof/Laws/MovesBelvedere.lean ====
section
/-! SUPPORT. What the operations of Machine/Belvedere.lean can do to the memories, the register file, the key slots and the queue: moves, and nothing
else. -/

namespace Sys2Proof.Machine

theorem State.buCount_moves {s₀ : State} {s : State} {b k n : Nat} (hm : Moves s₀ s) :
    Moves s₀ (State.buCount s b k n) := by
  unfold State.buCount
  repeat' first
    | with_reducible assumption
    | with_reducible apply State.countN_moves
    | with_reducible apply State.setBit_moves
    | split

theorem State.modBu_moves {s₀ : State} {s : State} {b c : Nat} {f : BuCtx → BuCtx} (hm : Moves s₀ s) :
    Moves s₀ (State.modBu s b c f) := by
  unfold State.modBu
  repeat' first
    | with_reducible assumption
    | split
    | (conv => arg 2; arg 73; skip
       with_reducible apply Moves.mk)

theorem State.buErrors_moves {s₀ : State} {s : State} {b c : Nat} {errs : List BuErr} (hm : Moves s₀ s) :
    Moves s₀ (State.buErrors s b c errs) := by
  unfold State.buErrors
  repeat' first
    | with_reducible assumption
    | (intro _; intros)
    | with_reducible apply moves_foldl
    | with_reducible apply moves_foldl_fst
    | with_reducible apply State.buCount_moves
    | with_reducible apply State.modBu_moves
    | with_reducible apply State.raiseCorr_moves
    | with_reducible apply State.raiseError_moves
    | split
    | (conv => arg 2; arg 73; skip
       with_reducible apply Moves.mk)

theorem State.buAdvance_moves {s₀ : State} {b c ch : Nat} {post : Bool} {recipe : Option Nat} {line : Nat} {y0 : Nat} {y1 : State} (hm : Moves s₀ y1) :
    Moves s₀ (State.buAdvance b c ch post recipe line y0 y1) := by
  induction y0 generalizing y1 with
  | zero =>
    unfold State.buAdvance
    repeat' first
      | with_reducible assumption
      | (intro _; intros)
      | (extract_lets +onlyGivenNames x; refine (fun (hx : Moves s₀ x) => ?_) ?_; clear_value x; rotate_left; subst x; rotate_right)
      | (extract_lets +onlyGivenNames x; refine (fun (hx : Moves s₀ x.1) => ?_) ?_; clear_value x; rotate_left; subst x; rotate_right)
      | (extract_lets +onlyGivenNames x; first | clear_value x | subst x)
      | with_reducible apply State.modBu_moves
      | split
      | dsimp only
      | (conv => arg 2; arg 73; skip
         with_reducible apply Moves.mk)
  | succ n ih =>
    unfold State.buAdvance
    repeat' first
      | with_reducible assumption
      | (intro _; intros)
      | (extract_lets +onlyGivenNames x; refine (fun (hx : Moves s₀ x) => ?_) ?_; clear_value x; rotate_left; subst x; rotate_right)
      | (extract_lets +onlyGivenNames x; refine (fun (hx : Moves s₀ x.1) => ?_) ?_; clear_value x; rotate_left; subst x; rotate_right)
      | (extract_lets +onlyGivenNames x; first | clear_value x | subst x)
      | with_reducible apply ih
      | with_reducible apply State.modBu_moves
      | split
      | dsimp only
      | (conv => arg 2; arg 73; skip
         with_reducible apply Moves.mk)

theorem State.buLine_moves {s₀ : State} {s : State} {b c ch : Nat} {post : Bool} {errs : List BuErr} {l : Line} (hm : Moves s₀ s) :
    Moves s₀ (State.buLine s b c ch post errs l) := by
  unfold State.buLine
  repeat' first
    | with_reducible assumption
    | (intro _; intros)
    | (extract_lets +onlyGivenNames x; refine (fun (hx : Moves s₀ x) => ?_) ?_; clear_value x; rotate_left; subst x; rotate_right)
    | (extract_lets +onlyGivenNames x; refine (fun (hx : Moves s₀ x.1) => ?_) ?_; clear_value x; rotate_left; subst x; rotate_right)
    | (extract_lets +onlyGivenNames x; first | clear_value x | subst x)
    | with_reducible apply State.buAdvance_moves
    | with_reducible apply State.buCount_moves
    | with_reducible apply State.buErrors_moves
    | with_reducible apply State.modBu_moves
    | split
    | dsimp only
    | (conv => arg 2; arg 73; skip
       with_reducible apply Moves.mk)

theorem State.buMark_moves {s₀ : State} {s : State} {b c ch : Nat} {post : Bool} {m : Marker} (hm : Moves s₀ s) :
    Moves s₀ (State.buMark s b c ch post m) := by
  unfold State.buMark
  repeat' first
    | with_reducible assumption
    | (intro _; intros)
    | (extract_lets +onlyGivenNames x; refine (fun (hx : Moves s₀ x) => ?_) ?_; clear_value x; rotate_left; subst x; rotate_right)
    | (extract_lets +onlyGivenNames x; refine (fun (hx : Moves s₀ x.1) => ?_) ?_; clear_value x; rotate_left; subst x; rotate_right)
    | (extract_lets +onlyGivenNames x; first | clear_value x | subst x)
    | with_reducible apply State.buAdvance_moves
    | with_reducible apply State.count_moves
    | with_reducible apply State.modBu_moves
    | split
    | dsimp only
    | (conv => arg 2; arg 73; skip
       with_reducible apply Moves.mk)

theorem State.observe_moves {s₀ : State} {s : State} {ch : Nat} {post : Bool} {errs : List BuErr} {it : Item} (hm : Moves s₀ s) :
    Moves s₀ (State.observe s ch post errs it) := by
  unfold State.observe
  repeat' first
    | with_reducible assumption
    | (intro _; intros)
    | with_reducible apply moves_foldl
    | with_reducible apply moves_foldl_fst
    | with_reducible apply State.buLine_moves
    | with_reducible apply State.buMark_moves
    | split
    | dsimp only
    | (conv => arg 2; arg 73; skip
       with_reducible apply Moves.mk)

theorem State.observeOf_moves {s₀ : State} {s : State} {ch : Nat} {errs : List BuErr} {it : Item} (hm : Moves s₀ s) :
    Moves s₀ (State.observeOf s ch errs it) := by
  unfold State.observeOf
  repeat' first
    | with_reducible assumption
    | (extract_lets +onlyGivenNames x; refine (fun (hx : Moves s₀ x) => ?_) ?_; clear_value x; rotate_left; subst x; rotate_right)
    | (extract_lets +onlyGivenNames x; refine (fun (hx : Moves s₀ x.1) => ?_) ?_; clear_value x; rotate_left; subst x; rotate_right)
    | (extract_lets +onlyGivenNames x; first | clear_value x | subst x)
    | with_reducible apply State.observe_moves
    | split

theorem State.recDiff_moves {s₀ : State} {s : State} {same : Bool} (hm : Moves s₀ s) :
    Moves s₀ (State.recDiff s same) := by
  unfold State.recDiff
  repeat' first
    | with_reducible assumption
    | with_reducible apply State.count_moves
    | with_reducible apply State.setFld_moves
    | split

theorem State.sendRec_moves {s₀ : State} {s : State} {b c seqNo doc check : Nat} (hm : Moves s₀ s) :
    Moves s₀ (State.sendRec s b c seqNo doc check) := by
  unfold State.sendRec
  repeat' first
    | with_reducible assumption
    | (intro _; intros)
    | (extract_lets +onlyGivenNames x; refine (fun (hx : Moves s₀ x) => ?_) ?_; clear_value x; rotate_left; subst x; rotate_right)
    | (extract_lets +onlyGivenNames x; refine (fun (hx : Moves s₀ x.1) => ?_) ?_; clear_value x; rotate_left; subst x; rotate_right)
    | (extract_lets +onlyGivenNames x; first | clear_value x | subst x)
    | with_reducible apply State.modBu_moves
    | with_reducible apply State.recDiff_moves
    | with_reducible apply State.toPartner_moves
    | split
    | dsimp only
    | (conv => arg 2; arg 73; skip
       with_reducible apply Moves.mk)

theorem State.recReport_moves {s₀ : State} {s : State} {b c seqNo doc check : Nat} (hm : Moves s₀ s) :
    Moves s₀ (State.recReport s b c seqNo doc check) := by
  unfold State.recReport
  repeat' first
    | with_reducible assumption
    | (intro _; intros)
    | with_reducible apply State.modBu_moves
    | with_reducible apply State.recDiff_moves
    | split
    | dsimp only
    | (conv => arg 2; arg 73; skip
       with_reducible apply Moves.mk)

end Sys2Proof.Machine
end

