-- ==== Sys2Proof/Laws/MovesTrellis.lean ====
section
/-! SUPPORT. What the operations of Machine/Trellis.lean can do to the memories, the register file, the key slots and the queue: moves, and nothing
else. -/

namespace Sys2Proof.Machine

theorem State.guCount_moves {s₀ : State} {s : State} {p k n : Nat} (hm : Moves s₀ s) :
    Moves s₀ (State.guCount s p k n) := by
  unfold State.guCount
  repeat' first
    | with_reducible assumption
    | with_reducible apply State.countN_moves
    | with_reducible apply State.setBit_moves
    | split

theorem State.modGuC_moves {s₀ : State} {s : State} {p c : Nat} {f : GuCtx → GuCtx} (hm : Moves s₀ s) :
    Moves s₀ (State.modGuC s p c f) := by
  unfold State.modGuC
  repeat' first
    | with_reducible assumption
    | split
    | (conv => arg 2; arg 73; skip
       with_reducible apply Moves.mk)

theorem State.modGuP_moves {s₀ : State} {s : State} {p q : Nat} {f : GuPath → GuPath} (hm : Moves s₀ s) :
    Moves s₀ (State.modGuP s p q f) := by
  unfold State.modGuP
  repeat' first
    | with_reducible assumption
    | split
    | (conv => arg 2; arg 73; skip
       with_reducible apply Moves.mk)

theorem State.showRing_moves {s₀ : State} {s : State} {p c : Nat} (hm : Moves s₀ s) :
    Moves s₀ (State.showRing s p c) := by
  unfold State.showRing
  repeat' first
    | with_reducible assumption
    | with_reducible apply State.setFld_moves
    | split

theorem State.ringWrite_moves {s₀ : State} {s : State} {p c : Nat} {x : GuLine} (hm : Moves s₀ s) :
    Moves s₀ (State.ringWrite s p c x) := by
  unfold State.ringWrite
  repeat' first
    | with_reducible assumption
    | (intro _; intros)
    | with_reducible apply moves_foldl
    | with_reducible apply moves_foldl_fst
    | with_reducible apply State.fmPut_moves
    | split

theorem State.tileRead_moves {s₀ : State} {s : State} {p c : Nat} {x : GuLine} {t extra : Nat} (hm : Moves s₀ s) :
    Moves s₀ (State.tileRead s p c x t extra).1 := by
  unfold State.tileRead
  repeat' first
    | with_reducible assumption
    | (intro _; intros)
    | (extract_lets +onlyGivenNames x; refine (fun (hx : Moves s₀ x) => ?_) ?_; clear_value x; rotate_left; subst x; rotate_right)
    | (extract_lets +onlyGivenNames x; refine (fun (hx : Moves s₀ x.1) => ?_) ?_; clear_value x; rotate_left; subst x; rotate_right)
    | (extract_lets +onlyGivenNames x; first | clear_value x | subst x)
    | with_reducible apply moves_foldl
    | with_reducible apply moves_foldl_fst
    | with_reducible apply State.fmFetch_moves
    | split
    | dsimp only

theorem State.guStore_moves {s₀ : State} {s : State} {p c : Nat} {x : GuLine} (hm : Moves s₀ s) :
    Moves s₀ (State.guStore s p c x) := by
  unfold State.guStore
  repeat' first
    | with_reducible assumption
    | (intro _; intros)
    | (extract_lets +onlyGivenNames x; refine (fun (hx : Moves s₀ x) => ?_) ?_; clear_value x; rotate_left; subst x; rotate_right)
    | (extract_lets +onlyGivenNames x; refine (fun (hx : Moves s₀ x.1) => ?_) ?_; clear_value x; rotate_left; subst x; rotate_right)
    | (extract_lets +onlyGivenNames x; first | clear_value x | subst x)
    | with_reducible apply State.modGuC_moves
    | with_reducible apply State.ringWrite_moves
    | with_reducible apply State.showRing_moves
    | split
    | (conv => arg 2; arg 73; skip
       with_reducible apply Moves.mk)

theorem State.guDiscard_moves {s₀ : State} {s : State} {p c : Nat} {x : GuLine} (hm : Moves s₀ s) :
    Moves s₀ (State.guDiscard s p c x) := by
  unfold State.guDiscard
  repeat' first
    | with_reducible assumption
    | (intro _; intros)
    | with_reducible apply State.guCount_moves
    | with_reducible apply State.modGuC_moves
    | split
    | (conv => arg 2; arg 73; skip
       with_reducible apply Moves.mk)

theorem State.guDecide_moves {s₀ : State} {s : State} {p c : Nat} {x : GuLine} (hm : Moves s₀ s) :
    Moves s₀ (State.guDecide s p c x) := by
  unfold State.guDecide
  repeat' first
    | with_reducible assumption
    | (extract_lets +onlyGivenNames x; refine (fun (hx : Moves s₀ x) => ?_) ?_; clear_value x; rotate_left; subst x; rotate_right)
    | (extract_lets +onlyGivenNames x; refine (fun (hx : Moves s₀ x.1) => ?_) ?_; clear_value x; rotate_left; subst x; rotate_right)
    | (extract_lets +onlyGivenNames x; first | clear_value x | subst x)
    | with_reducible apply State.guDiscard_moves
    | with_reducible apply State.guStore_moves
    | with_reducible apply State.sendDec_moves
    | split

theorem State.guApply_moves {s₀ : State} {s : State} {p c : Nat} {x : GuLine} {outcome : Nat} (hm : Moves s₀ s) :
    Moves s₀ (State.guApply s p c x outcome) := by
  unfold State.guApply
  repeat' first
    | with_reducible assumption
    | (intro _; intros)
    | with_reducible apply State.guDiscard_moves
    | with_reducible apply State.guStore_moves
    | with_reducible apply State.modGuC_moves
    | with_reducible apply State.raiseError_moves
    | with_reducible apply State.setFld_moves
    | split
    | (conv => arg 2; arg 73; skip
       with_reducible apply Moves.mk)

theorem State.guSettle_moves {s₀ : State} {y0 : Nat} {y1 : State} {y2 : Nat} {y3 : Nat} (hm : Moves s₀ y1) :
    Moves s₀ (State.guSettle y0 y1 y2 y3) := by
  induction y0 generalizing y1 y2 y3 with
  | zero =>
    unfold State.guSettle
    repeat' first
      | with_reducible assumption
      | (intro _; intros)
      | (extract_lets +onlyGivenNames x; refine (fun (hx : Moves s₀ x) => ?_) ?_; clear_value x; rotate_left; subst x; rotate_right)
      | (extract_lets +onlyGivenNames x; refine (fun (hx : Moves s₀ x.1) => ?_) ?_; clear_value x; rotate_left; subst x; rotate_right)
      | (extract_lets +onlyGivenNames x; first | clear_value x | subst x)
      | with_reducible apply State.guApply_moves
      | with_reducible apply State.modGuC_moves
      | split
      | dsimp only
      | (conv => arg 2; arg 73; skip
         with_reducible apply Moves.mk)
  | succ n ih =>
    unfold State.guSettle
    repeat' first
      | with_reducible assumption
      | (intro _; intros)
      | (extract_lets +onlyGivenNames x; refine (fun (hx : Moves s₀ x) => ?_) ?_; clear_value x; rotate_left; subst x; rotate_right)
      | (extract_lets +onlyGivenNames x; refine (fun (hx : Moves s₀ x.1) => ?_) ?_; clear_value x; rotate_left; subst x; rotate_right)
      | (extract_lets +onlyGivenNames x; first | clear_value x | subst x)
      | with_reducible apply ih
      | with_reducible apply State.guApply_moves
      | with_reducible apply State.modGuC_moves
      | split
      | dsimp only
      | (conv => arg 2; arg 73; skip
         with_reducible apply Moves.mk)

theorem State.guEmit_moves {s₀ : State} {s : State} {p c : Nat} {x : GuLine} (hm : Moves s₀ s) :
    Moves s₀ (State.guEmit s p c x) := by
  unfold State.guEmit
  repeat' first
    | with_reducible assumption
    | (intro _; intros)
    | (extract_lets +onlyGivenNames x; refine (fun (hx : Moves s₀ x) => ?_) ?_; clear_value x; rotate_left; subst x; rotate_right)
    | (extract_lets +onlyGivenNames x; refine (fun (hx : Moves s₀ x.1) => ?_) ?_; clear_value x; rotate_left; subst x; rotate_right)
    | (extract_lets +onlyGivenNames x; first | clear_value x | subst x)
    | with_reducible apply State.guSettle_moves
    | with_reducible apply State.guDecide_moves
    | with_reducible apply State.modGuC_moves
    | split
    | (conv => arg 2; arg 73; skip
       with_reducible apply Moves.mk)

theorem State.gridLine_moves {s₀ : State} {s : State} {p c idx : Nat} {l : Line} {dist : Nat} (hm : Moves s₀ s) :
    Moves s₀ (State.gridLine s p c idx l dist) := by
  unfold State.gridLine
  repeat' first
    | with_reducible assumption
    | (intro _; intros)
    | (extract_lets +onlyGivenNames x; refine (fun (hx : Moves s₀ x) => ?_) ?_; clear_value x; rotate_left; subst x; rotate_right)
    | (extract_lets +onlyGivenNames x; refine (fun (hx : Moves s₀ x.1) => ?_) ?_; clear_value x; rotate_left; subst x; rotate_right)
    | (extract_lets +onlyGivenNames x; first | clear_value x | subst x)
    | with_reducible apply State.guCount_moves
    | with_reducible apply State.guEmit_moves
    | with_reducible apply State.modGuC_moves
    | split
    | (conv => arg 2; arg 73; skip
       with_reducible apply Moves.mk)

theorem State.gridFirst_moves {s₀ : State} {p c : Nat} {l : Line} {y0 : Nat} {y1 : State} (hm : Moves s₀ y1) :
    Moves s₀ (State.gridFirst p c l y0 y1) := by
  induction y0 generalizing y1 with
  | zero =>
    unfold State.gridFirst
    repeat' first
      | with_reducible assumption
      | (extract_lets +onlyGivenNames x; refine (fun (hx : Moves s₀ x) => ?_) ?_; clear_value x; rotate_left; subst x; rotate_right)
      | (extract_lets +onlyGivenNames x; refine (fun (hx : Moves s₀ x.1) => ?_) ?_; clear_value x; rotate_left; subst x; rotate_right)
      | (extract_lets +onlyGivenNames x; first | clear_value x | subst x)
      | with_reducible apply State.gridLine_moves
      | split
  | succ n ih =>
    unfold State.gridFirst
    repeat' first
      | with_reducible assumption
      | (extract_lets +onlyGivenNames x; refine (fun (hx : Moves s₀ x) => ?_) ?_; clear_value x; rotate_left; subst x; rotate_right)
      | (extract_lets +onlyGivenNames x; refine (fun (hx : Moves s₀ x.1) => ?_) ?_; clear_value x; rotate_left; subst x; rotate_right)
      | (extract_lets +onlyGivenNames x; first | clear_value x | subst x)
      | with_reducible apply ih
      | with_reducible apply State.gridLine_moves
      | split

theorem State.gridPair_moves {s₀ : State} {p c : Nat} {prev cur : Line} {y0 : Nat} {y1 : State} (hm : Moves s₀ y1) :
    Moves s₀ (State.gridPair p c prev cur y0 y1) := by
  induction y0 generalizing y1 with
  | zero =>
    unfold State.gridPair
    repeat' first
      | with_reducible assumption
      | (extract_lets +onlyGivenNames x; refine (fun (hx : Moves s₀ x) => ?_) ?_; clear_value x; rotate_left; subst x; rotate_right)
      | (extract_lets +onlyGivenNames x; refine (fun (hx : Moves s₀ x.1) => ?_) ?_; clear_value x; rotate_left; subst x; rotate_right)
      | (extract_lets +onlyGivenNames x; first | clear_value x | subst x)
      | with_reducible apply State.gridLine_moves
      | split
  | succ n ih =>
    unfold State.gridPair
    repeat' first
      | with_reducible assumption
      | (extract_lets +onlyGivenNames x; refine (fun (hx : Moves s₀ x) => ?_) ?_; clear_value x; rotate_left; subst x; rotate_right)
      | (extract_lets +onlyGivenNames x; refine (fun (hx : Moves s₀ x.1) => ?_) ?_; clear_value x; rotate_left; subst x; rotate_right)
      | (extract_lets +onlyGivenNames x; first | clear_value x | subst x)
      | with_reducible apply ih
      | with_reducible apply State.gridLine_moves
      | split

theorem State.guRegrid_moves {s₀ : State} {s : State} {p c ch : Nat} {l : Line} (hm : Moves s₀ s) :
    Moves s₀ (State.guRegrid s p c ch l) := by
  unfold State.guRegrid
  repeat' first
    | with_reducible assumption
    | (intro _; intros)
    | (extract_lets +onlyGivenNames x; refine (fun (hx : Moves s₀ x) => ?_) ?_; clear_value x; rotate_left; subst x; rotate_right)
    | (extract_lets +onlyGivenNames x; refine (fun (hx : Moves s₀ x.1) => ?_) ?_; clear_value x; rotate_left; subst x; rotate_right)
    | (extract_lets +onlyGivenNames x; first | clear_value x | subst x)
    | with_reducible apply State.gridFirst_moves
    | with_reducible apply State.gridPair_moves
    | with_reducible apply State.guCount_moves
    | with_reducible apply State.modGuC_moves
    | split
    | dsimp only
    | (conv => arg 2; arg 73; skip
       with_reducible apply Moves.mk)

theorem State.guArrive_moves {s₀ : State} {y0 : Nat} {y1 : State} {y2 : Nat} {y3 : Nat} {y4 : List BuErr} (hm : Moves s₀ y1) :
    Moves s₀ (State.guArrive y0 y1 y2 y3 y4) := by
  induction y0 generalizing y1 y2 y3 y4 with
  | zero =>
    unfold State.guArrive
    repeat' first
      | with_reducible assumption
      | (intro _; intros)
      | (extract_lets +onlyGivenNames x; refine (fun (hx : Moves s₀ x) => ?_) ?_; clear_value x; rotate_left; subst x; rotate_right)
      | (extract_lets +onlyGivenNames x; refine (fun (hx : Moves s₀ x.1) => ?_) ?_; clear_value x; rotate_left; subst x; rotate_right)
      | (extract_lets +onlyGivenNames x; first | clear_value x | subst x)
      | with_reducible apply State.count_moves
      | with_reducible apply State.markerIn_moves
      | with_reducible apply State.modGuC_moves
      | with_reducible apply State.observe_moves
      | with_reducible apply State.sendTo_moves
      | with_reducible apply State.setWaiting_moves
      | split
      | dsimp only
      | (conv => arg 2; arg 73; skip
         with_reducible apply Moves.mk)
  | succ n ih =>
    unfold State.guArrive
    repeat' first
      | with_reducible assumption
      | (intro _; intros)
      | (extract_lets +onlyGivenNames x; refine (fun (hx : Moves s₀ x) => ?_) ?_; clear_value x; rotate_left; subst x; rotate_right)
      | (extract_lets +onlyGivenNames x; refine (fun (hx : Moves s₀ x.1) => ?_) ?_; clear_value x; rotate_left; subst x; rotate_right)
      | (extract_lets +onlyGivenNames x; first | clear_value x | subst x)
      | with_reducible apply ih
      | with_reducible apply State.count_moves
      | with_reducible apply State.markerIn_moves
      | with_reducible apply State.modGuC_moves
      | with_reducible apply State.observe_moves
      | with_reducible apply State.sendTo_moves
      | with_reducible apply State.setWaiting_moves
      | split
      | dsimp only
      | (conv => arg 2; arg 73; skip
         with_reducible apply Moves.mk)

theorem State.guMarkers_moves {s₀ : State} {s : State} {p : Nat} (hm : Moves s₀ s) :
    Moves s₀ (State.guMarkers s p) := by
  unfold State.guMarkers
  repeat' first
    | with_reducible assumption
    | (intro _; intros)
    | with_reducible apply moves_foldl
    | with_reducible apply moves_foldl_fst
    | with_reducible apply State.guArrive_moves
    | split

theorem doGuInput_moves {s₀ : State} {p : Nat} {gh : Ecc} {errs : List BuErr} {s : State} (hm : Moves s₀ s) :
    Moves s₀ (doGuInput p gh errs s) := by
  unfold doGuInput
  repeat' first
    | with_reducible assumption
    | (rename _ = ((_ : State), _) => heq; have hk := congrArg Prod.fst heq; dsimp only at hk; subst hk; clear heq)
    | (extract_lets +onlyGivenNames x; refine (fun (hx : Moves s₀ x) => ?_) ?_; clear_value x; rotate_left; subst x; rotate_right)
    | (extract_lets +onlyGivenNames x; refine (fun (hx : Moves s₀ x.1) => ?_) ?_; clear_value x; rotate_left; subst x; rotate_right)
    | (extract_lets +onlyGivenNames x; first | clear_value x | subst x)
    | with_reducible apply State.guMarkers_moves
    | with_reducible apply State.guRegrid_moves
    | with_reducible apply State.observe_moves
    | with_reducible apply State.readTaken_moves
    | with_reducible apply State.sendTo_moves
    | with_reducible apply State.swapAt_moves
    | split
    | dsimp only
    | (conv => arg 2; arg 73; skip
       with_reducible apply Moves.mk)

@[simp] theorem execGuInputLine_moves {s₀ : State} {p : Nat} {gh : Ecc} {errs : List BuErr} :
    Answered s₀ (execGuInputLine p gh errs s₀) := by
  have hm := Moves.refl s₀
  refine answered ?_
  repeat' first
    | with_reducible assumption
    | with_reducible apply doGuInput_moves
    | split

theorem doGuTimeout_moves {s₀ : State} {p c : Nat} {s : State} (hm : Moves s₀ s) :
    Moves s₀ (doGuTimeout p c s) := by
  unfold doGuTimeout
  repeat' first
    | with_reducible assumption
    | (intro _; intros)
    | (extract_lets +onlyGivenNames x; refine (fun (hx : Moves s₀ x) => ?_) ?_; clear_value x; rotate_left; subst x; rotate_right)
    | (extract_lets +onlyGivenNames x; refine (fun (hx : Moves s₀ x.1) => ?_) ?_; clear_value x; rotate_left; subst x; rotate_right)
    | (extract_lets +onlyGivenNames x; first | clear_value x | subst x)
    | with_reducible apply State.modGuC_moves
    | with_reducible apply State.raiseErrors_moves
    | with_reducible apply State.setFld_moves
    | split
    | (conv => arg 2; arg 73; skip
       with_reducible apply Moves.mk)

@[simp] theorem execGuDiscardDecisionTimeout_moves {s₀ : State} {p c : Nat} :
    Answered s₀ (execGuDiscardDecisionTimeout p c s₀) := by
  have hm := Moves.refl s₀
  refine answered ?_
  repeat' first
    | with_reducible assumption
    | with_reducible apply doGuTimeout_moves
    | split

theorem State.guBegin_moves {s₀ : State} {s : State} {p q idx doc ch : Nat} (hm : Moves s₀ s) :
    Moves s₀ (State.guBegin s p q idx doc ch) := by
  unfold State.guBegin
  repeat' first
    | with_reducible assumption
    | (intro _; intros)
    | (extract_lets +onlyGivenNames x; refine (fun (hx : Moves s₀ x) => ?_) ?_; clear_value x; rotate_left; subst x; rotate_right)
    | (extract_lets +onlyGivenNames x; refine (fun (hx : Moves s₀ x.1) => ?_) ?_; clear_value x; rotate_left; subst x; rotate_right)
    | (extract_lets +onlyGivenNames x; first | clear_value x | subst x)
    | with_reducible apply State.modGuP_moves
    | with_reducible apply State.swapAt_moves
    | split
    | dsimp only
    | (conv => arg 2; arg 73; skip
       with_reducible apply Moves.mk)

theorem State.showAngle_moves {s₀ : State} {s : State} {p q : Nat} {b : GuBox} {followed : Bool} (hm : Moves s₀ s) :
    Moves s₀ (State.showAngle s p q b followed) := by
  unfold State.showAngle
  repeat' first
    | with_reducible assumption
    | (extract_lets +onlyGivenNames x; refine (fun (hx : Moves s₀ x) => ?_) ?_; clear_value x; rotate_left; subst x; rotate_right)
    | (extract_lets +onlyGivenNames x; refine (fun (hx : Moves s₀ x.1) => ?_) ?_; clear_value x; rotate_left; subst x; rotate_right)
    | (extract_lets +onlyGivenNames x; first | clear_value x | subst x)
    | with_reducible apply State.setFld_moves
    | split

theorem State.guPublish_moves {s₀ : State} {s : State} {p q : Nat} (hm : Moves s₀ s) :
    Moves s₀ (State.guPublish s p q) := by
  unfold State.guPublish
  repeat' first
    | with_reducible assumption
    | (intro _; intros)
    | (extract_lets +onlyGivenNames x; refine (fun (hx : Moves s₀ x) => ?_) ?_; clear_value x; rotate_left; subst x; rotate_right)
    | (extract_lets +onlyGivenNames x; refine (fun (hx : Moves s₀ x.1) => ?_) ?_; clear_value x; rotate_left; subst x; rotate_right)
    | (extract_lets +onlyGivenNames x; first | clear_value x | subst x)
    | split
    | dsimp only
    | (conv => arg 2; arg 73; skip
       with_reducible apply Moves.mk)

theorem State.guFix_moves {s₀ : State} {s : State} {p q lines : Nat} (hm : Moves s₀ s) :
    Moves s₀ (State.guFix s p q lines) := by
  unfold State.guFix
  repeat' first
    | with_reducible assumption
    | (intro _; intros)
    | (extract_lets +onlyGivenNames x; refine (fun (hx : Moves s₀ x) => ?_) ?_; clear_value x; rotate_left; subst x; rotate_right)
    | (extract_lets +onlyGivenNames x; refine (fun (hx : Moves s₀ x.1) => ?_) ?_; clear_value x; rotate_left; subst x; rotate_right)
    | (extract_lets +onlyGivenNames x; first | clear_value x | subst x)
    | with_reducible apply State.guCount_moves
    | with_reducible apply State.modGuP_moves
    | with_reducible apply State.showAngle_moves
    | split
    | (conv => arg 2; arg 73; skip
       with_reducible apply Moves.mk)

theorem State.guMeasure_moves {s₀ : State} {s : State} {p q g : Nat} {l : Line} (hm : Moves s₀ s) :
    Moves s₀ (State.guMeasure s p q g l) := by
  unfold State.guMeasure
  repeat' first
    | with_reducible assumption
    | (intro _; intros)
    | (extract_lets +onlyGivenNames x; refine (fun (hx : Moves s₀ x) => ?_) ?_; clear_value x; rotate_left; subst x; rotate_right)
    | (extract_lets +onlyGivenNames x; refine (fun (hx : Moves s₀ x.1) => ?_) ?_; clear_value x; rotate_left; subst x; rotate_right)
    | (extract_lets +onlyGivenNames x; first | clear_value x | subst x)
    | with_reducible apply State.guFix_moves
    | with_reducible apply State.guPublish_moves
    | with_reducible apply State.modGuP_moves
    | split
    | dsimp only
    | (conv => arg 2; arg 73; skip
       with_reducible apply Moves.mk)

theorem State.guFollow_moves {s₀ : State} {s : State} {p q : Nat} (hm : Moves s₀ s) :
    Moves s₀ (State.guFollow s p q) := by
  unfold State.guFollow
  repeat' first
    | with_reducible assumption
    | (intro _; intros)
    | (extract_lets +onlyGivenNames x; refine (fun (hx : Moves s₀ x) => ?_) ?_; clear_value x; rotate_left; subst x; rotate_right)
    | (extract_lets +onlyGivenNames x; refine (fun (hx : Moves s₀ x.1) => ?_) ?_; clear_value x; rotate_left; subst x; rotate_right)
    | (extract_lets +onlyGivenNames x; first | clear_value x | subst x)
    | with_reducible apply State.guCount_moves
    | with_reducible apply State.guPublish_moves
    | with_reducible apply State.modGuP_moves
    | with_reducible apply State.showAngle_moves
    | split
    | dsimp only
    | (conv => arg 2; arg 73; skip
       with_reducible apply Moves.mk)

theorem State.guSkip_moves {s₀ : State} {p q idx : Nat} {y0 : Nat} {y1 : State} (hm : Moves s₀ y1) :
    Moves s₀ (State.guSkip p q idx y0 y1) := by
  induction y0 generalizing y1 with
  | zero =>
    unfold State.guSkip
    repeat' first
      | with_reducible assumption
      | (intro _; intros)
      | (extract_lets +onlyGivenNames x; refine (fun (hx : Moves s₀ x) => ?_) ?_; clear_value x; rotate_left; subst x; rotate_right)
      | (extract_lets +onlyGivenNames x; refine (fun (hx : Moves s₀ x.1) => ?_) ?_; clear_value x; rotate_left; subst x; rotate_right)
      | (extract_lets +onlyGivenNames x; first | clear_value x | subst x)
      | with_reducible apply State.modGuP_moves
      | split
      | (conv => arg 2; arg 73; skip
         with_reducible apply Moves.mk)
  | succ n ih =>
    unfold State.guSkip
    repeat' first
      | with_reducible assumption
      | (intro _; intros)
      | (extract_lets +onlyGivenNames x; refine (fun (hx : Moves s₀ x) => ?_) ?_; clear_value x; rotate_left; subst x; rotate_right)
      | (extract_lets +onlyGivenNames x; refine (fun (hx : Moves s₀ x.1) => ?_) ?_; clear_value x; rotate_left; subst x; rotate_right)
      | (extract_lets +onlyGivenNames x; first | clear_value x | subst x)
      | with_reducible apply ih
      | with_reducible apply State.modGuP_moves
      | split
      | (conv => arg 2; arg 73; skip
         with_reducible apply Moves.mk)

theorem State.guFree_moves {s₀ : State} {s : State} {p q : Nat} (hm : Moves s₀ s) :
    Moves s₀ (State.guFree s p q) := by
  unfold State.guFree
  repeat' first
    | with_reducible assumption
    | (intro _; intros)
    | (extract_lets +onlyGivenNames x; refine (fun (hx : Moves s₀ x) => ?_) ?_; clear_value x; rotate_left; subst x; rotate_right)
    | (extract_lets +onlyGivenNames x; refine (fun (hx : Moves s₀ x.1) => ?_) ?_; clear_value x; rotate_left; subst x; rotate_right)
    | (extract_lets +onlyGivenNames x; first | clear_value x | subst x)
    | with_reducible apply moves_foldl
    | with_reducible apply moves_foldl_fst
    | with_reducible apply State.modGuC_moves
    | with_reducible apply State.modGuP_moves
    | with_reducible apply State.showRing_moves
    | split
    | dsimp only
    | (conv => arg 2; arg 73; skip
       with_reducible apply Moves.mk)

theorem State.guRead_moves {s₀ : State} {s : State} {p c idx g extra : Nat} (hm : Moves s₀ s) :
    Moves s₀ (State.guRead s p c idx g extra).1 := by
  unfold State.guRead
  repeat' first
    | with_reducible assumption
    | (intro _; intros)
    | (rename _ = ((_ : State), _) => heq; have hk := congrArg Prod.fst heq; dsimp only at hk; subst hk; clear heq)
    | (extract_lets +onlyGivenNames x; refine (fun (hx : Moves s₀ x) => ?_) ?_; clear_value x; rotate_left; subst x; rotate_right)
    | (extract_lets +onlyGivenNames x; refine (fun (hx : Moves s₀ x.1) => ?_) ?_; clear_value x; rotate_left; subst x; rotate_right)
    | (extract_lets +onlyGivenNames x; first | clear_value x | subst x)
    | with_reducible apply moves_foldl
    | with_reducible apply moves_foldl_fst
    | with_reducible apply State.tileRead_moves
    | split
    | dsimp only
    | (conv => arg 2; arg 73; skip
       with_reducible apply Moves.mk)

theorem State.guLeave_moves {s₀ : State} {s : State} {p q idx g : Nat} (hm : Moves s₀ s) :
    Moves s₀ (State.guLeave s p q idx g) := by
  unfold State.guLeave
  repeat' first
    | with_reducible assumption
    | (intro _; intros)
    | with_reducible apply moves_foldl
    | with_reducible apply moves_foldl_fst
    | with_reducible apply State.modGuC_moves
    | with_reducible apply State.showRing_moves
    | split
    | (conv => arg 2; arg 73; skip
       with_reducible apply Moves.mk)

theorem State.guBuffer_moves {s₀ : State} {s : State} {p : Nat} {buf : Ecc} (hm : Moves s₀ s) :
    Moves s₀ (State.guBuffer s p buf) := by
  unfold State.guBuffer
  repeat' first
    | with_reducible assumption
    | with_reducible apply State.raiseCorrs_moves
    | with_reducible apply State.raiseErrors_moves
    | split
    | dsimp only
    | (conv => arg 2; arg 73; skip
       with_reducible apply Moves.mk)

theorem State.guPass_moves {s₀ : State} {s : State} {p q idx g : Nat} {l : Line} {corr bad : Bool} (hm : Moves s₀ s) :
    Moves s₀ (State.guPass s p q idx g l corr bad) := by
  unfold State.guPass
  repeat' first
    | with_reducible assumption
    | (intro _; intros)
    | (extract_lets +onlyGivenNames x; refine (fun (hx : Moves s₀ x) => ?_) ?_; clear_value x; rotate_left; subst x; rotate_right)
    | (extract_lets +onlyGivenNames x; refine (fun (hx : Moves s₀ x.1) => ?_) ?_; clear_value x; rotate_left; subst x; rotate_right)
    | (extract_lets +onlyGivenNames x; first | clear_value x | subst x)
    | with_reducible apply State.guCount_moves
    | with_reducible apply State.guFollow_moves
    | with_reducible apply State.guFree_moves
    | with_reducible apply State.guLeave_moves
    | with_reducible apply State.guMeasure_moves
    | with_reducible apply State.modGuP_moves
    | with_reducible apply State.sendTo_moves
    | split
    | (conv => arg 2; arg 73; skip
       with_reducible apply Moves.mk)

theorem doGuRelease_moves {s₀ : State} {p q oa ob : Nat} {buf : Ecc} {s : State} (hm : Moves s₀ s) :
    Moves s₀ (doGuRelease p q oa ob buf s) := by
  unfold doGuRelease
  repeat' first
    | with_reducible assumption
    | (intro _; intros)
    | (rename _ = ((_ : State), _) => heq; have hk := congrArg Prod.fst heq; dsimp only at hk; subst hk; clear heq)
    | (extract_lets +onlyGivenNames x; refine (fun (hx : Moves s₀ x) => ?_) ?_; clear_value x; rotate_left; subst x; rotate_right)
    | (extract_lets +onlyGivenNames x; refine (fun (hx : Moves s₀ x.1) => ?_) ?_; clear_value x; rotate_left; subst x; rotate_right)
    | (extract_lets +onlyGivenNames x; first | clear_value x | subst x)
    | with_reducible apply State.guSkip_moves
    | with_reducible apply State.guBegin_moves
    | with_reducible apply State.guBuffer_moves
    | with_reducible apply State.guCount_moves
    | with_reducible apply State.guMarkers_moves
    | with_reducible apply State.guPass_moves
    | with_reducible apply State.guRead_moves
    | with_reducible apply State.modGuP_moves
    | split
    | dsimp only
    | (conv => arg 2; arg 73; skip
       with_reducible apply Moves.mk)

@[simp] theorem execGuRelease_moves {s₀ : State} {p q oa ob : Nat} {buf : Ecc} :
    Answered s₀ (execGuRelease p q oa ob buf s₀) := by
  have hm := Moves.refl s₀
  refine answered ?_
  repeat' first
    | with_reducible assumption
    | with_reducible apply doGuRelease_moves
    | split

theorem State.guFinish_moves {s₀ : State} {s : State} {p q : Nat} (hm : Moves s₀ s) :
    Moves s₀ (State.guFinish s p q) := by
  unfold State.guFinish
  repeat' first
    | with_reducible assumption
    | (intro _; intros)
    | (extract_lets +onlyGivenNames x; refine (fun (hx : Moves s₀ x) => ?_) ?_; clear_value x; rotate_left; subst x; rotate_right)
    | (extract_lets +onlyGivenNames x; refine (fun (hx : Moves s₀ x.1) => ?_) ?_; clear_value x; rotate_left; subst x; rotate_right)
    | (extract_lets +onlyGivenNames x; first | clear_value x | subst x)
    | with_reducible apply State.guFix_moves
    | with_reducible apply State.guPublish_moves
    | with_reducible apply State.modGuP_moves
    | split
    | (conv => arg 2; arg 73; skip
       with_reducible apply Moves.mk)

theorem State.guAbandon_moves {s₀ : State} {s : State} {p q g : Nat} (hm : Moves s₀ s) :
    Moves s₀ (State.guAbandon s p q g) := by
  unfold State.guAbandon
  repeat' first
    | with_reducible assumption
    | (intro _; intros)
    | with_reducible apply State.guCount_moves
    | with_reducible apply State.guLeave_moves
    | with_reducible apply State.modGuP_moves
    | split
    | (conv => arg 2; arg 73; skip
       with_reducible apply Moves.mk)

theorem State.guFetch_moves {s₀ : State} {p q : Nat} {r : State × List (Nat × Nat)} {k : Nat × Nat × Nat} (hm : Moves s₀ r.1) :
    Moves s₀ (State.guFetch p q r k).1 := by
  unfold State.guFetch
  dsimp only
  split
  · exact hm
  · split
    · exact State.guAbandon_moves (State.tileRead_moves hm)
    · split
      · exact State.guCount_moves (State.modGuP_moves (State.tileRead_moves hm))
      · exact State.modGuP_moves (State.tileRead_moves hm)

theorem State.guLoad_moves {s₀ : State} {p q : Nat} {b : GuBox} {y0 : Nat} {y1 : State} {y2 : List (Nat × Nat)} (hm : Moves s₀ y1) :
    Moves s₀ (State.guLoad p q b y0 y1 y2) := by
  induction y0 generalizing y1 y2 with
  | zero =>
    unfold State.guLoad
    repeat' first
      | with_reducible assumption
      | (intro _; intros)
      | (rename _ = ((_ : State), _) => heq; have hk := congrArg Prod.fst heq; dsimp only at hk; subst hk; clear heq)
      | (extract_lets +onlyGivenNames x; refine (fun (hx : Moves s₀ x) => ?_) ?_; clear_value x; rotate_left; subst x; rotate_right)
      | (extract_lets +onlyGivenNames x; refine (fun (hx : Moves s₀ x.1) => ?_) ?_; clear_value x; rotate_left; subst x; rotate_right)
      | (extract_lets +onlyGivenNames x; first | clear_value x | subst x)
      | with_reducible apply moves_foldl
      | with_reducible apply moves_foldl_fst
      | with_reducible apply State.guFetch_moves
      | split
      | dsimp only
      | (conv => arg 2; arg 73; skip
         with_reducible apply Moves.mk)
  | succ n ih =>
    unfold State.guLoad
    repeat' first
      | with_reducible assumption
      | (intro _; intros)
      | (rename _ = ((_ : State), _) => heq; have hk := congrArg Prod.fst heq; dsimp only at hk; subst hk; clear heq)
      | (extract_lets +onlyGivenNames x; refine (fun (hx : Moves s₀ x) => ?_) ?_; clear_value x; rotate_left; subst x; rotate_right)
      | (extract_lets +onlyGivenNames x; refine (fun (hx : Moves s₀ x.1) => ?_) ?_; clear_value x; rotate_left; subst x; rotate_right)
      | (extract_lets +onlyGivenNames x; first | clear_value x | subst x)
      | with_reducible apply ih
      | with_reducible apply moves_foldl
      | with_reducible apply moves_foldl_fst
      | with_reducible apply State.guFetch_moves
      | split
      | dsimp only
      | (conv => arg 2; arg 73; skip
         with_reducible apply Moves.mk)

theorem State.guCacheEcc_moves {s₀ : State} {s : State} {p q corr : Nat} {again : List Nat} (hm : Moves s₀ s) :
    Moves s₀ (State.guCacheEcc s p q corr again) := by
  unfold State.guCacheEcc
  repeat' first
    | with_reducible assumption
    | (intro _; intros)
    | (extract_lets +onlyGivenNames x; refine (fun (hx : Moves s₀ x) => ?_) ?_; clear_value x; rotate_left; subst x; rotate_right)
    | (extract_lets +onlyGivenNames x; refine (fun (hx : Moves s₀ x.1) => ?_) ?_; clear_value x; rotate_left; subst x; rotate_right)
    | (extract_lets +onlyGivenNames x; first | clear_value x | subst x)
    | with_reducible apply State.modGuP_moves
    | with_reducible apply State.raiseCorrs_moves
    | split
    | (conv => arg 2; arg 73; skip
       with_reducible apply Moves.mk)

theorem doGuDeskew_moves {s₀ : State} {p q : Nat} {errs : List (Nat × Nat)} {corr : Nat} {again : List Nat} {s : State} (hm : Moves s₀ s) :
    Moves s₀ (doGuDeskew p q errs corr again s) := by
  unfold doGuDeskew
  repeat' first
    | with_reducible assumption
    | (intro _; intros)
    | (extract_lets +onlyGivenNames x; refine (fun (hx : Moves s₀ x) => ?_) ?_; clear_value x; rotate_left; subst x; rotate_right)
    | (extract_lets +onlyGivenNames x; refine (fun (hx : Moves s₀ x.1) => ?_) ?_; clear_value x; rotate_left; subst x; rotate_right)
    | (extract_lets +onlyGivenNames x; first | clear_value x | subst x)
    | with_reducible apply moves_foldl
    | with_reducible apply moves_foldl_fst
    | with_reducible apply State.guLoad_moves
    | with_reducible apply State.guCacheEcc_moves
    | with_reducible apply State.guCount_moves
    | with_reducible apply State.guFinish_moves
    | with_reducible apply State.guFollow_moves
    | with_reducible apply State.guFree_moves
    | with_reducible apply State.guMarkers_moves
    | with_reducible apply State.modGuP_moves
    | with_reducible apply State.sendTo_moves
    | split
    | dsimp only
    | (conv => arg 2; arg 73; skip
       with_reducible apply Moves.mk)

@[simp] theorem execGuDeskewLine_moves {s₀ : State} {p q : Nat} {errs : List (Nat × Nat)} {corr : Nat} {again : List Nat} :
    Answered s₀ (execGuDeskewLine p q errs corr again s₀) := by
  have hm := Moves.refl s₀
  refine answered ?_
  repeat' first
    | with_reducible assumption
    | with_reducible apply doGuDeskew_moves
    | split

theorem State.guClose_moves {s₀ : State} {s : State} {p q idx : Nat} (hm : Moves s₀ s) :
    Moves s₀ (State.guClose s p q idx) := by
  unfold State.guClose
  repeat' first
    | with_reducible assumption
    | (intro _; intros)
    | (extract_lets +onlyGivenNames x; refine (fun (hx : Moves s₀ x) => ?_) ?_; clear_value x; rotate_left; subst x; rotate_right)
    | (extract_lets +onlyGivenNames x; refine (fun (hx : Moves s₀ x.1) => ?_) ?_; clear_value x; rotate_left; subst x; rotate_right)
    | (extract_lets +onlyGivenNames x; first | clear_value x | subst x)
    | with_reducible apply moves_foldl
    | with_reducible apply moves_foldl_fst
    | with_reducible apply State.modGuC_moves
    | with_reducible apply State.modGuP_moves
    | with_reducible apply State.setFld_moves
    | with_reducible apply State.showRing_moves
    | split
    | (conv => arg 2; arg 73; skip
       with_reducible apply Moves.mk)

theorem doGuMarker_moves {s₀ : State} {p q : Nat} {s : State} (hm : Moves s₀ s) :
    Moves s₀ (doGuMarker p q s) := by
  unfold doGuMarker
  repeat' first
    | with_reducible assumption
    | (intro _; intros)
    | (extract_lets +onlyGivenNames x; refine (fun (hx : Moves s₀ x) => ?_) ?_; clear_value x; rotate_left; subst x; rotate_right)
    | (extract_lets +onlyGivenNames x; refine (fun (hx : Moves s₀ x.1) => ?_) ?_; clear_value x; rotate_left; subst x; rotate_right)
    | (extract_lets +onlyGivenNames x; first | clear_value x | subst x)
    | with_reducible apply State.guSkip_moves
    | with_reducible apply State.count_moves
    | with_reducible apply State.guBegin_moves
    | with_reducible apply State.guClose_moves
    | with_reducible apply State.guFinish_moves
    | with_reducible apply State.guFollow_moves
    | with_reducible apply State.guMarkers_moves
    | with_reducible apply State.sendTo_moves
    | split
    | dsimp only
    | (conv => arg 2; arg 73; skip
       with_reducible apply Moves.mk)

@[simp] theorem execGuMarker_moves {s₀ : State} {p q : Nat} :
    Answered s₀ (execGuMarker p q s₀) := by
  have hm := Moves.refl s₀
  refine answered ?_
  repeat' first
    | with_reducible assumption
    | with_reducible apply doGuMarker_moves
    | split

end Sys2Proof.Machine
end

