-- ==== Sys2Proof/Laws/MovesOutput.lean ====
section
/-! SUPPORT. What the operations of Machine/Output.lean can do to the memories, the register file, the key slots and the queue: moves, and nothing
else. -/

namespace Sys2Proof.Machine

theorem State.ofCount_moves {s₀ : State} {s : State} {o k n : Nat} (hm : Moves s₀ s) :
    Moves s₀ (State.ofCount s o k n) := by
  unfold State.ofCount
  repeat' first
    | with_reducible assumption
    | with_reducible apply State.countN_moves
    | with_reducible apply State.setBit_moves
    | split

theorem State.osCount_moves {s₀ : State} {s : State} {n k : Nat} (hm : Moves s₀ s) :
    Moves s₀ (State.osCount s n k) := by
  unfold State.osCount
  repeat' first
    | with_reducible assumption
    | with_reducible apply State.countAndSet_moves
    | split

theorem State.modOs_moves {s₀ : State} {s : State} {n : Nat} {f : OsSt → OsSt} (hm : Moves s₀ s) :
    Moves s₀ (State.modOs s n f) := by
  unfold State.modOs
  repeat' first
    | with_reducible assumption
    | split
    | (conv => arg 2; arg 73; skip
       with_reducible apply Moves.mk)

theorem State.drainStats_moves {s₀ : State} {s : State} {n : Nat} (hm : Moves s₀ s) :
    Moves s₀ (State.drainStats s n) := by
  unfold State.drainStats
  repeat' first
    | with_reducible assumption
    | (intro _; intros)
    | (extract_lets +onlyGivenNames x; refine (fun (hx : Moves s₀ x) => ?_) ?_; clear_value x; rotate_left; subst x; rotate_right)
    | (extract_lets +onlyGivenNames x; refine (fun (hx : Moves s₀ x.1) => ?_) ?_; clear_value x; rotate_left; subst x; rotate_right)
    | (extract_lets +onlyGivenNames x; first | clear_value x | subst x)
    | with_reducible apply moves_foldl
    | with_reducible apply moves_foldl_fst
    | with_reducible apply State.count_moves
    | with_reducible apply State.emit_moves
    | with_reducible apply State.modDma_moves
    | with_reducible apply State.modOs_moves
    | split
    | dsimp only
    | (conv => arg 2; arg 73; skip
       with_reducible apply Moves.mk)

theorem State.osHand_moves {s₀ : State} {s : State} {n : Nat} {it : OsItem} {how : Accept} (hm : Moves s₀ s) :
    Moves s₀ (State.osHand s n it how) := by
  unfold State.osHand
  repeat' first
    | with_reducible assumption
    | (intro _; intros)
    | (extract_lets +onlyGivenNames x; refine (fun (hx : Moves s₀ x) => ?_) ?_; clear_value x; rotate_left; subst x; rotate_right)
    | (extract_lets +onlyGivenNames x; refine (fun (hx : Moves s₀ x.1) => ?_) ?_; clear_value x; rotate_left; subst x; rotate_right)
    | (extract_lets +onlyGivenNames x; first | clear_value x | subst x)
    | with_reducible apply moves_foldl
    | with_reducible apply moves_foldl_fst
    | with_reducible apply State.count_moves
    | with_reducible apply State.drainStats_moves
    | with_reducible apply State.modOs_moves
    | with_reducible apply State.sendItem_moves
    | split
    | dsimp only
    | (conv => arg 2; arg 73; skip
       with_reducible apply Moves.mk)

theorem State.osFlush_moves {s₀ : State} {n : Nat} {y0 : Nat} {y1 : State} (hm : Moves s₀ y1) :
    Moves s₀ (State.osFlush n y0 y1) := by
  induction y0 generalizing y1 with
  | zero =>
    unfold State.osFlush
    repeat' first
      | with_reducible assumption
      | (intro _; intros)
      | (extract_lets +onlyGivenNames x; refine (fun (hx : Moves s₀ x) => ?_) ?_; clear_value x; rotate_left; subst x; rotate_right)
      | (extract_lets +onlyGivenNames x; refine (fun (hx : Moves s₀ x.1) => ?_) ?_; clear_value x; rotate_left; subst x; rotate_right)
      | (extract_lets +onlyGivenNames x; first | clear_value x | subst x)
      | with_reducible apply State.modOs_moves
      | with_reducible apply State.osHand_moves
      | with_reducible apply State.setFld_moves
      | split
      | dsimp only
      | (conv => arg 2; arg 73; skip
         with_reducible apply Moves.mk)
  | succ n ih =>
    unfold State.osFlush
    repeat' first
      | with_reducible assumption
      | (intro _; intros)
      | (extract_lets +onlyGivenNames x; refine (fun (hx : Moves s₀ x) => ?_) ?_; clear_value x; rotate_left; subst x; rotate_right)
      | (extract_lets +onlyGivenNames x; refine (fun (hx : Moves s₀ x.1) => ?_) ?_; clear_value x; rotate_left; subst x; rotate_right)
      | (extract_lets +onlyGivenNames x; first | clear_value x | subst x)
      | with_reducible apply ih
      | with_reducible apply State.modOs_moves
      | with_reducible apply State.osHand_moves
      | with_reducible apply State.setFld_moves
      | split
      | dsimp only
      | (conv => arg 2; arg 73; skip
         with_reducible apply Moves.mk)

theorem State.osRelease_moves {s₀ : State} {s : State} {n : Nat} (hm : Moves s₀ s) :
    Moves s₀ (State.osRelease s n) := by
  unfold State.osRelease
  repeat' first
    | with_reducible assumption
    | with_reducible apply State.osFlush_moves
    | split

theorem State.osProduce_moves {s₀ : State} {s : State} {n : Nat} {it : OsItem} (hm : Moves s₀ s) :
    Moves s₀ (State.osProduce s n it) := by
  unfold State.osProduce
  repeat' first
    | with_reducible assumption
    | (intro _; intros)
    | with_reducible apply State.modOs_moves
    | with_reducible apply State.osRelease_moves
    | split
    | (conv => arg 2; arg 73; skip
       with_reducible apply Moves.mk)

theorem State.modOsDoc_moves {s₀ : State} {s : State} {n idx : Nat} {f : OsDoc → OsDoc} (hm : Moves s₀ s) :
    Moves s₀ (State.modOsDoc s n idx f) := by
  unfold State.modOsDoc
  repeat' first
    | with_reducible assumption
    | (intro _; intros)
    | with_reducible apply State.modOs_moves
    | split
    | (conv => arg 2; arg 73; skip
       with_reducible apply Moves.mk)

theorem State.osLeave_moves {s₀ : State} {s : State} {n : Nat} {r : OsRec} {mismatch : Bool} (hm : Moves s₀ s) :
    Moves s₀ (State.osLeave s n r mismatch) := by
  unfold State.osLeave
  repeat' first
    | with_reducible assumption
    | (intro _; intros)
    | (extract_lets +onlyGivenNames x; refine (fun (hx : Moves s₀ x) => ?_) ?_; clear_value x; rotate_left; subst x; rotate_right)
    | (extract_lets +onlyGivenNames x; refine (fun (hx : Moves s₀ x.1) => ?_) ?_; clear_value x; rotate_left; subst x; rotate_right)
    | (extract_lets +onlyGivenNames x; first | clear_value x | subst x)
    | with_reducible apply State.modOs_moves
    | with_reducible apply State.modOsDoc_moves
    | with_reducible apply State.osProduce_moves
    | split
    | dsimp only
    | (conv => arg 2; arg 73; skip
       with_reducible apply Moves.mk)

theorem State.sealMismatch_moves {s₀ : State} {s : State} {n doc line : Nat} (hm : Moves s₀ s) :
    Moves s₀ (State.sealMismatch s n doc line) := by
  unfold State.sealMismatch
  repeat' first
    | with_reducible assumption
    | (extract_lets +onlyGivenNames x; refine (fun (hx : Moves s₀ x) => ?_) ?_; clear_value x; rotate_left; subst x; rotate_right)
    | (extract_lets +onlyGivenNames x; refine (fun (hx : Moves s₀ x.1) => ?_) ?_; clear_value x; rotate_left; subst x; rotate_right)
    | (extract_lets +onlyGivenNames x; first | clear_value x | subst x)
    | with_reducible apply State.count_moves
    | with_reducible apply State.raiseError_moves
    | with_reducible apply State.setFld_moves
    | with_reducible apply State.setReg_moves
    | split
    | (conv => arg 2; arg 73; skip
       with_reducible apply Moves.mk)

theorem State.osSettle_moves {s₀ : State} {n : Nat} {y0 : Nat} {y1 : State} (hm : Moves s₀ y1) :
    Moves s₀ (State.osSettle n y0 y1) := by
  induction y0 generalizing y1 with
  | zero =>
    unfold State.osSettle
    repeat' first
      | with_reducible assumption
      | (intro _; intros)
      | with_reducible apply State.modOs_moves
      | with_reducible apply State.osLeave_moves
      | split
      | dsimp only
      | (conv => arg 2; arg 73; skip
         with_reducible apply Moves.mk)
  | succ n ih =>
    unfold State.osSettle
    repeat' first
      | with_reducible assumption
      | (intro _; intros)
      | with_reducible apply ih
      | with_reducible apply State.modOs_moves
      | with_reducible apply State.osLeave_moves
      | split
      | dsimp only
      | (conv => arg 2; arg 73; skip
         with_reducible apply Moves.mk)

theorem State.osRecord_moves {s₀ : State} {s : State} {n : Nat} {tag : Tag} {width : Nat} {body : List Nat} {sealv word7 : Nat} (hm : Moves s₀ s) :
    Moves s₀ (State.osRecord s n tag width body sealv word7) := by
  unfold State.osRecord
  repeat' first
    | with_reducible assumption
    | (intro _; intros)
    | (extract_lets +onlyGivenNames x; refine (fun (hx : Moves s₀ x) => ?_) ?_; clear_value x; rotate_left; subst x; rotate_right)
    | (extract_lets +onlyGivenNames x; refine (fun (hx : Moves s₀ x.1) => ?_) ?_; clear_value x; rotate_left; subst x; rotate_right)
    | (extract_lets +onlyGivenNames x; first | clear_value x | subst x)
    | with_reducible apply State.osSettle_moves
    | with_reducible apply State.modOs_moves
    | with_reducible apply State.osCount_moves
    | with_reducible apply State.osLeave_moves
    | with_reducible apply State.sealMismatch_moves
    | with_reducible apply State.setReg_moves
    | with_reducible apply State.toPartner_moves
    | split
    | dsimp only
    | (conv => arg 2; arg 73; skip
       with_reducible apply Moves.mk)

theorem State.sealReport_moves {s₀ : State} {s : State} {n doc line sealv : Nat} (hm : Moves s₀ s) :
    Moves s₀ (State.sealReport s n doc line sealv) := by
  unfold State.sealReport
  repeat' first
    | with_reducible assumption
    | (intro _; intros)
    | (extract_lets +onlyGivenNames x; refine (fun (hx : Moves s₀ x) => ?_) ?_; clear_value x; rotate_left; subst x; rotate_right)
    | (extract_lets +onlyGivenNames x; refine (fun (hx : Moves s₀ x.1) => ?_) ?_; clear_value x; rotate_left; subst x; rotate_right)
    | (extract_lets +onlyGivenNames x; first | clear_value x | subst x)
    | with_reducible apply State.osSettle_moves
    | with_reducible apply State.count_moves
    | with_reducible apply State.modOs_moves
    | with_reducible apply State.sealMismatch_moves
    | split
    | dsimp only
    | (conv => arg 2; arg 73; skip
       with_reducible apply Moves.mk)

theorem doCmpWait_moves {s₀ : State} {n : Nat} {s : State} (hm : Moves s₀ s) :
    Moves s₀ (doCmpWait n s) := by
  unfold doCmpWait
  repeat' first
    | with_reducible assumption
    | (intro _; intros)
    | (extract_lets +onlyGivenNames x; refine (fun (hx : Moves s₀ x) => ?_) ?_; clear_value x; rotate_left; subst x; rotate_right)
    | (extract_lets +onlyGivenNames x; refine (fun (hx : Moves s₀ x.1) => ?_) ?_; clear_value x; rotate_left; subst x; rotate_right)
    | (extract_lets +onlyGivenNames x; first | clear_value x | subst x)
    | with_reducible apply State.osSettle_moves
    | with_reducible apply State.count_moves
    | with_reducible apply State.modOs_moves
    | with_reducible apply State.osLeave_moves
    | split
    | dsimp only
    | (conv => arg 2; arg 73; skip
       with_reducible apply Moves.mk)

@[simp] theorem execCmpWaitExpiry_moves {s₀ : State} {n : Nat} :
    Answered s₀ (execCmpWaitExpiry n s₀) := by
  have hm := Moves.refl s₀
  refine answered ?_
  repeat' first
    | with_reducible assumption
    | with_reducible apply doCmpWait_moves
    | split

theorem State.osSeal_moves {s₀ : State} {s : State} {n : Nat} {tag : Tag} {width : Nat} {body : List Nat} {f : OsFaults} {src : Nat × Nat} (hm : Moves s₀ s) :
    Moves s₀ (State.osSeal s n tag width body f src) := by
  unfold State.osSeal
  repeat' first
    | with_reducible assumption
    | (intro _; intros)
    | (extract_lets +onlyGivenNames x; refine (fun (hx : Moves s₀ x) => ?_) ?_; clear_value x; rotate_left; subst x; rotate_right)
    | (extract_lets +onlyGivenNames x; refine (fun (hx : Moves s₀ x.1) => ?_) ?_; clear_value x; rotate_left; subst x; rotate_right)
    | (extract_lets +onlyGivenNames x; first | clear_value x | subst x)
    | with_reducible apply State.osCount_moves
    | with_reducible apply State.osRecord_moves
    | with_reducible apply State.raiseError_moves
    | split
    | dsimp only
    | (conv => arg 2; arg 73; skip
       with_reducible apply Moves.mk)

theorem State.osSegment_moves {s₀ : State} {s : State} {n : Nat} {d : OsDoc} {mark : Option Marker} {f : OsFaults} {src : Nat × Nat} (hm : Moves s₀ s) :
    Moves s₀ (State.osSegment s n d mark f src) := by
  unfold State.osSegment
  repeat' first
    | with_reducible assumption
    | (intro _; intros)
    | (extract_lets +onlyGivenNames x; refine (fun (hx : Moves s₀ x) => ?_) ?_; clear_value x; rotate_left; subst x; rotate_right)
    | (extract_lets +onlyGivenNames x; refine (fun (hx : Moves s₀ x.1) => ?_) ?_; clear_value x; rotate_left; subst x; rotate_right)
    | (extract_lets +onlyGivenNames x; first | clear_value x | subst x)
    | with_reducible apply moves_foldl
    | with_reducible apply moves_foldl_fst
    | with_reducible apply State.count_moves
    | with_reducible apply State.modOsDoc_moves
    | with_reducible apply State.osSeal_moves
    | split
    | dsimp only
    | (conv => arg 2; arg 73; skip
       with_reducible apply Moves.mk)

theorem State.osSegments_moves {s₀ : State} {n line : Nat} {f : OsFaults} {src : Nat × Nat} {y0 : Nat} {y1 : State} (hm : Moves s₀ y1) :
    Moves s₀ (State.osSegments n line f src y0 y1) := by
  induction y0 generalizing y1 with
  | zero =>
    unfold State.osSegments
    repeat' first
      | with_reducible assumption
      | with_reducible apply State.osSegment_moves
      | split
      | dsimp only
      | (conv => arg 2; arg 73; skip
         with_reducible apply Moves.mk)
  | succ n ih =>
    unfold State.osSegments
    repeat' first
      | with_reducible assumption
      | with_reducible apply ih
      | with_reducible apply State.osSegment_moves
      | split
      | dsimp only
      | (conv => arg 2; arg 73; skip
         with_reducible apply Moves.mk)

theorem State.osLatch_moves {s₀ : State} {s : State} {n ch idx doc : Nat} (hm : Moves s₀ s) :
    Moves s₀ (State.osLatch s n ch idx doc) := by
  unfold State.osLatch
  repeat' first
    | with_reducible assumption
    | (intro _; intros)
    | (extract_lets +onlyGivenNames x; refine (fun (hx : Moves s₀ x) => ?_) ?_; clear_value x; rotate_left; subst x; rotate_right)
    | (extract_lets +onlyGivenNames x; refine (fun (hx : Moves s₀ x.1) => ?_) ?_; clear_value x; rotate_left; subst x; rotate_right)
    | (extract_lets +onlyGivenNames x; first | clear_value x | subst x)
    | with_reducible apply State.modOs_moves
    | with_reducible apply State.osCount_moves
    | with_reducible apply State.swapAt_moves
    | split
    | (conv => arg 2; arg 73; skip
       with_reducible apply Moves.mk)

theorem State.osOpen_moves {s₀ : State} {s : State} {n ch idx doc : Nat} (hm : Moves s₀ s) :
    Moves s₀ (State.osOpen s n ch idx doc) := by
  unfold State.osOpen
  repeat' first
    | with_reducible assumption
    | with_reducible apply State.osLatch_moves
    | split
    | dsimp only
    | (conv => arg 2; arg 73; skip
       with_reducible apply Moves.mk)

theorem State.osLine_moves {s₀ : State} {s : State} {o n ch : Nat} {l : Line} {f : OsFaults} (hm : Moves s₀ s) :
    Moves s₀ (State.osLine s o n ch l f) := by
  unfold State.osLine
  repeat' first
    | with_reducible assumption
    | (intro _; intros)
    | (extract_lets +onlyGivenNames x; refine (fun (hx : Moves s₀ x) => ?_) ?_; clear_value x; rotate_left; subst x; rotate_right)
    | (extract_lets +onlyGivenNames x; refine (fun (hx : Moves s₀ x.1) => ?_) ?_; clear_value x; rotate_left; subst x; rotate_right)
    | (extract_lets +onlyGivenNames x; first | clear_value x | subst x)
    | with_reducible apply State.osSegments_moves
    | with_reducible apply State.count_moves
    | with_reducible apply State.modOs_moves
    | with_reducible apply State.modOsDoc_moves
    | with_reducible apply State.ofCount_moves
    | with_reducible apply State.osOpen_moves
    | with_reducible apply State.osSeal_moves
    | split
    | dsimp only
    | (conv => arg 2; arg 73; skip
       with_reducible apply Moves.mk)

theorem State.osMarker_moves {s₀ : State} {s : State} {o n ch : Nat} {m : Marker} {f : OsFaults} (hm : Moves s₀ s) :
    Moves s₀ (State.osMarker s o n ch m f) := by
  unfold State.osMarker
  repeat' first
    | with_reducible assumption
    | (intro _; intros)
    | (extract_lets +onlyGivenNames x; refine (fun (hx : Moves s₀ x) => ?_) ?_; clear_value x; rotate_left; subst x; rotate_right)
    | (extract_lets +onlyGivenNames x; refine (fun (hx : Moves s₀ x.1) => ?_) ?_; clear_value x; rotate_left; subst x; rotate_right)
    | (extract_lets +onlyGivenNames x; first | clear_value x | subst x)
    | with_reducible apply State.osSegments_moves
    | with_reducible apply State.count_moves
    | with_reducible apply State.modOs_moves
    | with_reducible apply State.modOsDoc_moves
    | with_reducible apply State.osOpen_moves
    | with_reducible apply State.osSegment_moves
    | split
    | dsimp only
    | (conv => arg 2; arg 73; skip
       with_reducible apply Moves.mk)

theorem State.ofArrive_moves {s₀ : State} {f : OsFaults} {y0 : Nat} {y1 : State} {y2 : Nat} {y3 : Nat} (hm : Moves s₀ y1) :
    Moves s₀ (State.ofArrive f y0 y1 y2 y3) := by
  induction y0 generalizing y1 y2 y3 with
  | zero =>
    unfold State.ofArrive
    repeat' first
      | with_reducible assumption
      | (intro _; intros)
      | (extract_lets +onlyGivenNames x; refine (fun (hx : Moves s₀ x) => ?_) ?_; clear_value x; rotate_left; subst x; rotate_right)
      | (extract_lets +onlyGivenNames x; refine (fun (hx : Moves s₀ x.1) => ?_) ?_; clear_value x; rotate_left; subst x; rotate_right)
      | (extract_lets +onlyGivenNames x; first | clear_value x | subst x)
      | with_reducible apply moves_foldl
      | with_reducible apply moves_foldl_fst
      | with_reducible apply State.markerIn_moves
      | with_reducible apply State.observeOf_moves
      | with_reducible apply State.osMarker_moves
      | with_reducible apply State.setWaiting_moves
      | split
      | dsimp only
      | (conv => arg 2; arg 73; skip
         with_reducible apply Moves.mk)
  | succ n ih =>
    unfold State.ofArrive
    repeat' first
      | with_reducible assumption
      | (intro _; intros)
      | (extract_lets +onlyGivenNames x; refine (fun (hx : Moves s₀ x) => ?_) ?_; clear_value x; rotate_left; subst x; rotate_right)
      | (extract_lets +onlyGivenNames x; refine (fun (hx : Moves s₀ x.1) => ?_) ?_; clear_value x; rotate_left; subst x; rotate_right)
      | (extract_lets +onlyGivenNames x; first | clear_value x | subst x)
      | with_reducible apply ih
      | with_reducible apply moves_foldl
      | with_reducible apply moves_foldl_fst
      | with_reducible apply State.markerIn_moves
      | with_reducible apply State.observeOf_moves
      | with_reducible apply State.osMarker_moves
      | with_reducible apply State.setWaiting_moves
      | split
      | dsimp only
      | (conv => arg 2; arg 73; skip
         with_reducible apply Moves.mk)

theorem State.ofMarkers_moves {s₀ : State} {s : State} {o : Nat} {f : OsFaults} (hm : Moves s₀ s) :
    Moves s₀ (State.ofMarkers s o f) := by
  unfold State.ofMarkers
  repeat' first
    | with_reducible assumption
    | (intro _; intros)
    | with_reducible apply moves_foldl
    | with_reducible apply moves_foldl_fst
    | with_reducible apply State.ofArrive_moves
    | split

theorem State.ofErrors_moves {s₀ : State} {s : State} {o : Nat} {f : OsFaults} (hm : Moves s₀ s) :
    Moves s₀ (State.ofErrors s o f) := by
  unfold State.ofErrors
  repeat' first
    | with_reducible assumption
    | (extract_lets +onlyGivenNames x; refine (fun (hx : Moves s₀ x) => ?_) ?_; clear_value x; rotate_left; subst x; rotate_right)
    | (extract_lets +onlyGivenNames x; refine (fun (hx : Moves s₀ x.1) => ?_) ?_; clear_value x; rotate_left; subst x; rotate_right)
    | (extract_lets +onlyGivenNames x; first | clear_value x | subst x)
    | with_reducible apply State.ofCount_moves
    | with_reducible apply State.raiseCorrs_moves
    | with_reducible apply State.raiseErrors_moves
    | split

theorem doOfLine_moves {s₀ : State} {o : Nat} {gh : Ecc} {errs : List BuErr} {f : OsFaults} {s : State} (hm : Moves s₀ s) :
    Moves s₀ (doOfLine o gh errs f s) := by
  unfold doOfLine
  repeat' first
    | with_reducible assumption
    | (intro _; intros)
    | (rename _ = ((_ : State), _) => heq; have hk := congrArg Prod.fst heq; dsimp only at hk; subst hk; clear heq)
    | (extract_lets +onlyGivenNames x; refine (fun (hx : Moves s₀ x) => ?_) ?_; clear_value x; rotate_left; subst x; rotate_right)
    | (extract_lets +onlyGivenNames x; refine (fun (hx : Moves s₀ x.1) => ?_) ?_; clear_value x; rotate_left; subst x; rotate_right)
    | (extract_lets +onlyGivenNames x; first | clear_value x | subst x)
    | with_reducible apply moves_foldl
    | with_reducible apply moves_foldl_fst
    | with_reducible apply State.observeOf_moves
    | with_reducible apply State.ofCount_moves
    | with_reducible apply State.ofErrors_moves
    | with_reducible apply State.ofMarkers_moves
    | with_reducible apply State.osLine_moves
    | with_reducible apply State.readTaken_moves
    | with_reducible apply State.swapAt_moves
    | split
    | dsimp only
    | (conv => arg 2; arg 73; skip
       with_reducible apply Moves.mk)

@[simp] theorem execOfLine_moves {s₀ : State} {o : Nat} {gh : Ecc} {errs : List BuErr} {corr : Nat} {bad : OfWords} {seals : List (Nat × Word)} :
    Answered s₀ (execOfLine o gh errs corr bad seals s₀) := by
  have hm := Moves.refl s₀
  refine answered ?_
  repeat' first
    | with_reducible assumption
    | with_reducible apply doOfLine_moves
    | split

theorem doBuComplete_moves {s₀ : State} {b c corr : Nat} {bad : List Nat} {s : State} (hm : Moves s₀ s) :
    Moves s₀ (doBuComplete b c corr bad s) := by
  unfold doBuComplete
  repeat' first
    | with_reducible assumption
    | (intro _; intros)
    | (extract_lets +onlyGivenNames x; refine (fun (hx : Moves s₀ x) => ?_) ?_; clear_value x; rotate_left; subst x; rotate_right)
    | (extract_lets +onlyGivenNames x; refine (fun (hx : Moves s₀ x.1) => ?_) ?_; clear_value x; rotate_left; subst x; rotate_right)
    | (extract_lets +onlyGivenNames x; first | clear_value x | subst x)
    | with_reducible apply moves_foldl
    | with_reducible apply moves_foldl_fst
    | with_reducible apply State.buCount_moves
    | with_reducible apply State.bumpSeq_moves
    | with_reducible apply State.fmPut_moves
    | with_reducible apply State.modBu_moves
    | with_reducible apply State.modOs_moves
    | with_reducible apply State.osCount_moves
    | with_reducible apply State.raiseCorrs_moves
    | with_reducible apply State.raiseErrors_moves
    | with_reducible apply State.sendRec_moves
    | with_reducible apply State.setReg_moves
    | split
    | dsimp only
    | (conv => arg 2; arg 73; skip
       with_reducible apply Moves.mk)

@[simp] theorem execBuRecordComplete_moves {s₀ : State} {b c corr : Nat} {bad : List Nat} :
    Answered s₀ (execBuRecordComplete b c corr bad s₀) := by
  have hm := Moves.refl s₀
  refine answered ?_
  repeat' first
    | with_reducible assumption
    | (extract_lets +onlyGivenNames x; refine (fun (hx : Moves s₀ x) => ?_) ?_; clear_value x; rotate_left; subst x; rotate_right)
    | (extract_lets +onlyGivenNames x; refine (fun (hx : Moves s₀ x.1) => ?_) ?_; clear_value x; rotate_left; subst x; rotate_right)
    | (extract_lets +onlyGivenNames x; first | clear_value x | subst x)
    | with_reducible apply doBuComplete_moves
    | split
    | dsimp only

theorem State.placeStat_moves {s₀ : State} {s : State} {n idx rec_ doc : Nat} {bytes : List Nat} (hm : Moves s₀ s) :
    Moves s₀ (State.placeStat s n idx rec_ doc bytes) := by
  unfold State.placeStat
  repeat' first
    | with_reducible assumption
    | (intro _; intros)
    | (extract_lets +onlyGivenNames x; refine (fun (hx : Moves s₀ x) => ?_) ?_; clear_value x; rotate_left; subst x; rotate_right)
    | (extract_lets +onlyGivenNames x; refine (fun (hx : Moves s₀ x.1) => ?_) ?_; clear_value x; rotate_left; subst x; rotate_right)
    | (extract_lets +onlyGivenNames x; first | clear_value x | subst x)
    | with_reducible apply State.modOs_moves
    | with_reducible apply State.osCount_moves
    | with_reducible apply State.osProduce_moves
    | split
    | dsimp only
    | (conv => arg 2; arg 73; skip
       with_reducible apply Moves.mk)

theorem doStatsPlace_moves {s₀ : State} {n : Nat} {s : State} (hm : Moves s₀ s) :
    Moves s₀ (doStatsPlace n s) := by
  unfold doStatsPlace
  repeat' first
    | with_reducible assumption
    | (intro _; intros)
    | (extract_lets +onlyGivenNames x; refine (fun (hx : Moves s₀ x) => ?_) ?_; clear_value x; rotate_left; subst x; rotate_right)
    | (extract_lets +onlyGivenNames x; refine (fun (hx : Moves s₀ x.1) => ?_) ?_; clear_value x; rotate_left; subst x; rotate_right)
    | (extract_lets +onlyGivenNames x; first | clear_value x | subst x)
    | with_reducible apply State.modOs_moves
    | with_reducible apply State.osRelease_moves
    | with_reducible apply State.placeStat_moves
    | split
    | dsimp only
    | (conv => arg 2; arg 73; skip
       with_reducible apply Moves.mk)

@[simp] theorem execStatsPlace_moves {s₀ : State} {n : Nat} :
    Answered s₀ (execStatsPlace n s₀) := by
  have hm := Moves.refl s₀
  refine answered ?_
  repeat' first
    | with_reducible assumption
    | with_reducible apply doStatsPlace_moves
    | split

theorem doDocHeader_moves {s₀ : State} {n : Nat} {s : State} (hm : Moves s₀ s) :
    Moves s₀ (doDocHeader n s) := by
  unfold doDocHeader
  repeat' first
    | with_reducible assumption
    | (intro _; intros)
    | (extract_lets +onlyGivenNames x; refine (fun (hx : Moves s₀ x) => ?_) ?_; clear_value x; rotate_left; subst x; rotate_right)
    | (extract_lets +onlyGivenNames x; refine (fun (hx : Moves s₀ x.1) => ?_) ?_; clear_value x; rotate_left; subst x; rotate_right)
    | (extract_lets +onlyGivenNames x; first | clear_value x | subst x)
    | with_reducible apply moves_foldl
    | with_reducible apply moves_foldl_fst
    | with_reducible apply State.count_moves
    | with_reducible apply State.modOs_moves
    | with_reducible apply State.ofMarkers_moves
    | with_reducible apply State.osCount_moves
    | with_reducible apply State.osProduce_moves
    | split
    | dsimp only
    | (conv => arg 2; arg 73; skip
       with_reducible apply Moves.mk)

@[simp] theorem execDocHeaderRecord_moves {s₀ : State} {n : Nat} :
    Answered s₀ (execDocHeaderRecord n s₀) := by
  have hm := Moves.refl s₀
  refine answered ?_
  repeat' first
    | with_reducible assumption
    | with_reducible apply doDocHeader_moves
    | split

theorem State.relayOpen_moves {s₀ : State} {s : State} {n doc : Nat} (hm : Moves s₀ s) :
    Moves s₀ (State.relayOpen s n doc) := by
  unfold State.relayOpen
  repeat' first
    | with_reducible assumption
    | (intro _; intros)
    | (extract_lets +onlyGivenNames x; refine (fun (hx : Moves s₀ x) => ?_) ?_; clear_value x; rotate_left; subst x; rotate_right)
    | (extract_lets +onlyGivenNames x; refine (fun (hx : Moves s₀ x.1) => ?_) ?_; clear_value x; rotate_left; subst x; rotate_right)
    | (extract_lets +onlyGivenNames x; first | clear_value x | subst x)
    | with_reducible apply State.modOs_moves
    | with_reducible apply State.takeStaged_moves
    | split
    | (conv => arg 2; arg 73; skip
       with_reducible apply Moves.mk)

theorem State.relayClose_moves {s₀ : State} {s : State} {n doc : Nat} (hm : Moves s₀ s) :
    Moves s₀ (State.relayClose s n doc) := by
  unfold State.relayClose
  repeat' first
    | with_reducible assumption
    | (intro _; intros)
    | with_reducible apply State.modOs_moves
    | split
    | (conv => arg 2; arg 73; skip
       with_reducible apply Moves.mk)

theorem State.relayDeliver_moves {s₀ : State} {s : State} {n g typ : Nat} {bytes : List Nat} {fault : Option Word} (hm : Moves s₀ s) :
    Moves s₀ (State.relayDeliver s n g typ bytes fault) := by
  unfold State.relayDeliver
  repeat' first
    | with_reducible assumption
    | (intro _; intros)
    | (extract_lets +onlyGivenNames x; refine (fun (hx : Moves s₀ x) => ?_) ?_; clear_value x; rotate_left; subst x; rotate_right)
    | (extract_lets +onlyGivenNames x; refine (fun (hx : Moves s₀ x.1) => ?_) ?_; clear_value x; rotate_left; subst x; rotate_right)
    | (extract_lets +onlyGivenNames x; first | clear_value x | subst x)
    | with_reducible apply State.modOsDoc_moves
    | with_reducible apply State.osCount_moves
    | with_reducible apply State.osProduce_moves
    | with_reducible apply State.osRecord_moves
    | with_reducible apply State.placeStat_moves
    | with_reducible apply State.raiseError_moves
    | with_reducible apply State.relayClose_moves
    | with_reducible apply State.relayOpen_moves
    | split
    | dsimp only
    | (conv => arg 2; arg 73; skip
       with_reducible apply Moves.mk)

theorem doRelayItem_moves {s₀ : State} {g : Nat} {fault : Option Word} {s : State} (hm : Moves s₀ s) :
    Moves s₀ (doRelayItem g fault s) := by
  unfold doRelayItem
  repeat' first
    | with_reducible assumption
    | (intro _; intros)
    | (rename _ = ((_ : State), _) => heq; have hk := congrArg Prod.fst heq; dsimp only at hk; subst hk; clear heq)
    | (extract_lets +onlyGivenNames x; refine (fun (hx : Moves s₀ x) => ?_) ?_; clear_value x; rotate_left; subst x; rotate_right)
    | (extract_lets +onlyGivenNames x; refine (fun (hx : Moves s₀ x.1) => ?_) ?_; clear_value x; rotate_left; subst x; rotate_right)
    | (extract_lets +onlyGivenNames x; first | clear_value x | subst x)
    | with_reducible apply State.osRelease_moves
    | with_reducible apply State.relayDeliver_moves
    | with_reducible apply State.takeItem_moves
    | split
    | dsimp only
    | (conv => arg 2; arg 73; skip
       with_reducible apply Moves.mk)

@[simp] theorem execRelayItem_moves {s₀ : State} {g : Nat} {fault : Option Word} :
    Answered s₀ (execRelayItem g fault s₀) := by
  have hm := Moves.refl s₀
  refine answered ?_
  repeat' first
    | with_reducible assumption
    | with_reducible apply doRelayItem_moves
    | split

end Sys2Proof.Machine
end

