-- ==== Sys2Proof/Laws/MovesTime.lean ====
section
/-! SUPPORT. What the operations of Machine/Time.lean can do to the memories, the register file, the key slots and the queue: moves, and nothing
else. -/

namespace Sys2Proof.Machine

theorem State.modSync_moves {s₀ : State} {s : State} {f : SyncSt → SyncSt} (hm : Moves s₀ s) :
    Moves s₀ (State.modSync s f) := by
  unfold State.modSync
  repeat' first
    | with_reducible assumption
    | split
    | (conv => arg 2; arg 73; skip
       with_reducible apply Moves.mk)

theorem State.setSync_moves {s₀ : State} {s : State} {f : Fld} {v : Nat} (hm : Moves s₀ s) :
    Moves s₀ (State.setSync s f v) := by
  unfold State.setSync
  repeat' first
    | with_reducible assumption
    | with_reducible apply State.setFld_moves
    | split

theorem State.showRoot_moves {s₀ : State} {s : State} (hm : Moves s₀ s) :
    Moves s₀ (State.showRoot s) := by
  unfold State.showRoot
  repeat' first
    | with_reducible assumption
    | (intro _; intros)
    | (extract_lets +onlyGivenNames x; refine (fun (hx : Moves s₀ x) => ?_) ?_; clear_value x; rotate_left; subst x; rotate_right)
    | (extract_lets +onlyGivenNames x; refine (fun (hx : Moves s₀ x.1) => ?_) ?_; clear_value x; rotate_left; subst x; rotate_right)
    | (extract_lets +onlyGivenNames x; first | clear_value x | subst x)
    | with_reducible apply State.modSync_moves
    | with_reducible apply State.setSync_moves
    | split
    | (conv => arg 2; arg 73; skip
       with_reducible apply Moves.mk)

theorem State.readTimeLo_moves {s₀ : State} {s : State} {key : Nat} (hm : Moves s₀ s) :
    Moves s₀ (State.readTimeLo s key).1 := by
  unfold State.readTimeLo
  repeat' first
    | with_reducible assumption
    | (intro _; intros)
    | with_reducible apply State.modSync_moves
    | split
    | dsimp only
    | (conv => arg 2; arg 73; skip
       with_reducible apply Moves.mk)

@[simp] theorem execTimeLoRead_moves {s₀ : State} {i : Initiator} {init : Nat} :
    Answered s₀ (execTimeLoRead i init s₀) := by
  have hm := Moves.refl s₀
  refine answered ?_
  repeat' first
    | with_reducible assumption
    | (intro _; intros)
    | with_reducible apply State.readTimeLo_moves
    | with_reducible apply State.swRead_moves
    | split

theorem State.sendTx_moves {s₀ : State} {s : State} {g typ seqNo a b : Nat} (hm : Moves s₀ s) :
    Moves s₀ (State.sendTx s g typ seqNo a b) := by
  unfold State.sendTx
  repeat' first
    | with_reducible assumption
    | with_reducible apply State.orderedSet_moves
    | split

theorem doExchangeTick_moves {s₀ : State} {g sub : Nat} {s : State} (hm : Moves s₀ s) :
    Moves s₀ (doExchangeTick g sub s) := by
  unfold doExchangeTick
  repeat' first
    | with_reducible assumption
    | (intro _; intros)
    | (extract_lets +onlyGivenNames x; refine (fun (hx : Moves s₀ x) => ?_) ?_; clear_value x; rotate_left; subst x; rotate_right)
    | (extract_lets +onlyGivenNames x; refine (fun (hx : Moves s₀ x.1) => ?_) ?_; clear_value x; rotate_left; subst x; rotate_right)
    | (extract_lets +onlyGivenNames x; first | clear_value x | subst x)
    | with_reducible apply State.modSync_moves
    | with_reducible apply State.sendTx_moves
    | split
    | (conv => arg 2; arg 73; skip
       with_reducible apply Moves.mk)

@[simp] theorem execTimeExchangeTick_moves {s₀ : State} {g sub : Nat} :
    Answered s₀ (execTimeExchangeTick g sub s₀) := by
  have hm := Moves.refl s₀
  refine answered ?_
  repeat' first
    | with_reducible assumption
    | with_reducible apply doExchangeTick_moves
    | split

theorem State.noteFar_moves {s₀ : State} {s : State} {g flags : Nat} (hm : Moves s₀ s) :
    Moves s₀ (State.noteFar s g flags) := by
  unfold State.noteFar
  repeat' first
    | with_reducible assumption
    | (intro _; intros)
    | with_reducible apply State.modSync_moves
    | split
    | (conv => arg 2; arg 73; skip
       with_reducible apply Moves.mk)

theorem doTxq_moves {s₀ : State} {g seqNo flags _t1 sub : Nat} {s : State} (hm : Moves s₀ s) :
    Moves s₀ (doTxq g seqNo flags _t1 sub s) := by
  unfold doTxq
  repeat' first
    | with_reducible assumption
    | with_reducible apply State.noteFar_moves
    | with_reducible apply State.sendTx_moves
    | split

@[simp] theorem execTxqReceive_moves {s₀ : State} {g seqNo flags t1 sub : Nat} :
    Answered s₀ (execTxqReceive g seqNo flags t1 sub s₀) := by
  have hm := Moves.refl s₀
  refine answered ?_
  repeat' first
    | with_reducible assumption
    | with_reducible apply doTxq_moves
    | split

theorem State.stepInvar_moves {s₀ : State} {s : State} {off : Int} (hm : Moves s₀ s) :
    Moves s₀ (State.stepInvar s off) := by
  unfold State.stepInvar
  repeat' first
    | with_reducible assumption
    | (intro _; intros)
    | (extract_lets +onlyGivenNames x; refine (fun (hx : Moves s₀ x) => ?_) ?_; clear_value x; rotate_left; subst x; rotate_right)
    | (extract_lets +onlyGivenNames x; refine (fun (hx : Moves s₀ x.1) => ?_) ?_; clear_value x; rotate_left; subst x; rotate_right)
    | (extract_lets +onlyGivenNames x; first | clear_value x | subst x)
    | with_reducible apply State.modSync_moves
    | split
    | (conv => arg 2; arg 73; skip
       with_reducible apply Moves.mk)

theorem State.stepRate_moves {s₀ : State} {s : State} (hm : Moves s₀ s) :
    Moves s₀ (State.stepRate s) := by
  unfold State.stepRate
  repeat' first
    | with_reducible assumption
    | (intro _; intros)
    | (extract_lets +onlyGivenNames x; refine (fun (hx : Moves s₀ x) => ?_) ?_; clear_value x; rotate_left; subst x; rotate_right)
    | (extract_lets +onlyGivenNames x; refine (fun (hx : Moves s₀ x.1) => ?_) ?_; clear_value x; rotate_left; subst x; rotate_right)
    | (extract_lets +onlyGivenNames x; first | clear_value x | subst x)
    | with_reducible apply State.modSync_moves
    | split
    | (conv => arg 2; arg 73; skip
       with_reducible apply Moves.mk)

theorem State.steer_moves {s₀ : State} {s : State} {off : Int} (hm : Moves s₀ s) :
    Moves s₀ (State.steer s off) := by
  unfold State.steer
  repeat' first
    | with_reducible assumption
    | (intro _; intros)
    | (extract_lets +onlyGivenNames x; refine (fun (hx : Moves s₀ x) => ?_) ?_; clear_value x; rotate_left; subst x; rotate_right)
    | (extract_lets +onlyGivenNames x; refine (fun (hx : Moves s₀ x.1) => ?_) ?_; clear_value x; rotate_left; subst x; rotate_right)
    | (extract_lets +onlyGivenNames x; first | clear_value x | subst x)
    | with_reducible apply State.draw_moves
    | with_reducible apply State.modSync_moves
    | with_reducible apply State.raiseError_moves
    | with_reducible apply State.setFld_moves
    | with_reducible apply State.setSync_moves
    | with_reducible apply State.stepInvar_moves
    | split
    | (conv => arg 2; arg 73; skip
       with_reducible apply Moves.mk)

theorem doTxr_moves {s₀ : State} {g seqNo flags t3 t2 sub : Nat} {s : State} (hm : Moves s₀ s) :
    Moves s₀ (doTxr g seqNo flags t3 t2 sub s) := by
  unfold doTxr
  repeat' first
    | with_reducible assumption
    | (intro _; intros)
    | (extract_lets +onlyGivenNames x; refine (fun (hx : Moves s₀ x) => ?_) ?_; clear_value x; rotate_left; subst x; rotate_right)
    | (extract_lets +onlyGivenNames x; refine (fun (hx : Moves s₀ x.1) => ?_) ?_; clear_value x; rotate_left; subst x; rotate_right)
    | (extract_lets +onlyGivenNames x; first | clear_value x | subst x)
    | with_reducible apply State.modSync_moves
    | with_reducible apply State.noteFar_moves
    | with_reducible apply State.setFld_moves
    | with_reducible apply State.setSync_moves
    | with_reducible apply State.steer_moves
    | split
    | dsimp only
    | (conv => arg 2; arg 73; skip
       with_reducible apply Moves.mk)

@[simp] theorem execTxrReceive_moves {s₀ : State} {g seqNo flags t3 t2 sub : Nat} :
    Answered s₀ (execTxrReceive g seqNo flags t3 t2 sub s₀) := by
  have hm := Moves.refl s₀
  refine answered ?_
  repeat' first
    | with_reducible assumption
    | with_reducible apply doTxr_moves
    | split

theorem doHoldover_moves {s₀ : State} {s : State} (hm : Moves s₀ s) :
    Moves s₀ (doHoldover s) := by
  unfold doHoldover
  repeat' first
    | with_reducible assumption
    | (intro _; intros)
    | (extract_lets +onlyGivenNames x; refine (fun (hx : Moves s₀ x) => ?_) ?_; clear_value x; rotate_left; subst x; rotate_right)
    | (extract_lets +onlyGivenNames x; refine (fun (hx : Moves s₀ x.1) => ?_) ?_; clear_value x; rotate_left; subst x; rotate_right)
    | (extract_lets +onlyGivenNames x; first | clear_value x | subst x)
    | with_reducible apply State.modSync_moves
    | with_reducible apply State.raiseError_moves
    | with_reducible apply State.setSync_moves
    | split
    | (conv => arg 2; arg 73; skip
       with_reducible apply Moves.mk)

@[simp] theorem execHoldoverEnter_moves {s₀ : State}  :
    Answered s₀ (execHoldoverEnter s₀) := by
  have hm := Moves.refl s₀
  refine answered ?_
  repeat' first
    | with_reducible assumption
    | with_reducible apply doHoldover_moves
    | split

theorem State.modGen_moves {s₀ : State} {s : State} {i : Nat} {f : GenSt → GenSt} (hm : Moves s₀ s) :
    Moves s₀ (State.modGen s i f) := by
  unfold State.modGen
  repeat' first
    | with_reducible assumption
    | split
    | (conv => arg 2; arg 73; skip
       with_reducible apply Moves.mk)

theorem State.genPulse_moves {s₀ : State} {s : State} {i t : Nat} (hm : Moves s₀ s) :
    Moves s₀ (State.genPulse s i t) := by
  unfold State.genPulse
  repeat' first
    | with_reducible assumption
    | (intro _; intros)
    | (extract_lets +onlyGivenNames x; refine (fun (hx : Moves s₀ x) => ?_) ?_; clear_value x; rotate_left; subst x; rotate_right)
    | (extract_lets +onlyGivenNames x; refine (fun (hx : Moves s₀ x.1) => ?_) ?_; clear_value x; rotate_left; subst x; rotate_right)
    | (extract_lets +onlyGivenNames x; first | clear_value x | subst x)
    | with_reducible apply State.count_moves
    | with_reducible apply State.modGen_moves
    | with_reducible apply State.setFld_moves
    | split
    | (conv => arg 2; arg 73; skip
       with_reducible apply Moves.mk)

theorem State.genEventAt_moves {s₀ : State} {s : State} {i t : Nat} (hm : Moves s₀ s) :
    Moves s₀ (State.genEventAt s i t) := by
  unfold State.genEventAt
  repeat' first
    | with_reducible assumption
    | (intro _; intros)
    | (extract_lets +onlyGivenNames x; refine (fun (hx : Moves s₀ x) => ?_) ?_; clear_value x; rotate_left; subst x; rotate_right)
    | (extract_lets +onlyGivenNames x; refine (fun (hx : Moves s₀ x.1) => ?_) ?_; clear_value x; rotate_left; subst x; rotate_right)
    | (extract_lets +onlyGivenNames x; have _ : _ → _ := x; subst x)
    | (extract_lets +onlyGivenNames x; first | clear_value x | subst x)
    | with_reducible apply moves_foldl
    | with_reducible apply moves_foldl_fst
    | with_reducible apply State.genPulse_moves
    | split

theorem State.genEvent_moves {s₀ : State} {s : State} {i : Nat} (hm : Moves s₀ s) :
    Moves s₀ (State.genEvent s i) := by
  unfold State.genEvent
  repeat' first
    | with_reducible assumption
    | with_reducible apply State.genEventAt_moves
    | split

theorem State.gridRetreat_moves {s₀ : State} {s : State} {i : Nat} (hm : Moves s₀ s) :
    Moves s₀ (State.gridRetreat s i) := by
  unfold State.gridRetreat
  repeat' first
    | with_reducible assumption
    | (intro _; intros)
    | (extract_lets +onlyGivenNames x; refine (fun (hx : Moves s₀ x) => ?_) ?_; clear_value x; rotate_left; subst x; rotate_right)
    | (extract_lets +onlyGivenNames x; refine (fun (hx : Moves s₀ x.1) => ?_) ?_; clear_value x; rotate_left; subst x; rotate_right)
    | (extract_lets +onlyGivenNames x; first | clear_value x | subst x)
    | with_reducible apply State.modGen_moves
    | split
    | (conv => arg 2; arg 73; skip
       with_reducible apply Moves.mk)

theorem doStrobeEnc_moves {s₀ : State} {i : Nat} {s : State} (hm : Moves s₀ s) :
    Moves s₀ (doStrobeEnc i s) := by
  unfold doStrobeEnc
  repeat' first
    | with_reducible assumption
    | (intro _; intros)
    | (extract_lets +onlyGivenNames x; refine (fun (hx : Moves s₀ x) => ?_) ?_; clear_value x; rotate_left; subst x; rotate_right)
    | (extract_lets +onlyGivenNames x; refine (fun (hx : Moves s₀ x.1) => ?_) ?_; clear_value x; rotate_left; subst x; rotate_right)
    | (extract_lets +onlyGivenNames x; first | clear_value x | subst x)
    | with_reducible apply State.genEvent_moves
    | with_reducible apply State.gridRetreat_moves
    | with_reducible apply State.modGen_moves
    | split
    | (conv => arg 2; arg 73; skip
       with_reducible apply Moves.mk)

@[simp] theorem execStrobeEncEvent_moves {s₀ : State} {i : Nat} :
    Answered s₀ (execStrobeEncEvent i s₀) := by
  have hm := Moves.refl s₀
  refine answered ?_
  repeat' first
    | with_reducible assumption
    | with_reducible apply doStrobeEnc_moves
    | split

theorem doStrobeTime_moves {s₀ : State} {i : Nat} {s : State} (hm : Moves s₀ s) :
    Moves s₀ (doStrobeTime i s) := by
  unfold doStrobeTime
  repeat' first
    | with_reducible assumption
    | (intro _; intros)
    | (extract_lets +onlyGivenNames x; refine (fun (hx : Moves s₀ x) => ?_) ?_; clear_value x; rotate_left; subst x; rotate_right)
    | (extract_lets +onlyGivenNames x; refine (fun (hx : Moves s₀ x.1) => ?_) ?_; clear_value x; rotate_left; subst x; rotate_right)
    | (extract_lets +onlyGivenNames x; first | clear_value x | subst x)
    | with_reducible apply State.genEventAt_moves
    | with_reducible apply State.modGen_moves
    | split
    | (conv => arg 2; arg 73; skip
       with_reducible apply Moves.mk)

@[simp] theorem execStrobeTimeEvent_moves {s₀ : State} {i : Nat} :
    Answered s₀ (execStrobeTimeEvent i s₀) := by
  have hm := Moves.refl s₀
  refine answered ?_
  repeat' first
    | with_reducible assumption
    | with_reducible apply doStrobeTime_moves
    | split

theorem State.genEvents_moves {s₀ : State} {s : State} {mask : Nat} (hm : Moves s₀ s) :
    Moves s₀ (State.genEvents s mask) := by
  unfold State.genEvents
  repeat' first
    | with_reducible assumption
    | (intro _; intros)
    | with_reducible apply moves_foldl
    | with_reducible apply moves_foldl_fst
    | with_reducible apply State.genEvent_moves
    | split

@[simp] theorem execStbSw_moves {s₀ : State} {i : Initiator} {data : Word} :
    Answered s₀ (execStbSw i data s₀) := by
  have hm := Moves.refl s₀
  refine answered ?_
  repeat' first
    | with_reducible assumption
    | (intro _; intros)
    | with_reducible apply State.genEvents_moves
    | with_reducible apply State.swWrite_moves
    | split

theorem State.strobePin_moves {s₀ : State} {s : State} {i : Nat} (hm : Moves s₀ s) :
    Moves s₀ (State.strobePin s i) := by
  unfold State.strobePin
  repeat' first
    | with_reducible assumption
    | with_reducible apply State.emit_moves
    | split

theorem doPulseStart_moves {s₀ : State} {i : Nat} {s : State} (hm : Moves s₀ s) :
    Moves s₀ (doPulseStart i s) := by
  unfold doPulseStart
  repeat' first
    | with_reducible assumption
    | (intro _; intros)
    | (extract_lets +onlyGivenNames x; refine (fun (hx : Moves s₀ x) => ?_) ?_; clear_value x; rotate_left; subst x; rotate_right)
    | (extract_lets +onlyGivenNames x; refine (fun (hx : Moves s₀ x.1) => ?_) ?_; clear_value x; rotate_left; subst x; rotate_right)
    | (extract_lets +onlyGivenNames x; first | clear_value x | subst x)
    | with_reducible apply State.modGen_moves
    | with_reducible apply State.oweStrobe_moves
    | with_reducible apply State.strobePin_moves
    | split
    | dsimp only
    | (conv => arg 2; arg 73; skip
       with_reducible apply Moves.mk)

@[simp] theorem execStrobePulseStart_moves {s₀ : State} {i : Nat} :
    Answered s₀ (execStrobePulseStart i s₀) := by
  have hm := Moves.refl s₀
  refine answered ?_
  repeat' first
    | with_reducible assumption
    | with_reducible apply doPulseStart_moves
    | split

theorem doPulseEnd_moves {s₀ : State} {i : Nat} {s : State} (hm : Moves s₀ s) :
    Moves s₀ (doPulseEnd i s) := by
  unfold doPulseEnd
  repeat' first
    | with_reducible assumption
    | (intro _; intros)
    | (extract_lets +onlyGivenNames x; refine (fun (hx : Moves s₀ x) => ?_) ?_; clear_value x; rotate_left; subst x; rotate_right)
    | (extract_lets +onlyGivenNames x; refine (fun (hx : Moves s₀ x.1) => ?_) ?_; clear_value x; rotate_left; subst x; rotate_right)
    | (extract_lets +onlyGivenNames x; first | clear_value x | subst x)
    | with_reducible apply State.modGen_moves
    | with_reducible apply State.putBit_moves
    | with_reducible apply State.strobePin_moves
    | split
    | dsimp only
    | (conv => arg 2; arg 73; skip
       with_reducible apply Moves.mk)

@[simp] theorem execStrobePulseEnd_moves {s₀ : State} {i : Nat} :
    Answered s₀ (execStrobePulseEnd i s₀) := by
  have hm := Moves.refl s₀
  refine answered ?_
  repeat' first
    | with_reducible assumption
    | with_reducible apply doPulseEnd_moves
    | split

theorem State.genStart_moves {s₀ : State} {s : State} {i : Nat} (hm : Moves s₀ s) :
    Moves s₀ (State.genStart s i) := by
  unfold State.genStart
  repeat' first
    | with_reducible assumption
    | (intro _; intros)
    | (extract_lets +onlyGivenNames x; refine (fun (hx : Moves s₀ x) => ?_) ?_; clear_value x; rotate_left; subst x; rotate_right)
    | (extract_lets +onlyGivenNames x; refine (fun (hx : Moves s₀ x.1) => ?_) ?_; clear_value x; rotate_left; subst x; rotate_right)
    | (extract_lets +onlyGivenNames x; first | clear_value x | subst x)
    | with_reducible apply State.modGen_moves
    | with_reducible apply State.setBit_moves
    | split
    | (conv => arg 2; arg 73; skip
       with_reducible apply Moves.mk)

theorem State.genStop_moves {s₀ : State} {s : State} {i : Nat} (hm : Moves s₀ s) :
    Moves s₀ (State.genStop s i) := by
  unfold State.genStop
  repeat' first
    | with_reducible assumption
    | (intro _; intros)
    | (extract_lets +onlyGivenNames x; refine (fun (hx : Moves s₀ x) => ?_) ?_; clear_value x; rotate_left; subst x; rotate_right)
    | (extract_lets +onlyGivenNames x; refine (fun (hx : Moves s₀ x.1) => ?_) ?_; clear_value x; rotate_left; subst x; rotate_right)
    | (extract_lets +onlyGivenNames x; first | clear_value x | subst x)
    | with_reducible apply State.modGen_moves
    | with_reducible apply State.putBit_moves
    | split
    | (conv => arg 2; arg 73; skip
       with_reducible apply Moves.mk)

theorem State.genSwitch_moves {s₀ : State} {s : State} {start stop : Nat} (hm : Moves s₀ s) :
    Moves s₀ (State.genSwitch s start stop) := by
  unfold State.genSwitch
  repeat' first
    | with_reducible assumption
    | (intro _; intros)
    | with_reducible apply moves_foldl
    | with_reducible apply moves_foldl_fst
    | with_reducible apply State.genStart_moves
    | with_reducible apply State.genStop_moves
    | split

@[simp] theorem execStbStart_moves {s₀ : State} {i : Initiator} {data stop : Word} :
    Answered s₀ (execStbStart i data stop s₀) := by
  have hm := Moves.refl s₀
  refine answered ?_
  repeat' first
    | with_reducible assumption
    | (intro _; intros)
    | with_reducible apply State.genSwitch_moves
    | with_reducible apply State.swWrite_moves
    | split

@[simp] theorem execStbStop_moves {s₀ : State} {i : Initiator} {data : Word} :
    Answered s₀ (execStbStop i data s₀) := by
  have hm := Moves.refl s₀
  refine answered ?_
  repeat' first
    | with_reducible assumption
    | (intro _; intros)
    | with_reducible apply State.genSwitch_moves
    | with_reducible apply State.swWrite_moves
    | split

theorem State.showTrig_moves {s₀ : State} {s : State} (hm : Moves s₀ s) :
    Moves s₀ (State.showTrig s) := by
  unfold State.showTrig
  repeat' first
    | with_reducible assumption
    | (intro _; intros)
    | with_reducible apply moves_foldl
    | with_reducible apply moves_foldl_fst
    | with_reducible apply State.setFld_moves
    | split

theorem State.segTrig_moves {s₀ : State} {s : State} {g i : Nat} {level : Bool} (hm : Moves s₀ s) :
    Moves s₀ (State.segTrig s g i level) := by
  unfold State.segTrig
  repeat' first
    | with_reducible assumption
    | (intro _; intros)
    | (extract_lets +onlyGivenNames x; refine (fun (hx : Moves s₀ x) => ?_) ?_; clear_value x; rotate_left; subst x; rotate_right)
    | (extract_lets +onlyGivenNames x; refine (fun (hx : Moves s₀ x.1) => ?_) ?_; clear_value x; rotate_left; subst x; rotate_right)
    | (extract_lets +onlyGivenNames x; first | clear_value x | subst x)
    | with_reducible apply State.modSeg_moves
    | split
    | dsimp only
    | (conv => arg 2; arg 73; skip
       with_reducible apply Moves.mk)

theorem State.segStart_moves {s₀ : State} {s : State} (hm : Moves s₀ s) :
    Moves s₀ (State.segStart s) := by
  unfold State.segStart
  repeat' first
    | with_reducible assumption
    | (intro _; intros)
    | (extract_lets +onlyGivenNames x; refine (fun (hx : Moves s₀ x) => ?_) ?_; clear_value x; rotate_left; subst x; rotate_right)
    | (extract_lets +onlyGivenNames x; refine (fun (hx : Moves s₀ x.1) => ?_) ?_; clear_value x; rotate_left; subst x; rotate_right)
    | (extract_lets +onlyGivenNames x; first | clear_value x | subst x)
    | with_reducible apply moves_foldl
    | with_reducible apply moves_foldl_fst
    | with_reducible apply State.modSeg_moves
    | split
    | (conv => arg 2; arg 73; skip
       with_reducible apply Moves.mk)

theorem State.captureCode_moves {s₀ : State} {s : State} {i : Nat} (hm : Moves s₀ s) :
    Moves s₀ (State.captureCode s i) := by
  unfold State.captureCode
  repeat' first
    | with_reducible assumption
    | (extract_lets +onlyGivenNames x; refine (fun (hx : Moves s₀ x) => ?_) ?_; clear_value x; rotate_left; subst x; rotate_right)
    | (extract_lets +onlyGivenNames x; refine (fun (hx : Moves s₀ x.1) => ?_) ?_; clear_value x; rotate_left; subst x; rotate_right)
    | (extract_lets +onlyGivenNames x; first | clear_value x | subst x)
    | with_reducible apply State.setFld_moves
    | split

theorem State.trigMoved_moves {s₀ : State} {s : State} {i : Nat} (hm : Moves s₀ s) :
    Moves s₀ (State.trigMoved s i) := by
  unfold State.trigMoved
  repeat' first
    | with_reducible assumption
    | (intro _; intros)
    | (extract_lets +onlyGivenNames x; refine (fun (hx : Moves s₀ x) => ?_) ?_; clear_value x; rotate_left; subst x; rotate_right)
    | (extract_lets +onlyGivenNames x; refine (fun (hx : Moves s₀ x.1) => ?_) ?_; clear_value x; rotate_left; subst x; rotate_right)
    | (extract_lets +onlyGivenNames x; first | clear_value x | subst x)
    | with_reducible apply moves_foldl
    | with_reducible apply moves_foldl_fst
    | with_reducible apply State.captureCode_moves
    | with_reducible apply State.genEvent_moves
    | with_reducible apply State.modDma_moves
    | with_reducible apply State.segTrig_moves
    | with_reducible apply State.showTrig_moves
    | split
    | (conv => arg 2; arg 73; skip
       with_reducible apply Moves.mk)

theorem State.trigAccept_moves {s₀ : State} {s : State} {i : Nat} (hm : Moves s₀ s) :
    Moves s₀ (State.trigAccept s i) := by
  unfold State.trigAccept
  repeat' first
    | with_reducible assumption
    | (extract_lets +onlyGivenNames x; refine (fun (hx : Moves s₀ x) => ?_) ?_; clear_value x; rotate_left; subst x; rotate_right)
    | (extract_lets +onlyGivenNames x; refine (fun (hx : Moves s₀ x.1) => ?_) ?_; clear_value x; rotate_left; subst x; rotate_right)
    | (extract_lets +onlyGivenNames x; first | clear_value x | subst x)
    | with_reducible apply State.trigMoved_moves
    | with_reducible apply State.wiresFrom_moves
    | split
    | (conv => arg 2; arg 73; skip
       with_reducible apply Moves.mk)

theorem State.modFilter_moves {s₀ : State} {s : State} {f : FilterSt → FilterSt} (hm : Moves s₀ s) :
    Moves s₀ (State.modFilter s f) := by
  unfold State.modFilter
  repeat' first
    | with_reducible assumption
    | split
    | (conv => arg 2; arg 73; skip
       with_reducible apply Moves.mk)

theorem doTrigChange_moves {s₀ : State} {i : Nat} {level : Bool} {s : State} (hm : Moves s₀ s) :
    Moves s₀ (doTrigChange i level s) := by
  unfold doTrigChange
  repeat' first
    | with_reducible assumption
    | (intro _; intros)
    | (extract_lets +onlyGivenNames x; refine (fun (hx : Moves s₀ x) => ?_) ?_; clear_value x; rotate_left; subst x; rotate_right)
    | (extract_lets +onlyGivenNames x; refine (fun (hx : Moves s₀ x.1) => ?_) ?_; clear_value x; rotate_left; subst x; rotate_right)
    | (extract_lets +onlyGivenNames x; first | clear_value x | subst x)
    | with_reducible apply State.modFilter_moves
    | with_reducible apply State.trigAccept_moves
    | split
    | (conv => arg 2; arg 73; skip
       with_reducible apply Moves.mk)

@[simp] theorem execTrigInChange_moves {s₀ : State} {i : Nat} {level : Bool} :
    Answered s₀ (execTrigInChange i level s₀) := by
  have hm := Moves.refl s₀
  refine answered ?_
  repeat' first
    | with_reducible assumption
    | with_reducible apply doTrigChange_moves
    | split

theorem State.modEnc_moves {s₀ : State} {s : State} {k : Nat} {f : EncSt → EncSt} (hm : Moves s₀ s) :
    Moves s₀ (State.modEnc s k f) := by
  unfold State.modEnc
  repeat' first
    | with_reducible assumption
    | split
    | (conv => arg 2; arg 73; skip
       with_reducible apply Moves.mk)

theorem State.gridsFollow_moves {s₀ : State} {s : State} {k : Nat} (hm : Moves s₀ s) :
    Moves s₀ (State.gridsFollow s k) := by
  unfold State.gridsFollow
  repeat' first
    | with_reducible assumption
    | (intro _; intros)
    | with_reducible apply moves_foldl
    | with_reducible apply moves_foldl_fst
    | with_reducible apply State.gridRetreat_moves
    | split

theorem State.sendEnc_moves {s₀ : State} {s : State} {k : Nat} (hm : Moves s₀ s) :
    Moves s₀ (State.sendEnc s k) := by
  unfold State.sendEnc
  repeat' first
    | with_reducible assumption
    | (intro _; intros)
    | (extract_lets +onlyGivenNames x; refine (fun (hx : Moves s₀ x) => ?_) ?_; clear_value x; rotate_left; subst x; rotate_right)
    | (extract_lets +onlyGivenNames x; refine (fun (hx : Moves s₀ x.1) => ?_) ?_; clear_value x; rotate_left; subst x; rotate_right)
    | (extract_lets +onlyGivenNames x; first | clear_value x | subst x)
    | with_reducible apply State.modEnc_moves
    | with_reducible apply State.sendMsg_moves
    | split
    | (conv => arg 2; arg 73; skip
       with_reducible apply Moves.mk)

theorem State.encCount_moves {s₀ : State} {s : State} {k : Nat} {step : Int} (hm : Moves s₀ s) :
    Moves s₀ (State.encCount s k step) := by
  unfold State.encCount
  repeat' first
    | with_reducible assumption
    | (intro _; intros)
    | (extract_lets +onlyGivenNames x; refine (fun (hx : Moves s₀ x) => ?_) ?_; clear_value x; rotate_left; subst x; rotate_right)
    | (extract_lets +onlyGivenNames x; refine (fun (hx : Moves s₀ x.1) => ?_) ?_; clear_value x; rotate_left; subst x; rotate_right)
    | (extract_lets +onlyGivenNames x; first | clear_value x | subst x)
    | with_reducible apply State.draw_moves
    | with_reducible apply State.gridsFollow_moves
    | with_reducible apply State.modEnc_moves
    | with_reducible apply State.putBit_moves
    | with_reducible apply State.sendEnc_moves
    | with_reducible apply State.setReg_moves
    | split
    | (conv => arg 2; arg 73; skip
       with_reducible apply Moves.mk)

theorem State.encTake_moves {s₀ : State} {s : State} {k : Nat} {a b : Bool} (hm : Moves s₀ s) :
    Moves s₀ (State.encTake s k a b) := by
  unfold State.encTake
  repeat' first
    | with_reducible assumption
    | (extract_lets +onlyGivenNames x; refine (fun (hx : Moves s₀ x) => ?_) ?_; clear_value x; rotate_left; subst x; rotate_right)
    | (extract_lets +onlyGivenNames x; refine (fun (hx : Moves s₀ x.1) => ?_) ?_; clear_value x; rotate_left; subst x; rotate_right)
    | (extract_lets +onlyGivenNames x; first | clear_value x | subst x)
    | with_reducible apply State.count_moves
    | with_reducible apply State.encCount_moves
    | with_reducible apply State.putBit_moves
    | with_reducible apply State.setBit_moves
    | split
    | dsimp only
    | (conv => arg 2; arg 73; skip
       with_reducible apply Moves.mk)

theorem doEncTransition_moves {s₀ : State} {k : Nat} {a b : Bool} {s : State} (hm : Moves s₀ s) :
    Moves s₀ (doEncTransition k a b s) := by
  unfold doEncTransition
  repeat' first
    | with_reducible assumption
    | (intro _; intros)
    | (extract_lets +onlyGivenNames x; refine (fun (hx : Moves s₀ x) => ?_) ?_; clear_value x; rotate_left; subst x; rotate_right)
    | (extract_lets +onlyGivenNames x; refine (fun (hx : Moves s₀ x.1) => ?_) ?_; clear_value x; rotate_left; subst x; rotate_right)
    | (extract_lets +onlyGivenNames x; first | clear_value x | subst x)
    | with_reducible apply State.encTake_moves
    | with_reducible apply State.modFilter_moves
    | split
    | (conv => arg 2; arg 73; skip
       with_reducible apply Moves.mk)

theorem State.inputsAccept_moves {s₀ : State} {s : State} {js : List Nat} (hm : Moves s₀ s) :
    Moves s₀ (State.inputsAccept s js) := by
  unfold State.inputsAccept
  repeat' first
    | with_reducible assumption
    | (intro _; intros)
    | (extract_lets +onlyGivenNames x; refine (fun (hx : Moves s₀ x) => ?_) ?_; clear_value x; rotate_left; subst x; rotate_right)
    | (extract_lets +onlyGivenNames x; refine (fun (hx : Moves s₀ x.1) => ?_) ?_; clear_value x; rotate_left; subst x; rotate_right)
    | (extract_lets +onlyGivenNames x; first | clear_value x | subst x)
    | with_reducible apply moves_foldl
    | with_reducible apply moves_foldl_fst
    | with_reducible apply State.encTake_moves
    | with_reducible apply State.trigAccept_moves
    | split

theorem State.sampleInputs_moves {s₀ : State} {s : State} (hm : Moves s₀ s) :
    Moves s₀ (State.sampleInputs s) := by
  unfold State.sampleInputs
  repeat' first
    | with_reducible assumption
    | (intro _; intros)
    | (extract_lets +onlyGivenNames x; refine (fun (hx : Moves s₀ x) => ?_) ?_; clear_value x; rotate_left; subst x; rotate_right)
    | (extract_lets +onlyGivenNames x; refine (fun (hx : Moves s₀ x.1) => ?_) ?_; clear_value x; rotate_left; subst x; rotate_right)
    | (extract_lets +onlyGivenNames x; first | clear_value x | subst x)
    | with_reducible apply moves_foldl
    | with_reducible apply moves_foldl_fst
    | with_reducible apply State.inputsAccept_moves
    | with_reducible apply State.modFilter_moves
    | split
    | (conv => arg 2; arg 73; skip
       with_reducible apply Moves.mk)

theorem State.bypass_moves {s₀ : State} {s old : State} (hm : Moves s₀ s) :
    Moves s₀ (State.bypass s old) := by
  unfold State.bypass
  repeat' first
    | with_reducible assumption
    | (intro _; intros)
    | (extract_lets +onlyGivenNames x; refine (fun (hx : Moves s₀ x) => ?_) ?_; clear_value x; rotate_left; subst x; rotate_right)
    | (extract_lets +onlyGivenNames x; refine (fun (hx : Moves s₀ x.1) => ?_) ?_; clear_value x; rotate_left; subst x; rotate_right)
    | (extract_lets +onlyGivenNames x; first | clear_value x | subst x)
    | with_reducible apply moves_foldl
    | with_reducible apply moves_foldl_fst
    | with_reducible apply State.inputsAccept_moves
    | split
    | (conv => arg 2; arg 73; skip
       with_reducible apply Moves.mk)

@[simp] theorem execEncTransition_moves {s₀ : State} {k : Nat} {a b : Bool} :
    Answered s₀ (execEncTransition k a b s₀) := by
  have hm := Moves.refl s₀
  refine answered ?_
  repeat' first
    | with_reducible assumption
    | with_reducible apply doEncTransition_moves
    | split

theorem doEncStopped_moves {s₀ : State} {k : Nat} {s : State} (hm : Moves s₀ s) :
    Moves s₀ (doEncStopped k s) := by
  unfold doEncStopped
  repeat' first
    | with_reducible assumption
    | (intro _; intros)
    | (extract_lets +onlyGivenNames x; refine (fun (hx : Moves s₀ x) => ?_) ?_; clear_value x; rotate_left; subst x; rotate_right)
    | (extract_lets +onlyGivenNames x; refine (fun (hx : Moves s₀ x.1) => ?_) ?_; clear_value x; rotate_left; subst x; rotate_right)
    | (extract_lets +onlyGivenNames x; first | clear_value x | subst x)
    | with_reducible apply State.gridsFollow_moves
    | with_reducible apply State.modEnc_moves
    | with_reducible apply State.setBit_moves
    | with_reducible apply State.setReg_moves
    | split
    | (conv => arg 2; arg 73; skip
       with_reducible apply Moves.mk)

@[simp] theorem execEncStopped_moves {s₀ : State} {k : Nat} :
    Answered s₀ (execEncStopped k s₀) := by
  have hm := Moves.refl s₀
  refine answered ?_
  repeat' first
    | with_reducible assumption
    | with_reducible apply doEncStopped_moves
    | split

theorem doEncRemote_moves {s₀ : State} {g : Nat} {s : State} (hm : Moves s₀ s) :
    Moves s₀ (doEncRemote g s) := by
  unfold doEncRemote
  repeat' first
    | with_reducible assumption
    | (intro _; intros)
    | (rename _ = ((_ : State), _) => heq; have hk := congrArg Prod.fst heq; dsimp only at hk; subst hk; clear heq)
    | (extract_lets +onlyGivenNames x; refine (fun (hx : Moves s₀ x) => ?_) ?_; clear_value x; rotate_left; subst x; rotate_right)
    | (extract_lets +onlyGivenNames x; refine (fun (hx : Moves s₀ x.1) => ?_) ?_; clear_value x; rotate_left; subst x; rotate_right)
    | (extract_lets +onlyGivenNames x; first | clear_value x | subst x)
    | with_reducible apply State.gridsFollow_moves
    | with_reducible apply State.modEnc_moves
    | with_reducible apply State.setReg_moves
    | with_reducible apply State.takeRx_moves
    | split
    | dsimp only
    | (conv => arg 2; arg 73; skip
       with_reducible apply Moves.mk)

@[simp] theorem execEncRemoteReceive_moves {s₀ : State} {g : Nat} :
    Answered s₀ (execEncRemoteReceive g s₀) := by
  have hm := Moves.refl s₀
  refine answered ?_
  repeat' first
    | with_reducible assumption
    | with_reducible apply doEncRemote_moves
    | split

theorem State.setSlot_moves {s₀ : State} {s : State} {k st : Nat} (hm : Moves s₀ s) :
    Moves s₀ (State.setSlot s k st) := by
  unfold State.setSlot
  repeat' first
    | with_reducible assumption
    | with_reducible apply State.setFld_moves
    | split

theorem State.armSlot_moves {s₀ : State} {s : State} {k margin : Nat} {c : SlotSt} {remote : Bool} (hm : Moves s₀ s) :
    Moves s₀ (State.armSlot s k margin c remote) := by
  unfold State.armSlot
  repeat' first
    | with_reducible assumption
    | (extract_lets +onlyGivenNames x; refine (fun (hx : Moves s₀ x) => ?_) ?_; clear_value x; rotate_left; subst x; rotate_right)
    | (extract_lets +onlyGivenNames x; refine (fun (hx : Moves s₀ x.1) => ?_) ?_; clear_value x; rotate_left; subst x; rotate_right)
    | (extract_lets +onlyGivenNames x; first | clear_value x | subst x)
    | with_reducible apply State.count_moves
    | with_reducible apply State.setFld_moves
    | with_reducible apply State.setSlot_moves
    | split
    | (conv => arg 2; arg 73; skip
       with_reducible apply Moves.mk)

theorem State.forwardBcast_moves {s₀ : State} {s : State} {came : Option Nat} {words : List Nat} (hm : Moves s₀ s) :
    Moves s₀ (State.forwardBcast s came words) := by
  unfold State.forwardBcast
  repeat' first
    | with_reducible assumption
    | (intro _; intros)
    | (extract_lets +onlyGivenNames x; refine (fun (hx : Moves s₀ x) => ?_) ?_; clear_value x; rotate_left; subst x; rotate_right)
    | (extract_lets +onlyGivenNames x; refine (fun (hx : Moves s₀ x.1) => ?_) ?_; clear_value x; rotate_left; subst x; rotate_right)
    | (extract_lets +onlyGivenNames x; first | clear_value x | subst x)
    | with_reducible apply moves_foldl
    | with_reducible apply moves_foldl_fst
    | with_reducible apply State.modSync_moves
    | with_reducible apply State.sendMsg_moves
    | split
    | (conv => arg 2; arg 73; skip
       with_reducible apply Moves.mk)

theorem State.sendBcast_moves {s₀ : State} {s : State} {words : List Nat} (hm : Moves s₀ s) :
    Moves s₀ (State.sendBcast s words) := by
  unfold State.sendBcast
  repeat' first
    | with_reducible assumption
    | (intro _; intros)
    | (extract_lets +onlyGivenNames x; refine (fun (hx : Moves s₀ x) => ?_) ?_; clear_value x; rotate_left; subst x; rotate_right)
    | (extract_lets +onlyGivenNames x; refine (fun (hx : Moves s₀ x.1) => ?_) ?_; clear_value x; rotate_left; subst x; rotate_right)
    | (extract_lets +onlyGivenNames x; first | clear_value x | subst x)
    | with_reducible apply State.forwardBcast_moves
    | with_reducible apply State.modSync_moves
    | split
    | (conv => arg 2; arg 73; skip
       with_reducible apply Moves.mk)

theorem State.ctrlArm_moves {s₀ : State} {s : State} {k : Nat} {data : Word} (hm : Moves s₀ s) :
    Moves s₀ (State.ctrlArm s k data) := by
  unfold State.ctrlArm
  repeat' first
    | with_reducible assumption
    | (extract_lets +onlyGivenNames x; refine (fun (hx : Moves s₀ x) => ?_) ?_; clear_value x; rotate_left; subst x; rotate_right)
    | (extract_lets +onlyGivenNames x; refine (fun (hx : Moves s₀ x.1) => ?_) ?_; clear_value x; rotate_left; subst x; rotate_right)
    | (extract_lets +onlyGivenNames x; first | clear_value x | subst x)
    | with_reducible apply State.armSlot_moves
    | with_reducible apply State.plainWrite_moves
    | with_reducible apply State.sendBcast_moves
    | split

end Sys2Proof.Machine
end

