-- ==== Sys2Proof/Laws/MovesDma.lean ====
section
/-! SUPPORT. What the operations of Machine/Dma.lean can do to the memories, the register file, the key slots and the queue: moves, and nothing
else. -/

namespace Sys2Proof.Machine

theorem State.setCh_moves {s₀ : State} {s : State} {c : Nat} {f : Fld} {v : Nat} (hm : Moves s₀ s) :
    Moves s₀ (State.setCh s c f v) := by
  unfold State.setCh
  repeat' first
    | with_reducible assumption
    | with_reducible apply State.setFld_moves
    | split

theorem State.setDma_moves {s₀ : State} {s : State} {c st : Nat} (hm : Moves s₀ s) :
    Moves s₀ (State.setDma s c st) := by
  unfold State.setDma
  repeat' first
    | with_reducible assumption
    | with_reducible apply State.putBit_moves
    | with_reducible apply State.setCh_moves
    | split

theorem State.dmaHost_moves {s₀ : State} {s : State} {c addr : Nat} {bytes : List Nat} (hm : Moves s₀ s) :
    Moves s₀ (State.dmaHost s c addr bytes) := by
  unfold State.dmaHost
  repeat' first
    | with_reducible assumption
    | with_reducible apply State.emit_moves
    | split

theorem State.dmaUnack_moves {s₀ : State} {s : State} {c : Nat} (hm : Moves s₀ s) :
    Moves s₀ (State.dmaUnack s c) := by
  unfold State.dmaUnack
  repeat' first
    | with_reducible assumption
    | (intro _; intros)
    | with_reducible apply State.modDma_moves
    | split
    | (conv => arg 2; arg 73; skip
       with_reducible apply Moves.mk)

theorem State.writeCpl_moves {s₀ : State} {s : State} {c : Nat} (hm : Moves s₀ s) :
    Moves s₀ (State.writeCpl s c) := by
  unfold State.writeCpl
  repeat' first
    | with_reducible assumption
    | (intro _; intros)
    | (extract_lets +onlyGivenNames x; refine (fun (hx : Moves s₀ x) => ?_) ?_; clear_value x; rotate_left; subst x; rotate_right)
    | (extract_lets +onlyGivenNames x; refine (fun (hx : Moves s₀ x.1) => ?_) ?_; clear_value x; rotate_left; subst x; rotate_right)
    | (extract_lets +onlyGivenNames x; first | clear_value x | subst x)
    | with_reducible apply State.dmaHost_moves
    | with_reducible apply State.dmaUnack_moves
    | with_reducible apply State.fmPut_moves
    | with_reducible apply State.modDma_moves
    | split
    | (conv => arg 2; arg 73; skip
       with_reducible apply Moves.mk)

theorem State.owe__moves {s₀ : State} {s : State} {c : Nat} {counted : Bool} (hm : Moves s₀ s) :
    Moves s₀ (State.owe_ s c counted) := by
  unfold State.owe_
  repeat' first
    | with_reducible assumption
    | (intro _; intros)
    | (extract_lets +onlyGivenNames x; refine (fun (hx : Moves s₀ x) => ?_) ?_; clear_value x; rotate_left; subst x; rotate_right)
    | (extract_lets +onlyGivenNames x; refine (fun (hx : Moves s₀ x.1) => ?_) ?_; clear_value x; rotate_left; subst x; rotate_right)
    | (extract_lets +onlyGivenNames x; first | clear_value x | subst x)
    | with_reducible apply State.modDma_moves
    | split
    | (conv => arg 2; arg 73; skip
       with_reducible apply Moves.mk)

theorem State.dmaStream_moves {s₀ : State} {s : State} {c : Nat} (hm : Moves s₀ s) :
    Moves s₀ (State.dmaStream s c) := by
  unfold State.dmaStream
  repeat' first
    | with_reducible assumption
    | (extract_lets +onlyGivenNames x; refine (fun (hx : Moves s₀ x) => ?_) ?_; clear_value x; rotate_left; subst x; rotate_right)
    | (extract_lets +onlyGivenNames x; refine (fun (hx : Moves s₀ x.1) => ?_) ?_; clear_value x; rotate_left; subst x; rotate_right)
    | (extract_lets +onlyGivenNames x; first | clear_value x | subst x)
    | with_reducible apply State.drainStats_moves
    | with_reducible apply State.osRelease_moves
    | split

theorem State.dmaFault_moves {s₀ : State} {s : State} {c err : Nat} (hm : Moves s₀ s) :
    Moves s₀ (State.dmaFault s c err) := by
  unfold State.dmaFault
  repeat' first
    | with_reducible assumption
    | (intro _; intros)
    | (extract_lets +onlyGivenNames x; refine (fun (hx : Moves s₀ x) => ?_) ?_; clear_value x; rotate_left; subst x; rotate_right)
    | (extract_lets +onlyGivenNames x; refine (fun (hx : Moves s₀ x.1) => ?_) ?_; clear_value x; rotate_left; subst x; rotate_right)
    | (extract_lets +onlyGivenNames x; first | clear_value x | subst x)
    | with_reducible apply State.dmaStream_moves
    | with_reducible apply State.modDma_moves
    | with_reducible apply State.owe__moves
    | with_reducible apply State.setCh_moves
    | with_reducible apply State.setDma_moves
    | with_reducible apply State.writeCpl_moves
    | split
    | (conv => arg 2; arg 73; skip
       with_reducible apply Moves.mk)

theorem State.dmaHalted_moves {s₀ : State} {s : State} {c : Nat} (hm : Moves s₀ s) :
    Moves s₀ (State.dmaHalted s c) := by
  unfold State.dmaHalted
  repeat' first
    | with_reducible assumption
    | (intro _; intros)
    | (extract_lets +onlyGivenNames x; refine (fun (hx : Moves s₀ x) => ?_) ?_; clear_value x; rotate_left; subst x; rotate_right)
    | (extract_lets +onlyGivenNames x; refine (fun (hx : Moves s₀ x.1) => ?_) ?_; clear_value x; rotate_left; subst x; rotate_right)
    | (extract_lets +onlyGivenNames x; first | clear_value x | subst x)
    | with_reducible apply State.modDma_moves
    | with_reducible apply State.setCh_moves
    | with_reducible apply State.setDma_moves
    | with_reducible apply State.writeCpl_moves
    | split
    | (conv => arg 2; arg 73; skip
       with_reducible apply Moves.mk)

theorem State.dmaFetch_moves {s₀ : State} {s : State} {c pc : Nat} (hm : Moves s₀ s) :
    Moves s₀ (State.dmaFetch s c pc) := by
  unfold State.dmaFetch
  repeat' first
    | with_reducible assumption
    | (intro _; intros)
    | (extract_lets +onlyGivenNames x; refine (fun (hx : Moves s₀ x) => ?_) ?_; clear_value x; rotate_left; subst x; rotate_right)
    | (extract_lets +onlyGivenNames x; refine (fun (hx : Moves s₀ x.1) => ?_) ?_; clear_value x; rotate_left; subst x; rotate_right)
    | (extract_lets +onlyGivenNames x; first | clear_value x | subst x)
    | with_reducible apply State.dmaFault_moves
    | with_reducible apply State.modDma_moves
    | with_reducible apply State.setReg_moves
    | split
    | (conv => arg 2; arg 73; skip
       with_reducible apply Moves.mk)

theorem State.dmaReport_moves {s₀ : State} {s : State} {c : Nat} {p : Nat × Nat × Nat × Nat} (hm : Moves s₀ s) :
    Moves s₀ (State.dmaReport s c p) := by
  unfold State.dmaReport
  repeat' first
    | with_reducible assumption
    | with_reducible apply State.toPartner_moves
    | split

theorem State.dmaRetire_moves {s₀ : State} {s : State} {c : Nat} (hm : Moves s₀ s) :
    Moves s₀ (State.dmaRetire s c) := by
  unfold State.dmaRetire
  repeat' first
    | with_reducible assumption
    | (intro _; intros)
    | (extract_lets +onlyGivenNames x; refine (fun (hx : Moves s₀ x) => ?_) ?_; clear_value x; rotate_left; subst x; rotate_right)
    | (extract_lets +onlyGivenNames x; refine (fun (hx : Moves s₀ x.1) => ?_) ?_; clear_value x; rotate_left; subst x; rotate_right)
    | (extract_lets +onlyGivenNames x; first | clear_value x | subst x)
    | with_reducible apply State.dmaFetch_moves
    | with_reducible apply State.dmaHalted_moves
    | with_reducible apply State.dmaReport_moves
    | with_reducible apply State.modDma_moves
    | split
    | (conv => arg 2; arg 73; skip
       with_reducible apply Moves.mk)

theorem State.issueReads_moves {s₀ : State} {s : State} {c : Nat} (hm : Moves s₀ s) :
    Moves s₀ (State.issueReads s c) := by
  unfold State.issueReads
  repeat' first
    | with_reducible assumption
    | (intro _; intros)
    | with_reducible apply moves_foldl
    | with_reducible apply moves_foldl_fst
    | with_reducible apply State.emit_moves
    | with_reducible apply State.modDma_moves
    | split
    | dsimp only
    | (conv => arg 2; arg 73; skip
       with_reducible apply Moves.mk)

theorem State.installProg_moves {s₀ : State} {s : State} {c : Nat} {words : List Nat} (hm : Moves s₀ s) :
    Moves s₀ (State.installProg s c words) := by
  unfold State.installProg
  repeat' first
    | with_reducible assumption
    | (intro _; intros)
    | (extract_lets +onlyGivenNames x; refine (fun (hx : Moves s₀ x) => ?_) ?_; clear_value x; rotate_left; subst x; rotate_right)
    | (extract_lets +onlyGivenNames x; refine (fun (hx : Moves s₀ x.1) => ?_) ?_; clear_value x; rotate_left; subst x; rotate_right)
    | (extract_lets +onlyGivenNames x; first | clear_value x | subst x)
    | with_reducible apply State.dmaFetch_moves
    | with_reducible apply State.dmaHalted_moves
    | with_reducible apply State.modDma_moves
    | with_reducible apply State.toPartner_moves
    | split
    | (conv => arg 2; arg 73; skip
       with_reducible apply Moves.mk)

theorem State.dropPartial_moves {s₀ : State} {s : State} {c : Nat} (hm : Moves s₀ s) :
    Moves s₀ (State.dropPartial s c) := by
  unfold State.dropPartial
  repeat' first
    | with_reducible assumption
    | (intro _; intros)
    | (extract_lets +onlyGivenNames x; refine (fun (hx : Moves s₀ x) => ?_) ?_; clear_value x; rotate_left; subst x; rotate_right)
    | (extract_lets +onlyGivenNames x; refine (fun (hx : Moves s₀ x.1) => ?_) ?_; clear_value x; rotate_left; subst x; rotate_right)
    | (extract_lets +onlyGivenNames x; first | clear_value x | subst x)
    | with_reducible apply State.countN_moves
    | with_reducible apply State.modOs_moves
    | split
    | (conv => arg 2; arg 73; skip
       with_reducible apply Moves.mk)

theorem State.dmaStart_moves {s₀ : State} {s : State} {c : Nat} (hm : Moves s₀ s) :
    Moves s₀ (State.dmaStart s c) := by
  unfold State.dmaStart
  repeat' first
    | with_reducible assumption
    | (intro _; intros)
    | (extract_lets +onlyGivenNames x; refine (fun (hx : Moves s₀ x) => ?_) ?_; clear_value x; rotate_left; subst x; rotate_right)
    | (extract_lets +onlyGivenNames x; refine (fun (hx : Moves s₀ x.1) => ?_) ?_; clear_value x; rotate_left; subst x; rotate_right)
    | (extract_lets +onlyGivenNames x; first | clear_value x | subst x)
    | with_reducible apply State.dmaFault_moves
    | with_reducible apply State.dmaStream_moves
    | with_reducible apply State.dropPartial_moves
    | with_reducible apply State.follow_moves
    | with_reducible apply State.installProg_moves
    | with_reducible apply State.issueReads_moves
    | with_reducible apply State.modDma_moves
    | with_reducible apply State.setCh_moves
    | with_reducible apply State.setDma_moves
    | with_reducible apply State.setReg_moves
    | split
    | dsimp only
    | (conv => arg 2; arg 73; skip
       with_reducible apply Moves.mk)

theorem doProgramLoaded_moves {s₀ : State} {c : Nat} {s : State} (hm : Moves s₀ s) :
    Moves s₀ (doProgramLoaded c s) := by
  unfold doProgramLoaded
  repeat' first
    | with_reducible assumption
    | (intro _; intros)
    | (extract_lets +onlyGivenNames x; refine (fun (hx : Moves s₀ x) => ?_) ?_; clear_value x; rotate_left; subst x; rotate_right)
    | (extract_lets +onlyGivenNames x; refine (fun (hx : Moves s₀ x.1) => ?_) ?_; clear_value x; rotate_left; subst x; rotate_right)
    | (extract_lets +onlyGivenNames x; first | clear_value x | subst x)
    | with_reducible apply State.dmaFault_moves
    | with_reducible apply State.fmGet_moves
    | with_reducible apply State.installProg_moves
    | with_reducible apply State.issueReads_moves
    | split

@[simp] theorem execDmaProgramLoaded_moves {s₀ : State} {c : Nat} :
    Answered s₀ (execDmaProgramLoaded c s₀) := by
  have hm := Moves.refl s₀
  refine answered ?_
  repeat' first
    | with_reducible assumption
    | with_reducible apply doProgramLoaded_moves
    | split

theorem State.cmdIgnored_moves {s₀ : State} {s : State} {c : Nat} (hm : Moves s₀ s) :
    Moves s₀ (State.cmdIgnored s c) := by
  unfold State.cmdIgnored
  repeat' first
    | with_reducible assumption
    | with_reducible apply State.setCh_moves
    | split

theorem State.dmaHalt_moves {s₀ : State} {s : State} {c : Nat} (hm : Moves s₀ s) :
    Moves s₀ (State.dmaHalt s c) := by
  unfold State.dmaHalt
  repeat' first
    | with_reducible assumption
    | (intro _; intros)
    | (extract_lets +onlyGivenNames x; refine (fun (hx : Moves s₀ x) => ?_) ?_; clear_value x; rotate_left; subst x; rotate_right)
    | (extract_lets +onlyGivenNames x; refine (fun (hx : Moves s₀ x.1) => ?_) ?_; clear_value x; rotate_left; subst x; rotate_right)
    | (extract_lets +onlyGivenNames x; first | clear_value x | subst x)
    | with_reducible apply State.cmdIgnored_moves
    | with_reducible apply State.dmaHalted_moves
    | with_reducible apply State.modDma_moves
    | split
    | (conv => arg 2; arg 73; skip
       with_reducible apply Moves.mk)

theorem State.dmaResume_moves {s₀ : State} {s : State} {c : Nat} (hm : Moves s₀ s) :
    Moves s₀ (State.dmaResume s c) := by
  unfold State.dmaResume
  repeat' first
    | with_reducible assumption
    | (intro _; intros)
    | (extract_lets +onlyGivenNames x; refine (fun (hx : Moves s₀ x) => ?_) ?_; clear_value x; rotate_left; subst x; rotate_right)
    | (extract_lets +onlyGivenNames x; refine (fun (hx : Moves s₀ x.1) => ?_) ?_; clear_value x; rotate_left; subst x; rotate_right)
    | (extract_lets +onlyGivenNames x; first | clear_value x | subst x)
    | with_reducible apply State.cmdIgnored_moves
    | with_reducible apply State.dmaStream_moves
    | with_reducible apply State.issueReads_moves
    | with_reducible apply State.modDma_moves
    | with_reducible apply State.setDma_moves
    | split
    | (conv => arg 2; arg 73; skip
       with_reducible apply Moves.mk)

theorem State.dmaAbandon_moves {s₀ : State} {s : State} {c : Nat} {counted : Bool} (hm : Moves s₀ s) :
    Moves s₀ (State.dmaAbandon s c counted) := by
  unfold State.dmaAbandon
  repeat' first
    | with_reducible assumption
    | (intro _; intros)
    | with_reducible apply State.modDma_moves
    | with_reducible apply State.owe__moves
    | with_reducible apply State.setDma_moves
    | split

theorem State.dmaStop_moves {s₀ : State} {s : State} {c : Nat} (hm : Moves s₀ s) :
    Moves s₀ (State.dmaStop s c) := by
  unfold State.dmaStop
  repeat' first
    | with_reducible assumption
    | with_reducible apply State.dmaAbandon_moves
    | with_reducible apply State.dmaStream_moves
    | split

theorem State.dmaCtrl_moves {s₀ : State} {s : State} {c : Nat} {data : Word} (hm : Moves s₀ s) :
    Moves s₀ (State.dmaCtrl s c data) := by
  unfold State.dmaCtrl
  repeat' first
    | with_reducible assumption
    | (extract_lets +onlyGivenNames x; refine (fun (hx : Moves s₀ x) => ?_) ?_; clear_value x; rotate_left; subst x; rotate_right)
    | (extract_lets +onlyGivenNames x; refine (fun (hx : Moves s₀ x.1) => ?_) ?_; clear_value x; rotate_left; subst x; rotate_right)
    | (extract_lets +onlyGivenNames x; first | clear_value x | subst x)
    | with_reducible apply State.cmdIgnored_moves
    | with_reducible apply State.dmaHalt_moves
    | with_reducible apply State.dmaResume_moves
    | with_reducible apply State.dmaStart_moves
    | with_reducible apply State.dmaStop_moves
    | split

@[simp] theorem execDmaStart_moves {s₀ : State} {i : Initiator} {c : Nat} {data : Word} :
    Answered s₀ (execDmaStart i c data s₀) := by
  have hm := Moves.refl s₀
  refine answered ?_
  repeat' first
    | with_reducible assumption
    | (intro _; intros)
    | with_reducible apply State.dmaCtrl_moves
    | with_reducible apply State.swWrite_moves
    | split

@[simp] theorem execDmaHalt_moves {s₀ : State} {i : Initiator} {c : Nat} {data : Word} :
    Answered s₀ (execDmaHalt i c data s₀) := by
  have hm := Moves.refl s₀
  refine answered ?_
  repeat' first
    | with_reducible assumption
    | (intro _; intros)
    | with_reducible apply State.dmaCtrl_moves
    | with_reducible apply State.swWrite_moves
    | split

@[simp] theorem execDmaResume_moves {s₀ : State} {i : Initiator} {c : Nat} {data : Word} :
    Answered s₀ (execDmaResume i c data s₀) := by
  have hm := Moves.refl s₀
  refine answered ?_
  repeat' first
    | with_reducible assumption
    | (intro _; intros)
    | with_reducible apply State.dmaCtrl_moves
    | with_reducible apply State.swWrite_moves
    | split

@[simp] theorem execDmaStop_moves {s₀ : State} {i : Initiator} {c : Nat} {data : Word} :
    Answered s₀ (execDmaStop i c data s₀) := by
  have hm := Moves.refl s₀
  refine answered ?_
  repeat' first
    | with_reducible assumption
    | (intro _; intros)
    | with_reducible apply State.dmaCtrl_moves
    | with_reducible apply State.swWrite_moves
    | split

theorem State.semAdd_moves {s₀ : State} {s : State} {c n : Nat} (hm : Moves s₀ s) :
    Moves s₀ (State.semAdd s c n) := by
  unfold State.semAdd
  repeat' first
    | with_reducible assumption
    | with_reducible apply State.setReg_moves
    | split

theorem State.semSub_moves {s₀ : State} {s : State} {c n : Nat} (hm : Moves s₀ s) :
    Moves s₀ (State.semSub s c n) := by
  unfold State.semSub
  repeat' first
    | with_reducible assumption
    | with_reducible apply State.setReg_moves
    | split

@[simp] theorem execDmaSemAdd_moves {s₀ : State} {i : Initiator} {c : Nat} {data : Word} :
    Answered s₀ (execDmaSemAdd i c data s₀) := by
  have hm := Moves.refl s₀
  refine answered ?_
  repeat' first
    | with_reducible assumption
    | (intro _; intros)
    | with_reducible apply State.semAdd_moves
    | with_reducible apply State.swWrite_moves
    | split

theorem State.haltOwned_moves {s₀ : State} {s : State} {f : Nat} (hm : Moves s₀ s) :
    Moves s₀ (State.haltOwned s f) := by
  unfold State.haltOwned
  repeat' first
    | with_reducible assumption
    | (intro _; intros)
    | (extract_lets +onlyGivenNames x; refine (fun (hx : Moves s₀ x) => ?_) ?_; clear_value x; rotate_left; subst x; rotate_right)
    | (extract_lets +onlyGivenNames x; refine (fun (hx : Moves s₀ x.1) => ?_) ?_; clear_value x; rotate_left; subst x; rotate_right)
    | (extract_lets +onlyGivenNames x; first | clear_value x | subst x)
    | with_reducible apply moves_foldl
    | with_reducible apply moves_foldl_fst
    | with_reducible apply State.owe__moves
    | with_reducible apply State.setCh_moves
    | with_reducible apply State.setDma_moves
    | split

theorem State.bufCheck_moves {s₀ : State} {s : State} {c : Nat} {y0 : Ecc} (hm : Moves s₀ s) :
    Moves s₀ (State.bufCheck s c y0).1 := by
  unfold State.bufCheck
  repeat' first
    | with_reducible assumption
    | with_reducible apply State.count_moves
    | with_reducible apply State.countN_moves
    | with_reducible apply State.dmaFault_moves
    | with_reducible apply State.raiseCorrs_moves
    | with_reducible apply State.raiseError_moves
    | with_reducible apply State.setFld_moves
    | split
    | dsimp only

theorem State.mvWrite_moves {s₀ : State} {s : State} {c addr : Nat} {bytes : List Nat} (hm : Moves s₀ s) :
    Moves s₀ (State.mvWrite s c addr bytes) := by
  unfold State.mvWrite
  repeat' first
    | with_reducible assumption
    | with_reducible apply State.dmaHost_moves
    | with_reducible apply State.fmPut_moves
    | split

theorem State.gather_moves {s₀ : State} {c : Nat} {y0 : Nat} {y1 : State} {y2 : Nat} {y3 : Nat} {y4 : List Nat} (hm : Moves s₀ y1) :
    Moves s₀ (State.gather c y0 y1 y2 y3 y4).1 := by
  induction y0 generalizing y1 y2 y3 y4 with
  | zero =>
    unfold State.gather
    repeat' first
      | with_reducible assumption
      | (extract_lets +onlyGivenNames x; refine (fun (hx : Moves s₀ x) => ?_) ?_; clear_value x; rotate_left; subst x; rotate_right)
      | (extract_lets +onlyGivenNames x; refine (fun (hx : Moves s₀ x.1) => ?_) ?_; clear_value x; rotate_left; subst x; rotate_right)
      | (extract_lets +onlyGivenNames x; first | clear_value x | subst x)
      | with_reducible apply State.fmGet_moves
      | split
      | dsimp only
  | succ n ih =>
    unfold State.gather
    repeat' first
      | with_reducible assumption
      | (extract_lets +onlyGivenNames x; refine (fun (hx : Moves s₀ x) => ?_) ?_; clear_value x; rotate_left; subst x; rotate_right)
      | (extract_lets +onlyGivenNames x; refine (fun (hx : Moves s₀ x.1) => ?_) ?_; clear_value x; rotate_left; subst x; rotate_right)
      | (extract_lets +onlyGivenNames x; first | clear_value x | subst x)
      | with_reducible apply ih
      | with_reducible apply State.fmGet_moves
      | split
      | dsimp only

theorem State.moveBytes_moves {s₀ : State} {s : State} {c : Nat} (hm : Moves s₀ s) :
    Moves s₀ (State.moveBytes s c) := by
  unfold State.moveBytes
  repeat' first
    | with_reducible assumption
    | (intro _; intros)
    | (rename _ = ((_ : State), _) => heq; have hk := congrArg Prod.fst heq; dsimp only at hk; subst hk; clear heq)
    | (extract_lets +onlyGivenNames x; refine (fun (hx : Moves s₀ x) => ?_) ?_; clear_value x; rotate_left; subst x; rotate_right)
    | (extract_lets +onlyGivenNames x; refine (fun (hx : Moves s₀ x.1) => ?_) ?_; clear_value x; rotate_left; subst x; rotate_right)
    | (extract_lets +onlyGivenNames x; first | clear_value x | subst x)
    | with_reducible apply State.gather_moves
    | with_reducible apply State.dmaFault_moves
    | with_reducible apply State.dmaHalted_moves
    | with_reducible apply State.dmaRetire_moves
    | with_reducible apply State.issueReads_moves
    | with_reducible apply State.modDma_moves
    | with_reducible apply State.mvWrite_moves
    | split
    | dsimp only
    | (conv => arg 2; arg 73; skip
       with_reducible apply Moves.mk)

theorem State.drainReads_moves {s₀ : State} {c : Nat} {y0 : Nat} {y1 : State} (hm : Moves s₀ y1) :
    Moves s₀ (State.drainReads c y0 y1) := by
  induction y0 generalizing y1 with
  | zero =>
    unfold State.drainReads
    repeat' first
      | with_reducible assumption
      | (intro _; intros)
      | (extract_lets +onlyGivenNames x; refine (fun (hx : Moves s₀ x) => ?_) ?_; clear_value x; rotate_left; subst x; rotate_right)
      | (extract_lets +onlyGivenNames x; refine (fun (hx : Moves s₀ x.1) => ?_) ?_; clear_value x; rotate_left; subst x; rotate_right)
      | (extract_lets +onlyGivenNames x; first | clear_value x | subst x)
      | with_reducible apply State.dmaHalted_moves
      | with_reducible apply State.dmaRetire_moves
      | with_reducible apply State.modDma_moves
      | with_reducible apply State.mvWrite_moves
      | split
      | dsimp only
      | (conv => arg 2; arg 73; skip
         with_reducible apply Moves.mk)
  | succ n ih =>
    unfold State.drainReads
    repeat' first
      | with_reducible assumption
      | (intro _; intros)
      | (extract_lets +onlyGivenNames x; refine (fun (hx : Moves s₀ x) => ?_) ?_; clear_value x; rotate_left; subst x; rotate_right)
      | (extract_lets +onlyGivenNames x; refine (fun (hx : Moves s₀ x.1) => ?_) ?_; clear_value x; rotate_left; subst x; rotate_right)
      | (extract_lets +onlyGivenNames x; first | clear_value x | subst x)
      | with_reducible apply ih
      | with_reducible apply State.dmaHalted_moves
      | with_reducible apply State.dmaRetire_moves
      | with_reducible apply State.modDma_moves
      | with_reducible apply State.mvWrite_moves
      | split
      | dsimp only
      | (conv => arg 2; arg 73; skip
         with_reducible apply Moves.mk)

theorem State.dmaData_moves {s₀ : State} {s : State} {c tag : Nat} {data : List Nat} (hm : Moves s₀ s) :
    Moves s₀ (State.dmaData s c tag data) := by
  unfold State.dmaData
  repeat' first
    | with_reducible assumption
    | (intro _; intros)
    | (extract_lets +onlyGivenNames x; refine (fun (hx : Moves s₀ x) => ?_) ?_; clear_value x; rotate_left; subst x; rotate_right)
    | (extract_lets +onlyGivenNames x; refine (fun (hx : Moves s₀ x.1) => ?_) ?_; clear_value x; rotate_left; subst x; rotate_right)
    | (extract_lets +onlyGivenNames x; first | clear_value x | subst x)
    | with_reducible apply State.drainReads_moves
    | with_reducible apply State.modDma_moves
    | split
    | (conv => arg 2; arg 73; skip
       with_reducible apply Moves.mk)

theorem State.dmaBlocked_moves {s₀ : State} {s : State} {c : Nat} (hm : Moves s₀ s) :
    Moves s₀ (State.dmaBlocked s c) := by
  unfold State.dmaBlocked
  repeat' first
    | with_reducible assumption
    | with_reducible apply State.setDma_moves
    | split

/-- One item moved is moves. -/
theorem State.moveOne_moves {s₀ s t : State} {c : Nat} (hm : Moves s₀ s) (e : s.moveOne c = .ok t) : Moves s₀ t := by
  unfold State.moveOne at e
  split at e
  · cases e
  · dsimp only at e
    repeat' split at e
    all_goals cases e
    all_goals repeat' first
      | with_reducible assumption
      | with_reducible apply State.osRelease_moves
      | with_reducible apply State.dmaUnack_moves
      | with_reducible apply State.modDma_moves
      | with_reducible apply State.count_moves
      | with_reducible apply State.setReg_moves
      | with_reducible apply State.modOs_moves
      | with_reducible apply State.mvWrite_moves
      | with_reducible apply State.semSub_moves
      | split

theorem State.moveItem_moves {s₀ s : State} {c : Nat} (hm : Moves s₀ s) : Moves s₀ (s.moveItem c) := by
  unfold State.moveItem
  split
  · exact State.dmaFault_moves hm
  · split
    · exact State.dmaBlocked_moves hm
    · exact State.dmaFault_moves hm
    · exact State.dmaRetire_moves (State.setDma_moves (State.moveOne_moves hm (by assumption)))

theorem State.moveDoc_moves {s₀ s : State} {c : Nat} (hm : Moves s₀ s) : Moves s₀ (s.moveDoc c) := by
  unfold State.moveDoc
  split
  · exact State.dmaFault_moves hm
  · split
    · exact State.dmaBlocked_moves hm
    · rename_i doc _
      dsimp only
      have h2 := State.modDma_moves (c := c) (f := fun d => { d with doc := some doc }) hm
      split
      · split
        · exact State.dmaBlocked_moves h2
        · exact State.dmaFault_moves h2
        · exact State.setDma_moves (State.moveOne_moves h2 (by assumption))
      · split
        · exact State.dmaRetire_moves (State.setDma_moves h2)
        · exact State.dmaBlocked_moves h2

theorem State.doLoop_moves {s₀ : State} {s : State} {c : Nat} (hm : Moves s₀ s) :
    Moves s₀ (State.doLoop s c) := by
  unfold State.doLoop
  repeat' first
    | with_reducible assumption
    | (intro _; intros)
    | (extract_lets +onlyGivenNames x; refine (fun (hx : Moves s₀ x) => ?_) ?_; clear_value x; rotate_left; subst x; rotate_right)
    | (extract_lets +onlyGivenNames x; refine (fun (hx : Moves s₀ x.1) => ?_) ?_; clear_value x; rotate_left; subst x; rotate_right)
    | (extract_lets +onlyGivenNames x; first | clear_value x | subst x)
    | with_reducible apply State.dmaFault_moves
    | with_reducible apply State.dmaFetch_moves
    | with_reducible apply State.modDma_moves
    | split
    | dsimp only
    | (conv => arg 2; arg 73; skip
       with_reducible apply Moves.mk)

theorem State.waitDone_moves {s₀ : State} {s : State} {c : Nat} (hm : Moves s₀ s) :
    Moves s₀ (State.waitDone s c) := by
  unfold State.waitDone
  repeat' first
    | with_reducible assumption
    | (extract_lets +onlyGivenNames x; refine (fun (hx : Moves s₀ x) => ?_) ?_; clear_value x; rotate_left; subst x; rotate_right)
    | (extract_lets +onlyGivenNames x; refine (fun (hx : Moves s₀ x.1) => ?_) ?_; clear_value x; rotate_left; subst x; rotate_right)
    | (extract_lets +onlyGivenNames x; first | clear_value x | subst x)
    | with_reducible apply State.dmaRetire_moves
    | with_reducible apply State.semSub_moves
    | with_reducible apply State.setDma_moves
    | split

theorem State.doWait_moves {s₀ : State} {s : State} {c : Nat} (hm : Moves s₀ s) :
    Moves s₀ (State.doWait s c) := by
  unfold State.doWait
  repeat' first
    | with_reducible assumption
    | (intro _; intros)
    | (extract_lets +onlyGivenNames x; refine (fun (hx : Moves s₀ x) => ?_) ?_; clear_value x; rotate_left; subst x; rotate_right)
    | (extract_lets +onlyGivenNames x; refine (fun (hx : Moves s₀ x.1) => ?_) ?_; clear_value x; rotate_left; subst x; rotate_right)
    | (extract_lets +onlyGivenNames x; first | clear_value x | subst x)
    | with_reducible apply State.dmaFault_moves
    | with_reducible apply State.modDma_moves
    | with_reducible apply State.setDma_moves
    | with_reducible apply State.waitDone_moves
    | split
    | (conv => arg 2; arg 73; skip
       with_reducible apply Moves.mk)

theorem State.waitTimeout_moves {s₀ : State} {s : State} {c : Nat} (hm : Moves s₀ s) :
    Moves s₀ (State.waitTimeout s c) := by
  unfold State.waitTimeout
  repeat' first
    | with_reducible assumption
    | (intro _; intros)
    | with_reducible apply State.dmaHalted_moves
    | with_reducible apply State.dmaRetire_moves
    | with_reducible apply State.modDma_moves
    | with_reducible apply State.setCh_moves
    | with_reducible apply State.setDma_moves
    | split
    | dsimp only
    | (conv => arg 2; arg 73; skip
       with_reducible apply Moves.mk)

theorem State.doSignal_moves {s₀ : State} {s : State} {c : Nat} (hm : Moves s₀ s) :
    Moves s₀ (State.doSignal s c) := by
  unfold State.doSignal
  repeat' first
    | with_reducible assumption
    | (extract_lets +onlyGivenNames x; refine (fun (hx : Moves s₀ x) => ?_) ?_; clear_value x; rotate_left; subst x; rotate_right)
    | (extract_lets +onlyGivenNames x; refine (fun (hx : Moves s₀ x.1) => ?_) ?_; clear_value x; rotate_left; subst x; rotate_right)
    | (extract_lets +onlyGivenNames x; first | clear_value x | subst x)
    | with_reducible apply State.dmaFault_moves
    | with_reducible apply State.dmaHost_moves
    | with_reducible apply State.dmaRetire_moves
    | with_reducible apply State.dmaUnack_moves
    | with_reducible apply State.fmPut_moves
    | with_reducible apply State.semAdd_moves
    | with_reducible apply State.setCh_moves
    | split

theorem State.doEnd_moves {s₀ : State} {s : State} {c : Nat} (hm : Moves s₀ s) :
    Moves s₀ (State.doEnd s c) := by
  unfold State.doEnd
  repeat' first
    | with_reducible assumption
    | (intro _; intros)
    | (extract_lets +onlyGivenNames x; refine (fun (hx : Moves s₀ x) => ?_) ?_; clear_value x; rotate_left; subst x; rotate_right)
    | (extract_lets +onlyGivenNames x; refine (fun (hx : Moves s₀ x.1) => ?_) ?_; clear_value x; rotate_left; subst x; rotate_right)
    | (extract_lets +onlyGivenNames x; first | clear_value x | subst x)
    | with_reducible apply State.dmaStream_moves
    | with_reducible apply State.modDma_moves
    | with_reducible apply State.setCh_moves
    | with_reducible apply State.setDma_moves
    | with_reducible apply State.writeCpl_moves
    | split
    | (conv => arg 2; arg 73; skip
       with_reducible apply Moves.mk)

theorem State.followOne_moves {s₀ : State} {s : State} {c : Nat} (hm : Moves s₀ s) :
    Moves s₀ (State.followOne s c) := by
  unfold State.followOne
  repeat' first
    | with_reducible assumption
    | (intro _; intros)
    | with_reducible apply State.doEnd_moves
    | with_reducible apply State.doLoop_moves
    | with_reducible apply State.doSignal_moves
    | with_reducible apply State.modDma_moves
    | with_reducible apply State.moveBytes_moves
    | with_reducible apply State.moveDoc_moves
    | with_reducible apply State.moveItem_moves
    | with_reducible apply State.waitDone_moves
    | split
    | dsimp only
    | (conv => arg 2; arg 73; skip
       with_reducible apply Moves.mk)

theorem State.dmaPhantom_moves {s₀ : State} {s : State} {c i : Nat} (hm : Moves s₀ s) :
    Moves s₀ (State.dmaPhantom s c i) := by
  unfold State.dmaPhantom
  repeat' first
    | with_reducible assumption
    | (intro _; intros)
    | (extract_lets +onlyGivenNames x; refine (fun (hx : Moves s₀ x) => ?_) ?_; clear_value x; rotate_left; subst x; rotate_right)
    | (extract_lets +onlyGivenNames x; refine (fun (hx : Moves s₀ x.1) => ?_) ?_; clear_value x; rotate_left; subst x; rotate_right)
    | (extract_lets +onlyGivenNames x; first | clear_value x | subst x)
    | with_reducible apply State.count_moves
    | with_reducible apply State.dmaRetire_moves
    | with_reducible apply State.modDma_moves
    | with_reducible apply State.semSub_moves
    | with_reducible apply State.setDma_moves
    | with_reducible apply State.setReg_moves
    | split
    | (conv => arg 2; arg 73; skip
       with_reducible apply Moves.mk)

theorem State.unreported_moves {s₀ : State} {s : State} {c : Nat} (hm : Moves s₀ s) :
    Moves s₀ (State.unreported s c) := by
  unfold State.unreported
  repeat' first
    | with_reducible assumption
    | with_reducible apply State.dmaFault_moves
    | with_reducible apply State.doEnd_moves
    | with_reducible apply State.doLoop_moves
    | split
    | dsimp only
    | (conv => arg 2; arg 73; skip
       with_reducible apply Moves.mk)

theorem State.followRun_moves {s₀ : State} {c : Nat} {y0 : Nat} {y1 : State} (hm : Moves s₀ y1) :
    Moves s₀ (State.followRun c y0 y1) := by
  induction y0 generalizing y1 with
  | zero =>
    unfold State.followRun
    repeat' first
      | with_reducible assumption
      | (extract_lets +onlyGivenNames x; refine (fun (hx : Moves s₀ x) => ?_) ?_; clear_value x; rotate_left; subst x; rotate_right)
      | (extract_lets +onlyGivenNames x; refine (fun (hx : Moves s₀ x.1) => ?_) ?_; clear_value x; rotate_left; subst x; rotate_right)
      | (extract_lets +onlyGivenNames x; first | clear_value x | subst x)
      | with_reducible apply State.dmaPhantom_moves
      | with_reducible apply State.follow_moves
      | with_reducible apply State.followOne_moves
      | with_reducible apply State.setDma_moves
      | with_reducible apply State.unreported_moves
      | split
      | dsimp only
      | (conv => arg 2; arg 73; skip
         with_reducible apply Moves.mk)
  | succ n ih =>
    unfold State.followRun
    repeat' first
      | with_reducible assumption
      | (extract_lets +onlyGivenNames x; refine (fun (hx : Moves s₀ x) => ?_) ?_; clear_value x; rotate_left; subst x; rotate_right)
      | (extract_lets +onlyGivenNames x; refine (fun (hx : Moves s₀ x.1) => ?_) ?_; clear_value x; rotate_left; subst x; rotate_right)
      | (extract_lets +onlyGivenNames x; first | clear_value x | subst x)
      | with_reducible apply ih
      | with_reducible apply State.dmaPhantom_moves
      | with_reducible apply State.follow_moves
      | with_reducible apply State.followOne_moves
      | with_reducible apply State.setDma_moves
      | with_reducible apply State.unreported_moves
      | split
      | dsimp only
      | (conv => arg 2; arg 73; skip
         with_reducible apply Moves.mk)

theorem State.dmaFollow_moves {s₀ : State} {s : State} {c : Nat} (hm : Moves s₀ s) :
    Moves s₀ (State.dmaFollow s c) := by
  unfold State.dmaFollow
  repeat' first
    | with_reducible assumption
    | (intro _; intros)
    | (extract_lets +onlyGivenNames x; refine (fun (hx : Moves s₀ x) => ?_) ?_; clear_value x; rotate_left; subst x; rotate_right)
    | (extract_lets +onlyGivenNames x; refine (fun (hx : Moves s₀ x.1) => ?_) ?_; clear_value x; rotate_left; subst x; rotate_right)
    | (extract_lets +onlyGivenNames x; first | clear_value x | subst x)
    | with_reducible apply State.followRun_moves
    | with_reducible apply State.follow_moves
    | with_reducible apply State.modDma_moves
    | with_reducible apply State.modOs_moves
    | split
    | dsimp only
    | (conv => arg 2; arg 73; skip
       with_reducible apply Moves.mk)

theorem doTwinDma_moves {s₀ : State} {s : State} (hm : Moves s₀ s) :
    Moves s₀ (doTwinDma s) := by
  unfold doTwinDma
  repeat' first
    | with_reducible assumption
    | (intro _; intros)
    | (rename _ = ((_ : State), _) => heq; have hk := congrArg Prod.fst heq; dsimp only at hk; subst hk; clear heq)
    | (extract_lets +onlyGivenNames x; refine (fun (hx : Moves s₀ x) => ?_) ?_; clear_value x; rotate_left; subst x; rotate_right)
    | (extract_lets +onlyGivenNames x; refine (fun (hx : Moves s₀ x.1) => ?_) ?_; clear_value x; rotate_left; subst x; rotate_right)
    | (extract_lets +onlyGivenNames x; first | clear_value x | subst x)
    | with_reducible apply State.dmaFollow_moves
    | with_reducible apply State.follow_moves
    | with_reducible apply State.installProg_moves
    | with_reducible apply State.modDma_moves
    | with_reducible apply State.takeItem_moves
    | split
    | dsimp only
    | (conv => arg 2; arg 73; skip
       with_reducible apply Moves.mk)

@[simp] theorem execTwinDmaReceive_moves {s₀ : State}  :
    Answered s₀ (execTwinDmaReceive s₀) := by
  have hm := Moves.refl s₀
  refine answered ?_
  repeat' first
    | with_reducible assumption
    | with_reducible apply doTwinDma_moves
    | split

theorem doDllAck_moves {s₀ : State} {c : Nat} {s : State} (hm : Moves s₀ s) :
    Moves s₀ (doDllAck c s) := by
  unfold doDllAck
  repeat' first
    | with_reducible assumption
    | (intro _; intros)
    | with_reducible apply State.dmaReport_moves
    | with_reducible apply State.modDma_moves
    | split
    | dsimp only
    | (conv => arg 2; arg 73; skip
       with_reducible apply Moves.mk)

@[simp] theorem execPcieDllAck_moves {s₀ : State} {c : Nat} :
    Answered s₀ (execPcieDllAck c s₀) := by
  have hm := Moves.refl s₀
  refine answered ?_
  repeat' first
    | with_reducible assumption
    | with_reducible apply doDllAck_moves
    | split

theorem State.dmaRun_moves {s₀ : State} {s : State} {c op : Nat} {wait : Bool} {f : State → State} (h_f : ∀ x0, Moves s₀ x0 → Moves s₀ (f x0)) (hm : Moves s₀ s) :
    Moves s₀ (State.dmaRun s c op wait f) := by
  unfold State.dmaRun
  repeat' first
    | with_reducible assumption
    | (intro _; intros)
    | (extract_lets +onlyGivenNames x; refine (fun (hx : Moves s₀ x) => ?_) ?_; clear_value x; rotate_left; subst x; rotate_right)
    | (extract_lets +onlyGivenNames x; refine (fun (hx : Moves s₀ x.1) => ?_) ?_; clear_value x; rotate_left; subst x; rotate_right)
    | (extract_lets +onlyGivenNames x; first | clear_value x | subst x)
    | with_reducible apply h_f
    | with_reducible apply State.dmaFollow_moves
    | split

theorem State.moveChecked_moves {s₀ : State} {s : State} {c mode : Nat} {buf : Ecc} {f : State → State} (h_f : ∀ x0, Moves s₀ x0 → Moves s₀ (f x0)) (hm : Moves s₀ s) :
    Moves s₀ (State.moveChecked s c mode buf f) := by
  unfold State.moveChecked
  repeat' first
    | with_reducible assumption
    | (intro _; intros)
    | (extract_lets +onlyGivenNames x; refine (fun (hx : Moves s₀ x) => ?_) ?_; clear_value x; rotate_left; subst x; rotate_right)
    | (extract_lets +onlyGivenNames x; refine (fun (hx : Moves s₀ x.1) => ?_) ?_; clear_value x; rotate_left; subst x; rotate_right)
    | (extract_lets +onlyGivenNames x; first | clear_value x | subst x)
    | with_reducible apply h_f
    | with_reducible apply State.bufCheck_moves
    | with_reducible apply State.dmaRun_moves
    | split

@[simp] theorem execDmaMoveBytes_moves {s₀ : State} {c : Nat} {buf : Ecc} :
    Answered s₀ (execDmaMoveBytes c buf s₀) := by
  have hm := Moves.refl s₀
  refine answered ?_
  repeat' first
    | with_reducible assumption
    | (intro _; intros)
    | with_reducible apply State.moveBytes_moves
    | with_reducible apply State.moveChecked_moves
    | split

@[simp] theorem execDmaMoveItem_moves {s₀ : State} {c : Nat} {buf : Ecc} :
    Answered s₀ (execDmaMoveItem c buf s₀) := by
  have hm := Moves.refl s₀
  refine answered ?_
  repeat' first
    | with_reducible assumption
    | (intro _; intros)
    | with_reducible apply State.moveChecked_moves
    | with_reducible apply State.moveItem_moves
    | split

@[simp] theorem execDmaMoveDoc_moves {s₀ : State} {c : Nat} {buf : Ecc} :
    Answered s₀ (execDmaMoveDoc c buf s₀) := by
  have hm := Moves.refl s₀
  refine answered ?_
  repeat' first
    | with_reducible assumption
    | (intro _; intros)
    | with_reducible apply State.moveChecked_moves
    | with_reducible apply State.moveDoc_moves
    | split

@[simp] theorem execDmaLoop_moves {s₀ : State} {c : Nat} :
    Answered s₀ (execDmaLoop c s₀) := by
  have hm := Moves.refl s₀
  refine answered ?_
  repeat' first
    | with_reducible assumption
    | (intro _; intros)
    | with_reducible apply State.dmaRun_moves
    | with_reducible apply State.doLoop_moves
    | split

@[simp] theorem execDmaWait_moves {s₀ : State} {c : Nat} :
    Answered s₀ (execDmaWait c s₀) := by
  have hm := Moves.refl s₀
  refine answered ?_
  repeat' first
    | with_reducible assumption
    | (intro _; intros)
    | with_reducible apply State.dmaRun_moves
    | with_reducible apply State.doWait_moves
    | split

@[simp] theorem execDmaWaitMet_moves {s₀ : State} {c : Nat} :
    Answered s₀ (execDmaWaitMet c s₀) := by
  have hm := Moves.refl s₀
  refine answered ?_
  repeat' first
    | with_reducible assumption
    | (intro _; intros)
    | with_reducible apply State.dmaRun_moves
    | with_reducible apply State.waitDone_moves
    | split

@[simp] theorem execDmaWaitTimeout_moves {s₀ : State} {c : Nat} :
    Answered s₀ (execDmaWaitTimeout c s₀) := by
  have hm := Moves.refl s₀
  refine answered ?_
  repeat' first
    | with_reducible assumption
    | (intro _; intros)
    | with_reducible apply State.dmaRun_moves
    | with_reducible apply State.waitTimeout_moves
    | split

@[simp] theorem execDmaSignal_moves {s₀ : State} {c : Nat} :
    Answered s₀ (execDmaSignal c s₀) := by
  have hm := Moves.refl s₀
  refine answered ?_
  repeat' first
    | with_reducible assumption
    | (intro _; intros)
    | with_reducible apply State.dmaRun_moves
    | with_reducible apply State.doSignal_moves
    | split

@[simp] theorem execDmaEnd_moves {s₀ : State} {c : Nat} :
    Answered s₀ (execDmaEnd c s₀) := by
  have hm := Moves.refl s₀
  refine answered ?_
  repeat' first
    | with_reducible assumption
    | (intro _; intros)
    | with_reducible apply State.dmaRun_moves
    | with_reducible apply State.doEnd_moves
    | split

theorem State.reissueCpl_moves {s₀ : State} {s : State} {c : Nat} (hm : Moves s₀ s) :
    Moves s₀ (State.reissueCpl s c) := by
  unfold State.reissueCpl
  repeat' first
    | with_reducible assumption
    | (intro _; intros)
    | with_reducible apply State.dmaHost_moves
    | with_reducible apply State.dmaUnack_moves
    | with_reducible apply State.entered_moves
    | with_reducible apply State.modDma_moves
    | split
    | dsimp only
    | (conv => arg 2; arg 73; skip
       with_reducible apply Moves.mk)

theorem State.dmaTakeover_moves {s₀ : State} {s : State} (hm : Moves s₀ s) :
    Moves s₀ (State.dmaTakeover s) := by
  unfold State.dmaTakeover
  repeat' first
    | with_reducible assumption
    | (intro _; intros)
    | (extract_lets +onlyGivenNames x; refine (fun (hx : Moves s₀ x) => ?_) ?_; clear_value x; rotate_left; subst x; rotate_right)
    | (extract_lets +onlyGivenNames x; refine (fun (hx : Moves s₀ x.1) => ?_) ?_; clear_value x; rotate_left; subst x; rotate_right)
    | (extract_lets +onlyGivenNames x; first | clear_value x | subst x)
    | with_reducible apply moves_foldl
    | with_reducible apply moves_foldl_fst
    | with_reducible apply State.follow_moves
    | with_reducible apply State.modDma_moves
    | with_reducible apply State.modOs_moves
    | with_reducible apply State.reissueCpl_moves
    | with_reducible apply State.setCh_moves
    | with_reducible apply State.setDma_moves
    | split
    | dsimp only
    | (conv => arg 2; arg 73; skip
       with_reducible apply Moves.mk)

end Sys2Proof.Machine
end

