-- ==== Sys2Proof/Laws/MovesPcie.lean ====
section
/-! SUPPORT. What the operations of Machine/Pcie.lean can do to the memories, the register file, the key slots and the queue: moves, and nothing
else. -/

namespace Sys2Proof.Machine

theorem doBar2Read_moves {s₀ : State} {a n : Nat} {s : State} (hm : Moves s₀ s) :
    Moves s₀ (doBar2Read a n s) := by
  unfold doBar2Read
  repeat' first
    | with_reducible assumption
    | (extract_lets +onlyGivenNames x; refine (fun (hx : Moves s₀ x) => ?_) ?_; clear_value x; rotate_left; subst x; rotate_right)
    | (extract_lets +onlyGivenNames x; refine (fun (hx : Moves s₀ x.1) => ?_) ?_; clear_value x; rotate_left; subst x; rotate_right)
    | (extract_lets +onlyGivenNames x; first | clear_value x | subst x)
    | with_reducible apply State.emit_moves
    | with_reducible apply State.fmShow_moves
    | with_reducible apply State.refuse_moves
    | with_reducible apply State.unsupported_moves
    | split

@[simp] theorem execBar2Read_moves {s₀ : State} {a n : Nat} :
    Answered s₀ (execBar2Read a n s₀) := by
  have hm := Moves.refl s₀
  refine answered ?_
  repeat' first
    | with_reducible assumption
    | with_reducible apply doBar2Read_moves
    | split

theorem doBar2Write_moves {s₀ : State} {a : Nat} {bytes : List Byte} {poisoned : Bool} {s : State} (hm : Moves s₀ s) :
    Moves s₀ (doBar2Write a bytes poisoned s) := by
  unfold doBar2Write
  repeat' first
    | with_reducible assumption
    | with_reducible apply State.aerUncorr_moves
    | with_reducible apply State.fmPlace_moves
    | with_reducible apply State.refuse_moves
    | split

@[simp] theorem execBar2Write_moves {s₀ : State} {a : Nat} {bytes : List Byte} {poisoned : Bool} :
    Answered s₀ (execBar2Write a bytes poisoned s₀) := by
  have hm := Moves.refl s₀
  refine answered ?_
  repeat' first
    | with_reducible assumption
    | with_reducible apply doBar2Write_moves
    | split

theorem State.setMsix_moves {s₀ : State} {s : State} {f k : Nat} {data : Word} (hm : Moves s₀ s) :
    Moves s₀ (State.setMsix s f k data) := by
  unfold State.setMsix
  repeat' first
    | with_reducible assumption
    | (extract_lets +onlyGivenNames x; refine (fun (hx : Moves s₀ x) => ?_) ?_; clear_value x; rotate_left; subst x; rotate_right)
    | (extract_lets +onlyGivenNames x; refine (fun (hx : Moves s₀ x.1) => ?_) ?_; clear_value x; rotate_left; subst x; rotate_right)
    | (extract_lets +onlyGivenNames x; first | clear_value x | subst x)
    | split
    | (conv => arg 2; arg 73; skip
       with_reducible apply Moves.mk)

theorem State.setPba_moves {s₀ : State} {s : State} {f v : Nat} {b : Bool} (hm : Moves s₀ s) :
    Moves s₀ (State.setPba s f v b) := by
  unfold State.setPba
  repeat' first
    | with_reducible assumption
    | split
    | (conv => arg 2; arg 73; skip
       with_reducible apply Moves.mk)

theorem doMsixSend_moves {s₀ : State} {f v : Nat} {s : State} (hm : Moves s₀ s) :
    Moves s₀ (doMsixSend f v s) := by
  unfold doMsixSend
  repeat' first
    | with_reducible assumption
    | (intro _; intros)
    | (extract_lets +onlyGivenNames x; refine (fun (hx : Moves s₀ x) => ?_) ?_; clear_value x; rotate_left; subst x; rotate_right)
    | (extract_lets +onlyGivenNames x; refine (fun (hx : Moves s₀ x.1) => ?_) ?_; clear_value x; rotate_left; subst x; rotate_right)
    | (extract_lets +onlyGivenNames x; first | clear_value x | subst x)
    | with_reducible apply State.emit_moves
    | with_reducible apply State.setPba_moves
    | split
    | (conv => arg 2; arg 73; skip
       with_reducible apply Moves.mk)

@[simp] theorem execMsixSend_moves {s₀ : State} {f v : Nat} :
    Answered s₀ (execMsixSend f v s₀) := by
  have hm := Moves.refl s₀
  refine answered ?_
  repeat' first
    | with_reducible assumption
    | with_reducible apply doMsixSend_moves
    | split

theorem State.unexpected_moves {s₀ : State} {s : State} {f : Nat} (hm : Moves s₀ s) :
    Moves s₀ (State.unexpected s f) := by
  unfold State.unexpected
  repeat' first
    | with_reducible assumption
    | with_reducible apply State.aerCorr_moves
    | with_reducible apply State.aerUncorr_moves
    | split

theorem State.readFails_moves {s₀ : State} {s : State} {c t : Nat} (hm : Moves s₀ s) :
    Moves s₀ (State.readFails s c t) := by
  unfold State.readFails
  repeat' first
    | with_reducible assumption
    | (intro _; intros)
    | with_reducible apply State.dmaFault_moves
    | with_reducible apply State.modDma_moves
    | split
    | (conv => arg 2; arg 73; skip
       with_reducible apply Moves.mk)

theorem State.pcieBuf_moves {s₀ : State} {s : State} {f : Nat} {y0 : Ecc} (hm : Moves s₀ s) :
    Moves s₀ (State.pcieBuf s f y0) := by
  unfold State.pcieBuf
  repeat' first
    | with_reducible assumption
    | with_reducible apply State.aerCorr_moves
    | with_reducible apply State.aerUncorr_moves
    | with_reducible apply State.raiseCorrs_moves
    | with_reducible apply State.raiseError_moves
    | with_reducible apply State.setFld_moves
    | split

theorem doCompletion_moves {s₀ : State} {f t status : Nat} {ep : Bool} {data : List Nat} {buf : Ecc} {s : State} (hm : Moves s₀ s) :
    Moves s₀ (doCompletion f t status ep data buf s) := by
  unfold doCompletion
  repeat' first
    | with_reducible assumption
    | (intro _; intros)
    | (extract_lets +onlyGivenNames x; refine (fun (hx : Moves s₀ x) => ?_) ?_; clear_value x; rotate_left; subst x; rotate_right)
    | (extract_lets +onlyGivenNames x; refine (fun (hx : Moves s₀ x.1) => ?_) ?_; clear_value x; rotate_left; subst x; rotate_right)
    | (extract_lets +onlyGivenNames x; first | clear_value x | subst x)
    | with_reducible apply State.aerUncorr_moves
    | with_reducible apply State.count_moves
    | with_reducible apply State.dmaData_moves
    | with_reducible apply State.pcieBuf_moves
    | with_reducible apply State.readFails_moves
    | with_reducible apply State.unexpected_moves
    | split
    | dsimp only
    | (conv => arg 2; arg 73; skip
       with_reducible apply Moves.mk)

@[simp] theorem execPcieCompletion_moves {s₀ : State} {f t status : Nat} {ep : Bool} {data : CplData} :
    Answered s₀ (execPcieCompletion f t status ep data s₀) := by
  have hm := Moves.refl s₀
  refine answered ?_
  repeat' first
    | with_reducible assumption
    | (extract_lets +onlyGivenNames x; refine (fun (hx : Moves s₀ x) => ?_) ?_; clear_value x; rotate_left; subst x; rotate_right)
    | (extract_lets +onlyGivenNames x; refine (fun (hx : Moves s₀ x.1) => ?_) ?_; clear_value x; rotate_left; subst x; rotate_right)
    | (extract_lets +onlyGivenNames x; first | clear_value x | subst x)
    | with_reducible apply doCompletion_moves
    | split
    | dsimp only

theorem State.quarantine_moves {s₀ : State} {s : State} {f t : Nat} (hm : Moves s₀ s) :
    Moves s₀ (State.quarantine s f t) := by
  unfold State.quarantine
  repeat' first
    | with_reducible assumption
    | split
    | (conv => arg 2; arg 73; skip
       with_reducible apply Moves.mk)

theorem doCompletionTimeout_moves {s₀ : State} {t : Nat} {s : State} (hm : Moves s₀ s) :
    Moves s₀ (doCompletionTimeout t s) := by
  unfold doCompletionTimeout
  repeat' first
    | with_reducible assumption
    | (intro _; intros)
    | (extract_lets +onlyGivenNames x; refine (fun (hx : Moves s₀ x) => ?_) ?_; clear_value x; rotate_left; subst x; rotate_right)
    | (extract_lets +onlyGivenNames x; refine (fun (hx : Moves s₀ x.1) => ?_) ?_; clear_value x; rotate_left; subst x; rotate_right)
    | (extract_lets +onlyGivenNames x; have _ : _ → _ := x; subst x)
    | (extract_lets +onlyGivenNames x; first | clear_value x | subst x)
    | with_reducible apply State.aerUncorr_moves
    | with_reducible apply State.count_moves
    | with_reducible apply State.quarantine_moves
    | with_reducible apply State.readFails_moves
    | split
    | dsimp only
    | (conv => arg 2; arg 73; skip
       with_reducible apply Moves.mk)

@[simp] theorem execCompletionTimeout_moves {s₀ : State} {t : Nat} :
    Answered s₀ (execCompletionTimeout t s₀) := by
  have hm := Moves.refl s₀
  refine answered ?_
  repeat' first
    | with_reducible assumption
    | (extract_lets +onlyGivenNames x; refine (fun (hx : Moves s₀ x) => ?_) ?_; clear_value x; rotate_left; subst x; rotate_right)
    | (extract_lets +onlyGivenNames x; refine (fun (hx : Moves s₀ x.1) => ?_) ?_; clear_value x; rotate_left; subst x; rotate_right)
    | (extract_lets +onlyGivenNames x; first | clear_value x | subst x)
    | with_reducible apply doCompletionTimeout_moves
    | split
    | dsimp only

@[simp] theorem execPcieTagQuarantineEnd_moves {s₀ : State} {t : Nat} :
    Answered s₀ (execPcieTagQuarantineEnd t s₀) := by
  have hm := Moves.refl s₀
  refine answered ?_
  repeat' first
    | with_reducible assumption
    | (intro _; intros)
    | split
    | dsimp only
    | (conv => arg 2; arg 73; skip
       with_reducible apply Moves.mk)

theorem State.showBme_moves {s₀ : State} {s : State} (hm : Moves s₀ s) :
    Moves s₀ (State.showBme s) := by
  unfold State.showBme
  repeat' first
    | with_reducible assumption
    | (intro _; intros)
    | with_reducible apply moves_foldl
    | with_reducible apply moves_foldl_fst
    | with_reducible apply State.setFld_moves
    | split

theorem State.resetChannel_moves {s₀ : State} {s : State} {c : Nat} (hm : Moves s₀ s) :
    Moves s₀ (State.resetChannel s c) := by
  unfold State.resetChannel
  repeat' first
    | with_reducible assumption
    | (intro _; intros)
    | (extract_lets +onlyGivenNames x; refine (fun (hx : Moves s₀ x) => ?_) ?_; clear_value x; rotate_left; subst x; rotate_right)
    | (extract_lets +onlyGivenNames x; refine (fun (hx : Moves s₀ x.1) => ?_) ?_; clear_value x; rotate_left; subst x; rotate_right)
    | (extract_lets +onlyGivenNames x; first | clear_value x | subst x)
    | with_reducible apply moves_foldl
    | with_reducible apply moves_foldl_fst
    | with_reducible apply State.setReg_moves
    | split

theorem State.resetCfg_moves {s₀ : State} {s : State} {f : Nat} (hm : Moves s₀ s) :
    Moves s₀ (State.resetCfg s f) := by
  unfold State.resetCfg
  repeat' first
    | with_reducible assumption
    | (intro _; intros)
    | with_reducible apply State.showBme_moves
    | split
    | (conv => arg 2; arg 73; skip
       with_reducible apply Moves.mk)

theorem State.endSession_moves {s₀ : State} {s : State} (hm : Moves s₀ s) :
    Moves s₀ (State.endSession s) := by
  unfold State.endSession
  repeat' first
    | with_reducible assumption
    | with_reducible apply State.log_moves
    | with_reducible apply State.setFld_moves
    | split
    | dsimp only
    | (conv => arg 2; arg 73; skip
       with_reducible apply Moves.mk)

theorem State.flr_moves {s₀ : State} {s : State} {f : Nat} (hm : Moves s₀ s) :
    Moves s₀ (State.flr s f) := by
  unfold State.flr
  repeat' first
    | with_reducible assumption
    | (intro _; intros)
    | (extract_lets +onlyGivenNames x; refine (fun (hx : Moves s₀ x) => ?_) ?_; clear_value x; rotate_left; subst x; rotate_right)
    | (extract_lets +onlyGivenNames x; refine (fun (hx : Moves s₀ x.1) => ?_) ?_; clear_value x; rotate_left; subst x; rotate_right)
    | (extract_lets +onlyGivenNames x; first | clear_value x | subst x)
    | with_reducible apply moves_foldl
    | with_reducible apply moves_foldl_fst
    | with_reducible apply State.dmaAbandon_moves
    | with_reducible apply State.dmaStream_moves
    | with_reducible apply State.endSession_moves
    | with_reducible apply State.resetCfg_moves
    | with_reducible apply State.resetChannel_moves
    | with_reducible apply State.setDma_moves
    | split
    | (conv => arg 2; arg 73; skip
       with_reducible apply Moves.mk)

theorem doFlrComplete_moves {s₀ : State} {f : Nat} {s : State} (hm : Moves s₀ s) :
    Moves s₀ (doFlrComplete f s) := by
  unfold doFlrComplete
  repeat' first
    | with_reducible assumption
    | with_reducible apply State.setBit_moves
    | split
    | dsimp only
    | (conv => arg 2; arg 73; skip
       with_reducible apply Moves.mk)

@[simp] theorem execFlrComplete_moves {s₀ : State} {f : Nat} :
    Answered s₀ (execFlrComplete f s₀) := by
  have hm := Moves.refl s₀
  refine answered ?_
  repeat' first
    | with_reducible assumption
    | (extract_lets +onlyGivenNames x; refine (fun (hx : Moves s₀ x) => ?_) ?_; clear_value x; rotate_left; subst x; rotate_right)
    | (extract_lets +onlyGivenNames x; refine (fun (hx : Moves s₀ x.1) => ?_) ?_; clear_value x; rotate_left; subst x; rotate_right)
    | (extract_lets +onlyGivenNames x; first | clear_value x | subst x)
    | with_reducible apply doFlrComplete_moves
    | split
    | dsimp only

theorem State.cfgWrite_moves {s₀ : State} {s : State} {f off : Nat} {data : Word} {be : Nat} (hm : Moves s₀ s) :
    Moves s₀ (State.cfgWrite s f off data be) := by
  unfold State.cfgWrite
  repeat' first
    | with_reducible assumption
    | (intro _; intros)
    | (extract_lets +onlyGivenNames x; refine (fun (hx : Moves s₀ x) => ?_) ?_; clear_value x; rotate_left; subst x; rotate_right)
    | (extract_lets +onlyGivenNames x; refine (fun (hx : Moves s₀ x.1) => ?_) ?_; clear_value x; rotate_left; subst x; rotate_right)
    | (extract_lets +onlyGivenNames x; first | clear_value x | subst x)
    | with_reducible apply moves_foldl
    | with_reducible apply moves_foldl_fst
    | with_reducible apply State.dmaStream_moves
    | with_reducible apply State.flr_moves
    | with_reducible apply State.haltOwned_moves
    | with_reducible apply State.setCfg_moves
    | with_reducible apply State.showBme_moves
    | split

theorem doConfig_moves {s₀ : State} {f off : Nat} {write : Option (Word × Nat)} {s : State} (hm : Moves s₀ s) :
    Moves s₀ (doConfig f off write s) := by
  unfold doConfig
  repeat' first
    | with_reducible assumption
    | (extract_lets +onlyGivenNames x; refine (fun (hx : Moves s₀ x) => ?_) ?_; clear_value x; rotate_left; subst x; rotate_right)
    | (extract_lets +onlyGivenNames x; refine (fun (hx : Moves s₀ x.1) => ?_) ?_; clear_value x; rotate_left; subst x; rotate_right)
    | (extract_lets +onlyGivenNames x; first | clear_value x | subst x)
    | with_reducible apply State.cfgWrite_moves
    | with_reducible apply State.emit_moves
    | split
    | dsimp only
    | (conv => arg 2; arg 73; skip
       with_reducible apply Moves.mk)

@[simp] theorem execConfigRequest_moves {s₀ : State} {f off : Nat} {write : Option (Word × Nat)} :
    Answered s₀ (execConfigRequest f off write s₀) := by
  have hm := Moves.refl s₀
  refine answered ?_
  repeat' first
    | with_reducible assumption
    | with_reducible apply doConfig_moves
    | split

@[simp] theorem execBusMasterDisable_moves {s₀ : State} {f : Nat} :
    Answered s₀ (execBusMasterDisable f s₀) := by
  have hm := Moves.refl s₀
  refine answered ?_
  repeat' first
    | with_reducible assumption
    | with_reducible apply doConfig_moves
    | split

@[simp] theorem execFunctionLevelReset_moves {s₀ : State} {f : Nat} :
    Answered s₀ (execFunctionLevelReset f s₀) := by
  have hm := Moves.refl s₀
  refine answered ?_
  repeat' first
    | with_reducible assumption
    | with_reducible apply doConfig_moves
    | split

@[simp] theorem execD3hotEntry_moves {s₀ : State} {f : Nat} :
    Answered s₀ (execD3hotEntry f s₀) := by
  have hm := Moves.refl s₀
  refine answered ?_
  repeat' first
    | with_reducible assumption
    | with_reducible apply doConfig_moves
    | split

@[simp] theorem execResizableBarWrite_moves {s₀ : State} {size : Nat} :
    Answered s₀ (execResizableBarWrite size s₀) := by
  have hm := Moves.refl s₀
  refine answered ?_
  repeat' first
    | with_reducible assumption
    | with_reducible apply doConfig_moves
    | split

theorem State.linkDown_moves {s₀ : State} {s : State} (hm : Moves s₀ s) :
    Moves s₀ (State.linkDown s) := by
  unfold State.linkDown
  repeat' first
    | with_reducible assumption
    | with_reducible apply State.setFld_moves
    | split

theorem State.flrAll_moves {s₀ : State} {s : State} (hm : Moves s₀ s) :
    Moves s₀ (State.flrAll s) := by
  unfold State.flrAll
  repeat' first
    | with_reducible assumption
    | with_reducible apply State.flr_moves
    | with_reducible apply State.linkDown_moves
    | split

@[simp] theorem execHotReset_moves {s₀ : State}  :
    Answered s₀ (execHotReset s₀) := by
  have hm := Moves.refl s₀
  refine answered ?_
  repeat' first
    | with_reducible assumption
    | with_reducible apply State.flrAll_moves
    | with_reducible apply State.setFld_moves
    | split

@[simp] theorem execDlDown_moves {s₀ : State}  :
    Answered s₀ (execDlDown s₀) := by
  have hm := Moves.refl s₀
  refine answered ?_
  repeat' first
    | with_reducible assumption
    | with_reducible apply State.flrAll_moves
    | with_reducible apply State.raiseError_moves
    | with_reducible apply State.setFld_moves
    | split

theorem doLinkTrained_moves {s₀ : State} {speed width : Nat} {s : State} (hm : Moves s₀ s) :
    Moves s₀ (doLinkTrained speed width s) := by
  unfold doLinkTrained
  repeat' first
    | with_reducible assumption
    | (extract_lets +onlyGivenNames x; refine (fun (hx : Moves s₀ x) => ?_) ?_; clear_value x; rotate_left; subst x; rotate_right)
    | (extract_lets +onlyGivenNames x; refine (fun (hx : Moves s₀ x.1) => ?_) ?_; clear_value x; rotate_left; subst x; rotate_right)
    | (extract_lets +onlyGivenNames x; first | clear_value x | subst x)
    | with_reducible apply State.log_moves
    | with_reducible apply State.setFld_moves
    | split

@[simp] theorem execPcieLinkTrained_moves {s₀ : State} {speed width : Nat} :
    Answered s₀ (execPcieLinkTrained speed width s₀) := by
  have hm := Moves.refl s₀
  refine answered ?_
  repeat' first
    | with_reducible assumption
    | with_reducible apply doLinkTrained_moves
    | split

@[simp] theorem execPerstNRelease_moves {s₀ : State}  :
    Answered s₀ (execPerstNRelease s₀) := by
  have hm := Moves.refl s₀
  refine answered ?_
  repeat' first
    | with_reducible assumption
    | split
    | dsimp only
    | (conv => arg 2; arg 73; skip
       with_reducible apply Moves.mk)

end Sys2Proof.Machine
end

