-- ==== Sys2Proof/Laws/MovesBridge.lean ====
section
/-! SUPPORT. What the operations of Machine/Bridge.lean can do to the memories, the register file, the key slots and the queue: moves, and nothing
else. -/

namespace Sys2Proof.Machine

theorem State.modBrg_moves {s₀ : State} {s : State} {f : BrgSt → BrgSt} (hm : Moves s₀ s) :
    Moves s₀ (State.modBrg s f) := by
  unfold State.modBrg
  repeat' first
    | with_reducible assumption
    | split
    | (conv => arg 2; arg 73; skip
       with_reducible apply Moves.mk)

theorem State.markMalformed_moves {s₀ : State} {s : State} (hm : Moves s₀ s) :
    Moves s₀ (State.markMalformed s) := by
  unfold State.markMalformed
  repeat' first
    | with_reducible assumption
    | with_reducible apply State.count_moves
    | with_reducible apply State.setFld_moves
    | split

theorem doPacket_moves {s₀ : State} {g : Nat} {p : LinkPkt} {good : Bool} {buf : Ecc} {s : State} (hm : Moves s₀ s) :
    Moves s₀ (doPacket g p good buf s) := by
  unfold doPacket
  repeat' first
    | with_reducible assumption
    | (intro _; intros)
    | (extract_lets +onlyGivenNames x; refine (fun (hx : Moves s₀ x) => ?_) ?_; clear_value x; rotate_left; subst x; rotate_right)
    | (extract_lets +onlyGivenNames x; refine (fun (hx : Moves s₀ x.1) => ?_) ?_; clear_value x; rotate_left; subst x; rotate_right)
    | (extract_lets +onlyGivenNames x; first | clear_value x | subst x)
    | with_reducible apply State.markMalformed_moves
    | with_reducible apply State.modGrp_moves
    | with_reducible apply State.raiseCorrs_moves
    | with_reducible apply State.raiseError_moves
    | with_reducible apply State.sendCtl_moves
    | split
    | dsimp only
    | (conv => arg 2; arg 73; skip
       with_reducible apply Moves.mk)

theorem doAck_moves {s₀ : State} {g seqNo : Nat} {s : State} (hm : Moves s₀ s) :
    Moves s₀ (doAck g seqNo s) := by
  unfold doAck
  repeat' first
    | with_reducible assumption
    | (intro _; intros)
    | (extract_lets +onlyGivenNames x; refine (fun (hx : Moves s₀ x) => ?_) ?_; clear_value x; rotate_left; subst x; rotate_right)
    | (extract_lets +onlyGivenNames x; refine (fun (hx : Moves s₀ x.1) => ?_) ?_; clear_value x; rotate_left; subst x; rotate_right)
    | (extract_lets +onlyGivenNames x; first | clear_value x | subst x)
    | with_reducible apply State.modGrp_moves
    | with_reducible apply State.pump_moves
    | split
    | (conv => arg 2; arg 73; skip
       with_reducible apply Moves.mk)

@[simp] theorem execLinkAck_moves {s₀ : State} {g seqNo : Nat} :
    Answered s₀ (execLinkAck g seqNo s₀) := by
  have hm := Moves.refl s₀
  refine answered ?_
  repeat' first
    | with_reducible assumption
    | with_reducible apply doAck_moves
    | split

theorem State.replayAll_moves {s₀ : State} {s : State} {g : Nat} (hm : Moves s₀ s) :
    Moves s₀ (State.replayAll s g) := by
  unfold State.replayAll
  repeat' first
    | with_reducible assumption
    | (intro _; intros)
    | with_reducible apply moves_foldl
    | with_reducible apply moves_foldl_fst
    | with_reducible apply State.frame_moves
    | split

theorem State.replayCounted_moves {s₀ : State} {s : State} {g : Nat} (hm : Moves s₀ s) :
    Moves s₀ (State.replayCounted s g) := by
  unfold State.replayCounted
  repeat' first
    | with_reducible assumption
    | (intro _; intros)
    | with_reducible apply State.count_moves
    | with_reducible apply State.modGrp_moves
    | with_reducible apply State.replayAll_moves
    | split
    | (conv => arg 2; arg 73; skip
       with_reducible apply Moves.mk)

@[simp] theorem execLinkNak_moves {s₀ : State} {g seqNo : Nat} :
    Answered s₀ (execLinkNak g seqNo s₀) := by
  have hm := Moves.refl s₀
  refine answered ?_
  repeat' first
    | with_reducible assumption
    | (intro _; intros)
    | with_reducible apply State.modGrp_moves
    | with_reducible apply State.replayCounted_moves
    | split
    | dsimp only
    | (conv => arg 2; arg 73; skip
       with_reducible apply Moves.mk)

@[simp] theorem execReplayTimeout_moves {s₀ : State} {g : Nat} :
    Answered s₀ (execReplayTimeout g s₀) := by
  have hm := Moves.refl s₀
  refine answered ?_
  repeat' first
    | with_reducible assumption
    | (extract_lets +onlyGivenNames x; refine (fun (hx : Moves s₀ x) => ?_) ?_; clear_value x; rotate_left; subst x; rotate_right)
    | (extract_lets +onlyGivenNames x; refine (fun (hx : Moves s₀ x.1) => ?_) ?_; clear_value x; rotate_left; subst x; rotate_right)
    | (extract_lets +onlyGivenNames x; first | clear_value x | subst x)
    | with_reducible apply State.replayCounted_moves
    | split
    | dsimp only

theorem doCredit_moves {s₀ : State} {g cls hdr data : Nat} {s : State} (hm : Moves s₀ s) :
    Moves s₀ (doCredit g cls hdr data s) := by
  unfold doCredit
  repeat' first
    | with_reducible assumption
    | (intro _; intros)
    | (extract_lets +onlyGivenNames x; refine (fun (hx : Moves s₀ x) => ?_) ?_; clear_value x; rotate_left; subst x; rotate_right)
    | (extract_lets +onlyGivenNames x; refine (fun (hx : Moves s₀ x.1) => ?_) ?_; clear_value x; rotate_left; subst x; rotate_right)
    | (extract_lets +onlyGivenNames x; first | clear_value x | subst x)
    | with_reducible apply State.modGrp_moves
    | with_reducible apply State.pump_moves
    | split
    | (conv => arg 2; arg 73; skip
       with_reducible apply Moves.mk)

@[simp] theorem execCreditReceive_moves {s₀ : State} {g cls hdr data : Nat} :
    Answered s₀ (execCreditReceive g cls hdr data s₀) := by
  have hm := Moves.refl s₀
  refine answered ?_
  repeat' first
    | with_reducible assumption
    | with_reducible apply doCredit_moves
    | split

theorem State.remGroup_moves {s₀ : State} {s : State} {i : Initiator} (hm : Moves s₀ s) :
    Moves s₀ (State.remGroup s i).1 := by
  unfold State.remGroup
  repeat' first
    | with_reducible assumption
    | (extract_lets +onlyGivenNames x; refine (fun (hx : Moves s₀ x) => ?_) ?_; clear_value x; rotate_left; subst x; rotate_right)
    | (extract_lets +onlyGivenNames x; refine (fun (hx : Moves s₀ x.1) => ?_) ?_; clear_value x; rotate_left; subst x; rotate_right)
    | (extract_lets +onlyGivenNames x; first | clear_value x | subst x)
    | with_reducible apply State.draw_moves
    | split
    | dsimp only
    | (conv => arg 2; arg 73; skip
       with_reducible apply Moves.mk)

theorem State.dropPosted_moves {s₀ : State} {s : State} (hm : Moves s₀ s) :
    Moves s₀ (State.dropPosted s) := by
  unfold State.dropPosted
  repeat' first
    | with_reducible assumption
    | (intro _; intros)
    | with_reducible apply moves_foldl
    | with_reducible apply moves_foldl_fst
    | with_reducible apply State.countN_moves
    | with_reducible apply State.modGrp_moves
    | split
    | (conv => arg 2; arg 73; skip
       with_reducible apply Moves.mk)

theorem State.perrLog_moves {s₀ : State} {s : State} {off reason init remote g : Nat} (hm : Moves s₀ s) :
    Moves s₀ (State.perrLog s off reason init remote g) := by
  unfold State.perrLog
  repeat' first
    | with_reducible assumption
    | (extract_lets +onlyGivenNames x; refine (fun (hx : Moves s₀ x) => ?_) ?_; clear_value x; rotate_left; subst x; rotate_right)
    | (extract_lets +onlyGivenNames x; refine (fun (hx : Moves s₀ x.1) => ?_) ?_; clear_value x; rotate_left; subst x; rotate_right)
    | (extract_lets +onlyGivenNames x; first | clear_value x | subst x)
    | with_reducible apply State.count_moves
    | with_reducible apply State.dropPosted_moves
    | with_reducible apply State.setFld_moves
    | with_reducible apply State.setReg_moves
    | split

theorem State.perrPop_moves {s₀ : State} {s : State} (hm : Moves s₀ s) :
    Moves s₀ (State.perrPop s) := by
  unfold State.perrPop
  repeat' first
    | with_reducible assumption
    | (intro _; intros)
    | (extract_lets +onlyGivenNames x; refine (fun (hx : Moves s₀ x) => ?_) ?_; clear_value x; rotate_left; subst x; rotate_right)
    | (extract_lets +onlyGivenNames x; refine (fun (hx : Moves s₀ x.1) => ?_) ?_; clear_value x; rotate_left; subst x; rotate_right)
    | (extract_lets +onlyGivenNames x; first | clear_value x | subst x)
    | with_reducible apply moves_foldl
    | with_reducible apply moves_foldl_fst
    | with_reducible apply State.setFld_moves
    | with_reducible apply State.setReg_moves
    | split

@[simp] theorem execPerrPop_moves {s₀ : State} {i : Initiator} {data : Word} :
    Answered s₀ (execPerrPop i data s₀) := by
  have hm := Moves.refl s₀
  refine answered ?_
  repeat' first
    | with_reducible assumption
    | (intro _; intros)
    | with_reducible apply State.perrPop_moves
    | with_reducible apply State.swWrite_moves
    | split

theorem doPerr_moves {s₀ : State} {g : Nat} {s : State} (hm : Moves s₀ s) :
    Moves s₀ (doPerr g s) := by
  unfold doPerr
  repeat' first
    | with_reducible assumption
    | (rename _ = ((_ : State), _) => heq; have hk := congrArg Prod.fst heq; dsimp only at hk; subst hk; clear heq)
    | (extract_lets +onlyGivenNames x; refine (fun (hx : Moves s₀ x) => ?_) ?_; clear_value x; rotate_left; subst x; rotate_right)
    | (extract_lets +onlyGivenNames x; refine (fun (hx : Moves s₀ x.1) => ?_) ?_; clear_value x; rotate_left; subst x; rotate_right)
    | (extract_lets +onlyGivenNames x; first | clear_value x | subst x)
    | with_reducible apply State.perrLog_moves
    | with_reducible apply State.takeRx_moves
    | split
    | dsimp only
    | (conv => arg 2; arg 73; skip
       with_reducible apply Moves.mk)

@[simp] theorem execPerrReceive_moves {s₀ : State} {g : Nat} :
    Answered s₀ (execPerrReceive g s₀) := by
  have hm := Moves.refl s₀
  refine answered ?_
  repeat' first
    | with_reducible assumption
    | with_reducible apply doPerr_moves
    | split

theorem doRemoteWrite_moves {s₀ : State} {i : Initiator} {off : Nat} {data : List Word} {s : State} (hm : Moves s₀ s) :
    Moves s₀ (doRemoteWrite i off data s) := by
  unfold doRemoteWrite
  repeat' first
    | with_reducible assumption
    | (rename _ = ((_ : State), _) => heq; have hk := congrArg Prod.fst heq; dsimp only at hk; subst hk; clear heq)
    | with_reducible apply State.aerUncorr_moves
    | with_reducible apply State.count_moves
    | with_reducible apply State.perrLog_moves
    | with_reducible apply State.refuse_moves
    | with_reducible apply State.remGroup_moves
    | with_reducible apply State.sendPkt_moves
    | split
    | dsimp only
    | (conv => arg 2; arg 73; skip
       with_reducible apply Moves.mk)

@[simp] theorem execRemoteWriteIssue_moves {s₀ : State} {i : Initiator} {off : Nat} {data : List Word} :
    Answered s₀ (execRemoteWriteIssue i off data s₀) := by
  have hm := Moves.refl s₀
  refine answered ?_
  repeat' first
    | with_reducible assumption
    | with_reducible apply doRemoteWrite_moves
    | split

theorem State.showTags_moves {s₀ : State} {s : State} (hm : Moves s₀ s) :
    Moves s₀ (State.showTags s) := by
  unfold State.showTags
  repeat' first
    | with_reducible assumption
    | (intro _; intros)
    | with_reducible apply State.setReg_moves
    | split

theorem State.remDeliver_moves {s₀ : State} {s : State} {init status : Nat} {ep : Bool} {words : List Nat} (hm : Moves s₀ s) :
    Moves s₀ (State.remDeliver s init status ep words) := by
  unfold State.remDeliver
  repeat' first
    | with_reducible assumption
    | (extract_lets +onlyGivenNames x; refine (fun (hx : Moves s₀ x) => ?_) ?_; clear_value x; rotate_left; subst x; rotate_right)
    | (extract_lets +onlyGivenNames x; refine (fun (hx : Moves s₀ x.1) => ?_) ?_; clear_value x; rotate_left; subst x; rotate_right)
    | (extract_lets +onlyGivenNames x; first | clear_value x | subst x)
    | with_reducible apply State.emit_moves
    | split

theorem State.remOnes_moves {s₀ : State} {s : State} {r : RemRead} (hm : Moves s₀ s) :
    Moves s₀ (State.remOnes s r) := by
  unfold State.remOnes
  repeat' first
    | with_reducible assumption
    | with_reducible apply State.remDeliver_moves
    | split

theorem State.remNoPath_moves {s₀ : State} {s : State} {r : RemRead} (hm : Moves s₀ s) :
    Moves s₀ (State.remNoPath s r) := by
  unfold State.remNoPath
  repeat' first
    | with_reducible assumption
    | with_reducible apply State.count_moves
    | with_reducible apply State.remOnes_moves
    | with_reducible apply State.setFld_moves
    | split

theorem State.remIssue_moves {s₀ : State} {s : State} {r : RemRead} (hm : Moves s₀ s) :
    Moves s₀ (State.remIssue s r) := by
  unfold State.remIssue
  repeat' first
    | with_reducible assumption
    | (intro _; intros)
    | (rename _ = ((_ : State), _) => heq; have hk := congrArg Prod.fst heq; dsimp only at hk; subst hk; clear heq)
    | (extract_lets +onlyGivenNames x; refine (fun (hx : Moves s₀ x) => ?_) ?_; clear_value x; rotate_left; subst x; rotate_right)
    | (extract_lets +onlyGivenNames x; refine (fun (hx : Moves s₀ x.1) => ?_) ?_; clear_value x; rotate_left; subst x; rotate_right)
    | (extract_lets +onlyGivenNames x; first | clear_value x | subst x)
    | with_reducible apply State.modBrg_moves
    | with_reducible apply State.remGroup_moves
    | with_reducible apply State.remNoPath_moves
    | with_reducible apply State.sendPkt_moves
    | with_reducible apply State.showTags_moves
    | split
    | dsimp only
    | (conv => arg 2; arg 73; skip
       with_reducible apply Moves.mk)

theorem State.remPump_moves {s₀ : State} {s : State} (hm : Moves s₀ s) :
    Moves s₀ (State.remPump s) := by
  unfold State.remPump
  repeat' first
    | with_reducible assumption
    | (intro _; intros)
    | (extract_lets +onlyGivenNames x; refine (fun (hx : Moves s₀ x) => ?_) ?_; clear_value x; rotate_left; subst x; rotate_right)
    | (extract_lets +onlyGivenNames x; refine (fun (hx : Moves s₀ x.1) => ?_) ?_; clear_value x; rotate_left; subst x; rotate_right)
    | (extract_lets +onlyGivenNames x; first | clear_value x | subst x)
    | with_reducible apply moves_foldl
    | with_reducible apply moves_foldl_fst
    | with_reducible apply State.modBrg_moves
    | with_reducible apply State.sendPkt_moves
    | with_reducible apply State.showTags_moves
    | split
    | dsimp only
    | (conv => arg 2; arg 73; skip
       with_reducible apply Moves.mk)

theorem doRemoteRead_moves {s₀ : State} {i : Initiator} {off n : Nat} {s : State} (hm : Moves s₀ s) :
    Moves s₀ (doRemoteRead i off n s) := by
  unfold doRemoteRead
  repeat' first
    | with_reducible assumption
    | (intro _; intros)
    | (extract_lets +onlyGivenNames x; refine (fun (hx : Moves s₀ x) => ?_) ?_; clear_value x; rotate_left; subst x; rotate_right)
    | (extract_lets +onlyGivenNames x; refine (fun (hx : Moves s₀ x.1) => ?_) ?_; clear_value x; rotate_left; subst x; rotate_right)
    | (extract_lets +onlyGivenNames x; first | clear_value x | subst x)
    | with_reducible apply moves_foldl
    | with_reducible apply moves_foldl_fst
    | with_reducible apply State.emit_moves
    | with_reducible apply State.refuse_moves
    | with_reducible apply State.remIssue_moves
    | with_reducible apply State.unsupported_moves
    | split

@[simp] theorem execRemoteReadIssue_moves {s₀ : State} {i : Initiator} {off n : Nat} :
    Answered s₀ (execRemoteReadIssue i off n s₀) := by
  have hm := Moves.refl s₀
  refine answered ?_
  repeat' first
    | with_reducible assumption
    | with_reducible apply doRemoteRead_moves
    | split

theorem doCpld_moves {s₀ : State} {g : Nat} {s : State} (hm : Moves s₀ s) :
    Moves s₀ (doCpld g s) := by
  unfold doCpld
  repeat' first
    | with_reducible assumption
    | (intro _; intros)
    | (rename _ = ((_ : State), _) => heq; have hk := congrArg Prod.fst heq; dsimp only at hk; subst hk; clear heq)
    | (extract_lets +onlyGivenNames x; refine (fun (hx : Moves s₀ x) => ?_) ?_; clear_value x; rotate_left; subst x; rotate_right)
    | (extract_lets +onlyGivenNames x; refine (fun (hx : Moves s₀ x.1) => ?_) ?_; clear_value x; rotate_left; subst x; rotate_right)
    | (extract_lets +onlyGivenNames x; first | clear_value x | subst x)
    | with_reducible apply State.count_moves
    | with_reducible apply State.markMalformed_moves
    | with_reducible apply State.modBrg_moves
    | with_reducible apply State.remDeliver_moves
    | with_reducible apply State.remPump_moves
    | with_reducible apply State.setFld_moves
    | with_reducible apply State.takeRx_moves
    | split
    | dsimp only
    | (conv => arg 2; arg 73; skip
       with_reducible apply Moves.mk)

@[simp] theorem execCpldReceive_moves {s₀ : State} {g : Nat} :
    Answered s₀ (execCpldReceive g s₀) := by
  have hm := Moves.refl s₀
  refine answered ?_
  repeat' first
    | with_reducible assumption
    | with_reducible apply doCpld_moves
    | split

theorem State.remQuarantine_moves {s₀ : State} {s : State} {t : Nat} (hm : Moves s₀ s) :
    Moves s₀ (State.remQuarantine s t) := by
  unfold State.remQuarantine
  repeat' first
    | with_reducible assumption
    | (intro _; intros)
    | with_reducible apply State.modBrg_moves
    | with_reducible apply State.showTags_moves
    | split
    | (conv => arg 2; arg 73; skip
       with_reducible apply Moves.mk)

theorem doReadTimeout_moves {s₀ : State} {t : Option Nat} {s : State} (hm : Moves s₀ s) :
    Moves s₀ (doReadTimeout t s) := by
  unfold doReadTimeout
  repeat' first
    | with_reducible assumption
    | (intro _; intros)
    | (extract_lets +onlyGivenNames x; refine (fun (hx : Moves s₀ x) => ?_) ?_; clear_value x; rotate_left; subst x; rotate_right)
    | (extract_lets +onlyGivenNames x; refine (fun (hx : Moves s₀ x.1) => ?_) ?_; clear_value x; rotate_left; subst x; rotate_right)
    | (extract_lets +onlyGivenNames x; first | clear_value x | subst x)
    | with_reducible apply State.count_moves
    | with_reducible apply State.modBrg_moves
    | with_reducible apply State.remOnes_moves
    | with_reducible apply State.remQuarantine_moves
    | with_reducible apply State.setFld_moves
    | split
    | dsimp only
    | (conv => arg 2; arg 73; skip
       with_reducible apply Moves.mk)

@[simp] theorem execRemoteReadTimeout_moves {s₀ : State} {t : Option Nat} :
    Answered s₀ (execRemoteReadTimeout t s₀) := by
  have hm := Moves.refl s₀
  refine answered ?_
  repeat' first
    | with_reducible assumption
    | (intro _; intros)
    | with_reducible apply doReadTimeout_moves
    | split

theorem doTagQuarantineEnd_moves {s₀ : State} {t : Nat} {s : State} (hm : Moves s₀ s) :
    Moves s₀ (doTagQuarantineEnd t s) := by
  unfold doTagQuarantineEnd
  repeat' first
    | with_reducible assumption
    | (intro _; intros)
    | (extract_lets +onlyGivenNames x; refine (fun (hx : Moves s₀ x) => ?_) ?_; clear_value x; rotate_left; subst x; rotate_right)
    | (extract_lets +onlyGivenNames x; refine (fun (hx : Moves s₀ x.1) => ?_) ?_; clear_value x; rotate_left; subst x; rotate_right)
    | (extract_lets +onlyGivenNames x; first | clear_value x | subst x)
    | with_reducible apply State.modBrg_moves
    | with_reducible apply State.remPump_moves
    | split
    | (conv => arg 2; arg 73; skip
       with_reducible apply Moves.mk)

@[simp] theorem execTagQuarantineEnd_moves {s₀ : State} {t : Nat} :
    Answered s₀ (execTagQuarantineEnd t s₀) := by
  have hm := Moves.refl s₀
  refine answered ?_
  repeat' first
    | with_reducible assumption
    | with_reducible apply doTagQuarantineEnd_moves
    | split

theorem State.remLost_moves {s₀ : State} {s : State} {g : Nat} (hm : Moves s₀ s) :
    Moves s₀ (State.remLost s g) := by
  unfold State.remLost
  repeat' first
    | with_reducible assumption
    | (intro _; intros)
    | (extract_lets +onlyGivenNames x; refine (fun (hx : Moves s₀ x) => ?_) ?_; clear_value x; rotate_left; subst x; rotate_right)
    | (extract_lets +onlyGivenNames x; refine (fun (hx : Moves s₀ x.1) => ?_) ?_; clear_value x; rotate_left; subst x; rotate_right)
    | (extract_lets +onlyGivenNames x; first | clear_value x | subst x)
    | with_reducible apply moves_foldl
    | with_reducible apply moves_foldl_fst
    | with_reducible apply State.modBrg_moves
    | with_reducible apply State.remNoPath_moves
    | with_reducible apply State.remQuarantine_moves
    | split
    | dsimp only
    | (conv => arg 2; arg 73; skip
       with_reducible apply Moves.mk)

theorem State.setWires_moves {s₀ : State} {s : State} {w : Nat} (hm : Moves s₀ s) :
    Moves s₀ (State.setWires s w) := by
  unfold State.setWires
  repeat' first
    | with_reducible assumption
    | with_reducible apply State.setReg_moves
    | split
    | (conv => arg 2; arg 73; skip
       with_reducible apply Moves.mk)

theorem doWires_moves {s₀ : State} {g : Nat} {s : State} (hm : Moves s₀ s) :
    Moves s₀ (doWires g s) := by
  unfold doWires
  repeat' first
    | with_reducible assumption
    | (intro _; intros)
    | (rename _ = ((_ : State), _) => heq; have hk := congrArg Prod.fst heq; dsimp only at hk; subst hk; clear heq)
    | (extract_lets +onlyGivenNames x; refine (fun (hx : Moves s₀ x) => ?_) ?_; clear_value x; rotate_left; subst x; rotate_right)
    | (extract_lets +onlyGivenNames x; refine (fun (hx : Moves s₀ x.1) => ?_) ?_; clear_value x; rotate_left; subst x; rotate_right)
    | (extract_lets +onlyGivenNames x; first | clear_value x | subst x)
    | with_reducible apply moves_foldl
    | with_reducible apply moves_foldl_fst
    | with_reducible apply doLevelSample_moves
    | with_reducible apply State.setWires_moves
    | with_reducible apply State.takeRx_moves
    | split
    | dsimp only
    | (conv => arg 2; arg 73; skip
       with_reducible apply Moves.mk)

@[simp] theorem execWiresReceive_moves {s₀ : State} {g : Nat} :
    Answered s₀ (execWiresReceive g s₀) := by
  have hm := Moves.refl s₀
  refine answered ?_
  repeat' first
    | with_reducible assumption
    | with_reducible apply doWires_moves
    | split

@[simp] theorem execWiresRefresh_moves {s₀ : State} {g : Nat} :
    Answered s₀ (execWiresRefresh g s₀) := by
  have hm := Moves.refl s₀
  refine answered ?_
  repeat' first
    | with_reducible assumption
    | with_reducible apply State.sendWires_moves
    | split

theorem doEdge_moves {s₀ : State} {g : Nat} {s : State} (hm : Moves s₀ s) :
    Moves s₀ (doEdge g s) := by
  unfold doEdge
  repeat' first
    | with_reducible assumption
    | (rename _ = ((_ : State), _) => heq; have hk := congrArg Prod.fst heq; dsimp only at hk; subst hk; clear heq)
    | (extract_lets +onlyGivenNames x; refine (fun (hx : Moves s₀ x) => ?_) ?_; clear_value x; rotate_left; subst x; rotate_right)
    | (extract_lets +onlyGivenNames x; refine (fun (hx : Moves s₀ x.1) => ?_) ?_; clear_value x; rotate_left; subst x; rotate_right)
    | (extract_lets +onlyGivenNames x; first | clear_value x | subst x)
    | with_reducible apply State.declareLead_moves
    | with_reducible apply State.declareTrail_moves
    | with_reducible apply State.setReg_moves
    | with_reducible apply State.takeRx_moves
    | split
    | dsimp only
    | (conv => arg 2; arg 73; skip
       with_reducible apply Moves.mk)

@[simp] theorem execEdgeReceive_moves {s₀ : State} {g : Nat} :
    Answered s₀ (execEdgeReceive g s₀) := by
  have hm := Moves.refl s₀
  refine answered ?_
  repeat' first
    | with_reducible assumption
    | with_reducible apply doEdge_moves
    | split

theorem doTunCsi_moves {s₀ : State} {g : Nat} {s : State} (hm : Moves s₀ s) :
    Moves s₀ (doTunCsi g s) := by
  unfold doTunCsi
  repeat' first
    | with_reducible assumption
    | (intro _; intros)
    | (rename _ = ((_ : State), _) => heq; have hk := congrArg Prod.fst heq; dsimp only at hk; subst hk; clear heq)
    | (extract_lets +onlyGivenNames x; refine (fun (hx : Moves s₀ x) => ?_) ?_; clear_value x; rotate_left; subst x; rotate_right)
    | (extract_lets +onlyGivenNames x; refine (fun (hx : Moves s₀ x.1) => ?_) ?_; clear_value x; rotate_left; subst x; rotate_right)
    | (extract_lets +onlyGivenNames x; first | clear_value x | subst x)
    | with_reducible apply State.takeItem_moves
    | with_reducible apply State.tunnelLine_moves
    | split
    | dsimp only
    | (conv => arg 2; arg 73; skip
       with_reducible apply Moves.mk)

@[simp] theorem execTunCsiReceive_moves {s₀ : State} {g : Nat} :
    Answered s₀ (execTunCsiReceive g s₀) := by
  have hm := Moves.refl s₀
  refine answered ?_
  repeat' first
    | with_reducible assumption
    | with_reducible apply doTunCsi_moves
    | split

end Sys2Proof.Machine
end

