-- ==== Sys2Proof/Laws/MovesTwoWire.lean ====
section
/-! SUPPORT. What the operations of Machine/TwoWire.lean can do to the memories, the register file, the key slots and the queue: moves, and nothing
else. -/

namespace Sys2Proof.Machine

theorem State.modTw_moves {s₀ : State} {s : State} {k : Nat} {f : TwSt → TwSt} (hm : Moves s₀ s) :
    Moves s₀ (State.modTw s k f) := by
  unfold State.modTw
  repeat' first
    | with_reducible assumption
    | split
    | (conv => arg 2; arg 73; skip
       with_reducible apply Moves.mk)

theorem State.showTw_moves {s₀ : State} {s : State} {k : Nat} (hm : Moves s₀ s) :
    Moves s₀ (State.showTw s k) := by
  unfold State.showTw
  repeat' first
    | with_reducible assumption
    | (intro _; intros)
    | (extract_lets +onlyGivenNames x; refine (fun (hx : Moves s₀ x) => ?_) ?_; clear_value x; rotate_left; subst x; rotate_right)
    | (extract_lets +onlyGivenNames x; refine (fun (hx : Moves s₀ x.1) => ?_) ?_; clear_value x; rotate_left; subst x; rotate_right)
    | (extract_lets +onlyGivenNames x; first | clear_value x | subst x)
    | with_reducible apply State.setFld_moves
    | with_reducible apply State.setReg_moves
    | split
    | dsimp only
    | (conv => arg 2; arg 73; skip
       with_reducible apply Moves.mk)

theorem State.twCount_moves {s₀ : State} {s : State} {k j : Nat} (hm : Moves s₀ s) :
    Moves s₀ (State.twCount s k j) := by
  unfold State.twCount
  repeat' first
    | with_reducible assumption
    | with_reducible apply State.count_moves
    | split

theorem State.twEvent_moves {s₀ : State} {s : State} {k : Nat} {f : Fld} (hm : Moves s₀ s) :
    Moves s₀ (State.twEvent s k f) := by
  unfold State.twEvent
  repeat' first
    | with_reducible assumption
    | with_reducible apply State.setFld_moves
    | split

theorem State.twRespond_moves {s₀ : State} {s : State} {g tag code wcnt bitpos : Nat} {data : List Nat} (hm : Moves s₀ s) :
    Moves s₀ (State.twRespond s g tag code wcnt bitpos data) := by
  unfold State.twRespond
  repeat' first
    | with_reducible assumption
    | with_reducible apply State.sendItem_moves
    | split

theorem State.twDeliver_moves {s₀ : State} {s : State} {k : Nat} {e : TwEntry} {r : TwRes} (hm : Moves s₀ s) :
    Moves s₀ (State.twDeliver s k e r) := by
  unfold State.twDeliver
  repeat' first
    | with_reducible assumption
    | (intro _; intros)
    | (extract_lets +onlyGivenNames x; refine (fun (hx : Moves s₀ x) => ?_) ?_; clear_value x; rotate_left; subst x; rotate_right)
    | (extract_lets +onlyGivenNames x; refine (fun (hx : Moves s₀ x.1) => ?_) ?_; clear_value x; rotate_left; subst x; rotate_right)
    | (extract_lets +onlyGivenNames x; first | clear_value x | subst x)
    | with_reducible apply State.modTw_moves
    | with_reducible apply State.showTw_moves
    | with_reducible apply State.twEvent_moves
    | with_reducible apply State.twRespond_moves
    | split
    | dsimp only
    | (conv => arg 2; arg 73; skip
       with_reducible apply Moves.mk)

theorem State.twCompare_moves {s₀ : State} {s : State} {k : Nat} {y0 : Nat} (hm : Moves s₀ s) :
    Moves s₀ (State.twCompare s k y0) := by
  induction y0 generalizing s with
  | zero =>
    unfold State.twCompare
    repeat' first
      | with_reducible assumption
      | (intro _; intros)
      | (extract_lets +onlyGivenNames x; refine (fun (hx : Moves s₀ x) => ?_) ?_; clear_value x; rotate_left; subst x; rotate_right)
      | (extract_lets +onlyGivenNames x; refine (fun (hx : Moves s₀ x.1) => ?_) ?_; clear_value x; rotate_left; subst x; rotate_right)
      | (extract_lets +onlyGivenNames x; first | clear_value x | subst x)
      | with_reducible apply State.modTw_moves
      | with_reducible apply State.raiseError_moves
      | with_reducible apply State.twDeliver_moves
      | with_reducible apply State.twEvent_moves
      | split
      | dsimp only
      | (conv => arg 2; arg 73; skip
         with_reducible apply Moves.mk)
  | succ n ih =>
    unfold State.twCompare
    repeat' first
      | with_reducible assumption
      | (intro _; intros)
      | (extract_lets +onlyGivenNames x; refine (fun (hx : Moves s₀ x) => ?_) ?_; clear_value x; rotate_left; subst x; rotate_right)
      | (extract_lets +onlyGivenNames x; refine (fun (hx : Moves s₀ x.1) => ?_) ?_; clear_value x; rotate_left; subst x; rotate_right)
      | (extract_lets +onlyGivenNames x; first | clear_value x | subst x)
      | with_reducible apply ih
      | with_reducible apply State.modTw_moves
      | with_reducible apply State.raiseError_moves
      | with_reducible apply State.twDeliver_moves
      | with_reducible apply State.twEvent_moves
      | split
      | dsimp only
      | (conv => arg 2; arg 73; skip
         with_reducible apply Moves.mk)

theorem State.twFinish_moves {s₀ : State} {s : State} {k : Nat} {e : TwEntry} {r : TwRes} (hm : Moves s₀ s) :
    Moves s₀ (State.twFinish s k e r) := by
  unfold State.twFinish
  repeat' first
    | with_reducible assumption
    | (intro _; intros)
    | (extract_lets +onlyGivenNames x; refine (fun (hx : Moves s₀ x) => ?_) ?_; clear_value x; rotate_left; subst x; rotate_right)
    | (extract_lets +onlyGivenNames x; refine (fun (hx : Moves s₀ x.1) => ?_) ?_; clear_value x; rotate_left; subst x; rotate_right)
    | (extract_lets +onlyGivenNames x; first | clear_value x | subst x)
    | with_reducible apply State.modTw_moves
    | with_reducible apply State.toPartner_moves
    | with_reducible apply State.twCompare_moves
    | with_reducible apply State.twCount_moves
    | with_reducible apply State.twDeliver_moves
    | with_reducible apply State.twEvent_moves
    | split
    | (conv => arg 2; arg 73; skip
       with_reducible apply Moves.mk)

theorem State.twEnd_moves {s₀ : State} {s : State} {k code wcnt bitpos : Nat} {data : List Nat} (hm : Moves s₀ s) :
    Moves s₀ (State.twEnd s k code wcnt bitpos data) := by
  unfold State.twEnd
  repeat' first
    | with_reducible assumption
    | (intro _; intros)
    | (extract_lets +onlyGivenNames x; refine (fun (hx : Moves s₀ x) => ?_) ?_; clear_value x; rotate_left; subst x; rotate_right)
    | (extract_lets +onlyGivenNames x; refine (fun (hx : Moves s₀ x.1) => ?_) ?_; clear_value x; rotate_left; subst x; rotate_right)
    | (extract_lets +onlyGivenNames x; first | clear_value x | subst x)
    | with_reducible apply State.modTw_moves
    | with_reducible apply State.showTw_moves
    | with_reducible apply State.twFinish_moves
    | split
    | dsimp only
    | (conv => arg 2; arg 73; skip
       with_reducible apply Moves.mk)

theorem State.twDrain_moves {s₀ : State} {s : State} {k : Nat} {y0 : Nat} (hm : Moves s₀ s) :
    Moves s₀ (State.twDrain s k y0) := by
  induction y0 generalizing s with
  | zero =>
    unfold State.twDrain
    repeat' first
      | with_reducible assumption
      | (intro _; intros)
      | (extract_lets +onlyGivenNames x; refine (fun (hx : Moves s₀ x) => ?_) ?_; clear_value x; rotate_left; subst x; rotate_right)
      | (extract_lets +onlyGivenNames x; refine (fun (hx : Moves s₀ x.1) => ?_) ?_; clear_value x; rotate_left; subst x; rotate_right)
      | (extract_lets +onlyGivenNames x; first | clear_value x | subst x)
      | with_reducible apply State.modTw_moves
      | with_reducible apply State.showTw_moves
      | with_reducible apply State.twFinish_moves
      | split
      | dsimp only
      | (conv => arg 2; arg 73; skip
         with_reducible apply Moves.mk)
  | succ n ih =>
    unfold State.twDrain
    repeat' first
      | with_reducible assumption
      | (intro _; intros)
      | (extract_lets +onlyGivenNames x; refine (fun (hx : Moves s₀ x) => ?_) ?_; clear_value x; rotate_left; subst x; rotate_right)
      | (extract_lets +onlyGivenNames x; refine (fun (hx : Moves s₀ x.1) => ?_) ?_; clear_value x; rotate_left; subst x; rotate_right)
      | (extract_lets +onlyGivenNames x; first | clear_value x | subst x)
      | with_reducible apply ih
      | with_reducible apply State.modTw_moves
      | with_reducible apply State.showTw_moves
      | with_reducible apply State.twFinish_moves
      | split
      | dsimp only
      | (conv => arg 2; arg 73; skip
         with_reducible apply Moves.mk)

theorem State.twStuck_moves {s₀ : State} {s : State} {k : Nat} (hm : Moves s₀ s) :
    Moves s₀ (State.twStuck s k) := by
  unfold State.twStuck
  repeat' first
    | with_reducible assumption
    | (extract_lets +onlyGivenNames x; refine (fun (hx : Moves s₀ x) => ?_) ?_; clear_value x; rotate_left; subst x; rotate_right)
    | (extract_lets +onlyGivenNames x; refine (fun (hx : Moves s₀ x.1) => ?_) ?_; clear_value x; rotate_left; subst x; rotate_right)
    | (extract_lets +onlyGivenNames x; first | clear_value x | subst x)
    | with_reducible apply State.raiseError_moves
    | with_reducible apply State.setFld_moves
    | with_reducible apply State.twDrain_moves
    | with_reducible apply State.twEnd_moves
    | with_reducible apply State.twEvent_moves
    | split

theorem State.twClear_moves {s₀ : State} {s : State} {k : Nat} {clr : Option Nat} (hm : Moves s₀ s) :
    Moves s₀ (State.twClear s k clr) := by
  unfold State.twClear
  repeat' first
    | with_reducible assumption
    | (intro _; intros)
    | (extract_lets +onlyGivenNames x; refine (fun (hx : Moves s₀ x) => ?_) ?_; clear_value x; rotate_left; subst x; rotate_right)
    | (extract_lets +onlyGivenNames x; refine (fun (hx : Moves s₀ x.1) => ?_) ?_; clear_value x; rotate_left; subst x; rotate_right)
    | (extract_lets +onlyGivenNames x; first | clear_value x | subst x)
    | with_reducible apply State.emit_moves
    | with_reducible apply State.modTw_moves
    | with_reducible apply State.setFld_moves
    | with_reducible apply State.twCount_moves
    | with_reducible apply State.twStuck_moves
    | split
    | dsimp only
    | (conv => arg 2; arg 73; skip
       with_reducible apply Moves.mk)

theorem State.twAbort_moves {s₀ : State} {s : State} {k : Nat} (hm : Moves s₀ s) :
    Moves s₀ (State.twAbort s k) := by
  unfold State.twAbort
  repeat' first
    | with_reducible assumption
    | (intro _; intros)
    | (extract_lets +onlyGivenNames x; refine (fun (hx : Moves s₀ x) => ?_) ?_; clear_value x; rotate_left; subst x; rotate_right)
    | (extract_lets +onlyGivenNames x; refine (fun (hx : Moves s₀ x.1) => ?_) ?_; clear_value x; rotate_left; subst x; rotate_right)
    | (extract_lets +onlyGivenNames x; first | clear_value x | subst x)
    | with_reducible apply State.twEnd_moves
    | split
    | dsimp only
    | (conv => arg 2; arg 73; skip
       with_reducible apply Moves.mk)

theorem State.twStage_moves {s₀ : State} {s : State} {k : Nat} {data : Word} (hm : Moves s₀ s) :
    Moves s₀ (State.twStage s k data) := by
  unfold State.twStage
  repeat' first
    | with_reducible assumption
    | (intro _; intros)
    | with_reducible apply State.modTw_moves
    | split
    | (conv => arg 2; arg 73; skip
       with_reducible apply Moves.mk)

theorem State.twUnstage_moves {s₀ : State} {s : State} {k : Nat} (hm : Moves s₀ s) :
    Moves s₀ (State.twUnstage s k) := by
  unfold State.twUnstage
  repeat' first
    | with_reducible assumption
    | (intro _; intros)
    | with_reducible apply State.modTw_moves
    | split
    | (conv => arg 2; arg 73; skip
       with_reducible apply Moves.mk)

theorem State.twShare_moves {s₀ : State} {s : State} {k : Nat} {e : TwEntry} (hm : Moves s₀ s) :
    Moves s₀ (State.twShare s k e) := by
  unfold State.twShare
  repeat' first
    | with_reducible assumption
    | with_reducible apply State.toPartner_moves
    | split

theorem State.twAccept_moves {s₀ : State} {s : State} {k : Nat} {e : TwEntry} (hm : Moves s₀ s) :
    Moves s₀ (State.twAccept s k e) := by
  unfold State.twAccept
  repeat' first
    | with_reducible assumption
    | (intro _; intros)
    | (extract_lets +onlyGivenNames x; refine (fun (hx : Moves s₀ x) => ?_) ?_; clear_value x; rotate_left; subst x; rotate_right)
    | (extract_lets +onlyGivenNames x; refine (fun (hx : Moves s₀ x.1) => ?_) ?_; clear_value x; rotate_left; subst x; rotate_right)
    | (extract_lets +onlyGivenNames x; first | clear_value x | subst x)
    | with_reducible apply State.modTw_moves
    | with_reducible apply State.showTw_moves
    | with_reducible apply State.twDrain_moves
    | with_reducible apply State.twShare_moves
    | split
    | (conv => arg 2; arg 73; skip
       with_reducible apply Moves.mk)

theorem State.twPush_moves {s₀ : State} {s : State} {k : Nat} {data : Word} (hm : Moves s₀ s) :
    Moves s₀ (State.twPush s k data) := by
  unfold State.twPush
  repeat' first
    | with_reducible assumption
    | (intro _; intros)
    | (extract_lets +onlyGivenNames x; refine (fun (hx : Moves s₀ x) => ?_) ?_; clear_value x; rotate_left; subst x; rotate_right)
    | (extract_lets +onlyGivenNames x; refine (fun (hx : Moves s₀ x.1) => ?_) ?_; clear_value x; rotate_left; subst x; rotate_right)
    | (extract_lets +onlyGivenNames x; first | clear_value x | subst x)
    | with_reducible apply State.conflict_moves
    | with_reducible apply State.twAccept_moves
    | with_reducible apply State.twCount_moves
    | with_reducible apply State.twEvent_moves
    | with_reducible apply State.twUnstage_moves
    | split

theorem State.twPop_moves {s₀ : State} {s : State} {k : Nat} (hm : Moves s₀ s) :
    Moves s₀ (State.twPop s k) := by
  unfold State.twPop
  repeat' first
    | with_reducible assumption
    | (intro _; intros)
    | (extract_lets +onlyGivenNames x; refine (fun (hx : Moves s₀ x) => ?_) ?_; clear_value x; rotate_left; subst x; rotate_right)
    | (extract_lets +onlyGivenNames x; refine (fun (hx : Moves s₀ x.1) => ?_) ?_; clear_value x; rotate_left; subst x; rotate_right)
    | (extract_lets +onlyGivenNames x; first | clear_value x | subst x)
    | with_reducible apply State.modTw_moves
    | with_reducible apply State.showTw_moves
    | with_reducible apply State.twDrain_moves
    | split
    | (conv => arg 2; arg 73; skip
       with_reducible apply Moves.mk)

theorem State.twClearCmd_moves {s₀ : State} {s : State} {k : Nat} {clr : Option Nat} (hm : Moves s₀ s) :
    Moves s₀ (State.twClearCmd s k clr) := by
  unfold State.twClearCmd
  repeat' first
    | with_reducible assumption
    | with_reducible apply State.twAbort_moves
    | with_reducible apply State.twClear_moves
    | split

theorem State.twFlush_moves {s₀ : State} {s : State} {k : Nat} (hm : Moves s₀ s) :
    Moves s₀ (State.twFlush s k) := by
  unfold State.twFlush
  repeat' first
    | with_reducible assumption
    | (intro _; intros)
    | (extract_lets +onlyGivenNames x; refine (fun (hx : Moves s₀ x) => ?_) ?_; clear_value x; rotate_left; subst x; rotate_right)
    | (extract_lets +onlyGivenNames x; refine (fun (hx : Moves s₀ x.1) => ?_) ?_; clear_value x; rotate_left; subst x; rotate_right)
    | (extract_lets +onlyGivenNames x; first | clear_value x | subst x)
    | with_reducible apply moves_foldl
    | with_reducible apply moves_foldl_fst
    | with_reducible apply State.emit_moves
    | with_reducible apply State.modTw_moves
    | with_reducible apply State.showTw_moves
    | with_reducible apply State.twAbort_moves
    | with_reducible apply State.twFinish_moves
    | split
    | (conv => arg 2; arg 73; skip
       with_reducible apply Moves.mk)

theorem State.twAlertPop_moves {s₀ : State} {s : State} {k : Nat} (hm : Moves s₀ s) :
    Moves s₀ (State.twAlertPop s k) := by
  unfold State.twAlertPop
  repeat' first
    | with_reducible assumption
    | (intro _; intros)
    | with_reducible apply State.modTw_moves
    | with_reducible apply State.showTw_moves
    | split
    | (conv => arg 2; arg 73; skip
       with_reducible apply Moves.mk)

theorem State.twCtrl_moves {s₀ : State} {s : State} {k : Nat} {data : Word} {clr : Option Nat} (hm : Moves s₀ s) :
    Moves s₀ (State.twCtrl s k data clr) := by
  unfold State.twCtrl
  repeat' first
    | with_reducible assumption
    | (extract_lets +onlyGivenNames x; refine (fun (hx : Moves s₀ x) => ?_) ?_; clear_value x; rotate_left; subst x; rotate_right)
    | (extract_lets +onlyGivenNames x; refine (fun (hx : Moves s₀ x.1) => ?_) ?_; clear_value x; rotate_left; subst x; rotate_right)
    | (extract_lets +onlyGivenNames x; first | clear_value x | subst x)
    | with_reducible apply State.twAlertPop_moves
    | with_reducible apply State.twClearCmd_moves
    | with_reducible apply State.twFlush_moves
    | with_reducible apply State.twPop_moves
    | split

theorem State.twCtrlFree_moves {s₀ : State} {s : State} {k : Nat} {data : Word} (hm : Moves s₀ s) :
    Moves s₀ (State.twCtrlFree s k data) := by
  unfold State.twCtrlFree
  repeat' first
    | with_reducible assumption
    | (extract_lets +onlyGivenNames x; refine (fun (hx : Moves s₀ x) => ?_) ?_; clear_value x; rotate_left; subst x; rotate_right)
    | (extract_lets +onlyGivenNames x; refine (fun (hx : Moves s₀ x.1) => ?_) ?_; clear_value x; rotate_left; subst x; rotate_right)
    | (extract_lets +onlyGivenNames x; first | clear_value x | subst x)
    | with_reducible apply State.draw_moves
    | with_reducible apply State.twCtrl_moves
    | split

@[simp] theorem execTwWdata_moves {s₀ : State} {i : Initiator} {k : Nat} {data : Word} :
    Answered s₀ (execTwWdata i k data s₀) := by
  have hm := Moves.refl s₀
  refine answered ?_
  repeat' first
    | with_reducible assumption
    | (intro _; intros)
    | with_reducible apply State.swWrite_moves
    | with_reducible apply State.twStage_moves
    | split

@[simp] theorem execTwQcmd_moves {s₀ : State} {i : Initiator} {k : Nat} {data : Word} :
    Answered s₀ (execTwQcmd i k data s₀) := by
  have hm := Moves.refl s₀
  refine answered ?_
  repeat' first
    | with_reducible assumption
    | (intro _; intros)
    | with_reducible apply State.swWrite_moves
    | with_reducible apply State.twPush_moves
    | split

@[simp] theorem execTwPop_moves {s₀ : State} {i : Initiator} {k : Nat} {data : Word} {clr : Option Nat} :
    Answered s₀ (execTwPop i k data clr s₀) := by
  have hm := Moves.refl s₀
  refine answered ?_
  repeat' first
    | with_reducible assumption
    | (intro _; intros)
    | with_reducible apply State.swWrite_moves
    | with_reducible apply State.twCtrl_moves
    | split

@[simp] theorem execTwClear_moves {s₀ : State} {i : Initiator} {k : Nat} {data : Word} {clr : Option Nat} :
    Answered s₀ (execTwClear i k data clr s₀) := by
  have hm := Moves.refl s₀
  refine answered ?_
  repeat' first
    | with_reducible assumption
    | (intro _; intros)
    | with_reducible apply State.swWrite_moves
    | with_reducible apply State.twCtrl_moves
    | split

@[simp] theorem execTwFlush_moves {s₀ : State} {i : Initiator} {k : Nat} {data : Word} {clr : Option Nat} :
    Answered s₀ (execTwFlush i k data clr s₀) := by
  have hm := Moves.refl s₀
  refine answered ?_
  repeat' first
    | with_reducible assumption
    | (intro _; intros)
    | with_reducible apply State.swWrite_moves
    | with_reducible apply State.twCtrl_moves
    | split

@[simp] theorem execTwAlertPop_moves {s₀ : State} {i : Initiator} {k : Nat} {data : Word} {clr : Option Nat} :
    Answered s₀ (execTwAlertPop i k data clr s₀) := by
  have hm := Moves.refl s₀
  refine answered ?_
  repeat' first
    | with_reducible assumption
    | (intro _; intros)
    | with_reducible apply State.swWrite_moves
    | with_reducible apply State.twCtrl_moves
    | split

theorem State.twRdata_moves {s₀ : State} {s : State} {k : Nat} (hm : Moves s₀ s) :
    Moves s₀ (State.twRdata s k).1 := by
  unfold State.twRdata
  repeat' first
    | with_reducible assumption
    | (intro _; intros)
    | (extract_lets +onlyGivenNames x; refine (fun (hx : Moves s₀ x) => ?_) ?_; clear_value x; rotate_left; subst x; rotate_right)
    | (extract_lets +onlyGivenNames x; refine (fun (hx : Moves s₀ x.1) => ?_) ?_; clear_value x; rotate_left; subst x; rotate_right)
    | (extract_lets +onlyGivenNames x; first | clear_value x | subst x)
    | with_reducible apply State.modTw_moves
    | split
    | dsimp only
    | (conv => arg 2; arg 73; skip
       with_reducible apply Moves.mk)

@[simp] theorem execTwRdataRead_moves {s₀ : State} {i : Initiator} {k : Nat} :
    Answered s₀ (execTwRdataRead i k s₀) := by
  have hm := Moves.refl s₀
  refine answered ?_
  repeat' first
    | with_reducible assumption
    | (intro _; intros)
    | with_reducible apply State.swRead_moves
    | with_reducible apply State.twRdata_moves
    | split

theorem State.twStart_moves {s₀ : State} {s : State} {k : Nat} {e : TwEntry} (hm : Moves s₀ s) :
    Moves s₀ (State.twStart s k e) := by
  unfold State.twStart
  repeat' first
    | with_reducible assumption
    | (intro _; intros)
    | (extract_lets +onlyGivenNames x; refine (fun (hx : Moves s₀ x) => ?_) ?_; clear_value x; rotate_left; subst x; rotate_right)
    | (extract_lets +onlyGivenNames x; refine (fun (hx : Moves s₀ x.1) => ?_) ?_; clear_value x; rotate_left; subst x; rotate_right)
    | (extract_lets +onlyGivenNames x; first | clear_value x | subst x)
    | with_reducible apply State.emit_moves
    | with_reducible apply State.modTw_moves
    | with_reducible apply State.setFld_moves
    | with_reducible apply State.showTw_moves
    | split
    | (conv => arg 2; arg 73; skip
       with_reducible apply Moves.mk)

theorem doEntryStart_moves {s₀ : State} {k : Nat} {stopFor : Option Nat} {highFor : Nat} {jam : Option (Option Nat)} {s : State} (hm : Moves s₀ s) :
    Moves s₀ (doEntryStart k stopFor highFor jam s) := by
  unfold doEntryStart
  repeat' first
    | with_reducible assumption
    | (intro _; intros)
    | (extract_lets +onlyGivenNames x; refine (fun (hx : Moves s₀ x) => ?_) ?_; clear_value x; rotate_left; subst x; rotate_right)
    | (extract_lets +onlyGivenNames x; refine (fun (hx : Moves s₀ x.1) => ?_) ?_; clear_value x; rotate_left; subst x; rotate_right)
    | (extract_lets +onlyGivenNames x; first | clear_value x | subst x)
    | with_reducible apply State.modTw_moves
    | with_reducible apply State.setFld_moves
    | with_reducible apply State.toPartner_moves
    | with_reducible apply State.twClear_moves
    | with_reducible apply State.twStart_moves
    | split
    | dsimp only
    | (conv => arg 2; arg 73; skip
       with_reducible apply Moves.mk)

@[simp] theorem execTwEntryStart_moves {s₀ : State} {k : Nat} {stopFor : Option Nat} {highFor : Nat} {jam : Option (Option Nat)} :
    Answered s₀ (execTwEntryStart k stopFor highFor jam s₀) := by
  have hm := Moves.refl s₀
  refine answered ?_
  repeat' first
    | with_reducible assumption
    | with_reducible apply doEntryStart_moves
    | split

theorem doMirrorStart_moves {s₀ : State} {k : Nat} {busFree : Bool} {s : State} (hm : Moves s₀ s) :
    Moves s₀ (doMirrorStart k busFree s) := by
  unfold doMirrorStart
  repeat' first
    | with_reducible assumption
    | (intro _; intros)
    | (extract_lets +onlyGivenNames x; refine (fun (hx : Moves s₀ x) => ?_) ?_; clear_value x; rotate_left; subst x; rotate_right)
    | (extract_lets +onlyGivenNames x; refine (fun (hx : Moves s₀ x.1) => ?_) ?_; clear_value x; rotate_left; subst x; rotate_right)
    | (extract_lets +onlyGivenNames x; first | clear_value x | subst x)
    | with_reducible apply State.modTw_moves
    | with_reducible apply State.twStart_moves
    | split
    | dsimp only
    | (conv => arg 2; arg 73; skip
       with_reducible apply Moves.mk)

@[simp] theorem execTwMirrorStart_moves {s₀ : State} {k : Nat} {busFree : Bool} :
    Answered s₀ (execTwMirrorStart k busFree s₀) := by
  have hm := Moves.refl s₀
  refine answered ?_
  repeat' first
    | with_reducible assumption
    | with_reducible apply doMirrorStart_moves
    | split

theorem State.twSend_moves {s₀ : State} {s : State} {k : Nat} {e : TwEntry} {nackAt : Option Nat} (hm : Moves s₀ s) :
    Moves s₀ (State.twSend s k e nackAt) := by
  unfold State.twSend
  repeat' first
    | with_reducible assumption
    | (intro _; intros)
    | (extract_lets +onlyGivenNames x; refine (fun (hx : Moves s₀ x) => ?_) ?_; clear_value x; rotate_left; subst x; rotate_right)
    | (extract_lets +onlyGivenNames x; refine (fun (hx : Moves s₀ x.1) => ?_) ?_; clear_value x; rotate_left; subst x; rotate_right)
    | (extract_lets +onlyGivenNames x; first | clear_value x | subst x)
    | with_reducible apply State.emit_moves
    | split

theorem doEntryEnd_moves {s₀ : State} {k : Nat} {nackAt : Option Nat} {read : List Nat} {s : State} (hm : Moves s₀ s) :
    Moves s₀ (doEntryEnd k nackAt read s) := by
  unfold doEntryEnd
  repeat' first
    | with_reducible assumption
    | (extract_lets +onlyGivenNames x; refine (fun (hx : Moves s₀ x) => ?_) ?_; clear_value x; rotate_left; subst x; rotate_right)
    | (extract_lets +onlyGivenNames x; refine (fun (hx : Moves s₀ x.1) => ?_) ?_; clear_value x; rotate_left; subst x; rotate_right)
    | (extract_lets +onlyGivenNames x; first | clear_value x | subst x)
    | with_reducible apply State.emit_moves
    | with_reducible apply State.twEnd_moves
    | with_reducible apply State.twSend_moves
    | split
    | dsimp only
    | (conv => arg 2; arg 73; skip
       with_reducible apply Moves.mk)

@[simp] theorem execTwEntryEnd_moves {s₀ : State} {k : Nat} {nackAt : Option Nat} {read : List Nat} :
    Answered s₀ (execTwEntryEnd k nackAt read s₀) := by
  have hm := Moves.refl s₀
  refine answered ?_
  repeat' first
    | with_reducible assumption
    | with_reducible apply doEntryEnd_moves
    | split

theorem State.twRelease_moves {s₀ : State} {s : State} {k : Nat} (hm : Moves s₀ s) :
    Moves s₀ (State.twRelease s k) := by
  unfold State.twRelease
  repeat' first
    | with_reducible assumption
    | with_reducible apply State.emit_moves
    | split

theorem doArbLost_moves {s₀ : State} {k bitpos wcnt : Nat} {read : List Nat} {s : State} (hm : Moves s₀ s) :
    Moves s₀ (doArbLost k bitpos wcnt read s) := by
  unfold doArbLost
  repeat' first
    | with_reducible assumption
    | (intro _; intros)
    | (extract_lets +onlyGivenNames x; refine (fun (hx : Moves s₀ x) => ?_) ?_; clear_value x; rotate_left; subst x; rotate_right)
    | (extract_lets +onlyGivenNames x; refine (fun (hx : Moves s₀ x.1) => ?_) ?_; clear_value x; rotate_left; subst x; rotate_right)
    | (extract_lets +onlyGivenNames x; first | clear_value x | subst x)
    | with_reducible apply State.modTw_moves
    | with_reducible apply State.showTw_moves
    | with_reducible apply State.twCount_moves
    | with_reducible apply State.twEnd_moves
    | with_reducible apply State.twEvent_moves
    | with_reducible apply State.twRelease_moves
    | split
    | dsimp only
    | (conv => arg 2; arg 73; skip
       with_reducible apply Moves.mk)

@[simp] theorem execTwArbLost_moves {s₀ : State} {k bitpos wcnt : Nat} {read : List Nat} :
    Answered s₀ (execTwArbLost k bitpos wcnt read s₀) := by
  have hm := Moves.refl s₀
  refine answered ?_
  repeat' first
    | with_reducible assumption
    | with_reducible apply doArbLost_moves
    | split

@[simp] theorem execTwArbLostSp_moves {s₀ : State} {k wcnt : Nat} {read : List Nat} :
    Answered s₀ (execTwArbLostSp k wcnt read s₀) := by
  have hm := Moves.refl s₀
  refine answered ?_
  repeat' first
    | with_reducible assumption
    | with_reducible apply State.twCount_moves
    | with_reducible apply State.twEnd_moves
    | with_reducible apply State.twRelease_moves
    | split

@[simp] theorem execTwBusError_moves {s₀ : State} {k wcnt : Nat} {read : List Nat} :
    Answered s₀ (execTwBusError k wcnt read s₀) := by
  have hm := Moves.refl s₀
  refine answered ?_
  repeat' first
    | with_reducible assumption
    | with_reducible apply State.twCount_moves
    | with_reducible apply State.twEnd_moves
    | with_reducible apply State.twRelease_moves
    | split

theorem doStretch_moves {s₀ : State} {k wcnt : Nat} {read : List Nat} {high : Bool} {clr : Option Nat} {s : State} (hm : Moves s₀ s) :
    Moves s₀ (doStretch k wcnt read high clr s) := by
  unfold doStretch
  repeat' first
    | with_reducible assumption
    | (intro _; intros)
    | (extract_lets +onlyGivenNames x; refine (fun (hx : Moves s₀ x) => ?_) ?_; clear_value x; rotate_left; subst x; rotate_right)
    | (extract_lets +onlyGivenNames x; refine (fun (hx : Moves s₀ x.1) => ?_) ?_; clear_value x; rotate_left; subst x; rotate_right)
    | (extract_lets +onlyGivenNames x; first | clear_value x | subst x)
    | with_reducible apply State.modTw_moves
    | with_reducible apply State.twClear_moves
    | with_reducible apply State.twEnd_moves
    | with_reducible apply State.twRelease_moves
    | split
    | (conv => arg 2; arg 73; skip
       with_reducible apply Moves.mk)

@[simp] theorem execTwStretchTimeout_moves {s₀ : State} {k wcnt : Nat} {read : List Nat} {high : Bool} {clr : Option Nat} :
    Answered s₀ (execTwStretchTimeout k wcnt read high clr s₀) := by
  have hm := Moves.refl s₀
  refine answered ?_
  repeat' first
    | with_reducible assumption
    | with_reducible apply doStretch_moves
    | split

@[simp] theorem execTwSclStuckLimit_moves {s₀ : State} {k : Nat} :
    Answered s₀ (execTwSclStuckLimit k s₀) := by
  have hm := Moves.refl s₀
  refine answered ?_
  repeat' first
    | with_reducible assumption
    | (intro _; intros)
    | with_reducible apply State.modTw_moves
    | with_reducible apply State.twStuck_moves
    | split
    | dsimp only
    | (conv => arg 2; arg 73; skip
       with_reducible apply Moves.mk)

@[simp] theorem execTwAlertLow_moves {s₀ : State} {k : Nat} :
    Answered s₀ (execTwAlertLow k s₀) := by
  have hm := Moves.refl s₀
  refine answered ?_
  repeat' first
    | with_reducible assumption
    | with_reducible apply State.setFld_moves
    | split

@[simp] theorem execTwAlertRelease_moves {s₀ : State} {k ns : Nat} :
    Answered s₀ (execTwAlertRelease k ns s₀) := by
  have hm := Moves.refl s₀
  refine answered ?_
  repeat' first
    | with_reducible assumption
    | (intro _; intros)
    | (extract_lets +onlyGivenNames x; refine (fun (hx : Moves s₀ x) => ?_) ?_; clear_value x; rotate_left; subst x; rotate_right)
    | (extract_lets +onlyGivenNames x; refine (fun (hx : Moves s₀ x.1) => ?_) ?_; clear_value x; rotate_left; subst x; rotate_right)
    | (extract_lets +onlyGivenNames x; first | clear_value x | subst x)
    | with_reducible apply State.modTw_moves
    | with_reducible apply State.setFld_moves
    | split
    | dsimp only
    | (conv => arg 2; arg 73; skip
       with_reducible apply Moves.mk)

theorem State.araResult_moves {s₀ : State} {s : State} {k : Nat} {ans : Option Nat} (hm : Moves s₀ s) :
    Moves s₀ (State.araResult s k ans) := by
  unfold State.araResult
  repeat' first
    | with_reducible assumption
    | (intro _; intros)
    | (extract_lets +onlyGivenNames x; refine (fun (hx : Moves s₀ x) => ?_) ?_; clear_value x; rotate_left; subst x; rotate_right)
    | (extract_lets +onlyGivenNames x; refine (fun (hx : Moves s₀ x.1) => ?_) ?_; clear_value x; rotate_left; subst x; rotate_right)
    | (extract_lets +onlyGivenNames x; first | clear_value x | subst x)
    | with_reducible apply State.modTw_moves
    | with_reducible apply State.showTw_moves
    | with_reducible apply State.twCount_moves
    | with_reducible apply State.twEvent_moves
    | split
    | dsimp only
    | (conv => arg 2; arg 73; skip
       with_reducible apply Moves.mk)

theorem doAraRead_moves {s₀ : State} {k : Nat} {ans : Option Nat} {lost : Bool} {s : State} (hm : Moves s₀ s) :
    Moves s₀ (doAraRead k ans lost s) := by
  unfold doAraRead
  repeat' first
    | with_reducible assumption
    | (intro _; intros)
    | (extract_lets +onlyGivenNames x; refine (fun (hx : Moves s₀ x) => ?_) ?_; clear_value x; rotate_left; subst x; rotate_right)
    | (extract_lets +onlyGivenNames x; refine (fun (hx : Moves s₀ x.1) => ?_) ?_; clear_value x; rotate_left; subst x; rotate_right)
    | (extract_lets +onlyGivenNames x; first | clear_value x | subst x)
    | with_reducible apply State.araResult_moves
    | with_reducible apply State.emit_moves
    | with_reducible apply State.modTw_moves
    | with_reducible apply State.twCount_moves
    | with_reducible apply State.twEnd_moves
    | with_reducible apply State.twEvent_moves
    | with_reducible apply State.twRelease_moves
    | with_reducible apply State.twShare_moves
    | split
    | dsimp only
    | (conv => arg 2; arg 73; skip
       with_reducible apply Moves.mk)

@[simp] theorem execTwAraRead_moves {s₀ : State} {k : Nat} {ans : Option Nat} {lost : Bool} :
    Answered s₀ (execTwAraRead k ans lost s₀) := by
  have hm := Moves.refl s₀
  refine answered ?_
  repeat' first
    | with_reducible assumption
    | with_reducible apply doAraRead_moves
    | split

theorem doTwinTw_moves {s₀ : State} {s : State} (hm : Moves s₀ s) :
    Moves s₀ (doTwinTw s) := by
  unfold doTwinTw
  repeat' first
    | with_reducible assumption
    | (intro _; intros)
    | (rename _ = ((_ : State), _) => heq; have hk := congrArg Prod.fst heq; dsimp only at hk; subst hk; clear heq)
    | (extract_lets +onlyGivenNames x; refine (fun (hx : Moves s₀ x) => ?_) ?_; clear_value x; rotate_left; subst x; rotate_right)
    | (extract_lets +onlyGivenNames x; refine (fun (hx : Moves s₀ x.1) => ?_) ?_; clear_value x; rotate_left; subst x; rotate_right)
    | (extract_lets +onlyGivenNames x; first | clear_value x | subst x)
    | with_reducible apply State.modTw_moves
    | with_reducible apply State.showTw_moves
    | with_reducible apply State.takeItem_moves
    | with_reducible apply State.twCompare_moves
    | with_reducible apply State.twDeliver_moves
    | split
    | dsimp only
    | (conv => arg 2; arg 73; skip
       with_reducible apply Moves.mk)

@[simp] theorem execTwinTwReceive_moves {s₀ : State}  :
    Answered s₀ (execTwinTwReceive s₀) := by
  have hm := Moves.refl s₀
  refine answered ?_
  repeat' first
    | with_reducible assumption
    | with_reducible apply doTwinTw_moves
    | split

theorem State.twTakeover_moves {s₀ : State} {s : State} {k : Nat} (hm : Moves s₀ s) :
    Moves s₀ (State.twTakeover s k) := by
  unfold State.twTakeover
  repeat' first
    | with_reducible assumption
    | (intro _; intros)
    | (extract_lets +onlyGivenNames x; refine (fun (hx : Moves s₀ x) => ?_) ?_; clear_value x; rotate_left; subst x; rotate_right)
    | (extract_lets +onlyGivenNames x; refine (fun (hx : Moves s₀ x.1) => ?_) ?_; clear_value x; rotate_left; subst x; rotate_right)
    | (extract_lets +onlyGivenNames x; first | clear_value x | subst x)
    | with_reducible apply moves_foldl
    | with_reducible apply moves_foldl_fst
    | with_reducible apply State.modTw_moves
    | with_reducible apply State.showTw_moves
    | with_reducible apply State.twDeliver_moves
    | split
    | (conv => arg 2; arg 73; skip
       with_reducible apply Moves.mk)

theorem doTwReq_moves {s₀ : State} {g : Nat} {s : State} (hm : Moves s₀ s) :
    Moves s₀ (doTwReq g s) := by
  unfold doTwReq
  repeat' first
    | with_reducible assumption
    | (intro _; intros)
    | (rename _ = ((_ : State), _) => heq; have hk := congrArg Prod.fst heq; dsimp only at hk; subst hk; clear heq)
    | (extract_lets +onlyGivenNames x; refine (fun (hx : Moves s₀ x) => ?_) ?_; clear_value x; rotate_left; subst x; rotate_right)
    | (extract_lets +onlyGivenNames x; refine (fun (hx : Moves s₀ x.1) => ?_) ?_; clear_value x; rotate_left; subst x; rotate_right)
    | (extract_lets +onlyGivenNames x; first | clear_value x | subst x)
    | with_reducible apply State.takeItem_moves
    | with_reducible apply State.twAccept_moves
    | with_reducible apply State.twRespond_moves
    | split
    | dsimp only
    | (conv => arg 2; arg 73; skip
       with_reducible apply Moves.mk)

@[simp] theorem execTwReqReceive_moves {s₀ : State} {g : Nat} :
    Answered s₀ (execTwReqReceive g s₀) := by
  have hm := Moves.refl s₀
  refine answered ?_
  repeat' first
    | with_reducible assumption
    | with_reducible apply doTwReq_moves
    | split

theorem State.tunEnd_moves {s₀ : State} {s : State} {tag : Nat} {bytes : List Nat} (hm : Moves s₀ s) :
    Moves s₀ (State.tunEnd s tag bytes) := by
  unfold State.tunEnd
  repeat' first
    | with_reducible assumption
    | (intro _; intros)
    | with_reducible apply State.emit_moves
    | split
    | (conv => arg 2; arg 73; skip
       with_reducible apply Moves.mk)

theorem doTwRsp_moves {s₀ : State} {g : Nat} {s : State} (hm : Moves s₀ s) :
    Moves s₀ (doTwRsp g s) := by
  unfold doTwRsp
  repeat' first
    | with_reducible assumption
    | (intro _; intros)
    | (rename _ = ((_ : State), _) => heq; have hk := congrArg Prod.fst heq; dsimp only at hk; subst hk; clear heq)
    | (extract_lets +onlyGivenNames x; refine (fun (hx : Moves s₀ x) => ?_) ?_; clear_value x; rotate_left; subst x; rotate_right)
    | (extract_lets +onlyGivenNames x; refine (fun (hx : Moves s₀ x.1) => ?_) ?_; clear_value x; rotate_left; subst x; rotate_right)
    | (extract_lets +onlyGivenNames x; first | clear_value x | subst x)
    | with_reducible apply State.count_moves
    | with_reducible apply State.markMalformed_moves
    | with_reducible apply State.setFld_moves
    | with_reducible apply State.takeItem_moves
    | with_reducible apply State.tunEnd_moves
    | split
    | dsimp only
    | (conv => arg 2; arg 73; skip
       with_reducible apply Moves.mk)

@[simp] theorem execTwRspReceive_moves {s₀ : State} {g : Nat} :
    Answered s₀ (execTwRspReceive g s₀) := by
  have hm := Moves.refl s₀
  refine answered ?_
  repeat' first
    | with_reducible assumption
    | with_reducible apply doTwRsp_moves
    | split

theorem doTunTimeout_moves {s₀ : State} {t : Nat} {s : State} (hm : Moves s₀ s) :
    Moves s₀ (doTunTimeout t s) := by
  unfold doTunTimeout
  repeat' first
    | with_reducible assumption
    | (intro _; intros)
    | (extract_lets +onlyGivenNames x; refine (fun (hx : Moves s₀ x) => ?_) ?_; clear_value x; rotate_left; subst x; rotate_right)
    | (extract_lets +onlyGivenNames x; refine (fun (hx : Moves s₀ x.1) => ?_) ?_; clear_value x; rotate_left; subst x; rotate_right)
    | (extract_lets +onlyGivenNames x; first | clear_value x | subst x)
    | with_reducible apply State.count_moves
    | with_reducible apply State.setFld_moves
    | with_reducible apply State.tunEnd_moves
    | split
    | dsimp only
    | (conv => arg 2; arg 73; skip
       with_reducible apply Moves.mk)

@[simp] theorem execTunTimeout_moves {s₀ : State} {t : Nat} :
    Answered s₀ (execTunTimeout t s₀) := by
  have hm := Moves.refl s₀
  refine answered ?_
  repeat' first
    | with_reducible assumption
    | with_reducible apply doTunTimeout_moves
    | split

theorem State.tunLost_moves {s₀ : State} {s : State} {g : Nat} (hm : Moves s₀ s) :
    Moves s₀ (State.tunLost s g) := by
  unfold State.tunLost
  repeat' first
    | with_reducible assumption
    | (intro _; intros)
    | with_reducible apply moves_foldl
    | with_reducible apply moves_foldl_fst
    | with_reducible apply State.tunEnd_moves
    | split

theorem State.tgtAlert_moves {s₀ : State} {s : State} {v : Bool} (hm : Moves s₀ s) :
    Moves s₀ (State.tgtAlert s v) := by
  unfold State.tgtAlert
  repeat' first
    | with_reducible assumption
    | (extract_lets +onlyGivenNames x; refine (fun (hx : Moves s₀ x) => ?_) ?_; clear_value x; rotate_left; subst x; rotate_right)
    | (extract_lets +onlyGivenNames x; refine (fun (hx : Moves s₀ x.1) => ?_) ?_; clear_value x; rotate_left; subst x; rotate_right)
    | (extract_lets +onlyGivenNames x; first | clear_value x | subst x)
    | with_reducible apply State.emit_moves
    | with_reducible apply State.setFld_moves
    | split

theorem State.tw8Ctrl_moves {s₀ : State} {s : State} {data : Word} (hm : Moves s₀ s) :
    Moves s₀ (State.tw8Ctrl s data) := by
  unfold State.tw8Ctrl
  repeat' first
    | with_reducible assumption
    | with_reducible apply State.tgtAlert_moves
    | split

@[simp] theorem execTw8Alert_moves {s₀ : State} {i : Initiator} {data : Word} :
    Answered s₀ (execTw8Alert i data s₀) := by
  have hm := Moves.refl s₀
  refine answered ?_
  repeat' first
    | with_reducible assumption
    | (intro _; intros)
    | with_reducible apply State.swWrite_moves
    | with_reducible apply State.tw8Ctrl_moves
    | split

@[simp] theorem execTw8AlertCancel_moves {s₀ : State} {i : Initiator} {data : Word} :
    Answered s₀ (execTw8AlertCancel i data s₀) := by
  have hm := Moves.refl s₀
  refine answered ?_
  repeat' first
    | with_reducible assumption
    | (intro _; intros)
    | with_reducible apply State.swWrite_moves
    | with_reducible apply State.tw8Ctrl_moves
    | split

@[simp] theorem execTw8AraAnswer_moves {s₀ : State} {lost : Bool} :
    Answered s₀ (execTw8AraAnswer lost s₀) := by
  have hm := Moves.refl s₀
  refine answered ?_
  repeat' first
    | with_reducible assumption
    | with_reducible apply State.emit_moves
    | with_reducible apply State.tgtAlert_moves
    | split

@[simp] theorem execTw8Violation_moves {s₀ : State}  :
    Answered s₀ (execTw8Violation s₀) := by
  have hm := Moves.refl s₀
  refine answered ?_
  repeat' first
    | with_reducible assumption
    | with_reducible apply State.count_moves
    | with_reducible apply State.setFld_moves
    | split

end Sys2Proof.Machine
end

