-- ==== Sys2Proof/Laws/MovesTwinState.lean ====
section
/-! SUPPORT. What the operations of Machine/TwinState.lean can do to the memories, the register file, the key slots and the queue: moves, and nothing
else. -/

namespace Sys2Proof.Machine

theorem State.modTrain_moves {s₀ : State} {s : State} {g : Nat} {f : TrainSt → TrainSt} (hm : Moves s₀ s) :
    Moves s₀ (State.modTrain s g f) := by
  unfold State.modTrain
  repeat' first
    | with_reducible assumption
    | (intro _; intros)
    | with_reducible apply State.modGrp_moves
    | split
    | (conv => arg 2; arg 73; skip
       with_reducible apply Moves.mk)

theorem State.setGrp_moves {s₀ : State} {s : State} {g st : Nat} (hm : Moves s₀ s) :
    Moves s₀ (State.setGrp s g st) := by
  unfold State.setGrp
  repeat' first
    | with_reducible assumption
    | (intro _; intros)
    | (extract_lets +onlyGivenNames x; refine (fun (hx : Moves s₀ x) => ?_) ?_; clear_value x; rotate_left; subst x; rotate_right)
    | (extract_lets +onlyGivenNames x; refine (fun (hx : Moves s₀ x.1) => ?_) ?_; clear_value x; rotate_left; subst x; rotate_right)
    | (extract_lets +onlyGivenNames x; first | clear_value x | subst x)
    | with_reducible apply State.entered_moves
    | with_reducible apply State.modTrain_moves
    | with_reducible apply State.setFld_moves
    | split
    | (conv => arg 2; arg 73; skip
       with_reducible apply Moves.mk)

theorem State.fullTraining_moves {s₀ : State} {s : State} {g : Nat} (hm : Moves s₀ s) :
    Moves s₀ (State.fullTraining s g) := by
  unfold State.fullTraining
  repeat' first
    | with_reducible assumption
    | (intro _; intros)
    | (extract_lets +onlyGivenNames x; refine (fun (hx : Moves s₀ x) => ?_) ?_; clear_value x; rotate_left; subst x; rotate_right)
    | (extract_lets +onlyGivenNames x; refine (fun (hx : Moves s₀ x.1) => ?_) ?_; clear_value x; rotate_left; subst x; rotate_right)
    | (extract_lets +onlyGivenNames x; first | clear_value x | subst x)
    | with_reducible apply State.modTrain_moves
    | with_reducible apply State.setFld_moves
    | with_reducible apply State.setGrp_moves
    | with_reducible apply State.setReg_moves
    | split
    | (conv => arg 2; arg 73; skip
       with_reducible apply Moves.mk)

theorem State.wakeGroup_moves {s₀ : State} {s : State} {g : Nat} (hm : Moves s₀ s) :
    Moves s₀ (State.wakeGroup s g) := by
  unfold State.wakeGroup
  repeat' first
    | with_reducible assumption
    | with_reducible apply State.fullTraining_moves
    | split

theorem State.twinEvent_moves {s₀ : State} {s : State} {f : Fld} (hm : Moves s₀ s) :
    Moves s₀ (State.twinEvent s f) := by
  unfold State.twinEvent
  repeat' first
    | with_reducible assumption
    | with_reducible apply State.setFld_moves
    | split

theorem State.sendState_moves {s₀ : State} {s : State} (hm : Moves s₀ s) :
    Moves s₀ (State.sendState s) := by
  unfold State.sendState
  repeat' first
    | with_reducible assumption
    | with_reducible apply State.toPartner_moves
    | split

theorem State.sendLead_moves {s₀ : State} {s : State} (hm : Moves s₀ s) :
    Moves s₀ (State.sendLead s) := by
  unfold State.sendLead
  repeat' first
    | with_reducible assumption
    | (intro _; intros)
    | (extract_lets +onlyGivenNames x; refine (fun (hx : Moves s₀ x) => ?_) ?_; clear_value x; rotate_left; subst x; rotate_right)
    | (extract_lets +onlyGivenNames x; refine (fun (hx : Moves s₀ x.1) => ?_) ?_; clear_value x; rotate_left; subst x; rotate_right)
    | (extract_lets +onlyGivenNames x; first | clear_value x | subst x)
    | with_reducible apply moves_foldl
    | with_reducible apply moves_foldl_fst
    | with_reducible apply State.sendItem_moves
    | split
    | (conv => arg 2; arg 73; skip
       with_reducible apply Moves.mk)

theorem State.unterminate_moves {s₀ : State} {s : State} {n : Nat} (hm : Moves s₀ s) :
    Moves s₀ (State.unterminate s n) := by
  unfold State.unterminate
  repeat' first
    | with_reducible assumption
    | (intro _; intros)
    | with_reducible apply State.modPort_moves
    | with_reducible apply State.setFld_moves
    | split
    | (conv => arg 2; arg 73; skip
       with_reducible apply Moves.mk)

theorem State.portsOff_moves {s₀ : State} {s : State} (hm : Moves s₀ s) :
    Moves s₀ (State.portsOff s) := by
  unfold State.portsOff
  repeat' first
    | with_reducible assumption
    | (intro _; intros)
    | with_reducible apply moves_foldl
    | with_reducible apply moves_foldl_fst
    | with_reducible apply State.haltPort_moves
    | with_reducible apply State.unterminate_moves
    | split

theorem State.releaseShared_moves {s₀ : State} {s : State} (hm : Moves s₀ s) :
    Moves s₀ (State.releaseShared s) := by
  unfold State.releaseShared
  repeat' first
    | with_reducible assumption
    | (intro _; intros)
    | (extract_lets +onlyGivenNames x; refine (fun (hx : Moves s₀ x) => ?_) ?_; clear_value x; rotate_left; subst x; rotate_right)
    | (extract_lets +onlyGivenNames x; refine (fun (hx : Moves s₀ x.1) => ?_) ?_; clear_value x; rotate_left; subst x; rotate_right)
    | (extract_lets +onlyGivenNames x; first | clear_value x | subst x)
    | with_reducible apply moves_foldl
    | with_reducible apply moves_foldl_fst
    | with_reducible apply State.emit_moves
    | with_reducible apply State.unterminate_moves
    | split

theorem State.driveShared_moves {s₀ : State} {s : State} {takeover : Bool} (hm : Moves s₀ s) :
    Moves s₀ (State.driveShared s takeover) := by
  unfold State.driveShared
  repeat' first
    | with_reducible assumption
    | (intro _; intros)
    | (extract_lets +onlyGivenNames x; refine (fun (hx : Moves s₀ x) => ?_) ?_; clear_value x; rotate_left; subst x; rotate_right)
    | (extract_lets +onlyGivenNames x; refine (fun (hx : Moves s₀ x.1) => ?_) ?_; clear_value x; rotate_left; subst x; rotate_right)
    | (extract_lets +onlyGivenNames x; first | clear_value x | subst x)
    | with_reducible apply moves_foldl
    | with_reducible apply moves_foldl_fst
    | with_reducible apply State.modPort_moves
    | with_reducible apply State.setTerm_moves
    | with_reducible apply State.strobePin_moves
    | split
    | (conv => arg 2; arg 73; skip
       with_reducible apply Moves.mk)

theorem State.setTwin_moves {s₀ : State} {s : State} {st : Nat} (hm : Moves s₀ s) :
    Moves s₀ (State.setTwin s st) := by
  unfold State.setTwin
  repeat' first
    | with_reducible assumption
    | (extract_lets +onlyGivenNames x; refine (fun (hx : Moves s₀ x) => ?_) ?_; clear_value x; rotate_left; subst x; rotate_right)
    | (extract_lets +onlyGivenNames x; refine (fun (hx : Moves s₀ x.1) => ?_) ?_; clear_value x; rotate_left; subst x; rotate_right)
    | (extract_lets +onlyGivenNames x; first | clear_value x | subst x)
    | with_reducible apply State.driveShared_moves
    | with_reducible apply State.releaseShared_moves
    | with_reducible apply State.sendLead_moves
    | with_reducible apply State.sendState_moves
    | with_reducible apply State.setFld_moves
    | with_reducible apply State.showRoot_moves
    | with_reducible apply State.wakeGroup_moves
    | split
    | (conv => arg 2; arg 73; skip
       with_reducible apply Moves.mk)

theorem State.enterAdmit_moves {s₀ : State} {s : State} (hm : Moves s₀ s) :
    Moves s₀ (State.enterAdmit s) := by
  unfold State.enterAdmit
  repeat' first
    | with_reducible assumption
    | (intro _; intros)
    | (extract_lets +onlyGivenNames x; refine (fun (hx : Moves s₀ x) => ?_) ?_; clear_value x; rotate_left; subst x; rotate_right)
    | (extract_lets +onlyGivenNames x; refine (fun (hx : Moves s₀ x.1) => ?_) ?_; clear_value x; rotate_left; subst x; rotate_right)
    | (extract_lets +onlyGivenNames x; first | clear_value x | subst x)
    | with_reducible apply moves_foldl
    | with_reducible apply moves_foldl_fst
    | with_reducible apply State.modStream_moves
    | with_reducible apply State.setTwin_moves
    | split
    | (conv => arg 2; arg 73; skip
       with_reducible apply Moves.mk)

theorem State.admitFail_moves {s₀ : State} {s : State} (hm : Moves s₀ s) :
    Moves s₀ (State.admitFail s) := by
  unfold State.admitFail
  repeat' first
    | with_reducible assumption
    | with_reducible apply State.log_moves
    | with_reducible apply State.setTwin_moves
    | with_reducible apply State.twinEvent_moves
    | split

theorem State.twinElect_moves {s₀ : State} {s : State} (hm : Moves s₀ s) :
    Moves s₀ (State.twinElect s) := by
  unfold State.twinElect
  repeat' first
    | with_reducible assumption
    | with_reducible apply State.enterAdmit_moves
    | with_reducible apply State.setTwin_moves
    | split
    | dsimp only
    | (conv => arg 2; arg 73; skip
       with_reducible apply Moves.mk)

theorem State.fixTake_moves {s₀ : State} {s : State} {t0 cause : Nat} (hm : Moves s₀ s) :
    Moves s₀ (State.fixTake s t0 cause) := by
  unfold State.fixTake
  repeat' first
    | with_reducible assumption
    | split
    | dsimp only
    | (conv => arg 2; arg 73; skip
       with_reducible apply Moves.mk)

theorem State.partnerLost_moves {s₀ : State} {s : State} (hm : Moves s₀ s) :
    Moves s₀ (State.partnerLost s) := by
  unfold State.partnerLost
  repeat' first
    | with_reducible assumption
    | (extract_lets +onlyGivenNames x; refine (fun (hx : Moves s₀ x) => ?_) ?_; clear_value x; rotate_left; subst x; rotate_right)
    | (extract_lets +onlyGivenNames x; refine (fun (hx : Moves s₀ x.1) => ?_) ?_; clear_value x; rotate_left; subst x; rotate_right)
    | (extract_lets +onlyGivenNames x; first | clear_value x | subst x)
    | with_reducible apply State.admitFail_moves
    | with_reducible apply State.count_moves
    | with_reducible apply State.fixTake_moves
    | with_reducible apply State.setTwin_moves
    | with_reducible apply State.twinEvent_moves
    | split
    | dsimp only
    | (conv => arg 2; arg 73; skip
       with_reducible apply Moves.mk)

end Sys2Proof.Machine
end

