-- ==== Sys2Proof/Laws/MovesLanes.lean ====
section
/-! SUPPORT. What the operations of Machine/Lanes.lean can do to the memories, the register file, the key slots and the queue: moves, and nothing
else. -/

namespace Sys2Proof.Machine

theorem State.groupLost_moves {s₀ : State} {s : State} {g : Nat} (hm : Moves s₀ s) :
    Moves s₀ (State.groupLost s g) := by
  unfold State.groupLost
  repeat' first
    | with_reducible assumption
    | (intro _; intros)
    | (extract_lets +onlyGivenNames x; refine (fun (hx : Moves s₀ x) => ?_) ?_; clear_value x; rotate_left; subst x; rotate_right)
    | (extract_lets +onlyGivenNames x; refine (fun (hx : Moves s₀ x.1) => ?_) ?_; clear_value x; rotate_left; subst x; rotate_right)
    | (extract_lets +onlyGivenNames x; first | clear_value x | subst x)
    | with_reducible apply moves_foldl
    | with_reducible apply moves_foldl_fst
    | with_reducible apply State.count_moves
    | with_reducible apply State.modGrp_moves
    | with_reducible apply State.modSync_moves
    | with_reducible apply State.perrLog_moves
    | with_reducible apply State.remLost_moves
    | with_reducible apply State.setFld_moves
    | with_reducible apply State.tunLost_moves
    | split
    | (conv => arg 2; arg 73; skip
       with_reducible apply Moves.mk)

theorem State.groupFailed_moves {s₀ : State} {s : State} {g : Nat} (hm : Moves s₀ s) :
    Moves s₀ (State.groupFailed s g) := by
  unfold State.groupFailed
  repeat' first
    | with_reducible assumption
    | (intro _; intros)
    | (extract_lets +onlyGivenNames x; refine (fun (hx : Moves s₀ x) => ?_) ?_; clear_value x; rotate_left; subst x; rotate_right)
    | (extract_lets +onlyGivenNames x; refine (fun (hx : Moves s₀ x.1) => ?_) ?_; clear_value x; rotate_left; subst x; rotate_right)
    | (extract_lets +onlyGivenNames x; first | clear_value x | subst x)
    | with_reducible apply State.count_moves
    | with_reducible apply State.groupLost_moves
    | with_reducible apply State.modTrain_moves
    | with_reducible apply State.raiseError_moves
    | with_reducible apply State.setFld_moves
    | with_reducible apply State.setGrp_moves
    | split

theorem State.groupHeld_moves {s₀ : State} {s : State} {g : Nat} (hm : Moves s₀ s) :
    Moves s₀ (State.groupHeld s g) := by
  unfold State.groupHeld
  repeat' first
    | with_reducible assumption
    | with_reducible apply State.count_moves
    | with_reducible apply State.groupLost_moves
    | with_reducible apply State.setGrp_moves
    | split

theorem State.sendTs_moves {s₀ : State} {s : State} {g typ : Nat} (hm : Moves s₀ s) :
    Moves s₀ (State.sendTs s g typ) := by
  unfold State.sendTs
  repeat' first
    | with_reducible assumption
    | (intro _; intros)
    | (extract_lets +onlyGivenNames x; refine (fun (hx : Moves s₀ x) => ?_) ?_; clear_value x; rotate_left; subst x; rotate_right)
    | (extract_lets +onlyGivenNames x; refine (fun (hx : Moves s₀ x.1) => ?_) ?_; clear_value x; rotate_left; subst x; rotate_right)
    | (extract_lets +onlyGivenNames x; first | clear_value x | subst x)
    | with_reducible apply State.orderedSet_moves
    | split

theorem State.groupUp_moves {s₀ : State} {s : State} {g : Nat} {fresh : Bool} (hm : Moves s₀ s) :
    Moves s₀ (State.groupUp s g fresh) := by
  unfold State.groupUp
  repeat' first
    | with_reducible assumption
    | (intro _; intros)
    | (extract_lets +onlyGivenNames x; refine (fun (hx : Moves s₀ x) => ?_) ?_; clear_value x; rotate_left; subst x; rotate_right)
    | (extract_lets +onlyGivenNames x; refine (fun (hx : Moves s₀ x.1) => ?_) ?_; clear_value x; rotate_left; subst x; rotate_right)
    | (extract_lets +onlyGivenNames x; first | clear_value x | subst x)
    | with_reducible apply moves_foldl
    | with_reducible apply moves_foldl_fst
    | with_reducible apply State.count_moves
    | with_reducible apply State.modTrain_moves
    | with_reducible apply State.pump_moves
    | with_reducible apply State.replayCounted_moves
    | with_reducible apply State.sendCtl_moves
    | with_reducible apply State.sendState_moves
    | with_reducible apply State.setFld_moves
    | with_reducible apply State.setGrp_moves
    | with_reducible apply State.setReg_moves
    | with_reducible apply State.twinElect_moves
    | split
    | (conv => arg 2; arg 73; skip
       with_reducible apply Moves.mk)

theorem State.groupRetrain_moves {s₀ : State} {s : State} {g : Nat} (hm : Moves s₀ s) :
    Moves s₀ (State.groupRetrain s g) := by
  unfold State.groupRetrain
  repeat' first
    | with_reducible assumption
    | (intro _; intros)
    | (extract_lets +onlyGivenNames x; refine (fun (hx : Moves s₀ x) => ?_) ?_; clear_value x; rotate_left; subst x; rotate_right)
    | (extract_lets +onlyGivenNames x; refine (fun (hx : Moves s₀ x.1) => ?_) ?_; clear_value x; rotate_left; subst x; rotate_right)
    | (extract_lets +onlyGivenNames x; first | clear_value x | subst x)
    | with_reducible apply State.count_moves
    | with_reducible apply State.modTrain_moves
    | with_reducible apply State.sendTs_moves
    | with_reducible apply State.setFld_moves
    | with_reducible apply State.setGrp_moves
    | split
    | (conv => arg 2; arg 73; skip
       with_reducible apply Moves.mk)

@[simp] theorem execLnkPllLock_moves {s₀ : State} {g : Nat} :
    Answered s₀ (execLnkPllLock g s₀) := by
  have hm := Moves.refl s₀
  refine answered ?_
  repeat' first
    | with_reducible assumption
    | with_reducible apply State.sendTs_moves
    | with_reducible apply State.setFld_moves
    | with_reducible apply State.setGrp_moves
    | split

theorem State.pairFails_moves {s₀ : State} {s : State} (hm : Moves s₀ s) :
    Moves s₀ (State.pairFails s) := by
  unfold State.pairFails
  repeat' first
    | with_reducible assumption
    | with_reducible apply State.portsOff_moves
    | with_reducible apply State.setTwin_moves
    | split

theorem doTs1Config_moves {s₀ : State} {g who rate : Nat} {lanes : List TsLane} {s : State} (hm : Moves s₀ s) :
    Moves s₀ (doTs1Config g who rate lanes s) := by
  unfold doTs1Config
  repeat' first
    | with_reducible assumption
    | (intro _; intros)
    | (extract_lets +onlyGivenNames x; refine (fun (hx : Moves s₀ x) => ?_) ?_; clear_value x; rotate_left; subst x; rotate_right)
    | (extract_lets +onlyGivenNames x; refine (fun (hx : Moves s₀ x.1) => ?_) ?_; clear_value x; rotate_left; subst x; rotate_right)
    | (extract_lets +onlyGivenNames x; first | clear_value x | subst x)
    | with_reducible apply State.groupHeld_moves
    | with_reducible apply State.log_moves
    | with_reducible apply State.modTrain_moves
    | with_reducible apply State.pairFails_moves
    | with_reducible apply State.sendTs_moves
    | with_reducible apply State.setFld_moves
    | with_reducible apply State.setGrp_moves
    | with_reducible apply State.setReg_moves
    | split
    | dsimp only
    | (conv => arg 2; arg 73; skip
       with_reducible apply Moves.mk)

theorem State.eqEnds_moves {s₀ : State} {s : State} {g : Nat} (hm : Moves s₀ s) :
    Moves s₀ (State.eqEnds s g) := by
  unfold State.eqEnds
  repeat' first
    | with_reducible assumption
    | (extract_lets +onlyGivenNames x; refine (fun (hx : Moves s₀ x) => ?_) ?_; clear_value x; rotate_left; subst x; rotate_right)
    | (extract_lets +onlyGivenNames x; refine (fun (hx : Moves s₀ x.1) => ?_) ?_; clear_value x; rotate_left; subst x; rotate_right)
    | (extract_lets +onlyGivenNames x; first | clear_value x | subst x)
    | with_reducible apply State.sendTs_moves
    | with_reducible apply State.setGrp_moves
    | split

theorem doEqSet_moves {s₀ : State} {g flags : Nat} {lanes : List TsLane} {s : State} (hm : Moves s₀ s) :
    Moves s₀ (doEqSet g flags lanes s) := by
  unfold doEqSet
  repeat' first
    | with_reducible assumption
    | (intro _; intros)
    | (extract_lets +onlyGivenNames x; refine (fun (hx : Moves s₀ x) => ?_) ?_; clear_value x; rotate_left; subst x; rotate_right)
    | (extract_lets +onlyGivenNames x; refine (fun (hx : Moves s₀ x.1) => ?_) ?_; clear_value x; rotate_left; subst x; rotate_right)
    | (extract_lets +onlyGivenNames x; first | clear_value x | subst x)
    | with_reducible apply moves_foldl
    | with_reducible apply moves_foldl_fst
    | with_reducible apply State.eqEnds_moves
    | with_reducible apply State.modTrain_moves
    | with_reducible apply State.sendTs_moves
    | with_reducible apply State.setFld_moves
    | split
    | dsimp only
    | (conv => arg 2; arg 73; skip
       with_reducible apply Moves.mk)

theorem State.fixPolarity_moves {s₀ : State} {s : State} {g : Nat} {lanes : List TsLane} (hm : Moves s₀ s) :
    Moves s₀ (State.fixPolarity s g lanes).1 := by
  unfold State.fixPolarity
  repeat' first
    | with_reducible assumption
    | (intro _; intros)
    | (extract_lets +onlyGivenNames x; refine (fun (hx : Moves s₀ x) => ?_) ?_; clear_value x; rotate_left; subst x; rotate_right)
    | (extract_lets +onlyGivenNames x; refine (fun (hx : Moves s₀ x.1) => ?_) ?_; clear_value x; rotate_left; subst x; rotate_right)
    | (extract_lets +onlyGivenNames x; first | clear_value x | subst x)
    | with_reducible apply moves_foldl
    | with_reducible apply moves_foldl_fst
    | with_reducible apply State.setFld_moves
    | split
    | dsimp only

theorem State.breakRun_moves {s₀ : State} {s : State} {g : Nat} (hm : Moves s₀ s) :
    Moves s₀ (State.breakRun s g) := by
  unfold State.breakRun
  repeat' first
    | with_reducible assumption
    | (intro _; intros)
    | with_reducible apply State.modTrain_moves
    | split
    | (conv => arg 2; arg 73; skip
       with_reducible apply Moves.mk)

theorem doTs1_moves {s₀ : State} {g who rate flags : Nat} {lanes : List TsLane} {s : State} (hm : Moves s₀ s) :
    Moves s₀ (doTs1 g who rate flags lanes s) := by
  unfold doTs1
  repeat' first
    | with_reducible assumption
    | (intro _; intros)
    | (rename _ = ((_ : State), _) => heq; have hk := congrArg Prod.fst heq; dsimp only at hk; subst hk; clear heq)
    | (extract_lets +onlyGivenNames x; refine (fun (hx : Moves s₀ x) => ?_) ?_; clear_value x; rotate_left; subst x; rotate_right)
    | (extract_lets +onlyGivenNames x; refine (fun (hx : Moves s₀ x.1) => ?_) ?_; clear_value x; rotate_left; subst x; rotate_right)
    | (extract_lets +onlyGivenNames x; first | clear_value x | subst x)
    | with_reducible apply State.breakRun_moves
    | with_reducible apply doEqSet_moves
    | with_reducible apply doTs1Config_moves
    | with_reducible apply State.fixPolarity_moves
    | with_reducible apply State.groupRetrain_moves
    | with_reducible apply State.groupUp_moves
    | with_reducible apply State.modTrain_moves
    | with_reducible apply State.sendTs_moves
    | with_reducible apply State.setGrp_moves
    | split
    | dsimp only
    | (conv => arg 2; arg 73; skip
       with_reducible apply Moves.mk)

@[simp] theorem execTs1Receive_moves {s₀ : State} {g who rate flags : Nat} {lanes : List TsLane} :
    Answered s₀ (execTs1Receive g who rate flags lanes s₀) := by
  have hm := Moves.refl s₀
  refine answered ?_
  repeat' first
    | with_reducible assumption
    | with_reducible apply doTs1_moves
    | split

theorem doTs2_moves {s₀ : State} {g : Nat} {s : State} (hm : Moves s₀ s) :
    Moves s₀ (doTs2 g s) := by
  unfold doTs2
  repeat' first
    | with_reducible assumption
    | (intro _; intros)
    | (extract_lets +onlyGivenNames x; refine (fun (hx : Moves s₀ x) => ?_) ?_; clear_value x; rotate_left; subst x; rotate_right)
    | (extract_lets +onlyGivenNames x; refine (fun (hx : Moves s₀ x.1) => ?_) ?_; clear_value x; rotate_left; subst x; rotate_right)
    | (extract_lets +onlyGivenNames x; first | clear_value x | subst x)
    | with_reducible apply moves_foldl
    | with_reducible apply moves_foldl_fst
    | with_reducible apply State.breakRun_moves
    | with_reducible apply State.groupUp_moves
    | with_reducible apply State.modTrain_moves
    | with_reducible apply State.orderedSet_moves
    | with_reducible apply State.sendTs_moves
    | with_reducible apply State.setGrp_moves
    | split
    | (conv => arg 2; arg 73; skip
       with_reducible apply Moves.mk)

@[simp] theorem execTs2Receive_moves {s₀ : State} {g who rate flags : Nat} {lanes : List TsLane} :
    Answered s₀ (execTs2Receive g who rate flags lanes s₀) := by
  have hm := Moves.refl s₀
  refine answered ?_
  repeat' first
    | with_reducible assumption
    | with_reducible apply doTs2_moves
    | split

theorem doIdent_moves {s₀ : State} {n : Nat} {data : Word} {s : State} (hm : Moves s₀ s) :
    Moves s₀ (doIdent n data s) := by
  unfold doIdent
  repeat' first
    | with_reducible assumption
    | (intro _; intros)
    | (extract_lets +onlyGivenNames x; refine (fun (hx : Moves s₀ x) => ?_) ?_; clear_value x; rotate_left; subst x; rotate_right)
    | (extract_lets +onlyGivenNames x; refine (fun (hx : Moves s₀ x.1) => ?_) ?_; clear_value x; rotate_left; subst x; rotate_right)
    | (extract_lets +onlyGivenNames x; first | clear_value x | subst x)
    | with_reducible apply State.groupHeld_moves
    | with_reducible apply State.groupUp_moves
    | with_reducible apply State.log_moves
    | with_reducible apply State.modTrain_moves
    | with_reducible apply State.pairFails_moves
    | with_reducible apply State.setFld_moves
    | split
    | (conv => arg 2; arg 73; skip
       with_reducible apply Moves.mk)

@[simp] theorem execIdentReceive_moves {s₀ : State} {n : Nat} {data : Word} :
    Answered s₀ (execIdentReceive n data s₀) := by
  have hm := Moves.refl s₀
  refine answered ?_
  repeat' first
    | with_reducible assumption
    | with_reducible apply doIdent_moves
    | split

@[simp] theorem execLnkTrainTimeout_moves {s₀ : State} {g : Nat} :
    Answered s₀ (execLnkTrainTimeout g s₀) := by
  have hm := Moves.refl s₀
  refine answered ?_
  repeat' first
    | with_reducible assumption
    | (intro _; intros)
    | with_reducible apply State.entered_moves
    | with_reducible apply State.groupFailed_moves
    | split

@[simp] theorem execLnkFailedIdleEnd_moves {s₀ : State} {g : Nat} :
    Answered s₀ (execLnkFailedIdleEnd g s₀) := by
  have hm := Moves.refl s₀
  refine answered ?_
  repeat' first
    | with_reducible assumption
    | with_reducible apply State.entered_moves
    | with_reducible apply State.fullTraining_moves
    | split

theorem State.setLaneEq_moves {s₀ : State} {s : State} {g l : Nat} {v : Nat × Nat × Nat} (hm : Moves s₀ s) :
    Moves s₀ (State.setLaneEq s g l v) := by
  unfold State.setLaneEq
  repeat' first
    | with_reducible assumption
    | (extract_lets +onlyGivenNames x; refine (fun (hx : Moves s₀ x) => ?_) ?_; clear_value x; rotate_left; subst x; rotate_right)
    | (extract_lets +onlyGivenNames x; refine (fun (hx : Moves s₀ x.1) => ?_) ?_; clear_value x; rotate_left; subst x; rotate_right)
    | (extract_lets +onlyGivenNames x; first | clear_value x | subst x)
    | with_reducible apply State.setFld_moves
    | split

theorem doSpeedLock_moves {s₀ : State} {g : Nat} {s : State} (hm : Moves s₀ s) :
    Moves s₀ (doSpeedLock g s) := by
  unfold doSpeedLock
  repeat' first
    | with_reducible assumption
    | (intro _; intros)
    | (extract_lets +onlyGivenNames x; refine (fun (hx : Moves s₀ x) => ?_) ?_; clear_value x; rotate_left; subst x; rotate_right)
    | (extract_lets +onlyGivenNames x; refine (fun (hx : Moves s₀ x.1) => ?_) ?_; clear_value x; rotate_left; subst x; rotate_right)
    | (extract_lets +onlyGivenNames x; first | clear_value x | subst x)
    | with_reducible apply moves_foldl
    | with_reducible apply moves_foldl_fst
    | with_reducible apply State.modTrain_moves
    | with_reducible apply State.sendTs_moves
    | with_reducible apply State.setGrp_moves
    | with_reducible apply State.setLaneEq_moves
    | split
    | (conv => arg 2; arg 73; skip
       with_reducible apply Moves.mk)

@[simp] theorem execLnkSpeedLock_moves {s₀ : State} {g : Nat} :
    Answered s₀ (execLnkSpeedLock g s₀) := by
  have hm := Moves.refl s₀
  refine answered ?_
  repeat' first
    | with_reducible assumption
    | with_reducible apply doSpeedLock_moves
    | split

theorem State.eqBetter_moves {s₀ : State} {s : State} {g : Nat} {best : Nat × Nat} {i margin : Nat} (hm : Moves s₀ s) :
    Moves s₀ (State.eqBetter s g best i margin).1 := by
  unfold State.eqBetter
  repeat' first
    | with_reducible assumption
    | (extract_lets +onlyGivenNames x; refine (fun (hx : Moves s₀ x) => ?_) ?_; clear_value x; rotate_left; subst x; rotate_right)
    | (extract_lets +onlyGivenNames x; refine (fun (hx : Moves s₀ x.1) => ?_) ?_; clear_value x; rotate_left; subst x; rotate_right)
    | (extract_lets +onlyGivenNames x; first | clear_value x | subst x)
    | with_reducible apply State.draw_moves
    | split
    | dsimp only

theorem doEqMeasure_moves {s₀ : State} {g l margin : Nat} {s : State} (hm : Moves s₀ s) :
    Moves s₀ (doEqMeasure g l margin s) := by
  unfold doEqMeasure
  repeat' first
    | with_reducible assumption
    | (intro _; intros)
    | (extract_lets +onlyGivenNames x; refine (fun (hx : Moves s₀ x) => ?_) ?_; clear_value x; rotate_left; subst x; rotate_right)
    | (extract_lets +onlyGivenNames x; refine (fun (hx : Moves s₀ x.1) => ?_) ?_; clear_value x; rotate_left; subst x; rotate_right)
    | (extract_lets +onlyGivenNames x; first | clear_value x | subst x)
    | with_reducible apply State.eqBetter_moves
    | with_reducible apply State.eqEnds_moves
    | with_reducible apply State.modTrain_moves
    | with_reducible apply State.sendTs_moves
    | with_reducible apply State.setFld_moves
    | with_reducible apply State.setLaneEq_moves
    | split
    | (conv => arg 2; arg 73; skip
       with_reducible apply Moves.mk)

@[simp] theorem execEqMeasureDone_moves {s₀ : State} {g l margin : Nat} :
    Answered s₀ (execEqMeasureDone g l margin s₀) := by
  have hm := Moves.refl s₀
  refine answered ?_
  repeat' first
    | with_reducible assumption
    | with_reducible apply doEqMeasure_moves
    | split

theorem State.laneErrors_moves {s₀ : State} {s : State} {g l n : Nat} (hm : Moves s₀ s) :
    Moves s₀ (State.laneErrors s g l n) := by
  unfold State.laneErrors
  repeat' first
    | with_reducible assumption
    | with_reducible apply State.countN_moves
    | split

@[simp] theorem execSymbolLockLoss_moves {s₀ : State} {g l errs : Nat} :
    Answered s₀ (execSymbolLockLoss g l errs s₀) := by
  have hm := Moves.refl s₀
  refine answered ?_
  repeat' first
    | with_reducible assumption
    | (extract_lets +onlyGivenNames x; refine (fun (hx : Moves s₀ x) => ?_) ?_; clear_value x; rotate_left; subst x; rotate_right)
    | (extract_lets +onlyGivenNames x; refine (fun (hx : Moves s₀ x.1) => ?_) ?_; clear_value x; rotate_left; subst x; rotate_right)
    | (extract_lets +onlyGivenNames x; first | clear_value x | subst x)
    | with_reducible apply State.count_moves
    | with_reducible apply State.groupRetrain_moves
    | with_reducible apply State.laneErrors_moves
    | split
    | dsimp only

theorem doErrorWindow_moves {s₀ : State} {g : Nat} {errs : List Nat} {s : State} (hm : Moves s₀ s) :
    Moves s₀ (doErrorWindow g errs s) := by
  unfold doErrorWindow
  repeat' first
    | with_reducible assumption
    | (intro _; intros)
    | (extract_lets +onlyGivenNames x; refine (fun (hx : Moves s₀ x) => ?_) ?_; clear_value x; rotate_left; subst x; rotate_right)
    | (extract_lets +onlyGivenNames x; refine (fun (hx : Moves s₀ x.1) => ?_) ?_; clear_value x; rotate_left; subst x; rotate_right)
    | (extract_lets +onlyGivenNames x; first | clear_value x | subst x)
    | with_reducible apply moves_foldl
    | with_reducible apply moves_foldl_fst
    | with_reducible apply State.groupRetrain_moves
    | with_reducible apply State.laneErrors_moves
    | with_reducible apply State.modTrain_moves
    | split
    | (conv => arg 2; arg 73; skip
       with_reducible apply Moves.mk)

@[simp] theorem execErrorWindowExpiry_moves {s₀ : State} {g : Nat} {errs : List Nat} :
    Answered s₀ (execErrorWindowExpiry g errs s₀) := by
  have hm := Moves.refl s₀
  refine answered ?_
  repeat' first
    | with_reducible assumption
    | with_reducible apply doErrorWindow_moves
    | split

theorem State.lnkCtrl_moves {s₀ : State} {s : State} {g : Nat} {data : Word} (hm : Moves s₀ s) :
    Moves s₀ (State.lnkCtrl s g data) := by
  unfold State.lnkCtrl
  repeat' first
    | with_reducible assumption
    | (intro _; intros)
    | (extract_lets +onlyGivenNames x; refine (fun (hx : Moves s₀ x) => ?_) ?_; clear_value x; rotate_left; subst x; rotate_right)
    | (extract_lets +onlyGivenNames x; refine (fun (hx : Moves s₀ x.1) => ?_) ?_; clear_value x; rotate_left; subst x; rotate_right)
    | (extract_lets +onlyGivenNames x; first | clear_value x | subst x)
    | with_reducible apply State.fullTraining_moves
    | with_reducible apply State.groupLost_moves
    | with_reducible apply State.groupRetrain_moves
    | with_reducible apply State.groupUp_moves
    | with_reducible apply State.modTrain_moves
    | with_reducible apply State.orderedSet_moves
    | with_reducible apply State.setFld_moves
    | with_reducible apply State.setGrp_moves
    | with_reducible apply State.wakeGroup_moves
    | split
    | dsimp only
    | (conv => arg 2; arg 73; skip
       with_reducible apply Moves.mk)

@[simp] theorem execLnkRetrain_moves {s₀ : State} {i : Initiator} {g : Nat} {data : Word} :
    Answered s₀ (execLnkRetrain i g data s₀) := by
  have hm := Moves.refl s₀
  refine answered ?_
  repeat' first
    | with_reducible assumption
    | (intro _; intros)
    | with_reducible apply State.lnkCtrl_moves
    | with_reducible apply State.swWrite_moves
    | split

@[simp] theorem execLnkHold_moves {s₀ : State} {i : Initiator} {g : Nat} {data : Word} :
    Answered s₀ (execLnkHold i g data s₀) := by
  have hm := Moves.refl s₀
  refine answered ?_
  repeat' first
    | with_reducible assumption
    | (intro _; intros)
    | with_reducible apply State.lnkCtrl_moves
    | with_reducible apply State.swWrite_moves
    | split

@[simp] theorem execLnkFull_moves {s₀ : State} {i : Initiator} {g : Nat} {data : Word} :
    Answered s₀ (execLnkFull i g data s₀) := by
  have hm := Moves.refl s₀
  refine answered ?_
  repeat' first
    | with_reducible assumption
    | (intro _; intros)
    | with_reducible apply State.lnkCtrl_moves
    | with_reducible apply State.swWrite_moves
    | split

theorem State.lpEnter_moves {s₀ : State} {s : State} {g : Nat} (hm : Moves s₀ s) :
    Moves s₀ (State.lpEnter s g) := by
  unfold State.lpEnter
  repeat' first
    | with_reducible assumption
    | (intro _; intros)
    | (extract_lets +onlyGivenNames x; refine (fun (hx : Moves s₀ x) => ?_) ?_; clear_value x; rotate_left; subst x; rotate_right)
    | (extract_lets +onlyGivenNames x; refine (fun (hx : Moves s₀ x.1) => ?_) ?_; clear_value x; rotate_left; subst x; rotate_right)
    | (extract_lets +onlyGivenNames x; first | clear_value x | subst x)
    | with_reducible apply moves_foldl
    | with_reducible apply moves_foldl_fst
    | with_reducible apply State.count_moves
    | with_reducible apply State.orderedSet_moves
    | with_reducible apply State.setGrp_moves
    | split

theorem State.lpRequest_moves {s₀ : State} {s : State} {g st : Nat} (hm : Moves s₀ s) :
    Moves s₀ (State.lpRequest s g st) := by
  unfold State.lpRequest
  repeat' first
    | with_reducible assumption
    | (intro _; intros)
    | with_reducible apply State.lpEnter_moves
    | with_reducible apply State.modTrain_moves
    | with_reducible apply State.orderedSet_moves
    | split
    | (conv => arg 2; arg 73; skip
       with_reducible apply Moves.mk)

theorem State.lpExit_moves {s₀ : State} {s : State} {g : Nat} (hm : Moves s₀ s) :
    Moves s₀ (State.lpExit s g) := by
  unfold State.lpExit
  repeat' first
    | with_reducible assumption
    | (intro _; intros)
    | with_reducible apply State.groupUp_moves
    | with_reducible apply State.modTrain_moves
    | with_reducible apply State.orderedSet_moves
    | with_reducible apply State.setGrp_moves
    | split
    | dsimp only
    | (conv => arg 2; arg 73; skip
       with_reducible apply Moves.mk)

theorem doLpe_moves {s₀ : State} {g req : Nat} {s : State} (hm : Moves s₀ s) :
    Moves s₀ (doLpe g req s) := by
  unfold doLpe
  repeat' first
    | with_reducible assumption
    | (intro _; intros)
    | with_reducible apply State.lpEnter_moves
    | with_reducible apply State.modTrain_moves
    | split
    | (conv => arg 2; arg 73; skip
       with_reducible apply Moves.mk)

@[simp] theorem execLpeReceive_moves {s₀ : State} {g req : Nat} :
    Answered s₀ (execLpeReceive g req s₀) := by
  have hm := Moves.refl s₀
  refine answered ?_
  repeat' first
    | with_reducible assumption
    | with_reducible apply doLpe_moves
    | split

theorem State.packetWakes_moves {s₀ : State} {s : State} {g : Nat} {p : LinkPkt} (hm : Moves s₀ s) :
    Moves s₀ (State.packetWakes s g p) := by
  unfold State.packetWakes
  repeat' first
    | with_reducible assumption
    | (intro _; intros)
    | with_reducible apply State.groupUp_moves
    | with_reducible apply State.modTrain_moves
    | split
    | (conv => arg 2; arg 73; skip
       with_reducible apply Moves.mk)

@[simp] theorem execLinkPacketReceive_moves {s₀ : State} {g : Nat} {p : LinkPkt} {good edb : Bool} {buf : Ecc} :
    Answered s₀ (execLinkPacketReceive g p good edb buf s₀) := by
  have hm := Moves.refl s₀
  refine answered ?_
  repeat' first
    | with_reducible assumption
    | with_reducible apply doPacket_moves
    | with_reducible apply State.packetWakes_moves
    | split

theorem doWakeSet_moves {s₀ : State} {g : Nat} {s : State} (hm : Moves s₀ s) :
    Moves s₀ (doWakeSet g s) := by
  unfold doWakeSet
  repeat' first
    | with_reducible assumption
    | (intro _; intros)
    | with_reducible apply State.groupUp_moves
    | with_reducible apply State.modTrain_moves
    | with_reducible apply State.orderedSet_moves
    | split
    | dsimp only
    | (conv => arg 2; arg 73; skip
       with_reducible apply Moves.mk)

@[simp] theorem execWakeSetReceive_moves {s₀ : State} {g : Nat} :
    Answered s₀ (execWakeSetReceive g s₀) := by
  have hm := Moves.refl s₀
  refine answered ?_
  repeat' first
    | with_reducible assumption
    | with_reducible apply doWakeSet_moves
    | split

theorem State.refShaken_moves {s₀ : State} {s : State} (hm : Moves s₀ s) :
    Moves s₀ (State.refShaken s) := by
  unfold State.refShaken
  repeat' first
    | with_reducible assumption
    | (intro _; intros)
    | with_reducible apply moves_foldl
    | with_reducible apply moves_foldl_fst
    | with_reducible apply State.fullTraining_moves
    | with_reducible apply State.groupRetrain_moves
    | with_reducible apply State.groupUp_moves
    | with_reducible apply State.modTrain_moves
    | with_reducible apply State.setGrp_moves
    | split
    | dsimp only
    | (conv => arg 2; arg 73; skip
       with_reducible apply Moves.mk)

theorem doRefLoss_moves {s₀ : State} {okL ok0 ok1 : Bool} {s : State} (hm : Moves s₀ s) :
    Moves s₀ (doRefLoss okL ok0 ok1 s) := by
  unfold doRefLoss
  repeat' first
    | with_reducible assumption
    | (extract_lets +onlyGivenNames x; refine (fun (hx : Moves s₀ x) => ?_) ?_; clear_value x; rotate_left; subst x; rotate_right)
    | (extract_lets +onlyGivenNames x; refine (fun (hx : Moves s₀ x.1) => ?_) ?_; clear_value x; rotate_left; subst x; rotate_right)
    | (extract_lets +onlyGivenNames x; first | clear_value x | subst x)
    | with_reducible apply State.refShaken_moves
    | with_reducible apply State.setFld_moves
    | split
    | dsimp only
    | (conv => arg 2; arg 73; skip
       with_reducible apply Moves.mk)

@[simp] theorem execLinkRefLoss_moves {s₀ : State} {okL ok0 ok1 : Bool} :
    Answered s₀ (execLinkRefLoss okL ok0 ok1 s₀) := by
  have hm := Moves.refl s₀
  refine answered ?_
  repeat' first
    | with_reducible assumption
    | with_reducible apply doRefLoss_moves
    | split

end Sys2Proof.Machine
end

