-- ==== Sys2Proof/Laws/MovesLodge.lean ====
section
/-! SUPPORT. What the operations of Machine/Lodge.lean can do to the memories, the register file, the key slots and the queue: moves, and nothing
else. -/

namespace Sys2Proof.Machine

theorem State.modLodge_moves {s₀ : State} {s : State} {f : LodgeSt → LodgeSt} (hm : Moves s₀ s) :
    Moves s₀ (State.modLodge s f) := by
  unfold State.modLodge
  repeat' first
    | with_reducible assumption
    | split
    | (conv => arg 2; arg 73; skip
       with_reducible apply Moves.mk)

theorem State.setFc_moves {s₀ : State} {s : State} {st : Nat} (hm : Moves s₀ s) :
    Moves s₀ (State.setFc s st) := by
  unfold State.setFc
  repeat' first
    | with_reducible assumption
    | with_reducible apply State.setFld_moves
    | split

theorem State.fcEvent_moves {s₀ : State} {s : State} {f : Fld} (hm : Moves s₀ s) :
    Moves s₀ (State.fcEvent s f) := by
  unfold State.fcEvent
  repeat' first
    | with_reducible assumption
    | with_reducible apply State.setFld_moves
    | split

theorem State.faultPin_moves {s₀ : State} {s old : State} (hm : Moves s₀ s) :
    Moves s₀ (State.faultPin s old) := by
  unfold State.faultPin
  repeat' first
    | with_reducible assumption
    | with_reducible apply State.emit_moves
    | with_reducible apply State.wiresFrom_moves
    | split

theorem State.clearUnit_moves {s₀ : State} {s : State} {kind n : Nat} (hm : Moves s₀ s) :
    Moves s₀ (State.clearUnit s kind n) := by
  unfold State.clearUnit
  repeat' first
    | with_reducible assumption
    | (intro _; intros)
    | (extract_lets +onlyGivenNames x; refine (fun (hx : Moves s₀ x) => ?_) ?_; clear_value x; rotate_left; subst x; rotate_right)
    | (extract_lets +onlyGivenNames x; refine (fun (hx : Moves s₀ x.1) => ?_) ?_; clear_value x; rotate_left; subst x; rotate_right)
    | (extract_lets +onlyGivenNames x; first | clear_value x | subst x)
    | with_reducible apply moves_foldl
    | with_reducible apply moves_foldl_fst
    | with_reducible apply State.emptyUnit_moves
    | with_reducible apply State.sendTo_moves
    | with_reducible apply State.showRing_moves
    | split
    | dsimp only
    | (conv => arg 2; arg 73; skip
       with_reducible apply Moves.mk)

theorem State.twReset_moves {s₀ : State} {s : State} {k : Nat} (hm : Moves s₀ s) :
    Moves s₀ (State.twReset s k) := by
  unfold State.twReset
  repeat' first
    | with_reducible assumption
    | (intro _; intros)
    | (extract_lets +onlyGivenNames x; refine (fun (hx : Moves s₀ x) => ?_) ?_; clear_value x; rotate_left; subst x; rotate_right)
    | (extract_lets +onlyGivenNames x; refine (fun (hx : Moves s₀ x.1) => ?_) ?_; clear_value x; rotate_left; subst x; rotate_right)
    | (extract_lets +onlyGivenNames x; first | clear_value x | subst x)
    | with_reducible apply State.modTw_moves
    | with_reducible apply State.setFld_moves
    | with_reducible apply State.showTw_moves
    | with_reducible apply State.twRelease_moves
    | split

theorem State.blockReset_moves {s₀ : State} {s : State} {source index : Nat} (hm : Moves s₀ s) :
    Moves s₀ (State.blockReset s source index) := by
  unfold State.blockReset
  repeat' first
    | with_reducible assumption
    | (intro _; intros)
    | with_reducible apply moves_foldl
    | with_reducible apply moves_foldl_fst
    | with_reducible apply State.dmaStop_moves
    | with_reducible apply State.fullTraining_moves
    | with_reducible apply State.twReset_moves
    | split

theorem State.unitReset_moves {s₀ : State} {s : State} {source index : Nat} (hm : Moves s₀ s) :
    Moves s₀ (State.unitReset s source index) := by
  unfold State.unitReset
  repeat' first
    | with_reducible assumption
    | (intro _; intros)
    | (extract_lets +onlyGivenNames x; refine (fun (hx : Moves s₀ x) => ?_) ?_; clear_value x; rotate_left; subst x; rotate_right)
    | (extract_lets +onlyGivenNames x; refine (fun (hx : Moves s₀ x.1) => ?_) ?_; clear_value x; rotate_left; subst x; rotate_right)
    | (extract_lets +onlyGivenNames x; first | clear_value x | subst x)
    | with_reducible apply moves_foldl
    | with_reducible apply moves_foldl_fst
    | with_reducible apply State.blockReset_moves
    | with_reducible apply State.clearUnit_moves
    | with_reducible apply State.count_moves
    | with_reducible apply State.modEntry_moves
    | with_reducible apply State.setFld_moves
    | split
    | dsimp only
    | (conv => arg 2; arg 73; skip
       with_reducible apply Moves.mk)

theorem State.stopStream_moves {s₀ : State} {s : State} {ch tile : Nat} (hm : Moves s₀ s) :
    Moves s₀ (State.stopStream s ch tile) := by
  unfold State.stopStream
  repeat' first
    | with_reducible assumption
    | (intro _; intros)
    | (extract_lets +onlyGivenNames x; refine (fun (hx : Moves s₀ x) => ?_) ?_; clear_value x; rotate_left; subst x; rotate_right)
    | (extract_lets +onlyGivenNames x; refine (fun (hx : Moves s₀ x.1) => ?_) ?_; clear_value x; rotate_left; subst x; rotate_right)
    | (extract_lets +onlyGivenNames x; first | clear_value x | subst x)
    | with_reducible apply State.fcEvent_moves
    | with_reducible apply State.modLodge_moves
    | with_reducible apply State.modStream_moves
    | with_reducible apply State.setBit_moves
    | split
    | (conv => arg 2; arg 73; skip
       with_reducible apply Moves.mk)

theorem State.affect_moves {s₀ : State} {s : State} {kind n ch : Nat} (hm : Moves s₀ s) :
    Moves s₀ (State.affect s kind n ch) := by
  unfold State.affect
  repeat' first
    | with_reducible assumption
    | (intro _; intros)
    | (extract_lets +onlyGivenNames x; refine (fun (hx : Moves s₀ x) => ?_) ?_; clear_value x; rotate_left; subst x; rotate_right)
    | (extract_lets +onlyGivenNames x; refine (fun (hx : Moves s₀ x.1) => ?_) ?_; clear_value x; rotate_left; subst x; rotate_right)
    | (extract_lets +onlyGivenNames x; first | clear_value x | subst x)
    | with_reducible apply State.modLodge_moves
    | with_reducible apply State.stopStream_moves
    | with_reducible apply State.truncateDoc_moves
    | split
    | dsimp only
    | (conv => arg 2; arg 73; skip
       with_reducible apply Moves.mk)

theorem State.fence_moves {s₀ : State} {s : State} {source index : Nat} (hm : Moves s₀ s) :
    Moves s₀ (State.fence s source index) := by
  unfold State.fence
  repeat' first
    | with_reducible assumption
    | (intro _; intros)
    | (extract_lets +onlyGivenNames x; refine (fun (hx : Moves s₀ x) => ?_) ?_; clear_value x; rotate_left; subst x; rotate_right)
    | (extract_lets +onlyGivenNames x; refine (fun (hx : Moves s₀ x.1) => ?_) ?_; clear_value x; rotate_left; subst x; rotate_right)
    | (extract_lets +onlyGivenNames x; first | clear_value x | subst x)
    | with_reducible apply moves_foldl
    | with_reducible apply moves_foldl_fst
    | with_reducible apply State.affect_moves
    | with_reducible apply State.clearUnit_moves
    | with_reducible apply State.setBit_moves
    | with_reducible apply State.setFld_moves
    | with_reducible apply State.stopPort_moves
    | with_reducible apply State.stopStream_moves
    | split
    | dsimp only
    | (conv => arg 2; arg 73; skip
       with_reducible apply Moves.mk)

theorem doSpareLoad_moves {s₀ : State} {ch k n : Nat} {s : State} (hm : Moves s₀ s) :
    Moves s₀ (doSpareLoad ch k n s) := by
  unfold doSpareLoad
  repeat' first
    | with_reducible assumption
    | (intro _; intros)
    | (extract_lets +onlyGivenNames x; refine (fun (hx : Moves s₀ x) => ?_) ?_; clear_value x; rotate_left; subst x; rotate_right)
    | (extract_lets +onlyGivenNames x; refine (fun (hx : Moves s₀ x.1) => ?_) ?_; clear_value x; rotate_left; subst x; rotate_right)
    | (extract_lets +onlyGivenNames x; first | clear_value x | subst x)
    | with_reducible apply moves_foldl
    | with_reducible apply moves_foldl_fst
    | with_reducible apply State.loadWrite_moves
    | with_reducible apply State.modLodge_moves
    | split
    | dsimp only
    | (conv => arg 2; arg 73; skip
       with_reducible apply Moves.mk)

@[simp] theorem execSpareLoadDone_moves {s₀ : State} {ch k n : Nat} :
    Answered s₀ (execSpareLoadDone ch k n s₀) := by
  have hm := Moves.refl s₀
  refine answered ?_
  repeat' first
    | with_reducible assumption
    | with_reducible apply doSpareLoad_moves
    | split

theorem State.twDropEntry_moves {s₀ : State} {s : State} {k : Nat} (hm : Moves s₀ s) :
    Moves s₀ (State.twDropEntry s k) := by
  unfold State.twDropEntry
  repeat' first
    | with_reducible assumption
    | (intro _; intros)
    | with_reducible apply State.modTw_moves
    | with_reducible apply State.showTw_moves
    | with_reducible apply State.twAbort_moves
    | split
    | (conv => arg 2; arg 73; skip
       with_reducible apply Moves.mk)

theorem State.releaseAll_moves {s₀ : State} {s : State} (hm : Moves s₀ s) :
    Moves s₀ (State.releaseAll s) := by
  unfold State.releaseAll
  repeat' first
    | with_reducible assumption
    | (intro _; intros)
    | (extract_lets +onlyGivenNames x; refine (fun (hx : Moves s₀ x) => ?_) ?_; clear_value x; rotate_left; subst x; rotate_right)
    | (extract_lets +onlyGivenNames x; refine (fun (hx : Moves s₀ x.1) => ?_) ?_; clear_value x; rotate_left; subst x; rotate_right)
    | (extract_lets +onlyGivenNames x; first | clear_value x | subst x)
    | with_reducible apply moves_foldl
    | with_reducible apply moves_foldl_fst
    | with_reducible apply State.dmaStop_moves
    | with_reducible apply State.emit_moves
    | with_reducible apply State.stopPort_moves
    | with_reducible apply State.twDropEntry_moves
    | with_reducible apply State.unterminate_moves
    | split

theorem State.sendTake_moves {s₀ : State} {s : State} {t0 cause : Nat} (hm : Moves s₀ s) :
    Moves s₀ (State.sendTake s t0 cause) := by
  unfold State.sendTake
  repeat' first
    | with_reducible assumption
    | with_reducible apply State.toPartner_moves
    | split

theorem State.deviceLevel_moves {s₀ s : State} (hm : Moves s₀ s) : Moves s₀ s.deviceLevel := by
  unfold State.deviceLevel
  dsimp only
  generalize hu : ((s.setFc 2).fcEvent Fld.FC_EVENT_FAULT).modLodge _ = u
  have h2 : Moves s₀ u := hu ▸ State.modLodge_moves (State.fcEvent_moves (State.setFc_moves hm))
  split
  · apply State.sendTake_moves
    with_reducible apply Moves.mk
    have hp := moves_foldl (f := fun (s : State) n => if (s.port.get n).running then s.haltPort n else s) (l := List.range 16)
      (fun v n hv => by
        split
        · exact State.haltPort_moves hv
        · exact hv)
      h2
    split
    · exact State.releaseAll_moves hp
    · exact hp
  · split
    · exact State.releaseAll_moves (Moves.mk h2)
    · exact State.setTwin_moves (State.releaseAll_moves (Moves.mk h2))

theorem State.lodgeCorrected_moves {s₀ : State} {s : State} {source : Nat} (hm : Moves s₀ s) :
    Moves s₀ (State.lodgeCorrected s source) := by
  unfold State.lodgeCorrected
  repeat' first
    | with_reducible assumption
    | (intro _; intros)
    | (extract_lets +onlyGivenNames x; refine (fun (hx : Moves s₀ x) => ?_) ?_; clear_value x; rotate_left; subst x; rotate_right)
    | (extract_lets +onlyGivenNames x; refine (fun (hx : Moves s₀ x.1) => ?_) ?_; clear_value x; rotate_left; subst x; rotate_right)
    | (extract_lets +onlyGivenNames x; first | clear_value x | subst x)
    | with_reducible apply State.count_moves
    | with_reducible apply State.fcEvent_moves
    | with_reducible apply State.log_moves
    | with_reducible apply State.modLodge_moves
    | with_reducible apply State.setBit_moves
    | split
    | (conv => arg 2; arg 73; skip
       with_reducible apply Moves.mk)

theorem State.lodgeError_moves {s₀ : State} {s : State} {source index : Nat} (hm : Moves s₀ s) :
    Moves s₀ (State.lodgeError s source index) := by
  unfold State.lodgeError
  repeat' first
    | with_reducible assumption
    | (intro _; intros)
    | (extract_lets +onlyGivenNames x; refine (fun (hx : Moves s₀ x) => ?_) ?_; clear_value x; rotate_left; subst x; rotate_right)
    | (extract_lets +onlyGivenNames x; refine (fun (hx : Moves s₀ x.1) => ?_) ?_; clear_value x; rotate_left; subst x; rotate_right)
    | (extract_lets +onlyGivenNames x; first | clear_value x | subst x)
    | with_reducible apply State.count_moves
    | with_reducible apply State.deviceLevel_moves
    | with_reducible apply State.faultPin_moves
    | with_reducible apply State.fcEvent_moves
    | with_reducible apply State.fence_moves
    | with_reducible apply State.lodgeCorrected_moves
    | with_reducible apply State.log_moves
    | with_reducible apply State.modLodge_moves
    | with_reducible apply State.setBit_moves
    | with_reducible apply State.setFc_moves
    | with_reducible apply State.setFld_moves
    | split
    | dsimp only
    | (conv => arg 2; arg 73; skip
       with_reducible apply Moves.mk)

theorem State.takeSig_moves {s₀ : State} {s : State} {sig : LodgeSig} {act : State → State} (h_act : ∀ x0, Moves s₀ x0 → Moves s₀ (act x0)) (hm : Moves s₀ s) :
    Moves s₀ (State.takeSig s sig act) := by
  unfold State.takeSig
  repeat' first
    | with_reducible assumption
    | (intro _; intros)
    | with_reducible apply h_act
    | with_reducible apply State.modLodge_moves
    | split
    | (conv => arg 2; arg 73; skip
       with_reducible apply Moves.mk)

@[simp] theorem execLodgeErrorSignal_moves {s₀ : State} {source index : Nat} :
    Answered s₀ (execLodgeErrorSignal source index s₀) := by
  have hm := Moves.refl s₀
  refine answered ?_
  repeat' first
    | with_reducible assumption
    | (intro _; intros)
    | with_reducible apply State.lodgeError_moves
    | with_reducible apply State.takeSig_moves
    | split

@[simp] theorem execLodgeCorrectedSignal_moves {s₀ : State} {source index : Nat} :
    Answered s₀ (execLodgeCorrectedSignal source index s₀) := by
  have hm := Moves.refl s₀
  refine answered ?_
  repeat' first
    | with_reducible assumption
    | (intro _; intros)
    | with_reducible apply State.lodgeCorrected_moves
    | with_reducible apply State.takeSig_moves
    | split

theorem State.fcAck_moves {s₀ : State} {s : State} {data : Word} (hm : Moves s₀ s) :
    Moves s₀ (State.fcAck s data) := by
  unfold State.fcAck
  repeat' first
    | with_reducible assumption
    | (intro _; intros)
    | (extract_lets +onlyGivenNames x; refine (fun (hx : Moves s₀ x) => ?_) ?_; clear_value x; rotate_left; subst x; rotate_right)
    | (extract_lets +onlyGivenNames x; refine (fun (hx : Moves s₀ x.1) => ?_) ?_; clear_value x; rotate_left; subst x; rotate_right)
    | (extract_lets +onlyGivenNames x; first | clear_value x | subst x)
    | with_reducible apply State.count_moves
    | with_reducible apply State.fcEvent_moves
    | with_reducible apply State.log_moves
    | with_reducible apply State.modLodge_moves
    | with_reducible apply State.setFc_moves
    | split
    | (conv => arg 2; arg 73; skip
       with_reducible apply Moves.mk)

@[simp] theorem execFcAck_moves {s₀ : State} {i : Initiator} {data : Word} :
    Answered s₀ (execFcAck i data s₀) := by
  have hm := Moves.refl s₀
  refine answered ?_
  repeat' first
    | with_reducible assumption
    | (intro _; intros)
    | with_reducible apply State.fcAck_moves
    | with_reducible apply State.swWrite_moves
    | split

@[simp] theorem execEscalationTimeout_moves {s₀ : State}  :
    Answered s₀ (execEscalationTimeout s₀) := by
  have hm := Moves.refl s₀
  refine answered ?_
  repeat' first
    | with_reducible assumption
    | (intro _; intros)
    | with_reducible apply State.deviceLevel_moves
    | with_reducible apply State.fcEvent_moves
    | split

theorem State.unfence_moves {s₀ : State} {s : State} {kind n : Nat} (hm : Moves s₀ s) :
    Moves s₀ (State.unfence s kind n) := by
  unfold State.unfence
  repeat' first
    | with_reducible assumption
    | (intro _; intros)
    | (extract_lets +onlyGivenNames x; refine (fun (hx : Moves s₀ x) => ?_) ?_; clear_value x; rotate_left; subst x; rotate_right)
    | (extract_lets +onlyGivenNames x; refine (fun (hx : Moves s₀ x.1) => ?_) ?_; clear_value x; rotate_left; subst x; rotate_right)
    | (extract_lets +onlyGivenNames x; first | clear_value x | subst x)
    | with_reducible apply State.modLodge_moves
    | with_reducible apply State.putBit_moves
    | split
    | (conv => arg 2; arg 73; skip
       with_reducible apply Moves.mk)

theorem State.unfencePort_moves {s₀ : State} {s : State} {n : Nat} (hm : Moves s₀ s) :
    Moves s₀ (State.unfencePort s n) := by
  unfold State.unfencePort
  repeat' first
    | with_reducible assumption
    | (intro _; intros)
    | (extract_lets +onlyGivenNames x; refine (fun (hx : Moves s₀ x) => ?_) ?_; clear_value x; rotate_left; subst x; rotate_right)
    | (extract_lets +onlyGivenNames x; refine (fun (hx : Moves s₀ x.1) => ?_) ?_; clear_value x; rotate_left; subst x; rotate_right)
    | (extract_lets +onlyGivenNames x; first | clear_value x | subst x)
    | with_reducible apply State.modLodge_moves
    | with_reducible apply State.putBit_moves
    | with_reducible apply State.startPort_moves
    | split
    | (conv => arg 2; arg 73; skip
       with_reducible apply Moves.mk)

theorem doQuiet_moves {s₀ : State} {s : State} (hm : Moves s₀ s) :
    Moves s₀ (doQuiet s) := by
  unfold doQuiet
  repeat' first
    | with_reducible assumption
    | (intro _; intros)
    | (extract_lets +onlyGivenNames x; refine (fun (hx : Moves s₀ x) => ?_) ?_; clear_value x; rotate_left; subst x; rotate_right)
    | (extract_lets +onlyGivenNames x; refine (fun (hx : Moves s₀ x.1) => ?_) ?_; clear_value x; rotate_left; subst x; rotate_right)
    | (extract_lets +onlyGivenNames x; first | clear_value x | subst x)
    | with_reducible apply moves_foldl
    | with_reducible apply moves_foldl_fst
    | with_reducible apply State.count_moves
    | with_reducible apply State.fcEvent_moves
    | with_reducible apply State.log_moves
    | with_reducible apply State.modLodge_moves
    | with_reducible apply State.setFc_moves
    | with_reducible apply State.setTwin_moves
    | with_reducible apply State.strobePin_moves
    | with_reducible apply State.unfence_moves
    | with_reducible apply State.unfencePort_moves
    | with_reducible apply State.unitReset_moves
    | split
    | dsimp only
    | (conv => arg 2; arg 73; skip
       with_reducible apply Moves.mk)

@[simp] theorem execQuietTimerExpiry_moves {s₀ : State}  :
    Answered s₀ (execQuietTimerExpiry s₀) := by
  have hm := Moves.refl s₀
  refine answered ?_
  repeat' first
    | with_reducible assumption
    | with_reducible apply doQuiet_moves
    | split

theorem State.fcRevive_moves {s₀ : State} {s : State} {data : Word} (hm : Moves s₀ s) :
    Moves s₀ (State.fcRevive s data) := by
  unfold State.fcRevive
  repeat' first
    | with_reducible assumption
    | (extract_lets +onlyGivenNames x; refine (fun (hx : Moves s₀ x) => ?_) ?_; clear_value x; rotate_left; subst x; rotate_right)
    | (extract_lets +onlyGivenNames x; refine (fun (hx : Moves s₀ x.1) => ?_) ?_; clear_value x; rotate_left; subst x; rotate_right)
    | (extract_lets +onlyGivenNames x; first | clear_value x | subst x)
    | with_reducible apply State.fcEvent_moves
    | with_reducible apply State.unfence_moves
    | with_reducible apply State.unfencePort_moves
    | with_reducible apply State.unitReset_moves
    | split
    | dsimp only
    | (conv => arg 2; arg 73; skip
       with_reducible apply Moves.mk)

@[simp] theorem execFcRevive_moves {s₀ : State} {i : Initiator} {data : Word} :
    Answered s₀ (execFcRevive i data s₀) := by
  have hm := Moves.refl s₀
  refine answered ?_
  repeat' first
    | with_reducible assumption
    | (intro _; intros)
    | with_reducible apply State.fcRevive_moves
    | with_reducible apply State.swWrite_moves
    | split

theorem State.fcInject_moves {s₀ : State} {s : State} {data : Word} (hm : Moves s₀ s) :
    Moves s₀ (State.fcInject s data) := by
  unfold State.fcInject
  repeat' first
    | with_reducible assumption
    | (extract_lets +onlyGivenNames x; refine (fun (hx : Moves s₀ x) => ?_) ?_; clear_value x; rotate_left; subst x; rotate_right)
    | (extract_lets +onlyGivenNames x; refine (fun (hx : Moves s₀ x.1) => ?_) ?_; clear_value x; rotate_left; subst x; rotate_right)
    | (extract_lets +onlyGivenNames x; first | clear_value x | subst x)
    | with_reducible apply State.lodgeCorrected_moves
    | with_reducible apply State.lodgeError_moves
    | split

@[simp] theorem execFcInject_moves {s₀ : State} {i : Initiator} {data : Word} :
    Answered s₀ (execFcInject i data s₀) := by
  have hm := Moves.refl s₀
  refine answered ?_
  repeat' first
    | with_reducible assumption
    | (intro _; intros)
    | with_reducible apply State.fcInject_moves
    | with_reducible apply State.swWrite_moves
    | split

end Sys2Proof.Machine
end

