-- ==== Sys2Proof/Laws/MovesPower.lean ====
section
/-! SUPPORT. What the operations of Machine/Power.lean can do to the memories, the register file, the key slots and the queue: moves, and nothing
else. -/

namespace Sys2Proof.Machine

theorem State.modPwr_moves {s₀ : State} {s : State} {f : PwrSt → PwrSt} (hm : Moves s₀ s) :
    Moves s₀ (State.modPwr s f) := by
  unfold State.modPwr
  repeat' first
    | with_reducible assumption
    | split
    | (conv => arg 2; arg 73; skip
       with_reducible apply Moves.mk)

theorem State.showHorizon_moves {s₀ : State} {s : State} (hm : Moves s₀ s) :
    Moves s₀ (State.showHorizon s) := by
  unfold State.showHorizon
  repeat' first
    | with_reducible assumption
    | with_reducible apply State.setReg_moves
    | split
    | dsimp only
    | (conv => arg 2; arg 73; skip
       with_reducible apply Moves.mk)

theorem State.choosePower_moves {s₀ : State} {s : State} (hm : Moves s₀ s) :
    Moves s₀ (State.choosePower s) := by
  unfold State.choosePower
  repeat' first
    | with_reducible assumption
    | (intro _; intros)
    | (extract_lets +onlyGivenNames x; refine (fun (hx : Moves s₀ x) => ?_) ?_; clear_value x; rotate_left; subst x; rotate_right)
    | (extract_lets +onlyGivenNames x; refine (fun (hx : Moves s₀ x.1) => ?_) ?_; clear_value x; rotate_left; subst x; rotate_right)
    | (extract_lets +onlyGivenNames x; first | clear_value x | subst x)
    | with_reducible apply State.modPwr_moves
    | with_reducible apply State.sendDec_moves
    | with_reducible apply State.showHorizon_moves
    | split
    | (conv => arg 2; arg 73; skip
       with_reducible apply Moves.mk)

theorem State.enterPower_moves {s₀ : State} {s : State} (hm : Moves s₀ s) :
    Moves s₀ (State.enterPower s) := by
  unfold State.enterPower
  repeat' first
    | with_reducible assumption
    | (intro _; intros)
    | (extract_lets +onlyGivenNames x; refine (fun (hx : Moves s₀ x) => ?_) ?_; clear_value x; rotate_left; subst x; rotate_right)
    | (extract_lets +onlyGivenNames x; refine (fun (hx : Moves s₀ x.1) => ?_) ?_; clear_value x; rotate_left; subst x; rotate_right)
    | (extract_lets +onlyGivenNames x; first | clear_value x | subst x)
    | with_reducible apply State.count_moves
    | with_reducible apply State.lpRequest_moves
    | with_reducible apply State.modPwr_moves
    | with_reducible apply State.setFld_moves
    | split
    | dsimp only
    | (conv => arg 2; arg 73; skip
       with_reducible apply Moves.mk)

theorem doPowerEntry_moves {s₀ : State} {s : State} (hm : Moves s₀ s) :
    Moves s₀ (doPowerEntry s) := by
  unfold doPowerEntry
  repeat' first
    | with_reducible assumption
    | with_reducible apply State.choosePower_moves
    | with_reducible apply State.enterPower_moves
    | split

@[simp] theorem execPowerStateEntry_moves {s₀ : State}  :
    Answered s₀ (execPowerStateEntry s₀) := by
  have hm := Moves.refl s₀
  refine answered ?_
  repeat' first
    | with_reducible assumption
    | with_reducible apply doPowerEntry_moves
    | split

theorem State.wakeUp_moves {s₀ : State} {s : State} {cause : Nat} (hm : Moves s₀ s) :
    Moves s₀ (State.wakeUp s cause) := by
  unfold State.wakeUp
  repeat' first
    | with_reducible assumption
    | (intro _; intros)
    | (extract_lets +onlyGivenNames x; refine (fun (hx : Moves s₀ x) => ?_) ?_; clear_value x; rotate_left; subst x; rotate_right)
    | (extract_lets +onlyGivenNames x; refine (fun (hx : Moves s₀ x.1) => ?_) ?_; clear_value x; rotate_left; subst x; rotate_right)
    | (extract_lets +onlyGivenNames x; first | clear_value x | subst x)
    | with_reducible apply State.count_moves
    | with_reducible apply State.lpExit_moves
    | with_reducible apply State.modPwr_moves
    | with_reducible apply State.sendDec_moves
    | with_reducible apply State.setFld_moves
    | split
    | dsimp only
    | (conv => arg 2; arg 73; skip
       with_reducible apply Moves.mk)

theorem doPowerWake_moves {s₀ : State} {cause pin : Nat} {s : State} (hm : Moves s₀ s) :
    Moves s₀ (doPowerWake cause pin s) := by
  unfold doPowerWake
  repeat' first
    | with_reducible assumption
    | with_reducible apply State.showHorizon_moves
    | with_reducible apply State.wakeUp_moves
    | split

@[simp] theorem execPowerWake_moves {s₀ : State} {cause pin : Nat} :
    Answered s₀ (execPowerWake cause pin s₀) := by
  have hm := Moves.refl s₀
  refine answered ?_
  repeat' first
    | with_reducible assumption
    | with_reducible apply doPowerWake_moves
    | split

theorem State.genRestart_moves {s₀ : State} {s : State} {i : Nat} (hm : Moves s₀ s) :
    Moves s₀ (State.genRestart s i) := by
  unfold State.genRestart
  repeat' first
    | with_reducible assumption
    | (intro _; intros)
    | with_reducible apply State.modGen_moves
    | split
    | (conv => arg 2; arg 73; skip
       with_reducible apply Moves.mk)

theorem State.latchedPins_moves {s₀ : State} {s : State} (hm : Moves s₀ s) :
    Moves s₀ (State.latchedPins s) := by
  unfold State.latchedPins
  repeat' first
    | with_reducible assumption
    | (intro _; intros)
    | (extract_lets +onlyGivenNames x; refine (fun (hx : Moves s₀ x) => ?_) ?_; clear_value x; rotate_left; subst x; rotate_right)
    | (extract_lets +onlyGivenNames x; refine (fun (hx : Moves s₀ x.1) => ?_) ?_; clear_value x; rotate_left; subst x; rotate_right)
    | (extract_lets +onlyGivenNames x; first | clear_value x | subst x)
    | with_reducible apply moves_foldl
    | with_reducible apply moves_foldl_fst
    | with_reducible apply State.icPend_moves
    | split
    | (conv => arg 2; arg 73; skip
       with_reducible apply Moves.mk)

theorem State.coresRestart_moves {s₀ : State} {s : State} (hm : Moves s₀ s) :
    Moves s₀ (State.coresRestart s) := by
  unfold State.coresRestart
  repeat' first
    | with_reducible assumption
    | split
    | (conv => arg 2; arg 73; skip
       with_reducible apply Moves.mk)

theorem doPowerExit_moves {s₀ : State} {s : State} (hm : Moves s₀ s) :
    Moves s₀ (doPowerExit s) := by
  unfold doPowerExit
  repeat' first
    | with_reducible assumption
    | (intro _; intros)
    | (extract_lets +onlyGivenNames x; refine (fun (hx : Moves s₀ x) => ?_) ?_; clear_value x; rotate_left; subst x; rotate_right)
    | (extract_lets +onlyGivenNames x; refine (fun (hx : Moves s₀ x.1) => ?_) ?_; clear_value x; rotate_left; subst x; rotate_right)
    | (extract_lets +onlyGivenNames x; first | clear_value x | subst x)
    | with_reducible apply moves_foldl
    | with_reducible apply moves_foldl_fst
    | with_reducible apply State.coresRestart_moves
    | with_reducible apply State.genRestart_moves
    | with_reducible apply State.latchedPins_moves
    | with_reducible apply State.modPwr_moves
    | with_reducible apply State.setFld_moves
    | split
    | dsimp only
    | (conv => arg 2; arg 73; skip
       with_reducible apply Moves.mk)

@[simp] theorem execPowerExitComplete_moves {s₀ : State}  :
    Answered s₀ (execPowerExitComplete s₀) := by
  have hm := Moves.refl s₀
  refine answered ?_
  repeat' first
    | with_reducible assumption
    | with_reducible apply doPowerExit_moves
    | split

theorem State.powerDecision_moves {s₀ : State} {s : State} {st t : Nat} (hm : Moves s₀ s) :
    Moves s₀ (State.powerDecision s st t) := by
  unfold State.powerDecision
  repeat' first
    | with_reducible assumption
    | (intro _; intros)
    | with_reducible apply State.modPwr_moves
    | with_reducible apply State.wakeUp_moves
    | split
    | (conv => arg 2; arg 73; skip
       with_reducible apply Moves.mk)

theorem doIslandWake_moves {s₀ : State} {isl : Nat} {s : State} (hm : Moves s₀ s) :
    Moves s₀ (doIslandWake isl s) := by
  unfold doIslandWake
  repeat' first
    | with_reducible assumption
    | (intro _; intros)
    | (extract_lets +onlyGivenNames x; refine (fun (hx : Moves s₀ x) => ?_) ?_; clear_value x; rotate_left; subst x; rotate_right)
    | (extract_lets +onlyGivenNames x; refine (fun (hx : Moves s₀ x.1) => ?_) ?_; clear_value x; rotate_left; subst x; rotate_right)
    | (extract_lets +onlyGivenNames x; first | clear_value x | subst x)
    | with_reducible apply State.count_moves
    | with_reducible apply State.modPwr_moves
    | split
    | (conv => arg 2; arg 73; skip
       with_reducible apply Moves.mk)

@[simp] theorem execIslandWake_moves {s₀ : State} {isl : Nat} :
    Answered s₀ (execIslandWake isl s₀) := by
  have hm := Moves.refl s₀
  refine answered ?_
  repeat' first
    | with_reducible assumption
    | with_reducible apply doIslandWake_moves
    | split

theorem doIslandReturn_moves {s₀ : State} {isl : Nat} {s : State} (hm : Moves s₀ s) :
    Moves s₀ (doIslandReturn isl s) := by
  unfold doIslandReturn
  repeat' first
    | with_reducible assumption
    | (intro _; intros)
    | with_reducible apply State.modPwr_moves
    | split
    | (conv => arg 2; arg 73; skip
       with_reducible apply Moves.mk)

@[simp] theorem execIslandIdleReturn_moves {s₀ : State} {isl : Nat} :
    Answered s₀ (execIslandIdleReturn isl s₀) := by
  have hm := Moves.refl s₀
  refine answered ?_
  repeat' first
    | with_reducible assumption
    | with_reducible apply doIslandReturn_moves
    | split

@[simp] theorem execPllLockLoss_moves {s₀ : State}  :
    Answered s₀ (execPllLockLoss s₀) := by
  have hm := Moves.refl s₀
  refine answered ?_
  repeat' first
    | with_reducible assumption
    | with_reducible apply State.raiseError_moves
    | split

theorem doThermal_moves {s₀ : State} {temp : Nat} {s : State} (hm : Moves s₀ s) :
    Moves s₀ (doThermal temp s) := by
  unfold doThermal
  repeat' first
    | with_reducible assumption
    | (intro _; intros)
    | (extract_lets +onlyGivenNames x; refine (fun (hx : Moves s₀ x) => ?_) ?_; clear_value x; rotate_left; subst x; rotate_right)
    | (extract_lets +onlyGivenNames x; refine (fun (hx : Moves s₀ x.1) => ?_) ?_; clear_value x; rotate_left; subst x; rotate_right)
    | (extract_lets +onlyGivenNames x; first | clear_value x | subst x)
    | with_reducible apply State.modPwr_moves
    | with_reducible apply State.raiseError_moves
    | with_reducible apply State.setFld_moves
    | split
    | (conv => arg 2; arg 73; skip
       with_reducible apply Moves.mk)

@[simp] theorem execThermalAlarm_moves {s₀ : State} {temp : Nat} :
    Answered s₀ (execThermalAlarm temp s₀) := by
  have hm := Moves.refl s₀
  refine answered ?_
  repeat' first
    | with_reducible assumption
    | with_reducible apply doThermal_moves
    | split

@[simp] theorem execSupplyOutOfWindow_moves {s₀ : State}  :
    Answered s₀ (execSupplyOutOfWindow s₀) := by
  have hm := Moves.refl s₀
  refine answered ?_
  repeat' first
    | with_reducible assumption
    | with_reducible apply State.raiseError_moves
    | split

end Sys2Proof.Machine
end

