-- ==== Sys2Proof/Laws/MovesTwin.lean ====
section
/-! SUPPORT. What the operations of Machine/Twin.lean can do to the memories, the register file, the key slots and the queue: moves, and nothing
else. -/

namespace Sys2Proof.Machine

theorem State.modTwin_moves {s₀ : State} {s : State} {f : TwinSt → TwinSt} (hm : Moves s₀ s) :
    Moves s₀ (State.modTwin s f) := by
  unfold State.modTwin
  repeat' first
    | with_reducible assumption
    | split
    | (conv => arg 2; arg 73; skip
       with_reducible apply Moves.mk)

theorem State.fromPartner_moves {s₀ : State} {s : State} {typ : Nat} {f : List Nat → State → State} (h_f : ∀ x0 x1, Moves s₀ x1 → Moves s₀ (f x0 x1)) (hm : Moves s₀ s) :
    Moves s₀ (State.fromPartner s typ f) := by
  unfold State.fromPartner
  repeat' first
    | with_reducible assumption
    | (intro _; intros)
    | (rename _ = ((_ : State), _) => heq; have hk := congrArg Prod.fst heq; dsimp only at hk; subst hk; clear heq)
    | with_reducible apply h_f
    | with_reducible apply State.takeItem_moves
    | split
    | dsimp only
    | (conv => arg 2; arg 73; skip
       with_reducible apply Moves.mk)

theorem State.decGrid_moves {s₀ : State} {s : State} {p ch idx g outcome : Nat} (hm : Moves s₀ s) :
    Moves s₀ (State.decGrid s p ch idx g outcome) := by
  unfold State.decGrid
  repeat' first
    | with_reducible assumption
    | (intro _; intros)
    | (extract_lets +onlyGivenNames x; refine (fun (hx : Moves s₀ x) => ?_) ?_; clear_value x; rotate_left; subst x; rotate_right)
    | (extract_lets +onlyGivenNames x; refine (fun (hx : Moves s₀ x.1) => ?_) ?_; clear_value x; rotate_left; subst x; rotate_right)
    | (extract_lets +onlyGivenNames x; first | clear_value x | subst x)
    | with_reducible apply State.guSettle_moves
    | with_reducible apply State.modGuC_moves
    | split
    | dsimp only
    | (conv => arg 2; arg 73; skip
       with_reducible apply Moves.mk)

theorem State.decLatch_moves {s₀ : State} {s : State} {idx doc r : Nat} (hm : Moves s₀ s) :
    Moves s₀ (State.decLatch s idx doc r) := by
  unfold State.decLatch
  repeat' first
    | with_reducible assumption
    | (intro _; intros)
    | (extract_lets +onlyGivenNames x; refine (fun (hx : Moves s₀ x) => ?_) ?_; clear_value x; rotate_left; subst x; rotate_right)
    | (extract_lets +onlyGivenNames x; refine (fun (hx : Moves s₀ x.1) => ?_) ?_; clear_value x; rotate_left; subst x; rotate_right)
    | (extract_lets +onlyGivenNames x; first | clear_value x | subst x)
    | with_reducible apply State.recordLatch_moves
    | split
    | (conv => arg 2; arg 73; skip
       with_reducible apply Moves.mk)

theorem State.decLoadStart_moves {s₀ : State} {s : State} {p r : Nat} (hm : Moves s₀ s) :
    Moves s₀ (State.decLoadStart s p r) := by
  unfold State.decLoadStart
  repeat' first
    | with_reducible assumption
    | (intro _; intros)
    | with_reducible apply moves_foldl
    | with_reducible apply moves_foldl_fst
    | split
    | (conv => arg 2; arg 73; skip
       with_reducible apply Moves.mk)

theorem State.decLoad_moves {s₀ : State} {s : State} {p ch outcome r place : Nat} (hm : Moves s₀ s) :
    Moves s₀ (State.decLoad s p ch outcome r place) := by
  unfold State.decLoad
  repeat' first
    | with_reducible assumption
    | (intro _; intros)
    | (extract_lets +onlyGivenNames x; refine (fun (hx : Moves s₀ x) => ?_) ?_; clear_value x; rotate_left; subst x; rotate_right)
    | (extract_lets +onlyGivenNames x; refine (fun (hx : Moves s₀ x.1) => ?_) ?_; clear_value x; rotate_left; subst x; rotate_right)
    | (extract_lets +onlyGivenNames x; first | clear_value x | subst x)
    | with_reducible apply State.abandonLoad_moves
    | with_reducible apply State.decLoadStart_moves
    | with_reducible apply State.finishLoad_moves
    | split
    | (conv => arg 2; arg 73; skip
       with_reducible apply Moves.mk)

theorem State.applyDec_moves {s₀ : State} {s : State} {e : List Nat} (hm : Moves s₀ s) :
    Moves s₀ (State.applyDec s e) := by
  unfold State.applyDec
  repeat' first
    | with_reducible assumption
    | (intro _; intros)
    | (extract_lets +onlyGivenNames x; refine (fun (hx : Moves s₀ x) => ?_) ?_; clear_value x; rotate_left; subst x; rotate_right)
    | (extract_lets +onlyGivenNames x; refine (fun (hx : Moves s₀ x.1) => ?_) ?_; clear_value x; rotate_left; subst x; rotate_right)
    | (extract_lets +onlyGivenNames x; first | clear_value x | subst x)
    | with_reducible apply State.closeMissing_moves
    | with_reducible apply State.decGrid_moves
    | with_reducible apply State.decLatch_moves
    | with_reducible apply State.decLoad_moves
    | with_reducible apply State.decMember_moves
    | with_reducible apply State.decStale_moves
    | with_reducible apply State.declareLead_moves
    | with_reducible apply State.declareTrail_moves
    | with_reducible apply State.fillOwed_moves
    | with_reducible apply State.modChan_moves
    | with_reducible apply State.powerDecision_moves
    | with_reducible apply State.setReg_moves
    | with_reducible apply State.settle_moves
    | split
    | dsimp only
    | (conv => arg 2; arg 73; skip
       with_reducible apply Moves.mk)

theorem doTwinDec_moves {s₀ : State} {s : State} (hm : Moves s₀ s) :
    Moves s₀ (doTwinDec s) := by
  unfold doTwinDec
  repeat' first
    | with_reducible assumption
    | (intro _; intros)
    | with_reducible apply moves_foldl
    | with_reducible apply moves_foldl_fst
    | with_reducible apply State.applyDec_moves
    | with_reducible apply State.fromPartner_moves
    | split

@[simp] theorem execTwinDecReceive_moves {s₀ : State}  :
    Answered s₀ (execTwinDecReceive s₀) := by
  have hm := Moves.refl s₀
  refine answered ?_
  repeat' first
    | with_reducible assumption
    | with_reducible apply doTwinDec_moves
    | split

theorem State.decMissing_moves {s₀ : State} {s : State} (hm : Moves s₀ s) :
    Moves s₀ (State.decMissing s) := by
  unfold State.decMissing
  repeat' first
    | with_reducible assumption
    | with_reducible apply State.count_moves
    | with_reducible apply State.raiseError_moves
    | with_reducible apply State.twinEvent_moves
    | split

/-- A decision made locally is moves. -/
theorem State.decideLate_moves {s₀ s : State} {kind a b : Nat} {f : State → State} (e : s.decideLate kind a b = some f) :
    ∀ u, Moves s₀ u → Moves s₀ (f u) := by
  intro u hu
  unfold State.decideLate at e
  split at e
  · split at e
    · dsimp only at e
      split at e
      · split at e
        · cases e; exact State.fillOwed_moves hu
        · cases e
      · split at e
        · cases e; exact State.decStale_moves hu
        · cases e
    · dsimp only at e
      split at e
      · split at e
        · cases e; exact State.closeMissing_moves hu
        · cases e
      · cases e
  · split at e
    · dsimp only at e
      split at e
      · cases e
        show Moves s₀ (if _ then _ else _)
        split
        · exact State.finishLoad_moves hu
        · exact State.abandonLoad_moves hu
      · cases e
    · split at e
      · split at e
        · cases e
          exact State.latchHere_moves (Moves.mk hu)
        · cases e
      · cases e
  · split at e
    · cases e; exact State.segLead_moves hu
    · simp only [Option.map_eq_some_iff] at e
      obtain ⟨p, _, rfl⟩ := e
      exact State.declareTrail_moves hu
  · split at e
    · split at e
      · cases e
        exact State.settle_moves (State.modChan_moves hu)
      · cases e
    · cases e
  · cases e

theorem doDecLate_moves {s₀ s : State} {kind a b : Nat} (hm : Moves s₀ s) : Moves s₀ (doDecLate kind a b s) := by
  unfold doDecLate
  split
  · exact hm
  · split
    · exact State.decideLate_moves (by assumption) _ (State.decMissing_moves hm)
    · exact hm

@[simp] theorem execDecLate_moves {s₀ : State} {kind a b : Nat} :
    Answered s₀ (execDecLate kind a b s₀) := by
  have hm := Moves.refl s₀
  refine answered ?_
  repeat' first
    | with_reducible assumption
    | with_reducible apply doDecLate_moves
    | split

theorem doTwinSeal_moves {s₀ : State} {s : State} (hm : Moves s₀ s) :
    Moves s₀ (doTwinSeal s) := by
  unfold doTwinSeal
  repeat' first
    | with_reducible assumption
    | (intro _; intros)
    | with_reducible apply moves_foldl
    | with_reducible apply moves_foldl_fst
    | with_reducible apply State.fromPartner_moves
    | with_reducible apply State.sealReport_moves
    | split

@[simp] theorem execTwinSealReceive_moves {s₀ : State}  :
    Answered s₀ (execTwinSealReceive s₀) := by
  have hm := Moves.refl s₀
  refine answered ?_
  repeat' first
    | with_reducible assumption
    | with_reducible apply doTwinSeal_moves
    | split

theorem doTwinRec_moves {s₀ : State} {s : State} (hm : Moves s₀ s) :
    Moves s₀ (doTwinRec s) := by
  unfold doTwinRec
  repeat' first
    | with_reducible assumption
    | (intro _; intros)
    | with_reducible apply moves_foldl
    | with_reducible apply moves_foldl_fst
    | with_reducible apply State.fromPartner_moves
    | with_reducible apply State.recReport_moves
    | split

@[simp] theorem execTwinRecReceive_moves {s₀ : State}  :
    Answered s₀ (execTwinRecReceive s₀) := by
  have hm := Moves.refl s₀
  refine answered ?_
  repeat' first
    | with_reducible assumption
    | with_reducible apply doTwinRec_moves
    | split

theorem State.sendSnap_moves {s₀ : State} {s : State} (hm : Moves s₀ s) :
    Moves s₀ (State.sendSnap s) := by
  unfold State.sendSnap
  repeat' first
    | with_reducible assumption
    | (intro _; intros)
    | (extract_lets +onlyGivenNames x; refine (fun (hx : Moves s₀ x) => ?_) ?_; clear_value x; rotate_left; subst x; rotate_right)
    | (extract_lets +onlyGivenNames x; refine (fun (hx : Moves s₀ x.1) => ?_) ?_; clear_value x; rotate_left; subst x; rotate_right)
    | (extract_lets +onlyGivenNames x; first | clear_value x | subst x)
    | with_reducible apply State.toPartner_moves
    | split
    | dsimp only
    | (conv => arg 2; arg 73; skip
       with_reducible apply Moves.mk)

theorem State.emptyPath_moves {s₀ : State} {s : State} (hm : Moves s₀ s) :
    Moves s₀ (State.emptyPath s) := by
  unfold State.emptyPath
  repeat' first
    | with_reducible assumption
    | (intro _; intros)
    | (extract_lets +onlyGivenNames x; refine (fun (hx : Moves s₀ x) => ?_) ?_; clear_value x; rotate_left; subst x; rotate_right)
    | (extract_lets +onlyGivenNames x; refine (fun (hx : Moves s₀ x.1) => ?_) ?_; clear_value x; rotate_left; subst x; rotate_right)
    | (extract_lets +onlyGivenNames x; first | clear_value x | subst x)
    | with_reducible apply moves_foldl
    | with_reducible apply moves_foldl_fst
    | with_reducible apply State.setFld_moves
    | split
    | (conv => arg 2; arg 73; skip
       with_reducible apply Moves.mk)

theorem State.keepOwn_moves {s₀ : State} {s own : State} (hm : Moves s₀ s) :
    Moves s₀ (State.keepOwn s own) := by
  unfold State.keepOwn
  repeat' first
    | with_reducible assumption
    | (intro _; intros)
    | (extract_lets +onlyGivenNames x; refine (fun (hx : Moves s₀ x) => ?_) ?_; clear_value x; rotate_left; subst x; rotate_right)
    | (extract_lets +onlyGivenNames x; refine (fun (hx : Moves s₀ x.1) => ?_) ?_; clear_value x; rotate_left; subst x; rotate_right)
    | (extract_lets +onlyGivenNames x; first | clear_value x | subst x)
    | with_reducible apply moves_foldl
    | with_reducible apply moves_foldl_fst
    | with_reducible apply State.setFld_moves
    | with_reducible apply State.setReg_moves
    | split

theorem State.applySnap_moves {s₀ : State} {s : State} {words : List Nat} (hm : Moves s₀ s) :
    Moves s₀ (State.applySnap s words) := by
  unfold State.applySnap
  repeat' first
    | with_reducible assumption
    | (intro _; intros)
    | (extract_lets +onlyGivenNames x; refine (fun (hx : Moves s₀ x) => ?_) ?_; clear_value x; rotate_left; subst x; rotate_right)
    | (extract_lets +onlyGivenNames x; refine (fun (hx : Moves s₀ x.1) => ?_) ?_; clear_value x; rotate_left; subst x; rotate_right)
    | (extract_lets +onlyGivenNames x; have _ : _ → _ := x; subst x)
    | (extract_lets +onlyGivenNames x; first | clear_value x | subst x)
    | with_reducible apply moves_foldl
    | with_reducible apply moves_foldl_fst
    | with_reducible apply State.emptyPath_moves
    | with_reducible apply State.keepOwn_moves
    | with_reducible apply State.modChan_moves
    | with_reducible apply State.modDma_moves
    | with_reducible apply State.modOs_moves
    | with_reducible apply State.modSeg_moves
    | with_reducible apply State.modStream_moves
    | with_reducible apply State.modTw_moves
    | with_reducible apply State.modTwin_moves
    | with_reducible apply State.setReg_moves
    | with_reducible apply State.showChan_moves
    | with_reducible apply State.showTw_moves
    | split
    | (conv => arg 2; arg 73; skip
       with_reducible apply Moves.mk)
    | (conv => arg 2; arg 73; skip
       with_reducible apply Moves.mkKeep)
    | (conv => arg 2; arg 73; skip
       with_reducible apply Moves.mkImg)

theorem doTwinSnap_moves {s₀ : State} {s : State} (hm : Moves s₀ s) :
    Moves s₀ (doTwinSnap s) := by
  unfold doTwinSnap
  repeat' first
    | with_reducible assumption
    | (intro _; intros)
    | with_reducible apply State.applySnap_moves
    | with_reducible apply State.fromPartner_moves
    | split

@[simp] theorem execTwinSnapReceive_moves {s₀ : State}  :
    Answered s₀ (execTwinSnapReceive s₀) := by
  have hm := Moves.refl s₀
  refine answered ?_
  repeat' first
    | with_reducible assumption
    | with_reducible apply doTwinSnap_moves
    | split

theorem doSyncCondition_moves {s₀ : State} {covered : Bool} {s : State} (hm : Moves s₀ s) :
    Moves s₀ (doSyncCondition covered s) := by
  unfold doSyncCondition
  repeat' first
    | with_reducible assumption
    | (intro _; intros)
    | (extract_lets +onlyGivenNames x; refine (fun (hx : Moves s₀ x) => ?_) ?_; clear_value x; rotate_left; subst x; rotate_right)
    | (extract_lets +onlyGivenNames x; refine (fun (hx : Moves s₀ x.1) => ?_) ?_; clear_value x; rotate_left; subst x; rotate_right)
    | (extract_lets +onlyGivenNames x; first | clear_value x | subst x)
    | with_reducible apply State.count_moves
    | with_reducible apply State.setTwin_moves
    | with_reducible apply State.twinEvent_moves
    | split

@[simp] theorem execSyncConditionMet_moves {s₀ : State} {covered : Bool} :
    Answered s₀ (execSyncConditionMet covered s₀) := by
  have hm := Moves.refl s₀
  refine answered ?_
  repeat' first
    | with_reducible assumption
    | with_reducible apply doSyncCondition_moves
    | split

theorem doAdmitTimeout_moves {s₀ : State} {s : State} (hm : Moves s₀ s) :
    Moves s₀ (doAdmitTimeout s) := by
  unfold doAdmitTimeout
  repeat' first
    | with_reducible assumption
    | (extract_lets +onlyGivenNames x; refine (fun (hx : Moves s₀ x) => ?_) ?_; clear_value x; rotate_left; subst x; rotate_right)
    | (extract_lets +onlyGivenNames x; refine (fun (hx : Moves s₀ x.1) => ?_) ?_; clear_value x; rotate_left; subst x; rotate_right)
    | (extract_lets +onlyGivenNames x; first | clear_value x | subst x)
    | with_reducible apply State.admitFail_moves
    | split

@[simp] theorem execAdmitTimeout_moves {s₀ : State}  :
    Answered s₀ (execAdmitTimeout s₀) := by
  have hm := Moves.refl s₀
  refine answered ?_
  repeat' first
    | with_reducible assumption
    | with_reducible apply doAdmitTimeout_moves
    | split

theorem State.partnerReports_moves {s₀ : State} {s : State} {st : Nat} (hm : Moves s₀ s) :
    Moves s₀ (State.partnerReports s st) := by
  unfold State.partnerReports
  repeat' first
    | with_reducible assumption
    | (extract_lets +onlyGivenNames x; refine (fun (hx : Moves s₀ x) => ?_) ?_; clear_value x; rotate_left; subst x; rotate_right)
    | (extract_lets +onlyGivenNames x; refine (fun (hx : Moves s₀ x.1) => ?_) ?_; clear_value x; rotate_left; subst x; rotate_right)
    | (extract_lets +onlyGivenNames x; first | clear_value x | subst x)
    | with_reducible apply State.count_moves
    | with_reducible apply State.enterAdmit_moves
    | with_reducible apply State.partnerLost_moves
    | with_reducible apply State.sendSnap_moves
    | with_reducible apply State.setFld_moves
    | with_reducible apply State.setTwin_moves
    | with_reducible apply State.twinElect_moves
    | with_reducible apply State.twinEvent_moves
    | split
    | dsimp only
    | (conv => arg 2; arg 73; skip
       with_reducible apply Moves.mk)

theorem doTwinState_moves {s₀ : State} {s : State} (hm : Moves s₀ s) :
    Moves s₀ (doTwinState s) := by
  unfold doTwinState
  repeat' first
    | with_reducible assumption
    | (intro _; intros)
    | with_reducible apply State.fromPartner_moves
    | with_reducible apply State.partnerReports_moves
    | split

@[simp] theorem execTwinStateReceive_moves {s₀ : State}  :
    Answered s₀ (execTwinStateReceive s₀) := by
  have hm := Moves.refl s₀
  refine answered ?_
  repeat' first
    | with_reducible assumption
    | with_reducible apply doTwinState_moves
    | split

@[simp] theorem execTwinStateReportTick_moves {s₀ : State} {hb : Bool} :
    Answered s₀ (execTwinStateReportTick hb s₀) := by
  have hm := Moves.refl s₀
  refine answered ?_
  repeat' first
    | with_reducible assumption
    | with_reducible apply State.sendState_moves
    | with_reducible apply State.setFld_moves
    | split

theorem doHeartbeatLoss_moves {s₀ : State} {s : State} (hm : Moves s₀ s) :
    Moves s₀ (doHeartbeatLoss s) := by
  unfold doHeartbeatLoss
  repeat' first
    | with_reducible assumption
    | (extract_lets +onlyGivenNames x; refine (fun (hx : Moves s₀ x) => ?_) ?_; clear_value x; rotate_left; subst x; rotate_right)
    | (extract_lets +onlyGivenNames x; refine (fun (hx : Moves s₀ x.1) => ?_) ?_; clear_value x; rotate_left; subst x; rotate_right)
    | (extract_lets +onlyGivenNames x; first | clear_value x | subst x)
    | with_reducible apply State.setFld_moves
    | with_reducible apply State.twinEvent_moves
    | split

@[simp] theorem execHeartbeatLoss_moves {s₀ : State}  :
    Answered s₀ (execHeartbeatLoss s₀) := by
  have hm := Moves.refl s₀
  refine answered ?_
  repeat' first
    | with_reducible assumption
    | with_reducible apply doHeartbeatLoss_moves
    | split

theorem doPartnerLoss_moves {s₀ : State} {silent : Bool} {s : State} (hm : Moves s₀ s) :
    Moves s₀ (doPartnerLoss silent s) := by
  unfold doPartnerLoss
  repeat' first
    | with_reducible assumption
    | with_reducible apply State.partnerLost_moves
    | split

@[simp] theorem execPartnerLoss_moves {s₀ : State} {silent : Bool} :
    Answered s₀ (execPartnerLoss silent s₀) := by
  have hm := Moves.refl s₀
  refine answered ?_
  repeat' first
    | with_reducible assumption
    | with_reducible apply doPartnerLoss_moves
    | split

theorem doAloneTimeout_moves {s₀ : State} {hb : Bool} {s : State} (hm : Moves s₀ s) :
    Moves s₀ (doAloneTimeout hb s) := by
  unfold doAloneTimeout
  repeat' first
    | with_reducible assumption
    | (extract_lets +onlyGivenNames x; refine (fun (hx : Moves s₀ x) => ?_) ?_; clear_value x; rotate_left; subst x; rotate_right)
    | (extract_lets +onlyGivenNames x; refine (fun (hx : Moves s₀ x.1) => ?_) ?_; clear_value x; rotate_left; subst x; rotate_right)
    | (extract_lets +onlyGivenNames x; first | clear_value x | subst x)
    | with_reducible apply State.setTwin_moves
    | split
    | dsimp only
    | (conv => arg 2; arg 73; skip
       with_reducible apply Moves.mk)

@[simp] theorem execAloneTimeout_moves {s₀ : State} {hb : Bool} :
    Answered s₀ (execAloneTimeout hb s₀) := by
  have hm := Moves.refl s₀
  refine answered ?_
  repeat' first
    | with_reducible assumption
    | with_reducible apply doAloneTimeout_moves
    | split

theorem State.twnCtrl_moves {s₀ : State} {s : State} {data : Word} (hm : Moves s₀ s) :
    Moves s₀ (State.twnCtrl s data) := by
  unfold State.twnCtrl
  repeat' first
    | with_reducible assumption
    | (intro _; intros)
    | (extract_lets +onlyGivenNames x; refine (fun (hx : Moves s₀ x) => ?_) ?_; clear_value x; rotate_left; subst x; rotate_right)
    | (extract_lets +onlyGivenNames x; refine (fun (hx : Moves s₀ x.1) => ?_) ?_; clear_value x; rotate_left; subst x; rotate_right)
    | (extract_lets +onlyGivenNames x; have _ : _ → _ := x; subst x)
    | (extract_lets +onlyGivenNames x; first | clear_value x | subst x)
    | with_reducible apply State.modTwin_moves
    | with_reducible apply State.sendTake_moves
    | with_reducible apply State.setTwin_moves
    | with_reducible apply State.toPartner_moves
    | with_reducible apply State.twinEvent_moves
    | split
    | (conv => arg 2; arg 73; skip
       with_reducible apply Moves.mk)

@[simp] theorem execTwinHandover_moves {s₀ : State} {i : Initiator} {data : Word} :
    Answered s₀ (execTwinHandover i data s₀) := by
  have hm := Moves.refl s₀
  refine answered ?_
  repeat' first
    | with_reducible assumption
    | (intro _; intros)
    | with_reducible apply State.swWrite_moves
    | with_reducible apply State.twnCtrl_moves
    | split

@[simp] theorem execTwinAdmit_moves {s₀ : State} {i : Initiator} {data : Word} :
    Answered s₀ (execTwinAdmit i data s₀) := by
  have hm := Moves.refl s₀
  refine answered ?_
  repeat' first
    | with_reducible assumption
    | (intro _; intros)
    | with_reducible apply State.swWrite_moves
    | with_reducible apply State.twnCtrl_moves
    | split

@[simp] theorem execTwinDetach_moves {s₀ : State} {i : Initiator} {data : Word} :
    Answered s₀ (execTwinDetach i data s₀) := by
  have hm := Moves.refl s₀
  refine answered ?_
  repeat' first
    | with_reducible assumption
    | (intro _; intros)
    | with_reducible apply State.swWrite_moves
    | with_reducible apply State.twnCtrl_moves
    | split

theorem State.admitted_moves {s₀ : State} {s : State} (hm : Moves s₀ s) :
    Moves s₀ (State.admitted s) := by
  unfold State.admitted
  repeat' first
    | with_reducible assumption
    | with_reducible apply State.enterAdmit_moves
    | split

theorem doTwinTake_moves {s₀ : State} {s : State} (hm : Moves s₀ s) :
    Moves s₀ (doTwinTake s) := by
  unfold doTwinTake
  repeat' first
    | with_reducible assumption
    | (intro _; intros)
    | with_reducible apply State.fixTake_moves
    | with_reducible apply State.fromPartner_moves
    | split

@[simp] theorem execTwinTakeReceive_moves {s₀ : State}  :
    Answered s₀ (execTwinTakeReceive s₀) := by
  have hm := Moves.refl s₀
  refine answered ?_
  repeat' first
    | with_reducible assumption
    | with_reducible apply doTwinTake_moves
    | split

theorem doOldLeadRelease_moves {s₀ : State} {s : State} (hm : Moves s₀ s) :
    Moves s₀ (doOldLeadRelease s) := by
  unfold doOldLeadRelease
  repeat' first
    | with_reducible assumption
    | (intro _; intros)
    | (extract_lets +onlyGivenNames x; refine (fun (hx : Moves s₀ x) => ?_) ?_; clear_value x; rotate_left; subst x; rotate_right)
    | (extract_lets +onlyGivenNames x; refine (fun (hx : Moves s₀ x.1) => ?_) ?_; clear_value x; rotate_left; subst x; rotate_right)
    | (extract_lets +onlyGivenNames x; first | clear_value x | subst x)
    | with_reducible apply moves_foldl
    | with_reducible apply moves_foldl_fst
    | with_reducible apply State.dmaStop_moves
    | with_reducible apply State.modTwin_moves
    | with_reducible apply State.releaseAll_moves
    | with_reducible apply State.releaseShared_moves
    | with_reducible apply State.sendState_moves
    | with_reducible apply State.setTwin_moves
    | with_reducible apply State.twDropEntry_moves
    | split
    | dsimp only
    | (conv => arg 2; arg 73; skip
       with_reducible apply Moves.mk)

@[simp] theorem execOldLeadRelease_moves {s₀ : State}  :
    Answered s₀ (execOldLeadRelease s₀) := by
  have hm := Moves.refl s₀
  refine answered ?_
  repeat' first
    | with_reducible assumption
    | with_reducible apply doOldLeadRelease_moves
    | split

theorem State.decideWaiting_moves {s₀ : State} {s : State} {ch : Nat} (hm : Moves s₀ s) :
    Moves s₀ (State.decideWaiting s ch) := by
  unfold State.decideWaiting
  repeat' first
    | with_reducible assumption
    | (intro _; intros)
    | (extract_lets +onlyGivenNames x; refine (fun (hx : Moves s₀ x) => ?_) ?_; clear_value x; rotate_left; subst x; rotate_right)
    | (extract_lets +onlyGivenNames x; refine (fun (hx : Moves s₀ x.1) => ?_) ?_; clear_value x; rotate_left; subst x; rotate_right)
    | (extract_lets +onlyGivenNames x; first | clear_value x | subst x)
    | with_reducible apply moves_foldl
    | with_reducible apply moves_foldl_fst
    | with_reducible apply State.bgLine_moves
    | with_reducible apply State.classify_moves
    | with_reducible apply State.decideLine_moves
    | with_reducible apply State.modChan_moves
    | with_reducible apply State.sendMarker_moves
    | with_reducible apply State.truncateNow_moves
    | split
    | dsimp only
    | (conv => arg 2; arg 73; skip
       with_reducible apply Moves.mk)

theorem State.decideGrid_moves {s₀ : State} {s : State} {p c : Nat} (hm : Moves s₀ s) :
    Moves s₀ (State.decideGrid s p c) := by
  unfold State.decideGrid
  repeat' first
    | with_reducible assumption
    | (intro _; intros)
    | (extract_lets +onlyGivenNames x; refine (fun (hx : Moves s₀ x) => ?_) ?_; clear_value x; rotate_left; subst x; rotate_right)
    | (extract_lets +onlyGivenNames x; refine (fun (hx : Moves s₀ x.1) => ?_) ?_; clear_value x; rotate_left; subst x; rotate_right)
    | (extract_lets +onlyGivenNames x; first | clear_value x | subst x)
    | with_reducible apply moves_foldl
    | with_reducible apply moves_foldl_fst
    | with_reducible apply State.guDecide_moves
    | with_reducible apply State.modGuC_moves
    | split
    | (conv => arg 2; arg 73; skip
       with_reducible apply Moves.mk)

theorem doTakeover_moves {s₀ : State} {s : State} (hm : Moves s₀ s) :
    Moves s₀ (doTakeover s) := by
  unfold doTakeover
  repeat' first
    | with_reducible assumption
    | (intro _; intros)
    | (extract_lets +onlyGivenNames x; refine (fun (hx : Moves s₀ x) => ?_) ?_; clear_value x; rotate_left; subst x; rotate_right)
    | (extract_lets +onlyGivenNames x; refine (fun (hx : Moves s₀ x.1) => ?_) ?_; clear_value x; rotate_left; subst x; rotate_right)
    | (extract_lets +onlyGivenNames x; first | clear_value x | subst x)
    | with_reducible apply moves_foldl
    | with_reducible apply moves_foldl_fst
    | with_reducible apply State.count_moves
    | with_reducible apply State.decideGrid_moves
    | with_reducible apply State.decideHeld_moves
    | with_reducible apply State.decideWaiting_moves
    | with_reducible apply State.dmaTakeover_moves
    | with_reducible apply State.latchHere_moves
    | with_reducible apply State.modOs_moves
    | with_reducible apply State.modTwin_moves
    | with_reducible apply State.setFld_moves
    | with_reducible apply State.setReg_moves
    | with_reducible apply State.setTwin_moves
    | with_reducible apply State.twTakeover_moves
    | with_reducible apply State.twinEvent_moves
    | split
    | dsimp only
    | (conv => arg 2; arg 73; skip
       with_reducible apply Moves.mk)

@[simp] theorem execTakeover_moves {s₀ : State}  :
    Answered s₀ (execTakeover s₀) := by
  have hm := Moves.refl s₀
  refine answered ?_
  repeat' first
    | with_reducible assumption
    | with_reducible apply doTakeover_moves
    | split

theorem State.flushKept_moves {s₀ : State} {s : State} {g k : Nat} (hm : Moves s₀ s) :
    Moves s₀ (State.flushKept s g k) := by
  unfold State.flushKept
  repeat' first
    | with_reducible assumption
    | (intro _; intros)
    | (extract_lets +onlyGivenNames x; refine (fun (hx : Moves s₀ x) => ?_) ?_; clear_value x; rotate_left; subst x; rotate_right)
    | (extract_lets +onlyGivenNames x; refine (fun (hx : Moves s₀ x.1) => ?_) ?_; clear_value x; rotate_left; subst x; rotate_right)
    | (extract_lets +onlyGivenNames x; first | clear_value x | subst x)
    | with_reducible apply moves_foldl
    | with_reducible apply moves_foldl_fst
    | with_reducible apply State.relayDeliver_moves
    | with_reducible apply State.tunnelLine_moves
    | split
    | (conv => arg 2; arg 73; skip
       with_reducible apply Moves.mk)

theorem doHeadLead_moves {s₀ : State} {g : Nat} {s : State} (hm : Moves s₀ s) :
    Moves s₀ (doHeadLead g s) := by
  unfold doHeadLead
  repeat' first
    | with_reducible assumption
    | (intro _; intros)
    | (rename _ = ((_ : State), _) => heq; have hk := congrArg Prod.fst heq; dsimp only at hk; subst hk; clear heq)
    | (extract_lets +onlyGivenNames x; refine (fun (hx : Moves s₀ x) => ?_) ?_; clear_value x; rotate_left; subst x; rotate_right)
    | (extract_lets +onlyGivenNames x; refine (fun (hx : Moves s₀ x.1) => ?_) ?_; clear_value x; rotate_left; subst x; rotate_right)
    | (extract_lets +onlyGivenNames x; first | clear_value x | subst x)
    | with_reducible apply moves_foldl
    | with_reducible apply moves_foldl_fst
    | with_reducible apply State.flushKept_moves
    | with_reducible apply State.modTwin_moves
    | with_reducible apply State.takeRx_moves
    | with_reducible apply State.twinEvent_moves
    | split
    | dsimp only
    | (conv => arg 2; arg 73; skip
       with_reducible apply Moves.mk)

@[simp] theorem execHeadLeadReceive_moves {s₀ : State} {g : Nat} :
    Answered s₀ (execHeadLeadReceive g s₀) := by
  have hm := Moves.refl s₀
  refine answered ?_
  repeat' first
    | with_reducible assumption
    | with_reducible apply doHeadLead_moves
    | split

@[simp] theorem execHeadLeadRefresh_moves {s₀ : State}  :
    Answered s₀ (execHeadLeadRefresh s₀) := by
  have hm := Moves.refl s₀
  refine answered ?_
  repeat' first
    | with_reducible assumption
    | with_reducible apply State.sendLead_moves
    | split

end Sys2Proof.Machine
end

