-- ==== Sys2Proof/Laws/MovesBoot.lean ====
section
/-! SUPPORT. What the operations of Machine/Boot.lean can do to the memories, the register file, the key slots and the queue: moves, and nothing
else. -/

namespace Sys2Proof.Machine

theorem State.driveLref_moves {s₀ : State} {s : State} {mask : Nat} (hm : Moves s₀ s) :
    Moves s₀ (State.driveLref s mask) := by
  unfold State.driveLref
  repeat' first
    | with_reducible assumption
    | (intro _; intros)
    | (extract_lets +onlyGivenNames x; refine (fun (hx : Moves s₀ x) => ?_) ?_; clear_value x; rotate_left; subst x; rotate_right)
    | (extract_lets +onlyGivenNames x; refine (fun (hx : Moves s₀ x.1) => ?_) ?_; clear_value x; rotate_left; subst x; rotate_right)
    | (extract_lets +onlyGivenNames x; first | clear_value x | subst x)
    | with_reducible apply moves_foldl
    | with_reducible apply moves_foldl_fst
    | with_reducible apply State.emit_moves
    | split
    | (conv => arg 2; arg 73; skip
       with_reducible apply Moves.mk)

theorem State.loadRec_moves {s₀ : State} {fabric : Bool} {s : State} {r : LoadRec} (hm : Moves s₀ s) :
    Moves s₀ (State.loadRec fabric s r) := by
  unfold State.loadRec
  repeat' first
    | with_reducible assumption
    | (intro _; intros)
    | with_reducible apply doTblWrite_moves
    | with_reducible apply State.loadWrite_moves
    | split
    | dsimp only
    | (conv => arg 2; arg 73; skip
       with_reducible apply Moves.mk)

theorem State.applySections_moves {s₀ : State} {s : State} {b : List Nat} (hm : Moves s₀ s) :
    Moves s₀ (State.applySections s b) := by
  unfold State.applySections
  repeat' first
    | with_reducible assumption
    | (intro _; intros)
    | (extract_lets +onlyGivenNames x; refine (fun (hx : Moves s₀ x) => ?_) ?_; clear_value x; rotate_left; subst x; rotate_right)
    | (extract_lets +onlyGivenNames x; refine (fun (hx : Moves s₀ x.1) => ?_) ?_; clear_value x; rotate_left; subst x; rotate_right)
    | (extract_lets +onlyGivenNames x; have _ : _ → _ := x; subst x)
    | (extract_lets +onlyGivenNames x; first | clear_value x | subst x)
    | with_reducible apply moves_foldl
    | with_reducible apply moves_foldl_fst
    | with_reducible apply State.loadRec_moves
    | with_reducible apply State.setFld_moves
    | split
    | (conv => arg 2; arg 73; skip
       with_reducible apply Moves.mk)

theorem State.showImage_moves {s₀ : State} {s : State} {slot : Nat} {b : List Nat} (hm : Moves s₀ s) :
    Moves s₀ (State.showImage s slot b) := by
  unfold State.showImage
  repeat' first
    | with_reducible assumption
    | (intro _; intros)
    | (extract_lets +onlyGivenNames x; refine (fun (hx : Moves s₀ x) => ?_) ?_; clear_value x; rotate_left; subst x; rotate_right)
    | (extract_lets +onlyGivenNames x; refine (fun (hx : Moves s₀ x.1) => ?_) ?_; clear_value x; rotate_left; subst x; rotate_right)
    | (extract_lets +onlyGivenNames x; first | clear_value x | subst x)
    | with_reducible apply moves_foldl
    | with_reducible apply moves_foldl_fst
    | with_reducible apply State.setFld_moves
    | with_reducible apply State.setReg_moves
    | split
    | (conv => arg 2; arg 73; skip
       with_reducible apply Moves.mk)

theorem State.applyImage_moves {s₀ : State} {s : State} {b : List Nat} (hm : Moves s₀ s) :
    Moves s₀ (State.applyImage s b) := by
  unfold State.applyImage
  repeat' first
    | with_reducible assumption
    | (intro _; intros)
    | (extract_lets +onlyGivenNames x; refine (fun (hx : Moves s₀ x) => ?_) ?_; clear_value x; rotate_left; subst x; rotate_right)
    | (extract_lets +onlyGivenNames x; refine (fun (hx : Moves s₀ x.1) => ?_) ?_; clear_value x; rotate_left; subst x; rotate_right)
    | (extract_lets +onlyGivenNames x; first | clear_value x | subst x)
    | with_reducible apply moves_foldl
    | with_reducible apply moves_foldl_fst
    | with_reducible apply State.applySections_moves
    | with_reducible apply State.driveLref_moves
    | with_reducible apply State.enablePort_moves
    | with_reducible apply State.log_moves
    | with_reducible apply State.segStart_moves
    | with_reducible apply State.setFld_moves
    | with_reducible apply State.setTwin_moves
    | with_reducible apply State.showChan_moves
    | with_reducible apply State.showTrig_moves
    | with_reducible apply State.strobePin_moves
    | with_reducible apply State.wakeGroup_moves
    | split
    | (conv => arg 2; arg 73; skip
       with_reducible apply Moves.mk)

theorem State.roleCheck_moves {s₀ : State} {s : State} {b : List Nat} (hm : Moves s₀ s) :
    Moves s₀ (State.roleCheck s b) := by
  unfold State.roleCheck
  repeat' first
    | with_reducible assumption
    | (extract_lets +onlyGivenNames x; refine (fun (hx : Moves s₀ x) => ?_) ?_; clear_value x; rotate_left; subst x; rotate_right)
    | (extract_lets +onlyGivenNames x; refine (fun (hx : Moves s₀ x.1) => ?_) ?_; clear_value x; rotate_left; subst x; rotate_right)
    | (extract_lets +onlyGivenNames x; first | clear_value x | subst x)
    | with_reducible apply State.applyImage_moves
    | with_reducible apply State.log_moves
    | with_reducible apply State.setFld_moves
    | split

theorem doImageVerify_moves {s₀ : State} {errA errB : Nat} {s : State} (hm : Moves s₀ s) :
    Moves s₀ (doImageVerify errA errB s) := by
  unfold doImageVerify
  repeat' first
    | with_reducible assumption
    | (extract_lets +onlyGivenNames x; refine (fun (hx : Moves s₀ x) => ?_) ?_; clear_value x; rotate_left; subst x; rotate_right)
    | (extract_lets +onlyGivenNames x; refine (fun (hx : Moves s₀ x.1) => ?_) ?_; clear_value x; rotate_left; subst x; rotate_right)
    | (extract_lets +onlyGivenNames x; first | clear_value x | subst x)
    | with_reducible apply State.log_moves
    | with_reducible apply State.roleCheck_moves
    | with_reducible apply State.setFld_moves
    | with_reducible apply State.showImage_moves
    | split
    | dsimp only
    | (conv => arg 2; arg 73; skip
       with_reducible apply Moves.mk)

@[simp] theorem execImageVerify_moves {s₀ : State} {errA errB : Nat} :
    Answered s₀ (execImageVerify errA errB s₀) := by
  have hm := Moves.refl s₀
  refine answered ?_
  repeat' first
    | with_reducible assumption
    | with_reducible apply doImageVerify_moves
    | split

theorem State.loadFw_moves {s₀ : State} {s : State} {core kind slot : Nat} (hm : Moves s₀ s) :
    Moves s₀ (State.loadFw s core kind slot) := by
  unfold State.loadFw
  repeat' first
    | with_reducible assumption
    | (extract_lets +onlyGivenNames x; refine (fun (hx : Moves s₀ x) => ?_) ?_; clear_value x; rotate_left; subst x; rotate_right)
    | (extract_lets +onlyGivenNames x; refine (fun (hx : Moves s₀ x.1) => ?_) ?_; clear_value x; rotate_left; subst x; rotate_right)
    | (extract_lets +onlyGivenNames x; first | clear_value x | subst x)
    | with_reducible apply State.setFld_moves
    | split
    | dsimp only
    | (conv => arg 2; arg 73; skip
       with_reducible apply Moves.mk)
    | (conv => arg 2; arg 73; skip
       with_reducible apply Moves.mkTcm)

theorem doMc0Check_moves {s₀ : State} {errA errB : Bool} {s : State} (hm : Moves s₀ s) :
    Moves s₀ (doMc0Check errA errB s) := by
  unfold doMc0Check
  repeat' first
    | with_reducible assumption
    | (intro _; intros)
    | (extract_lets +onlyGivenNames x; refine (fun (hx : Moves s₀ x) => ?_) ?_; clear_value x; rotate_left; subst x; rotate_right)
    | (extract_lets +onlyGivenNames x; refine (fun (hx : Moves s₀ x.1) => ?_) ?_; clear_value x; rotate_left; subst x; rotate_right)
    | (extract_lets +onlyGivenNames x; first | clear_value x | subst x)
    | with_reducible apply moves_foldl
    | with_reducible apply moves_foldl_fst
    | with_reducible apply State.groupLost_moves
    | with_reducible apply State.loadFw_moves
    | with_reducible apply State.log_moves
    | with_reducible apply State.portsOff_moves
    | with_reducible apply State.setFld_moves
    | with_reducible apply State.setGrp_moves
    | with_reducible apply State.setTwin_moves
    | split
    | dsimp only
    | (conv => arg 2; arg 73; skip
       with_reducible apply Moves.mk)

@[simp] theorem execMc0FirmwareCheck_moves {s₀ : State} {errA errB : Bool} :
    Answered s₀ (execMc0FirmwareCheck errA errB s₀) := by
  have hm := Moves.refl s₀
  refine answered ?_
  repeat' first
    | with_reducible assumption
    | with_reducible apply doMc0Check_moves
    | split

theorem doMc1Check_moves {s₀ : State} {errA errB : Bool} {s : State} (hm : Moves s₀ s) :
    Moves s₀ (doMc1Check errA errB s) := by
  unfold doMc1Check
  repeat' first
    | with_reducible assumption
    | (extract_lets +onlyGivenNames x; refine (fun (hx : Moves s₀ x) => ?_) ?_; clear_value x; rotate_left; subst x; rotate_right)
    | (extract_lets +onlyGivenNames x; refine (fun (hx : Moves s₀ x.1) => ?_) ?_; clear_value x; rotate_left; subst x; rotate_right)
    | (extract_lets +onlyGivenNames x; first | clear_value x | subst x)
    | with_reducible apply State.loadFw_moves
    | with_reducible apply State.log_moves
    | with_reducible apply State.setFld_moves
    | split
    | dsimp only
    | (conv => arg 2; arg 73; skip
       with_reducible apply Moves.mk)

@[simp] theorem execMc1FirmwareCheck_moves {s₀ : State} {errA errB : Bool} :
    Answered s₀ (execMc1FirmwareCheck errA errB s₀) := by
  have hm := Moves.refl s₀
  refine answered ?_
  repeat' first
    | with_reducible assumption
    | with_reducible apply doMc1Check_moves
    | split

theorem State.releaseBalls_moves {s₀ : State} {s : State} (hm : Moves s₀ s) :
    Moves s₀ (State.releaseBalls s) := by
  unfold State.releaseBalls
  repeat' first
    | with_reducible assumption
    | (intro _; intros)
    | (extract_lets +onlyGivenNames x; refine (fun (hx : Moves s₀ x) => ?_) ?_; clear_value x; rotate_left; subst x; rotate_right)
    | (extract_lets +onlyGivenNames x; refine (fun (hx : Moves s₀ x.1) => ?_) ?_; clear_value x; rotate_left; subst x; rotate_right)
    | (extract_lets +onlyGivenNames x; first | clear_value x | subst x)
    | with_reducible apply moves_foldl
    | with_reducible apply moves_foldl_fst
    | with_reducible apply State.emit_moves
    | split

theorem State.sample_moves {s₀ : State} {s : State} {enc : Nat} (hm : Moves s₀ s) :
    Moves s₀ (State.sample s enc) := by
  unfold State.sample
  repeat' first
    | with_reducible assumption
    | (intro _; intros)
    | (extract_lets +onlyGivenNames x; refine (fun (hx : Moves s₀ x) => ?_) ?_; clear_value x; rotate_left; subst x; rotate_right)
    | (extract_lets +onlyGivenNames x; refine (fun (hx : Moves s₀ x.1) => ?_) ?_; clear_value x; rotate_left; subst x; rotate_right)
    | (extract_lets +onlyGivenNames x; first | clear_value x | subst x)
    | with_reducible apply moves_foldl
    | with_reducible apply moves_foldl_fst
    | with_reducible apply State.setFld_moves
    | with_reducible apply State.showTrig_moves
    | split

/-- What a reset keeps of the register file is a selection of it. -/
theorem Moves.ofReset {s₀ s : State} (p : Nat × Word → Bool) (u : State) (hm : Moves s₀ s)
    (e : u.kept = ⟨s.regs.filter p, [], [], s.flash, s.tcm, s.shared, s.mbx, s.otp, s.pending⟩) : Moves s₀ u := by
  have h := KMoves.fmClear (KMoves.imgKeep (KMoves.regKeep hm p) (fun _ => false))
  have e0 : s.imgRegs.filter (fun _ => false) = [] := List.filter_eq_nil_iff.mpr (by simp)
  unfold Moves
  rw [e]
  exact e0 ▸ h

theorem State.wiped_moves {s₀ s : State} {por : Bool} (hm : Moves s₀ s) : Moves s₀ (s.wiped por) := by
  cases por
  · exact Moves.ofReset _ _ hm rfl
  · refine Moves.ofReset (fun _ => false) _ hm ?_
    rw [List.filter_eq_nil_iff.mpr (by simp)]
    rfl

theorem State.afterReset_moves {s₀ : State} {s : State} {por : Bool} (hm : Moves s₀ s) :
    Moves s₀ (State.afterReset s por) := by
  unfold State.afterReset
  repeat' first
    | with_reducible assumption
    | (extract_lets +onlyGivenNames x; refine (fun (hx : Moves s₀ x) => ?_) ?_; clear_value x; rotate_left; subst x; rotate_right)
    | (extract_lets +onlyGivenNames x; refine (fun (hx : Moves s₀ x.1) => ?_) ?_; clear_value x; rotate_left; subst x; rotate_right)
    | (extract_lets +onlyGivenNames x; first | clear_value x | subst x)
    | with_reducible apply State.driveLref_moves
    | with_reducible apply State.faultPin_moves
    | with_reducible apply State.releaseBalls_moves
    | with_reducible apply State.sample_moves
    | with_reducible apply State.setFld_moves
    | with_reducible apply State.wiped_moves
    | split

theorem doPowerOn_moves {s₀ : State} {role twinId : Nat} {bank33 trig33 : Bool} {s : State} (hm : Moves s₀ s) :
    Moves s₀ (doPowerOn role twinId bank33 trig33 s) := by
  unfold doPowerOn
  repeat' first
    | with_reducible assumption
    | with_reducible apply State.afterReset_moves
    | split
    | (conv => arg 2; arg 73; skip
       with_reducible apply Moves.mk)

@[simp] theorem execPowerOnReset_moves {s₀ : State} {role twinId : Nat} {bank33 trig33 : Bool} :
    Answered s₀ (execPowerOnReset role twinId bank33 trig33 s₀) := by
  have hm := Moves.refl s₀
  refine answered ?_
  repeat' first
    | with_reducible assumption
    | with_reducible apply doPowerOn_moves
    | split

theorem doWarmReset_moves {s₀ : State} {role twinId : Nat} {s : State} (hm : Moves s₀ s) :
    Moves s₀ (doWarmReset role twinId s) := by
  unfold doWarmReset
  repeat' first
    | with_reducible assumption
    | (extract_lets +onlyGivenNames x; refine (fun (hx : Moves s₀ x) => ?_) ?_; clear_value x; rotate_left; subst x; rotate_right)
    | (extract_lets +onlyGivenNames x; refine (fun (hx : Moves s₀ x.1) => ?_) ?_; clear_value x; rotate_left; subst x; rotate_right)
    | (extract_lets +onlyGivenNames x; first | clear_value x | subst x)
    | with_reducible apply State.afterReset_moves
    | with_reducible apply State.count_moves
    | with_reducible apply State.setFld_moves
    | split
    | dsimp only
    | (conv => arg 2; arg 73; skip
       with_reducible apply Moves.mk)

@[simp] theorem execWarmReset_moves {s₀ : State} {role twinId : Nat} :
    Answered s₀ (execWarmReset role twinId s₀) := by
  have hm := Moves.refl s₀
  refine answered ?_
  repeat' first
    | with_reducible assumption
    | with_reducible apply doWarmReset_moves
    | split

theorem State.wantReset_moves {s₀ : State} {s : State} {cause : Nat} (hm : Moves s₀ s) :
    Moves s₀ (State.wantReset s cause) := by
  unfold State.wantReset
  repeat' first
    | with_reducible assumption
    | split
    | (conv => arg 2; arg 73; skip
       with_reducible apply Moves.mk)

theorem doRstN_moves {s₀ : State} {low : Bool} {s : State} (hm : Moves s₀ s) :
    Moves s₀ (doRstN low s) := by
  unfold doRstN
  repeat' first
    | with_reducible assumption
    | (extract_lets +onlyGivenNames x; refine (fun (hx : Moves s₀ x) => ?_) ?_; clear_value x; rotate_left; subst x; rotate_right)
    | (extract_lets +onlyGivenNames x; refine (fun (hx : Moves s₀ x.1) => ?_) ?_; clear_value x; rotate_left; subst x; rotate_right)
    | (extract_lets +onlyGivenNames x; first | clear_value x | subst x)
    | with_reducible apply State.afterReset_moves
    | split
    | (conv => arg 2; arg 73; skip
       with_reducible apply Moves.mk)

@[simp] theorem execRstNAssert_moves {s₀ : State} {low : Bool} :
    Answered s₀ (execRstNAssert low s₀) := by
  have hm := Moves.refl s₀
  refine answered ?_
  repeat' first
    | with_reducible assumption
    | with_reducible apply doRstN_moves
    | split

theorem doAonFall_moves {s₀ : State} {s : State} (hm : Moves s₀ s) :
    Moves s₀ (doAonFall s) := by
  unfold doAonFall
  repeat' first
    | with_reducible assumption
    | (extract_lets +onlyGivenNames x; refine (fun (hx : Moves s₀ x) => ?_) ?_; clear_value x; rotate_left; subst x; rotate_right)
    | (extract_lets +onlyGivenNames x; refine (fun (hx : Moves s₀ x.1) => ?_) ?_; clear_value x; rotate_left; subst x; rotate_right)
    | (extract_lets +onlyGivenNames x; first | clear_value x | subst x)
    | with_reducible apply State.afterReset_moves
    | with_reducible apply State.driveLref_moves
    | split
    | (conv => arg 2; arg 73; skip
       with_reducible apply Moves.mk)

@[simp] theorem execVddAonFall_moves {s₀ : State}  :
    Answered s₀ (execVddAonFall s₀) := by
  have hm := Moves.refl s₀
  refine answered ?_
  repeat' first
    | with_reducible assumption
    | with_reducible apply doAonFall_moves
    | split

theorem State.pcrReset_moves {s₀ : State} {s : State} {data : Word} (hm : Moves s₀ s) :
    Moves s₀ (State.pcrReset s data) := by
  unfold State.pcrReset
  repeat' first
    | with_reducible assumption
    | with_reducible apply State.sendBcast_moves
    | with_reducible apply State.wantReset_moves
    | split
    | dsimp only
    | (conv => arg 2; arg 73; skip
       with_reducible apply Moves.mk)

@[simp] theorem execPcrResetWarm_moves {s₀ : State} {i : Initiator} {data : Word} :
    Answered s₀ (execPcrResetWarm i data s₀) := by
  have hm := Moves.refl s₀
  refine answered ?_
  repeat' first
    | with_reducible assumption
    | (intro _; intros)
    | with_reducible apply State.pcrReset_moves
    | with_reducible apply State.swWrite_moves
    | split

@[simp] theorem execInstallationReset_moves {s₀ : State} {i : Initiator} {data : Word} :
    Answered s₀ (execInstallationReset i data s₀) := by
  have hm := Moves.refl s₀
  refine answered ?_
  repeat' first
    | with_reducible assumption
    | (intro _; intros)
    | with_reducible apply State.pcrReset_moves
    | with_reducible apply State.swWrite_moves
    | split

theorem doBcast_moves {s₀ : State} {g : Nat} {s : State} (hm : Moves s₀ s) :
    Moves s₀ (doBcast g s) := by
  unfold doBcast
  repeat' first
    | with_reducible assumption
    | (rename _ = ((_ : State), _) => heq; have hk := congrArg Prod.fst heq; dsimp only at hk; subst hk; clear heq)
    | (extract_lets +onlyGivenNames x; refine (fun (hx : Moves s₀ x) => ?_) ?_; clear_value x; rotate_left; subst x; rotate_right)
    | (extract_lets +onlyGivenNames x; refine (fun (hx : Moves s₀ x.1) => ?_) ?_; clear_value x; rotate_left; subst x; rotate_right)
    | (extract_lets +onlyGivenNames x; first | clear_value x | subst x)
    | with_reducible apply State.armSlot_moves
    | with_reducible apply State.forwardBcast_moves
    | with_reducible apply State.takeRx_moves
    | with_reducible apply State.wantReset_moves
    | split
    | dsimp only
    | (conv => arg 2; arg 73; skip
       with_reducible apply Moves.mk)

@[simp] theorem execBcastReceive_moves {s₀ : State} {g : Nat} :
    Answered s₀ (execBcastReceive g s₀) := by
  have hm := Moves.refl s₀
  refine answered ?_
  repeat' first
    | with_reducible assumption
    | with_reducible apply doBcast_moves
    | split

theorem doPerst_moves {s₀ : State} {s : State} (hm : Moves s₀ s) :
    Moves s₀ (doPerst s) := by
  unfold doPerst
  repeat' first
    | with_reducible assumption
    | (extract_lets +onlyGivenNames x; refine (fun (hx : Moves s₀ x) => ?_) ?_; clear_value x; rotate_left; subst x; rotate_right)
    | (extract_lets +onlyGivenNames x; refine (fun (hx : Moves s₀ x.1) => ?_) ?_; clear_value x; rotate_left; subst x; rotate_right)
    | (extract_lets +onlyGivenNames x; first | clear_value x | subst x)
    | with_reducible apply State.flrAll_moves
    | with_reducible apply State.setFld_moves
    | with_reducible apply State.wantReset_moves
    | split
    | (conv => arg 2; arg 73; skip
       with_reducible apply Moves.mk)

@[simp] theorem execPerstN_moves {s₀ : State}  :
    Answered s₀ (execPerstN s₀) := by
  have hm := Moves.refl s₀
  refine answered ?_
  repeat' first
    | with_reducible assumption
    | with_reducible apply doPerst_moves
    | split

theorem doEndpointReady_moves {s₀ : State} {s : State} (hm : Moves s₀ s) :
    Moves s₀ (doEndpointReady s) := by
  unfold doEndpointReady
  repeat' first
    | with_reducible assumption
    | (intro _; intros)
    | (extract_lets +onlyGivenNames x; refine (fun (hx : Moves s₀ x) => ?_) ?_; clear_value x; rotate_left; subst x; rotate_right)
    | (extract_lets +onlyGivenNames x; refine (fun (hx : Moves s₀ x.1) => ?_) ?_; clear_value x; rotate_left; subst x; rotate_right)
    | (extract_lets +onlyGivenNames x; first | clear_value x | subst x)
    | with_reducible apply moves_foldl
    | with_reducible apply moves_foldl_fst
    | with_reducible apply State.setCfg_moves
    | with_reducible apply State.setFld_moves
    | split
    | (conv => arg 2; arg 73; skip
       with_reducible apply Moves.mk)

@[simp] theorem execEndpointReady_moves {s₀ : State}  :
    Answered s₀ (execEndpointReady s₀) := by
  have hm := Moves.refl s₀
  refine answered ?_
  repeat' first
    | with_reducible assumption
    | with_reducible apply doEndpointReady_moves
    | split

theorem doSensorGo_moves {s₀ : State} {s : State} (hm : Moves s₀ s) :
    Moves s₀ (doSensorGo s) := by
  unfold doSensorGo
  repeat' first
    | with_reducible assumption
    | (intro _; intros)
    | (extract_lets +onlyGivenNames x; refine (fun (hx : Moves s₀ x) => ?_) ?_; clear_value x; rotate_left; subst x; rotate_right)
    | (extract_lets +onlyGivenNames x; refine (fun (hx : Moves s₀ x.1) => ?_) ?_; clear_value x; rotate_left; subst x; rotate_right)
    | (extract_lets +onlyGivenNames x; first | clear_value x | subst x)
    | with_reducible apply moves_foldl
    | with_reducible apply moves_foldl_fst
    | with_reducible apply State.checkStreamsReady_moves
    | with_reducible apply State.setFld_moves
    | with_reducible apply State.stopStream_moves
    | split

@[simp] theorem execSensorGo_moves {s₀ : State}  :
    Answered s₀ (execSensorGo s₀) := by
  have hm := Moves.refl s₀
  refine answered ?_
  repeat' first
    | with_reducible assumption
    | with_reducible apply doSensorGo_moves
    | split

theorem doRomRead_moves {s₀ : State} {a n : Nat} {s : State} (hm : Moves s₀ s) :
    Moves s₀ (doRomRead a n s) := by
  unfold doRomRead
  repeat' first
    | with_reducible assumption
    | (intro _; intros)
    | (extract_lets +onlyGivenNames x; refine (fun (hx : Moves s₀ x) => ?_) ?_; clear_value x; rotate_left; subst x; rotate_right)
    | (extract_lets +onlyGivenNames x; refine (fun (hx : Moves s₀ x.1) => ?_) ?_; clear_value x; rotate_left; subst x; rotate_right)
    | (extract_lets +onlyGivenNames x; first | clear_value x | subst x)
    | with_reducible apply State.emit_moves
    | with_reducible apply State.unsupported_moves
    | split

@[simp] theorem execExpansionRomRead_moves {s₀ : State} {a n : Nat} :
    Answered s₀ (execExpansionRomRead a n s₀) := by
  have hm := Moves.refl s₀
  refine answered ?_
  repeat' first
    | with_reducible assumption
    | with_reducible apply doRomRead_moves
    | split

end Sys2Proof.Machine
end

