-- ==== Sys2Proof/Laws/MovesMgmt.lean ====
section
/-! SUPPORT. What the operations of Machine/Mgmt.lean can do to the memories, the register file, the key slots and the queue: moves, and nothing
else. -/

namespace Sys2Proof.Machine

theorem State.modMgt_moves {s₀ : State} {s : State} {f : MgtSt → MgtSt} (hm : Moves s₀ s) :
    Moves s₀ (State.modMgt s f) := by
  unfold State.modMgt
  repeat' first
    | with_reducible assumption
    | split
    | (conv => arg 2; arg 73; skip
       with_reducible apply Moves.mk)

theorem State.mbxWrite_moves {s₀ : State} {s : State} {a : Nat} {bytes : List Nat} (hm : Moves s₀ s) :
    Moves s₀ (State.mbxWrite s a bytes) := by
  unfold State.mbxWrite
  repeat' first
    | with_reducible assumption
    | split
    | (conv => arg 2; arg 73; skip
       with_reducible apply Moves.mk)
    | (conv => arg 2; arg 73; skip
       with_reducible apply Moves.mkMbx)

theorem State.flashTouched_moves {s₀ : State} {s : State} {a n : Nat} (hm : Moves s₀ s) :
    Moves s₀ (State.flashTouched s a n) := by
  unfold State.flashTouched
  repeat' first
    | with_reducible assumption
    | (intro _; intros)
    | (extract_lets +onlyGivenNames x; refine (fun (hx : Moves s₀ x) => ?_) ?_; clear_value x; rotate_left; subst x; rotate_right)
    | (extract_lets +onlyGivenNames x; refine (fun (hx : Moves s₀ x.1) => ?_) ?_; clear_value x; rotate_left; subst x; rotate_right)
    | (extract_lets +onlyGivenNames x; first | clear_value x | subst x)
    | with_reducible apply State.modMgt_moves
    | with_reducible apply State.setFld_moves
    | split
    | (conv => arg 2; arg 73; skip
       with_reducible apply Moves.mk)

theorem State.flashSpoilt_moves {s₀ s : State} {a n : Nat} (hm : Moves s₀ s) : Moves s₀ (s.flashSpoilt a n) := by
  unfold State.flashSpoilt
  dsimp only
  with_reducible apply Moves.mkFlash
  exact State.freeBytes_moves hm

theorem State.mbxNonce_moves {s₀ : State} {s : State} (hm : Moves s₀ s) :
    Moves s₀ (State.mbxNonce s).1 := by
  unfold State.mbxNonce
  repeat' first
    | with_reducible assumption
    | (intro _; intros)
    | (extract_lets +onlyGivenNames x; refine (fun (hx : Moves s₀ x) => ?_) ?_; clear_value x; rotate_left; subst x; rotate_right)
    | (extract_lets +onlyGivenNames x; refine (fun (hx : Moves s₀ x.1) => ?_) ?_; clear_value x; rotate_left; subst x; rotate_right)
    | (extract_lets +onlyGivenNames x; first | clear_value x | subst x)
    | with_reducible apply State.freeBytes_moves
    | with_reducible apply State.mbxWrite_moves
    | with_reducible apply State.modMgt_moves
    | split
    | dsimp only
    | (conv => arg 2; arg 73; skip
       with_reducible apply Moves.mk)

theorem State.mbxOpen_moves {s₀ : State} {s : State} (hm : Moves s₀ s) :
    Moves s₀ (State.mbxOpen s).1 := by
  unfold State.mbxOpen
  repeat' first
    | with_reducible assumption
    | (intro _; intros)
    | (extract_lets +onlyGivenNames x; refine (fun (hx : Moves s₀ x) => ?_) ?_; clear_value x; rotate_left; subst x; rotate_right)
    | (extract_lets +onlyGivenNames x; refine (fun (hx : Moves s₀ x.1) => ?_) ?_; clear_value x; rotate_left; subst x; rotate_right)
    | (extract_lets +onlyGivenNames x; first | clear_value x | subst x)
    | with_reducible apply State.log_moves
    | with_reducible apply State.modMgt_moves
    | with_reducible apply State.setFld_moves
    | split
    | dsimp only
    | (conv => arg 2; arg 73; skip
       with_reducible apply Moves.mk)

theorem State.mbxErase_moves {s₀ : State} {s : State} {err : Bool} (hm : Moves s₀ s) :
    Moves s₀ (State.mbxErase s err).1 := by
  unfold State.mbxErase
  repeat' first
    | with_reducible assumption
    | (intro _; intros)
    | (extract_lets +onlyGivenNames x; refine (fun (hx : Moves s₀ x) => ?_) ?_; clear_value x; rotate_left; subst x; rotate_right)
    | (extract_lets +onlyGivenNames x; refine (fun (hx : Moves s₀ x.1) => ?_) ?_; clear_value x; rotate_left; subst x; rotate_right)
    | (extract_lets +onlyGivenNames x; first | clear_value x | subst x)
    | with_reducible apply State.flashSpoilt_moves
    | with_reducible apply State.flashTouched_moves
    | split
    | dsimp only
    | (conv => arg 2; arg 73; skip
       with_reducible apply Moves.mk)
    | (conv => arg 2; arg 73; skip
       with_reducible apply Moves.mkFlashKeep)

theorem State.mbxFlash_moves {s₀ : State} {s : State} {err : Bool} (hm : Moves s₀ s) :
    Moves s₀ (State.mbxFlash s err).1 := by
  unfold State.mbxFlash
  repeat' first
    | with_reducible assumption
    | (extract_lets +onlyGivenNames x; refine (fun (hx : Moves s₀ x) => ?_) ?_; clear_value x; rotate_left; subst x; rotate_right)
    | (extract_lets +onlyGivenNames x; refine (fun (hx : Moves s₀ x.1) => ?_) ?_; clear_value x; rotate_left; subst x; rotate_right)
    | (extract_lets +onlyGivenNames x; first | clear_value x | subst x)
    | with_reducible apply State.flashSpoilt_moves
    | with_reducible apply State.flashTouched_moves
    | split
    | dsimp only
    | (conv => arg 2; arg 73; skip
       with_reducible apply Moves.mk)
    | (conv => arg 2; arg 73; skip
       with_reducible apply Moves.mkFlash)

theorem State.mbxVerify_moves {s₀ : State} {s : State} {err : Nat} (hm : Moves s₀ s) :
    Moves s₀ (State.mbxVerify s err).1 := by
  unfold State.mbxVerify
  repeat' first
    | with_reducible assumption
    | (intro _; intros)
    | (extract_lets +onlyGivenNames x; refine (fun (hx : Moves s₀ x) => ?_) ?_; clear_value x; rotate_left; subst x; rotate_right)
    | (extract_lets +onlyGivenNames x; refine (fun (hx : Moves s₀ x.1) => ?_) ?_; clear_value x; rotate_left; subst x; rotate_right)
    | (extract_lets +onlyGivenNames x; first | clear_value x | subst x)
    | with_reducible apply State.modMgt_moves
    | split
    | dsimp only
    | (conv => arg 2; arg 73; skip
       with_reducible apply Moves.mk)

theorem State.mbxPrefer_moves {s₀ : State} {s : State} {err : Bool} (hm : Moves s₀ s) :
    Moves s₀ (State.mbxPrefer s err).1 := by
  unfold State.mbxPrefer
  repeat' first
    | with_reducible assumption
    | (extract_lets +onlyGivenNames x; refine (fun (hx : Moves s₀ x) => ?_) ?_; clear_value x; rotate_left; subst x; rotate_right)
    | (extract_lets +onlyGivenNames x; refine (fun (hx : Moves s₀ x.1) => ?_) ?_; clear_value x; rotate_left; subst x; rotate_right)
    | (extract_lets +onlyGivenNames x; first | clear_value x | subst x)
    | with_reducible apply State.flashSpoilt_moves
    | split
    | dsimp only
    | (conv => arg 2; arg 73; skip
       with_reducible apply Moves.mk)
    | (conv => arg 2; arg 73; skip
       with_reducible apply Moves.mkFlash)

theorem State.mbxAttest_moves {s₀ : State} {s : State} (hm : Moves s₀ s) :
    Moves s₀ (State.mbxAttest s).1 := by
  unfold State.mbxAttest
  repeat' first
    | with_reducible assumption
    | with_reducible apply State.mbxWrite_moves
    | split
    | dsimp only

theorem State.mbxAcc_moves {s₀ : State} {s : State} (hm : Moves s₀ s) :
    Moves s₀ (State.mbxAcc s).1 := by
  unfold State.mbxAcc
  repeat' first
    | with_reducible assumption
    | (extract_lets +onlyGivenNames x; refine (fun (hx : Moves s₀ x) => ?_) ?_; clear_value x; rotate_left; subst x; rotate_right)
    | (extract_lets +onlyGivenNames x; refine (fun (hx : Moves s₀ x.1) => ?_) ?_; clear_value x; rotate_left; subst x; rotate_right)
    | (extract_lets +onlyGivenNames x; first | clear_value x | subst x)
    | with_reducible apply State.log_moves
    | with_reducible apply State.plainWrite_moves
    | split
    | dsimp only

theorem State.setKey_program_moves {s₀ s : State} {k : Nat} {d : List Nat} (e : (s.otp.get k).1 = 0) (hm : Moves s₀ s) :
    Moves s₀ (s.setKey k 1 d) := by
  unfold State.setKey
  apply State.log_moves
  apply State.setFld_moves
  exact Moves.mkProgram e hm

theorem State.setKey_revoke_moves {s₀ s : State} {k : Nat} (hm : Moves s₀ s) :
    Moves s₀ (s.setKey k 2 (s.otp.get k).2) := by
  unfold State.setKey
  apply State.log_moves
  apply State.setFld_moves
  exact Moves.mkRevoke hm

theorem State.mbxProgram_moves {s₀ s : State} (hm : Moves s₀ s) : Moves s₀ (s.mbxProgram).1 := by
  unfold State.mbxProgram
  split
  · exact hm
  · rename_i k e
    have e0 := List.find?_some e
    exact State.setKey_program_moves (by simpa using e0) hm

theorem State.mbxRevoke_moves {s₀ s : State} (hm : Moves s₀ s) : Moves s₀ (s.mbxRevoke).1 := by
  unfold State.mbxRevoke
  dsimp only
  split
  · exact hm
  · split
    · exact hm
    · exact State.setKey_revoke_moves hm

theorem State.mbxRun_moves {s₀ : State} {s : State} {code err : Nat} (hm : Moves s₀ s) :
    Moves s₀ (State.mbxRun s code err).1 := by
  unfold State.mbxRun
  repeat' first
    | with_reducible assumption
    | (rename _ = ((_ : State), _) => heq; have hk := congrArg Prod.fst heq; dsimp only at hk; subst hk; clear heq)
    | with_reducible apply State.draw_moves
    | with_reducible apply State.endSession_moves
    | with_reducible apply State.mbxAcc_moves
    | with_reducible apply State.mbxAttest_moves
    | with_reducible apply State.mbxErase_moves
    | with_reducible apply State.mbxFlash_moves
    | with_reducible apply State.mbxNonce_moves
    | with_reducible apply State.mbxOpen_moves
    | with_reducible apply State.mbxPrefer_moves
    | with_reducible apply State.mbxProgram_moves
    | with_reducible apply State.mbxRevoke_moves
    | with_reducible apply State.mbxVerify_moves
    | split
    | dsimp only
    | (conv => arg 2; arg 73; skip
       with_reducible apply Moves.mk)

theorem State.mbxEnd_moves {s₀ : State} {s : State} {code result detail : Nat} (hm : Moves s₀ s) :
    Moves s₀ (State.mbxEnd s code result detail) := by
  unfold State.mbxEnd
  repeat' first
    | with_reducible assumption
    | with_reducible apply State.setFld_moves
    | with_reducible apply State.setReg_moves
    | split

theorem State.mailbox_moves {s₀ : State} {s : State} {code err : Nat} (hm : Moves s₀ s) :
    Moves s₀ (State.mailbox s code err) := by
  unfold State.mailbox
  repeat' first
    | with_reducible assumption
    | (intro _; intros)
    | (extract_lets +onlyGivenNames x; refine (fun (hx : Moves s₀ x) => ?_) ?_; clear_value x; rotate_left; subst x; rotate_right)
    | (extract_lets +onlyGivenNames x; refine (fun (hx : Moves s₀ x.1) => ?_) ?_; clear_value x; rotate_left; subst x; rotate_right)
    | (extract_lets +onlyGivenNames x; first | clear_value x | subst x)
    | with_reducible apply State.mbxEnd_moves
    | with_reducible apply State.mbxRun_moves
    | with_reducible apply State.modMgt_moves
    | with_reducible apply State.setFld_moves
    | split
    | (conv => arg 2; arg 73; skip
       with_reducible apply Moves.mk)

theorem doMbxDone_moves {s₀ : State} {s : State} (hm : Moves s₀ s) :
    Moves s₀ (doMbxDone s) := by
  unfold doMbxDone
  repeat' first
    | with_reducible assumption
    | (intro _; intros)
    | (rename _ = ((_ : State), _) => heq; have hk := congrArg Prod.fst heq; dsimp only at hk; subst hk; clear heq)
    | (extract_lets +onlyGivenNames x; refine (fun (hx : Moves s₀ x) => ?_) ?_; clear_value x; rotate_left; subst x; rotate_right)
    | (extract_lets +onlyGivenNames x; refine (fun (hx : Moves s₀ x.1) => ?_) ?_; clear_value x; rotate_left; subst x; rotate_right)
    | (extract_lets +onlyGivenNames x; have _ : _ → _ := x; subst x)
    | (extract_lets +onlyGivenNames x; first | clear_value x | subst x)
    | with_reducible apply State.mbxEnd_moves
    | with_reducible apply State.mbxRun_moves
    | with_reducible apply State.modMgt_moves
    | with_reducible apply State.setFld_moves
    | split
    | dsimp only
    | (conv => arg 2; arg 73; skip
       with_reducible apply Moves.mk)

@[simp] theorem execMbxCommandDone_moves {s₀ : State}  :
    Answered s₀ (execMbxCommandDone s₀) := by
  have hm := Moves.refl s₀
  refine answered ?_
  repeat' first
    | with_reducible assumption
    | with_reducible apply doMbxDone_moves
    | split

theorem State.mbxWriteCmd_moves {s₀ : State} {s : State} {i : Initiator} {code err : Nat} (hm : Moves s₀ s) :
    Moves s₀ (State.mbxWriteCmd s i code err) := by
  unfold State.mbxWriteCmd
  repeat' first
    | with_reducible assumption
    | (intro _; intros)
    | with_reducible apply State.mailbox_moves
    | with_reducible apply State.swWrite_moves
    | split

@[simp] theorem execMbxNonce_moves {s₀ : State} {i : Initiator} :
    Answered s₀ (execMbxNonce i s₀) := by
  have hm := Moves.refl s₀
  refine answered ?_
  repeat' first
    | with_reducible assumption
    | with_reducible apply State.mbxWriteCmd_moves
    | split

@[simp] theorem execMbxSessionOpen_moves {s₀ : State} {i : Initiator} :
    Answered s₀ (execMbxSessionOpen i s₀) := by
  have hm := Moves.refl s₀
  refine answered ?_
  repeat' first
    | with_reducible assumption
    | with_reducible apply State.mbxWriteCmd_moves
    | split

@[simp] theorem execMbxSessionClose_moves {s₀ : State} {i : Initiator} :
    Answered s₀ (execMbxSessionClose i s₀) := by
  have hm := Moves.refl s₀
  refine answered ?_
  repeat' first
    | with_reducible assumption
    | with_reducible apply State.mbxWriteCmd_moves
    | split

@[simp] theorem execMbxFlashErase_moves {s₀ : State} {i : Initiator} {err : Bool} :
    Answered s₀ (execMbxFlashErase i err s₀) := by
  have hm := Moves.refl s₀
  refine answered ?_
  repeat' first
    | with_reducible assumption
    | with_reducible apply State.mbxWriteCmd_moves
    | split

@[simp] theorem execMbxFlashWrite_moves {s₀ : State} {i : Initiator} {err : Bool} :
    Answered s₀ (execMbxFlashWrite i err s₀) := by
  have hm := Moves.refl s₀
  refine answered ?_
  repeat' first
    | with_reducible assumption
    | with_reducible apply State.mbxWriteCmd_moves
    | split

@[simp] theorem execMbxFlashVerify_moves {s₀ : State} {i : Initiator} {err : Nat} :
    Answered s₀ (execMbxFlashVerify i err s₀) := by
  have hm := Moves.refl s₀
  refine answered ?_
  repeat' first
    | with_reducible assumption
    | with_reducible apply State.mbxWriteCmd_moves
    | split

@[simp] theorem execMbxSetPreferred_moves {s₀ : State} {i : Initiator} {err : Bool} :
    Answered s₀ (execMbxSetPreferred i err s₀) := by
  have hm := Moves.refl s₀
  refine answered ?_
  repeat' first
    | with_reducible assumption
    | with_reducible apply State.mbxWriteCmd_moves
    | split

@[simp] theorem execMbxAttest_moves {s₀ : State} {i : Initiator} :
    Answered s₀ (execMbxAttest i s₀) := by
  have hm := Moves.refl s₀
  refine answered ?_
  repeat' first
    | with_reducible assumption
    | with_reducible apply State.mbxWriteCmd_moves
    | split

@[simp] theorem execMbxAccSet_moves {s₀ : State} {i : Initiator} :
    Answered s₀ (execMbxAccSet i s₀) := by
  have hm := Moves.refl s₀
  refine answered ?_
  repeat' first
    | with_reducible assumption
    | with_reducible apply State.mbxWriteCmd_moves
    | split

@[simp] theorem execMbxKeyProgram_moves {s₀ : State} {i : Initiator} :
    Answered s₀ (execMbxKeyProgram i s₀) := by
  have hm := Moves.refl s₀
  refine answered ?_
  repeat' first
    | with_reducible assumption
    | with_reducible apply State.mbxWriteCmd_moves
    | split

@[simp] theorem execMbxKeyRevoke_moves {s₀ : State} {i : Initiator} :
    Answered s₀ (execMbxKeyRevoke i s₀) := by
  have hm := Moves.refl s₀
  refine answered ?_
  repeat' first
    | with_reducible assumption
    | with_reducible apply State.mbxWriteCmd_moves
    | split

theorem State.kick_moves {s₀ : State} {s : State} {i : Nat} {data : Word} (hm : Moves s₀ s) :
    Moves s₀ (State.kick s i data) := by
  unfold State.kick
  repeat' first
    | with_reducible assumption
    | (intro _; intros)
    | with_reducible apply State.modMgt_moves
    | split
    | (conv => arg 2; arg 73; skip
       with_reducible apply Moves.mk)

@[simp] theorem execWdtKick_moves {s₀ : State} {i : Initiator} {data : Word} :
    Answered s₀ (execWdtKick i data s₀) := by
  have hm := Moves.refl s₀
  refine answered ?_
  repeat' first
    | with_reducible assumption
    | (intro _; intros)
    | with_reducible apply State.kick_moves
    | with_reducible apply State.swWrite_moves
    | split

theorem doWdtExpiry_moves {s₀ : State} {t : Nat} {s : State} (hm : Moves s₀ s) :
    Moves s₀ (doWdtExpiry t s) := by
  unfold doWdtExpiry
  repeat' first
    | with_reducible assumption
    | (intro _; intros)
    | (extract_lets +onlyGivenNames x; refine (fun (hx : Moves s₀ x) => ?_) ?_; clear_value x; rotate_left; subst x; rotate_right)
    | (extract_lets +onlyGivenNames x; refine (fun (hx : Moves s₀ x.1) => ?_) ?_; clear_value x; rotate_left; subst x; rotate_right)
    | (extract_lets +onlyGivenNames x; first | clear_value x | subst x)
    | with_reducible apply State.modMgt_moves
    | with_reducible apply State.raiseError_moves
    | split
    | (conv => arg 2; arg 73; skip
       with_reducible apply Moves.mk)

@[simp] theorem execWdtExpiry_moves {s₀ : State} {t : Nat} :
    Answered s₀ (execWdtExpiry t s₀) := by
  have hm := Moves.refl s₀
  refine answered ?_
  repeat' first
    | with_reducible assumption
    | with_reducible apply doWdtExpiry_moves
    | split

theorem State.logCode_moves {s₀ : State} {s : State} {i : Nat} {data : Word} (hm : Moves s₀ s) :
    Moves s₀ (State.logCode s i data) := by
  unfold State.logCode
  repeat' first
    | with_reducible assumption
    | (extract_lets +onlyGivenNames x; refine (fun (hx : Moves s₀ x) => ?_) ?_; clear_value x; rotate_left; subst x; rotate_right)
    | (extract_lets +onlyGivenNames x; refine (fun (hx : Moves s₀ x.1) => ?_) ?_; clear_value x; rotate_left; subst x; rotate_right)
    | (extract_lets +onlyGivenNames x; first | clear_value x | subst x)
    | with_reducible apply State.draw_moves
    | with_reducible apply State.log_moves
    | split

@[simp] theorem execLogCodeWrite_moves {s₀ : State} {i : Initiator} {data : Word} :
    Answered s₀ (execLogCodeWrite i data s₀) := by
  have hm := Moves.refl s₀
  refine answered ?_
  repeat' first
    | with_reducible assumption
    | (intro _; intros)
    | with_reducible apply State.logCode_moves
    | with_reducible apply State.swWrite_moves
    | split

theorem State.imgWindow_moves {s₀ : State} {s : State} (hm : Moves s₀ s) :
    Moves s₀ (State.imgWindow s).1 := by
  unfold State.imgWindow
  repeat' first
    | with_reducible assumption
    | (extract_lets +onlyGivenNames x; refine (fun (hx : Moves s₀ x) => ?_) ?_; clear_value x; rotate_left; subst x; rotate_right)
    | (extract_lets +onlyGivenNames x; refine (fun (hx : Moves s₀ x.1) => ?_) ?_; clear_value x; rotate_left; subst x; rotate_right)
    | (extract_lets +onlyGivenNames x; first | clear_value x | subst x)
    | with_reducible apply State.setFld_moves
    | split
    | dsimp only
    | (conv => arg 2; arg 73; skip
       with_reducible apply Moves.mk)

@[simp] theorem execImgWindowDataRead_moves {s₀ : State} {i : Initiator} :
    Answered s₀ (execImgWindowDataRead i s₀) := by
  have hm := Moves.refl s₀
  refine answered ?_
  repeat' first
    | with_reducible assumption
    | (intro _; intros)
    | with_reducible apply State.imgWindow_moves
    | with_reducible apply State.swRead_moves
    | split

theorem doIdReady_moves {s₀ : State} {s : State} (hm : Moves s₀ s) :
    Moves s₀ (doIdReady s) := by
  unfold doIdReady
  repeat' first
    | with_reducible assumption
    | (intro _; intros)
    | (extract_lets +onlyGivenNames x; refine (fun (hx : Moves s₀ x) => ?_) ?_; clear_value x; rotate_left; subst x; rotate_right)
    | (extract_lets +onlyGivenNames x; refine (fun (hx : Moves s₀ x.1) => ?_) ?_; clear_value x; rotate_left; subst x; rotate_right)
    | (extract_lets +onlyGivenNames x; first | clear_value x | subst x)
    | with_reducible apply moves_foldl
    | with_reducible apply moves_foldl_fst
    | with_reducible apply State.modMgt_moves
    | with_reducible apply State.setFld_moves
    | with_reducible apply State.setReg_moves
    | split
    | (conv => arg 2; arg 73; skip
       with_reducible apply Moves.mk)

@[simp] theorem execIdentityKeyReady_moves {s₀ : State}  :
    Answered s₀ (execIdentityKeyReady s₀) := by
  have hm := Moves.refl s₀
  refine answered ?_
  repeat' first
    | with_reducible assumption
    | with_reducible apply doIdReady_moves
    | split

end Sys2Proof.Machine
end

