-- ==== Sys2Proof/Laws/MovesSchedule.lean ====
section
/-! SUPPORT. What the operations of Machine/Schedule.lean can do to the memories, the register file, the key slots and the queue: moves, and nothing
else. -/

namespace Sys2Proof.Machine

theorem State.snapshot_moves {s₀ : State} {s : State} {t : Nat} (hm : Moves s₀ s) :
    Moves s₀ (State.snapshot s t) := by
  unfold State.snapshot
  repeat' first
    | with_reducible assumption
    | (intro _; intros)
    | (extract_lets +onlyGivenNames x; refine (fun (hx : Moves s₀ x) => ?_) ?_; clear_value x; rotate_left; subst x; rotate_right)
    | (extract_lets +onlyGivenNames x; refine (fun (hx : Moves s₀ x.1) => ?_) ?_; clear_value x; rotate_left; subst x; rotate_right)
    | (extract_lets +onlyGivenNames x; first | clear_value x | subst x)
    | with_reducible apply moves_foldl
    | with_reducible apply moves_foldl_fst
    | with_reducible apply State.bumpSeq_moves
    | with_reducible apply State.draw_moves
    | with_reducible apply State.setFld_moves
    | with_reducible apply State.setReg_moves
    | split

theorem State.fireSlot_moves {s₀ : State} {s : State} {k : Nat} (hm : Moves s₀ s) :
    Moves s₀ (State.fireSlot s k) := by
  unfold State.fireSlot
  repeat' first
    | with_reducible assumption
    | (extract_lets +onlyGivenNames x; refine (fun (hx : Moves s₀ x) => ?_) ?_; clear_value x; rotate_left; subst x; rotate_right)
    | (extract_lets +onlyGivenNames x; refine (fun (hx : Moves s₀ x.1) => ?_) ?_; clear_value x; rotate_left; subst x; rotate_right)
    | (extract_lets +onlyGivenNames x; first | clear_value x | subst x)
    | with_reducible apply State.genEvents_moves
    | with_reducible apply State.genSwitch_moves
    | with_reducible apply State.setBit_moves
    | with_reducible apply State.setSlot_moves
    | with_reducible apply State.snapshot_moves
    | split
    | dsimp only
    | (conv => arg 2; arg 73; skip
       with_reducible apply Moves.mk)

theorem State.ctrlDisarm_moves {s₀ : State} {s : State} {k : Nat} {data : Word} (hm : Moves s₀ s) :
    Moves s₀ (State.ctrlDisarm s k data) := by
  unfold State.ctrlDisarm
  repeat' first
    | with_reducible assumption
    | (extract_lets +onlyGivenNames x; refine (fun (hx : Moves s₀ x) => ?_) ?_; clear_value x; rotate_left; subst x; rotate_right)
    | (extract_lets +onlyGivenNames x; refine (fun (hx : Moves s₀ x.1) => ?_) ?_; clear_value x; rotate_left; subst x; rotate_right)
    | (extract_lets +onlyGivenNames x; first | clear_value x | subst x)
    | with_reducible apply State.fireSlot_moves
    | with_reducible apply State.plainWrite_moves
    | with_reducible apply State.setSlot_moves
    | split

theorem State.ctrlWrite_moves {s₀ : State} {s : State} {k : Nat} {data : Word} (hm : Moves s₀ s) :
    Moves s₀ (State.ctrlWrite s k data) := by
  unfold State.ctrlWrite
  repeat' first
    | with_reducible assumption
    | with_reducible apply State.ctrlArm_moves
    | with_reducible apply State.ctrlDisarm_moves
    | with_reducible apply State.plainWrite_moves
    | split

@[simp] theorem execSchedArm_moves {s₀ : State} {i : Initiator} {k : Nat} {data : Word} :
    Answered s₀ (execSchedArm i k data s₀) := by
  have hm := Moves.refl s₀
  refine answered ?_
  repeat' first
    | with_reducible assumption
    | (intro _; intros)
    | with_reducible apply State.ctrlWrite_moves
    | with_reducible apply State.swWrite_moves
    | split

@[simp] theorem execSchedDisarm_moves {s₀ : State} {i : Initiator} {k : Nat} {data : Word} :
    Answered s₀ (execSchedDisarm i k data s₀) := by
  have hm := Moves.refl s₀
  refine answered ?_
  repeat' first
    | with_reducible assumption
    | (intro _; intros)
    | with_reducible apply State.ctrlWrite_moves
    | with_reducible apply State.swWrite_moves
    | split

@[simp] theorem execSchedFire_moves {s₀ : State} {k : Nat} :
    Answered s₀ (execSchedFire k s₀) := by
  have hm := Moves.refl s₀
  refine answered ?_
  repeat' first
    | with_reducible assumption
    | with_reducible apply State.fireSlot_moves
    | split

end Sys2Proof.Machine
end

