-- ==== Sys2Proof/Laws/MovesRegEffect.lean ====
section
/-! SUPPORT. What the operations of Machine/RegEffect.lean can do to the memories, the register file, the key slots and the queue: moves, and nothing
else. -/

namespace Sys2Proof.Machine

theorem State.follow_moves {s₀ : State} {s old : State} (hm : Moves s₀ s) :
    Moves s₀ (State.follow s old) := by
  unfold State.follow
  repeat' first
    | with_reducible assumption
    | (intro _; intros)
    | (extract_lets +onlyGivenNames x; refine (fun (hx : Moves s₀ x) => ?_) ?_; clear_value x; rotate_left; subst x; rotate_right)
    | (extract_lets +onlyGivenNames x; refine (fun (hx : Moves s₀ x.1) => ?_) ?_; clear_value x; rotate_left; subst x; rotate_right)
    | (extract_lets +onlyGivenNames x; first | clear_value x | subst x)
    | with_reducible apply moves_foldl
    | with_reducible apply moves_foldl_fst
    | with_reducible apply State.bypass_moves
    | with_reducible apply State.emit_moves
    | with_reducible apply State.strobePin_moves
    | with_reducible apply State.trigMoved_moves
    | with_reducible apply State.wiresFrom_moves
    | split

theorem State.plainThen_moves {s₀ : State} {s : State} {off : Nat} {data hw : Word} (hm : Moves s₀ s) :
    Moves s₀ (State.plainThen s off data hw) := by
  unfold State.plainThen
  repeat' first
    | with_reducible assumption
    | with_reducible apply State.follow_moves
    | with_reducible apply State.plainWrite_moves
    | split

theorem State.expertEn_moves {s₀ : State} {s : State} {data : Word} (hm : Moves s₀ s) :
    Moves s₀ (State.expertEn s data) := by
  unfold State.expertEn
  repeat' first
    | with_reducible assumption
    | (intro _; intros)
    | (extract_lets +onlyGivenNames x; refine (fun (hx : Moves s₀ x) => ?_) ?_; clear_value x; rotate_left; subst x; rotate_right)
    | (extract_lets +onlyGivenNames x; refine (fun (hx : Moves s₀ x.1) => ?_) ?_; clear_value x; rotate_left; subst x; rotate_right)
    | (extract_lets +onlyGivenNames x; first | clear_value x | subst x)
    | with_reducible apply moves_foldl
    | with_reducible apply moves_foldl_fst
    | with_reducible apply State.follow_moves
    | with_reducible apply State.giveBack_moves
    | with_reducible apply State.plainWrite_moves
    | split
    | (conv => arg 2; arg 73; skip
       with_reducible apply Moves.mk)

theorem doExpertReturn_moves {s₀ : State} {sc : ExpertScope} {s : State} (hm : Moves s₀ s) :
    Moves s₀ (doExpertReturn sc s) := by
  unfold doExpertReturn
  repeat' first
    | with_reducible assumption
    | (intro _; intros)
    | (extract_lets +onlyGivenNames x; refine (fun (hx : Moves s₀ x) => ?_) ?_; clear_value x; rotate_left; subst x; rotate_right)
    | (extract_lets +onlyGivenNames x; refine (fun (hx : Moves s₀ x.1) => ?_) ?_; clear_value x; rotate_left; subst x; rotate_right)
    | (extract_lets +onlyGivenNames x; first | clear_value x | subst x)
    | with_reducible apply moves_foldl
    | with_reducible apply moves_foldl_fst
    | with_reducible apply State.giveBack_moves
    | split
    | (conv => arg 2; arg 73; skip
       with_reducible apply Moves.mk)

theorem State.buWrite_moves {s₀ : State} {s : State} {b c off : Nat} {data hw : Word} (hm : Moves s₀ s) :
    Moves s₀ (State.buWrite s b c off data hw) := by
  unfold State.buWrite
  repeat' first
    | with_reducible assumption
    | (intro _; intros)
    | (extract_lets +onlyGivenNames x; refine (fun (hx : Moves s₀ x) => ?_) ?_; clear_value x; rotate_left; subst x; rotate_right)
    | (extract_lets +onlyGivenNames x; refine (fun (hx : Moves s₀ x.1) => ?_) ?_; clear_value x; rotate_left; subst x; rotate_right)
    | (extract_lets +onlyGivenNames x; have _ : _ → _ := x; subst x)
    | (extract_lets +onlyGivenNames x; first | clear_value x | subst x)
    | with_reducible apply State.conflict_moves
    | with_reducible apply State.plainWrite_moves
    | split

theorem State.pvWrite_moves {s₀ : State} {s : State} {off : Nat} {data hw : Word} (hm : Moves s₀ s) :
    Moves s₀ (State.pvWrite s off data hw) := by
  unfold State.pvWrite
  repeat' first
    | with_reducible assumption
    | (extract_lets +onlyGivenNames x; refine (fun (hx : Moves s₀ x) => ?_) ?_; clear_value x; rotate_left; subst x; rotate_right)
    | (extract_lets +onlyGivenNames x; refine (fun (hx : Moves s₀ x.1) => ?_) ?_; clear_value x; rotate_left; subst x; rotate_right)
    | (extract_lets +onlyGivenNames x; first | clear_value x | subst x)
    | with_reducible apply State.buWrite_moves
    | with_reducible apply State.darkOff_moves
    | with_reducible apply doTblWrite_moves
    | with_reducible apply State.plainWrite_moves
    | split

theorem State.pglWrite_moves {s₀ : State} {s : State} {off : Nat} {data hw : Word} (hm : Moves s₀ s) :
    Moves s₀ (State.pglWrite s off data hw) := by
  unfold State.pglWrite
  repeat' first
    | with_reducible assumption
    | (intro _; intros)
    | with_reducible apply State.modChan_moves
    | with_reducible apply State.plainWrite_moves
    | with_reducible apply State.showChan_moves
    | split
    | (conv => arg 2; arg 73; skip
       with_reducible apply Moves.mk)

theorem State.tbWrite_moves {s₀ : State} {s : State} {off : Nat} {data hw : Word} (hm : Moves s₀ s) :
    Moves s₀ (State.tbWrite s off data hw) := by
  unfold State.tbWrite
  repeat' first
    | with_reducible assumption
    | (intro _; intros)
    | with_reducible apply State.ctrlWrite_moves
    | with_reducible apply State.genEvents_moves
    | with_reducible apply State.genSwitch_moves
    | with_reducible apply State.plainThen_moves
    | split
    | dsimp only
    | (conv => arg 2; arg 73; skip
       with_reducible apply Moves.mk)

theorem State.dmaWrite_moves {s₀ : State} {s : State} {off : Nat} {data hw : Word} (hm : Moves s₀ s) :
    Moves s₀ (State.dmaWrite s off data hw) := by
  unfold State.dmaWrite
  repeat' first
    | with_reducible assumption
    | (extract_lets +onlyGivenNames x; refine (fun (hx : Moves s₀ x) => ?_) ?_; clear_value x; rotate_left; subst x; rotate_right)
    | (extract_lets +onlyGivenNames x; refine (fun (hx : Moves s₀ x.1) => ?_) ?_; clear_value x; rotate_left; subst x; rotate_right)
    | (extract_lets +onlyGivenNames x; first | clear_value x | subst x)
    | with_reducible apply State.cmdIgnored_moves
    | with_reducible apply State.dmaCtrl_moves
    | with_reducible apply State.plainWrite_moves
    | with_reducible apply State.semAdd_moves
    | split

theorem State.lnkWrite_moves {s₀ : State} {s : State} {off : Nat} {data hw : Word} (hm : Moves s₀ s) :
    Moves s₀ (State.lnkWrite s off data hw) := by
  unfold State.lnkWrite
  repeat' first
    | with_reducible assumption
    | (intro _; intros)
    | with_reducible apply State.lnkCtrl_moves
    | with_reducible apply State.perrPop_moves
    | with_reducible apply State.plainThen_moves
    | with_reducible apply State.plainWrite_moves
    | split
    | dsimp only
    | (conv => arg 2; arg 73; skip
       with_reducible apply Moves.mk)

theorem State.twWrite_moves {s₀ : State} {s : State} {off : Nat} {data hw : Word} (hm : Moves s₀ s) :
    Moves s₀ (State.twWrite s off data hw) := by
  unfold State.twWrite
  repeat' first
    | with_reducible assumption
    | (intro _; intros)
    | with_reducible apply State.plainWrite_moves
    | with_reducible apply State.tw8Ctrl_moves
    | with_reducible apply State.twCtrlFree_moves
    | with_reducible apply State.twPush_moves
    | with_reducible apply State.twStage_moves
    | split
    | dsimp only
    | (conv => arg 2; arg 73; skip
       with_reducible apply Moves.mk)

theorem State.icWrite_moves {s₀ : State} {s : State} {off : Nat} {data hw : Word} (hm : Moves s₀ s) :
    Moves s₀ (State.icWrite s off data hw) := by
  unfold State.icWrite
  repeat' first
    | with_reducible assumption
    | (intro _; intros)
    | with_reducible apply doCoreEoi_moves
    | with_reducible apply doHoldWrite_moves
    | with_reducible apply doHostEoi_moves
    | with_reducible apply State.plainWrite_moves
    | with_reducible apply State.setReg_moves
    | split
    | dsimp only
    | (conv => arg 2; arg 73; skip
       with_reducible apply Moves.mk)

theorem State.fcWrite_moves {s₀ : State} {s : State} {off : Nat} {data hw : Word} (hm : Moves s₀ s) :
    Moves s₀ (State.fcWrite s off data hw) := by
  unfold State.fcWrite
  repeat' first
    | with_reducible assumption
    | (intro _; intros)
    | with_reducible apply State.fcAck_moves
    | with_reducible apply State.fcInject_moves
    | with_reducible apply State.fcRevive_moves
    | with_reducible apply State.plainThen_moves
    | with_reducible apply State.setReg_moves
    | split
    | dsimp only
    | (conv => arg 2; arg 73; skip
       with_reducible apply Moves.mk)

theorem State.mgtWrite_moves {s₀ : State} {s : State} {i off : Nat} {data hw : Word} (hm : Moves s₀ s) :
    Moves s₀ (State.mgtWrite s i off data hw) := by
  unfold State.mgtWrite
  repeat' first
    | with_reducible assumption
    | with_reducible apply State.kick_moves
    | with_reducible apply State.logCode_moves
    | with_reducible apply State.mailbox_moves
    | with_reducible apply State.mbxWrite_moves
    | with_reducible apply State.plainWrite_moves
    | split
    | (conv => arg 2; arg 73; skip
       with_reducible apply Moves.mk)

theorem State.windowWrite_moves {s₀ : State} {s : State} {off : Nat} {data : Word} (hm : Moves s₀ s) :
    Moves s₀ (State.windowWrite s off data) := by
  unfold State.windowWrite
  repeat' first
    | with_reducible assumption
    | (extract_lets +onlyGivenNames x; refine (fun (hx : Moves s₀ x) => ?_) ?_; clear_value x; rotate_left; subst x; rotate_right)
    | (extract_lets +onlyGivenNames x; refine (fun (hx : Moves s₀ x.1) => ?_) ?_; clear_value x; rotate_left; subst x; rotate_right)
    | (extract_lets +onlyGivenNames x; first | clear_value x | subst x)
    | with_reducible apply State.conflict_moves
    | split
    | (conv => arg 2; arg 73; skip
       with_reducible apply Moves.mk)

theorem State.regEffect_moves {s₀ : State} {s : State} {i off : Nat} {data hw : Word} (hm : Moves s₀ s) :
    Moves s₀ (State.regEffect s i off data hw) := by
  unfold State.regEffect
  repeat' first
    | with_reducible assumption
    | (intro _; intros)
    | with_reducible apply State.disablePort_moves
    | with_reducible apply State.dmaWrite_moves
    | with_reducible apply State.enablePort_moves
    | with_reducible apply State.expertEn_moves
    | with_reducible apply State.fcWrite_moves
    | with_reducible apply State.fmInject_moves
    | with_reducible apply State.icWrite_moves
    | with_reducible apply State.lnkWrite_moves
    | with_reducible apply State.mgtWrite_moves
    | with_reducible apply State.pcrReset_moves
    | with_reducible apply State.pglWrite_moves
    | with_reducible apply State.plainWrite_moves
    | with_reducible apply State.pvWrite_moves
    | with_reducible apply State.tbWrite_moves
    | with_reducible apply State.twWrite_moves
    | with_reducible apply State.twnCtrl_moves
    | with_reducible apply State.windowWrite_moves
    | split
    | dsimp only
    | (conv => arg 2; arg 73; skip
       with_reducible apply Moves.mk)

theorem State.regRead_moves {s₀ : State} {s : State} {i : Initiator} {init off : Nat} (hm : Moves s₀ s) :
    Moves s₀ (State.regRead s i init off).1 := by
  unfold State.regRead
  repeat' first
    | with_reducible assumption
    | (intro _; intros)
    | (rename _ = ((_ : State), _) => heq; have hk := congrArg Prod.fst heq; dsimp only at hk; subst hk; clear heq)
    | with_reducible apply doClaim_moves
    | with_reducible apply State.imgWindow_moves
    | with_reducible apply State.readTimeLo_moves
    | with_reducible apply State.tblAdvance_moves
    | with_reducible apply State.twRdata_moves
    | split
    | dsimp only
    | (conv => arg 2; arg 73; skip
       with_reducible apply Moves.mk)

end Sys2Proof.Machine
end

