-- ==== Sys2Proof/Laws/MovesRegWrite.lean ====
section
/-! SUPPORT. What the operations of Machine/RegWrite.lean can do to the memories, the register file, the key slots and the queue: moves, and nothing
else. -/

namespace Sys2Proof.Machine

theorem State.msixWrite_moves {s₀ : State} {s : State} {i : Initiator} {f k : Nat} {data : Word} (hm : Moves s₀ s) :
    Moves s₀ (State.msixWrite s i f k data) := by
  unfold State.msixWrite
  repeat' first
    | with_reducible assumption
    | with_reducible apply State.aerUncorr_moves
    | with_reducible apply State.refuse_moves
    | with_reducible apply State.setMsix_moves
    | split

theorem State.frameWrite_moves {s₀ : State} {s : State} {i : Initiator} {a be : Nat} {data : Word} (hm : Moves s₀ s) :
    Moves s₀ (State.frameWrite s i a be data) := by
  unfold State.frameWrite
  repeat' first
    | with_reducible assumption
    | (intro _; intros)
    | with_reducible apply moves_foldl
    | with_reducible apply moves_foldl_fst
    | with_reducible apply State.fmPut_moves
    | with_reducible apply State.refuse_moves
    | split

/-- Writing the bytes that byte enables select is a chain of moves, for each of the cores' memories. -/
theorem putBytes_induction {P : Table Byte → Prop} {a be : Nat} {data : Word}
    (step : ∀ m b v, P m → P (m.setD 0 b v)) {m : Table Byte} (h : P m) : P (putBytes m a be data) := by
  unfold putBytes
  generalize List.range 4 = l
  induction l generalizing m with
  | nil => exact h
  | cons k l ih =>
    apply ih
    dsimp only
    split
    · exact step m (a + k) _ h
    · exact h

theorem doRegWrite_moves {s₀ s : State} {i : Initiator} {a : Nat} {data : Word} {be : Nat} {hw : Word} {poison : Bool}
    (hm : Moves s₀ s) : Moves s₀ (doRegWrite i a data be hw poison s) := by
  have tcm : ∀ n, Moves s₀ { s with tcm := putBytes s.tcm n be data } := fun n =>
    putBytes_induction (P := fun m => KMoves s₀.kept { s.kept with tcm := m }) (fun m b v h => KMoves.tcm h b v) hm
  have mbx : ∀ n, Moves s₀ { s with mbx := putBytes s.mbx n be data } := fun n =>
    putBytes_induction (P := fun m => KMoves s₀.kept { s.kept with mbx := m }) (fun m b v h => KMoves.mbx h b v) hm
  have shared : ∀ n, Moves s₀ { s with shared := putBytes s.shared n be data } := fun n =>
    putBytes_induction (P := fun m => KMoves s₀.kept { s.kept with shared := m }) (fun m b v h => KMoves.shared h b v) hm
  unfold doRegWrite
  split
  · exact hm
  split
  · exact State.aerUncorr_moves hm
  · split
    · exact State.aerUncorr_moves hm
    · split
      · split
        · exact State.swWrite_moves (fun u hu => State.regEffect_moves hu) hm
        · exact hm
      · split
        · exact State.msixWrite_moves hm
        · exact hm
      · split
        · exact doRemoteWrite_moves hm
        · exact hm
      · exact tcm _
      · exact mbx _
      · exact shared _
      · exact State.frameWrite_moves hm
      · split
        · exact State.emit_moves hm
        · exact hm
      · exact hm
      · exact hm
      · exact hm
      · exact hm
      · exact State.emit_moves hm

@[simp] theorem execRegWrite_moves {s₀ : State} {i : Initiator} {a : Nat} {data : Word} {be : Nat} {hw : Word} {poison : Bool} :
    Answered s₀ (execRegWrite i a data be hw poison s₀) := by
  have hm := Moves.refl s₀
  refine answered ?_
  repeat' first
    | with_reducible assumption
    | with_reducible apply doRegWrite_moves
    | split

theorem State.msixRead_moves {s₀ : State} {s : State} {i : Initiator} {f k : Nat} (hm : Moves s₀ s) :
    Moves s₀ (State.msixRead s i f k).1 := by
  unfold State.msixRead
  repeat' first
    | with_reducible assumption
    | (extract_lets +onlyGivenNames x; refine (fun (hx : Moves s₀ x) => ?_) ?_; clear_value x; rotate_left; subst x; rotate_right)
    | (extract_lets +onlyGivenNames x; refine (fun (hx : Moves s₀ x.1) => ?_) ?_; clear_value x; rotate_left; subst x; rotate_right)
    | (extract_lets +onlyGivenNames x; first | clear_value x | subst x)
    | with_reducible apply State.emit_moves
    | with_reducible apply State.refuse_moves
    | with_reducible apply State.unsupported_moves
    | split
    | dsimp only

theorem State.frameRead_moves {s₀ : State} {s : State} {i : Initiator} {a : Nat} (hm : Moves s₀ s) :
    Moves s₀ (State.frameRead s i a).1 := by
  unfold State.frameRead
  repeat' first
    | with_reducible assumption
    | (extract_lets +onlyGivenNames x; refine (fun (hx : Moves s₀ x) => ?_) ?_; clear_value x; rotate_left; subst x; rotate_right)
    | (extract_lets +onlyGivenNames x; refine (fun (hx : Moves s₀ x.1) => ?_) ?_; clear_value x; rotate_left; subst x; rotate_right)
    | (extract_lets +onlyGivenNames x; first | clear_value x | subst x)
    | with_reducible apply State.emit_moves
    | with_reducible apply State.fmGet_moves
    | with_reducible apply State.refuse_moves
    | split
    | dsimp only

theorem State.pbaRead_moves {s₀ : State} {s : State} {i : Initiator} {f k : Nat} (hm : Moves s₀ s) :
    Moves s₀ (State.pbaRead s i f k).1 := by
  unfold State.pbaRead
  repeat' first
    | with_reducible assumption
    | (extract_lets +onlyGivenNames x; refine (fun (hx : Moves s₀ x) => ?_) ?_; clear_value x; rotate_left; subst x; rotate_right)
    | (extract_lets +onlyGivenNames x; refine (fun (hx : Moves s₀ x.1) => ?_) ?_; clear_value x; rotate_left; subst x; rotate_right)
    | (extract_lets +onlyGivenNames x; first | clear_value x | subst x)
    | with_reducible apply State.emit_moves
    | with_reducible apply State.refuse_moves
    | with_reducible apply State.unsupported_moves
    | split
    | dsimp only

theorem giveWord_moves {s₀ : State} {i : Initiator} {be : Nat} {r : State × Option Word} (hm : Moves s₀ r.1) :
    Moves s₀ (giveWord i be r) := by
  unfold giveWord
  split
  · exact State.emit_moves hm
  · exact hm

theorem doRegRead_moves {s₀ s : State} {i : Initiator} {a be : Nat} (hm : Moves s₀ s) : Moves s₀ (doRegRead i a be s) := by
  unfold doRegRead
  split
  · exact hm
  split
  · exact State.emit_moves (State.unsupported_moves hm)
  · split
    · exact State.swRead_moves (fun u hu => State.regRead_moves hu) hm
    · split
      · exact State.refuse_moves hm
      · split
        · exact giveWord_moves hm
        · exact giveWord_moves (State.regRead_moves hm)
    · exact giveWord_moves (State.msixRead_moves hm)
    · exact giveWord_moves (State.pbaRead_moves hm)
    · exact doRemoteRead_moves hm
    · exact giveWord_moves hm
    · exact giveWord_moves hm
    · exact giveWord_moves hm
    · exact giveWord_moves (State.frameRead_moves hm)
    · exact giveWord_moves hm
    · exact giveWord_moves (State.freeBytes_moves hm)
    · exact giveWord_moves hm
    · exact State.emit_moves hm

@[simp] theorem execIcClaimRead_moves {s₀ : State} {i : Initiator} {r : ReadAt} :
    Answered s₀ (execIcClaimRead i r s₀) := by
  have hm := Moves.refl s₀
  refine answered ?_
  repeat' first
    | with_reducible assumption
    | with_reducible apply doRegRead_moves
    | split

theorem State.counterEffect_moves {s₀ : State} {s : State} {i off : Nat} {data : Word} {n : Nat} (hm : Moves s₀ s) :
    Moves s₀ (State.counterEffect s i off data n) := by
  unfold State.counterEffect
  repeat' first
    | with_reducible assumption
    | (intro _; intros)
    | (extract_lets +onlyGivenNames x; refine (fun (hx : Moves s₀ x) => ?_) ?_; clear_value x; rotate_left; subst x; rotate_right)
    | (extract_lets +onlyGivenNames x; refine (fun (hx : Moves s₀ x.1) => ?_) ?_; clear_value x; rotate_left; subst x; rotate_right)
    | (extract_lets +onlyGivenNames x; first | clear_value x | subst x)
    | with_reducible apply State.countN_moves
    | with_reducible apply State.modChan_moves
    | with_reducible apply State.regEffect_moves
    | with_reducible apply State.showChan_moves
    | split
    | (conv => arg 2; arg 73; skip
       with_reducible apply Moves.mk)

@[simp] theorem execCounterWrite_moves {s₀ : State} {i : Initiator} {off : Nat} {data : Word} {n : Nat} :
    Answered s₀ (execCounterWrite i off data n s₀) := by
  have hm := Moves.refl s₀
  refine answered ?_
  repeat' first
    | with_reducible assumption
    | (intro _; intros)
    | with_reducible apply State.counterEffect_moves
    | with_reducible apply State.swWrite_moves
    | split

@[simp] theorem execExpertEnWrite_moves {s₀ : State} {i : Initiator} {data : Word} :
    Answered s₀ (execExpertEnWrite i data s₀) := by
  have hm := Moves.refl s₀
  refine answered ?_
  repeat' first
    | with_reducible assumption
    | (intro _; intros)
    | with_reducible apply State.expertEn_moves
    | with_reducible apply State.swWrite_moves
    | split

@[simp] theorem execExpertValueReturn_moves {s₀ : State} {sc : ExpertScope} :
    Answered s₀ (execExpertValueReturn sc s₀) := by
  have hm := Moves.refl s₀
  refine answered ?_
  repeat' first
    | with_reducible assumption
    | with_reducible apply doExpertReturn_moves
    | split

theorem State.mirrorSend_moves {s₀ : State} {s : State} (hm : Moves s₀ s) :
    Moves s₀ (State.mirrorSend s) := by
  unfold State.mirrorSend
  repeat' first
    | with_reducible assumption
    | (intro _; intros)
    | (extract_lets +onlyGivenNames x; refine (fun (hx : Moves s₀ x) => ?_) ?_; clear_value x; rotate_left; subst x; rotate_right)
    | (extract_lets +onlyGivenNames x; refine (fun (hx : Moves s₀ x.1) => ?_) ?_; clear_value x; rotate_left; subst x; rotate_right)
    | (extract_lets +onlyGivenNames x; first | clear_value x | subst x)
    | with_reducible apply State.toPartner_moves
    | split
    | (conv => arg 2; arg 73; skip
       with_reducible apply Moves.mk)

theorem doMirrorQueued_moves {s₀ : State} {s : State} (hm : Moves s₀ s) :
    Moves s₀ (doMirrorQueued s) := by
  unfold doMirrorQueued
  repeat' first
    | with_reducible assumption
    | (intro _; intros)
    | (extract_lets +onlyGivenNames x; refine (fun (hx : Moves s₀ x) => ?_) ?_; clear_value x; rotate_left; subst x; rotate_right)
    | (extract_lets +onlyGivenNames x; refine (fun (hx : Moves s₀ x.1) => ?_) ?_; clear_value x; rotate_left; subst x; rotate_right)
    | (extract_lets +onlyGivenNames x; first | clear_value x | subst x)
    | with_reducible apply State.effect_moves
    | with_reducible apply State.mirrorSend_moves
    | with_reducible apply State.regEffect_moves
    | split
    | dsimp only
    | (conv => arg 2; arg 73; skip
       with_reducible apply Moves.mk)

@[simp] theorem execMirrorWriteQueued_moves {s₀ : State}  :
    Answered s₀ (execMirrorWriteQueued s₀) := by
  have hm := Moves.refl s₀
  refine answered ?_
  repeat' first
    | with_reducible assumption
    | with_reducible apply doMirrorQueued_moves
    | split

theorem doTwinCfg_moves {s₀ : State} {s : State} (hm : Moves s₀ s) :
    Moves s₀ (doTwinCfg s) := by
  unfold doTwinCfg
  repeat' first
    | with_reducible assumption
    | (intro _; intros)
    | (extract_lets +onlyGivenNames x; refine (fun (hx : Moves s₀ x) => ?_) ?_; clear_value x; rotate_left; subst x; rotate_right)
    | (extract_lets +onlyGivenNames x; refine (fun (hx : Moves s₀ x.1) => ?_) ?_; clear_value x; rotate_left; subst x; rotate_right)
    | (extract_lets +onlyGivenNames x; first | clear_value x | subst x)
    | with_reducible apply moves_foldl
    | with_reducible apply moves_foldl_fst
    | with_reducible apply State.admitted_moves
    | with_reducible apply State.fromPartner_moves
    | with_reducible apply State.regEffect_moves
    | split
    | (conv => arg 2; arg 73; skip
       with_reducible apply Moves.mk)

@[simp] theorem execTwinCfgReceive_moves {s₀ : State}  :
    Answered s₀ (execTwinCfgReceive s₀) := by
  have hm := Moves.refl s₀
  refine answered ?_
  repeat' first
    | with_reducible assumption
    | with_reducible apply doTwinCfg_moves
    | split

theorem State.farFails_moves {s₀ : State} {s : State} {g off reason remote : Nat} (hm : Moves s₀ s) :
    Moves s₀ (State.farFails s g off reason remote) := by
  unfold State.farFails
  repeat' first
    | with_reducible assumption
    | with_reducible apply State.perrLog_moves
    | with_reducible apply State.sendMsg_moves
    | split

theorem State.farWrite_moves {s₀ : State} {s : State} {g off : Nat} {data : Word} {remote : Nat} (hm : Moves s₀ s) :
    Moves s₀ (State.farWrite s g off data remote) := by
  unfold State.farWrite
  repeat' first
    | with_reducible assumption
    | (intro _; intros)
    | (extract_lets +onlyGivenNames x; refine (fun (hx : Moves s₀ x) => ?_) ?_; clear_value x; rotate_left; subst x; rotate_right)
    | (extract_lets +onlyGivenNames x; refine (fun (hx : Moves s₀ x.1) => ?_) ?_; clear_value x; rotate_left; subst x; rotate_right)
    | (extract_lets +onlyGivenNames x; first | clear_value x | subst x)
    | with_reducible apply State.farFails_moves
    | with_reducible apply State.regEffect_moves
    | with_reducible apply State.swWrite_moves
    | split
    | dsimp only
    | (conv => arg 2; arg 73; skip
       with_reducible apply Moves.mk)

theorem doWr_moves {s₀ : State} {g : Nat} {s : State} (hm : Moves s₀ s) :
    Moves s₀ (doWr g s) := by
  unfold doWr
  repeat' first
    | with_reducible assumption
    | (intro _; intros)
    | (rename _ = ((_ : State), _) => heq; have hk := congrArg Prod.fst heq; dsimp only at hk; subst hk; clear heq)
    | with_reducible apply moves_foldl
    | with_reducible apply moves_foldl_fst
    | with_reducible apply State.farFails_moves
    | with_reducible apply State.farWrite_moves
    | with_reducible apply State.takeRx_moves
    | split
    | dsimp only
    | (conv => arg 2; arg 73; skip
       with_reducible apply Moves.mk)

@[simp] theorem execWrReceive_moves {s₀ : State} {g : Nat} :
    Answered s₀ (execWrReceive g s₀) := by
  have hm := Moves.refl s₀
  refine answered ?_
  repeat' first
    | with_reducible assumption
    | with_reducible apply doWr_moves
    | split

theorem State.farRead_moves {s₀ s : State} {g remote off n : Nat} (hm : Moves s₀ s) :
    Moves s₀ (State.farRead g remote off n s).1 := by
  induction n generalizing s off with
  | zero => exact hm
  | succ n ih =>
    unfold State.farRead
    dsimp only
    split
    · exact State.refuse_moves hm
    · generalize hr : (if 33554432 ≤ off ∨ s.inBoot = true ∧ bootServes (linkOf g) off = false then (s, 0)
        else s.regRead (linkOf g) remote off) = r
      have h2 : Moves s₀ r.1 := by
        rw [← hr]
        split
        · exact hm
        · exact State.regRead_moves hm
      have h3 := ih (off := off + 4) h2
      split
      · rename_i e
        rw [e] at h3
        exact h3
      · rename_i e
        rw [e] at h3
        exact h3

theorem doRd_moves {s₀ : State} {g : Nat} {s : State} (hm : Moves s₀ s) :
    Moves s₀ (doRd g s) := by
  unfold doRd
  repeat' first
    | with_reducible assumption
    | (rename _ = ((_ : State), _) => heq; have hk := congrArg Prod.fst heq; dsimp only at hk; subst hk; clear heq)
    | with_reducible apply State.farRead_moves
    | with_reducible apply State.sendPkt_moves
    | with_reducible apply State.takeRx_moves
    | split
    | dsimp only
    | (conv => arg 2; arg 73; skip
       with_reducible apply Moves.mk)

@[simp] theorem execRdReceive_moves {s₀ : State} {g : Nat} :
    Answered s₀ (execRdReceive g s₀) := by
  have hm := Moves.refl s₀
  refine answered ?_
  repeat' first
    | with_reducible assumption
    | with_reducible apply doRd_moves
    | split

theorem State.tw8Word_moves {s₀ : State} {s : State} {data : Word} (hm : Moves s₀ s) :
    Moves s₀ (State.tw8Word s data) := by
  unfold State.tw8Word
  repeat' first
    | with_reducible assumption
    | (intro _; intros)
    | (extract_lets +onlyGivenNames x; refine (fun (hx : Moves s₀ x) => ?_) ?_; clear_value x; rotate_left; subst x; rotate_right)
    | (extract_lets +onlyGivenNames x; refine (fun (hx : Moves s₀ x.1) => ?_) ?_; clear_value x; rotate_left; subst x; rotate_right)
    | (extract_lets +onlyGivenNames x; first | clear_value x | subst x)
    | with_reducible apply State.msixWrite_moves
    | with_reducible apply State.regEffect_moves
    | with_reducible apply State.setFld_moves
    | with_reducible apply State.swWrite_moves
    | split
    | dsimp only
    | (conv => arg 2; arg 73; skip
       with_reducible apply Moves.mk)

theorem doTw8Write_moves {s₀ : State} {bytes : List Nat} {s : State} (hm : Moves s₀ s) :
    Moves s₀ (doTw8Write bytes s) := by
  unfold doTw8Write
  repeat' first
    | with_reducible assumption
    | (intro _; intros)
    | with_reducible apply moves_foldl
    | with_reducible apply moves_foldl_fst
    | with_reducible apply State.setFld_moves
    | with_reducible apply State.tw8Word_moves
    | split
    | dsimp only
    | (conv => arg 2; arg 73; skip
       with_reducible apply Moves.mk)

@[simp] theorem execTw8WriteCommit_moves {s₀ : State} {bytes : List Byte} :
    Answered s₀ (execTw8WriteCommit bytes s₀) := by
  have hm := Moves.refl s₀
  refine answered ?_
  repeat' first
    | with_reducible assumption
    | with_reducible apply doTw8Write_moves
    | split

theorem doTw8Read_moves {s₀ : State} {s : State} (hm : Moves s₀ s) :
    Moves s₀ (doTw8Read s) := by
  unfold doTw8Read
  repeat' first
    | with_reducible assumption
    | (rename _ = ((_ : State), _) => heq; have hk := congrArg Prod.fst heq; dsimp only at hk; subst hk; clear heq)
    | (extract_lets +onlyGivenNames x; refine (fun (hx : Moves s₀ x) => ?_) ?_; clear_value x; rotate_left; subst x; rotate_right)
    | (extract_lets +onlyGivenNames x; refine (fun (hx : Moves s₀ x.1) => ?_) ?_; clear_value x; rotate_left; subst x; rotate_right)
    | (extract_lets +onlyGivenNames x; first | clear_value x | subst x)
    | with_reducible apply State.emit_moves
    | with_reducible apply State.pbaRead_moves
    | with_reducible apply State.refuse_moves
    | with_reducible apply State.regRead_moves
    | with_reducible apply State.setFld_moves
    | split
    | dsimp only
    | (conv => arg 2; arg 73; skip
       with_reducible apply Moves.mk)

@[simp] theorem execTw8ReadWord_moves {s₀ : State}  :
    Answered s₀ (execTw8ReadWord s₀) := by
  have hm := Moves.refl s₀
  refine answered ?_
  repeat' first
    | with_reducible assumption
    | with_reducible apply doTw8Read_moves
    | split

theorem State.encLate_moves {s₀ : State} {s : State} (hm : Moves s₀ s) :
    Moves s₀ (State.encLate s) := by
  unfold State.encLate
  repeat' first
    | with_reducible assumption
    | (intro _; intros)
    | with_reducible apply moves_foldl
    | with_reducible apply moves_foldl_fst
    | with_reducible apply State.sendEnc_moves
    | split

theorem State.tick_moves {s₀ : State} {s : State} (hm : Moves s₀ s) :
    Moves s₀ (State.tick s) := by
  unfold State.tick
  repeat' first
    | with_reducible assumption
    | (extract_lets +onlyGivenNames x; refine (fun (hx : Moves s₀ x) => ?_) ?_; clear_value x; rotate_left; subst x; rotate_right)
    | (extract_lets +onlyGivenNames x; refine (fun (hx : Moves s₀ x.1) => ?_) ?_; clear_value x; rotate_left; subst x; rotate_right)
    | (extract_lets +onlyGivenNames x; first | clear_value x | subst x)
    | with_reducible apply State.encLate_moves
    | with_reducible apply State.mirrorSend_moves
    | with_reducible apply State.sampleInputs_moves
    | with_reducible apply State.stepRate_moves
    | split
    | (conv => arg 2; arg 73; skip
       with_reducible apply Moves.mk)

end Sys2Proof.Machine
end

