-- ==== Sys2Proof/Laws/MovesStep.lean ====
section
/-! SUPPORT. Every command's effect, and every step, is a chain of moves (Laws/Moves.lean): the one lemma through which an invariant of the
register file, the memories, the owner key slots or the queue is proved for all commands at once. -/

namespace Sys2Proof.Machine

/-- What a command answers comes from its state by moves: each meaning's own lemma says so. -/
theorem exec_moves (i : Instr) (s : State) : Answered s (exec i s) := by
  cases i <;> simp [exec]

/-- A step takes the front of the queue off and moves. -/
theorem step_moves {s t : State} (e : step s = .next t) : Moves { s with pending := s.pending.tail } t := by
  unfold step at e
  split at e
  · rename_i h
    cases e
    refine State.tick_moves ?_
    unfold Moves State.kept
    rw [h]
    exact KMoves.refl
  · rename_i h
    rw [h]
    exact exec_moves _ _ _ e

end Sys2Proof.Machine
end

