-- ==== Sys2Proof/Laws/Sends.lean ====
section
/-! SUPPORT. What giving a packet to a lane group, and taking one from its receiver, can change: the groups' packet state and what has left the
device, nothing else. -/

namespace Sys2Proof.Machine

/-- The second state differs from the first in the groups' packet state and in what has left the device alone. -/
def SendsOnly (s t : State) : Prop := ∃ g o, t = { s with grp := g, out := o }

theorem SendsOnly.refl (s : State) : SendsOnly s s := ⟨s.grp, s.out, rfl⟩

theorem SendsOnly.trans {s t u : State} (h : SendsOnly s t) (k : SendsOnly t u) : SendsOnly s u := by
  obtain ⟨g, o, rfl⟩ := h
  obtain ⟨g', o', rfl⟩ := k
  exact ⟨g', o', rfl⟩

theorem SendsOnly.regs {s t : State} (h : SendsOnly s t) : t.regs = s.regs := by
  obtain ⟨g, o, rfl⟩ := h; rfl

theorem SendsOnly.reg {s t : State} (h : SendsOnly s t) (n : Nat) : t.reg n = s.reg n := State.reg_congr h.regs n

theorem SendsOnly.frame {s t : State} (h : SendsOnly s t) (l : List Nat) : Frame l s t := by
  obtain ⟨g, o, rfl⟩ := h
  exact Frame.same rfl rfl rfl rfl rfl rfl l

theorem SendsOnly.foldl {α : Type} {f : State → α → State} (h : ∀ s x, SendsOnly s (f s x)) (l : List α) (s : State) :
    SendsOnly s (l.foldl f s) := by
  induction l generalizing s with
  | nil => exact SendsOnly.refl s
  | cons x l ih => exact (h s x).trans (ih (f s x))

theorem State.emit_sends (s : State) (o : Out) : SendsOnly s (s.emit o) := ⟨s.grp, _, rfl⟩

theorem State.modGrp_sends (s : State) (g : Nat) (f : GrpSt → GrpSt) : SendsOnly s (s.modGrp g f) := ⟨_, s.out, rfl⟩

theorem State.frame_sends (s : State) (g : Nat) (words : List Nat) : SendsOnly s (s.frame g words) := ⟨_, _, rfl⟩

theorem State.orderedSet_sends (s : State) (g typ : Nat) (symbols : List Nat) : SendsOnly s (s.orderedSet g typ symbols) := ⟨_, _, rfl⟩

theorem State.pump_sends (s : State) (g n : Nat) : SendsOnly s (s.pump g n) := by
  induction n generalizing s with
  | zero => exact SendsOnly.refl s
  | succ n ih =>
    unfold State.pump
    split
    · exact SendsOnly.refl s
    · dsimp only
      split
      · exact SendsOnly.refl s
      · exact SendsOnly.trans ⟨_, _, rfl⟩ (ih _)

theorem State.sendPkt_sends (s : State) (g : Nat) (p : LinkPkt) : SendsOnly s (s.sendPkt g p) := by
  unfold State.sendPkt
  split
  · exact (State.modGrp_sends s g _).trans (State.pump_sends _ _ _)
  · exact SendsOnly.refl s

theorem State.sendCtl_sends (s : State) (g typ a b : Nat) : SendsOnly s (s.sendCtl g typ a b) := by
  unfold State.sendCtl
  split
  · exact State.frame_sends s g _
  · exact SendsOnly.refl s

theorem State.sendItem_sends (s : State) (g cls typ tag a b : Nat) (words : List Nat) :
    SendsOnly s (s.sendItem g cls typ tag a b words) :=
  SendsOnly.foldl (fun s p => State.sendPkt_sends s g p) _ s

theorem State.sendMsg_sends (s : State) (g cls typ : Nat) (words : List Nat) : SendsOnly s (s.sendMsg g cls typ words) :=
  State.sendItem_sends s g cls typ 0 0 0 words

theorem State.toPartner_sends (s : State) (typ : Nat) (words : List Nat) : SendsOnly s (s.toPartner typ words) :=
  State.sendMsg_sends s 2 7 typ words

theorem State.sendDec_sends (s : State) (kind ch unit outcome reason seqNo : Nat) (v : Nat × Nat × Nat) :
    SendsOnly s (s.sendDec kind ch unit outcome reason seqNo v) := by
  unfold State.sendDec
  split
  · exact State.toPartner_sends s _ _
  · exact SendsOnly.refl s

/-- Taking the oldest packet of a class and type changes nothing beside the receiver and the credits sent back. -/
theorem State.takeRx_sends {s u : State} {g cls typ : Nat} {r : Option LinkPkt} (h : s.takeRx g cls typ = (u, r)) : SendsOnly s u := by
  unfold State.takeRx at h
  split at h
  · cases h; exact SendsOnly.refl s
  · split at h
    · cases h
      split
      · exact State.modGrp_sends s g _
      · exact (State.modGrp_sends s g _).trans (State.sendCtl_sends _ _ _ _ _)
    · cases h; exact SendsOnly.refl s

/-- Taking the oldest item of a class and type changes nothing beside the receiver and the credits sent back. -/
theorem State.takeItem_sends {s u : State} {g cls typ : Nat} {r : Option (LinkPkt × List Nat)} (h : s.takeItem g cls typ = (u, r)) :
    SendsOnly s u := by
  unfold State.takeItem at h
  dsimp only at h
  split at h
  · cases h; exact SendsOnly.refl s
  · split at h
    · cases h
      exact SendsOnly.foldl (fun s q => (State.modGrp_sends s g _).trans (State.sendCtl_sends _ _ _ _ _)) _ s
    · cases h; exact SendsOnly.refl s

end Sys2Proof.Machine
end

