-- ==== Sys2Proof/Tests/Slice0.lean ====
section
/-! SUPPORT. Tests of the model: the commands that `wellFormed` turns away, the spec's worked examples, single commands on small
states, and for each statement a state and operands that meet what it supposes. -/

set_option Elab.async false

namespace Sys2Proof.Tests
open Sys2Proof Sys2Proof.Machine
/-- The next state that an outcome answers; the state after reset where it answers none. -/
def getNext : Host.Outcome State Fault Refusal → State
  | .next t => t
  | _ => State.reset

/-- The device after reset with some registers changed. -/
def bench (l : List (Nat × Nat)) : State := l.foldl (fun s e => s.setReg e.1 (BitVec.ofNat 32 e.2)) State.reset

/-- A device on its own that has booted, serves the host, and has some registers changed. -/
def hosted (l : List (Nat × Nat)) : State :=
  { bench ((Reg.TWN_STATUS, 3) :: (Reg.GLB_ROLE, 0x400) :: l) with ready := true, cfg := [(4, 7), (4100, 7), (8196, 7), (12292, 7)] }

/-- A state with some fields of registers changed. -/
def withFields (s : State) (l : List (Nat × Fld × Nat)) : State := l.foldl (fun s e => s.setFld e.1 e.2.1 e.2.2) s

/-- A line of one channel, numbered 0, of the document at place 0. -/
def lineOf (ch : Nat) (px : List Nat) : Line := ⟨{ (default : Tag) with stream := ch }, [px]⟩

/-- A packet received on a group, not yet taken. -/
def arrived (s : State) (g : Nat) (p : LinkPkt) : State :=
  { s with grp := s.grp.modify g (fun x => { x with rx := x.rx ++ [p] }) }
/-- The description of a register. -/
def rowAt (off : Nat) : RegRow := (findReg off).getD ⟨"", 0, [], .por, false, []⟩

/-- `hosted` with every expert page open. -/
def expert (l : List (Nat × Nat)) : State := hosted ((Reg.GLB_EXPERT_EN, 0x7FFFF) :: l)

def wPair : State := bench [(Reg.GLB_ROLE, 0x600), (Reg.TWN_STATUS, 2)]
def wQueued : State := { bench [(Reg.GLB_ROLE, 0x600), (Reg.TWN_STATUS, 2)] with partnerState := 5, mirrorQ := [⟨0, Reg.ST_OFFSETn 3, 7⟩] }
def wWaiting : State := { bench [(Reg.GLB_ROLE, 0x600), (Reg.TWN_STATUS, 2)] with partnerState := 5, mirrorWait := [⟨4, Reg.ST_OFFSETn 3, 7⟩] }
def wFollow : State := arrived (bench [(Reg.GLB_ROLE, 0x200), (Reg.TWN_STATUS, 5)]) 2 ⟨7, 0, true, true, false, 0, 0, 0, 0, 0, [Reg.ST_OFFSETn 3 + 2 * 2 ^ 28, 9]⟩
def wWr : State := arrived (expert []) 0 ⟨1, 0, true, true, false, 0, 5, 0, Reg.ST_OFFSETn 3, 1, [0x77]⟩
def wWrEp : State := arrived (expert []) 0 ⟨1, 0, true, true, true, 0, 5, 0, Reg.ST_OFFSETn 3, 1, [0x77]⟩
def wRd : State := arrived (hosted []) 1 ⟨2, 0, true, true, false, 0, 5, 0, Reg.GLB_ID, 1, []⟩
def wShadow : State := { hosted [] with regs := (hosted [(Reg.TWN_STATUS, 5), (Reg.GLB_ROLE, 0x200), (Reg.MGT_STATUS, 0x400)]).regs }
def wExpertPage1 : State := { hosted [(Reg.OSn_CFG 0, 1)] with expertPend := [Reg.OSn_CFG 0] }
def wMirroredWrites1 : State := { wPair with partnerState := 5 }
def wPending : State := { State.reset with pending := [Instr.pllLockLoss, Instr.escalationTimeout] }
def wOff : State := { State.reset with boot := { State.reset.boot with off := true } }
def wKeyed : State := { State.reset with otp := [(0, (1, [7]))] }
def wLine : State := bench [(Reg.SPn_STATUS 2, 1), (Reg.SPn_INT_EN 2, 1)]
def wEdgeHeld : State := bench [(Reg.IC_HOLD, 2 ^ 18)]
def wPin : State := { bench [(Reg.IC_PINi_CFG 4, 0x103)] with trigLevel := 16 }
def wOffer (m : Nat) : State := bench [(Reg.IC_PENDk 9, 2), (Reg.IC_SRCs_CFG 289, m * 256 + 0x1005), (Reg.IC_SRCs_VEC 289, 0x207), (Reg.IC_Tt_VBASE 0, 0x800)]
def wStack : State :=
  let s := bench [(Reg.IC_INSVk 9, 2)]
  { s with ic := { s.ic with stack0 := [289, 5] } }
def wServed (t : Nat) : State :=
  let s := bench [(Reg.IC_INSVk 9, 2), (Reg.GLB_EXPERT_EN, 0x7FFFF)]
  { s with ic := { s.ic with src := s.ic.src.set 289 { (default : SrcSt) with target := t } } }
def wHold : State :=
  let s := bench [(Reg.IC_HOLD, 4)]
  { s with now := 5000, ic := { s.ic with heldAt := s.ic.heldAt.set 2 4900, latchPend := s.ic.latchPend.set 1 8, latchMask := s.ic.latchMask.set 1 1 } }
def wClaim : State :=
  let s := hosted [(Reg.IC_INSVk 0, 4), (Reg.SPn_STATUS 2, 1), (Reg.SPn_INT_EN 2, 1)]
  { s with ic := { s.ic with src := s.ic.src.set 2 { (default : SrcSt) with target := 2 } } }
/-- Port 2 runs, with a line entry of RAW8, 4 pixels wide, on channel 1. -/
def wPort (l : List (Nat × Fld × Nat)) : State :=
  withFields { bench [(Reg.TWN_STATUS, 3), (Reg.GLB_ROLE, 0x400)] with port := State.reset.port.set 2 { (default : PortSt) with running := true } }
    ([(Reg.SPn_ENTk_CFG 2 3, Fld.SPn_ENTk_CFG_VALID, 1), (Reg.SPn_ENTk_CFG 2 3, Fld.SPn_ENTk_CFG_DT, 0x2A), (Reg.SPn_ENTk_CFG 2 3, Fld.SPn_ENTk_CFG_VC, 1),
      (Reg.SPn_ENTk_SIZE 2 3, Fld.SPn_ENTk_SIZE_WIDTH, 4), (Reg.SPn_ENTk_SIZE 2 3, Fld.SPn_ENTk_SIZE_FRAME_LINES, 2), (Reg.SPn_PHY_CFG 2, Fld.SPn_PHY_CFG_LANES, 2),
      (Reg.SPn_PHY_CFG 2, Fld.SPn_PHY_CFG_DESKEW_REQ, 0), (Reg.SPn_LINE_TIMEOUT 2, Fld.SPn_LINE_TIMEOUT_TIMEOUT, 10), (Reg.SPn_FRAME_TIMEOUT 2, Fld.SPn_FRAME_TIMEOUT_TIMEOUT, 5)] ++ l)
/-- A packet header on channel 1. -/
def wHead (dt wc : Nat) : Word := BitVec.ofNat 32 (hdrWord (dt + 2 ^ 6 + wc * 2 ^ 8))
def wBits (dt wc : Nat) : Nat := dt + 2 ^ 6 + wc * 2 ^ 8
def wArea : State := wPort [(Reg.SPn_ENTk_CFG 2 3, Fld.SPn_ENTk_CFG_MODE, 1)]
def wOpenFrame : State := { wArea with entry := wArea.entry.set 19 { (default : EntrySt) with open_ := true, delivered := 2, lastPkt := 100 }, now := 9000 }
def wOwing : State := wPort [(Reg.SPn_ENTk_CFG 2 3, Fld.SPn_ENTk_CFG_TO_REF, 1)]
def wOwes : State := { wOwing with entry := wOwing.entry.set 19 { (default : EntrySt) with owed := [⟨some 640, 7, 0, 0, false, []⟩] }, now := 641 }
def wStopping : State := { State.reset with port := State.reset.port.set 2 { (default : PortSt) with running := true, clearDue := true } }
def wSeg (lead : Bool) : State :=
  let s := withFields State.reset [(Reg.ST_SEGs_CFG 1, Fld.ST_SEGs_CFG_SRC, 1), (Reg.ST_SEGs_STATE 1, Fld.ST_SEGs_STATE_PRESENT, b2n (!lead))]
  { s with seg := s.seg.set 1 { (default : SegSt) with dueLead := some 55, dueTrail := some 99, docs := if lead then [] else [⟨4, 55, none⟩] } }
def wRunningPort : State := { State.reset with port := State.reset.port.set 2 { (default : PortSt) with running := true } }
/-- Stream 5 runs on LU 3, MU 5, GU 2 and OF 6, on context 2 of each. -/
def wRoute (l : List (Nat × Fld × Nat)) : State :=
  withFields State.reset ([(Reg.PGL_CHn_ROUTE 5, Fld.PGL_CHn_ROUTE_LU, 3), (Reg.PGL_CHn_ROUTE 5, Fld.PGL_CHn_ROUTE_MU, 5), (Reg.PGL_CHn_ROUTE 5, Fld.PGL_CHn_ROUTE_GU, 2),
    (Reg.PGL_CHn_ROUTE 5, Fld.PGL_CHn_ROUTE_OF, 6), (Reg.PGL_CHn_CFG 5, Fld.PGL_CHn_CFG_WEIGHT, 2), (Reg.PGL_CHn_CFG 5, Fld.PGL_CHn_CFG_ACTIVE, 1), (Reg.PVp_LUu_CTXc_CFG 0 3 2, Fld.PVp_LUu_CTXc_CFG_STREAM, 5),
    (Reg.PVp_LUu_CTXc_CFG 0 3 2, Fld.PVp_LUu_CTXc_CFG_VALID, 1), (Reg.PVp_MUu_CTXc_CFG 2 1 2, Fld.PVp_MUu_CTXc_CFG_STREAM, 5), (Reg.PVp_MUu_CTXc_CFG 2 1 2, Fld.PVp_MUu_CTXc_CFG_VALID, 1),
    (Reg.PVp_MUu_CTXc_CFG 2 1 2, Fld.PVp_MUu_CTXc_CFG_REF, 1), (Reg.PVp_GU_CTXc_CFG 2 2, Fld.PVp_GU_CTXc_CFG_STREAM, 5), (Reg.PVp_GU_CTXc_CFG 2 2, Fld.PVp_GU_CTXc_CFG_VALID, 1),
    (Reg.PVp_GU_CTXc_CFG 2 2, Fld.PVp_GU_CTXc_CFG_PATH, 1), (Reg.PVp_GU_PATHq_CFG 2 1, Fld.PVp_GU_PATHq_CFG_CTX_A, 2), (Reg.PVp_GU_PATHq_CFG 2 1, Fld.PVp_GU_PATHq_CFG_VALID, 1)] ++ l)
def wWaits : State := let s := wRoute []; s.setWaiting 0 3 5 [.line (lineOf 5 [1, 2, 3])]
/-- The unit of a kind has taken a line of stream 5. -/
def wTaken (kind n : Nat) : State :=
  let s := wRoute []
  { s with arb := s.arb.set (unitKey kind n) { (default : ArbSt) with taken := some (5, lineOf 5 [1, 2, 3, 4]) } }
/-- The line that the unit took is at the first unit of its chain, and so in the Glasshouse. -/
def wHeldLine (kind n : Nat) : State :=
  let s := wTaken kind n
  { s with chan := s.chan.set 5 { (default : ChanSt) with atFirst := [(unitKey kind n, itemKey (.line (lineOf 5 [1, 2, 3, 4])))] } }
def wDrop (v : Nat) : State := bench [(Reg.PGL_DROP_LAST, v * 2 ^ 31)]
def wLoading : State := { State.reset with pav := State.reset.pav.set 2 { (default : PavSt) with loading := some 3 } }
def wFollows (l : List (Nat × Fld × Nat)) : State := { withFields State.reset ([(Reg.TWN_STATUS, Fld.TWN_STATUS_STATE, 5), (Reg.GLB_ROLE, Fld.GLB_ROLE_PAIRED, 1)] ++ l) with now := 3000 }
def wAdmWait : State := { wFollows [] with chan := (wFollows []).chan.set 5 { (default : ChanSt) with wait := [⟨1, 0, 1000, lineOf 5 [1], false, false, none⟩] } }
/-- Stream 5 runs on MU 5 and GU 2, on context 2 of each. -/
def wUnit (l : List (Nat × Fld × Nat)) : State :=
  withFields State.reset ([(Reg.PGL_CHn_ROUTE 5, Fld.PGL_CHn_ROUTE_LU, 31), (Reg.PGL_CHn_ROUTE 5, Fld.PGL_CHn_ROUTE_MU, 5), (Reg.PGL_CHn_ROUTE 5, Fld.PGL_CHn_ROUTE_GU, 2),
    (Reg.PGL_CHn_CFG 5, Fld.PGL_CHn_CFG_ACTIVE, 1), (Reg.PVp_MUu_CTXc_CFG 2 1 2, Fld.PVp_MUu_CTXc_CFG_STREAM, 5), (Reg.PVp_MUu_CTXc_CFG 2 1 2, Fld.PVp_MUu_CTXc_CFG_VALID, 1),
    (Reg.PVp_MUu_CTXc_CFG 2 1 2, Fld.PVp_MUu_CTXc_CFG_REF, 1), (Reg.PVp_GU_CTXc_CFG 2 2, Fld.PVp_GU_CTXc_CFG_STREAM, 5), (Reg.PVp_GU_CTXc_CFG 2 2, Fld.PVp_GU_CTXc_CFG_VALID, 1),
    (Reg.PVp_GU_CTXc_CFG 2 2, Fld.PVp_GU_CTXc_CFG_PATH, 1), (Reg.PVp_GU_PATHq_CFG 2 1, Fld.PVp_GU_PATHq_CFG_CTX_A, 2), (Reg.PVp_GU_PATHq_CFG 2 1, Fld.PVp_GU_PATHq_CFG_VALID, 1)] ++ l)
def wMarker : Marker := { (default : Marker) with stream := 5, count := 1, trunc := true }
def wTake (kind n : Nat) : State :=
  let s := wUnit []
  { s with arb := s.arb.set (unitKey kind n) { (default : ArbSt) with taken := some (5, lineOf 5 [1, 2, 3, 4]) } }
/-- The MU's member and group hold a line and the marker after it. -/
def wMerge : State :=
  let s := wUnit []
  { s with muCtx := s.muCtx.set 42 ⟨[lineOf 5 [1, 2, 3, 4]], [wMarker], [], [(0, 1)]⟩, muGrp := s.muGrp.set 20 ⟨[lineOf 5 [1, 2, 3, 4]], [(0, 0, 0, 5)], [], 0⟩ }
def wLate (l : List (Nat × Fld × Nat)) : State :=
  let s := wUnit ([(Reg.PVp_MUu_GRPg_TIMEOUT 2 1 0, Fld.PVp_MUu_GRPg_TIMEOUT_TIMEOUT, 10), (Reg.PVp_MUu_CTXc_CFG 2 1 3, Fld.PVp_MUu_CTXc_CFG_STREAM, 6), (Reg.PVp_MUu_CTXc_CFG 2 1 3, Fld.PVp_MUu_CTXc_CFG_VALID, 1)] ++ l)
  { s with muGrp := s.muGrp.set 20 ⟨[], [(0, 0, 100, 5)], [], 0⟩, now := 5000 }
def wMuEnd : State :=
  let s := wUnit []
  { s with muCtx := s.muCtx.set 42 ⟨[], [wMarker], [], []⟩, muGrp := s.muGrp.set 20 ⟨[], [(0, 2 ^ 32, 0, 5)], [], 0⟩ }
def wGrid : GuLine := ⟨0, 0, 0, 0, lineOf 5 [1, 2, 3, 4], 0, 4, 1⟩
def wRelease : State :=
  let s := wUnit []
  { s with guCtx := s.guCtx.set 18 { (default : GuCtx) with ring := [wGrid] }, guPath := s.guPath.set 17 { (default : GuPath) with cur := some 0 } }
/-- The same grid line in a delay ring of four slots. -/
def wRing : State :=
  let s := (wUnit [(Reg.PVp_GU_CTXc_RING_LINES 2 2, Fld.PVp_GU_CTXc_RING_LINES_LINES, 4), (Reg.FM_CAPACITY, Fld.FM_CAPACITY_MIB, 7936)]).guStore 2 2 wGrid
  { s with guPath := s.guPath.set 17 { (default : GuPath) with cur := some 0 } }
def wGuEnd : State :=
  let s := wUnit []
  { s with guCtx := s.guCtx.set 18 { (default : GuCtx) with marks := [wMarker] }, guPath := s.guPath.set 17 { (default : GuPath) with cur := some 0, next := 1 } }
def wBox : GuBox := ⟨65536, 0, 0, 0, 3, 0, false, false⟩
def wDesk : State :=
  let s := wUnit []
  { s with
    guCtx := s.guCtx.set 18 { (default : GuCtx) with marks := [{ wMarker with count := 0 }] }
    guPath := s.guPath.set 17 { (default : GuPath) with cur := some 0, regs := [4 + 2 ^ 24, 0, 1, 7], box := some wBox, vend := some 65536 } }
def wGuWait : State :=
  let s := wUnit [(Reg.TWN_STATUS, Fld.TWN_STATUS_STATE, 5)]
  { s with guCtx := s.guCtx.set 18 { (default : GuCtx) with wait := [⟨100, false, wGrid⟩] }, now := 2100 }
/-- OF 4 serves stream 5 on context 1, which feeds output stream 9; the stream is routed to GU 2 and OF 4. -/
def wOut (l : List (Nat × Fld × Nat)) : State :=
  withFields State.reset ([(Reg.PGL_CHn_ROUTE 5, Fld.PGL_CHn_ROUTE_LU, 31), (Reg.PGL_CHn_ROUTE 5, Fld.PGL_CHn_ROUTE_MU, 31),
    (Reg.PGL_CHn_ROUTE 5, Fld.PGL_CHn_ROUTE_GU, 2), (Reg.PGL_CHn_ROUTE 5, Fld.PGL_CHn_ROUTE_BU, 31), (Reg.PGL_CHn_ROUTE 5, Fld.PGL_CHn_ROUTE_OF, 4), (Reg.PGL_CHn_CFG 5, Fld.PGL_CHn_CFG_ACTIVE, 1),
    (ofCfg 4 1, Fld.PVp_OFu_CTXc_CFG_VALID, 1), (ofCfg 4 1, Fld.PVp_OFu_CTXc_CFG_STREAM, 5), (ofCfg 4 1, Fld.PVp_OFu_CTXc_CFG_OS_A, 9),
    (Reg.OSn_CTRL 9, Fld.OSn_CTRL_EN, 1), (Reg.OSn_FMT 9, Fld.OSn_FMT_NSEL, 1), (Reg.OSn_FMT 9, Fld.OSn_FMT_BITS, 1), (Reg.OSn_CFG 9, Fld.OSn_CFG_DEST, 2)] ++ l)
def wOutTake (l : List (Nat × Fld × Nat)) : State :=
  let s := wOut l
  { s with arb := s.arb.set (unitKey 4 4) { (default : ArbSt) with taken := some (5, lineOf 5 [31200, 27949, 24406, 41066]) } }
/-- A document of output stream 9 with EN set and one sample of 10 bits a pixel. -/
def wDoc : OsDoc := ⟨0, 7, 5, [1, 257, 0, 0, 0, 0, 0, 0, 128, 2], 2, none, none, 0, 4, 0, [], 0, [], none, false⟩
def wMark : Marker := { (default : Marker) with stream := 5, doc := 7, count := 2 }
def wDocLine : Line := ⟨{ (default : Tag) with stream := 5, doc := 7, line := 3 }, [[31200, 27949, 24406, 41066]]⟩
def wFormat : State := { wOut [] with os := (wOut []).os.set 9 { (default : OsSt) with cur := some wDoc } }
def wBuWord : Nat := ((State.reset.setFld 0 Fld.PVp_BUu_CTXc_CFG_OS_EN 1).setFld 0 Fld.PVp_BUu_CTXc_CFG_OS 9 |>.reg 0).toNat
/-- A closed record of BU 2, context 1, whose registers hold zeros but for STREAM and the ring. -/
def wRec : BuRec := ⟨5, 0, ⟨wBuWord :: List.replicate 39 0, 0, 10⟩, 7, 0, 0, 3, 0, 0, false, []⟩
def wStat (busy : List Nat) : State :=
  let s := withFields State.reset [(buCfg 2 1, Fld.PVp_BUu_CTXc_CFG_STREAM, 5), (Reg.PVp_BUu_CTXc_RING 1 0 1, Fld.PVp_BUu_CTXc_RING_NSLOT, 4),
    (Reg.PVp_BUu_CTXc_RING 1 0 1, Fld.PVp_BUu_CTXc_RING_SLOT_SIZE, 16), (Reg.PVp_BUu_CTXc_REC_BASE 1 0 1, Fld.PVp_BUu_CTXc_REC_BASE_BASE, 64),
    (Reg.PVp_BUu_CTXc_SEQ 1 0 1, ⟨0, 32⟩, 6), (Reg.FM_CAPACITY, Fld.FM_CAPACITY_MIB, 7936)]
  { s with bu := s.bu.set 17 { (default : BuCtx) with due := [wRec], busy := busy } }
def wStatFenced : State := (wStat []).setFld Reg.FC_FENCE_UNIT_HI ⟨2, 1⟩ 1
def wPlace (size : Nat) : State :=
  { wOut [] with
    bu := [(17, { (default : BuCtx) with busy := [2, 3] })]
    os := (wOut []).os.set 9 { (default : OsSt) with cur := some wDoc, stats := [⟨0, 7, 0, 17, 2, List.replicate size 1⟩], ptr := 64, seen := 1 } }
def wHeader : State :=
  let s := withFields State.reset [(Reg.OSn_CFG 9, Fld.OSn_CFG_DEST, 2)]
  { s with os := s.os.set 9 { (default : OsSt) with hdrs := [{ wDoc with mark := some wMark }] } }
/-- A HOST device whose output stream 3 relays output stream 9 of the head. -/
def wRelayHost : State :=
  withFields State.reset [(Reg.OSn_CFG 3, Fld.OSn_CFG_VALID, 1), (Reg.OSn_CFG 3, Fld.OSn_CFG_SRC, 1), (Reg.OSn_CFG 3, Fld.OSn_CFG_REMOTE_OS, 9), (Reg.OSn_CTRL 3, Fld.OSn_CTRL_EN, 1)]
def wStr : LinkPkt := ⟨5, 0, true, true, false, 0, 0, 0, 9, 40, [9, 7, 3, 4, 1, 0, 2, 0xDEADBEEF, 0x01020304, 0x05060708]⟩
def wRelay : State := arrived wRelayHost 0 wStr
def wRelayDoc : State := { wRelayHost with os := wRelayHost.os.set 3 { (default : OsSt) with cur := some { wDoc with idx := 7 } } }
def wStrBytes : List Nat := wStr.payload.flatMap (leBytes 4)
def wRecord (since : Nat) : OsRec := ⟨{ (default : Tag) with doc := 7, line := 3 }, 4, [1, 2], 99, 99, since, none⟩
def wCmp : State :=
  let s := withFields State.reset [(Reg.OSn_CFG 9, Fld.OSn_CFG_DEST, 2), (Reg.TWN_CFG, Fld.TWN_CFG_CMP_WAIT, 2), (Reg.TWN_STATUS, Fld.TWN_STATUS_STATE, 2), (Reg.GLB_ROLE, Fld.GLB_ROLE_PAIRED, 1)]
  { s with os := s.os.set 9 { (default : OsSt) with wait := [wRecord 0] }, now := 2000 }
def wSealRep (v : Nat) : State := arrived wCmp 2 ⟨7, 2, true, true, false, 0, 0, 0, 0, 0, [9, 7, 3, v]⟩
def wRecRep (v : Nat) : State :=
  let s := arrived wCmp 2 ⟨7, 3, true, true, false, 0, 0, 0, 0, 0, [18, 6, 7, v]⟩
  { s with bu := [(17, { (default : BuCtx) with recOwn := [(6, 7, 55)] })] }
/-- Frame memory ready with its whole capacity. -/
def wMem (l : List (Nat × Fld × Nat)) : State :=
  withFields (hosted []) ([(Reg.FM_CAPACITY, Fld.FM_CAPACITY_MIB, 7936), (Reg.FM_STATUS, Fld.FM_STATUS_READY, 1), (Reg.FM_STATUS, Fld.FM_STATUS_TRAINED, 1)] ++ l)
def wFlaw (n : Nat) : State := { wMem [(Reg.FM_CFG, Fld.FM_CFG_RESERVE, 1)] with fm := { (default : FmSt) with flaw := [(100, n)] } }
def wScrub : State := { wMem [(Reg.FM_SCRUB_CTRL, Fld.FM_SCRUB_CTRL_PERIOD_H, 24)] with fm := { (default : FmSt) with scrub := 77 } }
def wScrubEnd : State := { wScrub with fm := { wScrub.fm with scrub := wScrub.fmTop / 64 - 1 } }
def wPoison : State := { wMem [] with fm := { (default : FmSt) with fences := [0, 1, 2, 3, 4, 5, 6, 7] } }
def wFencing : State := { wMem [] with fm := { (default : FmSt) with fences := [3], fencing := [3] } }
def wUntrained : State := withFields State.reset [(Reg.GLB_IMG_STATUS, Fld.GLB_IMG_STATUS_APPLIED, 1), (Reg.FM_CFG, Fld.FM_CFG_POPULATED, 1)]
def wInject : State := wMem [(Reg.FM_INJECT, Fld.FM_INJECT_ARM, 1), (Reg.FM_INJECT, Fld.FM_INJECT_ADDR, 100), (Reg.FM_INJECT, Fld.FM_INJECT_NSYM, 2)]
def wFrameMemoryAccess1 : State := { wMem [] with regs := (wMem [(Reg.GLB_EXPERT_EN, ⟨0, 19⟩, 0x7FFFF)]).regs }
def wDocEnd : OsDoc := { wDoc with mark := some wMark }
/-- A boot directory that passes its checks, and the device with it in flash before verification. -/
def wDirBody : List Nat := [0x4D, 0x5A, 0x42, 0x44] ++ leBytes 4 1 ++ leBytes 4 0x100000 ++ leBytes 4 0x100000 ++ leBytes 4 0x200000 ++ leBytes 4 0x100000 ++ List.replicate 100 0
def wDir : List Nat := wDirBody ++ leBytes 4 (crc32c wDirBody)
def wDirState : State := { State.reset with flash := memWrite [] 0xFF 0xF0000 wDir }
/-- The first bytes of an image: version, role 2, paired. -/
def wImage : List Nat := [0x42, 0x4C, 0x55, 0x54, 2, 0, 0, 0, 0, 0, 1, 0, 0xB1, 2, 0, 1, 1, 0, 0, 0, 0, 0, 0, 0, 9, 0, 0, 0] ++ List.replicate 228 0
def wVerified : State := { State.reset with boot := { State.reset.boot with verified := true } }
def wStrap : State := withFields State.reset [(Reg.GLB_ROLE, Fld.GLB_ROLE_STRAP_ROLE, 2)]
def wApplied (d : List Nat) : State :=
  let s := withFields (hosted []) [(Reg.GLB_IMG_STATUS, Fld.GLB_IMG_STATUS_APPLIED, 1)]
  { s with mgt := { s.mgt with mc0Run := true }, image := { s.image with mc1Digest := d } }
def wMc0Done : State := { wVerified with boot := { wVerified.boot with mc0Done := true } }
def wGo (at_ : Nat) (l : List (Nat × Fld × Nat)) : State :=
  { withFields (hosted []) ([(Reg.GLB_IMG_STATUS, Fld.GLB_IMG_STATUS_APPLIED, 1)] ++ l) with now := at_ }
def wRom : State := (hosted []).setCfg 0 0x30 1
def wDue : State := { hosted [(Reg.OSn_CTRL 3, 1), (Reg.MGT_LOG_SEQ, 7)] with boot := { State.reset.boot with resetDue := some 2 } }
def wHeld : State := { State.reset with boot := { State.reset.boot with rstLow := true, resetDue := some 1 } }
def wBcast : State := arrived (hosted []) 0 ⟨6, 4, true, true, false, 0, 0, 0, 0, 0, [5, 2 ^ 31, 0, 0, 0]⟩
def wBcastSeen : State := { wBcast with sync := { wBcast.sync with bcastSeen := [5] } }
def wPerst : State := { State.reset with pcie := { State.reset.pcie with perst := true }, now := 500 }
/-- Group 1 is in service, and the device follows it. -/
def wFollower (l : List (Nat × Fld × Nat)) : State :=
  withFields (hosted []) ([(Reg.GLB_ROLE, Fld.GLB_ROLE_ROLE, 1), (Reg.LNK_Gg_STATUS 1, Fld.LNK_Gg_STATUS_STATE, 8)] ++ l)
def wSynced : State := { wFollower [] with sync := { State.reset.sync with set := true, good := 63, sent := [(1, some (7, 16000))] }, invar := 4000 }
/-- A generator that runs with source `src`, index `idx`, and pulses in every phase. -/
def wGen (src idx : Nat) (g : GenSt) : State :=
  { withFields (hosted []) [(Reg.TB_STBi_CFG 6, Fld.TB_STBi_CFG_SRC, src), (Reg.TB_STBi_CFG 6, Fld.TB_STBi_CFG_SRC_IDX, idx), (Reg.TB_STBi_CFG 6, Fld.TB_STBi_CFG_PHMASK, 255),
    (Reg.TB_STBi_CFG 6, Fld.TB_STBi_CFG_NPH, 3), (Reg.TB_STBi_PITCH 6, Fld.TB_STBi_PITCH_PITCH, 100), (Reg.TB_STB_RUN, ⟨6, 1⟩, 1), (Reg.TB_STBi_WIDTH 6, Fld.TB_STBi_WIDTH_WIDTH, 50)]
    with gen := [(6, g)], invar := 3200 }
def wGen0 : GenSt := ⟨false, none, 2, 0, [], false, none⟩
def wEnc : State := withFields (hosted []) [(Reg.TB_ENCk_POS 1, ⟨0, 32⟩, 100), (Reg.TB_STATUS, ⟨15, 1⟩, 1)]
/-- TRIG_IN[3] has risen at the pin, and `n` of the 5 samples that its filter asks for have shown it. -/
def wFilt (n : Nat) : State :=
  let s := withFields (hosted []) [(Reg.TB_TRIGi_CFG 3, Fld.TB_TRIGi_CFG_FILT, 5), (Reg.TB_ENCk_CFG 1, Fld.TB_ENCk_CFG_FILT, 2)]
  { s with filter := { s.filter with trig := 8, run := [(3, n)] } }
def wEncMoving : State := { withFields (hosted []) [(Reg.TB_ENCk_CFG 1, Fld.TB_ENCk_CFG_STOP_US, 4), (Reg.TB_ENCk_VEL 1, ⟨0, 32⟩, 77), (Reg.TB_STATUS, ⟨15, 1⟩, 0)] with invar := 4000 }
def wEncRemote : State := arrived (withFields (hosted []) [(Reg.TB_ENCk_CFG 1, Fld.TB_ENCk_CFG_SRC, 1)]) 0 ⟨6, 2, true, true, false, 0, 0, 0, 0, 0, [1, 500, 600, 7, 8]⟩
def wSched (lo : Nat) : State := withFields { hosted [] with invar := 1000 } [(Reg.TB_SCHEDk_TIME_LO 2, ⟨0, 32⟩, lo), (Reg.TB_SCHEDk_ARG 2, ⟨0, 32⟩, 6)]
def wArmed (action : Nat) : State := { withFields (hosted []) [(Reg.TB_SCHEDk_CTRL 2, Fld.TB_SCHEDk_CTRL_STATE, 1)] with slot := [(2, ⟨900, action, 6⟩)], invar := 1000 }
def wInvarTime1 : State := { hosted [] with invar := 2 ^ 33 + 5 }
/-- A DMA channel's contents at instruction 0 of a program: the instruction's eight words, and an END after it. -/
def wProg (w : List Nat) : DmaSt := { (default : DmaSt) with prog := w ++ List.replicate (8 - w.length) 0 ++ [5, 0, 0, 0, 0, 0, 0, 0] }
/-- Channel 3 in a state, with its contents. -/
def wChan (st : Nat) (d : DmaSt) (l : List (Nat × Fld × Nat)) : State :=
  { withFields (hosted []) ([(Reg.DMA_CHn_STATUS 3, Fld.DMA_CHn_STATUS_STATE, st), (Reg.DMA_CH_ACTIVE, ⟨3, 1⟩, b2n (st == 1 || st == 2)), (Reg.FM_CAPACITY, Fld.FM_CAPACITY_MIB, 7936)] ++ l)
    with dma := [(3, d)] }
def wRead (len : Nat) (got : List Nat) (tag : Option Nat) : DmaRead := ⟨tag, 0x1000, 0, len, got, 0, true, 0⟩
def wLoad : State := wChan 1 { wProg [] with loading := true, prog := [], reads := [wRead 64 ([5, 0, 0, 0] ++ List.replicate 60 0) none] } []
def wLoop5 : State := wChan 1 { wProg [2 + 2 ^ 8, 3] with loops := List.replicate 4 ⟨0, 1, 0, 0, 0, 0⟩ } []
/-- WAIT for 2 of semaphore 3, after 10 µs with the given action. -/
def wWaitProg (act : Nat) : DmaSt := wProg [3 + 3 * 2 ^ 8 + act * 2 ^ 11 + 3 * 2 ^ 16, 2, 10]
def wWait (st sem act now : Nat) (waiting : Bool) : State :=
  { wChan st { wWaitProg act with waiting := waiting } [(Reg.DMA_CHn_SEM 3, ⟨0, 16⟩, sem)] with now := now }
/-- SIGNAL: write, semaphore 4 by 6, interrupt with code 0x22. -/
def wSignal : State := wChan 1 (wProg [4 + 7 * 2 ^ 8 + 0x22 * 2 ^ 16 + 4 * 2 ^ 24, 0xABCD, 6, 0, 0x2000, 1]) []
/-- MOVE of 16 bytes of frame memory at 0x40 to the host at 0x2000. -/
def wMove : State := wChan 1 (wProg [1 + 2 ^ 8, 16, 0x40, 0, 0x2000, 0]) []
def wItem (typ : Nat) : OsItem := ⟨typ, 7, 3, 0, false, [1, 2, 3, 4], 0, 0⟩
/-- MOVE of one line record of output stream 9 into the ring. -/
def wMoveLine (sem : Nat) : State :=
  let s := wChan 1 (wProg [1 + 2 * 2 ^ 8 + 2 * 2 ^ 11 + 2 ^ 14]) [(Reg.DMA_CHn_BIND 3, Fld.DMA_CHn_BIND_OS_EN, 1), (Reg.DMA_CHn_BIND 3, Fld.DMA_CHn_BIND_OS, 9),
    (Reg.DMA_CHn_RING_CFG 3, Fld.DMA_CHn_RING_CFG_NSLOT, 4), (Reg.DMA_CHn_RING_CFG 3, Fld.DMA_CHn_RING_CFG_SLOT_SIZE, 1), (Reg.DMA_CHn_RING_CURSOR 3, ⟨0, 16⟩, 3),
    (Reg.DMA_CHn_SEM 3, ⟨0, 16⟩, sem), (Reg.DMA_CHn_RING_BASE_LO 3, ⟨0, 32⟩, 0x4000)]
  { s with os := [(9, { (default : OsSt) with lineQ := [wItem 0] })] }
def wMoveDoc (docs : List OsItem) : State :=
  let s := wChan 1 (wProg [1 + 2 * 2 ^ 8 + 2 * 2 ^ 11 + 2 * 2 ^ 14]) [(Reg.DMA_CHn_BIND 3, Fld.DMA_CHn_BIND_OS_EN, 1), (Reg.DMA_CHn_BIND 3, Fld.DMA_CHn_BIND_OS, 9),
    (Reg.DMA_CHn_RING_CFG 3, Fld.DMA_CHn_RING_CFG_NSLOT, 4)]
  { s with os := [(9, { (default : OsSt) with docQ := docs })] }
def wPairLead : State :=
  { wChan 1 { wProg [] with unack := [(1, 2, 3, 4)] } [(Reg.GLB_ROLE, Fld.GLB_ROLE_PAIRED, 1), (Reg.TWN_STATUS, Fld.TWN_STATUS_STATE, 2), (Reg.DMA_CHn_BIND 3, Fld.DMA_CHn_BIND_TWIN, 1)]
    with partnerState := 5 }
def wShadowChan (words : List Nat) : State :=
  arrived (wChan 0 default [(Reg.GLB_ROLE, Fld.GLB_ROLE_PAIRED, 1), (Reg.TWN_STATUS, Fld.TWN_STATUS_STATE, 5), (Reg.DMA_CHn_BIND 3, Fld.DMA_CHn_BIND_TWIN, 1)]) 2
    ⟨7, 4, true, true, false, 0, 0, 0, 0, 0, words⟩
def wReset2 : State := { hosted [] with flrUntil := [(2, some 10)], now := 20 }
def wLinkUp : State := hosted [(Reg.GLB_PCIE_STATUS, 2)]
def wReading (got : List Nat) : State := wChan 1 { wProg [] with loading := true, prog := [], reads := [wRead 4 got (some 9)] } []
def wQuar : State := { hosted [] with pcie := { State.reset.pcie with quar := [(9, 5)] }, now := 10 }
def wVector (l : List (Nat × Word)) : State := { hosted [] with msixReq := [(0, 3)], cfg := l ++ (hosted []).cfg }
/-- A lane group in a state of training. -/
def wGrp (g st : Nat) (f : TrainSt → TrainSt) : State :=
  let s := withFields (hosted []) [(Reg.LNK_Gg_STATUS g, Fld.LNK_Gg_STATUS_STATE, st)]
  { s with grp := s.grp.modify g (fun x => { x with train := f x.train }), now := 100000000 }
def wLanes (g far : Nat) : List TsLane := (List.range (laneCount g)).map (fun l => (⟨l + 16 * far, false, none, (0, 0)⟩ : TsLane))
def wWho (g n : Nat) : Nat × Nat × Nat :=
  ((List.range 256).flatMap (fun w => (List.range 4).flatMap (fun f => [(w, f, 0), (w, f, 7)]))).find? (fun x => (wGrp g 3 id).identity g x.1 x.2.2 x.2.1 == n) |>.getD (0, 0, 0)
def wIdent : State := wGrp 2 7 (fun t => { t with ident := (List.range 7).map (fun k => (k, some 0)) })
def wRef : State :=
  withFields (wGrp 0 8 id) [(Reg.GLB_ROLE, Fld.GLB_ROLE_ROLE, 1), (Reg.LNK_REF_STATUS, Fld.LNK_REF_STATUS_SRC, 1)]
def wEndpointEvents1 : State := { wReading [] with now := 50000 }
def wEndpointEvents2 : State := { wVector [(0x90, 0x80000000)] with msix := [(15, 0)] }
def wTrain1 (t : TrainSt) : TrainSt := { t with ts1 := 6 }
def wTrain2 (t : TrainSt) : TrainSt := { t with ts1 := 7 }
def wTrain3 (t : TrainSt) : TrainSt := { t with ts1 := 15 }
def wTrain4 (t : TrainSt) : TrainSt := { t with ts1 := 14 }
def wTrain5 (t : TrainSt) : TrainSt := { t with tried := [(2, 5)], best := [(2, (3, 20))] }
def wTrain6 (t : TrainSt) : TrainSt := { t with ts2 := 15 }
def wTrain7 (t : TrainSt) : TrainSt := { t with lpOwn := 2 }
def wTrain8 (t : TrainSt) : TrainSt := { t with lpOwn := 1, lpFar := 1 }
def wTrain9 (t : TrainSt) : TrainSt := { t with ts2 := 3, confirm := true }
def wTrain10 (t : TrainSt) : TrainSt := { t with ts2 := 15, confirm := true }
def wTrain11 (t : TrainSt) : TrainSt := { t with adapt := true }
/-- A group in service with a packet that is not acknowledged. -/
def wUnacked : State := let s := wGrp 1 8 wTrain7; { s with grp := s.grp.modify 1 (fun x => { x with replay := [default] }) }
/-- Two lanes of group 1 in each other's place. -/
def wTwist : List TsLane := (wLanes 1 0).map (fun x => if x.lane = 1 then { x with lane := 2 } else if x.lane = 2 then { x with lane := 1 } else x)
def wSession : State := { hosted [] with mgt := { State.reset.mgt with session := some default } }
/-- A read that its channel gave up, whose completion was due long ago. -/
def wOwedTlp : State := { hosted [] with pcie := { State.reset.pcie with owed := [(9, 0, 64, true, 0)] }, now := 70000000 }
/-- Group `g` is in service, and MC0 addresses it remotely. -/
def wLink (g : Nat) (l : List (Nat × Fld × Nat)) : State :=
  withFields { hosted [] with now := 50000 } ([(Reg.LNK_Gg_STATUS g, Fld.LNK_Gg_STATUS_STATE, 8), (Reg.MGT_REMOTEt_CFG 0, Fld.MGT_REMOTEt_CFG_TARGET, 1)] ++ l)
def wPkt (seq : Nat) : LinkPkt := ⟨1, 0, true, true, false, seq, 3, 4, 0x500000, 0, [7]⟩
def wSent (g : Nat) : State :=
  let s := wLink g []
  { s with grp := s.grp.modify g (fun x => { x with replay := [wPkt 4, wPkt 5, wPkt 6], txSeq := 7 }) }
def wRemRead : RemRead := ⟨some 3, 4, 1, 0x500000, 1, 100⟩
def wReads (l : List RemRead) (q : List (Nat × Nat)) : State := { wLink 1 [] with brg := { (default : BrgSt) with reads := l, quar := q } }
def wCpl : LinkPkt := ⟨3, 0, true, true, false, 0, 3, 4, 0, 0, [0x55]⟩
def wCplFor (l : List RemRead) (q : List (Nat × Nat)) : State := arrived (wReads l q) 1 wCpl
def wPerr : State := arrived (wLink 1 []) 1 ⟨6, 1, true, true, false, 0, 0, 0, 0, 0, [0x500010, 0x42, 9, 0]⟩
def wPerrLog : State := wLink 1 [(Reg.BRG_PERR_STATUS, Fld.BRG_PERR_STATUS_NUM, 2), (Reg.BRG_PERR_LOGe_ADDR 1, ⟨0, 26⟩, 0x500010), (Reg.BRG_PERR_LOGe_ADDR 0, ⟨0, 26⟩, 0x500014)]
def wWires : State := arrived (wLink 1 [(Reg.BRG_VW_CFG, Fld.BRG_VW_CFG_IN_SRC, 1)]) 1 ⟨6, 0, true, true, false, 0, 0, 0, 0, 0, [5, 0]⟩
def wEdge (lead : Bool) : State :=
  arrived (wLink 1 [(Reg.ST_SEGs_CFG 2, Fld.ST_SEGs_CFG_SRC, 3), (Reg.ST_SEGs_STATE 2, Fld.ST_SEGs_STATE_PRESENT, b2n (!lead))]) 1 ⟨6, 3, true, true, false, 0, 0, 0, 0, 0, [2 + b2n lead * 256, 77, 9]⟩
def wEdgeFar : State := (wEdge true).setFld Reg.GLB_ROLE Fld.GLB_ROLE_TOPOLOGY 2
def wTunPkt : LinkPkt := ⟨4, 0, true, true, false, 0, 0, 0, 6, 0, [0, 7, 0, 2 ^ 16]⟩
def wTunnel : State := arrived (wLink 1 []) 1 wTunPkt
/-- Controller 2, with contents, its owner bit and other fields. -/
def wTw (x : TwSt) (l : List (Nat × Fld × Nat)) : State :=
  { withFields { hosted [] with invar := 1000 } l with tw := [(2, x)] }
def wEntry : TwEntry := ⟨0x48, [1, 2, 3], 2, false, 9, false, none, none, 0⟩
def wQueued1 : TwSt := { (default : TwSt) with queue := [wEntry], stage := [1, 2, 3] }
def wLive : TwSt := { (default : TwSt) with cur := some wEntry, live := true }
def wTwFull : TwSt := { (default : TwSt) with queue := List.replicate 16 wEntry }
def wTwShadow : State :=
  arrived (wTw default [(Reg.GLB_ROLE, Fld.GLB_ROLE_PAIRED, 1), (Reg.TWN_STATUS, Fld.TWN_STATUS_STATE, 5), (Reg.TWk_CFG 2, Fld.TWk_CFG_MIRROR, 1)]) 2
    ⟨7, 5, true, true, false, 0, 0, 0, 0, 0, [2, 0x48 + 3 * 2 ^ 8 + 2 * 2 ^ 16, 0x030201]⟩
def wTwReqPkt : LinkPkt := ⟨4, 1, true, true, false, 0, 6, 0, 0, 0, [2 + 0x48 * 2 ^ 8 + 2 * 2 ^ 16 + 2 ^ 24, 0, 0x0201]⟩
def wTwReq (owner : Nat) : State := arrived (wTw default [(Reg.LNK_Gg_STATUS 1, Fld.LNK_Gg_STATUS_STATE, 8), (Reg.TWk_CFG 2, Fld.TWk_CFG_OWNER, owner)]) 1 wTwReqPkt
def wTwRsp (t : List TunTx) (q : List (Nat × Nat)) : State :=
  { arrived (wLink 1 []) 1 ⟨4, 2, true, true, false, 0, 6, 0, 0, 0, [0, 0]⟩ with tun := t, tunQuar := q }
def wTun : State := { hosted [] with tun := [⟨6, 1, 0⟩], now := 10 ^ 12 }
def wAlert (l : List (Nat × Fld × Nat)) : State := wTw default ([(Reg.TWk_CFG 2, Fld.TWk_CFG_ARA_AUTO, 1), (Reg.TWk_STATUS 2, Fld.TWk_STATUS_ALERT_LEVEL, 1)] ++ l)
/-- The board target enabled, its pointer at a register. -/
def wTarget (ptr : Nat) (l : List (Nat × Fld × Nat)) : State :=
  { withFields { hosted [] with tw8Ptr := ptr, regs := (bench [(Reg.TWN_STATUS, 3), (Reg.GLB_ROLE, 0x400), (Reg.MGT_ACC_DEFAULT, 0xFFFF), (Reg.GLB_EXPERT_EN, 0x7FFFF)]).regs } ([(Reg.TW8_CFG, Fld.TW8_CFG_EN, 1)] ++ l) with pending := [] }
def wRemoteAccess1 : State := { wReads [wRemRead] [] with now := 10 ^ 10 }
def wEntryAt : TwEntry := { wEntry with start := some 1000 }
def wResults : TwSt := { (default : TwSt) with results := [⟨0, 1, 0, 0, [1, 2]⟩, ⟨1, 2, 0, 0, []⟩], alerts := [3, 4] }
def wReadOn : TwSt := { (default : TwSt) with results := [⟨0, 1, 0, 0, [1, 2, 3, 4, 5]⟩], rpos := 4 }
def wMirrorAt : TwSt := { (default : TwSt) with queue := [wEntryAt] }
def wClearDue : TwSt := { (default : TwSt) with clearDue := true }
/-- A signal waits at the Lodge, which is in a state. -/
def wSig (src idx : Nat) (corr : Bool) (st : Nat) (l : List (Nat × Fld × Nat)) : State :=
  let s := withFields { hosted [] with now := 5000 } ([(Reg.FC_ESC_STATUS, Fld.FC_ESC_STATUS_STATE, st)] ++ l)
  { s with lodge := { s.lodge with raised := [⟨src, idx, corr⟩] } }
/-- A pair's device in a twin state, with the partner in another. -/
def wTwin (st partner : Nat) (l : List (Nat × Fld × Nat)) : State :=
  { withFields State.reset ([(Reg.GLB_ROLE, Fld.GLB_ROLE_PAIRED, 1), (Reg.GLB_ROLE, Fld.GLB_ROLE_LEAD, b2n (st == 2 || st == 3)), (Reg.TWN_STATUS, Fld.TWN_STATUS_STATE, st),
      (Reg.LNK_Gg_STATUS 2, Fld.LNK_Gg_STATUS_STATE, 8)] ++ l) with partnerState := partner, invar := 5000, now := 5000 }
def wTakeSig : State :=
  let s := wTwin 2 5 []
  { s with lodge := { s.lodge with raised := [⟨51, 0, false⟩] } }
def wEpisode (d : Nat) : State :=
  let s := withFields { hosted [] with now := 5000 } [(Reg.FC_ESC_STATUS, Fld.FC_ESC_STATUS_STATE, 1), (Reg.FC_ESC_STATUS, Fld.FC_ESC_STATUS_EPISODE_ID, 7)]
  { s with lodge := { s.lodge with escUntil := some d } }
def wFault (times : List Nat) (l : List (Nat × Fld × Nat)) : State :=
  let s := withFields { hosted [] with now := 60000 } ([(Reg.FC_ESC_STATUS, Fld.FC_ESC_STATUS_STATE, 2)] ++ l)
  { s with lodge := { s.lodge with quietUntil := some 59999, faultTimes := times, touched := [41] } }
def wFenced : State := withFields (hosted []) [(Reg.FC_FENCE_PORT, ⟨3, 1⟩, 1), (Reg.FC_FENCE_UNIT_HI, Fld.FC_FENCE_UNIT_HI_MC1, 1)]
def wMove1 : MoveSt := ⟨5, 1, 2, 3, some 9, 0, false, false⟩
def wMoves : State := { hosted [] with lodge := { State.reset.lodge with moves := [wMove1] }, now := 9 }
/-- A quiet device that may use power states up to `most`, with the next event at `next`. -/
def wQuiet (most next : Nat) (l : List (Nat × Fld × Nat)) : State :=
  { withFields (hosted []) ([(Reg.PCR_CTRL, Fld.PCR_CTRL_PWR_EN, 1), (Reg.PCR_CTRL, Fld.PCR_CTRL_MAX_STATE, most), (Reg.PCR_CTRL, Fld.PCR_CTRL_P3_EN, 1),
      (Reg.PCR_NEXT_EVENT_LO, ⟨0, 32⟩, next), (Reg.PCR_GUARD, Fld.PCR_GUARD_US, 100)] ++ l) with invar := 100000, now := 100000 }
def wAsleep (st : Nat) : State :=
  let s := wQuiet 3 0 [(Reg.PCR_STATUS, Fld.PCR_STATUS_STATE, st), (Reg.PCR_WAKE_EN_PIN, ⟨4, 1⟩, 1)]
  { s with pwr := { s.pwr with held := 4 } }
def wEntering : State := let s := wQuiet 3 0 [(Reg.PCR_WAKE_EN_PIN, ⟨4, 1⟩, 1)]; { s with pwr := { s.pwr with entry := some (1, 200000) } }
def wExit (n : Nat) : State := { wAsleep 2 with pwr := { (wAsleep 2).pwr with exitAt := some (n, 2) } }
def wAwake : State := { wAsleep 2 with pwr := { (wAsleep 2).pwr with awake := [(5, 90000)] } }
def wHeat : State := hosted [(Reg.PCR_CFG, 100 * 2 ^ 16)]
/-- A message from the partner of a type. -/
def wMsg (s : State) (typ : Nat) (words : List Nat) : State := arrived s 2 ⟨7, typ, true, true, false, 0, 0, 0, 0, 0, words⟩
def wPow : State := wMsg (wTwin 5 2 []) 1 [7, 0, 2, 9000, 0]
def wPowLead : State := wMsg (wTwin 2 5 []) 1 [7, 0, 2, 9000, 0]
def wOwed : State := { wTwin 5 2 [] with entry := [(19, { (default : EntrySt) with owed := [⟨some 640, 7, 0, 0, false, []⟩] })] }
def wSnap (st : Nat) : State := wMsg (wTwin st 2 []) 8 [0, 0]
def wTake5 (st : Nat) (tk : Option (Nat × Nat)) : State := wMsg { wTwin st 2 [] with twin := { State.reset.twin with take := tk } } 7 [2, 9000, 0]
def wStateMsg (st st' : Nat) (l : List (Nat × Fld × Nat)) : State := wMsg (wTwin st (if st = 3 then 4 else 2) l) 6 [st', 0]
def wHeadMsg (hl : Option Nat) (h : Table (Option (Bool × Nat))) (at_ : Nat) : State :=
  let s := withFields (hosted []) [(Reg.GLB_ROLE, Fld.GLB_ROLE_ROLE, 2), (Reg.LNK_Gg_STATUS 1, Fld.LNK_Gg_STATUS_STATE, 8)]
  arrived { s with headLead := hl, twin := { s.twin with heads := h } } 1 ⟨6, 5, true, true, false, 0, 0, 0, 2, at_, [0]⟩
def wRole1 : State := withFields { hosted [] with now := 20000 } [(Reg.GLB_ROLE, Fld.GLB_ROLE_ROLE, 1)]
def wTaking (st t0 : Nat) (rel : Bool) : State := { wTwin st 5 [] with twin := { State.reset.twin with take := some (t0, 2), released := rel } }
def wAdmit (at_ : Nat) : State := { wTwin 4 2 [(Reg.TB_SYNC_STATUS, Fld.TB_SYNC_STATUS_LOCKED, 1)] with twin := { State.reset.twin with snapped := true, admitAt := 0 }, now := at_ }
def wDown (st : Nat) : State := { wTwin st 0 [(Reg.LNK_Gg_STATUS 2, Fld.LNK_Gg_STATUS_STATE, 10), (Reg.GLB_ROLE, Fld.GLB_ROLE_TWIN_ID, 1)] with now := 10 ^ 12 }
/-- MC0 firmware runs; an owner session of slot 0 may be open; the mailbox arguments are `a` and `n`. -/
def wMgt (sess : Option Nat) (a n : Nat) (l : List (Nat × Fld × Nat)) : State :=
  let s := withFields (hosted []) ([(Reg.MGT_MBX_ARGj 0, ⟨0, 32⟩, a), (Reg.MGT_MBX_ARGj 1, ⟨0, 32⟩, n)] ++ l)
  { s with mgt := { s.mgt with mc0Run := true, session := sess, nonce := some (List.replicate 32 7) } }
def wDog : State := let s := wMgt none 0 0 [(Reg.MGT_WDTt_CFG 0, Fld.MGT_WDTt_CFG_MS, 1)]; { s with now := 1000000 }
def wLodgeEpisodes1 : State := { wFenced with regs := (wFenced.setFld Reg.GLB_EXPERT_EN ⟨0, 19⟩ 0x7FFFF).regs }
def wPowerStates1 : State := { hosted [] with boot := { State.reset.boot with rstLow := true } }
def wManagement1 : State := { wMgt (some 0) 1 1 [] with otp := [(0, (1, [1])), (2, (1, [2]))] }
def wManagement2 : State := { wMgt (some 0) 1 1 [] with mgt := { (wMgt (some 0) 1 1 []).mgt with passed := [(1, 1)] } }
def wManagement3 : State := { wMgt none 1 1 [(Reg.MGT_STATUS, Fld.MGT_STATUS_MBX_BUSY, 1)] with mgt := { (wMgt none 1 1 []).mgt with cmd := some ⟨0x10, 6, 3, false⟩ } }
def wManagement4 : State := { wDog with now := 999999 }


/-! ### Ill-formed commands: one for each check of `wellFormed` -/

/-- Every command of the list is turned away by `wellFormed`. -/
def allIll (l : List Instr) : Bool := l.all (fun i => !wellFormed i)

theorem test_illformed_registers : allIll
    [.regWrite .mc0 2 0 15 0 false, .regWrite .mc0 0 0 16 0 false, .counterWrite .mc0 Reg.GLB_ID 0 0,
     .powerOnReset 4 0 false false, .powerOnReset 0 2 false false, .warmReset 4 0, .warmReset 0 2, .imageVerify 8 0, .imageVerify 0 8,
     .recipeLoadDone 4] = true := by decide +kernel

theorem test_illformed_pergola : allIll
    [.csiLongPacket 16 0 [] none, .csiHeaderUncorr 16, .csiFrameStart 16 0, .csiFrameEnd 16 0, .csiLineStart 16 0, .csiGenericShort 16 0,
     .csiNullBlanking 16 0, .unknownDtDiscard 16 0, .phySyncError 16, .deskewSequence 16 0, .deskewSequence 0 16, .ulpsTransition 16 0 true,
     .ulpsTransition 0 5 true, .lineTimeout 16 0, .lineTimeout 0 8, .frameTimeout 16 0, .frameTimeout 0 16, .portEnable .mc0 16,
     .portDisable .mc0 16, .portStop 16, .hsBurstStart 16 0, .hsBurstStart 0 4, .segLeadingEdge 4 none, .segTrailingEdge 4,
     .pglGrant .bu 0, .pglGrant .lu 16, .admissionDecisionTimeout 64] = true := by decide +kernel

theorem test_illformed_pavilions : allIll
    [.luLine 16 .ok 0 [] [], .tblDataWrite .mc0 16 0, .tblDataRead .mc0 16, .muMemberLine 8 .ok, .muOutputLine 8 0 0 [], .muOutputLine 0 4 0 [],
     .muMemberTimeout 8 0 0, .muMemberTimeout 0 8 0, .muShadowWait 8 0 0, .muShadowWait 0 8 0, .muMarker 8 0, .muMarker 0 4,
     .guInputLine 4 .ok [], .guRelease 4 0 0 0 .ok, .guRelease 0 8 0 0 .ok, .guRelease 0 0 3 0 .ok, .guRelease 0 0 0 3 .ok,
     .guDeskewLine 4 0 [] 0 [], .guDeskewLine 0 8 [] 0 [], .guMarker 4 0, .guMarker 0 8, .guDiscardDecisionTimeout 4 0,
     .guDiscardDecisionTimeout 0 8, .buRecordComplete 8 0 0 [], .buRecordComplete 0 8 0 [], .ofLine 8 .ok [] 0 default [], .statsPlace 32,
     .docHeaderRecord 32, .relayItem 2 none, .cmpWaitExpiry 32] = true := by decide +kernel

theorem test_illformed_twin_and_time : allIll
    [.decLate 8 0 0, .decLate 0 64 0, .decLate 0 0 24, .decLate 1 16 0, .decLate 5 4 0, .headLeadReceive 3, .timeLoRead .mc0 16,
     .timeExchangeTick 3 0, .timeExchangeTick 0 16, .txqReceive 3 0 0 0 0, .txqReceive 0 256 0 0 0, .txqReceive 0 0 256 0 0,
     .txqReceive 0 0 0 (2 ^ 48) 0, .txqReceive 0 0 0 0 16, .txrReceive 3 0 0 0 0 0, .txrReceive 0 256 0 0 0 0, .txrReceive 0 0 256 0 0 0,
     .txrReceive 0 0 0 (2 ^ 48) 0 0, .txrReceive 0 0 0 0 (2 ^ 48) 0, .txrReceive 0 0 0 0 0 16, .trigInChange 16 false, .strobeEncEvent 32,
     .strobeTimeEvent 32, .strobePulseStart 32, .strobePulseEnd 32, .encTransition 2 false false, .encStopped 2, .encRemoteReceive 3,
     .schedArm .mc0 8 0x100, .schedDisarm .mc0 8 0x200, .schedFire 8,
     .bcastReceive 3] = true := by decide +kernel

theorem test_illformed_memory_and_channels : allIll
    [.fmStart 256, .fmReadComplete (2 ^ 34) 0 default, .fmFenceComplete 8, .fmRetrain 8 true, .fmScrubRead 3, .bar2Read 0 0, .bar2Read 0 4097, .bar2Write 0 [] false, .dmaStart .mc0 32 1, .dmaHalt .mc0 32 2, .dmaResume .mc0 32 4, .dmaStop .mc0 32 8, .dmaProgramLoaded 32, .dmaMoveBytes 32 .ok, .dmaMoveItem 32 .ok, .dmaMoveDoc 32 .ok, .dmaLoop 32, .dmaWait 32,
     .dmaWaitMet 32, .dmaWaitTimeout 32, .dmaSignal 32, .dmaEnd 32, .dmaSemAdd .mc0 32 0] = true := by decide +kernel

theorem test_illformed_long_write : wellFormed (.bar2Write 0 (List.replicate 4097 0) false) = false := by decide +kernel

theorem test_illformed_endpoint : allIll
    [.pcieDllAck 32, .configRequest 4 0 none, .configRequest 0 4096 none, .configRequest 0 2 none, .busMasterDisable 4, .functionLevelReset 4,
     .flrComplete 4, .d3hotEntry 4, .pcieCompletion 4 0 0 false default, .pcieCompletion 0 1024 0 false default, .completionTimeout 1024,
     .msixSend 4 0, .msixSend 0 256, .expansionRomRead 0 0, .expansionRomRead 0 4097, .expansionRomRead 0xFFFFF 2, .resizableBarWrite 64,
     .pcieLinkTrained 0 4, .pcieLinkTrained 6 4, .pcieLinkTrained 1 3, .pcieTagQuarantineEnd 1024] = true := by decide +kernel

theorem test_illformed_long_completion : wellFormed (.pcieCompletion 0 0 0 false ⟨List.replicate 4097 0, .ok⟩) = false := by decide +kernel

/-- What the four lanes of group T read of a set, and the same with one lane changed. -/
def fourLanes : List TsLane := List.replicate 4 ⟨0, false, none, (0, 0)⟩
def badLane (lane : Nat) (req : Option (Nat × Nat)) (app : Nat × Nat) : List TsLane := ⟨lane, false, req, app⟩ :: List.replicate 3 ⟨0, false, none, (0, 0)⟩

theorem test_illformed_lanes : allIll
    [.lnkPllLock 3, .ts1Receive 3 0 0 0 [], .ts1Receive 0 0 0 0 [], .ts1Receive 2 256 0 0 fourLanes, .ts1Receive 2 0 256 0 fourLanes, .ts1Receive 2 0 0 256 fourLanes,
     .ts2Receive 2 0 0 0 (badLane 256 none (0, 0)), .ts2Receive 2 0 0 0 (badLane 0 (some (16, 0)) (0, 0)),
     .ts2Receive 2 0 0 0 (badLane 0 (some (0, 32)) (0, 0)), .ts2Receive 2 0 0 0 (badLane 0 none (16, 0)),
     .ts2Receive 2 0 0 0 (badLane 0 none (0, 32)), .regWrite .linkL0 0 0 15 0 false, .ts2Receive 0 0 0 0 [],
     .ts2Receive 3 0 0 0 [], .identReceive 8 0, .lnkTrainTimeout 3, .lnkSpeedLock 3, .eqMeasureDone 3 0 0, .eqMeasureDone 0 16 0,
     .eqMeasureDone 0 0 64, .lnkFailedIdleEnd 3, .symbolLockLoss 3 0 0, .symbolLockLoss 0 16 0, .errorWindowExpiry 3 [],
     .errorWindowExpiry 0 [], .lnkRetrain .mc0 3 0, .lnkHold .mc0 3 0, .lnkFull .mc0 3 0, .lpeReceive 3 1, .lpeReceive 0 0, .lpeReceive 0 3,
     .wakeSetReceive 3] = true := by decide +kernel

/-- A link packet with nothing wrong in it. -/
def goodPkt : LinkPkt := ⟨1, 0, true, true, false, 0, 0, 0, 0, 0, []⟩

theorem test_illformed_link : allIll
    [.linkPacketReceive 3 goodPkt true false .ok,
     .linkPacketReceive 0 { goodPkt with cls := 16 } true false .ok, .linkPacketReceive 0 { goodPkt with typ := 16 } true false .ok,
     .linkPacketReceive 0 { goodPkt with seq := 4096 } true false .ok, .linkPacketReceive 0 { goodPkt with tag := 256 } true false .ok,
     .linkPacketReceive 0 { goodPkt with init := 16 } true false .ok, .linkAck 3 0, .linkAck 0 4096, .linkNak 3 0, .linkNak 0 4096,
     .replayTimeout 3, .creditReceive 3 0 0 0, .creditReceive 0 8 0 0, .creditReceive 0 0 (2 ^ 16) 0, .creditReceive 0 0 0 (2 ^ 16),
     .remoteWriteIssue .tw8 0 [1], .remoteWriteIssue .pf3 0x2000000 [1], .remoteWriteIssue .pf3 2 [1], .remoteWriteIssue .pf3 0 [],
     .remoteWriteIssue .mc0 0 [1, 2], .remoteReadIssue .pf0 0 1, .remoteReadIssue .mc0 2 1, .remoteReadIssue .mc0 0 0,
     .remoteReadIssue .mc1 0 2, .remoteReadIssue .pf3 0x1FFFFFC 2, .wrReceive 3, .rdReceive 3, .cpldReceive 3, .remoteReadTimeout (some 256),
     .tagQuarantineEnd 256, .perrReceive 3, .tunCsiReceive 2, .twReqReceive 3, .twRspReceive 3, .tunTimeout 16, .wiresReceive 3,
     .wiresRefresh 3, .edgeReceive 2] = true := by decide +kernel

theorem test_illformed_two_wire : allIll
    [.twWdata .mc0 8 0, .twQcmd .mc0 8 0, .twPop .mc0 8 0 none, .twPop .mc0 0 0 (some 0), .twClear .mc0 8 0 none, .twClear .mc0 0 0 (some 10),
     .twFlush .mc0 8 0 none, .twFlush .mc0 0 0 (some 10), .twAlertPop .mc0 8 0 none, .twAlertPop .mc0 0 0 (some 0),
     .twEntryStart 8 none 0 none, .twEntryStart 0 none 0 (some (some 10)), .twEntryEnd 8 none [], .twArbLost 8 0 0 [],
     .twArbLost 0 32 0 [], .twArbLostSp 8 0 [], .twBusError 8 0 [], .twStretchTimeout 8 0 [] false none,
     .twStretchTimeout 0 0 [] false (some 0), .twAlertLow 8, .twAraRead 8 none false, .twMirrorStart 8 true, .twAlertRelease 8 0,
     .twSclStuckLimit 8, .twRdataRead .mc0 8] = true := by decide +kernel

theorem test_illformed_interrupts_and_errors : allIll
    [.icLevelSample 512, .icEdgeEvent 512, .icPinFilter 48 true 0, .icPendWrite .mc0 16 0, .icMaskWrite .mc0 16 0,
     .icDeliver 512 true true .ok, .icCoreEoi .mc0 2 0, .icRemoteComplete 512, .icHoldoffExpiry 32 0, .icHoldoffExpiry 0 4, .icHoldTimeout 32,
     .icClaimRead .linkL0 ⟨0, 15⟩, .icClaimRead .mc0 ⟨2, 15⟩, .icClaimRead .mc0 ⟨0, 0⟩, .icClaimRead .mc0 ⟨0, 16⟩, .lodgeErrorSignal 55 0, .lodgeErrorSignal 0 8, .lodgeCorrectedSignal 55 0, .lodgeCorrectedSignal 0 8,
     .spareLoadDone 64 0 0, .spareLoadDone 0 0 16, .spareLoadDone 0 5 0, .powerWake 0 0, .powerWake 9 0, .powerWake 3 40,
     .islandWake 38, .islandIdleReturn 38, .thermalAlarm 4096, .mbxFlashVerify .pf3 8, .wdtExpiry 2] = true := by decide +kernel

/-- An ill-formed command changes nothing. -/
theorem test_illformed_changes_nothing : exec (.portStop 16) State.reset = .next State.reset := by rfl

/-- The same sets with nothing wrong in them are well formed. -/
theorem test_wellformed_sets : [Instr.ts1Receive 2 0 0 0 fourLanes, .linkPacketReceive 0 goodPkt true false .ok,
    .regWrite .mc0 0x40000000 0 15 0 false, .schedArm .mc0 7 0x100, .pglGrant .gu 3].all wellFormed = true := by decide +kernel

/-! ### The spec's worked examples -/

/-- spec/06, the example's dark steps 3 and 4: D follows the dark columns by an eighth of the difference, floored. -/
theorem test_dark_drift : darkUpdate true false false 0 11 0 3 = (11, true) ∧ darkUpdate false false true 11 19 0 3 = (12, true)
    ∧ darkUpdate false false true 12 3 0 3 = (10, true) := by decide

/-- spec/06, the example's steps 5 to 9, at column 1,000. -/
theorem test_linearised_pixel :
    let p : LuParams := ⟨10, 60, 0, true, 0x1000, true⟩
    let entry := fun i => if i = 92 then 23990 else 24252
    blackT p 435 0x00454A49 10 = 5921 ∧ blackU p 5921 = 5921 ∧ lutV p entry 5921 = 24125
      ∧ gainExact p 24125 0x00454A49 = 28002 := by decide +kernel

/-- spec/06, the example's step 11: column 1,001 is marked 0b01 and takes the mean of its neighbours. -/
theorem test_defect_replaced : replaceAll [] [(28002, 0), (9, 1), (28105, 0)] = [(28002, 0), (28054, 1), (28105, 0)] := by decide +kernel

/-- spec/07, the kernel's table at phases 0, 16, 28, 32 and 48. -/
theorem test_kernel_phases : kernel 0 = [0, 256, 0, 0] ∧ kernel 16 = [-18, 222, 58, -6] ∧ kernel 28 = [-18, 166, 122, -14]
    ∧ kernel 32 = [-16, 144, 144, -16] ∧ kernel 48 = [-6, 58, 222, -18] := by decide +kernel

/-- spec/07, the first example: velocity, offsets and the four output channels. -/
theorem test_stacked_pixel :
    velocity 130 270934 = 2060818
      ∧ offset64 2060818 (-64 * 2117) 260 = -16 * 64 ∧ offset64 2060818 (-2117) 260 = -16 ∧ offset64 2060818 (-4233) 260 = -32
      ∧ offset64 2060818 (-6350) 260 = -48
      ∧ resample (kernel 48) [27400, 27800, 28002, 28300] = 27949 ∧ resample (kernel 32) [24100, 24300, 24500, 24600] = 24406
      ∧ resample (kernel 16) [40900, 41000, 41300, 41400] = 41066 := by decide +kernel

/-- spec/07, the second example, steps 3, 6, 8 and 11 to 14. -/
theorem test_merged_exposures :
    let ws := fun i => min 255 (4 * i)
    let wl := fun i => if i ≤ 38 then 200 else 200 - 10 * (i - 38)
    offset64 2060818 (-13233) 260 = -100 ∧ resample (kernel 28) [38600, 39200, 39700, 40100] = 39431
      ∧ scaled 9800 0x2000 = 39200 ∧ scaled 39431 0x0800 = 39431 ∧ weightOf ws 9800 = 38 ∧ weightOf wl 39431 = 195
      ∧ mergeE [⟨39200, 0x2000, 38, false⟩, ⟨39431, 0x0800, 195, false⟩] = 39393
      ∧ compand true 0 32768 5 39393 = 32975 ∧ compand true 0 32768 5 262140 = 39936 := by decide +kernel

/-- spec/08, the example's stitched sample at overlap index 10 of 64, where b = 42. -/
theorem test_stitched_pixel :
    (stitchPx 64 64 true (List.replicate 64 30000) (List.replicate 64 30400)).getD 10 0 = 30066 := by decide +kernel

/-- spec/08, the example's regridded column 1,000: red, green and tag word 6. -/
theorem test_regridded_pixel :
    (gridMix true ⟨default, [[31000, 27700]]⟩ ⟨default, [[31200, 27949]]⟩ 54 600 0 159802800 false).px = [[31169, 27910]]
      ∧ (gridMix true ⟨default, [[31000, 27700]]⟩ ⟨default, [[31200, 27949]]⟩ 54 600 0 159802800 false).tag.enc = 2438 := by
  decide +kernel

/-- spec/08, the example's deskew: cosine, sine, and the rotated corner. -/
theorem test_deskew_angle : cosSin 3435 = (65446, 3430) ∧ rotV 65446 3430 1100 12 = 4558352 ∧ rotU 65446 3430 1100 12 = 71949440 := by
  decide +kernel

/-- spec/10, the example's samples: R256 at 10 and 8 bits. -/
theorem test_samples : sampleOf 10 31200 = 0x1E8 ∧ sampleOf 10 27949 = 0x1B5 ∧ sampleOf 10 24406 = 0x17D ∧ sampleOf 8 41066 = 160 := by
  decide +kernel

/-- spec/10, the example's first payload bytes. -/
theorem test_payload_bytes : packSamples 10 [0x1E8, 0x1B5, 0x17D] = [0xE8, 0xD5, 0xD6, 0x17] := by decide +kernel

/-- R276: the seal of the nine ASCII bytes "123456789". -/
theorem test_crc32c : crc32c [0x31, 0x32, 0x33, 0x34, 0x35, 0x36, 0x37, 0x38, 0x39] = 0xE3069283 := by decide +kernel

/-- spec/12, the example's address 0x0012_3456: channel 2, chunk 582. -/
theorem test_frame_memory_home : fmHome 0x123456 = (2, 582) := by decide +kernel

/-- spec/09, the example's zone mean. -/
theorem test_zone_mean : zoneMean 4449658321 108000 = 41201 := by decide +kernel

/-- R48, R49: SHAKE256 of the empty message begins as FIPS 202's published value does. -/
theorem test_shake256 : shake256 [] 4 = [0x46, 0xB9, 0xDD, 0x2B] := by decide +kernel

/-! ### One command on a small state -/

/-- spec/18, the example's step 1: source 112 goes to MC1, with vector 0x0002_01C0. -/
theorem test_vector_of_source :
    let s := bench [(Reg.IC_PENDk 3, 2 ^ 16), (Reg.IC_SRCs_CFG 112, 2 * 256 + 0x1040), (Reg.IC_Tt_VBASE 1, 0x20000)]
    ((getNext (exec (.icDeliver 112 true true .ok) s)).out, (getNext (exec (.icDeliver 112 true true .ok) s)).ic.stack1)
      = ([.vector 1 0x201C0], [112]) := by decide +kernel

/-- spec/19, the example's steps 1 and 2: the error of LU1 is recorded, fences the unit and opens an episode. -/
theorem test_error_opens_episode :
    let t := getNext (exec (.lodgeErrorSignal 16 1) ((bench [(Reg.TWN_STATUS, 3), (Reg.GLB_ROLE, 0x400), (Reg.FC_CLASS_LOw 1, 1)]).raiseError 16 1))
    t.reg Reg.FC_STATUS_LO = 0x10000 ∧ t.reg Reg.FC_FENCE_UNIT_LO = 2 ∧ t.fcState = 1 := by decide +kernel

/-- spec/21, the example's horizon: 912 counts ahead at v = 2,061,584. -/
theorem test_horizon :
    (bench [(Reg.PCR_CTRL, 2 ^ Fld.PCR_CTRL_PREDICT.lo), (Reg.ST_BINDn 0, 2 ^ Fld.ST_BINDn_VALID.lo), (Reg.ST_OFFSETn 0, 960),
      (Reg.ST_MARGINn 0, 48), (Reg.TB_ENCk_VEL 0, 2061584)]).horizon = some 1900000 := by decide +kernel

/-- spec/11: 480 counts in a millisecond are 2,061,584. -/
theorem test_velocity : velocity 480 1000000 = 2061584 := by decide

/-- spec/12, R314 and R320: two bad symbols in a read fence the block's channel, here channel 2. -/
theorem test_channel_fenced :
    (getNext (exec (.fmReadComplete 0x123456 2 ⟨0, false⟩) (bench [(Reg.FM_CAPACITY, 7936), (Reg.FM_STATUS, 3)]))).fm.fences = [2] := by decide +kernel

/-- R301: encoder 1 goes from (A, B) = (0, 0) to (1, 0), one count up. -/
theorem test_encoder_counts :
    (getNext (exec (.encTransition 1 true false) (bench []))).reg (Reg.TB_ENCk_POS 1) = 1 := by decide +kernel

/-- R544: a core's store to an address that its map does not list faults with mcause 7. -/
theorem test_core_store_faults :
    (getNext (exec (.regWrite .mc0 0xFFFFF0 0 15 0 false) (hosted []))).out = [.coreFault 0 7] := by decide +kernel

/-- R542: a temperature above 115 °C, 460 quarters, signals source 52; 115 °C does not. -/
theorem test_thermal : (getNext (exec (.thermalAlarm 461) (hosted []))).lodge.raised = [⟨52, 0, false⟩]
    ∧ (getNext (exec (.thermalAlarm 460) (hosted []))).lodge.raised = [] := by decide +kernel

/-- R339: START takes an idle channel to LOAD. -/
theorem test_channel_starts :
    (getNext (exec (.dmaStart .pf0 3 1) (hosted []))).dmaState 3 = 1 := by
  decide +kernel

/-! ### What the statements suppose can be met -/

/-- States and operands that meet what `Obligations.StepTakesFront` supposes. -/
theorem witness_StepTakesFront :
    (wPending.pending = [Instr.pllLockLoss, Instr.escalationTimeout]) :=
  by decide +kernel

/-- States and operands that meet what `Obligations.IdleStepIsTime` supposes. -/
theorem witness_IdleStepIsTime :
    ((∀ (r : Int), State.reset.sync.rate = r → -2 ^ 31 ≤ r ∧ r ≤ 2 ^ 31)
      ∧ State.reset.pending = []
      ∧ State.reset.mirrorQ = []
      ∧ (∀ (j : Nat), j < 20 → State.reset.inputRaw j = State.reset.inputLevel j)
      ∧ State.reset.filter.run = []
      ∧ (State.reset.enc.get 0).due = false
      ∧ (State.reset.enc.get 1).due = false
      ∧ State.reset.sync.frac < 2 ^ 32
      ∧ State.reset.invar + 2 < 2 ^ 64)
    ∧ ((∀ (r : Int), wOff.sync.rate = r → -2 ^ 31 ≤ r ∧ r ≤ 2 ^ 31)
      ∧ wOff.pending = []
      ∧ wOff.mirrorQ = []
      ∧ (∀ (j : Nat), j < 20 → wOff.inputRaw j = wOff.inputLevel j)
      ∧ wOff.filter.run = []
      ∧ (wOff.enc.get 0).due = false
      ∧ (wOff.enc.get 1).due = false
      ∧ wOff.sync.frac < 2 ^ 32
      ∧ wOff.invar + 2 < 2 ^ 64
      ∧ wOff.boot.off = true) :=
  ⟨⟨by rintro r rfl; decide +kernel, by decide +kernel⟩,
    ⟨by rintro r rfl; decide +kernel, by decide +kernel⟩⟩

/-- States and operands that meet what `Obligations.WellFormedCompletes` supposes. -/
theorem witness_WellFormedCompletes :
    ((wellFormed Instr.pllLockLoss = true)
    ∧ (wellFormed (Instr.portStop 16) = false)) :=
  by decide +kernel



/-- States and operands that meet what `Obligations.KeySlotsOnlyAdvance` supposes. -/
theorem witness_KeySlotsOnlyAdvance :
    wKeyed.Inv ∧ step wKeyed = .next (getNext (step wKeyed)) ∧ (wKeyed.otp.get 0).1 ≠ 0 :=
  ⟨⟨by decide, by decide, by decide, by decide, by decide, by decide, by decide,
    fun n => match n with
      | 0 => by decide
      | _ + 1 => (by decide : 0 ≤ 2)⟩, rfl, by decide⟩

/-- States and operands that meet what `Obligations.WriteByAccessType` supposes. -/
theorem witness_WriteByAccessType :
    ((expert []).writeOpen Initiator.pf0 (Reg.ST_OFFSETn 3)
      ∧ Reg.ST_OFFSETn 3 / 1048576 ∈ [0, 2, 5, 13]
      ∧ Reg.ST_OFFSETn 3 ≠ Reg.GLB_EXPERT_EN
      ∧ Reg.ST_OFFSETn 3 ≠ Reg.PCR_RESET
      ∧ Reg.ST_OFFSETn 3 % 4 = 0
      ∧ findReg (Reg.ST_OFFSETn 3) = some (rowAt (Reg.ST_OFFSETn 3))
      ∧ (∀ (f : FieldRow), f ∈ (rowAt (Reg.ST_OFFSETn 3)).fields → f.counter = false)
      ∧ statusSource (Reg.ST_OFFSETn 3) = none) :=
  ⟨by unfold State.writeOpen; decide +kernel, by decide +kernel⟩

/-- States and operands that meet what `Obligations.AccessChecks` supposes. -/
theorem witness_AccessChecks :
    ((hosted []).writeOpen Initiator.pf0 1048572
      ∧ 1048572 / 1048576 ∈ [0, 2, 5, 13, 15]
      ∧ 1048572 % 4 = 0
      ∧ findReg 1048572 = none)
    ∧ ((((((Initiator.pf1 ∈ [Initiator.pf0, Initiator.pf1, Initiator.pf2, Initiator.pf3]
      ∧ 256 % 4 = 0
      ∧ 7 < 15
      ∧ 256 < 16777216
      ∧ (hosted []).unserved Initiator.pf1 256 = false)
    ∧ ((hosted []).gate Initiator.pf0 (Reg.OSn_CFG 0) = Gate.expert
      ∧ Reg.OSn_CFG 0 % 4 = 0
      ∧ Reg.OSn_CFG 0 < 33554432))
    ∧ (wShadow.gate Initiator.pf0 (Reg.ST_OFFSETn 3) = Gate.shadow
      ∧ Reg.ST_OFFSETn 3 % 4 = 0
      ∧ Reg.ST_OFFSETn 3 < 33554432))
    ∧ (wShadow.gate Initiator.mc1 (Reg.ST_OFFSETn 3) = Gate.shadow
      ∧ Reg.ST_OFFSETn 3 % 4 = 0
      ∧ Reg.ST_OFFSETn 3 < 33554432))
    ∧ ((hosted []).gate Initiator.pf0 Reg.MGT_ACC_DEFAULT = Gate.access
      ∧ Reg.MGT_ACC_DEFAULT % 4 = 0
      ∧ Reg.MGT_ACC_DEFAULT < 33554432
      ∧ (hosted []).bit Reg.MGT_ACC_LAST 31 = false))
    ∧ ((hosted [(Reg.MGT_ACC_LAST, 2147483648)]).gate Initiator.pf0 Reg.MGT_ACC_DEFAULT = Gate.access
      ∧ Reg.MGT_ACC_DEFAULT % 4 = 0
      ∧ Reg.MGT_ACC_DEFAULT < 33554432
      ∧ (hosted [(Reg.MGT_ACC_LAST, 2147483648)]).bit Reg.MGT_ACC_LAST 31 = true)) :=
  ⟨⟨by unfold State.writeOpen; decide +kernel, by decide +kernel⟩,
    by decide +kernel⟩

/-- States and operands that meet what `Obligations.CounterWrite` supposes. -/
theorem witness_CounterWrite :
    ((hosted []).writeOpen Initiator.pf0 Reg.GLB_RECIPE_LATE_CNT
      ∧ (hosted []).writeOpen Initiator.pf0 Reg.PGL_CH_DROP_CNT
      ∧ isCounter Reg.GLB_RECIPE_LATE_CNT = true
      ∧ Reg.GLB_RECIPE_LATE_CNT ≠ Reg.PGL_CH_DROP_CNT) :=
  ⟨by unfold State.writeOpen; decide +kernel, by unfold State.writeOpen; decide +kernel, by decide +kernel⟩

/-- States and operands that meet what `Obligations.ExpertPage` supposes. -/
theorem witness_ExpertPage :
    (State.reset.writeOpen Initiator.mc0 Reg.GLB_EXPERT_EN
      ∧ (∀ (b : Nat), 8 ≤ b → b < 19 → State.reset.bit Reg.GLB_EXPERT_EN b = true → bitB (129#32).toNat b = true))
    ∧ (wExpertPage1.expertPend.Nodup) :=
  ⟨⟨by unfold State.writeOpen; decide +kernel, fun b h8 h19 => (by decide +kernel : ∀ b < 19, 8 ≤ b → State.reset.bit Reg.GLB_EXPERT_EN b = true → bitB (129#32).toNat b = true) b h19 h8⟩,
    by decide +kernel⟩

/-- States and operands that meet what `Obligations.MirroredWrites` supposes. -/
theorem witness_MirroredWrites :
    (wFollow.takeItem 2 7 0 = ((wFollow.takeItem 2 7 0).fst, some ((wFollow.takeItem 2 7 0).snd.get!.fst, [Reg.ST_OFFSETn 3 + 2 * 2 ^ 28, 9]))
      ∧ (wFollow.takeItem 2 7 0).fst.follows = true
      ∧ Reg.ST_OFFSETn 3 / 1048576 ∈ [2, 5]
      ∧ findReg (Reg.ST_OFFSETn 3) = some (rowAt (Reg.ST_OFFSETn 3)))
    ∧ (((((fun s => s) wMirroredWrites1).leadsPair = true
      ∧ ((fun s => s) wMirroredWrites1).mirrorQ = wMirroredWrites1.mirrorQ
      ∧ isLocal (Reg.ST_OFFSETn 3) = false
      ∧ statusSource (Reg.ST_OFFSETn 3) = none)
    ∧ (wQueued.mirrorQ = [MirrorW.mk 0 (Reg.ST_OFFSETn 3) 7]
      ∧ wQueued.mirrorWait = []
      ∧ wQueued.leadsPair = true))
    ∧ (wWaiting.mirrorQ = []
      ∧ wWaiting.mirrorWait = [MirrorW.mk 4 (Reg.ST_OFFSETn 3) 7]
      ∧ 4 ≤ (MirrorW.mk 4 (Reg.ST_OFFSETn 3) 7).init
      ∧ (MirrorW.mk 4 (Reg.ST_OFFSETn 3) 7).off / 1048576 ∈ [2, 5]
      ∧ findReg (MirrorW.mk 4 (Reg.ST_OFFSETn 3) 7).off = some (rowAt (Reg.ST_OFFSETn 3)))) :=
  ⟨⟨rfl, by decide +kernel⟩,
    by decide +kernel⟩

/-- States and operands that meet what `Obligations.LinkRequests` supposes. -/
theorem witness_LinkRequests :
    (wWr.takeRx 0 1 0 = ((wWr.takeRx 0 1 0).fst, some (wWr.takeRx 0 1 0).snd.get!)
      ∧ (wWr.takeRx 0 1 0).fst.writeOpen (linkOf 0) (wWr.takeRx 0 1 0).snd.get!.spec0
      ∧ 0 < 3
      ∧ (wWr.takeRx 0 1 0).snd.get!.ep = false
      ∧ (wWr.takeRx 0 1 0).snd.get!.payload = [119]
      ∧ (wWr.takeRx 0 1 0).snd.get!.spec0 / 1048576 ∈ [2, 5]
      ∧ findReg (wWr.takeRx 0 1 0).snd.get!.spec0 = some (rowAt (Reg.ST_OFFSETn 3)))
    ∧ (wWrEp.takeRx 0 1 0 = ((wWrEp.takeRx 0 1 0).fst, some (wWrEp.takeRx 0 1 0).snd.get!)
      ∧ 0 < 3
      ∧ (wWrEp.takeRx 0 1 0).snd.get!.ep = true)
    ∧ (wRd.takeRx 1 2 0 = ((wRd.takeRx 1 2 0).fst, some (wRd.takeRx 1 2 0).snd.get!)
      ∧ 1 < 3
      ∧ (wRd.takeRx 1 2 0).snd.get!.spec1 % 2 ^ 16 = 1
      ∧ (wRd.takeRx 1 2 0).snd.get!.spec0 < 1048576
      ∧ (wRd.takeRx 1 2 0).snd.get!.spec0 ≠ Reg.GLB_IMG_WINDOW_DATA
      ∧ (wRd.takeRx 1 2 0).fst.granted (linkOf 1) 0 (wRd.takeRx 1 2 0).snd.get!.spec0 false = true) :=
  ⟨⟨rfl, by unfold State.writeOpen; decide +kernel, by decide +kernel⟩,
    ⟨rfl, by decide +kernel⟩,
    ⟨rfl, by decide +kernel⟩⟩

/-- States and operands that meet what `Obligations.SourcesBecomePending` supposes. -/
theorem witness_SourcesBecomePending :
    ((((2 < 512
      ∧ wLine.isEdge 2 = false
      ∧ wLine.pended 2 = false
      ∧ wLine.inService 2 = false
      ∧ wLine.icLine 2 = true
      ∧ srcReserved 2 = false
      ∧ wLine.icHeld (2 / 16) = false)
    ∧ (289 < 512
      ∧ State.reset.isEdge 289 = true
      ∧ srcReserved 289 = false
      ∧ State.reset.icHeld (289 / 16) = false))
    ∧ (289 < 512
      ∧ wEdgeHeld.isEdge 289 = true
      ∧ srcReserved 289 = false
      ∧ wEdgeHeld.icHeld (289 / 16) = true))
    ∧ (4 < 48
      ∧ isPin (208 + 4) = true
      ∧ wPin.inP3 = false
      ∧ wPin.fld (Reg.IC_PINi_CFG 4) Fld.IC_PINi_CFG_FILT ≤ 3
      ∧ wPin.on (Reg.IC_PINi_CFG 4) Fld.IC_PINi_CFG_MODE = true
      ∧ wPin.icHeld ((208 + 4) / 16) = false
      ∧ (wPin.ic.src.get (208 + 4)).pinLevel = wPin.on (Reg.IC_PINi_CFG 4) Fld.IC_PINi_CFG_POL
      ∧ true = !wPin.on (Reg.IC_PINi_CFG 4) Fld.IC_PINi_CFG_POL
      ∧ (4 < 16 → bitB wPin.trigLevel 4 = true))) :=
  by decide +kernel

/-- States and operands that meet what `Obligations.PendingAndMaskWrites` supposes. -/
theorem witness_PendingAndMaskWrites :
    (State.reset.writeOpen Initiator.mc0 (Reg.IC_PENDk 3)
      ∧ 3 < 16)
    ∧ (State.reset.writeOpen Initiator.mc0 (Reg.IC_MASKk 3)
      ∧ 3 < 16)
    ∧ ((expert []).writeOpen Initiator.pf0 (11538432 + 8 * 503)
      ∧ 11538432 ≤ 11538432 + 8 * 503
      ∧ 11538432 + 8 * 503 < 11542528
      ∧ (11538432 + 8 * 503) % 4 = 0
      ∧ srcReserved ((11538432 + 8 * 503 - 11538432) / 8) = true
      ∧ statusSource (11538432 + 8 * 503) = none) :=
  ⟨⟨by unfold State.writeOpen; decide +kernel, by decide +kernel⟩,
    ⟨by unfold State.writeOpen; decide +kernel, by decide +kernel⟩,
    ⟨by unfold State.writeOpen; decide +kernel, by decide +kernel⟩⟩

/-- States and operands that meet what `Obligations.DeliveryAndCompletion` supposes. -/
theorem witness_DeliveryAndCompletion :
    (wStack.writeOpen Initiator.mc0 (Reg.IC_Tt_EOI 0)
      ∧ 0 < 2
      ∧ wStack.coreStack 0 = [289, 5]
      ∧ Fld.IC_Tt_EOI_SOURCE.get 289#32 = 289)
    ∧ (wStack.writeOpen Initiator.mc0 (Reg.IC_Tt_EOI 0)
      ∧ 0 < 2
      ∧ (wStack.coreStack 0).head? ≠ some (Fld.IC_Tt_EOI_SOURCE.get 5#32))
    ∧ ((wServed 2).writeOpen Initiator.mc0 Reg.IC_HOST_EOI
      ∧ Fld.IC_HOST_EOI_SOURCE.get 289#32 = 289
      ∧ (wServed 2).inService 289 = true
      ∧ ((wServed 2).ic.src.get 289).target = 2
      ∧ statusPairs 289 = [])
    ∧ ((((289 < 512
      ∧ (wOffer 1).offered 289 = true
      ∧ (wOffer 1).chooseTarget true true 289 = some 0
      ∧ (wOffer 1).bestFor true true 289 0 = true
      ∧ 0 < 2)
    ∧ (289 < 512
      ∧ (wOffer 4).offered 289 = true
      ∧ (wOffer 4).chooseTarget true true 289 = some 2
      ∧ (wOffer 4).bestFor true true 289 2 = true
      ∧ 2 = 2))
    ∧ (289 < 512
      ∧ (wOffer 8).offered 289 = true
      ∧ (wOffer 8).chooseTarget true true 289 = some 3
      ∧ (wOffer 8).bestFor true true 289 3 = true))
    ∧ (289 < 512
      ∧ (wServed 3).inService 289 = true
      ∧ ((wServed 3).ic.src.get 289).target = 3
      ∧ ((wServed 3).ic.src.get 289).doneAt ≤ (wServed 3).now)) :=
  ⟨⟨by unfold State.writeOpen; decide +kernel, by decide +kernel⟩,
    ⟨by unfold State.writeOpen; decide +kernel, by decide +kernel⟩,
    ⟨by unfold State.writeOpen; decide +kernel, by decide +kernel⟩,
    by decide +kernel⟩

/-- States and operands that meet what `Obligations.HoldAndClaim` supposes. -/
theorem witness_HoldAndClaim :
    (State.reset.writeOpen Initiator.mc0 Reg.IC_HOLD
      ∧ State.reset.reg Reg.IC_HOLD &&& ~~~6#32 = 0)
    ∧ (wClaim.readOpen Initiator.pf0 (Reg.SPn_STATUS 2)
      ∧ issues Initiator.pf0 = true
      ∧ Reg.SPn_STATUS 2 % 4 = 0
      ∧ 0 < 15
      ∧ 15 < 16
      ∧ wClaim.place Initiator.pf0 (Reg.SPn_STATUS 2) = Place.reg (Reg.SPn_STATUS 2)
      ∧ statusSource (Reg.SPn_STATUS 2) = some 2
      ∧ wClaim.inService 2 = true
      ∧ (wClaim.ic.src.get 2).claimRead = false
      ∧ wClaim.claimer 2 = some Initiator.pf0.code
      ∧ wClaim.isEdge 2 = false)
    ∧ ((hosted []).readOpen Initiator.pf0 (Reg.SPn_CTRL 2)
      ∧ issues Initiator.pf0 = true
      ∧ Reg.SPn_CTRL 2 % 4 = 0
      ∧ 0 < 3
      ∧ 3 < 16
      ∧ (hosted []).place Initiator.pf0 (Reg.SPn_CTRL 2) = Place.reg (Reg.SPn_CTRL 2)
      ∧ statusSource (Reg.SPn_CTRL 2) = none
      ∧ Reg.SPn_CTRL 2 / 1048576 ∈ [1, 2, 3, 5, 12, 15])
    ∧ ((3 < 32
      ∧ 2 < 4
      ∧ State.reset.ic.holdoff.get (4 * 3 + 2) ≤ State.reset.now)
    ∧ (2 < 32
      ∧ wHold.icHeld 2 = true
      ∧ wHold.ic.heldAt.get 2 ≤ wHold.now
      ∧ 35 / 16 = 2)) :=
  ⟨⟨by unfold State.writeOpen; decide +kernel, by decide +kernel⟩,
    ⟨by unfold State.readOpen; decide +kernel, by decide +kernel⟩,
    ⟨by unfold State.readOpen; decide +kernel, by decide +kernel⟩,
    by decide +kernel⟩

/-- States and operands that meet what `Obligations.ReceivedPackets` supposes. -/
theorem witness_ReceivedPackets :
    (2 < 16
      ∧ ((wPort []).port.get 2).running = true
      ∧ checkHeader ((wPort []).on (Reg.SPn_PHY_CFG 2) Fld.SPn_PHY_CFG_VCX) (BitVec.toNat (wHead 42 4)) = some (wBits 42 4, false)
      ∧ unknownDt (hdrDt (wBits 42 4)) = false
      ∧ 18 ≤ hdrDt (wBits 42 4)
      ∧ (wPort []).openOn 2 (hdrVc (wBits 42 4)) = []
      ∧ List.find? (fun k => (wPort []).entFld 2 k Fld.SPn_ENTk_CFG_DT == hdrDt (wBits 42 4)) ((wPort []).entsOf 2 (hdrVc (wBits 42 4))) = some 3
      ∧ (wPort []).on (Reg.SPn_PHY_CFG 2) Fld.SPn_PHY_CFG_DESKEW_REQ = false
      ∧ (wPort []).entArea 2 3 = false
      ∧ (wPort []).toRef 2 3 = 0
      ∧ wholePixels ((dtBits (hdrDt (wBits 42 4))).getD 8) (hdrWc (wBits 42 4)) = (wPort []).entWidth 2 3
      ∧ [1, 2, 3, 4].length = hdrWc (wBits 42 4)
      ∧ some (crc16 [1, 2, 3, 4]) = some (crc16 [1, 2, 3, 4]))
    ∧ (2 < 16
      ∧ ((wPort []).port.get 2).running = true
      ∧ checkHeader ((wPort []).on (Reg.SPn_PHY_CFG 2) Fld.SPn_PHY_CFG_VCX) (BitVec.toNat (wHead 42 4)) = some (wBits 42 4, false)
      ∧ unknownDt (hdrDt (wBits 42 4)) = false
      ∧ 18 ≤ hdrDt (wBits 42 4)
      ∧ (wPort []).openOn 2 (hdrVc (wBits 42 4)) = []
      ∧ List.find? (fun k => (wPort []).entFld 2 k Fld.SPn_ENTk_CFG_DT == hdrDt (wBits 42 4)) ((wPort []).entsOf 2 (hdrVc (wBits 42 4))) = some 3
      ∧ (wPort []).on (Reg.SPn_PHY_CFG 2) Fld.SPn_PHY_CFG_DESKEW_REQ = false
      ∧ (wPort []).entArea 2 3 = false
      ∧ (wPort []).toRef 2 3 = 0
      ∧ wholePixels ((dtBits (hdrDt (wBits 42 4))).getD 8) (hdrWc (wBits 42 4)) = (wPort []).entWidth 2 3
      ∧ [1, 2, 3, 4].length = hdrWc (wBits 42 4)
      ∧ some 5 = some 5
      ∧ 5 ≠ crc16 [1, 2, 3, 4])
    ∧ ((((2 < 16
      ∧ ((wPort []).port.get 2).running = true
      ∧ checkHeader ((wPort []).on (Reg.SPn_PHY_CFG 2) Fld.SPn_PHY_CFG_VCX) (BitVec.toNat (wHead 42 4)) = some (wBits 42 4, false)
      ∧ unknownDt (hdrDt (wBits 42 4)) = false
      ∧ 18 ≤ hdrDt (wBits 42 4)
      ∧ (wPort []).openOn 2 (hdrVc (wBits 42 4)) = []
      ∧ List.find? (fun k => (wPort []).entFld 2 k Fld.SPn_ENTk_CFG_DT == hdrDt (wBits 42 4)) ((wPort []).entsOf 2 (hdrVc (wBits 42 4))) = some 3
      ∧ (wPort []).on (Reg.SPn_PHY_CFG 2) Fld.SPn_PHY_CFG_DESKEW_REQ = false
      ∧ (wPort []).entArea 2 3 = false
      ∧ (wPort []).toRef 2 3 = 0
      ∧ wholePixels ((dtBits (hdrDt (wBits 42 4))).getD 8) (hdrWc (wBits 42 4)) = (wPort []).entWidth 2 3
      ∧ [1, 2, 3].length < hdrWc (wBits 42 4))
    ∧ (2 < 16
      ∧ ((wPort []).port.get 2).running = true
      ∧ checkHeader ((wPort []).on (Reg.SPn_PHY_CFG 2) Fld.SPn_PHY_CFG_VCX) (BitVec.toNat (wHead 37 4)) = some (wBits 37 4, false)
      ∧ unknownDt (hdrDt (wBits 37 4)) = true))
    ∧ (2 < 16
      ∧ ((wPort []).port.get 2).running = true
      ∧ checkHeader ((wPort []).on (Reg.SPn_PHY_CFG 2) Fld.SPn_PHY_CFG_VCX) (BitVec.toNat (wHead 16 4)) = some (wBits 16 4, false)))
    ∧ (2 < 16
      ∧ ((wPort []).port.get 2).running = true
      ∧ checkHeader ((wPort []).on (Reg.SPn_PHY_CFG 2) Fld.SPn_PHY_CFG_VCX) (BitVec.toNat (wHead 9 4660)) = some (wBits 9 4660, false)
      ∧ 8 ≤ hdrDt (wBits 9 4660)
      ∧ hdrDt (wBits 9 4660) ≤ 15)) :=
  ⟨by decide +kernel,
    by decide +kernel,
    by decide +kernel⟩

/-- States and operands that meet what `Obligations.FramesAndOwedLines` supposes. -/
theorem witness_FramesAndOwedLines :
    (((2 < 16
      ∧ (wArea.port.get 2).running = true
      ∧ checkHeader (wArea.on (Reg.SPn_PHY_CFG 2) Fld.SPn_PHY_CFG_VCX) (BitVec.toNat (wHead 0 7)) = some (wBits 0 7, false)
      ∧ hdrDt (wBits 0 7) = 0
      ∧ wArea.openOn 2 (hdrVc (wBits 0 7)) = [])
    ∧ (2 < 16
      ∧ (wOpenFrame.port.get 2).running = true
      ∧ checkHeader (wOpenFrame.on (Reg.SPn_PHY_CFG 2) Fld.SPn_PHY_CFG_VCX) (BitVec.toNat (wHead 1 7)) = some (wBits 1 7, false)
      ∧ hdrDt (wBits 1 7) = 1
      ∧ wOpenFrame.openOn 2 (hdrVc (wBits 1 7)) = [3]
      ∧ wOpenFrame.frameLines 2 3 ≤ (wOpenFrame.entry.get (8 * 2 + 3)).delivered))
    ∧ (2 < 16
      ∧ (wOwing.port.get 2).running = true
      ∧ checkHeader (wOwing.on (Reg.SPn_PHY_CFG 2) Fld.SPn_PHY_CFG_VCX) (BitVec.toNat (wHead 2 7)) = some (wBits 2 7, false)
      ∧ hdrDt (wBits 2 7) = 2
      ∧ wOwing.openOn 2 (hdrVc (wBits 2 7)) = []
      ∧ wOwing.entsOf 2 (hdrVc (wBits 2 7)) = [3]
      ∧ wOwing.toRef 2 3 = 1
      ∧ (wOwing.entry.get (8 * 2 + 3)).owed.length < 16)) :=
  by decide +kernel

/-- States and operands that meet what `Obligations.PortTimeouts` supposes. -/
theorem witness_PortTimeouts :
    ((2 < 16
      ∧ 3 < 8
      ∧ wOwes.follows = false
      ∧ (wOwes.entry.get (8 * 2 + 3)).owed = [Owed.mk (some 640) 7 0 0 false []]
      ∧ (Owed.mk (some 640) 7 0 0 false []).deadline = some 640
      ∧ 640 < wOwes.now
      ∧ wOwes.entArea 2 3 = false)
    ∧ (2 < 16
      ∧ 1 < 16
      ∧ wOpenFrame.follows = false
      ∧ wOpenFrame.fld (Reg.SPn_FRAME_TIMEOUT 2) Fld.SPn_FRAME_TIMEOUT_TIMEOUT ≠ 0
      ∧ wOpenFrame.openOn 2 1 = [3]
      ∧ (wOpenFrame.entry.get (8 * 2 + 3)).lastPkt + wOpenFrame.fld (Reg.SPn_FRAME_TIMEOUT 2) Fld.SPn_FRAME_TIMEOUT_TIMEOUT * 1000 ≤ wOpenFrame.now)) :=
  by decide +kernel

/-- States and operands that meet what `Obligations.PortLanesAndEnable` supposes. -/
theorem witness_PortLanesAndEnable :
    ((bench [(Reg.TWN_STATUS, 3), (Reg.GLB_ROLE, 1024)]).writeOpen Initiator.mc0 (Reg.SPn_CTRL 15)
      ∧ 15 < 16
      ∧ ((bench [(Reg.TWN_STATUS, 3), (Reg.GLB_ROLE, 1024)]).port.get 15).running = false
      ∧ ((bench [(Reg.TWN_STATUS, 3), (Reg.GLB_ROLE, 1024)]).port.get 15).clearDue = false
      ∧ (bench [(Reg.TWN_STATUS, 3), (Reg.GLB_ROLE, 1024)]).inBoot = false
      ∧ (bench [(Reg.TWN_STATUS, 3), (Reg.GLB_ROLE, 1024)]).bit Reg.FC_FENCE_PORT 15 = false
      ∧ (bench [(Reg.TWN_STATUS, 3), (Reg.GLB_ROLE, 1024)]).fld Reg.FC_ESC_STATUS Fld.FC_ESC_STATUS_STATE < 2)
    ∧ ((wPort []).writeOpen Initiator.mc0 (Reg.SPn_CTRL 2)
      ∧ 2 < 16)
    ∧ ((((((2 < 16
      ∧ 3 < 16
      ∧ ((wPort []).port.get 2).running = true)
    ∧ (2 < 16
      ∧ 1 < 16
      ∧ ((wPort []).port.get 2).running = true
      ∧ Nat.land 1 (2 ^ min ((wPort []).fld (Reg.SPn_PHY_CFG 2) Fld.SPn_PHY_CFG_LANES) 4 - 1) ≠ 2 ^ min ((wPort []).fld (Reg.SPn_PHY_CFG 2) Fld.SPn_PHY_CFG_LANES) 4 - 1))
    ∧ (2 < 16
      ∧ 4 < 5))
    ∧ (2 < 16
      ∧ 1 < 4
      ∧ ((wPort []).port.get 2).running = true
      ∧ (wPort []).mayTerminate 2 = true))
    ∧ (2 < 16
      ∧ 1 < 4
      ∧ ((wPort [(Reg.SPn_PHY_CFG 2, Fld.SPn_PHY_CFG_LISTEN, 1)]).port.get 2).running = true
      ∧ (wPort [(Reg.SPn_PHY_CFG 2, Fld.SPn_PHY_CFG_LISTEN, 1)]).mayTerminate 2 = true))
    ∧ (2 < 16
      ∧ 1 < 4
      ∧ (wRunningPort.port.get 2).running = true
      ∧ wRunningPort.mayTerminate 2 = false))
    ∧ (2 < 16
      ∧ (wStopping.port.get 2).clearDue = true
      ∧ (wStopping.port.get 2).setDue = false
      ∧ (∀ (st : Nat), st < 64 → wStopping.on (Reg.ST_BINDn st) Fld.ST_BINDn_VALID = false)) :=
  ⟨⟨by unfold State.writeOpen; decide +kernel, by decide +kernel⟩,
    ⟨by unfold State.writeOpen; decide +kernel, by decide +kernel⟩,
    by decide +kernel,
    by decide +kernel⟩

/-- States and operands that meet what `Obligations.SegmenterEdges` supposes. -/
theorem witness_SegmenterEdges :
    ((1 < 4
      ∧ (wSeg true).follows = false
      ∧ (wSeg true).leadDue 1 = some 55)
    ∧ (1 < 4
      ∧ (wSeg false).follows = false
      ∧ (wSeg false).trailDue 1 = some 99
      ∧ ((wSeg false).seg.get 1).docs = [] ++ [DocDecl.mk 4 55 none])) :=
  by decide +kernel

/-- States and operands that meet what `Obligations.RoundRobinGrants` supposes. -/
theorem witness_RoundRobinGrants :
    ([0, 0].length = [DrrIn.mk 2 100 false, DrrIn.mk 1 300 true].length
      ∧ (∃ i, i ∈ [DrrIn.mk 2 100 false, DrrIn.mk 1 300 true] ∧ i.waiting = true)
      ∧ (∀ (i : DrrIn), i ∈ [DrrIn.mk 2 100 false, DrrIn.mk 1 300 true] → 1 ≤ i.weight ∧ i.width < 2 ^ 16)) :=
  by decide +kernel

/-- States and operands that meet what `Obligations.PergolaAdmission` supposes. -/
theorem witness_PergolaAdmission :
    (((((5 < 64
      ∧ (wRoute []).pvLevel ((wRoute []).homePv 5) + lineKib ((wRoute []).streamWidth 5) < 2 ^ 15
      ∧ (wRoute []).firstUnit 5 = some (0, 3)
      ∧ (wRoute []).fenced 0 3 = false)
    ∧ (5 < 64
      ∧ 2 < 4
      ∧ (wDrop 0).bit Reg.PGL_DROP_LAST 31 = false))
    ∧ (5 < 64
      ∧ 2 < 4
      ∧ (wDrop 1).bit Reg.PGL_DROP_LAST 31 = true))
    ∧ (UnitKind.lu ≠ UnitKind.bu
      ∧ 3 < unitCount UnitKind.lu.code
      ∧ (wWaits.arb.get (unitKey UnitKind.lu.code 3)).taken = none
      ∧ wWaits.fenced UnitKind.lu.code 3 = false
      ∧ (have a := wWaits.arb.get (unitKey UnitKind.lu.code 3); have chs := wWaits.pointChans UnitKind.lu.code 3; (drrChoose (List.map (fun ch => DrrIn.mk (max 1 (wWaits.fld (Reg.PGL_CHn_CFG ch) Fld.PGL_CHn_CFG_WEIGHT)) (wWaits.streamWidth ch) ((Option.map isLine (wWaits.waitingAt UnitKind.lu.code 3 ch).head?).getD false && !(wWaits.routeUnit ch UnitKind.lu.code == some 3 && wWaits.elder UnitKind.lu.code 3 ch) && !wWaits.heldBack ch)) chs) (if a.started = true then a.last else chs.length - 1) (List.map (fun ch => a.credit.get ch) chs)).snd = some 0)
      ∧ wWaits.waitingAt UnitKind.lu.code 3 ((wWaits.pointChans UnitKind.lu.code 3).getD 0 0) = [Item.line (lineOf 5 [1, 2, 3])]
      ∧ (wWaits.pav.get (wWaits.homePv ((wWaits.pointChans UnitKind.lu.code 3).getD 0 0))).loading = none))
    ∧ (2 < 4
      ∧ wLoading.follows = false
      ∧ (wLoading.pav.get 2).loading = some 3))
    ∧ (5 < 64
      ∧ wAdmWait.follows = true
      ∧ WaitLine.mk 1 0 1000 (lineOf 5 [1]) false false none ∈ (wAdmWait.chan.get 5).wait
      ∧ (WaitLine.mk 1 0 1000 (lineOf 5 [1]) false false none).stage = 1
      ∧ (WaitLine.mk 1 0 1000 (lineOf 5 [1]) false false none).late = false
      ∧ (WaitLine.mk 1 0 1000 (lineOf 5 [1]) false false none).began + 2000 ≤ wAdmWait.now) :=
  ⟨by decide +kernel,
    by decide +kernel⟩

set_option maxRecDepth 20000 in
/-- States and operands that meet what `Obligations.Linearisation` supposes. -/
theorem witness_Linearisation :
    ((wTaken 0 3).readTaken 0 3 Ecc.ok = (((wTaken 0 3).readTaken 0 3 Ecc.ok).fst, some (5, lineOf 5 [1, 2, 3, 4]))
      ∧ 3 < 16
      ∧ (wTaken 0 3).fenced 0 3 = false
      ∧ ((wTaken 0 3).readTaken 0 3 Ecc.ok).fst.luContext 3 5 (lineOf 5 [1, 2, 3, 4]).tag.idx = some 2)
    ∧ ((wHeldLine 0 3).readTaken 0 3 (Ecc.uncorr 0) = (((wHeldLine 0 3).readTaken 0 3 (Ecc.uncorr 0)).fst, none)
      ∧ 3 < 16
      ∧ (wHeldLine 0 3).fenced 0 3 = false
      ∧ Option.map (fun x => x.fst) ((wHeldLine 0 3).arb.get (unitKey 0 3)).taken = some 5)
    ∧ ((wRoute [(Reg.PVp_LUu_TBL_ADDR 0 3, Fld.PVp_LUu_TBL_ADDR_ADDR, 32767)]).writeOpen Initiator.mc0 (Reg.PVp_LUu_TBL_DATA (3 / 4) (3 % 4))
      ∧ 3 < 16
      ∧ 0 < 32768
      ∧ (¬(3 = 3 ∧ 0 = (wRoute [(Reg.PVp_LUu_TBL_ADDR 0 3, Fld.PVp_LUu_TBL_ADDR_ADDR, 32767)]).fld (Reg.PVp_LUu_TBL_ADDR (3 / 4) (3 % 4)) Fld.PVp_LUu_TBL_ADDR_ADDR)))
    ∧ ((wRoute [(Reg.PVp_LUu_TBL_ADDR 0 3, Fld.PVp_LUu_TBL_ADDR_ADDR, 32767)]).readOpen Initiator.mc0 (Reg.PVp_LUu_TBL_DATA (3 / 4) (3 % 4))
      ∧ 3 < 16)
    ∧ (([4095, 7].length = [2147614719, 16384].length)
    ∧ ((∀ (v : Nat), v ∈ [4095, 7, 0] → v < 4096))) :=
  ⟨⟨rfl, by decide +kernel⟩,
    ⟨rfl, by decide +kernel⟩,
    ⟨by unfold State.writeOpen; decide +kernel, by decide +kernel⟩,
    ⟨by unfold State.readOpen; decide +kernel, by decide +kernel⟩,
    by decide +kernel⟩

/-- States and operands that meet what `Obligations.MergeArithmetic` supposes. -/
theorem witness_MergeArithmetic :
    ((([MemberPx.mk 100 3 3 false, MemberPx.mk 200 0 0 false] ≠ []
      ∧ (∀ (m : MemberPx), m ∈ [MemberPx.mk 100 3 3 false, MemberPx.mk 200 0 0 false] → 0 ≤ m.weight))
    ∧ (0 ≤ 37
      ∧ 37 < 64
      ∧ 0 ≤ 65535
      ∧ 65535 ≤ 65535))
    ∧ (60000 ≤ 65535)) :=
  by decide +kernel

set_option maxRecDepth 20000 in
/-- States and operands that meet what `Obligations.ExposureMerge` supposes. -/
theorem witness_ExposureMerge :
    ((wTake 1 5).readTaken 1 5 Ecc.ok = (((wTake 1 5).readTaken 1 5 Ecc.ok).fst, some (5, lineOf 5 [1, 2, 3, 4]))
      ∧ 5 < 8
      ∧ (wTake 1 5).fenced 1 5 = false
      ∧ ((wTake 1 5).readTaken 1 5 Ecc.ok).fst.muContext 5 5 (lineOf 5 [1, 2, 3, 4]).tag.idx = some 2
      ∧ ¬((lineOf 5 [1, 2, 3, 4]).tag.idx, (lineOf 5 [1, 2, 3, 4]).tag.line) ∈ (((wTake 1 5).readTaken 1 5 Ecc.ok).fst.member 5 2).gone)
    ∧ ((((5 < 8
      ∧ 0 < 4
      ∧ wMerge.fenced 1 5 = false
      ∧ ((wMerge.muMarkers 5).mergeGrp 5 0).refs = [lineOf 5 [1, 2, 3, 4]]
      ∧ (wMerge.muMarkers 5).heldBack (lineOf 5 [1, 2, 3, 4]).tag.stream = false
      ∧ (wMerge.muMarkers 5).muContext 5 (lineOf 5 [1, 2, 3, 4]).tag.stream (lineOf 5 [1, 2, 3, 4]).tag.idx = some 2
      ∧ allSome (List.map (fun c => ((wMerge.muMarkers 5).muSwap 5 0 2 (lineOf 5 [1, 2, 3, 4])).useMember 5 c 2 (lineOf 5 [1, 2, 3, 4]) (((wMerge.muMarkers 5).muSwap 5 0 2 (lineOf 5 [1, 2, 3, 4])).groupVel 5 0 (lineOf 5 [1, 2, 3, 4]))) (((wMerge.muMarkers 5).muSwap 5 0 2 (lineOf 5 [1, 2, 3, 4])).muMembers 5 (lineOf 5 [1, 2, 3, 4]).tag.stream (lineOf 5 [1, 2, 3, 4]).tag.idx 0)) = some ((allSome (List.map (fun c => ((wMerge.muMarkers 5).muSwap 5 0 2 (lineOf 5 [1, 2, 3, 4])).useMember 5 c 2 (lineOf 5 [1, 2, 3, 4]) (((wMerge.muMarkers 5).muSwap 5 0 2 (lineOf 5 [1, 2, 3, 4])).groupVel 5 0 (lineOf 5 [1, 2, 3, 4]))) (((wMerge.muMarkers 5).muSwap 5 0 2 (lineOf 5 [1, 2, 3, 4])).muMembers 5 5 0 0))).getD []))
    ∧ (5 < 8
      ∧ 3 < 8
      ∧ ((wLate []).muMarkers 5).follows = false
      ∧ ((wLate []).muMarkers 5).muLate 5 3 0 0 = some 0))
    ∧ (5 < 8
      ∧ 3 < 8
      ∧ ((wLate [(Reg.TWN_STATUS, Fld.TWN_STATUS_STATE, 5)]).muMarkers 5).follows = true
      ∧ ((wLate [(Reg.TWN_STATUS, Fld.TWN_STATUS_STATE, 5)]).muMarkers 5).muLate 5 3 0 2000 = some 0))
    ∧ (5 < 8
      ∧ 0 < 4
      ∧ wMuEnd.fenced 1 5 = false
      ∧ (wMuEnd.muMarkers 5).refMark 5 0 = some wMarker
      ∧ (∀ (c : Nat), c ∈ (wMuEnd.muMarkers 5).muMembers 5 wMarker.stream wMarker.idx 0 → (((wMuEnd.muMarkers 5).member 5 c).markOf wMarker.idx).isSome = true)
      ∧ (∀ (l : Line), l ∈ ((wMuEnd.muMarkers 5).mergeGrp 5 0).refs → wMarker.idx < l.tag.idx))) :=
  ⟨⟨rfl, by decide +kernel⟩,
    by decide +kernel⟩

/-- States and operands that meet what `Obligations.GeometryArithmetic` supposes. -/
theorem witness_GeometryArithmetic :
    (((2 ≤ 4)
    ∧ (99 < 4 ^ 10))
    ∧ (0 ≤ 20
      ∧ 20 ≤ 64
      ∧ (lineOf 5 [3, 4]).px = [[3, 4]]
      ∧ (lineOf 5 [9, 1]).px = [[9, 1]]
      ∧ [3, 4].length = [9, 1].length)) :=
  by decide +kernel

set_option maxRecDepth 20000 in
/-- States and operands that meet what `Obligations.GeometryLines` supposes. -/
theorem witness_GeometryLines :
    ((wTake 2 2).readTaken 2 2 Ecc.ok = (((wTake 2 2).readTaken 2 2 Ecc.ok).fst, some (5, lineOf 5 [1, 2, 3, 4]))
      ∧ 2 < 4
      ∧ (wTake 2 2).fenced 2 2 = false
      ∧ ((wTake 2 2).readTaken 2 2 Ecc.ok).fst.guContext 2 5 (lineOf 5 [1, 2, 3, 4]).tag.idx = some 2)
    ∧ ((State.guSkip 2 1 0 65536 (wRelease.guMarkers 2)).guRead 2 2 0 ((State.guSkip 2 1 0 65536 (wRelease.guMarkers 2)).guP 2 1).next 0 = (((State.guSkip 2 1 0 65536 (wRelease.guMarkers 2)).guRead 2 2 0 0 0).fst, some (lineOf 5 [1, 2, 3, 4]), 0)
      ∧ 2 < 4
      ∧ 1 < 8
      ∧ 0 < 3
      ∧ wRelease.fenced 2 2 = false
      ∧ wRelease.on (Reg.PVp_GU_PATHq_CFG 2 1) Fld.PVp_GU_PATHq_CFG_VALID = true
      ∧ (wRelease.guMarkers 2).guDoc 2 1 = some 0
      ∧ (wRelease.guMarkers 2).guPathCtxs 2 1 = [2]
      ∧ ((wRelease.guMarkers 2).guP 2 1).cur = some 0
      ∧ (State.guSkip 2 1 0 65536 (wRelease.guMarkers 2)).guPathCtxs 2 1 = [2]
      ∧ (State.guSkip 2 1 0 65536 (wRelease.guMarkers 2)).guAt 2 2 0 ((State.guSkip 2 1 0 65536 (wRelease.guMarkers 2)).guP 2 1).next = GuAt.line wGrid
      ∧ (State.guSkip 2 1 0 65536 (wRelease.guMarkers 2)).guEnded 2 1 = false
      ∧ (State.guSkip 2 1 0 65536 (wRelease.guMarkers 2)).heldBack ((State.guSkip 2 1 0 65536 (wRelease.guMarkers 2)).guStream 2 2) = false
      ∧ (((State.guSkip 2 1 0 65536 (wRelease.guMarkers 2)).guRead 2 2 0 0 0).fst.guP 2 1).mode = 0
      ∧ 0 < 2)
    ∧ ((State.guSkip 2 1 0 65536 (wRing.guMarkers 2)).guRead 2 2 0 ((State.guSkip 2 1 0 65536 (wRing.guMarkers 2)).guP 2 1).next 2 = (((State.guSkip 2 1 0 65536 (wRing.guMarkers 2)).guRead 2 2 0 0 2).fst, some (((State.guSkip 2 1 0 65536 (wRing.guMarkers 2)).guRead 2 2 0 0 2).snd.fst.getD default), ((State.guSkip 2 1 0 65536 (wRing.guMarkers 2)).guRead 2 2 0 0 2).snd.snd)
      ∧ 2 < 4
      ∧ 1 < 8
      ∧ 2 < 3
      ∧ 0 < 3
      ∧ wRing.fenced 2 2 = false
      ∧ wRing.on (Reg.PVp_GU_PATHq_CFG 2 1) Fld.PVp_GU_PATHq_CFG_VALID = true
      ∧ (wRing.guMarkers 2).guDoc 2 1 = some 0
      ∧ (wRing.guMarkers 2).guPathCtxs 2 1 = [2]
      ∧ ((wRing.guMarkers 2).guP 2 1).cur = some 0
      ∧ (State.guSkip 2 1 0 65536 (wRing.guMarkers 2)).guPathCtxs 2 1 = [2]
      ∧ (State.guSkip 2 1 0 65536 (wRing.guMarkers 2)).guAt 2 2 0 ((State.guSkip 2 1 0 65536 (wRing.guMarkers 2)).guP 2 1).next = GuAt.line ((wRing.guC 2 2).ring.getD 0 wGrid)
      ∧ (State.guSkip 2 1 0 65536 (wRing.guMarkers 2)).guEnded 2 1 = false
      ∧ (State.guSkip 2 1 0 65536 (wRing.guMarkers 2)).heldBack ((State.guSkip 2 1 0 65536 (wRing.guMarkers 2)).guStream 2 2) = false
      ∧ (((State.guSkip 2 1 0 65536 (wRing.guMarkers 2)).guRead 2 2 0 0 2).fst.guP 2 1).mode = 0
      ∧ 2 ≤ ((State.guSkip 2 1 0 65536 (wRing.guMarkers 2)).guRead 2 2 0 0 2).snd.snd)
    ∧ ((2 < 4
      ∧ 1 < 8
      ∧ wGuEnd.fenced 2 2 = false
      ∧ wGuEnd.on (Reg.PVp_GU_PATHq_CFG 2 1) Fld.PVp_GU_PATHq_CFG_VALID = true
      ∧ (wGuEnd.guMarkers 2).guDoc 2 1 = some 0
      ∧ (wGuEnd.guMarkers 2).guPathCtxs 2 1 = [2]
      ∧ ((wGuEnd.guMarkers 2).guP 2 1).cur = some 0
      ∧ (State.guSkip 2 1 0 65536 (wGuEnd.guMarkers 2)).guEnded 2 1 = true
      ∧ ((State.guSkip 2 1 0 65536 (wGuEnd.guMarkers 2)).guP 2 1).mode = 0
      ∧ ((State.guSkip 2 1 0 65536 (wGuEnd.guMarkers 2)).guC 2 2).markOf 0 = some wMarker)
    ∧ (2 < 4
      ∧ 1 < 8
      ∧ wDesk.fenced 2 2 = false
      ∧ (wDesk.guP 2 1).cur.isSome = true
      ∧ (wDesk.guP 2 1).mode ≠ 0
      ∧ (((((wDesk.guMarkers 2).guFollow 2 1).guFinish 2 1).guCacheEcc 2 1 1 []).guP 2 1).box = some wBox
      ∧ (((((wDesk.guMarkers 2).guFollow 2 1).guFinish 2 1).guCacheEcc 2 1 1 []).guP 2 1).hasLine (((((wDesk.guMarkers 2).guFollow 2 1).guFinish 2 1).guCacheEcc 2 1 1 []).guEnded 2 1) (((((wDesk.guMarkers 2).guFollow 2 1).guFinish 2 1).guCacheEcc 2 1 1 []).guP 2 1).out = true
      ∧ ((((wDesk.guMarkers 2).guFollow 2 1).guFinish 2 1).guCacheEcc 2 1 1 []).heldBack (((((wDesk.guMarkers 2).guFollow 2 1).guFinish 2 1).guCacheEcc 2 1 1 []).guStream 2 ((((((wDesk.guMarkers 2).guFollow 2 1).guFinish 2 1).guCacheEcc 2 1 1 []).guPathCtxs 2 1).headD 0)) = false
      ∧ (((State.guLoad 2 1 wBox ((((((wDesk.guMarkers 2).guFollow 2 1).guFinish 2 1).guCacheEcc 2 1 1 []).guP 2 1).lines.length + 1) ((((wDesk.guMarkers 2).guFollow 2 1).guFinish 2 1).guCacheEcc 2 1 1 []) []).guP 2 1).plan wBox ((State.guLoad 2 1 wBox ((((((wDesk.guMarkers 2).guFollow 2 1).guFinish 2 1).guCacheEcc 2 1 1 []).guP 2 1).lines.length + 1) ((((wDesk.guMarkers 2).guFollow 2 1).guFinish 2 1).guCacheEcc 2 1 1 []) []).guEnded 2 1)).waits = false))
    ∧ (2 < 4
      ∧ 2 < 8
      ∧ wGuWait.follows = true
      ∧ GuWait.mk 100 false wGrid ∈ (wGuWait.guC 2 2).wait
      ∧ (GuWait.mk 100 false wGrid).late = false
      ∧ (GuWait.mk 100 false wGrid).began + 2000 ≤ wGuWait.now) :=
  ⟨⟨rfl, by decide +kernel⟩,
    ⟨rfl, by decide +kernel⟩,
    ⟨rfl, by decide +kernel⟩,
    by decide +kernel,
    by decide +kernel⟩

/-- States and operands that meet what `Obligations.OutputArithmetic` supposes. -/
theorem witness_OutputArithmetic :
    ((((((10 ∈ [8, 10, 12, 14, 16]
      ∧ 31200 < 65536)
    ∧ (8 ∈ [8, 10, 12, 14, 16]
      ∧ 65535 < 65536))
    ∧ (10 ∈ [8, 10, 12, 14, 16]
      ∧ (∀ (x : Nat), x ∈ [488, 437, 381, 642, 1023] → x < 2 ^ 10)))
    ∧ (16 ∈ [8, 10, 12, 14, 16]
      ∧ (∀ (x : Nat), x ∈ [488, 65535] → x < 2 ^ 16)))
    ∧ (0 < wDoc.nsel
      ∧ [[31200, 27949, 24406, 41066]][wDoc.sel 0]? = some [31200, 27949, 24406, 41066]))
    ∧ (16 ∈ [8, 10, 12, 14, 16]
      ∧ 31200 < 65536
      ∧ 16 = 16)) :=
  by decide +kernel

set_option maxRecDepth 20000 in
/-- States and operands that meet what `Obligations.FormattedLine` supposes. -/
theorem witness_FormattedLine :
    ((wOutTake []).readTaken 4 4 Ecc.ok = (((wOutTake []).readTaken 4 4 Ecc.ok).fst, some (5, lineOf 5 [31200, 27949, 24406, 41066]))
      ∧ 4 < 8
      ∧ (wOutTake []).fenced 4 4 = false
      ∧ ((wOutTake []).readTaken 4 4 Ecc.ok).fst.firstUnit 5 ≠ some (4, 4)
      ∧ (((wOutTake []).readTaken 4 4 Ecc.ok).fst.swapAt 5 (lineOf 5 [31200, 27949, 24406, 41066]).tag.idx (ownerKey 4 4 0) (List.map (fun k => ownerKey 4 4 (1 + k)) (List.range 8)) false).routeUnit 5 3 = none
      ∧ (((((wOutTake []).readTaken 4 4 Ecc.ok).fst.swapAt 5 (lineOf 5 [31200, 27949, 24406, 41066]).tag.idx (ownerKey 4 4 0) (List.map (fun k => ownerKey 4 4 (1 + k)) (List.range 8)) false).observeOf 5 [] (Item.line (((wOutTake []).readTaken 4 4 Ecc.ok).fst.marked 4 4 5 (lineOf 5 [31200, 27949, 24406, 41066])))).ofErrors 4 (OsFaults.mk 0 [] [] [])).ofContext 4 5 = some 1
      ∧ (((((wOutTake []).readTaken 4 4 Ecc.ok).fst.swapAt 5 (lineOf 5 [31200, 27949, 24406, 41066]).tag.idx (ownerKey 4 4 0) (List.map (fun k => ownerKey 4 4 (1 + k)) (List.range 8)) false).observeOf 5 [] (Item.line (((wOutTake []).readTaken 4 4 Ecc.ok).fst.marked 4 4 5 (lineOf 5 [31200, 27949, 24406, 41066])))).ofErrors 4 (OsFaults.mk 0 [] [] [])).ofFeeds 4 1 = [9]
      ∧ ((((((wOutTake []).readTaken 4 4 Ecc.ok).fst.swapAt 5 (lineOf 5 [31200, 27949, 24406, 41066]).tag.idx (ownerKey 4 4 0) (List.map (fun k => ownerKey 4 4 (1 + k)) (List.range 8)) false).observeOf 5 [] (Item.line (((wOutTake []).readTaken 4 4 Ecc.ok).fst.marked 4 4 5 (lineOf 5 [31200, 27949, 24406, 41066])))).ofErrors 4 (OsFaults.mk 0 [] [] [])).osLine 4 9 5 (((wOutTake []).readTaken 4 4 Ecc.ok).fst.marked 4 4 5 (lineOf 5 [31200, 27949, 24406, 41066])) (OsFaults.mk 0 [] [] [])).ofFeeds 4 1 = [9])
    ∧ (9 < 32
      ∧ (wFormat.os.get 9).cur = some wDoc
      ∧ wDoc.idx = wDocLine.tag.idx
      ∧ wDoc.en = true
      ∧ wDoc.isJls = false
      ∧ wDoc.beyond wDocLine.px = false
      ∧ wFormat.compares = false
      ∧ wFormat.osOff = false
      ∧ wFormat.mute 9 wDocLine.tag.idx = false) :=
  ⟨⟨rfl, by decide +kernel⟩,
    by decide +kernel⟩

/-- States and operands that meet what `Obligations.StatisticsRecord` supposes. -/
theorem witness_StatisticsRecord :
    ((∀ (k : Nat), (wStat []).fld (Reg.PVp_BUu_CTXc_REC_BASE (2 / 2) (2 % 2) 1) Fld.PVp_BUu_CTXc_REC_BASE_BASE + BitVec.toNat ((wStat []).reg (Reg.PVp_BUu_CTXc_SEQ (2 / 2) (2 % 2) 1)) % max 1 ((wStat []).fld (Reg.PVp_BUu_CTXc_RING (2 / 2) (2 % 2) 1) Fld.PVp_BUu_CTXc_RING_NSLOT) * (wStat []).fld (Reg.PVp_BUu_CTXc_RING (2 / 2) (2 % 2) 1) Fld.PVp_BUu_CTXc_RING_SLOT_SIZE ≤ k → k < (wStat []).fld (Reg.PVp_BUu_CTXc_REC_BASE (2 / 2) (2 % 2) 1) Fld.PVp_BUu_CTXc_REC_BASE_BASE + BitVec.toNat ((wStat []).reg (Reg.PVp_BUu_CTXc_SEQ (2 / 2) (2 % 2) 1)) % max 1 ((wStat []).fld (Reg.PVp_BUu_CTXc_RING (2 / 2) (2 % 2) 1) Fld.PVp_BUu_CTXc_RING_NSLOT) * (wStat []).fld (Reg.PVp_BUu_CTXc_RING (2 / 2) (2 % 2) 1) Fld.PVp_BUu_CTXc_RING_SLOT_SIZE + (((BuRec.mk wRec.stream wRec.tap wRec.set wRec.doc wRec.idx wRec.window wRec.lines wRec.skipped wRec.flags (wRec.err || ! [3, 5].isEmpty) (List.foldl (fun t k => t.set k 0) wRec.acc [3, 5])).bytes 2 1).length + 63) / 64 → (wStat []).fmOutcome k 0 = 0)
      ∧ 2 < 8
      ∧ 1 < 8
      ∧ ((wStat []).bu.get (8 * 2 + 1)).due = [wRec]
      ∧ ((wStat []).fenced 3 2 = false ∨ wRec.err = true)
      ∧ ¬BitVec.toNat ((wStat []).reg (Reg.PVp_BUu_CTXc_SEQ (2 / 2) (2 % 2) 1)) % max 1 ((wStat []).fld (Reg.PVp_BUu_CTXc_RING (2 / 2) (2 % 2) 1) Fld.PVp_BUu_CTXc_RING_NSLOT) ∈ ((wStat []).bu.get (8 * 2 + 1)).busy
      ∧ (wStat []).bit Reg.FM_INJECT 31 = false
      ∧ 64 * ((wStat []).fld (Reg.PVp_BUu_CTXc_REC_BASE (2 / 2) (2 % 2) 1) Fld.PVp_BUu_CTXc_REC_BASE_BASE + BitVec.toNat ((wStat []).reg (Reg.PVp_BUu_CTXc_SEQ (2 / 2) (2 % 2) 1)) % max 1 ((wStat []).fld (Reg.PVp_BUu_CTXc_RING (2 / 2) (2 % 2) 1) Fld.PVp_BUu_CTXc_RING_NSLOT) * (wStat []).fld (Reg.PVp_BUu_CTXc_RING (2 / 2) (2 % 2) 1) Fld.PVp_BUu_CTXc_RING_SLOT_SIZE) + ((BuRec.mk wRec.stream wRec.tap wRec.set wRec.doc wRec.idx wRec.window wRec.lines wRec.skipped wRec.flags (wRec.err || ! [3, 5].isEmpty) (List.foldl (fun t k => t.set k 0) wRec.acc [3, 5])).bytes 2 1).length ≤ (wStat []).fmTop
      ∧ wRec.set.fld 0 Fld.PVp_BUu_CTXc_CFG_OS_EN = 1)
    ∧ ((2 < 8
      ∧ 1 < 8
      ∧ ((wStat [2]).bu.get (8 * 2 + 1)).due = [wRec]
      ∧ ((wStat [2]).fenced 3 2 = false ∨ wRec.err = true)
      ∧ BitVec.toNat ((wStat [2]).reg (Reg.PVp_BUu_CTXc_SEQ (2 / 2) (2 % 2) 1)) % max 1 ((wStat [2]).fld (Reg.PVp_BUu_CTXc_RING (2 / 2) (2 % 2) 1) Fld.PVp_BUu_CTXc_RING_NSLOT) ∈ ((wStat [2]).bu.get (8 * 2 + 1)).busy
      ∧ wRec.set.fld 0 Fld.PVp_BUu_CTXc_CFG_OS_EN = 1)
    ∧ (2 < 8
      ∧ 1 < 8
      ∧ (wStatFenced.bu.get (8 * 2 + 1)).due = [wRec]
      ∧ wStatFenced.fenced 3 2 = true
      ∧ wRec.err = false)) :=
  ⟨⟨fun k h l => (by decide +kernel : ∀ k, k < (wStat []).fld (Reg.PVp_BUu_CTXc_REC_BASE (2 / 2) (2 % 2) 1) Fld.PVp_BUu_CTXc_REC_BASE_BASE + BitVec.toNat ((wStat []).reg (Reg.PVp_BUu_CTXc_SEQ (2 / 2) (2 % 2) 1)) % max 1 ((wStat []).fld (Reg.PVp_BUu_CTXc_RING (2 / 2) (2 % 2) 1) Fld.PVp_BUu_CTXc_RING_NSLOT) * (wStat []).fld (Reg.PVp_BUu_CTXc_RING (2 / 2) (2 % 2) 1) Fld.PVp_BUu_CTXc_RING_SLOT_SIZE + (((BuRec.mk wRec.stream wRec.tap wRec.set wRec.doc wRec.idx wRec.window wRec.lines wRec.skipped wRec.flags (wRec.err || ! [3, 5].isEmpty) (List.foldl (fun t k => t.set k 0) wRec.acc [3, 5])).bytes 2 1).length + 63) / 64 → (wStat []).fld (Reg.PVp_BUu_CTXc_REC_BASE (2 / 2) (2 % 2) 1) Fld.PVp_BUu_CTXc_REC_BASE_BASE + BitVec.toNat ((wStat []).reg (Reg.PVp_BUu_CTXc_SEQ (2 / 2) (2 % 2) 1)) % max 1 ((wStat []).fld (Reg.PVp_BUu_CTXc_RING (2 / 2) (2 % 2) 1) Fld.PVp_BUu_CTXc_RING_NSLOT) * (wStat []).fld (Reg.PVp_BUu_CTXc_RING (2 / 2) (2 % 2) 1) Fld.PVp_BUu_CTXc_RING_SLOT_SIZE ≤ k → (wStat []).fmOutcome k 0 = 0) k l h, by decide +kernel⟩,
    by decide +kernel⟩

/-- States and operands that meet what `Obligations.PlacedRecords` supposes. -/
theorem witness_PlacedRecords :
    (((9 < 32
      ∧ (wPlace 120).nextStat 9 = some (OsStat.mk 0 7 0 17 2 (List.replicate 120 1))
      ∧ ((wPlace 120).os.get 9).held = []
      ∧ (OsStat.mk 0 7 0 17 2 (List.replicate 120 1)).idx < ((wPlace 120).os.get 9).seen
      ∧ ((wPlace 120).os.get 9).docOf (OsStat.mk 0 7 0 17 2 (List.replicate 120 1)).idx = some wDoc
      ∧ wDoc.en = true
      ∧ (wPlace 120).mute 9 (OsStat.mk 0 7 0 17 2 (List.replicate 120 1)).idx = false
      ∧ (OsStat.mk 0 7 0 17 2 (List.replicate 120 1)).bytes.length ≤ wDoc.regs.getD 8 0 / 64 * 64)
    ∧ (9 < 32
      ∧ (wPlace 200).nextStat 9 = some (OsStat.mk 0 7 0 17 2 (List.replicate 200 1))
      ∧ ((wPlace 200).os.get 9).held = []
      ∧ (OsStat.mk 0 7 0 17 2 (List.replicate 200 1)).idx < ((wPlace 200).os.get 9).seen
      ∧ ((wPlace 200).os.get 9).docOf (OsStat.mk 0 7 0 17 2 (List.replicate 200 1)).idx = some wDoc
      ∧ wDoc.en = true
      ∧ (wPlace 200).mute 9 (OsStat.mk 0 7 0 17 2 (List.replicate 200 1)).idx = false
      ∧ wDoc.regs.getD 8 0 / 64 * 64 < (OsStat.mk 0 7 0 17 2 (List.replicate 200 1)).bytes.length))
    ∧ (9 < 32
      ∧ ((List.foldl (fun s f => s.ofMarkers f.fst (OsFaults.mk 0 [] [] [])) wHeader (wHeader.feeders 9)).os.get 9).hdrs = [wDocEnd]
      ∧ wDocEnd.mark = some wMark
      ∧ (∀ (r : OsRec), r ∈ ((List.foldl (fun s f => s.ofMarkers f.fst (OsFaults.mk 0 [] [] [])) wHeader (wHeader.feeders 9)).os.get 9).wait → r.tag.idx ≠ wDocEnd.idx)
      ∧ (List.foldl (fun s f => s.ofMarkers f.fst (OsFaults.mk 0 [] [] [])) wHeader (wHeader.feeders 9)).statsDue 9 wDocEnd.idx wDocEnd.doc = false
      ∧ (List.foldl (fun s f => s.ofMarkers f.fst (OsFaults.mk 0 [] [] [])) wHeader (wHeader.feeders 9)).osOff = false
      ∧ (List.foldl (fun s f => s.ofMarkers f.fst (OsFaults.mk 0 [] [] [])) wHeader (wHeader.feeders 9)).mute 9 wDocEnd.idx = false)) :=
  by decide +kernel

/-- States and operands that meet what `Obligations.SealComparison` supposes. -/
theorem witness_SealComparison :
    (wRelay.takeItem 0 5 wStr.typ = ((wRelay.takeItem 0 5 0).fst, some (wStr, wStr.payload))
      ∧ 0 < 2
      ∧ List.find? (fun q => q.cls == 5) (wRelay.grp.get 0).rx = some wStr
      ∧ wRelay.relayOf (wStr.spec0 % 32) = some 3
      ∧ wRelay.facesHeadLead 0 = true
      ∧ (wRelay.os.get 3).held = []
      ∧ (wRelay.relay.get 3).seen = []
      ∧ (wRelay.relay.get 3).kept = []
      ∧ (wRelay.takeItem 0 5 0).fst.fld Reg.GLB_ROLE Fld.GLB_ROLE_TOPOLOGY ≠ 2)
    ∧ ((wSealRep 99).takeItem 2 7 2 = (((wSealRep 99).takeItem 2 7 2).fst, some (((wSealRep 99).takeItem 2 7 2).snd.get!.fst, [9, 7, 3, 99]))
      ∧ 9 < 32
      ∧ ((wSealRep 99).takeItem 2 7 2).fst.compares = true
      ∧ ((wSealRep 99).takeItem 2 7 2).fst.twinState = 2
      ∧ (((wSealRep 99).takeItem 2 7 2).fst.os.get 9).wait = [wRecord 0]
      ∧ (wRecord 0).tag.doc = 7
      ∧ (wRecord 0).tag.line = 3
      ∧ (wRecord 0).cmp = none)
    ∧ ((wSealRep 98).takeItem 2 7 2 = (((wSealRep 98).takeItem 2 7 2).fst, some (((wSealRep 98).takeItem 2 7 2).snd.get!.fst, [9, 7, 3, 98]))
      ∧ 9 < 32
      ∧ ((wSealRep 98).takeItem 2 7 2).fst.compares = true
      ∧ ((wSealRep 98).takeItem 2 7 2).fst.twinState = 2
      ∧ (((wSealRep 98).takeItem 2 7 2).fst.os.get 9).wait = [wRecord 0]
      ∧ (wRecord 0).tag.doc = 7
      ∧ (wRecord 0).tag.line = 3
      ∧ (wRecord 0).cmp = none)
    ∧ ((wRecRep 55).takeItem 2 7 3 = (((wRecRep 55).takeItem 2 7 3).fst, some (((wRecRep 55).takeItem 2 7 3).snd.get!.fst, [2 + 16 * 1, 6, 7, 55]))
      ∧ 2 < 8
      ∧ 1 < 8
      ∧ ((wRecRep 55).takeItem 2 7 3).fst.compares = true
      ∧ (((wRecRep 55).takeItem 2 7 3).fst.bu.get (8 * 2 + 1)).recOwn = [(6, 7, 55)]
      ∧ 55 = 55)
    ∧ ((wRecRep 54).takeItem 2 7 3 = (((wRecRep 54).takeItem 2 7 3).fst, some (((wRecRep 54).takeItem 2 7 3).snd.get!.fst, [2 + 16 * 1, 6, 7, 54]))
      ∧ 2 < 8
      ∧ 1 < 8
      ∧ ((wRecRep 54).takeItem 2 7 3).fst.compares = true
      ∧ (((wRecRep 54).takeItem 2 7 3).fst.bu.get (8 * 2 + 1)).recOwn = [(6, 7, 55)]
      ∧ 55 ≠ 54)
    ∧ ((3 < 32
      ∧ (wRelayDoc.os.get 3).docOf (leNat (List.take 4 (List.drop 4 wStrBytes))) =   some     (let __src := wDoc;     OsDoc.mk 7 __src.doc __src.ch __src.regs __src.count __src.first __src.last __src.flags __src.width __src.coded __src.jls __src.segNo __src.seg __src.mark __src.chg)
      ∧ (let __src := wDoc;     OsDoc.mk 7 __src.doc __src.ch __src.regs __src.count __src.first __src.last __src.flags __src.width __src.coded __src.jls __src.segNo __src.seg __src.mark __src.chg).en =   true
      ∧ crc32c (List.drop 32 wStrBytes) ≠ leNat (List.take 4 (List.drop 28 wStrBytes)))
    ∧ (9 < 32
      ∧ (wCmp.os.get 9).wait = [wRecord 0]
      ∧ (wRecord 0).cmp = none
      ∧ (wRecord 0).since + 1000 * max 1 (wCmp.fld Reg.TWN_CFG Fld.TWN_CFG_CMP_WAIT) ≤ wCmp.now)) :=
  ⟨⟨rfl, by decide +kernel⟩,
    ⟨rfl, by decide +kernel⟩,
    ⟨rfl, by decide +kernel⟩,
    ⟨rfl, by decide +kernel⟩,
    ⟨rfl, by decide +kernel⟩,
    by decide +kernel⟩

/-- States and operands that meet what `Obligations.FrameMemoryHealth` supposes. -/
theorem witness_FrameMemoryHealth :
    (((((fmHome 1193046 = fmHome 1192961)
    ∧ (3 < 8
      ∧ (fmHome (256 * (8 * 9 + 3))).fst = (fmHome (256 * (8 * 9 + 3))).fst))
    ∧ (6401 < (wFlaw 0).fmTop
      ∧ 6401 < 2 ^ 34
      ∧ (wFlaw 0).fmDead (64 * (6401 / 64)) = false
      ∧ (wFlaw 0).fmStale (6401 / 64) = false
      ∧ (State.mk (wFlaw 0).regs (wFlaw 0).imgRegs (wFlaw 0).expertPend (wFlaw 0).now (wFlaw 0).invar (wFlaw 0).free (wFlaw 0).out (wFlaw 0).straps (wFlaw 0).headLead (wFlaw 0).gen (wFlaw 0).grp (wFlaw 0).image (wFlaw 0).pav (wFlaw 0).ctxRecipe (wFlaw 0).chan (wFlaw 0).queue (wFlaw 0).arb (wFlaw 0).ghouse (wFlaw 0).port (wFlaw 0).entry (wFlaw 0).seg (wFlaw 0).stream (wFlaw 0).logRing (wFlaw 0).logArg (wFlaw 0).lodge (wFlaw 0).ic (wFlaw 0).wires (wFlaw 0).filter (wFlaw 0).trigLevel (wFlaw 0).pins (wFlaw 0).mirrorQ (wFlaw 0).mirrorWait (wFlaw 0).partnerState (wFlaw 0).cfg (wFlaw 0).flrUntil (wFlaw 0).ready (wFlaw 0).msixReq (wFlaw 0).luCtx (wFlaw 0).luTable (wFlaw 0).muCtx (wFlaw 0).muGrp (wFlaw 0).fmMem         (have __src := (wFlaw 0).fm;         FmSt.mk __src.flaw __src.fences __src.moved __src.fresh __src.fencing __src.pauses __src.scrub ((wFlaw 0).fm.link.set (6401 / 64) (0, 2)))         (wFlaw 0).bu (wFlaw 0).guCtx (wFlaw 0).guPath (wFlaw 0).guSlot (wFlaw 0).os (wFlaw 0).relay (wFlaw 0).mm (wFlaw 0).dmaDisc (wFlaw 0).enc (wFlaw 0).slot (wFlaw 0).sync (wFlaw 0).dma (wFlaw 0).pcie (wFlaw 0).msix (wFlaw 0).pba (wFlaw 0).brg (wFlaw 0).tw (wFlaw 0).tw8Ptr (wFlaw 0).tun (wFlaw 0).tunQuar (wFlaw 0).twin (wFlaw 0).mgt (wFlaw 0).boot (wFlaw 0).pwr (wFlaw 0).flash (wFlaw 0).otp (wFlaw 0).tcm (wFlaw 0).shared (wFlaw 0).mbx (wFlaw 0).pending).fmOutcome     (6401 / 64) 0 =   0))
    ∧ (6401 < (wFlaw 1).fmTop
      ∧ 6401 < 2 ^ 34
      ∧ (wFlaw 1).fmDead (64 * (6401 / 64)) = false
      ∧ (wFlaw 1).fmStale (6401 / 64) = false
      ∧ (State.mk (wFlaw 1).regs (wFlaw 1).imgRegs (wFlaw 1).expertPend (wFlaw 1).now (wFlaw 1).invar (wFlaw 1).free (wFlaw 1).out (wFlaw 1).straps (wFlaw 1).headLead (wFlaw 1).gen (wFlaw 1).grp (wFlaw 1).image (wFlaw 1).pav (wFlaw 1).ctxRecipe (wFlaw 1).chan (wFlaw 1).queue (wFlaw 1).arb (wFlaw 1).ghouse (wFlaw 1).port (wFlaw 1).entry (wFlaw 1).seg (wFlaw 1).stream (wFlaw 1).logRing (wFlaw 1).logArg (wFlaw 1).lodge (wFlaw 1).ic (wFlaw 1).wires (wFlaw 1).filter (wFlaw 1).trigLevel (wFlaw 1).pins (wFlaw 1).mirrorQ (wFlaw 1).mirrorWait (wFlaw 1).partnerState (wFlaw 1).cfg (wFlaw 1).flrUntil (wFlaw 1).ready (wFlaw 1).msixReq (wFlaw 1).luCtx (wFlaw 1).luTable (wFlaw 1).muCtx (wFlaw 1).muGrp (wFlaw 1).fmMem         (have __src := (wFlaw 1).fm;         FmSt.mk __src.flaw __src.fences __src.moved __src.fresh __src.fencing __src.pauses __src.scrub ((wFlaw 1).fm.link.set (6401 / 64) (0, 3)))         (wFlaw 1).bu (wFlaw 1).guCtx (wFlaw 1).guPath (wFlaw 1).guSlot (wFlaw 1).os (wFlaw 1).relay (wFlaw 1).mm (wFlaw 1).dmaDisc (wFlaw 1).enc (wFlaw 1).slot (wFlaw 1).sync (wFlaw 1).dma (wFlaw 1).pcie (wFlaw 1).msix (wFlaw 1).pba (wFlaw 1).brg (wFlaw 1).tw (wFlaw 1).tw8Ptr (wFlaw 1).tun (wFlaw 1).tunQuar (wFlaw 1).twin (wFlaw 1).mgt (wFlaw 1).boot (wFlaw 1).pwr (wFlaw 1).flash (wFlaw 1).otp (wFlaw 1).tcm (wFlaw 1).shared (wFlaw 1).mbx (wFlaw 1).pending).fmOutcome     (6401 / 64) 0 =   1))
    ∧ (6401 < (wFlaw 1).fmTop
      ∧ 6401 < 2 ^ 34
      ∧ (wFlaw 1).fmDead (64 * (6401 / 64)) = false
      ∧ (wFlaw 1).fmStale (6401 / 64) = false
      ∧ (State.mk (wFlaw 1).regs (wFlaw 1).imgRegs (wFlaw 1).expertPend (wFlaw 1).now (wFlaw 1).invar (wFlaw 1).free (wFlaw 1).out (wFlaw 1).straps (wFlaw 1).headLead (wFlaw 1).gen (wFlaw 1).grp (wFlaw 1).image (wFlaw 1).pav (wFlaw 1).ctxRecipe (wFlaw 1).chan (wFlaw 1).queue (wFlaw 1).arb (wFlaw 1).ghouse (wFlaw 1).port (wFlaw 1).entry (wFlaw 1).seg (wFlaw 1).stream (wFlaw 1).logRing (wFlaw 1).logArg (wFlaw 1).lodge (wFlaw 1).ic (wFlaw 1).wires (wFlaw 1).filter (wFlaw 1).trigLevel (wFlaw 1).pins (wFlaw 1).mirrorQ (wFlaw 1).mirrorWait (wFlaw 1).partnerState (wFlaw 1).cfg (wFlaw 1).flrUntil (wFlaw 1).ready (wFlaw 1).msixReq (wFlaw 1).luCtx (wFlaw 1).luTable (wFlaw 1).muCtx (wFlaw 1).muGrp (wFlaw 1).fmMem         (have __src := (wFlaw 1).fm;         FmSt.mk __src.flaw __src.fences __src.moved __src.fresh __src.fencing __src.pauses __src.scrub ((wFlaw 1).fm.link.set (6401 / 64) (1, 0)))         (wFlaw 1).bu (wFlaw 1).guCtx (wFlaw 1).guPath (wFlaw 1).guSlot (wFlaw 1).os (wFlaw 1).relay (wFlaw 1).mm (wFlaw 1).dmaDisc (wFlaw 1).enc (wFlaw 1).slot (wFlaw 1).sync (wFlaw 1).dma (wFlaw 1).pcie (wFlaw 1).msix (wFlaw 1).pba (wFlaw 1).brg (wFlaw 1).tw (wFlaw 1).tw8Ptr (wFlaw 1).tun (wFlaw 1).tunQuar (wFlaw 1).twin (wFlaw 1).mgt (wFlaw 1).boot (wFlaw 1).pwr (wFlaw 1).flash (wFlaw 1).otp (wFlaw 1).tcm (wFlaw 1).shared (wFlaw 1).mbx (wFlaw 1).pending).fmOutcome     (6401 / 64) 0 =   2
      ∧ (wFlaw 1).bit Reg.FM_UNCORR_ADDR_HI 31 = false
      ∧ (wFlaw 1).fm.fences = []
      ∧ (wFlaw 1).on Reg.FM_CFG Fld.FM_CFG_RESERVE = true))
    ∧ (((((((6401 < (wFlaw 0).fmTop
      ∧ 6401 < 2 ^ 34
      ∧ (wFlaw 0).fmDead (64 * (6401 / 64)) = false
      ∧ (wFlaw 0).fmStale (6401 / 64) = false
      ∧ (State.mk (wFlaw 0).regs (wFlaw 0).imgRegs (wFlaw 0).expertPend (wFlaw 0).now (wFlaw 0).invar (wFlaw 0).free (wFlaw 0).out (wFlaw 0).straps (wFlaw 0).headLead (wFlaw 0).gen (wFlaw 0).grp (wFlaw 0).image (wFlaw 0).pav (wFlaw 0).ctxRecipe (wFlaw 0).chan (wFlaw 0).queue (wFlaw 0).arb (wFlaw 0).ghouse (wFlaw 0).port (wFlaw 0).entry (wFlaw 0).seg (wFlaw 0).stream (wFlaw 0).logRing (wFlaw 0).logArg (wFlaw 0).lodge (wFlaw 0).ic (wFlaw 0).wires (wFlaw 0).filter (wFlaw 0).trigLevel (wFlaw 0).pins (wFlaw 0).mirrorQ (wFlaw 0).mirrorWait (wFlaw 0).partnerState (wFlaw 0).cfg (wFlaw 0).flrUntil (wFlaw 0).ready (wFlaw 0).msixReq (wFlaw 0).luCtx (wFlaw 0).luTable (wFlaw 0).muCtx (wFlaw 0).muGrp (wFlaw 0).fmMem         (have __src := (wFlaw 0).fm;         FmSt.mk __src.flaw __src.fences __src.moved __src.fresh __src.fencing __src.pauses __src.scrub ((wFlaw 0).fm.link.set (6401 / 64) (0, 4)))         (wFlaw 0).bu (wFlaw 0).guCtx (wFlaw 0).guPath (wFlaw 0).guSlot (wFlaw 0).os (wFlaw 0).relay (wFlaw 0).mm (wFlaw 0).dmaDisc (wFlaw 0).enc (wFlaw 0).slot (wFlaw 0).sync (wFlaw 0).dma (wFlaw 0).pcie (wFlaw 0).msix (wFlaw 0).pba (wFlaw 0).brg (wFlaw 0).tw (wFlaw 0).tw8Ptr (wFlaw 0).tun (wFlaw 0).tunQuar (wFlaw 0).twin (wFlaw 0).mgt (wFlaw 0).boot (wFlaw 0).pwr (wFlaw 0).flash (wFlaw 0).otp (wFlaw 0).tcm (wFlaw 0).shared (wFlaw 0).mbx (wFlaw 0).pending).fmOutcome     (6401 / 64) 0 =   2
      ∧ (wFlaw 0).bit Reg.FM_UNCORR_ADDR_HI 31 = false
      ∧ (wFlaw 0).fm.fences = []
      ∧ (wFlaw 0).on Reg.FM_CFG Fld.FM_CFG_RESERVE = true)
    ∧ (6401 < wPoison.fmTop
      ∧ 6401 < 2 ^ 34
      ∧ (State.mk wPoison.regs wPoison.imgRegs wPoison.expertPend wPoison.now wPoison.invar wPoison.free wPoison.out wPoison.straps wPoison.headLead wPoison.gen wPoison.grp wPoison.image wPoison.pav wPoison.ctxRecipe wPoison.chan wPoison.queue wPoison.arb wPoison.ghouse wPoison.port wPoison.entry wPoison.seg wPoison.stream wPoison.logRing wPoison.logArg wPoison.lodge wPoison.ic wPoison.wires wPoison.filter wPoison.trigLevel wPoison.pins wPoison.mirrorQ wPoison.mirrorWait wPoison.partnerState wPoison.cfg wPoison.flrUntil wPoison.ready wPoison.msixReq wPoison.luCtx wPoison.luTable wPoison.muCtx wPoison.muGrp wPoison.fmMem         (have __src := wPoison.fm;         FmSt.mk __src.flaw __src.fences __src.moved __src.fresh __src.fencing __src.pauses __src.scrub (wPoison.fm.link.set (6401 / 64) (0, 1)))         wPoison.bu wPoison.guCtx wPoison.guPath wPoison.guSlot wPoison.os wPoison.relay wPoison.mm wPoison.dmaDisc wPoison.enc wPoison.slot wPoison.sync wPoison.dma wPoison.pcie wPoison.msix wPoison.pba wPoison.brg wPoison.tw wPoison.tw8Ptr wPoison.tun wPoison.tunQuar wPoison.twin wPoison.mgt wPoison.boot wPoison.pwr wPoison.flash wPoison.otp wPoison.tcm wPoison.shared wPoison.mbx wPoison.pending).fmOutcome     (6401 / 64) 0 =   3))
    ∧ (1 < 3
      ∧ wScrub.on Reg.FM_STATUS Fld.FM_STATUS_READY = true
      ∧ wScrub.fld Reg.FM_SCRUB_CTRL Fld.FM_SCRUB_CTRL_PERIOD_H ≠ 0))
    ∧ (0 < 3
      ∧ wScrubEnd.on Reg.FM_STATUS Fld.FM_STATUS_READY = true
      ∧ wScrubEnd.fld Reg.FM_SCRUB_CTRL Fld.FM_SCRUB_CTRL_PERIOD_H ≠ 0
      ∧ wScrubEnd.fmTop / 64 ≤ wScrubEnd.fm.scrub + 1))
    ∧ (3 < 8
      ∧ 3 ∈ wFencing.fm.fencing))
    ∧ (wUntrained.on Reg.GLB_IMG_STATUS Fld.GLB_IMG_STATUS_APPLIED = true
      ∧ wUntrained.on Reg.FM_CFG Fld.FM_CFG_POPULATED = true
      ∧ wUntrained.on Reg.FM_STATUS Fld.FM_STATUS_TRAINED = false))
    ∧ (2 < 8)) :=
  ⟨by decide +kernel,
    by decide +kernel⟩

set_option maxRecDepth 20000 in
/-- States and operands that meet what `Obligations.FrameMemoryAccess` supposes. -/
theorem witness_FrameMemoryAccess :
    ((∀ (k : Nat), 6461 / 64 ≤ k → k ≤ (6461 + [1, 2, 3, 4, 5, 6, 7].length - 1) / 64 → (wMem []).fmOutcome k 0 = 0)
      ∧ [1, 2, 3, 4, 5, 6, 7] ≠ []
      ∧ [1, 2, 3, 4, 5, 6, 7].length ≤ 4096
      ∧ (wMem []).fnServes 0 = true
      ∧ 6461 + [1, 2, 3, 4, 5, 6, 7].length ≤ (wMem []).bar2Size
      ∧ (wMem []).fmGranted Initiator.pf0 6461 [1, 2, 3, 4, 5, 6, 7].length true = true
      ∧ (wMem []).inBoot = false
      ∧ 6461 + [1, 2, 3, 4, 5, 6, 7].length ≤ (wMem []).fmEnd
      ∧ (wMem []).bit Reg.FM_INJECT 31 = false)
    ∧ ((∀ (k : Nat), 6460 / 64 ≤ k → k ≤ (6460 + 9 - 1) / 64 → (wMem []).fmOutcome k 0 = 0)
      ∧ 0 < 9
      ∧ 9 ≤ 4096
      ∧ (wMem []).fnServes 0 = true
      ∧ 6460 + 9 ≤ (wMem []).bar2Size
      ∧ (wMem []).fmGranted Initiator.pf0 6460 9 false = true
      ∧ (wMem []).inBoot = false
      ∧ 6460 + 9 ≤ (wMem []).fmEnd)
    ∧ (wFrameMemoryAccess1.writeOpen Initiator.mc0 Reg.FM_INJECT
      ∧ bitB (2684354565#32).toNat 31 = true
      ∧ bitB (2684354565#32).toNat 30 = false)
    ∧ (wFrameMemoryAccess1.writeOpen Initiator.mc0 Reg.FM_INJECT
      ∧ bitB (3758096389#32).toNat 30 = true)
    ∧ ((List.replicate 64 3).length = 64
      ∧ wInject.fmDead (64 * 100) = false
      ∧ wInject.fmMet 100 < 2
      ∧ wInject.bit Reg.FM_INJECT 31 = true
      ∧ wInject.fld Reg.FM_INJECT Fld.FM_INJECT_ADDR = 100) :=
  ⟨⟨fun k h l => (by decide +kernel : ∀ k, k < (6461 + [1, 2, 3, 4, 5, 6, 7].length - 1) / 64 + 1 → 6461 / 64 ≤ k → (wMem []).fmOutcome k 0 = 0) k (Nat.lt_succ_of_le l) h, by decide +kernel⟩,
    ⟨fun k h l => (by decide +kernel : ∀ k, k < (6460 + 9 - 1) / 64 + 1 → 6460 / 64 ≤ k → (wMem []).fmOutcome k 0 = 0) k (Nat.lt_succ_of_le l) h, by decide +kernel⟩,
    ⟨by unfold State.writeOpen; decide +kernel, by decide +kernel⟩,
    ⟨by unfold State.writeOpen; decide +kernel, by decide +kernel⟩,
    by decide +kernel⟩

/-- States and operands that meet what `Obligations.ImageVerification` supposes. -/
theorem witness_ImageVerification :
    (((((0 < 8
      ∧ 3 < 8
      ∧ State.reset.boot.verified = false
      ∧ State.reset.inReset = false
      ∧ State.reset.boot.resetDue = none
      ∧ State.reset.bootDir = none)
    ∧ (0 < 8
      ∧ 3 < 8
      ∧ wDirState.boot.verified = false
      ∧ wDirState.inReset = false
      ∧ wDirState.boot.resetDue = none
      ∧ wDirState.bootDir = some (0, wDir)))
    ∧ (1 < 2))
    ∧ (numAt wImage 13 1 % 4 ≠ State.reset.fld Reg.GLB_ROLE Fld.GLB_ROLE_STRAP_ROLE))
    ∧ (numAt wImage 13 1 % 4 = wStrap.fld Reg.GLB_ROLE Fld.GLB_ROLE_STRAP_ROLE
      ∧ wStrap.fld Reg.GLB_ROLE Fld.GLB_ROLE_STRAP_ROLE ≠ 3)) :=
  by decide +kernel

/-- States and operands that meet what `Obligations.StartUp` supposes. -/
theorem witness_StartUp :
    (((((wVerified.boot.verified = true
      ∧ wVerified.boot.mc0Done = false
      ∧ wVerified.inReset = false
      ∧ wVerified.boot.resetDue = none
      ∧ wVerified.inBoot = true
      ∧ (∀ (g : Nat), g < 3 → wVerified.grpState g = 0))
    ∧ ((wApplied (List.replicate 32 0)).on Reg.GLB_IMG_STATUS Fld.GLB_IMG_STATUS_APPLIED = true
      ∧ (wApplied (List.replicate 32 0)).mgt.mc0Run = true
      ∧ (wApplied (List.replicate 32 0)).boot.mc1Done = false
      ∧ ((wApplied (List.replicate 32 0)).image.mc1Digest.all fun x => x == 0) = true))
    ∧ ((wApplied (List.replicate 32 1)).on Reg.GLB_IMG_STATUS Fld.GLB_IMG_STATUS_APPLIED = true
      ∧ (wApplied (List.replicate 32 1)).mgt.mc0Run = true
      ∧ (wApplied (List.replicate 32 1)).boot.mc1Done = false
      ∧ ((wApplied (List.replicate 32 1)).image.mc1Digest.all fun x => x == 0) = false))
    ∧ (wMc0Done.boot.verified = true
      ∧ wMc0Done.boot.mc0Done = true
      ∧ wMc0Done.pcie.perst = false
      ∧ wMc0Done.ready = false))
    ∧ ((wGo 5 []).on Reg.GLB_IMG_STATUS Fld.GLB_IMG_STATUS_APPLIED = true
      ∧ (wGo 5 []).inBoot = false
      ∧ (wGo 5 []).on Reg.PCR_STATUS Fld.PCR_STATUS_SENSOR_GO = false
      ∧ (wGo 5 []).on Reg.FM_STATUS Fld.FM_STATUS_DEGRADED = false
      ∧ ((wGo 5 []).mayGo = true ∨ (wGo 5 []).boot.appliedAt + 500000000 ≤ (wGo 5 []).now)))
    ∧ ((((wGo 500000000 [(Reg.FM_CFG, Fld.FM_CFG_POPULATED, 1)]).on Reg.GLB_IMG_STATUS Fld.GLB_IMG_STATUS_APPLIED = true
      ∧ (wGo 500000000 [(Reg.FM_CFG, Fld.FM_CFG_POPULATED, 1)]).inBoot = false
      ∧ (wGo 500000000 [(Reg.FM_CFG, Fld.FM_CFG_POPULATED, 1)]).on Reg.PCR_STATUS Fld.PCR_STATUS_SENSOR_GO = false
      ∧ (wGo 500000000 [(Reg.FM_CFG, Fld.FM_CFG_POPULATED, 1)]).on Reg.FM_STATUS Fld.FM_STATUS_DEGRADED = false
      ∧ ((wGo 500000000 [(Reg.FM_CFG, Fld.FM_CFG_POPULATED, 1)]).mayGo = true ∨ (wGo 500000000 [(Reg.FM_CFG, Fld.FM_CFG_POPULATED, 1)]).boot.appliedAt + 500000000 ≤ (wGo 500000000 [(Reg.FM_CFG, Fld.FM_CFG_POPULATED, 1)]).now))
    ∧ (wRom.fnServes 0 = true
      ∧ bitB (BitVec.toNat (wRom.cfgReg 0 48)) 0 = true
      ∧ wRom.on Reg.GLB_IMG_STATUS Fld.GLB_IMG_STATUS_APPLIED = false))
    ∧ (wRom.fnServes 0 = true
      ∧ bitB (BitVec.toNat (wRom.cfgReg 0 48)) 0 = true
      ∧ 1 ≤ 4
      ∧ 4 ≤ 4096
      ∧ 983036 + 4 ≤ 983040)) :=
  ⟨by decide +kernel,
    by decide +kernel⟩

/-- States and operands that meet what `Obligations.Resets` supposes. -/
theorem witness_Resets :
    ((hosted []).writeOpen Initiator.mc0 Reg.PCR_RESET
      ∧ bitB (2147483649#32).toNat 31 = true
      ∧ (2147483649#32).toNat % 4 = 1)
    ∧ ((hosted []).writeOpen Initiator.mc0 Reg.PCR_RESET
      ∧ bitB (2147483650#32).toNat 31 = true
      ∧ (2147483650#32).toNat % 4 = 2
      ∧ (hosted []).expertPend = [])
    ∧ (wBcast.takeRx 0 6 4 = ((wBcast.takeRx 0 6 4).fst, some (wBcast.takeRx 0 6 4).snd.get!)
      ∧ 0 < 3
      ∧ (wBcast.takeRx 0 6 4).snd.get!.payload = [5, 2 ^ 31, 0, 0, 0]
      ∧ (wBcast.takeRx 0 6 4).fst.boot.resetDue = none
      ∧ ¬5 ∈ (wBcast.takeRx 0 6 4).fst.sync.bcastSeen)
    ∧ (wBcastSeen.takeRx 0 6 4 = ((wBcastSeen.takeRx 0 6 4).fst, some (wBcastSeen.takeRx 0 6 4).snd.get!)
      ∧ 0 < 3
      ∧ (wBcastSeen.takeRx 0 6 4).snd.get!.payload = [5, 2 ^ 31, 0, 0, 0]
      ∧ (wBcastSeen.takeRx 0 6 4).fst.boot.resetDue = none
      ∧ 5 ∈ (wBcastSeen.takeRx 0 6 4).fst.sync.bcastSeen)
    ∧ ((((((2 < 4
      ∧ 1 < 2
      ∧ ¬Reg.OSn_CTRL 3 ∈ [Reg.GLB_ROLE, Reg.TW8_CFG, Reg.MGT_OTP_KEYS, Reg.TB_PIN_LEVEL, Reg.TW_BANK])
    ∧ (2 < 4
      ∧ 1 < 2
      ∧ 2 < 8
      ∧ wDue.boot.resetDue = some 2
      ∧ wDue.inReset = false
      ∧ ¬Reg.OSn_CTRL 3 ∈ [Reg.GLB_ROLE, Reg.TW8_CFG, Reg.MGT_OTP_KEYS, Reg.TB_PIN_LEVEL, Reg.PCR_CNTk 5, Reg.PCR_RESET_CAUSE]))
    ∧ (2 < 4
      ∧ 1 < 2
      ∧ 2 < 8
      ∧ wDue.boot.resetDue = some 2
      ∧ wDue.inReset = false
      ∧ ¬Reg.MGT_LOG_SEQ ∈ [Reg.GLB_ROLE, Reg.TW8_CFG, Reg.MGT_OTP_KEYS, Reg.TB_PIN_LEVEL, Reg.PCR_CNTk 5, Reg.PCR_RESET_CAUSE]))
    ∧ (wHeld.boot.off = false
      ∧ wHeld.boot.rstLow = true
      ∧ wHeld.boot.resetDue = some 1))
    ∧ ((hosted []).pcie.perst = false
      ∧ (hosted []).boot.resetDue = none))
    ∧ (wPerst.pcie.perst = true)) :=
  ⟨⟨by unfold State.writeOpen; decide +kernel, by decide +kernel⟩,
    ⟨by unfold State.writeOpen; decide +kernel, by decide +kernel⟩,
    ⟨rfl, by decide +kernel⟩,
    ⟨rfl, by decide +kernel⟩,
    by decide +kernel⟩


/-- States and operands that meet what `Obligations.InvarTime` supposes. -/
theorem witness_InvarTime :
    (wInvarTime1.readOpen Initiator.mc0 Reg.TB_TIME_LO
      ∧ 4 < 16)
    ∧ ((1 < 3
      ∧ 7 < 256
      ∧ 2 < 256
      ∧ 5 < 2 ^ 48
      ∧ 3 < 16
      ∧ (wFollower []).inServiceGroup 1 = true)
    ∧ (1 < 3
      ∧ 7 < 256
      ∧ 2 < 256
      ∧ 40000 < 2 ^ 48
      ∧ 40010 < 2 ^ 48
      ∧ 3 < 16
      ∧ wSynced.sync.sent.get 1 = some (7, 16000)
      ∧ wSynced.inServiceGroup 1 = true
      ∧ (∀ (h : Nat), h < 3 → h ≠ 1 → (wSynced.inServiceGroup h || wSynced.grpState h == 12 || wSynced.grpState h == 13) = false)
      ∧ wSynced.isRoot = false
      ∧ 2 % 16 < 15
      ∧ (getNext (exec (Instr.txrReceive 1 7 2 40010 40000 3) wSynced)).sync.good = 64
      ∧ wSynced.sync.set = true
      ∧ ((fun a b => signed 48 (unsigned 48 (↑a - ↑b))) 40000 16000 * 250 - (((fun a b => signed 48 (unsigned 48 (↑a - ↑b))) 40000 16000 + (fun a b => signed 48 (unsigned 48 (↑a - ↑b))) (wSynced.stamp 3) 40010) * 125 + 4 * signed 16 (wSynced.fld (Reg.TB_HOPg_CFG 1) Fld.TB_HOPg_CFG_ASYM))).natAbs ≤ 4000000))
    ∧ (1 < 3
      ∧ 7 < 256
      ∧ 2 < 256
      ∧ 40000 < 2 ^ 48
      ∧ 16010 < 2 ^ 48
      ∧ 3 < 16
      ∧ wSynced.sync.sent.get 1 = some (7, 16000)
      ∧ wSynced.inServiceGroup 1 = true
      ∧ (∀ (h : Nat), h < 3 → h ≠ 1 → (wSynced.inServiceGroup h || wSynced.grpState h == 12 || wSynced.grpState h == 13) = false)
      ∧ wSynced.isRoot = false
      ∧ 2 % 16 < 15
      ∧ wSynced.sync.set = true
      ∧ ((fun a b => signed 48 (unsigned 48 (↑a - ↑b))) 40000 16000 * 250 - (((fun a b => signed 48 (unsigned 48 (↑a - ↑b))) 40000 16000 + (fun a b => signed 48 (unsigned 48 (↑a - ↑b))) (wSynced.stamp 3) 16010) * 125 + 4 * signed 16 (wSynced.fld (Reg.TB_HOPg_CFG 1) Fld.TB_HOPg_CFG_ASYM))).natAbs ≤ 4000000)
    ∧ ((1 < 3
      ∧ 7 < 256
      ∧ 2 < 256
      ∧ 40000 < 2 ^ 48
      ∧ 88003 < 2 ^ 48
      ∧ 3 < 16
      ∧ wSynced.sync.sent.get 1 = some (7, 16000)
      ∧ wSynced.inServiceGroup 1 = true
      ∧ (∀ (h : Nat), h < 3 → h ≠ 1 → (wSynced.inServiceGroup h || wSynced.grpState h == 12 || wSynced.grpState h == 13) = false)
      ∧ wSynced.isRoot = false
      ∧ 2 % 16 < 15
      ∧ wSynced.sync.set = true
      ∧ 4000000 < ((fun a b => signed 48 (unsigned 48 (↑a - ↑b))) 40000 16000 * 250 - (((fun a b => signed 48 (unsigned 48 (↑a - ↑b))) 40000 16000 + (fun a b => signed 48 (unsigned 48 (↑a - ↑b))) (wSynced.stamp 3) 88003) * 125 + 4 * signed 16 (wSynced.fld (Reg.TB_HOPg_CFG 1) Fld.TB_HOPg_CFG_ASYM))).natAbs)
    ∧ ((withFields (hosted []) [(Reg.GLB_ROLE, Fld.GLB_ROLE_ROLE, 1)]).isRoot = false
      ∧ (withFields (hosted []) [(Reg.GLB_ROLE, Fld.GLB_ROLE_ROLE, 1)]).inBoot = false
      ∧ (withFields (hosted []) [(Reg.GLB_ROLE, Fld.GLB_ROLE_ROLE, 1)]).pickUpstream = none
      ∧ (withFields (hosted []) [(Reg.GLB_ROLE, Fld.GLB_ROLE_ROLE, 1)]).on Reg.TB_SYNC_STATUS Fld.TB_SYNC_STATUS_HOLDOVER = false)) :=
  ⟨⟨by unfold State.readOpen; decide +kernel, by decide +kernel⟩,
    by decide +kernel,
    by decide +kernel,
    by decide +kernel⟩

/-- States and operands that meet what `Obligations.Strobes` supposes. -/
theorem witness_Strobes :
    ((wGen 0 0 wGen0).writeOpen Initiator.mc0 Reg.TB_STB_SW
      ∧ (∀ (j : Nat), j < 32 → (wGen 0 0 wGen0).genSrc j ≠ 4)
      ∧ 6 < 32)
    ∧ ((wGen 0 0 wGen0).writeOpen Initiator.mc0 Reg.TB_STB_START
      ∧ 7 < 32
      ∧ bitB (64#32).toNat 7 = false
      ∧ ((wGen 0 0 wGen0).gen.get 7).stopAt ≠ some (wGen 0 0 wGen0).now
      ∧ bitB (128#32).toNat 7 = true)
    ∧ ((wGen 0 0 wGen0).writeOpen Initiator.mc0 Reg.TB_STB_START
      ∧ 6 < 32
      ∧ bitB (64#32).toNat 6 = true
      ∧ ((wGen 0 0 wGen0).gen.get 6).pulses = [])
    ∧ ((wGen 0 0       (let __src := wGen0;       GenSt.mk __src.stopDue (some 0) __src.phase __src.grid __src.pulses __src.high __src.lastT)).writeOpen   Initiator.mc0 Reg.TB_STB_START
      ∧ 6 < 32
      ∧ ((wGen 0 0             (let __src := wGen0;             GenSt.mk __src.stopDue (some 0) __src.phase __src.grid __src.pulses __src.high __src.lastT)).gen.get       6).stopAt =   some     (wGen 0 0         (let __src := wGen0;         GenSt.mk __src.stopDue (some 0) __src.phase __src.grid __src.pulses __src.high __src.lastT)).now
      ∧ (getNext         (exec (Instr.stbStart Initiator.mc0 192#32 0#32)           (wGen 0 0             (let __src := wGen0;             GenSt.mk __src.stopDue (some 0) __src.phase __src.grid __src.pulses __src.high __src.lastT)))).bit     Reg.TB_STB_RUN 6 =   true)
    ∧ ((wGen 0 0 wGen0).writeOpen Initiator.mc0 Reg.TB_STB_STOP
      ∧ 6 < 32)
    ∧ ((wGen 0 0 (GenSt.mk false none 2 0 [(3000, 3100)] false none)).writeOpen Initiator.mc0 Reg.TB_STB_STOP
      ∧ 6 < 32
      ∧ bitB (64#32).toNat 6 = true
      ∧ (wGen 0 0 (GenSt.mk false none 2 0 [(3000, 3100)] false none)).bit Reg.TB_STB_RUN 6 = true
      ∧ ((wGen 0 0 (GenSt.mk false none 2 0 [(3000, 3100)] false none)).gen.get 6).pulses ≠ [])
    ∧ ((6 < 32
      ∧ (wGen 3 0 wGen0).genSrc 6 = 3
      ∧ (wGen 3 0 wGen0).invar % max 16 ((wGen 3 0 wGen0).genPitch 6) ≤ (wGen 3 0 wGen0).sync.skip
      ∧ ((wGen 3 0 wGen0).gen.get 6).lastT ≠ some ((wGen 3 0 wGen0).invar - (wGen 3 0 wGen0).invar % max 16 ((wGen 3 0 wGen0).genPitch 6))
      ∧ (wGen 3 0 wGen0).genTakes 6 = true
      ∧ ((wGen 3 0 wGen0).gen.get 6).stopDue = false
      ∧ (∀ (j : Nat), j < 32 → ¬((wGen 3 0 wGen0).genSrc j = 4 ∧ (wGen 3 0 wGen0).genIdx j = 6))
      ∧ ((wGen 3 0 wGen0).gen.get 6).pulses = []
      ∧ 5 ≠ 6)
    ∧ (6 < 32
      ∧ (wGen 2 1 wGen0).genSrc 6 = 2
      ∧ (wGen 2 1 wGen0).genIdx 6 < 2
      ∧ (wGen 2 1 wGen0).genTakes 6 = true
      ∧ ((wGen 2 1 wGen0).gen.get 6).stopDue = false
      ∧ 0 ≤ diff38 ((wGen 2 1 wGen0).p64 ((wGen 2 1 wGen0).genIdx 6)) ((wGen 2 1 wGen0).gen.get 6).grid
      ∧ diff38 ((wGen 2 1 wGen0).gen.get 6).grid ((wGen 2 1 wGen0).p64 ((wGen 2 1 wGen0).genIdx 6)) ≤ 0
      ∧ (∀ (j : Nat), j < 32 → ¬((wGen 2 1 wGen0).genSrc j = 4 ∧ (wGen 2 1 wGen0).genIdx j = 6))
      ∧ ((wGen 2 1 wGen0).gen.get 6).pulses = []
      ∧ 5 ≠ 6))
    ∧ ((6 < 32
      ∧ ((wGen 0 0 (GenSt.mk false none 2 0 [(3000, 3100), (3300, 3350)] false none)).gen.get 6).pulses = [(3000, 3100), (3300, 3350)]
      ∧ ((wGen 0 0 (GenSt.mk false none 2 0 [(3000, 3100), (3300, 3350)] false none)).gen.get 6).high = false
      ∧ (3000, 3100).fst ≤ (wGen 0 0 (GenSt.mk false none 2 0 [(3000, 3100), (3300, 3350)] false none)).invar
      ∧ (wGen 0 0 (GenSt.mk false none 2 0 [(3000, 3100), (3300, 3350)] false none)).drivesStrobe 6 = true
      ∧ (∀ (n : Nat), n < 16 → ((wGen 0 0 (GenSt.mk false none 2 0 [(3000, 3100), (3300, 3350)] false none)).port.get n).running = false))
    ∧ (6 < 32
      ∧ ((wGen 0 0 (GenSt.mk true none 2 0 [(3000, 3100)] true none)).gen.get 6).pulses = [(3000, 3100)]
      ∧ ((wGen 0 0 (GenSt.mk true none 2 0 [(3000, 3100)] true none)).gen.get 6).high = true
      ∧ (3000, 3100).snd ≤ (wGen 0 0 (GenSt.mk true none 2 0 [(3000, 3100)] true none)).invar
      ∧ (wGen 0 0 (GenSt.mk true none 2 0 [(3000, 3100)] true none)).drivesStrobe 6 = true)) :=
  ⟨⟨by unfold State.writeOpen; decide +kernel, by decide +kernel⟩,
    ⟨by unfold State.writeOpen; decide +kernel, by decide +kernel⟩,
    ⟨by unfold State.writeOpen; decide +kernel, by decide +kernel⟩,
    ⟨by unfold State.writeOpen; decide +kernel, by decide +kernel⟩,
    ⟨by unfold State.writeOpen; decide +kernel, by decide +kernel⟩,
    ⟨by unfold State.writeOpen; decide +kernel, by decide +kernel⟩,
    by decide +kernel,
    by decide +kernel⟩

/-- States and operands that meet what `Obligations.EncodersAndTriggers` supposes. -/
theorem witness_EncodersAndTriggers :
    (wEncRemote.takeRx 0 6 2 = ((wEncRemote.takeRx 0 6 2).fst, some (wEncRemote.takeRx 0 6 2).snd.get!)
      ∧ 0 < 3
      ∧ 1 < 2
      ∧ (wEncRemote.takeRx 0 6 2).snd.get!.payload = [1, 500, 600, 7, 8]
      ∧ (wEncRemote.takeRx 0 6 2).fst.on (Reg.TB_ENCk_CFG 1) Fld.TB_ENCk_CFG_SRC = true
      ∧ (wEncRemote.takeRx 0 6 2).fst.facesHeadLead 0 = true)
    ∧ ((((((3 < 16
      ∧ bitB (hosted []).trigLevel 3 = !true
      ∧ (hosted []).fld Reg.GLB_RECIPE_CTRL Fld.GLB_RECIPE_CTRL_CODE_STROBE ≠ 3
      ∧ (∀ (j : Nat), j < 32 → ¬((hosted []).genSrc j = 1 ∧ (hosted []).genIdx j = 3))
      ∧ (hosted []).inputTaps 3 = 0)
    ∧ (3 < 16
      ∧ (wFilt 0).inputTaps 3 ≠ 0))
    ∧ (1 < 2
      ∧ (wFilt 0).inputTaps (16 + 2 * 1) ≠ 0))
    ∧ (3 < 16
      ∧ (wFilt 2).inputRaw 3 ≠ (wFilt 2).inputLevel 3
      ∧ (wFilt 2).filter.run.get 3 + 1 < (wFilt 2).inputTaps 3))
    ∧ (3 < 16
      ∧ (wFilt 5).inputRaw 3 ≠ (wFilt 5).inputLevel 3))
    ∧ (1 < 2
      ∧ wEnc.inputTaps (16 + 2 * 1) = 0
      ∧ wEnc.on (Reg.TB_ENCk_CFG 1) Fld.TB_ENCk_CFG_SRC = false
      ∧ wEnc.fld (Reg.TB_ENCk_CFG 1) Fld.TB_ENCk_CFG_MODE = 0
      ∧ (wEnc.bit Reg.TB_PIN_LEVEL (16 + 2 * 1) != true) = !wEnc.bit Reg.TB_PIN_LEVEL (17 + 2 * 1) != false
      ∧ (wEnc.enc.get 1).hist = []))
    ∧ (((1 < 2
      ∧ wEnc.inputTaps (16 + 2 * 1) = 0
      ∧ wEnc.on (Reg.TB_ENCk_CFG 1) Fld.TB_ENCk_CFG_SRC = false
      ∧ wEnc.fld (Reg.TB_ENCk_CFG 1) Fld.TB_ENCk_CFG_MODE = 0
      ∧ (wEnc.bit Reg.TB_PIN_LEVEL (16 + 2 * 1) != false) = !wEnc.bit Reg.TB_PIN_LEVEL (17 + 2 * 1) != true
      ∧ (wEnc.enc.get 1).hist = [])
    ∧ (1 < 2
      ∧ wEnc.inputTaps (16 + 2 * 1) = 0
      ∧ wEnc.on (Reg.TB_ENCk_CFG 1) Fld.TB_ENCk_CFG_SRC = false
      ∧ wEnc.bit Reg.TB_PIN_LEVEL (16 + 2 * 1) = !true
      ∧ wEnc.bit Reg.TB_PIN_LEVEL (17 + 2 * 1) = !true))
    ∧ (1 < 2
      ∧ wEncMoving.on (Reg.TB_ENCk_CFG 1) Fld.TB_ENCk_CFG_SRC = false
      ∧ wEncMoving.bit Reg.TB_STATUS (14 + 1) = false
      ∧ (wEncMoving.enc.get 1).last + 1000 * max 1 (wEncMoving.fld (Reg.TB_ENCk_CFG 1) Fld.TB_ENCk_CFG_STOP_US) ≤ wEncMoving.invar)) :=
  ⟨⟨rfl, by decide +kernel⟩,
    by decide +kernel,
    by decide +kernel⟩

/-- States and operands that meet what `Obligations.ScheduledActions` supposes. -/
theorem witness_ScheduledActions :
    ((wSched 3000).writeOpen Initiator.mc0 (Reg.TB_SCHEDk_CTRL 2)
      ∧ 2 < 8
      ∧ bitB (259#32).toNat 8 = true
      ∧ bitB (259#32).toNat 9 = false
      ∧ (wSched 3000).follows = false
      ∧ (wSched 3000).invar + 2000 ≤ BitVec.toNat ((wSched 3000).reg (Reg.TB_SCHEDk_TIME_LO 2)) + BitVec.toNat ((wSched 3000).reg (Reg.TB_SCHEDk_TIME_HI 2)) * 2 ^ 32)
    ∧ ((wSched 2999).writeOpen Initiator.mc0 (Reg.TB_SCHEDk_CTRL 2)
      ∧ 2 < 8
      ∧ bitB (259#32).toNat 8 = true
      ∧ bitB (259#32).toNat 9 = false
      ∧ (wSched 2999).follows = false
      ∧ BitVec.toNat ((wSched 2999).reg (Reg.TB_SCHEDk_TIME_LO 2)) + BitVec.toNat ((wSched 2999).reg (Reg.TB_SCHEDk_TIME_HI 2)) * 2 ^ 32 < (wSched 2999).invar + 2000)
    ∧ ((wSched 3000).writeOpen Initiator.mc0 (Reg.TB_SCHEDk_CTRL 2)
      ∧ 2 < 8
      ∧ bitB (515#32).toNat 9 = true
      ∧ (wSched 3000).slotDue 2 = false)
    ∧ ((((2 < 8
      ∧ (wSched 5).slotDue 2 = false)
    ∧ (2 < 8
      ∧ (wArmed 2).slotDue 2 = true
      ∧ ((wArmed 2).slot.get 2).action = 2))
    ∧ (2 < 8
      ∧ (wArmed 3).slotDue 2 = true
      ∧ ((wArmed 3).slot.get 2).action = 3
      ∧ 1 < 32
      ∧ bitB ((wArmed 3).slot.get 2).arg 1 = true
      ∧ ((wArmed 3).gen.get 1).stopAt ≠ some (wArmed 3).now))
    ∧ (2 < 8
      ∧ (wArmed 1).slotDue 2 = true
      ∧ ¬((wArmed 1).slot.get 2).action ∈ [2, 3, 4, 5])) :=
  ⟨⟨by unfold State.writeOpen; decide +kernel, by decide +kernel⟩,
    ⟨by unfold State.writeOpen; decide +kernel, by decide +kernel⟩,
    ⟨by unfold State.writeOpen; decide +kernel, by decide +kernel⟩,
    by decide +kernel⟩

/-- States and operands that meet what `Obligations.ChannelCommands` supposes. -/
theorem witness_ChannelCommands :
    ((wChan 0 (wProg []) [(Reg.DMA_CHn_PROG_CFG 3, Fld.DMA_CHn_PROG_CFG_SPACE, 1), (Reg.DMA_CHn_RING_CURSOR 3, ⟨0, 16⟩, 3)]).writeOpen Initiator.pf0 (Reg.DMA_CHn_CTRL 3)
      ∧ 3 < 32
      ∧ (1#32).toNat % 16 = 1
      ∧ (wChan 0 (wProg []) [(Reg.DMA_CHn_PROG_CFG 3, Fld.DMA_CHn_PROG_CFG_SPACE, 1), (Reg.DMA_CHn_RING_CURSOR 3, ⟨0, 16⟩, 3)]).dmaState 3 = 0
      ∧ (wChan 0 (wProg []) [(Reg.DMA_CHn_PROG_CFG 3, Fld.DMA_CHn_PROG_CFG_SPACE, 1), (Reg.DMA_CHn_RING_CURSOR 3, ⟨0, 16⟩, 3)]).shadowLike = false
      ∧ (wChan 0 (wProg []) [(Reg.DMA_CHn_PROG_CFG 3, Fld.DMA_CHn_PROG_CFG_SPACE, 1), (Reg.DMA_CHn_RING_CURSOR 3, ⟨0, 16⟩, 3)]).fld Reg.GLB_ROLE Fld.GLB_ROLE_ROLE ≠ 1
      ∧ (wChan 0 (wProg []) [(Reg.DMA_CHn_PROG_CFG 3, Fld.DMA_CHn_PROG_CFG_SPACE, 1), (Reg.DMA_CHn_RING_CURSOR 3, ⟨0, 16⟩, 3)]).on (Reg.DMA_CHn_BIND 3) Fld.DMA_CHn_BIND_OS_EN = false
      ∧ (wChan 0 (wProg []) [(Reg.DMA_CHn_PROG_CFG 3, Fld.DMA_CHn_PROG_CFG_SPACE, 1), (Reg.DMA_CHn_RING_CURSOR 3, ⟨0, 16⟩, 3)]).on (Reg.DMA_CHn_PROG_CFG 3) Fld.DMA_CHn_PROG_CFG_SPACE = true
      ∧ (wChan 0 (wProg []) [(Reg.DMA_CHn_PROG_CFG 3, Fld.DMA_CHn_PROG_CFG_SPACE, 1), (Reg.DMA_CHn_RING_CURSOR 3, ⟨0, 16⟩, 3)]).progAddr 3 + (wChan 0 (wProg []) [(Reg.DMA_CHn_PROG_CFG 3, Fld.DMA_CHn_PROG_CFG_SPACE, 1), (Reg.DMA_CHn_RING_CURSOR 3, ⟨0, 16⟩, 3)]).progBytes 3 ≤ (wChan 0 (wProg []) [(Reg.DMA_CHn_PROG_CFG 3, Fld.DMA_CHn_PROG_CFG_SPACE, 1), (Reg.DMA_CHn_RING_CURSOR 3, ⟨0, 16⟩, 3)]).fmEnd)
    ∧ ((wChan 1 (wProg []) []).writeOpen Initiator.pf0 (Reg.DMA_CHn_CTRL 3)
      ∧ 3 < 32
      ∧ (2#32).toNat % 16 = 2
      ∧ ((wChan 1 (wProg []) []).dmaState 3 = 1 ∧ (wChan 1 (wProg []) []).dmaMidway 3 = false ∨ (wChan 1 (wProg []) []).dmaState 3 = 2)
      ∧ BitVec.toNat ((wChan 1 (wProg []) []).reg (Reg.DMA_CHn_CPL_LO 3)) % 2 = 0)
    ∧ ((wChan 2 (wProg []) []).writeOpen Initiator.pf0 (Reg.DMA_CHn_CTRL 3)
      ∧ 3 < 32
      ∧ (2#32).toNat % 16 = 2
      ∧ ((wChan 2 (wProg []) []).dmaState 3 = 1 ∧ (wChan 2 (wProg []) []).dmaMidway 3 = false ∨ (wChan 2 (wProg []) []).dmaState 3 = 2)
      ∧ BitVec.toNat ((wChan 2 (wProg []) []).reg (Reg.DMA_CHn_CPL_LO 3)) % 2 = 0)
    ∧ ((wChan 3 (wProg []) []).writeOpen Initiator.pf0 (Reg.DMA_CHn_CTRL 3)
      ∧ 3 < 32
      ∧ (4#32).toNat % 16 = 4
      ∧ (wChan 3 (wProg []) []).dmaState 3 = 3
      ∧ (wChan 3 (wProg []) []).on (Reg.DMA_CHn_BIND 3) Fld.DMA_CHn_BIND_OS_EN = false
      ∧ ((wChan 3 (wProg []) []).dma.get 3).reads = [])
    ∧ ((wChan 2 (wProg []) []).writeOpen Initiator.pf0 (Reg.DMA_CHn_CTRL 3)
      ∧ 3 < 32
      ∧ bitB (8#32).toNat 3 = true
      ∧ (wChan 2 (wProg []) []).on (Reg.DMA_CHn_BIND 3) Fld.DMA_CHn_BIND_OS_EN = false)
    ∧ ((wChan 5 (wProg []) []).writeOpen Initiator.pf0 (Reg.DMA_CHn_CTRL 3)
      ∧ 3 < 32
      ∧ bitB (8#32).toNat 3 = true
      ∧ (wChan 5 (wProg []) []).on (Reg.DMA_CHn_BIND 3) Fld.DMA_CHn_BIND_OS_EN = false) :=
  ⟨⟨by unfold State.writeOpen; decide +kernel, by decide +kernel⟩,
    ⟨by unfold State.writeOpen; decide +kernel, by decide +kernel⟩,
    ⟨by unfold State.writeOpen; decide +kernel, by decide +kernel⟩,
    ⟨by unfold State.writeOpen; decide +kernel, by decide +kernel⟩,
    ⟨by unfold State.writeOpen; decide +kernel, by decide +kernel⟩,
    ⟨by unfold State.writeOpen; decide +kernel, by decide +kernel⟩⟩

/-- States and operands that meet what `Obligations.ChannelCommands` supposes. -/
theorem witness_ChannelCommands_2 :
    ((wChan 5 (wProg []) []).writeOpen Initiator.pf0 (Reg.DMA_CHn_CTRL 3)
      ∧ 3 < 32
      ∧ (2#32).toNat % 16 = 2
      ∧ (4#32).toNat % 16 = 4
      ∧ (wChan 5 (wProg []) []).dmaState 3 ∈ [0, 5]
      ∧ (wChan 5 (wProg []) []).leadsPair = false)
    ∧ ((wChan 0 (wProg []) []).writeOpen Initiator.pf0 (Reg.DMA_CHn_CTRL 3)
      ∧ 3 < 32
      ∧ (2#32).toNat % 16 = 2
      ∧ (4#32).toNat % 16 = 4
      ∧ (wChan 0 (wProg []) []).dmaState 3 ∈ [0, 5]
      ∧ (wChan 0 (wProg []) []).leadsPair = false)
    ∧ ((wWait 2 65520 0 0 true).writeOpen Initiator.pf0 (Reg.DMA_CHn_SEM_ADD 3)
      ∧ 3 < 32)
    ∧ ((wChan 0 (wProg []) [(Reg.GLB_ROLE, Fld.GLB_ROLE_ROLE, 1)]).writeOpen Initiator.mc0 (Reg.DMA_CHn_CTRL 3)
      ∧ 3 < 32
      ∧ (1#32).toNat % 16 = 1
      ∧ (wChan 0 (wProg []) [(Reg.GLB_ROLE, Fld.GLB_ROLE_ROLE, 1)]).dmaState 3 = 0
      ∧ (wChan 0 (wProg []) [(Reg.GLB_ROLE, Fld.GLB_ROLE_ROLE, 1)]).fld Reg.GLB_ROLE Fld.GLB_ROLE_ROLE = 1) :=
  ⟨⟨by unfold State.writeOpen; decide +kernel, by decide +kernel⟩,
    ⟨by unfold State.writeOpen; decide +kernel, by decide +kernel⟩,
    ⟨by unfold State.writeOpen; decide +kernel, by decide +kernel⟩,
    ⟨by unfold State.writeOpen; decide +kernel, by decide +kernel⟩⟩

/-- States and operands that meet what `Obligations.ChannelPrograms` supposes. -/
theorem witness_ChannelPrograms :
    ((wChan 1 (wProg [2 + 2 ^ 8, 3, 64, 4294967295]) []).channelAt 3 2 1
      ∧ ((wChan 1 (wProg [2 + 2 ^ 8, 3, 64, 4294967295]) []).dma.get 3).pc + 1 + (wChan 1 (wProg [2 + 2 ^ 8, 3, 64, 4294967295]) []).dmaBits 3 8 6 ≤ (wChan 1 (wProg [2 + 2 ^ 8, 3, 64, 4294967295]) []).dmaLen 3)
    ∧ ((wWait 1 2 0 0 false).channelAt 3 3 1
      ∧ (wWait 1 2 0 0 false).dmaBits 3 8 3 ≠ 2
      ∧ (wWait 1 2 0 0 false).semForeign 3 = false
      ∧ ((wWait 1 2 0 0 false).dma.get 3).waiting = false
      ∧ (wWait 1 2 0 0 false).waitMet 3 = true)
    ∧ ((wWait 1 1 0 0 false).channelAt 3 3 1
      ∧ (wWait 1 1 0 0 false).dmaBits 3 8 3 ≠ 2
      ∧ (wWait 1 1 0 0 false).semForeign 3 = false
      ∧ ((wWait 1 1 0 0 false).dma.get 3).waiting = false
      ∧ (wWait 1 1 0 0 false).waitMet 3 = false)
    ∧ ((wWait 2 5 0 0 true).channelAt 3 3 2
      ∧ ((wWait 2 5 0 0 true).dma.get 3).waiting = true
      ∧ (wWait 2 5 0 0 true).waitMet 3 = true)
    ∧ ((wWait 2 1 0 10000 true).channelAt 3 3 2
      ∧ ((wWait 2 1 0 10000 true).dma.get 3).waiting = true
      ∧ (wWait 2 1 0 10000 true).waitMet 3 = false
      ∧ (wWait 2 1 0 10000 true).dmaWord 3 2 ≠ 0
      ∧ ((wWait 2 1 0 10000 true).dma.get 3).since + 1000 * (wWait 2 1 0 10000 true).dmaWord 3 2 ≤ (wWait 2 1 0 10000 true).now
      ∧ BitVec.toNat ((wWait 2 1 0 10000 true).reg (Reg.DMA_CHn_CPL_LO 3)) % 2 = 0
      ∧ (wWait 2 1 0 10000 true).dmaBits 3 11 2 < 2)
    ∧ ((wWait 2 1 1 10000 true).channelAt 3 3 2
      ∧ ((wWait 2 1 1 10000 true).dma.get 3).waiting = true
      ∧ (wWait 2 1 1 10000 true).waitMet 3 = false
      ∧ (wWait 2 1 1 10000 true).dmaWord 3 2 ≠ 0
      ∧ ((wWait 2 1 1 10000 true).dma.get 3).since + 1000 * (wWait 2 1 1 10000 true).dmaWord 3 2 ≤ (wWait 2 1 1 10000 true).now
      ∧ BitVec.toNat ((wWait 2 1 1 10000 true).reg (Reg.DMA_CHn_CPL_LO 3)) % 2 = 0
      ∧ (wWait 2 1 1 10000 true).dmaBits 3 11 2 < 2) :=
  ⟨⟨by unfold State.channelAt; decide +kernel, by decide +kernel⟩,
    ⟨by unfold State.channelAt; decide +kernel, by decide +kernel⟩,
    ⟨by unfold State.channelAt; decide +kernel, by decide +kernel⟩,
    ⟨by unfold State.channelAt; decide +kernel, by decide +kernel⟩,
    ⟨by unfold State.channelAt; decide +kernel, by decide +kernel⟩,
    ⟨by unfold State.channelAt; decide +kernel, by decide +kernel⟩⟩

/-- States and operands that meet what `Obligations.ChannelPrograms` supposes. -/
theorem witness_ChannelPrograms_2 :
    ((wWait 2 1 2 10000 true).channelAt 3 3 2
      ∧ ((wWait 2 1 2 10000 true).dma.get 3).waiting = true
      ∧ (wWait 2 1 2 10000 true).waitMet 3 = false
      ∧ (wWait 2 1 2 10000 true).dmaWord 3 2 ≠ 0
      ∧ ((wWait 2 1 2 10000 true).dma.get 3).since + 1000 * (wWait 2 1 2 10000 true).dmaWord 3 2 ≤ (wWait 2 1 2 10000 true).now
      ∧ BitVec.toNat ((wWait 2 1 2 10000 true).reg (Reg.DMA_CHn_CPL_LO 3)) % 2 = 0
      ∧ 2 ≤ (wWait 2 1 2 10000 true).dmaBits 3 11 2)
    ∧ (wSignal.channelAt 3 4 1
      ∧ wSignal.dmaBits 3 11 1 = 0
      ∧ (wSignal.dmaWord 3 4 + wSignal.dmaWord 3 5 * 2 ^ 32) % 4 = 0
      ∧ wSignal.dmaOwner 3 ≠ 3
      ∧ wSignal.dmaCan 3 = true
      ∧ wSignal.dmaWord 3 5 < 2 ^ 32
      ∧ wSignal.dmaWord 3 4 < 2 ^ 32
      ∧ wSignal.dmaBits 3 9 1 = 1
      ∧ wSignal.dmaBits 3 8 1 = 1)
    ∧ ((3 < 32
      ∧ wLoad.shadowLike = false
      ∧ wLoad.leadsPair = false
      ∧ (wLoad.dma.get 3).loading = true
      ∧ wLoad.dmaState 3 = 1
      ∧ wLoad.on (Reg.DMA_CHn_PROG_CFG 3) Fld.DMA_CHn_PROG_CFG_SPACE = false
      ∧ ((wLoad.dma.get 3).reads.all fun r => r.got.length == r.len) = true
      ∧ (wLoad.dma.get 3).haltDue = false
      ∧ 8 ≤ (wordsOf (List.flatMap (fun r => r.got) (wLoad.dma.get 3).reads)).length
      ∧ badInstr ((wordsOf (List.flatMap (fun r => r.got) (wLoad.dma.get 3).reads)).getD 0 0) = false)
    ∧ (3 < 32
      ∧ wLoop5.shadowLike = false
      ∧ (wLoop5.dma.get 3).loading = false
      ∧ wLoop5.dmaOp 3 = 2
      ∧ wLoop5.dmaState 3 = 1
      ∧ 4 ≤ (wLoop5.dma.get 3).loops.length
      ∧ BitVec.toNat (wLoop5.reg (Reg.DMA_CHn_CPL_LO 3)) % 2 = 0
      ∧ wLoop5.on (Reg.DMA_CHn_BIND 3) Fld.DMA_CHn_BIND_OS_EN = false))
    ∧ (3 < 32
      ∧ (wChan 1 (wProg [5]) []).shadowLike = false
      ∧ ((wChan 1 (wProg [5]) []).dma.get 3).loading = false
      ∧ (wChan 1 (wProg [5]) []).dmaOp 3 = 5
      ∧ (wChan 1 (wProg [5]) []).dmaState 3 = 1
      ∧ BitVec.toNat ((wChan 1 (wProg [5]) []).reg (Reg.DMA_CHn_CPL_LO 3)) % 2 = 0
      ∧ (wChan 1 (wProg [5]) []).on (Reg.DMA_CHn_BIND 3) Fld.DMA_CHn_BIND_OS_EN = false) :=
  ⟨⟨by unfold State.channelAt; decide +kernel, by decide +kernel⟩,
    ⟨by unfold State.channelAt; decide +kernel, by decide +kernel⟩,
    by decide +kernel,
    by decide +kernel⟩

/-- States and operands that meet what `Obligations.ChannelMoves` supposes. -/
theorem witness_ChannelMoves :
    (wMove.channelAt 3 1 1
      ∧ (∀ (k : Nat), wMove.mvSrcAddr 3 / 64 ≤ k → k ≤ (wMove.mvSrcAddr 3 + wMove.mvLen 3 - 1) / 64 → wMove.fmOutcome k 0 = 0 ∧ wMove.fm.link.get k = (0, 0))
      ∧ wMove.mvMode 3 = 0
      ∧ wMove.mvSrc 3 = 1
      ∧ wMove.mvDst 3 = 0
      ∧ wMove.mvErr 3 = none
      ∧ wMove.dmaCan 3 = true
      ∧ (wMove.dma.get 3).off = 0
      ∧ (wMove.dma.get 3).done = 0
      ∧ 0 < wMove.mvLen 3
      ∧ wMove.mvSrcAddr 3 % 4096 + wMove.mvLen 3 ≤ 4096)
    ∧ ((wMoveLine 2).channelAt 3 1 1
      ∧ (wMoveLine 2).mvMode 3 = 1
      ∧ (wMoveLine 2).mvSrc 3 = 2
      ∧ (wMoveLine 2).mvDst 3 = 2
      ∧ (wMoveLine 2).mvErr 3 = none
      ∧ (wMoveLine 2).dmaCan 3 = true
      ∧ ((wMoveLine 2).os.get ((wMoveLine 2).fld (Reg.DMA_CHn_BIND 3) Fld.DMA_CHn_BIND_OS)).lineQ = [wItem 0]
      ∧ ((wMoveLine 2).os.get ((wMoveLine 2).fld (Reg.DMA_CHn_BIND 3) Fld.DMA_CHn_BIND_OS)).held = []
      ∧ (wItem 0).again = false
      ∧ (wItem 0).bytes ≠ []
      ∧ (wItem 0).bytes.length ≤ 64 * max 1 ((wMoveLine 2).fld (Reg.DMA_CHn_RING_CFG 3) Fld.DMA_CHn_RING_CFG_SLOT_SIZE)
      ∧ BitVec.toNat ((wMoveLine 2).reg (Reg.DMA_CHn_RING_BASE_LO 3)) / 64 * 64 + BitVec.toNat ((wMoveLine 2).reg (Reg.DMA_CHn_RING_BASE_HI 3)) * 2 ^ 32 + BitVec.toNat ((wMoveLine 2).reg (Reg.DMA_CHn_RING_CURSOR 3)) * (64 * max 1 ((wMoveLine 2).fld (Reg.DMA_CHn_RING_CFG 3) Fld.DMA_CHn_RING_CFG_SLOT_SIZE)) < 2 ^ 64
      ∧ 0 < BitVec.toNat ((wMoveLine 2).reg (Reg.DMA_CHn_SEM 3)))
    ∧ ((wMoveLine 0).channelAt 3 1 1
      ∧ (wMoveLine 0).mvMode 3 = 1
      ∧ (wMoveLine 0).mvSrc 3 = 2
      ∧ (wMoveLine 0).mvDst 3 = 2
      ∧ (wMoveLine 0).mvErr 3 = none
      ∧ (wMoveLine 0).dmaCan 3 = true
      ∧ ((wMoveLine 0).os.get ((wMoveLine 0).fld (Reg.DMA_CHn_BIND 3) Fld.DMA_CHn_BIND_OS)).lineQ = [wItem 0]
      ∧ ((wMoveLine 0).os.get ((wMoveLine 0).fld (Reg.DMA_CHn_BIND 3) Fld.DMA_CHn_BIND_OS)).held = []
      ∧ (wItem 0).again = false
      ∧ (wItem 0).bytes ≠ []
      ∧ (wItem 0).bytes.length ≤ 64 * max 1 ((wMoveLine 0).fld (Reg.DMA_CHn_RING_CFG 3) Fld.DMA_CHn_RING_CFG_SLOT_SIZE)
      ∧ BitVec.toNat ((wMoveLine 0).reg (Reg.DMA_CHn_RING_BASE_LO 3)) / 64 * 64 + BitVec.toNat ((wMoveLine 0).reg (Reg.DMA_CHn_RING_BASE_HI 3)) * 2 ^ 32 + BitVec.toNat ((wMoveLine 0).reg (Reg.DMA_CHn_RING_CURSOR 3)) * (64 * max 1 ((wMoveLine 0).fld (Reg.DMA_CHn_RING_CFG 3) Fld.DMA_CHn_RING_CFG_SLOT_SIZE)) < 2 ^ 64
      ∧ BitVec.toNat ((wMoveLine 0).reg (Reg.DMA_CHn_SEM 3)) = 0)
    ∧ ((wMoveDoc []).channelAt 3 1 1
      ∧ (∀ (h : OsItem) (rest : List OsItem), ((wMoveDoc []).os.get ((wMoveDoc []).fld (Reg.DMA_CHn_BIND 3) Fld.DMA_CHn_BIND_OS)).docQ = h :: rest → ((wMoveDoc []).dma.get 3).doc = none ∨ ((wMoveDoc []).dma.get 3).doc = some h.doc)
      ∧ (wMoveDoc []).mvMode 3 = 2
      ∧ (wMoveDoc []).mvErr 3 = none
      ∧ ((wMoveDoc []).os.get ((wMoveDoc []).fld (Reg.DMA_CHn_BIND 3) Fld.DMA_CHn_BIND_OS)).lineQ = [])
    ∧ ((wMoveDoc [wItem 2]).channelAt 3 1 1
      ∧ (∀ (h : OsItem) (rest : List OsItem), ((wMoveDoc [wItem 2]).os.get ((wMoveDoc [wItem 2]).fld (Reg.DMA_CHn_BIND 3) Fld.DMA_CHn_BIND_OS)).docQ = h :: rest → ((wMoveDoc [wItem 2]).dma.get 3).doc = none ∨ ((wMoveDoc [wItem 2]).dma.get 3).doc = some h.doc)
      ∧ (wMoveDoc [wItem 2]).mvMode 3 = 2
      ∧ (wMoveDoc [wItem 2]).mvErr 3 = none
      ∧ ((wMoveDoc [wItem 2]).os.get ((wMoveDoc [wItem 2]).fld (Reg.DMA_CHn_BIND 3) Fld.DMA_CHn_BIND_OS)).lineQ = [])
    ∧ ((wShadowChan [48, 5, 0, 0, 0, 0, 0, 0, 0]).takeItem 2 7 4 = (((wShadowChan [48, 5, 0, 0, 0, 0, 0, 0, 0]).takeItem 2 7 4).fst, some (((wShadowChan [48, 5, 0, 0, 0, 0, 0, 0, 0]).takeItem 2 7 4).snd.get!.fst, [3 * 16, 5, 0, 0, 0, 0, 0, 0, 0]))
      ∧ 3 < 32
      ∧ ((wShadowChan [48, 5, 0, 0, 0, 0, 0, 0, 0]).takeItem 2 7 4).fst.dmaQuiet 3 = true
      ∧ ((wShadowChan [48, 5, 0, 0, 0, 0, 0, 0, 0]).takeItem 2 7 4).fst.dmaState 3 ≠ 1) :=
  ⟨⟨by unfold State.channelAt; decide +kernel, fun k h l => (by decide +kernel : ∀ k, k < (wMove.mvSrcAddr 3 + wMove.mvLen 3 - 1) / 64 + 1 → wMove.mvSrcAddr 3 / 64 ≤ k → wMove.fmOutcome k 0 = 0 ∧ wMove.fm.link.get k = (0, 0)) k (Nat.lt_succ_of_le l) h, by decide +kernel⟩,
    ⟨by unfold State.channelAt; decide +kernel, by decide +kernel⟩,
    ⟨by unfold State.channelAt; decide +kernel, by decide +kernel⟩,
    ⟨by unfold State.channelAt; decide +kernel, fun _ _ _ => Or.inl rfl, by decide +kernel⟩,
    ⟨by unfold State.channelAt; decide +kernel, fun _ _ _ => Or.inl rfl, by decide +kernel⟩,
    ⟨rfl, by decide +kernel⟩⟩

/-- States and operands that meet what `Obligations.ChannelMoves` supposes. -/
theorem witness_ChannelMoves_2 :
    ((wShadowChan [49, 1, 2, 3, 4]).takeItem 2 7 4 = (((wShadowChan [49, 1, 2, 3, 4]).takeItem 2 7 4).fst, some (((wShadowChan [49, 1, 2, 3, 4]).takeItem 2 7 4).snd.get!.fst, [1 + 3 * 16, 1, 2, 3, 4]))
      ∧ 3 < 32
      ∧ ((wShadowChan [49, 1, 2, 3, 4]).takeItem 2 7 4).fst.dmaQuiet 3 = true)
    ∧ (3 < 32
      ∧ (wPairLead.dma.get 3).unack = [(1, 2, 3, 4)]
      ∧ wPairLead.leadsPair = true
      ∧ wPairLead.dmaMirrored 3 = true) :=
  ⟨⟨rfl, by decide +kernel⟩,
    by decide +kernel⟩

/-- States and operands that meet what `Obligations.ConfigurationSpace` supposes. -/
theorem witness_ConfigurationSpace :
    ((((2 < 4
      ∧ 4 < 4096
      ∧ 4 % 4 = 0
      ∧ wReset2.pcie.perst = false
      ∧ wReset2.cfgRetry 2 = true)
    ∧ (0 < 4
      ∧ 0 < 4096
      ∧ 0 % 4 = 0
      ∧ (hosted []).pcie.perst = false
      ∧ (hosted []).cfgRetry 0 = false))
    ∧ (1 < 4
      ∧ 60 < 4096
      ∧ 60 % 4 = 0
      ∧ (hosted []).pcie.perst = false
      ∧ (hosted []).cfgRetry 1 = false))
    ∧ (1 < 4
      ∧ bitB 15 0 = true
      ∧ (hosted []).pcie.perst = false
      ∧ (hosted []).cfgRetry 1 = false
      ∧ 0 ≠ 1))
    ∧ (((0 < 4
      ∧ (wChan 2 (wProg []) []).pcie.perst = false
      ∧ (wChan 2 (wProg []) []).cfgRetry 0 = false
      ∧ (wChan 2 (wProg []) []).busMaster 0 = true
      ∧ (wChan 2 (wProg []) []).inD0 0 = true
      ∧ 3 < 32)
    ∧ (2 < 4
      ∧ (hosted []).pcie.perst = false
      ∧ (hosted []).cfgRetry 2 = false
      ∧ (hosted []).busMaster 2 = true
      ∧ (hosted []).inD0 2 = true
      ∧ 3 < 32))
    ∧ (2 < 4
      ∧ wSession.pcie.perst = false
      ∧ wSession.cfgRetry 2 = false
      ∧ wSession.boot.resetDue = none
      ∧ 2 = 2))
    ∧ ((((0 < 4
      ∧ (wChan 2 (wProg []) []).pcie.perst = false
      ∧ (wChan 2 (wProg []) []).cfgRetry 0 = false
      ∧ (wChan 2 (wProg []) []).boot.resetDue = none
      ∧ 0 ≠ 2
      ∧ 3 < 32
      ∧ (wChan 2 (wProg []) []).dmaOwner 3 = 0
      ∧ (wChan 2 (wProg []) []).dmaQuiet 3 = false)
    ∧ (2 < 4
      ∧ wReset2.flrUntil.get 2 = some 10))
    ∧ (9 < 64
      ∧ (hosted []).pcie.perst = false
      ∧ (hosted []).cfgRetry 0 = false))
    ∧ (15 < 64
      ∧ (hosted []).pcie.perst = false
      ∧ (hosted []).cfgRetry 0 = false)) :=
  ⟨by decide +kernel,
    by decide +kernel,
    by decide +kernel⟩

/-- States and operands that meet what `Obligations.EndpointEvents` supposes. -/
theorem witness_EndpointEvents :
    ((((((hosted []).pcie.perst = false
      ∧ (hosted []).boot.resetDue = none
      ∧ 1 < 4)
    ∧ (wLinkUp.pcie.perst = false
      ∧ wLinkUp.boot.resetDue = none
      ∧ wLinkUp.on Reg.GLB_PCIE_STATUS Fld.GLB_PCIE_STATUS_LINK_UP = true
      ∧ 1 < 4))
    ∧ (1 ≤ 4
      ∧ 4 ≤ 5
      ∧ 8 ∈ [1, 2, 4, 8, 16]
      ∧ (hosted [(Reg.GLB_PCIE_MIN, 4101)]).pcie.perst = false
      ∧ (4 < (hosted [(Reg.GLB_PCIE_MIN, 4101)]).fld Reg.GLB_PCIE_MIN Fld.GLB_PCIE_MIN_MIN_SPEED ∨ 8 < (hosted [(Reg.GLB_PCIE_MIN, 4101)]).fld Reg.GLB_PCIE_MIN Fld.GLB_PCIE_MIN_MIN_WIDTH)))
    ∧ (1 ≤ 4
      ∧ 4 ≤ 5
      ∧ 8 ∈ [1, 2, 4, 8, 16]
      ∧ (hosted []).pcie.perst = false
      ∧ (¬(4 < (hosted []).fld Reg.GLB_PCIE_MIN Fld.GLB_PCIE_MIN_MIN_SPEED ∨ 8 < (hosted []).fld Reg.GLB_PCIE_MIN Fld.GLB_PCIE_MIN_MIN_WIDTH))))
    ∧ (0 < 4
      ∧ 9 < 1024
      ∧ ([] : List Nat).length ≤ 4096
      ∧ (wReading []).tagChannel 9 = some 3
      ∧ 1 ≠ 0
      ∧ BitVec.toNat ((wReading []).reg (Reg.DMA_CHn_CPL_LO 3)) % 2 = 0
      ∧ (wReading []).on (Reg.DMA_CHn_BIND 3) Fld.DMA_CHn_BIND_OS_EN = false))
    ∧ (((0 < 4
      ∧ 9 < 1024
      ∧ (wReading []).tagChannel 9 = some 3
      ∧ ((wReading []).dma.get 3).loading = true
      ∧ ((wReading []).dma.get 3).reads = [wRead 4 [] (some 9)]
      ∧ (wRead 4 [] (some 9)).tag = some 9
      ∧ (wRead 4 [] (some 9)).got = []
      ∧ [1, 2, 3, 4].length = (wRead 4 [] (some 9)).len
      ∧ [1, 2, 3, 4].length ≤ 4096
      ∧ (∀ (x : Nat), x ∈ [1, 2, 3, 4] → x < 256))
    ∧ (0 < 4
      ∧ 9 < 1024
      ∧ [1].length ≤ 4096
      ∧ wQuar.tagChannel 9 = none
      ∧ List.find? (fun o => o.fst == 9) wQuar.pcie.owed = none
      ∧ (wQuar.pcie.quar.any fun q => q.fst == 9) = true))
    ∧ (0 < 4
      ∧ 8 < 1024
      ∧ [1].length ≤ 4096
      ∧ wQuar.tagChannel 8 = none
      ∧ List.find? (fun o => o.fst == 8) wQuar.pcie.owed = none
      ∧ (wQuar.pcie.quar.any fun q => q.fst == 8) = false))
    ∧ (((((1 < 4
      ∧ 9 < 1024
      ∧ [1, 2].length ≤ 4096
      ∧ (hosted []).tagChannel 9 = none
      ∧ List.find? (fun o => o.fst == 9) (hosted []).pcie.owed = none
      ∧ ((hosted []).pcie.quar.any fun q => q.fst == 9) = false)
    ∧ (9 < 1024
      ∧ wOwedTlp.tagChannel 9 = none
      ∧ List.find? (fun o => o.fst == 9) wOwedTlp.pcie.owed = some (9, 0, 64, true, 0)
      ∧ wOwedTlp.ctoDue 0 0 = true))
    ∧ (9 < 1024
      ∧ wEndpointEvents1.tagChannel 9 = some 3
      ∧ (wEndpointEvents1.dma.get 3).reads = [wRead 4 [] (some 9)]
      ∧ (wRead 4 [] (some 9)).tag = some 9
      ∧ bitB (BitVec.toNat (wEndpointEvents1.cfgReg (wEndpointEvents1.dmaOwner 3) 120)) 4 = false
      ∧ (wRead 4 [] (some 9)).since + (wEndpointEvents1.ctoRange (wEndpointEvents1.dmaOwner 3)).fst ≤ wEndpointEvents1.now
      ∧ BitVec.toNat (wEndpointEvents1.reg (Reg.DMA_CHn_CPL_LO 3)) % 2 = 0
      ∧ wEndpointEvents1.on (Reg.DMA_CHn_BIND 3) Fld.DMA_CHn_BIND_OS_EN = false))
    ∧ (0 < 4
      ∧ 3 < 256
      ∧ ((wVector []).msixReq.contains (0, 3) || (wVector []).pbaBit 0 3) = true))
    ∧ (0 < 4
      ∧ 3 < 256
      ∧ (wEndpointEvents2.msixReq.contains (0, 3) || wEndpointEvents2.pbaBit 0 3) = true)) :=
  ⟨by decide +kernel,
    by decide +kernel,
    by decide +kernel⟩

/-- States and operands that meet what `Obligations.LaneTraining` supposes. -/
theorem witness_LaneTraining :
    (((1 < 3
      ∧ (wGrp 1 1 id).grpState 1 = 1)
    ∧ (lanesOk 1 (wLanes 1 0) = true
      ∧ 1 < 256
      ∧ 4 < 256
      ∧ 0 < 256
      ∧ (wGrp 1 2 wTrain1).grpState 1 = 2
      ∧ ((wGrp 1 2 wTrain1).grp.get 1).train.short = false
      ∧ (∀ (l : TsLane), l ∈ wLanes 1 0 → l.inv = false)))
    ∧ (lanesOk 1 (wLanes 1 0) = true
      ∧ 1 < 256
      ∧ 4 < 256
      ∧ 0 < 256
      ∧ (wGrp 1 2 wTrain2).grpState 1 = 2
      ∧ ((wGrp 1 2 wTrain2).grp.get 1).train.short = false
      ∧ (∀ (l : TsLane), l ∈ wLanes 1 0 → l.inv = false)))
    ∧ ((lanesOk 1 (wLanes 1 (wWho 1 0).snd.fst) = true
      ∧ (wWho 1 0).fst < 256
      ∧ (wWho 1 0).snd.snd < 256
      ∧ 0 < 256
      ∧ (wWho 1 0).snd.fst < 4
      ∧ (wGrp 1 3 wTrain3).grpState 1 = 3
      ∧ (∀ (l : TsLane), l ∈ wLanes 1 (wWho 1 0).snd.fst → l.lane / 16 % 4 = (wWho 1 0).snd.fst)
      ∧ List.map (fun l => l.lane % 16) (wLanes 1 (wWho 1 0).snd.fst) ∈ [List.range (laneCount 1), (List.range (laneCount 1)).reverse]
      ∧ (wGrp 1 3 wTrain3).identity 1 (wWho 1 0).fst (wWho 1 0).snd.snd (wWho 1 0).snd.fst = 0)
    ∧ (lanesOk 1 (wLanes 1 (wWho 1 1).snd.fst) = true
      ∧ (wWho 1 1).fst < 256
      ∧ (wWho 1 1).snd.snd < 256
      ∧ 0 < 256
      ∧ (wWho 1 1).snd.fst < 4
      ∧ (wGrp 1 3 wTrain3).grpState 1 = 3
      ∧ (∀ (l : TsLane), l ∈ wLanes 1 (wWho 1 1).snd.fst → l.lane / 16 % 4 = (wWho 1 1).snd.fst)
      ∧ List.map (fun l => l.lane % 16) (wLanes 1 (wWho 1 1).snd.fst) ∈ [List.range (laneCount 1), (List.range (laneCount 1)).reverse]
      ∧ (wGrp 1 3 wTrain3).identity 1 (wWho 1 1).fst (wWho 1 1).snd.snd (wWho 1 1).snd.fst = 1))
    ∧ (((lanesOk 1 (wLanes 1 (wWho 1 2).snd.fst) = true
      ∧ (wWho 1 2).fst < 256
      ∧ (wWho 1 2).snd.snd < 256
      ∧ 0 < 256
      ∧ (wWho 1 2).snd.fst < 4
      ∧ (wGrp 1 3 wTrain4).grpState 1 = 3
      ∧ (∀ (l : TsLane), l ∈ wLanes 1 (wWho 1 2).snd.fst → l.lane / 16 % 4 = (wWho 1 2).snd.fst)
      ∧ List.map (fun l => l.lane % 16) (wLanes 1 (wWho 1 2).snd.fst) ∈ [List.range (laneCount 1), (List.range (laneCount 1)).reverse]
      ∧ (wGrp 1 3 wTrain4).identity 1 (wWho 1 2).fst (wWho 1 2).snd.snd (wWho 1 2).snd.fst = 2)
    ∧ (lanesOk 2 (wLanes 2 (wWho 2 3).snd.fst) = true
      ∧ (wWho 2 3).fst < 256
      ∧ (wWho 2 3).snd.snd < 256
      ∧ 0 < 256
      ∧ (wWho 2 3).snd.fst < 4
      ∧ (wGrp 2 3 wTrain4).grpState 2 = 3
      ∧ (∀ (l : TsLane), l ∈ wLanes 2 (wWho 2 3).snd.fst → l.lane / 16 % 4 = (wWho 2 3).snd.fst)
      ∧ List.map (fun l => l.lane % 16) (wLanes 2 (wWho 2 3).snd.fst) ∈ [List.range (laneCount 2), (List.range (laneCount 2)).reverse]
      ∧ (wGrp 2 3 wTrain4).identity 2 (wWho 2 3).fst (wWho 2 3).snd.snd (wWho 2 3).snd.fst = 3))
    ∧ (lanesOk 1 wTwist = true
      ∧ 1 < 256
      ∧ 4 < 256
      ∧ 0 < 256
      ∧ (wGrp 1 3 wTrain4).grpState 1 = 3
      ∧ ¬List.map (fun l => l.lane % 16) wTwist ∈ [List.range (laneCount 1), (List.range (laneCount 1)).reverse]))
    ∧ ((((1 < 3
      ∧ (withFields (wGrp 1 4 id) [(Reg.LNK_Gg_CFG 1, Fld.LNK_Gg_CFG_ADAPT, 1)]).grpState 1 = 4)
    ∧ (1 < 3
      ∧ (wGrp 1 4 wTrain11).grpState 1 = 4
      ∧ ((wGrp 1 4 wTrain11).grp.get 1).train.adapt = true))
    ∧ (1 < 3
      ∧ 2 < laneCount 1
      ∧ 21 < 64
      ∧ (wGrp 1 5 wTrain5).grpState 1 = 5
      ∧ ((wGrp 1 5 wTrain5).grp.get 1).train.eqDone = false
      ∧ ((wGrp 1 5 wTrain5).grp.get 1).train.tried.get 2 < (wGrp 1 5 wTrain5).eqCount 1
      ∧ (wGrp 1 5 wTrain5).eqEchoed 1 2 = true
      ∧ ((((wGrp 1 5 wTrain5).grp.get 1).train.best.get 2).fst = 0 ∨ (((wGrp 1 5 wTrain5).grp.get 1).train.best.get 2).snd < 21)))
    ∧ (1 < 3
      ∧ 2 < laneCount 1
      ∧ 19 < 64
      ∧ (wGrp 1 5 wTrain5).grpState 1 = 5
      ∧ ((wGrp 1 5 wTrain5).grp.get 1).train.eqDone = false
      ∧ ((wGrp 1 5 wTrain5).grp.get 1).train.tried.get 2 < (wGrp 1 5 wTrain5).eqCount 1
      ∧ (wGrp 1 5 wTrain5).eqEchoed 1 2 = true
      ∧ (((wGrp 1 5 wTrain5).grp.get 1).train.best.get 2).fst ≠ 0
      ∧ 19 < (((wGrp 1 5 wTrain5).grp.get 1).train.best.get 2).snd))
    ∧ (((lanesOk 1 (wLanes 1 0) = true
      ∧ 1 < 256
      ∧ 4 < 256
      ∧ 0 < 256
      ∧ (wGrp 1 6 wTrain6).grpState 1 = 6
      ∧ ((wGrp 1 6 wTrain6).grp.get 1).train.short = false
      ∧ ((wGrp 1 6 wTrain6).grp.get 1).train.again = false)
    ∧ (lanesOk 2 (wLanes 2 0) = true
      ∧ 1 < 256
      ∧ 4 < 256
      ∧ 0 < 256
      ∧ (wGrp 2 6 wTrain6).grpState 2 = 6
      ∧ ((wGrp 2 6 wTrain6).grp.get 2).train.short = false
      ∧ ((wGrp 2 6 wTrain6).grp.get 2).train.again = false))
    ∧ (lanesOk 1 (wLanes 1 0) = true
      ∧ 1 < 256
      ∧ 4 < 256
      ∧ 0 < 256
      ∧ (wGrp 1 9 wTrain9).grpState 1 = 9
      ∧ ((wGrp 1 9 wTrain9).grp.get 1).train.confirm = true
      ∧ ((wGrp 1 9 wTrain9).grp.get 1).train.again = false))
    ∧ ((((lanesOk 1 (wLanes 1 0) = true
      ∧ 1 < 256
      ∧ 4 < 256
      ∧ 0 < 256
      ∧ (wGrp 1 9 wTrain10).grpState 1 = 9
      ∧ ((wGrp 1 9 wTrain10).grp.get 1).train.confirm = true
      ∧ ((wGrp 1 9 wTrain10).grp.get 1).train.again = false)
    ∧ (7 < 8
      ∧ wIdent.grpState 2 = 7
      ∧ (wIdent.grp.get 2).train.again = false
      ∧ (∀ (k : Nat), k < 8 → k ≠ 7 → ((wIdent.grp.get 2).train.ident.get k).isSome = true)
      ∧ (∀ (k : Nat), k < 8 → k ≠ 7 → (wIdent.grp.get 2).train.ident.get k = some (BitVec.toNat (wIdent.reg (Reg.GLB_IMG_DIGESTk k))))
      ∧ 0#32 = wIdent.reg (Reg.GLB_IMG_DIGESTk 7)))
    ∧ (7 < 8
      ∧ wIdent.grpState 2 = 7
      ∧ (wIdent.grp.get 2).train.again = false
      ∧ (∀ (k : Nat), k < 8 → k ≠ 7 → ((wIdent.grp.get 2).train.ident.get k).isSome = true)
      ∧ 1#32 ≠ wIdent.reg (Reg.GLB_IMG_DIGESTk 7)))
    ∧ (1 < 3
      ∧ trainLimit ((wGrp 1 9 id).grpState 1) = some 1000000
      ∧ ((wGrp 1 9 id).grp.get 1).train.entered + 1000000 ≤ (wGrp 1 9 id).now
      ∧ (wGrp 1 9 id).grpState 1 = 9))
    ∧ ((1 < 3
      ∧ trainLimit ((wGrp 1 5 id).grpState 1) = some 20000000
      ∧ ((wGrp 1 5 id).grp.get 1).train.entered + 20000000 ≤ (wGrp 1 5 id).now)
    ∧ (1 < 3
      ∧ (wGrp 1 10 id).grpState 1 = 10
      ∧ ((wGrp 1 10 id).grp.get 1).train.entered + 1000000 ≤ (wGrp 1 10 id).now)) :=
  ⟨by decide +kernel,
    by decide +kernel,
    by decide +kernel,
    by decide +kernel,
    by decide +kernel,
    by decide +kernel,
    by decide +kernel⟩

/-- States and operands that meet what `Obligations.LaneService` supposes. -/
theorem witness_LaneService :
    ((wGrp 1 8 id).writeOpen Initiator.mc0 (Reg.LNK_Gg_CTRL 1)
      ∧ 1 < 3
      ∧ (1#32).toNat % 8 = 1
      ∧ (wGrp 1 8 id).grpState 1 = 8)
    ∧ ((wGrp 1 8 id).writeOpen Initiator.mc0 (Reg.LNK_Gg_CTRL 1)
      ∧ 1 < 3
      ∧ bitB (2#32).toNat 1 = true
      ∧ (wGrp 1 8 id).grpState 1 ≠ 0)
    ∧ ((wGrp 1 8 id).writeOpen Initiator.mc0 (Reg.LNK_Gg_CTRL 1)
      ∧ 1 < 3
      ∧ bitB (4#32).toNat 1 = false
      ∧ bitB (4#32).toNat 2 = true
      ∧ (wGrp 1 8 id).grpState 1 ≠ 0)
    ∧ (((((1 < 3
      ∧ 2 < laneCount 1
      ∧ (wGrp 1 8 id).inServiceGroup 1 = true)
    ∧ (1 < 3
      ∧ (10 :: List.replicate (laneCount 1 - 1) 0).length = laneCount 1
      ∧ ((withFields (wGrp 1 8 id) [(Reg.LNK_Gg_CFG 1, Fld.LNK_Gg_CFG_ERR_THR, 9)]).grp.get 1).train.errsFrom + 1000000 ≤ (withFields (wGrp 1 8 id) [(Reg.LNK_Gg_CFG 1, Fld.LNK_Gg_CFG_ERR_THR, 9)]).now
      ∧ 0 < laneCount 1))
    ∧ (1 < 3
      ∧ (10 :: List.replicate (laneCount 1 - 1) 0).length = laneCount 1
      ∧ ((withFields (wGrp 1 8 id) [(Reg.LNK_Gg_CFG 1, Fld.LNK_Gg_CFG_ERR_THR, 10)]).grp.get 1).train.errsFrom + 1000000 ≤ (withFields (wGrp 1 8 id) [(Reg.LNK_Gg_CFG 1, Fld.LNK_Gg_CFG_ERR_THR, 10)]).now
      ∧ 0 < laneCount 1))
    ∧ (1 < 3
      ∧ (10 :: List.replicate (laneCount 1 - 1) 0).length = laneCount 1
      ∧ ((withFields (wGrp 1 9 id) [(Reg.LNK_Gg_CFG 1, Fld.LNK_Gg_CFG_ERR_THR, 9)]).grp.get 1).train.errsFrom + 1000000 ≤ (withFields (wGrp 1 9 id) [(Reg.LNK_Gg_CFG 1, Fld.LNK_Gg_CFG_ERR_THR, 9)]).now
      ∧ 0 < laneCount 1))
    ∧ (1 < 3
      ∧ 1 ≤ 1
      ∧ 1 ≤ 2
      ∧ (wGrp 1 8 wTrain7).inServiceGroup 1 = true
      ∧ ((wGrp 1 8 wTrain7).grp.get 1).replay = []
      ∧ 1 ≤ min ((wGrp 1 8 wTrain7).grp.get 1).train.lpOwn 1))
    ∧ ((((1 < 3
      ∧ 1 ≤ 2
      ∧ 2 ≤ 2
      ∧ (wGrp 1 8 id).inServiceGroup 1 = true
      ∧ ((wGrp 1 8 id).grp.get 1).replay = [])
    ∧ (1 < 3
      ∧ 1 ≤ 1
      ∧ 1 ≤ 2
      ∧ wUnacked.inServiceGroup 1 = true
      ∧ (wUnacked.grp.get 1).replay ≠ []))
    ∧ (1 < 3
      ∧ (wGrp 1 12 wTrain8).grpState 1 ∈ [8, 12]
      ∧ ((wGrp 1 12 wTrain8).grp.get 1).train.again = false
      ∧ 1 < 2))
    ∧ (wRef.fld Reg.GLB_ROLE Fld.GLB_ROLE_ROLE = 1
      ∧ wRef.fld Reg.LNK_REF_STATUS Fld.LNK_REF_STATUS_SRC = 1
      ∧ (∀ (g : Nat), g < 3 → wRef.grpState g ∈ [0, 8, 9, 10, 11])
      ∧ true = true
      ∧ 0 < 3)) :=
  ⟨⟨by unfold State.writeOpen; decide +kernel, by decide +kernel⟩,
    ⟨by unfold State.writeOpen; decide +kernel, by decide +kernel⟩,
    ⟨by unfold State.writeOpen; decide +kernel, by decide +kernel⟩,
    by decide +kernel,
    by decide +kernel⟩

/-- States and operands that meet what `Obligations.LinkProtocol` supposes. -/
theorem witness_LinkProtocol :
    ((1 < 3
      ∧ (wPkt 0).cls < 16
      ∧ (wPkt 0).typ < 16
      ∧ (wPkt 0).seq < 4096
      ∧ (wPkt 0).tag < 256
      ∧ (wPkt 0).init < 16
      ∧ (wPkt 0).cls ≠ 0
      ∧ (wLink 1 []).inServiceGroup 1 = true
      ∧ malformed 1 (wPkt 0) = false
      ∧ (wPkt 0).seq = ((wLink 1 []).grp.get 1).rxNext)
    ∧ (1 < 3
      ∧ (wPkt 1).cls < 16
      ∧ (wPkt 1).typ < 16
      ∧ (wPkt 1).seq < 4096
      ∧ (wPkt 1).tag < 256
      ∧ (wPkt 1).init < 16
      ∧ (wPkt 1).cls ≠ 0
      ∧ (wLink 1 []).inServiceGroup 1 = true
      ∧ (true = false ∨ (wPkt 1).seq ≠ ((wLink 1 []).grp.get 1).rxNext)))
    ∧ (((1 < 3
      ∧ (wPkt 0).cls < 16
      ∧ (wPkt 0).typ < 16
      ∧ (wPkt 0).seq < 4096
      ∧ (wPkt 0).tag < 256
      ∧ (wPkt 0).init < 16
      ∧ (wPkt 0).cls ≠ 0
      ∧ (wLink 1 []).inServiceGroup 1 = true
      ∧ (false = false ∨ (wPkt 0).seq ≠ ((wLink 1 []).grp.get 1).rxNext))
    ∧ (1 < 3
      ∧ (let __src := wPkt 0;     LinkPkt.mk 0 __src.typ __src.first __src.last __src.ep __src.seq __src.tag __src.init __src.spec0 __src.spec1 __src.payload).cls =   0
      ∧ (let __src := wPkt 0;     LinkPkt.mk 0 __src.typ __src.first __src.last __src.ep __src.seq __src.tag __src.init __src.spec0 __src.spec1 __src.payload).typ <   16
      ∧ (let __src := wPkt 0;     LinkPkt.mk 0 __src.typ __src.first __src.last __src.ep __src.seq __src.tag __src.init __src.spec0 __src.spec1 __src.payload).seq <   4096
      ∧ (let __src := wPkt 0;     LinkPkt.mk 0 __src.typ __src.first __src.last __src.ep __src.seq __src.tag __src.init __src.spec0 __src.spec1 __src.payload).tag <   256
      ∧ (let __src := wPkt 0;     LinkPkt.mk 0 __src.typ __src.first __src.last __src.ep __src.seq __src.tag __src.init __src.spec0 __src.spec1 __src.payload).init <   16
      ∧ (wLink 1 []).inServiceGroup 1 = true))
    ∧ (1 < 3
      ∧ (let __src := wPkt 0;     LinkPkt.mk 0 __src.typ __src.first __src.last __src.ep __src.seq __src.tag __src.init __src.spec0 __src.spec1 [1, 2]).cls =   0
      ∧ (let __src := wPkt 0;     LinkPkt.mk 0 __src.typ __src.first __src.last __src.ep __src.seq __src.tag __src.init __src.spec0 __src.spec1 [1, 2]).typ <   16
      ∧ (let __src := wPkt 0;     LinkPkt.mk 0 __src.typ __src.first __src.last __src.ep __src.seq __src.tag __src.init __src.spec0 __src.spec1 [1, 2]).seq <   4096
      ∧ (let __src := wPkt 0;     LinkPkt.mk 0 __src.typ __src.first __src.last __src.ep __src.seq __src.tag __src.init __src.spec0 __src.spec1 [1, 2]).tag <   256
      ∧ (let __src := wPkt 0;     LinkPkt.mk 0 __src.typ __src.first __src.last __src.ep __src.seq __src.tag __src.init __src.spec0 __src.spec1 [1, 2]).init <   16
      ∧ (wLink 1 []).inServiceGroup 1 = true))
    ∧ (((((1 < 3
      ∧ 4 < 4096
      ∧ (wSent 1).inServiceGroup 1 = true
      ∧ ((wSent 1).grp.get 1).queue = []
      ∧ dropAcked 4 ((wSent 1).grp.get 1).replay ≠ [])
    ∧ (1 < 3
      ∧ 6 < 4096
      ∧ (wSent 1).inServiceGroup 1 = true
      ∧ ((wSent 1).grp.get 1).queue = []
      ∧ dropAcked 6 ((wSent 1).grp.get 1).replay = []))
    ∧ (1 < 3
      ∧ (wSent 1).inServiceGroup 1 = true
      ∧ ((wSent 1).grp.get 1).replay ≠ []
      ∧ ((wSent 1).grp.get 1).ackAt + 4000 ≤ (wSent 1).now))
    ∧ (1 < 3
      ∧ 1 < 8
      ∧ 3 < 2 ^ 16
      ∧ 9 < 2 ^ 16
      ∧ (wSent 1).inServiceGroup 1 = true
      ∧ ((wSent 1).grp.get 1).queue = []))
    ∧ (wPkt 5 ∈ [wPkt 4, wPkt 5]
      ∧ (4 + 4096 - (wPkt 5).seq) % 4096 ≥ 2048)) :=
  ⟨by decide +kernel,
    by decide +kernel,
    by decide +kernel⟩

/-- States and operands that meet what `Obligations.RemoteAccess` supposes. -/
theorem witness_RemoteAccess :
    ((wLink 1 []).remoteOpen Initiator.mc0 5242884 true
      ∧ Initiator.mc0 ∈ [Initiator.pf3, Initiator.mc0, Initiator.mc1]
      ∧ 5242884 < 33554432
      ∧ 5242884 % 4 = 0
      ∧ [7#32] ≠ []
      ∧ ([7#32].length ≤ if Initiator.mc0 = Initiator.pf3 then 128 else 1)
      ∧ (wLink 1 []).shadowLike = false
      ∧ (wLink 1 []).on Reg.BRG_STATUS Fld.BRG_STATUS_PERR_STOP = false
      ∧ (wLink 1 []).remTarget Initiator.mc0 ∈ [0, 1, 3]
      ∧ (wLink 1 []).hasPath (if (wLink 1 []).remTarget Initiator.mc0 = 3 then 2 else (wLink 1 []).remTarget Initiator.mc0) = true)
    ∧ ((wLink 0 []).remoteOpen Initiator.mc0 5242884 true
      ∧ Initiator.mc0 ∈ [Initiator.pf3, Initiator.mc0, Initiator.mc1]
      ∧ 5242884 < 33554432
      ∧ 5242884 % 4 = 0
      ∧ [7#32] ≠ []
      ∧ ([7#32].length ≤ if Initiator.mc0 = Initiator.pf3 then 128 else 1)
      ∧ (wLink 0 []).shadowLike = false
      ∧ (wLink 0 []).on Reg.BRG_STATUS Fld.BRG_STATUS_PERR_STOP = false
      ∧ (wLink 0 []).remTarget Initiator.mc0 ∈ [0, 1, 3]
      ∧ (wLink 0 []).hasPath (if (wLink 0 []).remTarget Initiator.mc0 = 3 then 2 else (wLink 0 []).remTarget Initiator.mc0) = false
      ∧ (wLink 0 []).fld Reg.BRG_PERR_STATUS Fld.BRG_PERR_STATUS_NUM = 0
      ∧ (wLink 0 []).on Reg.BRG_CTRL Fld.BRG_CTRL_STOP_ON_PERR = false)
    ∧ ((wLink 1 []).remoteOpen Initiator.mc0 5242884 false
      ∧ Initiator.mc0 ∈ [Initiator.pf3, Initiator.mc0, Initiator.mc1]
      ∧ 0 < 1
      ∧ (1 ≤ if Initiator.mc0 = Initiator.pf3 then 128 else 1)
      ∧ 5242884 + 4 * 1 ≤ 33554432
      ∧ 5242884 % 4 = 0
      ∧ (wLink 1 []).remTarget Initiator.mc0 ∈ [0, 1, 3]
      ∧ (wLink 1 []).hasPath (if (wLink 1 []).remTarget Initiator.mc0 = 3 then 2 else (wLink 1 []).remTarget Initiator.mc0) = true
      ∧ (wLink 1 []).remTag = some 0)
    ∧ ((wLink 0 []).remoteOpen Initiator.mc0 5242884 false
      ∧ Initiator.mc0 ∈ [Initiator.pf3, Initiator.mc0, Initiator.mc1]
      ∧ 0 < 1
      ∧ (1 ≤ if Initiator.mc0 = Initiator.pf3 then 128 else 1)
      ∧ 5242884 + 4 * 1 ≤ 33554432
      ∧ 5242884 % 4 = 0
      ∧ (wLink 0 []).remTarget Initiator.mc0 ∈ [0, 1, 3]
      ∧ (wLink 0 []).hasPath (if (wLink 0 []).remTarget Initiator.mc0 = 3 then 2 else (wLink 0 []).remTarget Initiator.mc0) = false)
    ∧ ((wCplFor [wRemRead] []).takeRx 1 3 0 = (((wCplFor [wRemRead] []).takeRx 1 3 0).fst, some wCpl)
      ∧ 1 < 3
      ∧ ((wCplFor [wRemRead] []).takeRx 1 3 0).fst.brg.reads = [wRemRead]
      ∧ wRemRead.tag = some wCpl.tag
      ∧ wRemRead.init = 4
      ∧ wCpl.ep = false
      ∧ wCpl.spec0 % 256 = 0)
    ∧ ((wCplFor [] [(3, 7)]).takeRx 1 3 0 = (((wCplFor [] [(3, 7)]).takeRx 1 3 0).fst, some wCpl)
      ∧ 1 < 3
      ∧ ((wCplFor [] [(3, 7)]).takeRx 1 3 0).fst.brg.reads = []
      ∧ (((wCplFor [] [(3, 7)]).takeRx 1 3 0).fst.brg.quar.any fun q => q.fst == wCpl.tag) = true) :=
  ⟨⟨by unfold State.remoteOpen; decide +kernel, by decide +kernel⟩,
    ⟨by unfold State.remoteOpen; decide +kernel, by decide +kernel⟩,
    ⟨by unfold State.remoteOpen; decide +kernel, by decide +kernel⟩,
    ⟨by unfold State.remoteOpen; decide +kernel, by decide +kernel⟩,
    ⟨rfl, by decide +kernel⟩,
    ⟨rfl, by decide +kernel⟩⟩

/-- States and operands that meet what `Obligations.RemoteAccess` supposes. -/
theorem witness_RemoteAccess_2 :
    (wPerr.takeRx 1 6 1 = ((wPerr.takeRx 1 6 1).fst, some (wPerr.takeRx 1 6 1).snd.get!)
      ∧ 1 < 3
      ∧ (wPerr.takeRx 1 6 1).snd.get!.payload = [5242896, 66, 9, 0]
      ∧ 5242896 < 2 ^ 26
      ∧ (wPerr.takeRx 1 6 1).fst.fld Reg.BRG_PERR_STATUS Fld.BRG_PERR_STATUS_NUM = 0
      ∧ (wPerr.takeRx 1 6 1).fst.on Reg.BRG_CTRL Fld.BRG_CTRL_STOP_ON_PERR = false)
    ∧ (wPerrLog.writeOpen Initiator.mc0 Reg.BRG_PERR_POP
      ∧ bitB (1#32).toNat 0 = true
      ∧ 0 < wPerrLog.fld Reg.BRG_PERR_STATUS Fld.BRG_PERR_STATUS_NUM
      ∧ 0 < 7)
    ∧ (wPerrLog.writeOpen Initiator.mc0 Reg.BRG_PERR_POP
      ∧ bitB (1#32).toNat 0 = true
      ∧ 0 < wPerrLog.fld Reg.BRG_PERR_STATUS Fld.BRG_PERR_STATUS_NUM
      ∧ 6 < 7)
    ∧ (wWires.takeRx 1 6 0 = ((wWires.takeRx 1 6 0).fst, some (wWires.takeRx 1 6 0).snd.get!)
      ∧ 1 < 3
      ∧ (wWires.takeRx 1 6 0).fst.wireGroup = some 1
      ∧ (wWires.takeRx 1 6 0).snd.get!.payload = [5, 0]
      ∧ 5 < 2 ^ 32
      ∧ 0 < 2 ^ 32)
    ∧ ((wEdge true).takeRx 1 6 3 = (((wEdge true).takeRx 1 6 3).fst, some ((wEdge true).takeRx 1 6 3).snd.get!)
      ∧ 1 < 2
      ∧ 2 < 4
      ∧ ((wEdge true).takeRx 1 6 3).fst.follows = false
      ∧ ((wEdge true).takeRx 1 6 3).fst.fld (Reg.ST_SEGs_CFG 2) Fld.ST_SEGs_CFG_SRC = 3
      ∧ ((wEdge true).takeRx 1 6 3).fst.facesHeadLead 1 = true
      ∧ ((wEdge true).takeRx 1 6 3).snd.get!.payload = [2 + 256, 77, 9])
    ∧ ((wEdge false).takeRx 1 6 3 = (((wEdge false).takeRx 1 6 3).fst, some ((wEdge false).takeRx 1 6 3).snd.get!)
      ∧ 1 < 2
      ∧ 2 < 4
      ∧ ((wEdge false).takeRx 1 6 3).fst.follows = false
      ∧ ((wEdge false).takeRx 1 6 3).fst.fld (Reg.ST_SEGs_CFG 2) Fld.ST_SEGs_CFG_SRC = 3
      ∧ ((wEdge false).takeRx 1 6 3).fst.facesHeadLead 1 = true
      ∧ ((wEdge false).takeRx 1 6 3).snd.get!.payload = [2, 77, 9]
      ∧ ((wEdge false).takeRx 1 6 3).fst.present 2 = true) :=
  ⟨⟨rfl, by decide +kernel⟩,
    ⟨by unfold State.writeOpen; decide +kernel, by decide +kernel⟩,
    ⟨by unfold State.writeOpen; decide +kernel, by decide +kernel⟩,
    ⟨rfl, by decide +kernel⟩,
    ⟨rfl, by decide +kernel⟩,
    ⟨rfl, by decide +kernel⟩⟩

/-- States and operands that meet what `Obligations.RemoteAccess` supposes. -/
theorem witness_RemoteAccess_3 :
    (wEdgeFar.takeRx 1 6 3 = ((wEdgeFar.takeRx 1 6 3).fst, some (wEdgeFar.takeRx 1 6 3).snd.get!)
      ∧ 1 < 2
      ∧ 2 < 4
      ∧ (wEdgeFar.takeRx 1 6 3).fst.follows = false
      ∧ (wEdgeFar.takeRx 1 6 3).fst.fld (Reg.ST_SEGs_CFG 2) Fld.ST_SEGs_CFG_SRC = 3
      ∧ (wEdgeFar.takeRx 1 6 3).fst.facesHeadLead 1 = false
      ∧ ((wEdgeFar.takeRx 1 6 3).snd.get!.payload = [2 + 256, 77, 9] ∨ (wEdgeFar.takeRx 1 6 3).snd.get!.payload = [2, 77, 9]))
    ∧ (wTunnel.takeItem 1 4 0 = ((wTunnel.takeItem 1 4 0).fst, some (wTunPkt, wTunPkt.payload))
      ∧ 1 < 2
      ∧ List.find? (fun q => q.cls == 4) (wTunnel.grp.get 1).rx = some wTunPkt
      ∧ wTunPkt.typ = 0
      ∧ wTunnel.facesHeadLead 1 = true
      ∧ (wTunnel.relay.get (32 + wTunPkt.spec0 % 32)).seen = []
      ∧ (wTunnel.relay.get (32 + wTunPkt.spec0 % 32)).kept = []
      ∧ (wTunnel.takeItem 1 4 0).fst.fld Reg.GLB_ROLE Fld.GLB_ROLE_TOPOLOGY ≠ 2)
    ∧ ((3 < 256
      ∧ wRemoteAccess1.brg.reads = [wRemRead]
      ∧ wRemRead.tag = some 3
      ∧ wRemRead.init = 4
      ∧ wRemRead.words = 1
      ∧ wRemRead.since + wRemoteAccess1.rdTimeout ≤ wRemoteAccess1.now)
    ∧ (1 < 3
      ∧ (wLink 1 []).inServiceGroup 1 = true
      ∧ (wLink 1 []).brg.wiresAt.get 1 + 10000 ≤ (wLink 1 []).now)) :=
  ⟨⟨rfl, by decide +kernel⟩,
    ⟨rfl, by decide +kernel⟩,
    by decide +kernel⟩

/-- States and operands that meet what `Obligations.TwoWireQueues` supposes. -/
theorem witness_TwoWireQueues :
    ((wTw wQueued1 []).writeOpen Initiator.mc0 (Reg.TWk_WDATA 2)
      ∧ 2 < 8)
    ∧ ((wTw wQueued1 []).writeOpen Initiator.mc0 (Reg.TWk_QCMD 2)
      ∧ 2 < 8
      ∧ (wTw wQueued1 []).on Reg.GLB_ROLE Fld.GLB_ROLE_PAIRED = false
      ∧ (wTw wQueued1 []).on (Reg.TWk_STATUS 2) Fld.TWk_STATUS_IN_STUCK = false
      ∧ (wTw wQueued1 []).on (Reg.TWk_CFG 2) Fld.TWk_CFG_OWNER = false
      ∧ ¬16 ≤ (List.filter (fun e => !e.ara) ((wTw wQueued1 []).tw.get 2).queue).length)
    ∧ ((wTw wTwFull []).writeOpen Initiator.mc0 (Reg.TWk_QCMD 2)
      ∧ 2 < 8
      ∧ (wTw wTwFull []).on Reg.GLB_ROLE Fld.GLB_ROLE_PAIRED = false
      ∧ (wTw wTwFull []).on (Reg.TWk_STATUS 2) Fld.TWk_STATUS_IN_STUCK = false
      ∧ (wTw wTwFull []).on (Reg.TWk_CFG 2) Fld.TWk_CFG_OWNER = false
      ∧ 16 ≤ (List.filter (fun e => !e.ara) ((wTw wTwFull []).tw.get 2).queue).length)
    ∧ ((wTw default [(Reg.TWk_CFG 2, Fld.TWk_CFG_OWNER, 1)]).writeOpen Initiator.mc0 (Reg.TWk_QCMD 2)
      ∧ 2 < 8
      ∧ (wTw default [(Reg.TWk_CFG 2, Fld.TWk_CFG_OWNER, 1)]).on Reg.GLB_ROLE Fld.GLB_ROLE_PAIRED = false
      ∧ (wTw default [(Reg.TWk_CFG 2, Fld.TWk_CFG_OWNER, 1)]).on (Reg.TWk_STATUS 2) Fld.TWk_STATUS_IN_STUCK = false
      ∧ (wTw default [(Reg.TWk_CFG 2, Fld.TWk_CFG_OWNER, 1)]).on (Reg.TWk_CFG 2) Fld.TWk_CFG_OWNER = true)
    ∧ ((wTw wResults []).writeOpen Initiator.mc0 (Reg.TWk_CTRL 2)
      ∧ 2 < 8
      ∧ clrOk none = true
      ∧ (wTw wResults []).on (Reg.TWk_STATUS 2) Fld.TWk_STATUS_IN_STUCK = false
      ∧ (8#32).toNat % 16 = 8)
    ∧ ((wTw wResults []).writeOpen Initiator.mc0 (Reg.TWk_CTRL 2)
      ∧ 2 < 8
      ∧ clrOk none = true
      ∧ (wTw wResults []).on (Reg.TWk_STATUS 2) Fld.TWk_STATUS_IN_STUCK = false
      ∧ (1#32).toNat % 16 = 1) :=
  ⟨⟨by unfold State.writeOpen; decide +kernel, by decide +kernel⟩,
    ⟨by unfold State.writeOpen; decide +kernel, by decide +kernel⟩,
    ⟨by unfold State.writeOpen; decide +kernel, by decide +kernel⟩,
    ⟨by unfold State.writeOpen; decide +kernel, by decide +kernel⟩,
    ⟨by unfold State.writeOpen; decide +kernel, by decide +kernel⟩,
    ⟨by unfold State.writeOpen; decide +kernel, by decide +kernel⟩⟩

/-- States and operands that meet what `Obligations.TwoWireQueues` supposes. -/
theorem witness_TwoWireQueues_2 :
    ((wTw default []).writeOpen Initiator.mc0 (Reg.TWk_CTRL 2)
      ∧ 2 < 8
      ∧ clrOk none = true
      ∧ (wTw default []).on (Reg.TWk_STATUS 2) Fld.TWk_STATUS_IN_STUCK = false
      ∧ (1#32).toNat % 16 = 1)
    ∧ ((wTw wQueued1 []).writeOpen Initiator.mc0 (Reg.TWk_CTRL 2)
      ∧ 2 < 8
      ∧ clrOk none = true
      ∧ (4#32).toNat % 16 = 4
      ∧ (wTw wQueued1 []).on Reg.GLB_ROLE Fld.GLB_ROLE_PAIRED = false
      ∧ ((wTw wQueued1 []).tw.get 2).cur = none
      ∧ ((wTw wQueued1 []).tw.get 2).queue = [wEntry]
      ∧ wEntry.ara = false
      ∧ wEntry.tun = none)
    ∧ ((wTw default []).writeOpen Initiator.mc0 (Reg.TWk_CTRL 2)
      ∧ 2 < 8
      ∧ clrOk (some 9) = true
      ∧ (2#32).toNat % 16 = 2
      ∧ (wTw default []).twDark = false
      ∧ ((wTw default []).tw.get 2).cur = none
      ∧ ((wTw default []).tw.get 2).queue = [])
    ∧ ((wTw default []).writeOpen Initiator.mc0 (Reg.TWk_CTRL 2)
      ∧ 2 < 8
      ∧ clrOk none = true
      ∧ (2#32).toNat % 16 = 2
      ∧ (wTw default []).twDark = false
      ∧ ((wTw default []).tw.get 2).cur = none
      ∧ ((wTw default []).tw.get 2).queue = [])
    ∧ ((wTw wReadOn []).readOpen Initiator.mc0 (Reg.TWk_RDATA 2)
      ∧ 2 < 8
      ∧ ((wTw wReadOn []).tw.get 2).results = [TwRes.mk 0 1 0 0 [1, 2, 3, 4, 5]])
    ∧ (wTwShadow.takeItem 2 7 5 = ((wTwShadow.takeItem 2 7 5).fst, some ((wTwShadow.takeItem 2 7 5).snd.get!.fst, [2, 72 + 3 * 2 ^ 8 + 2 * 2 ^ 16, 197121]))
      ∧ 2 < 8
      ∧ (wTwShadow.takeItem 2 7 5).fst.follows = true
      ∧ (wTwShadow.takeItem 2 7 5).fst.twMirrored 2 = true) :=
  ⟨⟨by unfold State.writeOpen; decide +kernel, by decide +kernel⟩,
    ⟨by unfold State.writeOpen; decide +kernel, by decide +kernel⟩,
    ⟨by unfold State.writeOpen; decide +kernel, by decide +kernel⟩,
    ⟨by unfold State.writeOpen; decide +kernel, by decide +kernel⟩,
    ⟨by unfold State.readOpen; decide +kernel, by decide +kernel⟩,
    ⟨rfl, by decide +kernel⟩⟩

/-- States and operands that meet what `Obligations.TwoWireQueues` supposes. -/
theorem witness_TwoWireQueues_3 :
    ((wTwReq 0).takeItem 1 4 1 = (((wTwReq 0).takeItem 1 4 1).fst, some (wTwReqPkt, wTwReqPkt.payload))
      ∧ 1 < 3
      ∧ List.find? (fun q => q.cls == 4) ((wTwReq 0).grp.get 1).rx = some wTwReqPkt
      ∧ wTwReqPkt.typ = 1
      ∧ (wTwReq 0).on (Reg.TWk_CFG ((List.flatMap (leBytes 4) wTwReqPkt.payload).getD 0 0 % 8)) Fld.TWk_CFG_OWNER = false)
    ∧ ((wTwReq 1).takeItem 1 4 1 = (((wTwReq 1).takeItem 1 4 1).fst, some (wTwReqPkt, wTwReqPkt.payload))
      ∧ 1 < 3
      ∧ List.find? (fun q => q.cls == 4) ((wTwReq 1).grp.get 1).rx = some wTwReqPkt
      ∧ wTwReqPkt.typ = 1
      ∧ (wTwReq 1).on (Reg.TWk_CFG ((List.flatMap (leBytes 4) wTwReqPkt.payload).getD 0 0 % 8)) Fld.TWk_CFG_OWNER = true
      ∧ ((wTwReq 1).tw.get ((List.flatMap (leBytes 4) wTwReqPkt.payload).getD 0 0 % 8)).queue.length < 16
      ∧ ((wTwReq 1).takeItem 1 4 1).fst.twShadow ((List.flatMap (leBytes 4) wTwReqPkt.payload).getD 0 0 % 8) = false)
    ∧ ((wTwRsp [TunTx.mk 6 1 0] []).takeItem 1 4 2 = (((wTwRsp [TunTx.mk 6 1 0] []).takeItem 1 4 2).fst, some (((wTwRsp [TunTx.mk 6 1 0] []).takeItem 1 4 2).snd.get!.fst, [0, 0]))
      ∧ 1 < 3
      ∧ (((wTwRsp [TunTx.mk 6 1 0] []).takeItem 1 4 2).fst.tun.any fun x => x.tag == ((wTwRsp [TunTx.mk 6 1 0] []).takeItem 1 4 2).snd.get!.fst.tag) = true)
    ∧ ((wTwRsp [] [(6, 9)]).takeItem 1 4 2 = (((wTwRsp [] [(6, 9)]).takeItem 1 4 2).fst, some (((wTwRsp [] [(6, 9)]).takeItem 1 4 2).snd.get!.fst, [0, 0]))
      ∧ 1 < 3
      ∧ ((wTwRsp [] [(6, 9)]).takeItem 1 4 2).fst.tun = []
      ∧ (((wTwRsp [] [(6, 9)]).takeItem 1 4 2).fst.tunQuar.any fun q => q.fst == ((wTwRsp [] [(6, 9)]).takeItem 1 4 2).snd.get!.fst.tag) = true)
    ∧ (6 < 16
      ∧ wTun.tun = [TunTx.mk 6 1 0]
      ∧ (TunTx.mk 6 1 0).tag = 6
      ∧ (TunTx.mk 6 1 0).since + wTun.tunTimeout ≤ wTun.now) :=
  ⟨⟨rfl, by decide +kernel⟩,
    ⟨rfl, by decide +kernel⟩,
    ⟨rfl, by decide +kernel⟩,
    ⟨rfl, by decide +kernel⟩,
    by decide +kernel⟩

/-- States and operands that meet what `Obligations.TwoWireBus` supposes. -/
theorem witness_TwoWireBus :
    ((2 < 8
      ∧ (wTw wQueued1 []).on Reg.GLB_ROLE Fld.GLB_ROLE_PAIRED = false
      ∧ (wTw wQueued1 []).twDark = false
      ∧ ((wTw wQueued1 []).tw.get 2).live = false
      ∧ ((wTw wQueued1 []).tw.get 2).cur = none
      ∧ ((wTw wQueued1 []).tw.get 2).queue = [wEntry]
      ∧ wEntry.ara = false
      ∧ ((wTw wQueued1 []).tw.get 2).results.length < 16
      ∧ ((wTw wQueued1 []).tw.get 2).clearDue = false
      ∧ (wTw wQueued1 []).on (Reg.TWk_STATUS 2) Fld.TWk_STATUS_IN_STUCK = false
      ∧ (wTw wQueued1 []).araWants 2 = false
      ∧ (wTw wQueued1 []).tBuf 2 ≤ 4700)
    ∧ (2 < 8
      ∧ (wTw wMirrorAt []).twDark = false
      ∧ (wTw wMirrorAt []).twinState ≠ 6
      ∧ ((wTw wMirrorAt []).tw.get 2).cur = none
      ∧ ((wTw wMirrorAt []).tw.get 2).queue = [wEntryAt]
      ∧ wEntryAt.start = some 1000
      ∧ 1000 ≤ (wTw wMirrorAt []).invar
      ∧ true = true))
    ∧ ((2 < 8
      ∧ (wTw wMirrorAt []).twDark = false
      ∧ (wTw wMirrorAt []).twinState ≠ 6
      ∧ ((wTw wMirrorAt []).tw.get 2).cur = none
      ∧ ((wTw wMirrorAt []).tw.get 2).queue = [wEntryAt]
      ∧ wEntryAt.start = some 1000
      ∧ 1000 ≤ (wTw wMirrorAt []).invar
      ∧ false = false)
    ∧ (2 < 8
      ∧ (wTw wLive []).on Reg.GLB_ROLE Fld.GLB_ROLE_PAIRED = false
      ∧ (wTw wLive []).twDark = false
      ∧ ((wTw wLive []).tw.get 2).cur = some wEntry
      ∧ ((wTw wLive []).tw.get 2).live = true
      ∧ wEntry.ara = false
      ∧ wEntry.tun = none
      ∧ [5, 6].length = wEntry.rlen
      ∧ (∀ (x : Nat), x ∈ [5, 6] → x < 256)
      ∧ 0 ≤ wEntry.wdata.length
      ∧ 3 < 32
      ∧ 2 ≤ wEntry.wdata.length
      ∧ (wTw wLive []).fld (Reg.TWk_CFG 2) Fld.TWk_CFG_RETRIES ≤ wEntry.tries
      ∧ 1 ≤ 9
      ∧ 9 ≤ 9))
    ∧ ((2 < 8
      ∧ (wTw wLive [(Reg.TWk_CFG 2, Fld.TWk_CFG_RETRIES, 1)]).on Reg.GLB_ROLE Fld.GLB_ROLE_PAIRED = false
      ∧ (wTw wLive [(Reg.TWk_CFG 2, Fld.TWk_CFG_RETRIES, 1)]).twDark = false
      ∧ ((wTw wLive [(Reg.TWk_CFG 2, Fld.TWk_CFG_RETRIES, 1)]).tw.get 2).cur = some wEntry
      ∧ ((wTw wLive [(Reg.TWk_CFG 2, Fld.TWk_CFG_RETRIES, 1)]).tw.get 2).live = true
      ∧ wEntry.ara = false
      ∧ wEntry.tun = none
      ∧ [5, 6].length = wEntry.rlen
      ∧ (∀ (x : Nat), x ∈ [5, 6] → x < 256)
      ∧ 3 ≤ wEntry.wdata.length
      ∧ 3 < 32
      ∧ wEntry.tries < (wTw wLive [(Reg.TWk_CFG 2, Fld.TWk_CFG_RETRIES, 1)]).fld (Reg.TWk_CFG 2) Fld.TWk_CFG_RETRIES
      ∧ 1 ≤ 1
      ∧ 1 ≤ 9)
    ∧ (2 < 8
      ∧ (wTw wClearDue []).twDark = false
      ∧ ((wTw wClearDue []).tw.get 2).clearDue = true
      ∧ ((wTw wClearDue []).tw.get 2).cur = none
      ∧ ((wTw wClearDue []).tw.get 2).queue = []))
    ∧ (2 < 8
      ∧ (wAlert []).on Reg.GLB_ROLE Fld.GLB_ROLE_PAIRED = false
      ∧ (wAlert []).twDark = false
      ∧ ((wAlert []).tw.get 2).cur = none
      ∧ (wAlert []).araWants 2 = true
      ∧ (wAlert []).on (Reg.TWk_STATUS 2) Fld.TWk_STATUS_IN_STUCK = false
      ∧ ((wAlert []).tw.get 2).araLast = false
      ∧ (((wAlert []).tw.get 2).queue.any fun e => e.ara) = false
      ∧ ((wAlert []).tw.get 2).alerts.length < 8) :=
  ⟨by decide +kernel,
    by decide +kernel,
    by decide +kernel,
    by decide +kernel⟩

/-- States and operands that meet what `Obligations.BoardTarget` supposes. -/
theorem witness_BoardTarget :
    ((wTarget (Reg.OSn_CFG 3) []).writeOpen Initiator.tw8 (wTarget (Reg.OSn_CFG 3) []).tw8Ptr
      ∧ (wTarget (Reg.OSn_CFG 3) []).tw8On = true
      ∧ (wTarget (Reg.OSn_CFG 3) []).inReset = false
      ∧ (wTarget (Reg.OSn_CFG 3) []).tw8Ptr / 1048576 ∈ [2, 5]
      ∧ (wTarget (Reg.OSn_CFG 3) []).tw8Ptr % 4 = 0
      ∧ findReg (wTarget (Reg.OSn_CFG 3) []).tw8Ptr = some (rowAt (Reg.OSn_CFG 3)))
    ∧ ((wTarget 0 [(Reg.TW8_CTRL, Fld.TW8_CTRL_ALERT, 1)]).writeOpen Initiator.mc0 Reg.TW8_CTRL
      ∧ (1#32).toNat % 4 = 1)
    ∧ ((wTarget 0 [(Reg.TW8_CTRL, Fld.TW8_CTRL_ALERT, 1)]).writeOpen Initiator.mc0 Reg.TW8_CTRL
      ∧ bitB (2#32).toNat 1 = true)
    ∧ (((((wTarget 0 []).tw8On = true
      ∧ (wTarget 0 []).inReset = false)
    ∧ ((wTarget (Reg.OSn_CFG 3) []).tw8On = true
      ∧ (wTarget (Reg.OSn_CFG 3) []).inReset = false
      ∧ (wTarget (Reg.OSn_CFG 3) []).inBoot = false
      ∧ (wTarget (Reg.OSn_CFG 3) []).granted Initiator.tw8 0 (wTarget (Reg.OSn_CFG 3) []).tw8Ptr false = true
      ∧ (wTarget (Reg.OSn_CFG 3) []).tw8Ptr / 1048576 ∈ [2, 5]
      ∧ (wTarget (Reg.OSn_CFG 3) []).tw8Ptr % 4 = 0
      ∧ findReg (wTarget (Reg.OSn_CFG 3) []).tw8Ptr = some (rowAt (Reg.OSn_CFG 3))
      ∧ statusSource (wTarget (Reg.OSn_CFG 3) []).tw8Ptr = none))
    ∧ ((wTarget 0 [(Reg.TW8_CTRL, Fld.TW8_CTRL_ALERT, 1)]).tw8On = true
      ∧ (wTarget 0 [(Reg.TW8_CTRL, Fld.TW8_CTRL_ALERT, 1)]).on Reg.TW8_CTRL Fld.TW8_CTRL_ALERT = true))
    ∧ ((wTarget 8 []).tw8On = true)) :=
  ⟨⟨by unfold State.writeOpen; decide +kernel, by decide +kernel⟩,
    ⟨by unfold State.writeOpen; decide +kernel, by decide +kernel⟩,
    ⟨by unfold State.writeOpen; decide +kernel, by decide +kernel⟩,
    by decide +kernel⟩

/-- States and operands that meet what `Obligations.LodgeEpisodes` supposes. -/
theorem witness_LodgeEpisodes :
    ((wEpisode 5001).writeOpen Initiator.mc0 Reg.FC_ACK
      ∧ ((wEpisode 5001).fcState = 1 ∧ (458752#32).toNat / 2 ^ 16 = (wEpisode 5001).fld Reg.FC_ESC_STATUS Fld.FC_ESC_STATUS_EPISODE_ID))
    ∧ ((wEpisode 5001).writeOpen Initiator.mc0 Reg.FC_ACK
      ∧ (¬((wEpisode 5001).fcState = 1 ∧ (524288#32).toNat / 2 ^ 16 = (wEpisode 5001).fld Reg.FC_ESC_STATUS Fld.FC_ESC_STATUS_EPISODE_ID)))
    ∧ (wFenced.writeOpen Initiator.mc0 Reg.FC_REVIVE
      ∧ Fld.FC_REVIVE_GO.get 2147483651#32 = 1
      ∧ wFenced.boot.resetDue = none
      ∧ wFenced.fcState = 0
      ∧ Fld.FC_REVIVE_SOURCE.get 2147483651#32 < 16)
    ∧ (wFenced.writeOpen Initiator.mc0 Reg.FC_REVIVE
      ∧ Fld.FC_REVIVE_GO.get 2147484210#32 = 1
      ∧ wFenced.boot.resetDue = none
      ∧ wFenced.fcState = 0
      ∧ Fld.FC_REVIVE_SOURCE.get 2147484210#32 = 50
      ∧ Fld.FC_REVIVE_INDEX.get 2147484210#32 = 1)
    ∧ (wFenced.writeOpen Initiator.mc0 Reg.FC_REVIVE
      ∧ Fld.FC_REVIVE_GO.get 2147483681#32 = 1
      ∧ wFenced.boot.resetDue = none
      ∧ 32 ≤ Fld.FC_REVIVE_SOURCE.get 2147483681#32
      ∧ Fld.FC_REVIVE_SOURCE.get 2147483681#32 < 40)
    ∧ ((wEpisode 5001).writeOpen Initiator.mc0 Reg.FC_REVIVE
      ∧ Fld.FC_REVIVE_GO.get 2147483651#32 = 1
      ∧ (wEpisode 5001).boot.resetDue = none
      ∧ (wEpisode 5001).fcState ≠ 0) :=
  ⟨⟨by unfold State.writeOpen; decide +kernel, by decide +kernel⟩,
    ⟨by unfold State.writeOpen; decide +kernel, by decide +kernel⟩,
    ⟨by unfold State.writeOpen; decide +kernel, by decide +kernel⟩,
    ⟨by unfold State.writeOpen; decide +kernel, by decide +kernel⟩,
    ⟨by unfold State.writeOpen; decide +kernel, by decide +kernel⟩,
    ⟨by unfold State.writeOpen; decide +kernel, by decide +kernel⟩⟩

/-- States and operands that meet what `Obligations.LodgeEpisodes` supposes. -/
theorem witness_LodgeEpisodes_2 :
    (wLodgeEpisodes1.writeOpen Initiator.mc0 Reg.FC_INJECT
      ∧ Fld.FC_INJECT_GO.get 2147483689#32 = 1
      ∧ 32 ≤ Fld.FC_INJECT_SOURCE.get 2147483689#32
      ∧ Fld.FC_INJECT_SOURCE.get 2147483689#32 < 55
      ∧ Fld.FC_INJECT_SOURCE.get 2147483689#32 ≠ 50
      ∧ Fld.FC_INJECT_KIND.get 2147483689#32 = 0)
    ∧ (wLodgeEpisodes1.writeOpen Initiator.mc0 Reg.FC_INJECT
      ∧ Fld.FC_INJECT_GO.get 2147487785#32 = 1
      ∧ 32 ≤ Fld.FC_INJECT_SOURCE.get 2147487785#32
      ∧ Fld.FC_INJECT_SOURCE.get 2147487785#32 < 55
      ∧ Fld.FC_INJECT_SOURCE.get 2147487785#32 ≠ 50
      ∧ Fld.FC_INJECT_KIND.get 2147487785#32 = 1
      ∧ wLodgeEpisodes1.classOf (Fld.FC_INJECT_SOURCE.get 2147487785#32) (Fld.FC_INJECT_INDEX.get 2147487785#32) = 1
      ∧ wLodgeEpisodes1.fcState = 0)
    ∧ ((((41 < 55
      ∧ 0 < 8
      ∧ LodgeSig.mk 41 0 true ∈ (wSig 41 0 true 0 []).lodge.raised
      ∧ (true = false → (wSig 41 0 true 0 []).classOf 41 0 = 0))
    ∧ (5 < 55
      ∧ 0 < 8
      ∧ LodgeSig.mk 5 0 false ∈ (wSig 5 0 false 0 []).lodge.raised
      ∧ (false = false → (wSig 5 0 false 0 []).classOf 5 0 = 0)))
    ∧ (32 ≤ 41
      ∧ 41 < 55
      ∧ 41 ≠ 50
      ∧ 0 < 8
      ∧ LodgeSig.mk 41 0 false ∈ (wSig 41 0 false 0 []).lodge.raised
      ∧ (wSig 41 0 false 0 []).classOf 41 0 = 1
      ∧ (wSig 41 0 false 0 []).fcState = 0))
    ∧ (32 ≤ 41
      ∧ 41 < 55
      ∧ 41 ≠ 50
      ∧ 0 < 8
      ∧ LodgeSig.mk 41 0 false ∈ (wSig 41 0 false 1 []).lodge.raised
      ∧ (wSig 41 0 false 1 []).classOf 41 0 = 1
      ∧ (wSig 41 0 false 1 []).fcState = 1))
    ∧ ((((32 ≤ 41
      ∧ 41 < 55
      ∧ 41 ≠ 50
      ∧ 0 < 8
      ∧ LodgeSig.mk 41 0 false ∈ (wSig 41 0 false 2 []).lodge.raised
      ∧ (wSig 41 0 false 2 []).classOf 41 0 = 1
      ∧ (wSig 41 0 false 2 []).fcState = 2)
    ∧ ((wSig 5 0 false 0 [(Reg.FC_CLASS_LOw 0, ⟨10, 2⟩, 1)]).fcState = 0
      ∧ 5 < 16
      ∧ LodgeSig.mk 5 0 false ∈ (wSig 5 0 false 0 [(Reg.FC_CLASS_LOw 0, ⟨10, 2⟩, 1)]).lodge.raised
      ∧ (wSig 5 0 false 0 [(Reg.FC_CLASS_LOw 0, ⟨10, 2⟩, 1)]).classOf 5 0 = 1
      ∧ (wSig 5 0 false 0 [(Reg.FC_CLASS_LOw 0, ⟨10, 2⟩, 1)]).bit Reg.FC_FENCE_PORT 5 = false
      ∧ (∀ (ch : Nat), ch < 64 → ((wSig 5 0 false 0 [(Reg.FC_CLASS_LOw 0, ⟨10, 2⟩, 1)]).stream.get ch).isOpen = false)))
    ∧ ((wSig 50 1 false 0 [(Reg.FC_CLASS_HIw 1, ⟨4, 2⟩, 1)]).fcState = 0
      ∧ LodgeSig.mk 50 1 false ∈ (wSig 50 1 false 0 [(Reg.FC_CLASS_HIw 1, ⟨4, 2⟩, 1)]).lodge.raised
      ∧ (wSig 50 1 false 0 [(Reg.FC_CLASS_HIw 1, ⟨4, 2⟩, 1)]).classOf 50 1 = 1))
    ∧ (51 < 55
      ∧ 0 < 8
      ∧ LodgeSig.mk 51 0 false ∈ (wSig 51 0 false 0 []).lodge.raised
      ∧ (wSig 51 0 false 0 []).classOf 51 0 = 2
      ∧ (wSig 51 0 false 0 []).fcState < 2
      ∧ (∀ (n : Nat), n < 16 → ((wSig 51 0 false 0 []).port.get n).running = false)
      ∧ (¬((wSig 51 0 false 0 []).twinState = 2 ∧ (wSig 51 0 false 0 []).partnerState = 5))))
    ∧ ((((51 < 55
      ∧ 0 < 8
      ∧ LodgeSig.mk 51 0 false ∈ wTakeSig.lodge.raised
      ∧ wTakeSig.classOf 51 0 = 2
      ∧ wTakeSig.fcState < 2
      ∧ (∀ (n : Nat), n < 16 → (wTakeSig.port.get n).running = false)
      ∧ wTakeSig.twinState = 2
      ∧ wTakeSig.partnerState = 5
      ∧ wTakeSig.twin.take = none)
    ∧ ((wEpisode 5000).fcState = 1
      ∧ (wEpisode 5000).lodge.escUntil = some 5000
      ∧ (∀ (n : Nat), n < 16 → ((wEpisode 5000).port.get n).running = false)
      ∧ (wEpisode 5000).now ≤ 5000))
    ∧ ((wEpisode 4999).fcState = 1
      ∧ (wEpisode 4999).lodge.escUntil = some 4999
      ∧ (∀ (n : Nat), n < 16 → ((wEpisode 4999).port.get n).running = false)
      ∧ 4999 < (wEpisode 4999).now))
    ∧ ((wEpisode 5001).fcState = 1
      ∧ (wEpisode 5001).lodge.escUntil = some 5001
      ∧ (∀ (n : Nat), n < 16 → ((wEpisode 5001).port.get n).running = false)
      ∧ (wEpisode 5001).now ≤ 5001))
    ∧ (((((wFault [0, 1, 2, 3] []).fcState = 2
      ∧ (wFault [0, 1, 2, 3] []).lodge.quietUntil = some 59999
      ∧ (wFault [0, 1, 2, 3] []).twin.take = none
      ∧ 59999 < (wFault [0, 1, 2, 3] []).now
      ∧ 4 ≤ (List.filter (fun x => decide ((wFault [0, 1, 2, 3] []).now < x + 60000000000)) (wFault [0, 1, 2, 3] []).lodge.faultTimes).length)
    ∧ ((wFault [3] []).fcState = 2
      ∧ (wFault [3] []).lodge.quietUntil = some 59999
      ∧ (wFault [3] []).twin.take = none
      ∧ 59999 < (wFault [3] []).now
      ∧ (List.filter (fun x => decide ((wFault [3] []).now < x + 60000000000)) (wFault [3] []).lodge.faultTimes).length < 4
      ∧ (wFault [3] []).fences = []
      ∧ (∀ (x : Nat), x ∈ (wFault [3] []).lodge.touched → 32 ≤ x ∧ x ≠ 50)))
    ∧ ((wFault [3] [(Reg.TWN_STATUS, Fld.TWN_STATUS_STATE, 7)]).fcState = 2
      ∧ (wFault [3] [(Reg.TWN_STATUS, Fld.TWN_STATUS_STATE, 7)]).lodge.quietUntil = some 59999
      ∧ (wFault [3] [(Reg.TWN_STATUS, Fld.TWN_STATUS_STATE, 7)]).twin.take = none
      ∧ 59999 < (wFault [3] [(Reg.TWN_STATUS, Fld.TWN_STATUS_STATE, 7)]).now
      ∧ (List.filter (fun x => decide ((wFault [3] [(Reg.TWN_STATUS, Fld.TWN_STATUS_STATE, 7)]).now < x + 60000000000)) (wFault [3] [(Reg.TWN_STATUS, Fld.TWN_STATUS_STATE, 7)]).lodge.faultTimes).length < 4
      ∧ (wFault [3] [(Reg.TWN_STATUS, Fld.TWN_STATUS_STATE, 7)]).fences = []
      ∧ (∀ (x : Nat), x ∈ (wFault [3] [(Reg.TWN_STATUS, Fld.TWN_STATUS_STATE, 7)]).lodge.touched → 32 ≤ x ∧ x ≠ 50)
      ∧ (wFault [3] [(Reg.TWN_STATUS, Fld.TWN_STATUS_STATE, 7)]).twinState = 7))
    ∧ ((let __src := wFault [3] [];     State.mk __src.regs __src.imgRegs __src.expertPend 59999 __src.invar __src.free __src.out __src.straps __src.headLead __src.gen __src.grp __src.image __src.pav __src.ctxRecipe __src.chan __src.queue __src.arb __src.ghouse __src.port __src.entry __src.seg __src.stream __src.logRing __src.logArg __src.lodge __src.ic __src.wires __src.filter __src.trigLevel __src.pins __src.mirrorQ __src.mirrorWait __src.partnerState __src.cfg __src.flrUntil __src.ready __src.msixReq __src.luCtx __src.luTable __src.muCtx __src.muGrp __src.fmMem __src.fm __src.bu __src.guCtx __src.guPath __src.guSlot __src.os __src.relay __src.mm __src.dmaDisc __src.enc __src.slot __src.sync __src.dma __src.pcie __src.msix __src.pba __src.brg __src.tw __src.tw8Ptr __src.tun __src.tunQuar __src.twin __src.mgt __src.boot __src.pwr __src.flash __src.otp __src.tcm __src.shared __src.mbx __src.pending).fcState =   2
      ∧ (let __src := wFault [3] [];       State.mk __src.regs __src.imgRegs __src.expertPend 59999 __src.invar __src.free __src.out __src.straps __src.headLead __src.gen __src.grp __src.image __src.pav __src.ctxRecipe __src.chan __src.queue __src.arb __src.ghouse __src.port __src.entry __src.seg __src.stream __src.logRing __src.logArg __src.lodge __src.ic __src.wires __src.filter __src.trigLevel __src.pins __src.mirrorQ __src.mirrorWait __src.partnerState __src.cfg __src.flrUntil __src.ready __src.msixReq __src.luCtx __src.luTable __src.muCtx __src.muGrp __src.fmMem __src.fm __src.bu __src.guCtx __src.guPath __src.guSlot __src.os __src.relay __src.mm __src.dmaDisc __src.enc __src.slot __src.sync __src.dma __src.pcie __src.msix __src.pba __src.brg __src.tw __src.tw8Ptr __src.tun __src.tunQuar __src.twin __src.mgt __src.boot __src.pwr __src.flash __src.otp __src.tcm __src.shared __src.mbx __src.pending).lodge.quietUntil =   some 59999
      ∧ (let __src := wFault [3] [];       State.mk __src.regs __src.imgRegs __src.expertPend 59999 __src.invar __src.free __src.out __src.straps __src.headLead __src.gen __src.grp __src.image __src.pav __src.ctxRecipe __src.chan __src.queue __src.arb __src.ghouse __src.port __src.entry __src.seg __src.stream __src.logRing __src.logArg __src.lodge __src.ic __src.wires __src.filter __src.trigLevel __src.pins __src.mirrorQ __src.mirrorWait __src.partnerState __src.cfg __src.flrUntil __src.ready __src.msixReq __src.luCtx __src.luTable __src.muCtx __src.muGrp __src.fmMem __src.fm __src.bu __src.guCtx __src.guPath __src.guSlot __src.os __src.relay __src.mm __src.dmaDisc __src.enc __src.slot __src.sync __src.dma __src.pcie __src.msix __src.pba __src.brg __src.tw __src.tw8Ptr __src.tun __src.tunQuar __src.twin __src.mgt __src.boot __src.pwr __src.flash __src.otp __src.tcm __src.shared __src.mbx __src.pending).twin.take =   none
      ∧ (let __src := wFault [3] [];     State.mk __src.regs __src.imgRegs __src.expertPend 59999 __src.invar __src.free __src.out __src.straps __src.headLead __src.gen __src.grp __src.image __src.pav __src.ctxRecipe __src.chan __src.queue __src.arb __src.ghouse __src.port __src.entry __src.seg __src.stream __src.logRing __src.logArg __src.lodge __src.ic __src.wires __src.filter __src.trigLevel __src.pins __src.mirrorQ __src.mirrorWait __src.partnerState __src.cfg __src.flrUntil __src.ready __src.msixReq __src.luCtx __src.luTable __src.muCtx __src.muGrp __src.fmMem __src.fm __src.bu __src.guCtx __src.guPath __src.guSlot __src.os __src.relay __src.mm __src.dmaDisc __src.enc __src.slot __src.sync __src.dma __src.pcie __src.msix __src.pba __src.brg __src.tw __src.tw8Ptr __src.tun __src.tunQuar __src.twin __src.mgt __src.boot __src.pwr __src.flash __src.otp __src.tcm __src.shared __src.mbx __src.pending).now ≤   59999))
    ∧ (5 < 64
      ∧ 1 < 5
      ∧ 2 < unitCount 1
      ∧ wMoves.lodge.moves = [wMove1]
      ∧ wMove1.ch = 5
      ∧ wMove1.kind = 1
      ∧ wMove1.unit = 2
      ∧ wMove1.loadUntil = some 9) :=
  ⟨⟨by unfold State.writeOpen; decide +kernel, by decide +kernel⟩,
    ⟨by unfold State.writeOpen; decide +kernel, by decide +kernel⟩,
    by decide +kernel,
    by decide +kernel,
    by decide +kernel,
    by decide +kernel,
    by decide +kernel⟩

/-- States and operands that meet what `Obligations.PowerStates` supposes. -/
theorem witness_PowerStates :
    ((((wQuiet 3 0 []).chooseState = 3
      ∧ (wQuiet 3 0 []).chooseState ≠ 0
      ∧ 1 ≤ 3
      ∧ 3 ≤ 3
      ∧ 3 ≤ (wQuiet 3 0 []).fld Reg.PCR_CTRL Fld.PCR_CTRL_MAX_STATE
      ∧ (wQuiet 3 0 []).roomFor 3 = true
      ∧ (3 = 3 → (wQuiet 3 0 []).mayP3 = true))
    ∧ ((wQuiet 3 262000 []).chooseState ≠ 0
      ∧ 1 ≤ 2
      ∧ 2 ≤ 3
      ∧ 2 ≤ (wQuiet 3 262000 []).fld Reg.PCR_CTRL Fld.PCR_CTRL_MAX_STATE
      ∧ (wQuiet 3 262000 []).roomFor 2 = true
      ∧ (2 = 3 → (wQuiet 3 262000 []).mayP3 = true)))
    ∧ ((wQuiet 3 262000 []).pwr.entry = none
      ∧ (wQuiet 3 262000 []).pwr.exitAt = none
      ∧ (wQuiet 3 262000 []).pwrState = 0
      ∧ (wQuiet 3 262000 []).follows = false
      ∧ (wQuiet 3 262000 []).leadsPair = false
      ∧ (wQuiet 3 262000 []).quiet = true
      ∧ (∀ (c : Nat), c ∈ [2, 4, 6] → (wQuiet 3 262000 []).wakes c 0 = false)
      ∧ (wQuiet 3 262000 []).chooseState ≠ 0
      ∧ (∀ (e : Nat × GenSt), e ∈ (wQuiet 3 262000 []).gen → e.snd.pulses = [])
      ∧ (∀ (e : Nat × EntrySt), e ∈ (wQuiet 3 262000 []).entry → e.fst < 128 → e.snd.owed = [])))
    ∧ ((((hosted []).pwr.entry = none
      ∧ (hosted []).pwr.exitAt = none
      ∧ (hosted []).pwrState = 0
      ∧ (hosted []).follows = false
      ∧ (hosted []).leadsPair = false
      ∧ ((hosted []).quiet = false ∨ ∃ c, c ∈ [2, 4, 6] ∧ (hosted []).wakes c 0 = true))
    ∧ (1 ≤ 3
      ∧ 3 < 9
      ∧ 4 < 40
      ∧ (wAsleep 2).follows = false
      ∧ (wAsleep 2).pwr.exitAt = none
      ∧ (wAsleep 2).wakes 3 4 = true
      ∧ (wAsleep 2).pwrState ≠ 0))
    ∧ (1 ≤ 3
      ∧ 3 < 9
      ∧ 5 < 40
      ∧ (wAsleep 2).follows = false
      ∧ (wAsleep 2).pwr.exitAt = none
      ∧ (wAsleep 2).wakes 3 5 = false))
    ∧ (((1 ≤ 3
      ∧ 3 < 9
      ∧ 4 < 40
      ∧ wEntering.follows = false
      ∧ wEntering.pwr.exitAt = none
      ∧ wEntering.wakes 3 4 = true
      ∧ wEntering.pwrState = 0
      ∧ wEntering.pwr.entry = some (1, 200000))
    ∧ ((wExit 40000).pwr.exitAt = some (40000, 2)
      ∧ (wExit 40000).pwrState = 2
      ∧ 1 ≤ 2
      ∧ 2 < 3
      ∧ 40000 + exitNs 2 ≤ (wExit 40000).now
      ∧ 2 < 32
      ∧ bitB (wExit 40000).pwr.held 2 = true
      ∧ 3 < 128))
    ∧ ((wExit 40001).pwr.exitAt = some (40001, 2)
      ∧ (wExit 40001).pwrState = 2
      ∧ 1 ≤ 2
      ∧ 2 < 3
      ∧ (wExit 40001).now < 40001 + exitNs 2))
    ∧ (((((((5 < 38
      ∧ islandStops (wAsleep 2).pwrState 5 = true
      ∧ (wAsleep 2).pwrState ≠ 3
      ∧ (wAsleep 2).pwr.exitAt = none
      ∧ (∀ (a : Nat × Nat), a ∈ (wAsleep 2).pwr.awake → a.fst ≠ 5))
    ∧ (5 < 38
      ∧ islandStops wAwake.pwrState 5 = true
      ∧ wAwake.pwrState ≠ 3
      ∧ wAwake.pwr.exitAt = none
      ∧ (∃ a, a ∈ wAwake.pwr.awake ∧ a.fst = 5)))
    ∧ ((hosted []).boot.rstLow = false))
    ∧ (wPowerStates1.boot.rstLow = true))
    ∧ (461 < 4096
      ∧ (4 * ↑(wHeat.fld Reg.PCR_CFG Fld.PCR_CFG_THERM_WARN) ≤ if 461 < 2048 then (461 : Int) else (461 : Int) - 4096)
      ∧ wHeat.pwr.warned = false))
    ∧ (399 < 4096
      ∧ (if 399 < 2048 then (399 : Int) else (399 : Int) - 4096) < 4 * ↑(wHeat.fld Reg.PCR_CFG Fld.PCR_CFG_THERM_WARN)))
    ∧ (4000 < 4096
      ∧ (if 4000 < 2048 then (4000 : Int) else (4000 : Int) - 4096) < 4 * ↑(wHeat.fld Reg.PCR_CFG Fld.PCR_CFG_THERM_WARN))) :=
  ⟨by decide +kernel,
    by decide +kernel,
    by decide +kernel,
    by decide +kernel⟩

/-- States and operands that meet what `Obligations.TwinMessages` supposes. -/
theorem witness_TwinMessages :
    (wPow.takeItem 2 7 1 = ((wPow.takeItem 2 7 1).fst, some ((wPow.takeItem 2 7 1).snd.get!.fst, [7, 0, 2, 9000, 0]))
      ∧ (wPow.takeItem 2 7 1).fst.follows = true
      ∧ 7 % 16 = 7
      ∧ 2 ≠ 0
      ∧ (wPow.takeItem 2 7 1).fst.pwrState = 0
      ∧ (wPow.takeItem 2 7 1).fst.pwr.exitAt = none)
    ∧ (wPowLead.takeItem 2 7 1 = ((wPowLead.takeItem 2 7 1).fst, some ((wPowLead.takeItem 2 7 1).snd.get!.fst, [7, 0, 2, 9000, 0]))
      ∧ (wPowLead.takeItem 2 7 1).fst.follows = false)
    ∧ ((wOwed.decideLate 1 2 3 = some fun s : State => s.fillOwed 2 3)
      ∧ 1 < 8
      ∧ 2 < 64
      ∧ 3 < 24
      ∧ (1 = 1 → 2 < 16)
      ∧ (1 = 5 → 2 < 4)
      ∧ wOwed.follows = true)
    ∧ ((wSnap 4).takeItem 2 7 8 = (((wSnap 4).takeItem 2 7 8).fst, some (((wSnap 4).takeItem 2 7 8).snd.get!.fst, [0, 0]))
      ∧ ((wSnap 4).takeItem 2 7 8).fst.twinState = 4)
    ∧ ((wSnap 5).takeItem 2 7 8 = (((wSnap 5).takeItem 2 7 8).fst, some (((wSnap 5).takeItem 2 7 8).snd.get!.fst, [0, 0]))
      ∧ ((wSnap 5).takeItem 2 7 8).fst.twinState ≠ 4)
    ∧ ((wTake5 5 none).takeItem 2 7 7 = (((wTake5 5 none).takeItem 2 7 7).fst, some (((wTake5 5 none).takeItem 2 7 7).snd.get!.fst, [2, 9000, 0]))
      ∧ ((wTake5 5 none).takeItem 2 7 7).fst.twinState = 5
      ∧ ((wTake5 5 none).takeItem 2 7 7).fst.twin.take = none) :=
  ⟨⟨rfl, by decide +kernel⟩,
    ⟨rfl, by decide +kernel⟩,
    ⟨rfl, by decide +kernel⟩,
    ⟨rfl, by decide +kernel⟩,
    ⟨rfl, by decide +kernel⟩,
    ⟨rfl, by decide +kernel⟩⟩

/-- States and operands that meet what `Obligations.TwinMessages` supposes. -/
theorem witness_TwinMessages_2 :
    ((wTake5 5 (some (9001, 1))).takeItem 2 7 7 = (((wTake5 5 (some (9001, 1))).takeItem 2 7 7).fst, some (((wTake5 5 (some (9001, 1))).takeItem 2 7 7).snd.get!.fst, [2, 9000, 0]))
      ∧ ((wTake5 5 (some (9001, 1))).takeItem 2 7 7).fst.twinState = 5
      ∧ ((wTake5 5 (some (9001, 1))).takeItem 2 7 7).fst.twin.take = some (9001, 1))
    ∧ ((wTake5 5 (some (8999, 1))).takeItem 2 7 7 = (((wTake5 5 (some (8999, 1))).takeItem 2 7 7).fst, some (((wTake5 5 (some (8999, 1))).takeItem 2 7 7).snd.get!.fst, [2, 9000, 0]))
      ∧ ((wTake5 5 (some (8999, 1))).takeItem 2 7 7).fst.twinState = 5
      ∧ ((wTake5 5 (some (8999, 1))).takeItem 2 7 7).fst.twin.take = some (8999, 1))
    ∧ ((wTake5 2 none).takeItem 2 7 7 = (((wTake5 2 none).takeItem 2 7 7).fst, some (((wTake5 2 none).takeItem 2 7 7).snd.get!.fst, [2, 9000, 0]))
      ∧ ((wTake5 2 none).takeItem 2 7 7).fst.twinState ≠ 5)
    ∧ ((wStateMsg 1 1 []).takeItem 2 7 6 = (((wStateMsg 1 1 []).takeItem 2 7 6).fst, some (((wStateMsg 1 1 []).takeItem 2 7 6).snd.get!.fst, [1, 0]))
      ∧ ((wStateMsg 1 1 []).takeItem 2 7 6).fst.twinState = 1
      ∧ ((wStateMsg 1 1 []).takeItem 2 7 6).fst.inServiceGroup 2 = true
      ∧ 1 % 8 = 1)
    ∧ ((wStateMsg 1 2 []).takeItem 2 7 6 = (((wStateMsg 1 2 []).takeItem 2 7 6).fst, some (((wStateMsg 1 2 []).takeItem 2 7 6).snd.get!.fst, [2, 0]))
      ∧ ((wStateMsg 1 2 []).takeItem 2 7 6).fst.twinState = 1
      ∧ ((wStateMsg 1 2 []).takeItem 2 7 6).fst.inServiceGroup 2 = true
      ∧ (2 % 8 = 2 ∨ 2 % 8 = 3))
    ∧ ((wStateMsg 1 3 [(Reg.TWN_CFG, Fld.TWN_CFG_AUTO_ADMIT, 1)]).takeItem 2 7 6 = (((wStateMsg 1 3 [(Reg.TWN_CFG, Fld.TWN_CFG_AUTO_ADMIT, 1)]).takeItem 2 7 6).fst, some (((wStateMsg 1 3 [(Reg.TWN_CFG, Fld.TWN_CFG_AUTO_ADMIT, 1)]).takeItem 2 7 6).snd.get!.fst, [3, 0]))
      ∧ ((wStateMsg 1 3 [(Reg.TWN_CFG, Fld.TWN_CFG_AUTO_ADMIT, 1)]).takeItem 2 7 6).fst.twinState = 1
      ∧ ((wStateMsg 1 3 [(Reg.TWN_CFG, Fld.TWN_CFG_AUTO_ADMIT, 1)]).takeItem 2 7 6).fst.inServiceGroup 2 = true
      ∧ (3 % 8 = 2 ∨ 3 % 8 = 3)) :=
  ⟨⟨rfl, by decide +kernel⟩,
    ⟨rfl, by decide +kernel⟩,
    ⟨rfl, by decide +kernel⟩,
    ⟨rfl, by decide +kernel⟩,
    ⟨rfl, by decide +kernel⟩,
    ⟨rfl, by decide +kernel⟩⟩

/-- States and operands that meet what `Obligations.TwinMessages` supposes. -/
theorem witness_TwinMessages_3 :
    ((wStateMsg 2 7 []).takeItem 2 7 6 = (((wStateMsg 2 7 []).takeItem 2 7 6).fst, some (((wStateMsg 2 7 []).takeItem 2 7 6).snd.get!.fst, [7, 0]))
      ∧ ((wStateMsg 2 7 []).takeItem 2 7 6).fst.twinState = 2
      ∧ (7 % 8 = 6 ∨ 7 % 8 = 7)
      ∧ ((wStateMsg 2 7 []).takeItem 2 7 6).fst.fcState < 2)
    ∧ ((wStateMsg 2 6 []).takeItem 2 7 6 = (((wStateMsg 2 6 []).takeItem 2 7 6).fst, some (((wStateMsg 2 6 []).takeItem 2 7 6).snd.get!.fst, [6, 0]))
      ∧ ((wStateMsg 2 6 []).takeItem 2 7 6).fst.twinState = 2
      ∧ (6 % 8 = 6 ∨ 6 % 8 = 7)
      ∧ ((wStateMsg 2 6 []).takeItem 2 7 6).fst.fcState < 2)
    ∧ ((wStateMsg 3 5 []).takeItem 2 7 6 = (((wStateMsg 3 5 []).takeItem 2 7 6).fst, some (((wStateMsg 3 5 []).takeItem 2 7 6).snd.get!.fst, [5, 0]))
      ∧ ((wStateMsg 3 5 []).takeItem 2 7 6).fst.twinState = 3
      ∧ 5 % 8 = 5
      ∧ ((wStateMsg 3 5 []).takeItem 2 7 6).fst.partnerState = 4)
    ∧ ((wStateMsg 4 6 []).takeItem 2 7 6 = (((wStateMsg 4 6 []).takeItem 2 7 6).fst, some (((wStateMsg 4 6 []).takeItem 2 7 6).snd.get!.fst, [6, 0]))
      ∧ ((wStateMsg 4 6 []).takeItem 2 7 6).fst.twinState = 4
      ∧ (6 % 8 = 6 ∨ 6 % 8 = 7))
    ∧ ((wStateMsg 5 7 []).takeItem 2 7 6 = (((wStateMsg 5 7 []).takeItem 2 7 6).fst, some (((wStateMsg 5 7 []).takeItem 2 7 6).snd.get!.fst, [7, 0]))
      ∧ ((wStateMsg 5 7 []).takeItem 2 7 6).fst.twinState = 5
      ∧ (7 % 8 = 6 ∨ 7 % 8 = 7)
      ∧ ((wStateMsg 5 7 []).takeItem 2 7 6).fst.on Reg.TWN_STATUS Fld.TWN_STATUS_HB_PRESENT = false
      ∧ ((wStateMsg 5 7 []).takeItem 2 7 6).fst.twin.take = none)
    ∧ ((wStateMsg 5 6 [(Reg.TWN_STATUS, Fld.TWN_STATUS_HB_PRESENT, 1)]).takeItem 2 7 6 = (((wStateMsg 5 6 [(Reg.TWN_STATUS, Fld.TWN_STATUS_HB_PRESENT, 1)]).takeItem 2 7 6).fst, some (((wStateMsg 5 6 [(Reg.TWN_STATUS, Fld.TWN_STATUS_HB_PRESENT, 1)]).takeItem 2 7 6).snd.get!.fst, [6, 0]))
      ∧ ((wStateMsg 5 6 [(Reg.TWN_STATUS, Fld.TWN_STATUS_HB_PRESENT, 1)]).takeItem 2 7 6).fst.twinState = 5
      ∧ (6 % 8 = 6 ∨ 6 % 8 = 7)
      ∧ ((wStateMsg 5 6 [(Reg.TWN_STATUS, Fld.TWN_STATUS_HB_PRESENT, 1)]).takeItem 2 7 6).fst.on Reg.TWN_STATUS Fld.TWN_STATUS_HB_PRESENT = true
      ∧ ((wStateMsg 5 6 [(Reg.TWN_STATUS, Fld.TWN_STATUS_HB_PRESENT, 1)]).takeItem 2 7 6).fst.twin.take = none) :=
  ⟨⟨rfl, by decide +kernel⟩,
    ⟨rfl, by decide +kernel⟩,
    ⟨rfl, by decide +kernel⟩,
    ⟨rfl, by decide +kernel⟩,
    ⟨rfl, by decide +kernel⟩,
    ⟨rfl, by decide +kernel⟩⟩

/-- States and operands that meet what `Obligations.TwinMessages` supposes. -/
theorem witness_TwinMessages_4 :
    ((wStateMsg 6 2 [(Reg.TWN_CFG, Fld.TWN_CFG_AUTO_ADMIT, 1)]).takeItem 2 7 6 = (((wStateMsg 6 2 [(Reg.TWN_CFG, Fld.TWN_CFG_AUTO_ADMIT, 1)]).takeItem 2 7 6).fst, some (((wStateMsg 6 2 [(Reg.TWN_CFG, Fld.TWN_CFG_AUTO_ADMIT, 1)]).takeItem 2 7 6).snd.get!.fst, [2, 0]))
      ∧ ((wStateMsg 6 2 [(Reg.TWN_CFG, Fld.TWN_CFG_AUTO_ADMIT, 1)]).takeItem 2 7 6).fst.twinState = 6
      ∧ ((wStateMsg 6 2 [(Reg.TWN_CFG, Fld.TWN_CFG_AUTO_ADMIT, 1)]).takeItem 2 7 6).fst.inServiceGroup 2 = true
      ∧ (2 % 8 = 2 ∨ 2 % 8 = 3)
      ∧ ((wStateMsg 6 2 [(Reg.TWN_CFG, Fld.TWN_CFG_AUTO_ADMIT, 1)]).takeItem 2 7 6).fst.on Reg.TWN_CFG Fld.TWN_CFG_AUTO_ADMIT = true
      ∧ 3 < 64)
    ∧ ((wStateMsg 2 5 []).takeItem 2 7 6 = (((wStateMsg 2 5 []).takeItem 2 7 6).fst, some (((wStateMsg 2 5 []).takeItem 2 7 6).snd.get!.fst, [5, 0])))
    ∧ ((wHeadMsg none [] 49).takeRx 1 6 5 = (((wHeadMsg none [] 49).takeRx 1 6 5).fst, some ((wHeadMsg none [] 49).takeRx 1 6 5).snd.get!)
      ∧ 1 < 2
      ∧ ((wHeadMsg none [] 49).takeRx 1 6 5).snd.get!.spec0 = 2
      ∧ ((wHeadMsg none [] 49).takeRx 1 6 5).snd.get!.spec1 = 49
      ∧ ((wHeadMsg none [] 49).takeRx 1 6 5).snd.get!.payload = [0]
      ∧ ((wHeadMsg none [] 49).takeRx 1 6 5).fst.fld Reg.GLB_ROLE Fld.GLB_ROLE_ROLE = 2
      ∧ bitB 2 1 = true
      ∧ (∀ (k : Nat), k < 64 → (((wHeadMsg none [] 49).takeRx 1 6 5).fst.relay.get k).kept = [])
      ∧ ((wHeadMsg none [] 49).takeRx 1 6 5).fst.headLead = none
      ∧ ((wHeadMsg none [] 49).takeRx 1 6 5).fst.twin.heads.get (1 - 1) = none)
    ∧ ((wHeadMsg none [] 51).takeRx 1 6 5 = (((wHeadMsg none [] 51).takeRx 1 6 5).fst, some ((wHeadMsg none [] 51).takeRx 1 6 5).snd.get!)
      ∧ 1 < 2
      ∧ ((wHeadMsg none [] 51).takeRx 1 6 5).snd.get!.spec0 = 2
      ∧ ((wHeadMsg none [] 51).takeRx 1 6 5).snd.get!.spec1 = 51
      ∧ ((wHeadMsg none [] 51).takeRx 1 6 5).snd.get!.payload = [0]
      ∧ ((wHeadMsg none [] 51).takeRx 1 6 5).fst.fld Reg.GLB_ROLE Fld.GLB_ROLE_ROLE = 2
      ∧ bitB 2 1 = true
      ∧ (∀ (k : Nat), k < 64 → (((wHeadMsg none [] 51).takeRx 1 6 5).fst.relay.get k).kept = [])
      ∧ ((wHeadMsg none [] 51).takeRx 1 6 5).fst.headLead = none
      ∧ ((wHeadMsg none [] 51).takeRx 1 6 5).fst.twin.heads.get (1 - 1) = none)
    ∧ ((wHeadMsg (some 0) [(0, some (true, 50))] 49).takeRx 1 6 5 = (((wHeadMsg (some 0) [(0, some (true, 50))] 49).takeRx 1 6 5).fst, some ((wHeadMsg (some 0) [(0, some (true, 50))] 49).takeRx 1 6 5).snd.get!)
      ∧ 1 < 2
      ∧ ((wHeadMsg (some 0) [(0, some (true, 50))] 49).takeRx 1 6 5).snd.get!.spec0 = 2
      ∧ ((wHeadMsg (some 0) [(0, some (true, 50))] 49).takeRx 1 6 5).snd.get!.spec1 = 49
      ∧ ((wHeadMsg (some 0) [(0, some (true, 50))] 49).takeRx 1 6 5).snd.get!.payload = [0]
      ∧ ((wHeadMsg (some 0) [(0, some (true, 50))] 49).takeRx 1 6 5).fst.fld Reg.GLB_ROLE Fld.GLB_ROLE_ROLE = 2
      ∧ bitB 2 1 = true
      ∧ (∀ (k : Nat), k < 64 → (((wHeadMsg (some 0) [(0, some (true, 50))] 49).takeRx 1 6 5).fst.relay.get k).kept = [])
      ∧ ((wHeadMsg (some 0) [(0, some (true, 50))] 49).takeRx 1 6 5).fst.headLead = some (1 - 1)
      ∧ ((wHeadMsg (some 0) [(0, some (true, 50))] 49).takeRx 1 6 5).fst.twin.heads.get (1 - 1) = some (true, 50)
      ∧ 49 + 0 * 2 ^ 32 < 50)
    ∧ ((wHeadMsg (some 0) [(0, some (true, 50))] 51).takeRx 1 6 5 = (((wHeadMsg (some 0) [(0, some (true, 50))] 51).takeRx 1 6 5).fst, some ((wHeadMsg (some 0) [(0, some (true, 50))] 51).takeRx 1 6 5).snd.get!)
      ∧ 1 < 2
      ∧ ((wHeadMsg (some 0) [(0, some (true, 50))] 51).takeRx 1 6 5).snd.get!.spec0 = 2
      ∧ ((wHeadMsg (some 0) [(0, some (true, 50))] 51).takeRx 1 6 5).snd.get!.spec1 = 51
      ∧ ((wHeadMsg (some 0) [(0, some (true, 50))] 51).takeRx 1 6 5).snd.get!.payload = [0]
      ∧ ((wHeadMsg (some 0) [(0, some (true, 50))] 51).takeRx 1 6 5).fst.fld Reg.GLB_ROLE Fld.GLB_ROLE_ROLE = 2
      ∧ bitB 2 1 = true
      ∧ (∀ (k : Nat), k < 64 → (((wHeadMsg (some 0) [(0, some (true, 50))] 51).takeRx 1 6 5).fst.relay.get k).kept = [])
      ∧ ((wHeadMsg (some 0) [(0, some (true, 50))] 51).takeRx 1 6 5).fst.headLead = some (1 - 1)
      ∧ ((wHeadMsg (some 0) [(0, some (true, 50))] 51).takeRx 1 6 5).fst.twin.heads.get (1 - 1) = some (true, 50)
      ∧ 50 < 51 + 0 * 2 ^ 32)
    ∧ ((((1 < 8
      ∧ 2 < 64
      ∧ 3 < 24
      ∧ (1 = 1 → 2 < 16)
      ∧ (1 = 5 → 2 < 4)
      ∧ (hosted []).follows = false)
    ∧ (1 < 8
      ∧ 2 < 64
      ∧ 3 < 24
      ∧ (1 = 1 → 2 < 16)
      ∧ (1 = 5 → 2 < 4)
      ∧ (wTwin 5 2 []).follows = true
      ∧ (wTwin 5 2 []).decideLate 1 2 3 = none))
    ∧ (wRole1.twin.sentAt + 10000 ≤ wRole1.now
      ∧ wRole1.fld Reg.GLB_ROLE Fld.GLB_ROLE_ROLE = 1))
    ∧ (State.reset.now < State.reset.twin.sentAt + 10000)) :=
  ⟨⟨rfl, by decide +kernel⟩,
    rfl,
    ⟨rfl, by decide +kernel⟩,
    ⟨rfl, by decide +kernel⟩,
    ⟨rfl, by decide +kernel⟩,
    ⟨rfl, by decide +kernel⟩,
    by decide +kernel⟩

/-- States and operands that meet what `Obligations.TwinStates` supposes. -/
theorem witness_TwinStates :
    ((wTwin 2 5 []).writeOpen Initiator.mc0 Reg.TWN_CTRL
      ∧ (fun k => bitB (1#32).toNat k) 0 = true
      ∧ (wTwin 2 5 []).twinState = 2
      ∧ (wTwin 2 5 []).partnerState = 5
      ∧ (wTwin 2 5 []).twin.take = none
      ∧ (fun k => bitB (1#32).toNat k) 1 = false
      ∧ (fun k => bitB (1#32).toNat k) 2 = false)
    ∧ ((wTwin 2 6 []).writeOpen Initiator.mc0 Reg.TWN_CTRL
      ∧ (fun k => bitB (2#32).toNat k) 0 = false
      ∧ (fun k => bitB (2#32).toNat k) 1 = true
      ∧ (fun k => bitB (2#32).toNat k) 2 = false
      ∧ (wTwin 2 6 []).leads = true
      ∧ (wTwin 2 6 []).partnerState = 6
      ∧ (wTwin 2 6 []).inServiceGroup 2 = true)
    ∧ ((wTwin 5 2 []).writeOpen Initiator.mc0 Reg.TWN_CTRL
      ∧ (fun k => bitB (1#32).toNat k) 0 = true
      ∧ (fun k => bitB (1#32).toNat k) 2 = false
      ∧ (wTwin 5 2 []).twinState ≠ 2)
    ∧ ((wTwin 5 2 []).writeOpen Initiator.mc0 Reg.TWN_CTRL
      ∧ (fun k => bitB (2#32).toNat k) 1 = true
      ∧ (fun k => bitB (2#32).toNat k) 2 = false
      ∧ (wTwin 5 2 []).leads = false
      ∧ (wTwin 5 2 []).twinState ≠ 2)
    ∧ ((wTwin 5 2 []).writeOpen Initiator.mc0 Reg.TWN_CTRL
      ∧ (fun k => bitB (4#32).toNat k) 2 = true
      ∧ (wTwin 5 2 []).twinState = 5)
    ∧ ((wTwin 2 5 []).writeOpen Initiator.mc0 Reg.TWN_CTRL
      ∧ (fun k => bitB (4#32).toNat k) 0 = false
      ∧ (fun k => bitB (4#32).toNat k) 1 = false
      ∧ (fun k => bitB (4#32).toNat k) 2 = true
      ∧ (wTwin 2 5 []).twinState ≠ 5) :=
  ⟨⟨by unfold State.writeOpen; decide +kernel, by decide +kernel⟩,
    ⟨by unfold State.writeOpen; decide +kernel, by decide +kernel⟩,
    ⟨by unfold State.writeOpen; decide +kernel, by decide +kernel⟩,
    ⟨by unfold State.writeOpen; decide +kernel, by decide +kernel⟩,
    ⟨by unfold State.writeOpen; decide +kernel, by decide +kernel⟩,
    ⟨by unfold State.writeOpen; decide +kernel, by decide +kernel⟩⟩

/-- States and operands that meet what `Obligations.TwinStates` supposes. -/
theorem witness_TwinStates_2 :
    ((wTwin 3 0 []).writeOpen Initiator.mc0 Reg.TWN_CTRL
      ∧ (fun k => bitB (1#32).toNat k) 0 = true
      ∧ (fun k => bitB (1#32).toNat k) 2 = false
      ∧ (wTwin 3 0 []).twinState ≠ 2)
    ∧ ((wTwin 2 5 []).writeOpen Initiator.mc0 Reg.TWN_CTRL
      ∧ (fun k => bitB (3#32).toNat k) 0 = true
      ∧ (wTwin 2 5 []).twinState = 2
      ∧ (wTwin 2 5 []).partnerState = 5
      ∧ (wTwin 2 5 []).twin.take = none)
    ∧ ((((((5 < 8)
    ∧ (3 < 8))
    ∧ ((wAdmit 5).twinState = 4
      ∧ (wAdmit 5).twin.snapped = true
      ∧ (wAdmit 5).on Reg.TB_SYNC_STATUS Fld.TB_SYNC_STATUS_LOCKED = true
      ∧ (∀ (n : Nat), n < 64 → (wAdmit 5).on (Reg.ST_BINDn n) Fld.ST_BINDn_VALID = true → ((wAdmit 5).stream.get n).waitJoin = false)
      ∧ (wAdmit 5).dmaCaughtUp = true
      ∧ (wAdmit 5).now < (wAdmit 5).twin.admitAt + 1000000 * max 100 ((wAdmit 5).fld Reg.TWN_ADMIT_TIMEOUT Fld.TWN_ADMIT_TIMEOUT_MS)))
    ∧ ((wAdmit 100000000).twinState = 4
      ∧ (wAdmit 100000000).twin.snapped = true
      ∧ (wAdmit 100000000).on Reg.TB_SYNC_STATUS Fld.TB_SYNC_STATUS_LOCKED = true
      ∧ (∀ (n : Nat), n < 64 → (wAdmit 100000000).on (Reg.ST_BINDn n) Fld.ST_BINDn_VALID = true → ((wAdmit 100000000).stream.get n).waitJoin = false)
      ∧ (wAdmit 100000000).dmaCaughtUp = true
      ∧ (wAdmit 100000000).now < (wAdmit 100000000).twin.admitAt + 1000000 * max 100 ((wAdmit 100000000).fld Reg.TWN_ADMIT_TIMEOUT Fld.TWN_ADMIT_TIMEOUT_MS)))
    ∧ ((wAdmit (10 ^ 12)).twinState = 4
      ∧ (wAdmit (10 ^ 12)).twin.snapped = true
      ∧ (wAdmit (10 ^ 12)).on Reg.TB_SYNC_STATUS Fld.TB_SYNC_STATUS_LOCKED = true
      ∧ (∀ (n : Nat), n < 64 → (wAdmit (10 ^ 12)).on (Reg.ST_BINDn n) Fld.ST_BINDn_VALID = true → ((wAdmit (10 ^ 12)).stream.get n).waitJoin = false)
      ∧ (wAdmit (10 ^ 12)).dmaCaughtUp = true
      ∧ (wAdmit (10 ^ 12)).twin.admitAt + 1000000 * max 100 ((wAdmit (10 ^ 12)).fld Reg.TWN_ADMIT_TIMEOUT Fld.TWN_ADMIT_TIMEOUT_MS) ≤ (wAdmit (10 ^ 12)).now))
    ∧ ((wTwin 2 5 []).twinState = 2
      ∧ (wTwin 2 5 []).fcState < 2
      ∧ (wTwin 2 5 []).inServiceGroup 2 = true))
    ∧ ((((((((wTwin 5 2 [(Reg.TWN_STATUS, Fld.TWN_STATUS_HB_PRESENT, 1)]).twinState = 5
      ∧ (wTwin 5 2 [(Reg.TWN_STATUS, Fld.TWN_STATUS_HB_PRESENT, 1)]).on Reg.TWN_STATUS Fld.TWN_STATUS_HB_PRESENT = true
      ∧ (wTwin 5 2 [(Reg.TWN_STATUS, Fld.TWN_STATUS_HB_PRESENT, 1)]).twin.take = none
      ∧ (wTwin 5 2 [(Reg.TWN_STATUS, Fld.TWN_STATUS_HB_PRESENT, 1)]).inServiceGroup 2 = true)
    ∧ ((wTwin 5 2 []).twinState = 5
      ∧ (wTwin 5 2 []).on Reg.TWN_STATUS Fld.TWN_STATUS_HB_PRESENT = false
      ∧ (wTwin 5 2 []).twin.take = none
      ∧ (wTwin 5 2 []).inServiceGroup 2 = true))
    ∧ ((wTwin 6 2 []).inServiceGroup 2 = true
      ∧ ¬(wTwin 6 2 []).twinState ∈ [2, 4, 5]))
    ∧ ((wDown 1).inServiceGroup 2 = false
      ∧ (wDown 1).twin.downAt + 1000000 * max 10 ((wDown 1).fld Reg.TWN_CFG Fld.TWN_CFG_ALONE_MS) ≤ (wDown 1).now
      ∧ (wDown 1).twinState = 1))
    ∧ ((wDown 6).inServiceGroup 2 = false
      ∧ (wDown 6).twin.downAt + 1000000 * max 10 ((wDown 6).fld Reg.TWN_CFG Fld.TWN_CFG_ALONE_MS) ≤ (wDown 6).now
      ∧ (wDown 6).twinState = 6))
    ∧ ((wTaking 2 5101 false).twin.take = some (5101, 2)
      ∧ (wTaking 2 5101 false).leads = true
      ∧ (wTaking 2 5101 false).invar + 100 < 5101))
    ∧ ((wTaking 2 5100 false).twin.take = some (5100, 2)
      ∧ (wTaking 2 5100 false).leads = true
      ∧ 5100 ≤ (wTaking 2 5100 false).invar + 100
      ∧ (wTaking 2 5100 false).invar < 5100
      ∧ (wTaking 2 5100 false).fcState < 2))
    ∧ ((((wTaking 2 5000 true).twin.take = some (5000, 2)
      ∧ (wTaking 2 5000 true).leads = true
      ∧ 5000 ≤ (wTaking 2 5000 true).invar
      ∧ (wTaking 2 5000 true).twin.released = true)
    ∧ ((wTaking 5 5001 false).twin.take = some (5001, 2)
      ∧ (wTaking 5 5001 false).twinState = 5
      ∧ 2 < 4
      ∧ (wTaking 5 5001 false).invar < 5001))
    ∧ ((wTaking 5 5000 false).twin.take = some (5000, 2)
      ∧ (wTaking 5 5000 false).twinState = 5
      ∧ 2 < 4
      ∧ 5000 ≤ (wTaking 5 5000 false).invar
      ∧ (∀ (ch : Nat), ch < 64 → ((wTaking 5 5000 false).chan.get ch).wait = [])
      ∧ (∀ (p : Nat), p < 4 → ∀ (k : Nat), k < 8 → ((wTaking 5 5000 false).guC p k).wait = [])
      ∧ (wTaking 5 5000 false).image.latchWait = [])) :=
  ⟨⟨by unfold State.writeOpen; decide +kernel, by decide +kernel⟩,
    ⟨by unfold State.writeOpen; decide +kernel, by decide +kernel⟩,
    by decide +kernel,
    by decide +kernel,
    by decide +kernel⟩

/-- States and operands that meet what `Obligations.Management` supposes. -/
theorem witness_Management :
    ((wMgt none 0 0 [(Reg.MGT_STATUS, Fld.MGT_STATUS_MBX_BUSY, 1)]).writeOpen Initiator.mc0 Reg.MGT_MBX_CMD
      ∧ (wMgt none 0 0 [(Reg.MGT_STATUS, Fld.MGT_STATUS_MBX_BUSY, 1)]).on Reg.MGT_STATUS Fld.MGT_STATUS_MBX_BUSY = true)
    ∧ ((wMgt (some 0) 32 1 []).writeOpen Initiator.mc0 Reg.MGT_MBX_CMD
      ∧ (wMgt (some 0) 32 1 []).on Reg.MGT_STATUS Fld.MGT_STATUS_MBX_BUSY = false
      ∧ (wMgt (some 0) 32 1 []).mgt.mc0Run = true
      ∧ (wMgt (some 0) 32 1 []).mgt.session = some 0
      ∧ (wMgt (some 0) 32 1 []).flashDenied (65536 * (wMgt (some 0) 32 1 []).mbxArg 0) (65536 * (wMgt (some 0) 32 1 []).mbxArg 1) = false
      ∧ 65536 * (wMgt (some 0) 32 1 []).mbxArg 0 + 65536 * (wMgt (some 0) 32 1 []).mbxArg 1 ≤ 2 ^ 32
      ∧ ((wMgt (some 0) 32 1 []).otp.get 0).fst = 0)
    ∧ ((wMgt (some 0) 15 1 []).writeOpen Initiator.mc0 Reg.MGT_MBX_CMD
      ∧ (wMgt (some 0) 15 1 []).on Reg.MGT_STATUS Fld.MGT_STATUS_MBX_BUSY = false
      ∧ (wMgt (some 0) 15 1 []).mgt.mc0Run = true
      ∧ (wMgt (some 0) 15 1 []).mgt.session = some 0
      ∧ (wMgt (some 0) 15 1 []).flashDenied (65536 * (wMgt (some 0) 15 1 []).mbxArg 0) (65536 * (wMgt (some 0) 15 1 []).mbxArg 1) = true
      ∧ 65536 * (wMgt (some 0) 15 1 []).mbxArg 0 + 65536 * (wMgt (some 0) 15 1 []).mbxArg 1 ≤ 2 ^ 32
      ∧ ((wMgt (some 0) 15 1 []).otp.get 0).fst = 0)
    ∧ ((wMgt (some 0) 2097152 256 []).writeOpen Initiator.mc0 Reg.MGT_MBX_CMD
      ∧ (wMgt (some 0) 2097152 256 []).on Reg.MGT_STATUS Fld.MGT_STATUS_MBX_BUSY = false
      ∧ (wMgt (some 0) 2097152 256 []).mgt.mc0Run = true
      ∧ (wMgt (some 0) 2097152 256 []).mgt.session = some 0
      ∧ (wMgt (some 0) 2097152 256 []).mbxArg 0 % 256 = 0
      ∧ (wMgt (some 0) 2097152 256 []).mbxArg 1 % 256 = 0
      ∧ (wMgt (some 0) 2097152 256 []).mbxArg 1 ≤ 131072
      ∧ (wMgt (some 0) 2097152 256 []).mbxArg 0 + (wMgt (some 0) 2097152 256 []).mbxArg 1 ≤ 2 ^ 32
      ∧ (wMgt (some 0) 2097152 256 []).flashDenied ((wMgt (some 0) 2097152 256 []).mbxArg 0) ((wMgt (some 0) 2097152 256 []).mbxArg 1) = false
      ∧ ((wMgt (some 0) 2097152 256 []).otp.get 0).fst = 0)
    ∧ ((wMgt (some 0) 2097152 0 []).writeOpen Initiator.mc0 Reg.MGT_MBX_CMD
      ∧ (wMgt (some 0) 2097152 0 []).on Reg.MGT_STATUS Fld.MGT_STATUS_MBX_BUSY = false
      ∧ (wMgt (some 0) 2097152 0 []).mgt.mc0Run = true
      ∧ (wMgt (some 0) 2097152 0 []).mgt.session = some 0
      ∧ (wMgt (some 0) 2097152 0 []).mbxArg 0 % 256 = 0
      ∧ (wMgt (some 0) 2097152 0 []).mbxArg 1 % 256 = 0
      ∧ (wMgt (some 0) 2097152 0 []).mbxArg 1 ≤ 131072
      ∧ (wMgt (some 0) 2097152 0 []).mbxArg 0 + (wMgt (some 0) 2097152 0 []).mbxArg 1 ≤ 2 ^ 32
      ∧ (wMgt (some 0) 2097152 0 []).flashDenied ((wMgt (some 0) 2097152 0 []).mbxArg 0) ((wMgt (some 0) 2097152 0 []).mbxArg 1) = false
      ∧ (2097407 < (wMgt (some 0) 2097152 0 []).mbxArg 0 ∨ (wMgt (some 0) 2097152 0 []).mbxArg 0 + (wMgt (some 0) 2097152 0 []).mbxArg 1 ≤ 2097407)
      ∧ ((wMgt (some 0) 2097152 0 []).otp.get 0).fst = 0)
    ∧ ((wMgt (some 0) 32 0 []).writeOpen Initiator.mc0 Reg.MGT_MBX_CMD
      ∧ (wMgt (some 0) 32 0 []).on Reg.MGT_STATUS Fld.MGT_STATUS_MBX_BUSY = false
      ∧ (wMgt (some 0) 32 0 []).mgt.mc0Run = true
      ∧ (wMgt (some 0) 32 0 []).mgt.session = some 0
      ∧ (wMgt (some 0) 32 0 []).flashDenied (65536 * (wMgt (some 0) 32 0 []).mbxArg 0) (65536 * (wMgt (some 0) 32 0 []).mbxArg 1) = false
      ∧ 65536 * (wMgt (some 0) 32 0 []).mbxArg 0 + 65536 * (wMgt (some 0) 32 0 []).mbxArg 1 ≤ 2 ^ 32
      ∧ ((wMgt (some 0) 32 0 []).otp.get 0).fst = 0) :=
  ⟨⟨by unfold State.writeOpen; decide +kernel, by decide +kernel⟩,
    ⟨by unfold State.writeOpen; decide +kernel, by decide +kernel⟩,
    ⟨by unfold State.writeOpen; decide +kernel, by decide +kernel⟩,
    ⟨by unfold State.writeOpen; decide +kernel, by decide +kernel⟩,
    ⟨by unfold State.writeOpen; decide +kernel, by decide +kernel⟩,
    ⟨by unfold State.writeOpen; decide +kernel, by decide +kernel⟩⟩

/-- States and operands that meet what `Obligations.Management` supposes. -/
theorem witness_Management_2 :
    ((wMgt (some 0) 1 1 []).writeOpen Initiator.mc0 Reg.MGT_MBX_CMD
      ∧ (wMgt (some 0) 1 1 []).on Reg.MGT_STATUS Fld.MGT_STATUS_MBX_BUSY = false
      ∧ (wMgt (some 0) 1 1 []).mgt.mc0Run = true
      ∧ (wMgt (some 0) 1 1 []).mgt.session = some 0
      ∧ (wMgt (some 0) 1 1 []).flashDenied (65536 * (wMgt (some 0) 1 1 []).mbxArg 0) (65536 * (wMgt (some 0) 1 1 []).mbxArg 1) = false
      ∧ 65536 * (wMgt (some 0) 1 1 []).mbxArg 0 + 65536 * (wMgt (some 0) 1 1 []).mbxArg 1 ≤ 2 ^ 32
      ∧ (wMgt (some 0) 1 1 []).mbxArg 0 < 3
      ∧ (wMgt (some 0) 1 1 []).mbxArg 1 < 2
      ∧ ¬((wMgt (some 0) 1 1 []).mbxArg 0, (wMgt (some 0) 1 1 []).mbxArg 1) ∈ (wMgt (some 0) 1 1 []).mgt.passed
      ∧ ((wMgt (some 0) 1 1 []).otp.get 0).fst = 0
      ∧ (wMgt (some 0) 1 1 []).mbxArg 0 < 4
      ∧ (wMgt (some 0) 1 1 []).someValid ((wMgt (some 0) 1 1 []).mbxArg 0) = false
      ∧ 1 < 8)
    ∧ (wManagement1.writeOpen Initiator.mc0 Reg.MGT_MBX_CMD
      ∧ wManagement1.on Reg.MGT_STATUS Fld.MGT_STATUS_MBX_BUSY = false
      ∧ wManagement1.mgt.mc0Run = true
      ∧ wManagement1.mgt.session = some 0
      ∧ wManagement1.flashDenied (65536 * wManagement1.mbxArg 0) (65536 * wManagement1.mbxArg 1) = false
      ∧ 65536 * wManagement1.mbxArg 0 + 65536 * wManagement1.mbxArg 1 ≤ 2 ^ 32
      ∧ wManagement1.mbxArg 0 < 3
      ∧ wManagement1.mbxArg 1 < 2
      ∧ ¬(wManagement1.mbxArg 0, wManagement1.mbxArg 1) ∈ wManagement1.mgt.passed
      ∧ wManagement1.mbxArg 0 < 4
      ∧ wManagement1.someValid (wManagement1.mbxArg 0) = true
      ∧ 1 < 8)
    ∧ ((wMgt none 1 1 [(Reg.MGT_STATUS, Fld.MGT_STATUS_ID_READY, 1)]).writeOpen Initiator.mc0 Reg.MGT_MBX_CMD
      ∧ (wMgt none 1 1 [(Reg.MGT_STATUS, Fld.MGT_STATUS_ID_READY, 1)]).on Reg.MGT_STATUS Fld.MGT_STATUS_MBX_BUSY = false
      ∧ (wMgt none 1 1 [(Reg.MGT_STATUS, Fld.MGT_STATUS_ID_READY, 1)]).mgt.mc0Run = true
      ∧ (wMgt none 1 1 [(Reg.MGT_STATUS, Fld.MGT_STATUS_ID_READY, 1)]).mgt.session = none
      ∧ (wMgt none 1 1 [(Reg.MGT_STATUS, Fld.MGT_STATUS_ID_READY, 1)]).mgt.nonce = some (List.replicate 32 7)
      ∧ (wMgt none 1 1 [(Reg.MGT_STATUS, Fld.MGT_STATUS_ID_READY, 1)]).mbxArg 0 < 4
      ∧ 2 < 8
      ∧ (wMgt none 1 1 [(Reg.MGT_STATUS, Fld.MGT_STATUS_ID_READY, 1)]).mbxArg 0 < 3
      ∧ (wMgt none 1 1 [(Reg.MGT_STATUS, Fld.MGT_STATUS_ID_READY, 1)]).mbxArg 1 < 2
      ∧ (wMgt none 1 1 [(Reg.MGT_STATUS, Fld.MGT_STATUS_ID_READY, 1)]).on Reg.MGT_STATUS Fld.MGT_STATUS_ID_READY = true)
    ∧ (wManagement2.writeOpen Initiator.mc0 Reg.MGT_MBX_CMD
      ∧ wManagement2.on Reg.MGT_STATUS Fld.MGT_STATUS_MBX_BUSY = false
      ∧ wManagement2.mgt.mc0Run = true
      ∧ wManagement2.mgt.session = some 0
      ∧ wManagement2.flashDenied (65536 * wManagement2.mbxArg 0) (65536 * wManagement2.mbxArg 1) = false
      ∧ 65536 * wManagement2.mbxArg 0 + 65536 * wManagement2.mbxArg 1 ≤ 2 ^ 32
      ∧ wManagement2.mbxArg 0 < 3
      ∧ wManagement2.mbxArg 1 < 2
      ∧ (wManagement2.mbxArg 0, wManagement2.mbxArg 1) ∈ wManagement2.mgt.passed
      ∧ (wManagement2.otp.get 0).fst = 0
      ∧ wManagement2.mbxArg 0 < 4
      ∧ wManagement2.someValid (wManagement2.mbxArg 0) = false
      ∧ 1 < 8)
    ∧ (wDog.writeOpen Initiator.mc0 Reg.MGT_WDT_KICK
      ∧ 0 < 2)
    ∧ (wDog.writeOpen Initiator.mc0 Reg.MGT_WDT_KICK
      ∧ 1 < 2) :=
  ⟨⟨by unfold State.writeOpen; decide +kernel, by decide +kernel⟩,
    ⟨by unfold State.writeOpen; decide +kernel, by decide +kernel⟩,
    ⟨by unfold State.writeOpen; decide +kernel, by decide +kernel⟩,
    ⟨by unfold State.writeOpen; decide +kernel, by decide +kernel⟩,
    ⟨by unfold State.writeOpen; decide +kernel, by decide +kernel⟩,
    ⟨by unfold State.writeOpen; decide +kernel, by decide +kernel⟩⟩

/-- States and operands that meet what `Obligations.Management` supposes. -/
theorem witness_Management_3 :
    (wDog.writeOpen Initiator.mc0 Reg.MGT_LOG_CODE
      ∧ 32768 ≤ (32773#32).toNat % 65536)
    ∧ (wDog.writeOpen Initiator.mc0 Reg.MGT_LOG_CODE
      ∧ (32767#32).toNat % 65536 < 32768)
    ∧ (wDog.readOpen Initiator.mc0 Reg.GLB_IMG_WINDOW_DATA
      ∧ (wDog.image.verified = false ∨ wDog.on Reg.GLB_IMG_WINDOW Fld.GLB_IMG_WINDOW_STALE = true ∨ wDog.image.bytes.length ≤ wDog.fld Reg.GLB_IMG_WINDOW Fld.GLB_IMG_WINDOW_OFFSET))
    ∧ (((((wManagement3.mgt.cmd = some (MbxCmd.mk 16 6 3 false))
    ∧ (0 < 2
      ∧ wDog.coreRuns 0 = true
      ∧ wDog.fld (Reg.MGT_WDTt_CFG 0) Fld.MGT_WDTt_CFG_MS ≠ 0
      ∧ wDog.mgt.wdtAt.get 0 + 1000000 * wDog.fld (Reg.MGT_WDTt_CFG 0) Fld.MGT_WDTt_CFG_MS ≤ wDog.now))
    ∧ (0 < 2
      ∧ wManagement4.coreRuns 0 = true
      ∧ (wManagement4.fld (Reg.MGT_WDTt_CFG 0) Fld.MGT_WDTt_CFG_MS = 0 ∨ wManagement4.now < wManagement4.mgt.wdtAt.get 0 + 1000000 * wManagement4.fld (Reg.MGT_WDTt_CFG 0) Fld.MGT_WDTt_CFG_MS)))
    ∧ (wDog.on Reg.GLB_IMG_STATUS Fld.GLB_IMG_STATUS_APPLIED = false))
    ∧ ((withFields wDog [(Reg.GLB_IMG_STATUS, Fld.GLB_IMG_STATUS_APPLIED, 1)]).on Reg.GLB_IMG_STATUS Fld.GLB_IMG_STATUS_APPLIED = true
      ∧ (withFields wDog [(Reg.GLB_IMG_STATUS, Fld.GLB_IMG_STATUS_APPLIED, 1)]).on Reg.MGT_STATUS Fld.MGT_STATUS_ID_READY = false)) :=
  ⟨⟨by unfold State.writeOpen; decide +kernel, by decide +kernel⟩,
    ⟨by unfold State.writeOpen; decide +kernel, by decide +kernel⟩,
    ⟨by unfold State.readOpen; decide +kernel, by decide +kernel⟩,
    by decide +kernel⟩



/-- States and operands that meet what `Obligations.StepKeepsInv` supposes. -/
theorem witness_StepKeepsInv : wKeyed.Inv ∧ step wKeyed = .next (getNext (step wKeyed)) :=
  ⟨witness_KeySlotsOnlyAdvance.1, rfl⟩

end Sys2Proof.Tests
end

/-! PROOFS. Software writes of counters (R8 to R10): which registers are counters, that a write of one has no effect beside its own, and the drop
count of the channel that PGL_CH_SEL names. -/

namespace Sys2Proof.Machine

/-! ### Which registers are counters -/

/-- The one field of a counter: the whole register (R8). -/
def counterField : FieldRow := ⟨0, 32, .rw, false, true, 0⟩

/-- Every row of the register table, block after block. -/
def allRows : List RegRow :=
  regRowsGlb ++ regRowsSp ++ regRowsSt ++ regRowsPgl ++ regRowsLu ++ regRowsMu ++ regRowsGu ++ regRowsBu ++ regRowsOf ++ regRowsOs
    ++ regRowsTb ++ regRowsFm ++ regRowsDma ++ regRowsLnk ++ regRowsBrg ++ regRowsTw ++ regRowsIc ++ regRowsFc ++ regRowsPcr
    ++ regRowsMgt ++ regRowsTwn

theorem mem_allRows_of_mem_rowsOf {off : Nat} {r : RegRow} (h : r ∈ rowsOf off) : r ∈ allRows := by
  unfold allRows
  simp only [List.mem_append]
  unfold rowsOf at h
  split at h
  case h_5 =>
    dsimp only at h
    repeat' split at h
    all_goals simp only [h, true_or, or_true]
  case h_10 =>
    split at h
    all_goals simp only [h, true_or, or_true]
  case h_17 => cases h
  all_goals simp only [h, true_or, or_true]

theorem counterRow_fields : ∀ r ∈ allRows, r.fields.any (fun f => f.counter) = true → r.fields = [counterField] := by
  decide +kernel

/-- The row of a counter has the one field of a counter. -/
theorem exists_counterRow {off : Nat} (h : isCounter off = true) :
    ∃ r, findReg off = some r ∧ r ∈ rowsOf off ∧ r.fields = [counterField] := by
  unfold isCounter at h
  split at h
  · next r hr =>
    have hm : r ∈ rowsOf off := List.mem_of_find?_eq_some hr
    exact ⟨r, hr, hm, counterRow_fields r (mem_allRows_of_mem_rowsOf hm) h⟩
  · exact absurd h (by simp)

theorem rowsOf_eq_nil {off : Nat} (h : 16 ≤ off / 0x100000) : rowsOf off = [] := by
  unfold rowsOf
  split
  case h_17 => rfl
  all_goals omega

/-- The debug window, and what lies beyond it, hold no counter. -/
theorem counter_block_lt {off : Nat} (h : isCounter off = true) : off / 0x100000 < 16 := by
  obtain ⟨r, -, hm, -⟩ := exists_counterRow h
  refine Nat.lt_of_not_le fun hb => ?_
  rw [rowsOf_eq_nil hb] at hm
  cases hm

theorem counterRow_ic_mgt : ∀ r ∈ regRowsIc ++ regRowsMgt, r.fields = [counterField] → r.dims = [] ∧ r.base % 0x100000 < 0x1000 := by
  decide +kernel

/-- The counters of the Bandstand and of the management block lie below the source table and the mailbox buffer. -/
theorem counter_ic_mgt_low {off : Nat} (h : isCounter off = true) (hb : off / 0x100000 = 11 ∨ off / 0x100000 = 14) :
    off % 0x100000 < 0x1000 := by
  obtain ⟨r, hr, hm, hf⟩ := exists_counterRow h
  have hm' : r ∈ regRowsIc ++ regRowsMgt := by
    rcases hb with hb | hb <;> simp only [rowsOf, hb] at hm <;> simp [hm]
  obtain ⟨hd, hlow⟩ := counterRow_ic_mgt r hm' hf
  have hp := List.find?_some hr
  simp only [hd, onDims, Bool.and_eq_true, decide_eq_true_eq, beq_iff_eq] at hp
  omega

/-- A counter is no register that is not one. -/
theorem ne_of_isCounter {off x : Nat} (h : isCounter off = true) (hx : isCounter x = false) : off ≠ x := by
  rintro rfl
  rw [h] at hx
  cases hx

theorem beq_of_isCounter {off x : Nat} (h : isCounter off = true) (hx : isCounter x = false) : (off == x) = false :=
  beq_false_of_ne (ne_of_isCounter h hx)

/-- A search over a family of registers finds none where each register of it fails the test. -/
theorem find?_range_eq_none {n : Nat} {p : Nat → Bool} (h : ∀ k < n, p k = false) : (List.range n).find? p = none :=
  List.find?_eq_none.mpr fun k hk => by simp [h k (List.mem_range.mp hk)]

theorem statusPairs_not_counters : ∀ src < 205, ∀ p ∈ statusPairs src, isCounter p.1 = false := by decide +kernel

/-- A counter is no status register: its write completes no interrupt source (R465). -/
theorem statusSource_of_isCounter {off : Nat} (h : isCounter off = true) : statusSource off = none :=
  find?_range_eq_none fun src hsrc => List.any_eq_false.mpr fun p hp => by
    simp [Ne.symm (ne_of_isCounter h (statusPairs_not_counters src hsrc p hp))]

/-! ### A plain write of a counter (R8, R9) -/

theorem counterField_write (old new hw : Word) :
    counterField.write old.toNat new.toNat hw.toNat = if new = 0 then 0 else old.toNat := by
  have ho : old.toNat / 2 ^ 0 % 2 ^ 32 = old.toNat := by have := old.isLt; omega
  have hn : new.toNat / 2 ^ 0 % 2 ^ 32 = new.toNat := by have := new.isLt; omega
  have h0 : new.toNat = 0 ↔ new = 0 := by simp [BitVec.toNat_eq]
  simp only [FieldRow.write, counterField, ho, hn, if_true, h0]

theorem State.plainWrite_counter {off : Nat} (h : isCounter off = true) (s : State) (data hw : Word) :
    s.plainWrite off data hw = s.setReg off (if data = 0 then 0 else s.reg off) := by
  obtain ⟨r, hr, -, hf⟩ := exists_counterRow h
  unfold State.plainWrite RegRow.write
  simp only [hr, hf, List.foldl_cons, List.foldl_nil, counterField_write]
  congr 1
  split <;> simp [counterField]

/-! ### What follows a change of registers that shape balls and wires -/

/-- A fold whose every step leaves its argument alone. -/
theorem foldl_eq_self {α β : Type} {f : β → α → β} {b : β} {l : List α} (h : ∀ a ∈ l, f b a = b) : l.foldl f b = b := by
  induction l with
  | nil => rfl
  | cons a l ih =>
    rw [List.foldl_cons, h a List.mem_cons_self]
    exact ih fun x hx => h x (List.mem_cons_of_mem a hx)

/-- Folds whose steps agree on the elements of the list agree. -/
theorem foldl_congr_mem {α β : Type} {f g : β → α → β} {l : List α} (h : ∀ a ∈ l, ∀ b, f b a = g b a) (b : β) :
    l.foldl f b = l.foldl g b := by
  induction l generalizing b with
  | nil => rfl
  | cons a l ih =>
    rw [List.foldl_cons, List.foldl_cons, h a List.mem_cons_self]
    exact ih (fun x hx => h x (List.mem_cons_of_mem a hx)) _

/-- Two states that `State.follow` cannot tell apart: the same filters and polarities of inputs, polarities of strobes, FAULT_N and virtual
wires, and the same levels of triggers and pins. -/
structure SameShape (s t : State) : Prop where
  trigCfg : ∀ i < 16, t.reg (Reg.TB_TRIGi_CFG i) = s.reg (Reg.TB_TRIGi_CFG i)
  encCfg : ∀ k < 2, t.reg (Reg.TB_ENCk_CFG k) = s.reg (Reg.TB_ENCk_CFG k)
  strobeCfg : ∀ i < 32, t.reg (Reg.TB_STBi_CFG i) = s.reg (Reg.TB_STBi_CFG i)
  wireSel : ∀ w < 32, t.reg (Reg.BRG_VW_SELw w) = s.reg (Reg.BRG_VW_SELw w)
  wireSw : t.reg Reg.BRG_VW_SW = s.reg Reg.BRG_VW_SW
  faultLo : t.reg Reg.FC_STATUS_LO = s.reg Reg.FC_STATUS_LO
  faultHi : t.reg Reg.FC_STATUS_HI = s.reg Reg.FC_STATUS_HI
  trigLevel : t.trigLevel = s.trigLevel
  pins : t.pins = s.pins

section
variable {s t : State}

theorem SameShape.inputTaps (h : SameShape s t) {j : Nat} (hj : j < 20) : t.inputTaps j = s.inputTaps j := by
  unfold State.inputTaps State.fld
  split
  · next hi => rw [h.trigCfg j hi]
  · rw [h.encCfg _ (by omega)]

theorem SameShape.trig (h : SameShape s t) (i : Nat) : t.trig i = s.trig i := by
  unfold State.trig State.on
  by_cases hi : i < 16
  · rw [h.trigCfg i hi, h.trigLevel]
  · simp [hi]

theorem SameShape.faultN (h : SameShape s t) : t.faultN = s.faultN := by
  unfold State.faultN
  rw [h.faultLo, h.faultHi]

theorem SameShape.wireOut (h : SameShape s t) {w : Nat} (hw : w < 32) : t.wireOut w = s.wireOut w := by
  unfold State.wireOut State.fld State.bit
  dsimp only
  rw [h.wireSel w hw, h.trig, h.faultN, h.pins, h.wireSw]

theorem SameShape.wiresOut (h : SameShape s t) : t.wiresOut = s.wiresOut :=
  foldl_congr_mem (fun w hw a => by rw [h.wireOut (List.mem_range.mp hw)]) 0

theorem SameShape.bypass (h : SameShape s t) : t.bypass s = t := by
  have none_opens : (List.range 20).filter
      (fun j => t.inputTaps j == 0 && s.inputTaps j != 0 && t.inputRaw j != t.inputLevel j) = [] :=
    List.filter_eq_nil_iff.mpr fun j hj => by rw [h.inputTaps (List.mem_range.mp hj)]; simp
  unfold State.bypass
  simp only [none_opens, if_true]

/-- Between states of the same shape nothing follows. -/
theorem SameShape.follow (h : SameShape s t) : t.follow s = t := by
  have trigs : (List.range 16).foldl (fun u i => if u.trig i = s.trig i then u else u.trigMoved i) t = t :=
    foldl_eq_self fun i _ => if_pos (h.trig i)
  have strobes : (List.range 32).foldl (fun u i =>
      if u.on (Reg.TB_STBi_CFG i) Fld.TB_STBi_CFG_POL = s.on (Reg.TB_STBi_CFG i) Fld.TB_STBi_CFG_POL then u else u.strobePin i) t = t :=
    foldl_eq_self fun i hi => if_pos (by unfold State.on; rw [h.strobeCfg i (List.mem_range.mp hi)])
  have wires : t.wiresFrom s.wiresOut = t := by
    have quiet : Nat.xor s.wiresOut t.wiresOut = 0 := h.wiresOut ▸ Nat.xor_self _
    simp only [State.wiresFrom, State.wiresChanged, quiet, if_true]
  unfold State.follow
  simp only [h.bypass, trigs, strobes, h.faultN, if_true, wires]

end

/-! ### What a software write of a counter does -/

section
variable {off : Nat} (h : isCounter off = true)
include h

theorem State.reg_setReg_counter (s : State) (w : Word) {x : Nat} (hx : isCounter x = false) : (s.setReg off w).reg x = s.reg x :=
  State.reg_setReg_other s w (ne_of_isCounter h hx).symm

theorem SameShape.setReg_counter (s : State) (w : Word) : SameShape s (s.setReg off w) where
  trigCfg i hi := State.reg_setReg_counter h s w
    ((by decide +kernel : ∀ i < 16, isCounter (Reg.TB_TRIGi_CFG i) = false) i hi)
  encCfg k hk := State.reg_setReg_counter h s w
    ((by decide +kernel : ∀ k < 2, isCounter (Reg.TB_ENCk_CFG k) = false) k hk)
  strobeCfg i hi := State.reg_setReg_counter h s w
    ((by decide +kernel : ∀ i < 32, isCounter (Reg.TB_STBi_CFG i) = false) i hi)
  wireSel i hi := State.reg_setReg_counter h s w
    ((by decide +kernel : ∀ i < 32, isCounter (Reg.BRG_VW_SELw i) = false) i hi)
  wireSw := State.reg_setReg_counter h s w (by decide +kernel)
  faultLo := State.reg_setReg_counter h s w (by decide +kernel)
  faultHi := State.reg_setReg_counter h s w (by decide +kernel)
  trigLevel := rfl
  pins := rfl

theorem State.plainThen_counter (s : State) (data hw : Word) : s.plainThen off data hw = s.plainWrite off data hw := by
  unfold State.plainThen
  rw [State.plainWrite_counter h]
  exact (SameShape.setReg_counter h s _).follow

theorem State.pglWrite_counter (hd : off ≠ Reg.PGL_CH_DROP_CNT) (s : State) (data hw : Word) :
    s.pglWrite off data hw = s.plainWrite off data hw := by
  have hs : off ≠ Reg.PGL_CH_SEL := ne_of_isCounter h (by decide +kernel)
  simp only [State.pglWrite, hs, hd, if_false]

theorem State.pvWrite_counter (s : State) (data hw : Word) : s.pvWrite off data hw = s.plainWrite off data hw := by
  have hp : off % 0x100000 / 0x40000 < 4 := by omega
  have table : ∀ u < 4, off ≠ Reg.PVp_LUu_TBL_DATA (off % 0x100000 / 0x40000) u := fun u hu =>
    ne_of_isCounter h ((by decide +kernel : ∀ p < 4, ∀ u < 4, isCounter (Reg.PVp_LUu_TBL_DATA p u) = false) _ hp u hu)
  have luCfg : ∀ u < 4, ∀ c < 8, off ≠ Reg.PVp_LUu_CTXc_CFG (off % 0x100000 / 0x40000) u c := fun u hu c hc =>
    ne_of_isCounter h
      ((by decide +kernel : ∀ p < 4, ∀ u < 4, ∀ c < 8, isCounter (Reg.PVp_LUu_CTXc_CFG p u c) = false) _ hp u hu c hc)
  have buCfg : ∀ u < 2, ∀ c < 8, off ≠ Reg.PVp_BUu_CTXc_CFG (off % 0x100000 / 0x40000) u c := fun u hu c hc =>
    ne_of_isCounter h
      ((by decide +kernel : ∀ p < 4, ∀ u < 2, ∀ c < 8, isCounter (Reg.PVp_BUu_CTXc_CFG p u c) = false) _ hp u hu c hc)
  have buGrid : ∀ u < 2, ∀ c < 8, off ≠ Reg.PVp_BUu_CTXc_ZGRID (off % 0x100000 / 0x40000) u c := fun u hu c hc =>
    ne_of_isCounter h
      ((by decide +kernel : ∀ p < 4, ∀ u < 2, ∀ c < 8, isCounter (Reg.PVp_BUu_CTXc_ZGRID p u c) = false) _ hp u hu c hc)
  unfold State.pvWrite
  dsimp only
  split
  · rw [if_neg (table _ (by omega)), if_neg]
    rintro ⟨-, hc, he⟩
    exact luCfg _ (by omega) _ hc he
  · split
    · have hu : (off % 0x40000 - 0x28000) / 0x4000 < 2 := by omega
      rw [if_neg]
      rintro ⟨-, hc, he | he⟩
      · exact buCfg _ hu _ hc he
      · exact buGrid _ hu _ hc he
    · rfl

theorem State.tbWrite_counter (s : State) (data hw : Word) : s.tbWrite off data hw = s.plainWrite off data hw := by
  have hsw : off ≠ Reg.TB_STB_SW := ne_of_isCounter h (by decide +kernel)
  have hstart : off ≠ Reg.TB_STB_START := ne_of_isCounter h (by decide +kernel)
  have hstop : off ≠ Reg.TB_STB_STOP := ne_of_isCounter h (by decide +kernel)
  have hslot : (List.range 8).find? (fun k => off == Reg.TB_SCHEDk_CTRL k) = none := find?_range_eq_none fun k hk =>
    beq_of_isCounter h ((by decide +kernel : ∀ k < 8, isCounter (Reg.TB_SCHEDk_CTRL k) = false) k hk)
  simp only [State.tbWrite, hsw, hstart, hstop, hslot, if_false, State.plainThen_counter h]

theorem State.dmaWrite_counter (s : State) (data hw : Word) : s.dmaWrite off data hw = s.plainWrite off data hw := by
  unfold State.dmaWrite
  dsimp only
  split
  · rfl
  · next hch =>
    have hc : (off - Reg.DMA_CHn_CTRL 0) / 0x80 < 32 := by omega
    generalize (off - Reg.DMA_CHn_CTRL 0) / 0x80 = c at hc
    have hctrl : off ≠ Reg.DMA_CHn_CTRL c :=
      ne_of_isCounter h ((by decide +kernel : ∀ c < 32, isCounter (Reg.DMA_CHn_CTRL c) = false) c hc)
    have hsem : off ≠ Reg.DMA_CHn_SEM_ADD c :=
      ne_of_isCounter h ((by decide +kernel : ∀ c < 32, isCounter (Reg.DMA_CHn_SEM_ADD c) = false) c hc)
    have hguard : (dmaGuarded c).contains off = false := by
      rw [List.contains_eq_mem, decide_eq_false_iff_not]
      exact fun hm => ne_of_isCounter h
        ((by decide +kernel : ∀ c < 32, ∀ x ∈ dmaGuarded c, isCounter x = false) c hc off hm) rfl
    simp only [hctrl, hsem, hguard, if_false, Bool.false_and, Bool.false_eq_true]

theorem State.lnkWrite_counter (s : State) (data hw : Word) : s.lnkWrite off data hw = s.plainWrite off data hw := by
  have hgroup : (List.range 3).find? (fun g => off == Reg.LNK_Gg_CTRL g) = none := find?_range_eq_none fun g hg =>
    beq_of_isCounter h ((by decide +kernel : ∀ g < 3, isCounter (Reg.LNK_Gg_CTRL g) = false) g hg)
  have hpop : off ≠ Reg.BRG_PERR_POP := ne_of_isCounter h (by decide +kernel)
  simp only [State.lnkWrite, hgroup, hpop, if_false, State.plainThen_counter h, ite_self]

theorem State.twWrite_counter (s : State) (data hw : Word) : s.twWrite off data hw = s.plainWrite off data hw := by
  have htw8 : off ≠ Reg.TW8_CTRL := ne_of_isCounter h (by decide +kernel)
  have hctl : (List.range 8).find? (fun k => off == Reg.TWk_WDATA k || off == Reg.TWk_QCMD k || off == Reg.TWk_CTRL k) = none :=
    find?_range_eq_none fun k hk => by
      obtain ⟨hw, hq, hc⟩ := (by decide +kernel : ∀ k < 8, isCounter (Reg.TWk_WDATA k) = false
        ∧ isCounter (Reg.TWk_QCMD k) = false ∧ isCounter (Reg.TWk_CTRL k) = false) k hk
      simp only [beq_of_isCounter h hw, beq_of_isCounter h hq, beq_of_isCounter h hc, Bool.or_self]
  simp only [State.twWrite, htw8, hctl, if_false]

theorem State.icWrite_counter (hb : off / 0x100000 = 11) (s : State) (data hw : Word) :
    s.icWrite off data hw = s.plainWrite off data hw := by
  have heoi : off ≠ Reg.IC_HOST_EOI := ne_of_isCounter h (by decide +kernel)
  have hhold : off ≠ Reg.IC_HOLD := ne_of_isCounter h (by decide +kernel)
  have hcore : (List.range 2).find? (fun t => off == Reg.IC_Tt_EOI t) = none := find?_range_eq_none fun t ht =>
    beq_of_isCounter h ((by decide +kernel : ∀ t < 2, isCounter (Reg.IC_Tt_EOI t) = false) t ht)
  have hpend : (List.range 16).find? (fun k => off == Reg.IC_PENDk k || off == Reg.IC_MASKk k) = none :=
    find?_range_eq_none fun k hk => by
      obtain ⟨hp, hm⟩ := (by decide +kernel : ∀ k < 16, isCounter (Reg.IC_PENDk k) = false ∧ isCounter (Reg.IC_MASKk k) = false) k hk
      simp only [beq_of_isCounter h hp, beq_of_isCounter h hm, Bool.or_self]
  have hlow := counter_ic_mgt_low h (.inl hb)
  simp only [State.icWrite, heoi, hhold, hcore, hpend, if_false]
  rw [if_neg (by omega)]

theorem State.fcWrite_counter (s : State) (data hw : Word) : s.fcWrite off data hw = s.plainWrite off data hw := by
  have hack : off ≠ Reg.FC_ACK := ne_of_isCounter h (by decide +kernel)
  have hrevive : off ≠ Reg.FC_REVIVE := ne_of_isCounter h (by decide +kernel)
  have hinject : off ≠ Reg.FC_INJECT := ne_of_isCounter h (by decide +kernel)
  have hclass : (List.range 2).find? (fun w => off == Reg.FC_CLASS_LOw w || off == Reg.FC_CLASS_HIw w) = none :=
    find?_range_eq_none fun w hw => by
      obtain ⟨hl, hh⟩ :=
        (by decide +kernel : ∀ w < 2, isCounter (Reg.FC_CLASS_LOw w) = false ∧ isCounter (Reg.FC_CLASS_HIw w) = false) w hw
      simp only [beq_of_isCounter h hl, beq_of_isCounter h hh, Bool.or_self]
  simp only [State.fcWrite, hack, hrevive, hinject, hclass, if_false, State.plainThen_counter h]

theorem State.mgtWrite_counter (hb : off / 0x100000 = 14) (s : State) (i : Nat) (data hw : Word) :
    s.mgtWrite i off data hw = s.plainWrite off data hw := by
  have harg : off ≠ Reg.MGT_LOG_ARG := ne_of_isCounter h (by decide +kernel)
  have hcode : off ≠ Reg.MGT_LOG_CODE := ne_of_isCounter h (by decide +kernel)
  have hcmd : off ≠ Reg.MGT_MBX_CMD := ne_of_isCounter h (by decide +kernel)
  have hkick : off ≠ Reg.MGT_WDT_KICK := ne_of_isCounter h (by decide +kernel)
  have hlow := counter_ic_mgt_low h (.inr hb)
  simp only [State.mgtWrite, harg, hcode, hcmd, hkick, if_false]
  rw [if_neg (by omega)]

/-- No counter but PGL_CH_DROP_CNT has an effect of its own: a write of it is a plain one in every block. -/
theorem State.regEffect_counter (hd : off ≠ Reg.PGL_CH_DROP_CNT) (s : State) (i : Nat) (data hw : Word) :
    s.regEffect i off data hw = s.plainWrite off data hw := by
  have hlt := counter_block_lt h
  unfold State.regEffect
  split
  case h_1 => exact if_neg (ne_of_isCounter h (by decide +kernel))
  case h_2 =>
    have hport : (List.range 16).find? (fun n => off == Reg.SPn_CTRL n) = none := find?_range_eq_none fun n hn =>
      beq_of_isCounter h ((by decide +kernel : ∀ n < 16, isCounter (Reg.SPn_CTRL n) = false) n hn)
    simp only [hport]
  case h_3 => exact State.pglWrite_counter h hd s data hw
  case h_4 => exact State.pvWrite_counter h s data hw
  case h_5 => exact State.tbWrite_counter h s data hw
  case h_6 => exact if_neg (ne_of_isCounter h (by decide +kernel))
  case h_7 => exact State.dmaWrite_counter h s data hw
  case h_8 => exact State.lnkWrite_counter h s data hw
  case h_9 => exact State.twWrite_counter h s data hw
  case h_10 hb => exact State.icWrite_counter h hb s data hw
  case h_11 => exact State.fcWrite_counter h s data hw
  case h_12 => exact if_neg (ne_of_isCounter h (by decide +kernel))
  case h_13 hb => exact State.mgtWrite_counter h hb s i data hw
  case h_14 => exact if_neg (ne_of_isCounter h (by decide +kernel))
  case h_15 => exact if_neg (by omega)

/-- A counter other than PGL_CH_DROP_CNT after a software write and `n` events of one cycle. -/
theorem State.counterEffect_eq (hd : off ≠ Reg.PGL_CH_DROP_CNT) (s : State) (i : Nat) (data : Word) (n : Nat) :
    s.counterEffect i off data n = (s.setReg off (if data = 0 then 0 else s.reg off)).countN off n := by
  simp only [State.counterEffect, State.regEffect_counter h hd, State.plainWrite_counter h, if_neg hd]

end

/-! ### The drop count of the selected channel -/

/-- The channel that PGL_CH_SEL names. -/
def State.selCh (s : State) : Nat := s.fld Reg.PGL_CH_SEL Fld.PGL_CH_SEL_CH

theorem Frame.showChan (s : State) : Frame [Reg.PGL_CH_DROP_CNT, Reg.PGL_CH_LEVEL] s s.showChan :=
  ((Frame.setReg s Reg.PGL_CH_LEVEL _).mono (by simp)).trans ((Frame.setReg _ Reg.PGL_CH_DROP_CNT _).mono (by simp))

theorem Frame.selCh {s t : State} (h : Frame [Reg.PGL_CH_DROP_CNT, Reg.PGL_CH_LEVEL] s t) : t.selCh = s.selCh := by
  unfold State.selCh State.fld
  rw [h.2 Reg.PGL_CH_SEL (by decide)]

theorem State.showChan_dropCnt (s : State) : s.showChan.reg Reg.PGL_CH_DROP_CNT = (s.chan.get s.selCh).dropCnt :=
  State.reg_setReg_same _ _ _

/-- The selected channel changed by `f`, and shown. -/
def State.modShown (s : State) (f : ChanSt → ChanSt) : State := (s.modChan s.selCh f).showChan

theorem Frame.modShown (s : State) (f : ChanSt → ChanSt) : Frame [Reg.PGL_CH_DROP_CNT, Reg.PGL_CH_LEVEL] s (s.modShown f) :=
  (Frame.same (t := s.modChan s.selCh f) rfl rfl rfl rfl rfl rfl _).trans (Frame.showChan _)

theorem State.modShown_chan (s : State) (f : ChanSt → ChanSt) : (s.modShown f).chan.get s.selCh = f (s.chan.get s.selCh) :=
  Table.get_modify_same _ _ _

theorem State.modShown_dropCnt (s : State) (f : ChanSt → ChanSt) :
    (s.modShown f).reg Reg.PGL_CH_DROP_CNT = ((s.modShown f).chan.get s.selCh).dropCnt :=
  State.showChan_dropCnt (s.modChan s.selCh f)

/-- `n` drops counted (R8). -/
def ChanSt.addDrops (n : Nat) (c : ChanSt) : ChanSt := { c with dropCnt := BitVec.ofNat 32 (min 0xFFFFFFFF (c.dropCnt.toNat + n)) }

/-- PGL_CH_DROP_CNT after a software write: the selected channel's count is cleared, or nothing happens (R9). -/
theorem State.regEffect_dropCnt (s : State) (i : Nat) (data hw : Word) :
    s.regEffect i Reg.PGL_CH_DROP_CNT data hw = if data = 0 then s.modShown (fun c => { c with dropCnt := 0 }) else s := rfl

/-- The selected channel's count after a software write, before the drops of the same cycle (R9). -/
theorem State.regEffect_dropCnt_spec (s : State) (i : Nat) (data hw : Word) :
    ((s.regEffect i Reg.PGL_CH_DROP_CNT data hw).chan.get s.selCh).dropCnt.toNat
        = (if data = 0 then 0 else (s.chan.get s.selCh).dropCnt.toNat)
      ∧ Frame [Reg.PGL_CH_DROP_CNT, Reg.PGL_CH_LEVEL] s (s.regEffect i Reg.PGL_CH_DROP_CNT data hw) := by
  rw [State.regEffect_dropCnt]
  split
  · exact ⟨by rw [State.modShown_chan]; rfl, Frame.modShown s _⟩
  · exact ⟨rfl, Frame.refl _ s⟩

/-- The drops of the same cycle are counted after the write (R10). -/
theorem State.counterEffect_dropCnt (s : State) (i : Nat) (data : Word) (n : Nat) :
    s.counterEffect i Reg.PGL_CH_DROP_CNT data n = (s.regEffect i Reg.PGL_CH_DROP_CNT data 0).modShown (ChanSt.addDrops n) := rfl

/-- The selected channel after a software write of PGL_CH_DROP_CNT and `n` drops of one cycle. -/
theorem State.counterEffect_dropCnt_spec (s : State) (i : Nat) (data : Word) (n : Nat) :
    ((s.counterEffect i Reg.PGL_CH_DROP_CNT data n).chan.get s.selCh).dropCnt
        = BitVec.ofNat 32 (min 0xFFFFFFFF ((if data = 0 then 0 else (s.chan.get s.selCh).dropCnt.toNat) + n))
      ∧ (s.counterEffect i Reg.PGL_CH_DROP_CNT data n).reg Reg.PGL_CH_DROP_CNT
        = ((s.counterEffect i Reg.PGL_CH_DROP_CNT data n).chan.get s.selCh).dropCnt
      ∧ Frame [Reg.PGL_CH_DROP_CNT, Reg.PGL_CH_LEVEL] s (s.counterEffect i Reg.PGL_CH_DROP_CNT data n) := by
  rw [State.counterEffect_dropCnt]
  obtain ⟨hcnt, hframe⟩ := State.regEffect_dropCnt_spec s i data 0
  rw [← hcnt, ← hframe.selCh]
  exact ⟨by rw [State.modShown_chan]; rfl, State.modShown_dropCnt _ _, hframe.trans (Frame.modShown _ _)⟩

/-! ### COUNTER_WRITE -/

/-- Beside its effect a write of a register that completes no interrupt source changes no channel. -/
theorem State.effect_chan {off : Nat} (h : statusSource off = none) (s : State) (i : Nat) (data : Word) (eff : State → State) :
    (s.effect i off data eff).chan = (eff s).chan := by
  unfold State.effect
  simp only [State.icHostStatus_none h, ite_self]
  split <;> rfl

/-- A write of a counter that passes the checks is an effective register write whose effect is the counter's. -/
theorem exec_counterWrite {s : State} {i : Initiator} {off : Nat} (ho : s.writeOpen i off) (hc : isCounter off = true) (data : Word)
    (n : Nat) :
    exec (.counterWrite i off data n) s
      = .next (s.effect i.code off data (fun s => s.counterEffect i.code off data n)) := by
  change execCounterWrite i off data n s = _
  unfold execCounterWrite answer
  rw [if_pos hc, State.swWrite_open ho]

/-- Settles O9: every counter is one whole register whose write has no effect beside it, and PGL_CH_DROP_CNT shows the selected channel. -/
theorem counterWrite : Obligations.CounterWrite := by
  unfold Obligations.CounterWrite
  refine ⟨fun s i off n data ho hc hd => ?_, fun s i n data ho => ?_⟩
  · have hs := statusSource_of_isCounter hc
    refine ⟨_, exec_counterWrite ho hc data n, ?_, Frame.effect (.inl hs) data _ ?_⟩
    · rw [State.effect_reg (.inl hs), State.counterEffect_eq hc hd, State.reg_countN_same, State.reg_setReg_same, apply_ite BitVec.toNat]
      rfl
    · rw [State.counterEffect_eq hc hd]
      exact (Frame.setReg s off _).trans (Frame.setReg _ off _)
  · have hc : isCounter Reg.PGL_CH_DROP_CNT = true := by decide +kernel
    have hs := statusSource_of_isCounter hc
    obtain ⟨hcnt, hshown, hframe⟩ := State.counterEffect_dropCnt_spec s i.code data n
    refine ⟨_, exec_counterWrite ho hc data n, ?_, ?_, Frame.effect (.inl hs) data _ hframe⟩
    · rw [State.effect_chan hs]
      exact hcnt
    · rw [State.effect_reg (.inl hs), State.effect_chan hs]
      exact hshown

end Sys2Proof.Machine

/-! PROOFS. Edges of the segmenters (R133, R136): what declaring an edge does to the segmenter's registers and documents, apart from the
messages that it sends. -/

namespace Sys2Proof.Machine

/-- A number with its digits from `a` to `a * b` cleared: the digits below `a` and those from `a * b` on. -/
theorem sub_div_mod_mul (n a b : Nat) : n - n / a % b * a = n % a + a * (b * (n / a / b)) := by
  have hn : n = n % a + a * (n / a % b + b * (n / a / b)) := by rw [Nat.mod_add_div, Nat.mod_add_div]
  rw [Nat.mul_add, ← Nat.add_assoc, Nat.mul_comm a (n / a % b)] at hn
  omega

/-- A field put into a word reads as what was put, cut to the field's width. -/
theorem Fld.get_put_same {f : Fld} (hf : f.lo + f.width ≤ 32) (w : Word) (v : Nat) : f.get (f.put w v) = v % 2 ^ f.width := by
  have h32 : 2 ^ 32 = 2 ^ f.lo * 2 ^ (32 - f.lo) := by rw [← Nat.pow_add, Nat.add_sub_cancel' (by omega)]
  have hdvd : 2 ^ f.width ∣ 2 ^ (32 - f.lo) := Nat.pow_dvd_pow 2 (by omega)
  unfold Fld.put Fld.get
  rw [sub_div_mod_mul, BitVec.toNat_ofNat, h32, Nat.mod_mul_right_div_self, Nat.mod_mod_of_dvd _ hdvd, Nat.add_assoc,
    Nat.mul_comm (v % _), ← Nat.mul_add, Nat.add_mul_div_left _ _ (Nat.two_pow_pos _), Nat.div_eq_of_lt (Nat.mod_lt _ (Nat.two_pow_pos _)),
    Nat.zero_add, Nat.mul_add_mod, Nat.mod_mod]

/-! ### The part of an edge that both kinds share -/

/-- An edge at `pos` as the segmenter itself holds it: its documents and runs changed by `f`, the position in `off`, PRESENT as `here`. -/
def State.edgeHeld (s : State) (g off pos here : Nat) (f : SegSt → SegSt) : State :=
  ((s.modSeg g f).setReg off (BitVec.ofNat 32 pos)).setFld (Reg.ST_SEGs_STATE g) Fld.ST_SEGs_STATE_PRESENT here

theorem State.edgeHeld_seg (s : State) (g off pos here : Nat) (f : SegSt → SegSt) :
    (s.edgeHeld g off pos here f).seg.get g = f (s.seg.get g) := Table.get_modify_same s.seg g f

theorem State.edgeHeld_pos (s : State) {g off : Nat} (h : off ≠ Reg.ST_SEGs_STATE g) (pos here : Nat) (f : SegSt → SegSt) :
    (s.edgeHeld g off pos here f).reg off = BitVec.ofNat 32 pos :=
  (State.reg_setFld_other _ _ _ h).trans (State.reg_setReg_same _ _ _)

theorem State.edgeHeld_present (s : State) (g off pos here : Nat) (f : SegSt → SegSt) :
    (s.edgeHeld g off pos here f).present g = (here % 2 == 1) := by
  unfold State.present State.on State.edgeHeld
  rw [State.reg_setFld_same, Fld.get_put_same (by decide)]
  rfl

theorem Frame.edgeHeld (s : State) (g off pos here : Nat) (f : SegSt → SegSt) :
    Frame [off, Reg.ST_SEGs_STATE g] s (s.edgeHeld g off pos here f) := by
  have hseg : Frame [off, Reg.ST_SEGs_STATE g] s (s.modSeg g f) := Frame.same rfl rfl rfl rfl rfl rfl _
  refine (hseg.trans ((Frame.setReg _ off _).mono ?_)).trans ((Frame.setReg _ (Reg.ST_SEGs_STATE g) _).mono ?_) <;> simp

/-! ### What the messages of an edge leave alone -/

theorem SendsOnly.seg {s t : State} (h : SendsOnly s t) : t.seg = s.seg := by
  obtain ⟨g, o, rfl⟩ := h; rfl

theorem SendsOnly.present {s t : State} (h : SendsOnly s t) (g : Nat) : t.present g = s.present g := by
  unfold State.present State.on
  rw [h.reg]

theorem State.sendEdge_sends (s : State) (g pos doc : Nat) (leading : Bool) : SendsOnly s (s.sendEdge g pos doc leading) := by
  unfold State.sendEdge
  split
  · exact (State.sendMsg_sends s _ _ _ _).trans (State.sendMsg_sends _ _ _ _ _)
  · exact SendsOnly.refl s

/-- An edge at `pos` was declared: `off` holds its position, PRESENT is `here`, the segmenter's documents are `docs`. -/
structure EdgeDeclared (s t : State) (g off pos : Nat) (here : Bool) (docs : List DocDecl) : Prop where
  pos : t.reg off = BitVec.ofNat 32 pos
  present : t.present g = here
  docs : (t.seg.get g).docs = docs
  frame : Frame [off, Reg.ST_SEGs_STATE g] s t

theorem SendsOnly.edgeDeclared {s t : State} {g off pos here : Nat} {f : SegSt → SegSt} (h : SendsOnly (s.edgeHeld g off pos here f) t)
    (hoff : off ≠ Reg.ST_SEGs_STATE g) : EdgeDeclared s t g off pos (here % 2 == 1) (f (s.seg.get g)).docs where
  pos := by rw [h.reg, State.edgeHeld_pos s hoff]
  present := by rw [h.present, State.edgeHeld_present]
  docs := by rw [h.seg, State.edgeHeld_seg]
  frame := (Frame.edgeHeld s g off pos here f).trans (h.frame _)

/-! ### Declaring an edge -/

/-- A leading edge opens a document, the newest of the segmenter's list (R136). -/
theorem State.declareLead_spec (s : State) (g pos doc : Nat) :
    EdgeDeclared s (s.declareLead g pos doc) g (Reg.ST_SEGs_LEAD_POS g) pos true ((s.seg.get g).docs ++ [⟨doc, pos, none⟩]) :=
  SendsOnly.edgeDeclared (here := 1) (f := fun x => { x with
      docs := x.docs ++ [⟨doc, pos, none⟩], dueLead := none, onRun := 0, presSince := none })
    ((State.sendDec_sends _ _ _ _ _ _ _ _).trans (State.sendEdge_sends _ _ _ _ _))
    (by simp [Reg.ST_SEGs_LEAD_POS, Reg.ST_SEGs_STATE])

/-- A trailing edge gives its position to the newest document as its end (R133). -/
theorem State.declareTrail_spec {s : State} {g : Nat} {rest : List DocDecl} {d : DocDecl} (h : (s.seg.get g).docs = rest ++ [d])
    (pos : Nat) :
    EdgeDeclared s (s.declareTrail g pos) g (Reg.ST_SEGs_TRAIL_POS g) pos false (rest ++ [{ d with trail := some pos }]) := by
  have hends : (s.seg.get g).docs.dropLast
      ++ ((s.seg.get g).docs.getLast?.map (fun d => { d with trail := some pos })).toList = rest ++ [{ d with trail := some pos }] := by
    rw [h]; simp
  rw [← hends]
  exact SendsOnly.edgeDeclared (here := 0) (f := fun x => { x with
      docs := x.docs.dropLast ++ (x.docs.getLast?.map (fun d => { d with trail := some pos })).toList,
      dueTrail := none, offRun := 0, absSince := none })
    ((State.sendDec_sends _ _ _ _ _ _ _ _).trans (State.sendEdge_sends _ _ _ _ _))
    (by simp [Reg.ST_SEGs_TRAIL_POS, Reg.ST_SEGs_STATE])

/-! ### SEG_LEADING_EDGE and SEG_TRAILING_EDGE -/

/-- A leading edge that is due, on a device that declares its own (R147). -/
theorem exec_segLeadingEdge_due {s : State} {g pos : Nat} (hg : g < 4) (hf : s.follows = false) (hd : s.leadDue g = some pos)
    (wr : Option Word) :
    exec (.segLeadingEdge g wr) s = .next ((s.declareLead g pos (s.reg (Reg.ST_SEGs_NEXT_DOC g)).toNat).setReg
      (Reg.ST_SEGs_NEXT_DOC g) (wr.getD (s.reg (Reg.ST_SEGs_NEXT_DOC g) + 1))) := by
  change execSegLeadingEdge g wr s = _
  simp [execSegLeadingEdge, answer, State.segLead, hg, hf, hd]

/-- A trailing edge that is due, on a device that declares its own (R147). -/
theorem exec_segTrailingEdge_due {s : State} {g pos : Nat} (hg : g < 4) (hf : s.follows = false) (hd : s.trailDue g = some pos) :
    exec (.segTrailingEdge g) s = .next (s.declareTrail g pos) := by
  change execSegTrailingEdge g s = _
  simp [execSegTrailingEdge, answer, hg, hf, hd]

/-- NEXT_DOC is neither a segmenter's position nor its state: writing it after a leading edge changes nothing that the edge declared. -/
theorem EdgeDeclared.setNextDoc {s t : State} {g pos : Nat} {here : Bool} {docs : List DocDecl}
    (h : EdgeDeclared s t g (Reg.ST_SEGs_LEAD_POS g) pos here docs) (w : Word) :
    let u := t.setReg (Reg.ST_SEGs_NEXT_DOC g) w
    u.reg (Reg.ST_SEGs_LEAD_POS g) = BitVec.ofNat 32 pos ∧ u.present g = here ∧ (u.seg.get g).docs = docs
      ∧ Frame [Reg.ST_SEGs_LEAD_POS g, Reg.ST_SEGs_STATE g, Reg.ST_SEGs_NEXT_DOC g] s u := by
  have hpos : Reg.ST_SEGs_LEAD_POS g ≠ Reg.ST_SEGs_NEXT_DOC g := by simp [Reg.ST_SEGs_LEAD_POS, Reg.ST_SEGs_NEXT_DOC]
  have hstate : Reg.ST_SEGs_STATE g ≠ Reg.ST_SEGs_NEXT_DOC g := by simp [Reg.ST_SEGs_STATE, Reg.ST_SEGs_NEXT_DOC]
  refine ⟨(State.reg_setReg_other t w hpos).trans h.pos, ?_, h.docs, (h.frame.mono ?_).trans ((Frame.setReg t _ w).mono ?_)⟩
  · rw [← h.present]
    unfold State.present State.on
    rw [State.reg_setReg_other t w hstate]
  all_goals simp

/-- Settles O21: a due edge declares itself, and only the leading edge moves NEXT_DOC. -/
theorem segmenterEdges : Obligations.SegmenterEdges := by
  unfold Obligations.SegmenterEdges
  refine ⟨fun s g pos wr hg hf hd => ?_, fun s g pos d rest hg hf hd hdocs => ?_⟩
  · obtain ⟨hpos, hpresent, hnew, hframe⟩ := (s.declareLead_spec g pos _).setNextDoc (wr.getD (s.reg (Reg.ST_SEGs_NEXT_DOC g) + 1))
    exact ⟨_, exec_segLeadingEdge_due hg hf hd wr, hpos, State.reg_setReg_same _ _ _, hpresent, hnew, hframe⟩
  · obtain ⟨hpos, hpresent, hend, hframe⟩ := State.declareTrail_spec hdocs pos
    exact ⟨_, exec_segTrailingEdge_due hg hf hd, hpos, hpresent, hend, hframe⟩

end Sys2Proof.Machine

/-! PROOFS. The arithmetic of output (R149, R152, R256 to R260): samples as rounded quotients, packed samples as one number read in two
bases, padding, the sizes of a tag and of a document header record, and the samples of a line. -/

namespace Sys2Proof.Machine

/-! ### Digits to a base -/

/-- The number whose digits to the base `B` a list is, lowest first. -/
def ofDigits (B : Nat) (l : List Nat) : Nat := l.foldr (fun x a => x + B * a) 0

@[simp] theorem ofDigits_nil (B : Nat) : ofDigits B [] = 0 := rfl

theorem ofDigits_cons (B x : Nat) (l : List Nat) : ofDigits B (x :: l) = x + B * ofDigits B l := rfl

@[simp] theorem ofDigits_singleton (B x : Nat) : ofDigits B [x] = x := rfl

theorem ofDigits_append (B : Nat) (l m : List Nat) : ofDigits B (l ++ m) = ofDigits B l + B ^ l.length * ofDigits B m := by
  induction l with
  | nil => simp
  | cons x l ih =>
    rw [List.cons_append, ofDigits_cons, ih, ofDigits_cons, List.length_cons, Nat.pow_succ', Nat.mul_add, Nat.mul_assoc, Nat.add_assoc]

theorem ofDigits_lt_pow_length {B : Nat} {l : List Nat} (h : ∀ x ∈ l, x < B) : ofDigits B l < B ^ l.length := by
  induction l with
  | nil => exact Nat.one_pos
  | cons x l ih =>
    obtain ⟨hx, hl⟩ := List.forall_mem_cons.mp h
    calc ofDigits B (x :: l) < B * (ofDigits B l + 1) := by rw [ofDigits_cons, Nat.mul_add, Nat.mul_one]; omega
      _ ≤ B * B ^ l.length := Nat.mul_le_mul_left B (ih hl)
      _ = B ^ (x :: l).length := by rw [List.length_cons, Nat.pow_succ']

/-! ### Bytes as digits to the base 256 -/

@[simp] theorem length_leBytes (n v : Nat) : (leBytes n v).length = n := by
  induction n generalizing v with
  | zero => rfl
  | succ n ih => simp [leBytes, ih]

theorem lt_of_mem_leBytes {n v x : Nat} (h : x ∈ leBytes n v) : x < 256 := by
  induction n generalizing v with
  | zero => simp [leBytes] at h
  | succ n ih =>
    rcases List.mem_cons.mp h with rfl | h
    · exact Nat.mod_lt _ (by decide)
    · exact ih h

theorem ofDigits_leBytes (n v : Nat) : ofDigits 256 (leBytes n v) = v % 256 ^ n := by
  induction n generalizing v with
  | zero => simp [leBytes, Nat.mod_one]
  | succ n ih => rw [leBytes, ofDigits_cons, ih, Nat.pow_succ', Nat.mod_mul]

/-- Bytes below 256 spell the number whose digits they are. -/
theorem leNat_eq_ofDigits {l : List Nat} (h : ∀ x ∈ l, x < 256) : leNat l = ofDigits 256 l := by
  induction l with
  | nil => rfl
  | cons x l ih =>
    obtain ⟨hx, hl⟩ := List.forall_mem_cons.mp h
    rw [leNat, ih hl, Nat.mod_eq_of_lt hx, ofDigits_cons]

/-! ### One number in two bases -/

theorem length_flatMap_of_length {n : Nat} {f : Nat → List Nat} {l : List Nat} (h : ∀ x ∈ l, (f x).length = n) :
    (l.flatMap f).length = n * l.length := by
  induction l with
  | nil => rfl
  | cons x l ih =>
    obtain ⟨hx, hl⟩ := List.forall_mem_cons.mp h
    rw [List.flatMap_cons, List.length_append, hx, ih hl, List.length_cons, Nat.mul_succ, Nat.add_comm]

/-- Digits to the base `B ^ n`, each written as its `n` digits to the base `B`, are the same number to the base `B`. -/
theorem ofDigits_flatMap {B n : Nat} {f : Nat → List Nat} {l : List Nat}
    (h : ∀ x ∈ l, (f x).length = n ∧ ofDigits B (f x) = x) : ofDigits B (l.flatMap f) = ofDigits (B ^ n) l := by
  induction l with
  | nil => rfl
  | cons x l ih =>
    obtain ⟨⟨hlen, hx⟩, hl⟩ := List.forall_mem_cons.mp h
    rw [List.flatMap_cons, ofDigits_append, hlen, hx, ih hl, ofDigits_cons]

/-- Digits to the base `B`, read in runs of `n`, are the same number to the base `B ^ n`. -/
theorem ofDigits_chunks (B : Nat) {n fuel : Nat} (hn : 0 < n) {l : List Nat} (h : l.length ≤ fuel) :
    ofDigits (B ^ n) ((chunks n fuel l).map (ofDigits B)) = ofDigits B l := by
  induction fuel generalizing l with
  | zero =>
    obtain rfl := List.eq_nil_of_length_eq_zero (Nat.le_zero.mp h)
    rfl
  | succ fuel ih =>
    cases l with
    | nil => rfl
    | cons x l =>
      have hrest : ((x :: l).drop n).length ≤ fuel := by
        rw [List.length_cons] at h
        rw [List.length_drop, List.length_cons]
        omega
      have hsplit : ofDigits B (x :: l)
          = ofDigits B ((x :: l).take n) + B ^ ((x :: l).take n).length * ofDigits B ((x :: l).drop n) := by
        rw [← ofDigits_append, List.take_append_drop]
      rw [chunks, List.map_cons, ofDigits_cons, ih hrest, hsplit]
      rcases Nat.le_total n (x :: l).length with hle | hle
      · rw [List.length_take_of_le hle]
      · rw [List.drop_eq_nil_of_le hle, ofDigits_nil, Nat.mul_zero, Nat.mul_zero]

theorem length_chunks_eight {α : Type} {fuel : Nat} {l : List α} (h : l.length ≤ fuel) :
    (chunks 8 fuel l).length = (l.length + 7) / 8 := by
  induction fuel generalizing l with
  | zero =>
    obtain rfl := List.eq_nil_of_length_eq_zero (Nat.le_zero.mp h)
    simp [chunks]
  | succ fuel ih =>
    cases l with
    | nil => simp [chunks]
    | cons x l =>
      have hdrop : ((x :: l).drop 8).length = l.length + 1 - 8 := by simp
      rw [List.length_cons] at h
      rw [chunks, List.length_cons, ih (by omega), hdrop, List.length_cons]
      omega

/-- A run has at most `n` elements, all of them the list's. -/
theorem length_le_and_subset_of_mem_chunks {α : Type} {n fuel : Nat} {l c : List α} (h : c ∈ chunks n fuel l) :
    c.length ≤ n ∧ c ⊆ l := by
  induction fuel generalizing l with
  | zero => simp [chunks] at h
  | succ fuel ih =>
    cases l with
    | nil => simp [chunks] at h
    | cons x l =>
      rcases List.mem_cons.mp h with rfl | h
      · exact ⟨List.length_take_le _ _, List.take_subset _ _⟩
      · obtain ⟨hlen, hsub⟩ := ih h
        exact ⟨hlen, List.Subset.trans hsub (List.drop_subset _ _)⟩

/-! ### Samples (R256) -/

@[simp] theorem sampleOf_sixteen (v : Nat) : sampleOf 16 v = v := rfl

/-- Below 16 bits: the value plus half a step, divided by the step, at most the largest sample. -/
theorem sampleOf_of_lt {b : Nat} (hb : b < 16) (v : Nat) :
    sampleOf b v = min (2 ^ b - 1) ((v + 2 ^ (16 - b) / 2) / 2 ^ (16 - b)) := by
  have hhalf : 2 ^ (16 - b) / 2 = 2 ^ (15 - b) := by
    rw [show 16 - b = 15 - b + 1 by omega, Nat.pow_succ, Nat.mul_div_cancel _ (by decide)]
  rw [sampleOf, if_neg (by omega), hhalf]

/-- A sample fits B bits. -/
theorem sampleOf_le {b v : Nat} (hb : b ≤ 16) (hv : v < 65536) : sampleOf b v ≤ 2 ^ b - 1 := by
  rcases Nat.lt_or_eq_of_le hb with hlt | rfl
  · rw [sampleOf_of_lt hlt]
    exact Nat.min_le_left _ _
  · rw [sampleOf_sixteen]
    omega

/-- A sample is never above the quotient rounded half up. -/
theorem sampleOf_mul_le {b : Nat} (hb : b ≤ 16) (v : Nat) : sampleOf b v * 2 ^ (16 - b) ≤ v + 2 ^ (16 - b) / 2 := by
  rcases Nat.lt_or_eq_of_le hb with hlt | rfl
  · rw [sampleOf_of_lt hlt]
    exact Nat.le_trans (Nat.mul_le_mul_right _ (Nat.min_le_right _ _)) (Nat.div_mul_le_self _ _)
  · simp

/-- A sample is below the quotient rounded half up only where it saturates. -/
theorem lt_sampleOf_add_one_mul_or_saturated {b : Nat} (hb : b ≤ 16) (v : Nat) :
    v + 2 ^ (16 - b) / 2 < (sampleOf b v + 1) * 2 ^ (16 - b) ∨ sampleOf b v = 2 ^ b - 1 := by
  rcases Nat.lt_or_eq_of_le hb with hlt | rfl
  · rw [sampleOf_of_lt hlt]
    rcases Nat.le_total (2 ^ b - 1) ((v + 2 ^ (16 - b) / 2) / 2 ^ (16 - b)) with hle | hle
    · exact .inr (Nat.min_eq_left hle)
    · rw [Nat.min_eq_right hle, Nat.mul_comm]
      exact .inl (Nat.lt_mul_div_succ _ (Nat.two_pow_pos _))
  · exact .inl (by simp)

/-! ### Packing (R259) -/

/-- The `b` low bits of a number, from bit 0 upwards. -/
def lowBits (b v : Nat) : List Nat := (List.range b).map (fun i => v / 2 ^ i % 2)

@[simp] theorem length_lowBits (b v : Nat) : (lowBits b v).length = b := by simp [lowBits]

theorem lt_two_of_mem_lowBits {b v x : Nat} (h : x ∈ lowBits b v) : x < 2 := by
  obtain ⟨i, -, rfl⟩ := List.mem_map.mp h
  exact Nat.mod_lt _ (by decide)

theorem ofDigits_lowBits (b v : Nat) : ofDigits 2 (lowBits b v) = v % 2 ^ b := by
  induction b with
  | zero => simp [lowBits, Nat.mod_one]
  | succ b ih =>
    have hsucc : lowBits (b + 1) v = lowBits b v ++ [v / 2 ^ b % 2] := by simp [lowBits, List.range_succ]
    rw [hsucc, ofDigits_append, ofDigits_singleton, length_lowBits, ih, Nat.mod_pow_succ]

/-- The weighted sum of the first `n` bits is the number that they spell. -/
theorem foldl_range_bits {c : List Nat} {n : Nat} (h : n ≤ c.length) :
    (List.range n).foldl (fun a i => a + c.getD i 0 * 2 ^ i) 0 = ofDigits 2 (c.take n) := by
  induction n with
  | zero => rfl
  | succ n ih =>
    rw [List.range_succ, List.foldl_append, ih (by omega), List.foldl_cons, List.foldl_nil, List.getD_eq_getElem?_getD,
      List.getElem?_eq_getElem h, Option.getD_some, List.take_succ_eq_append_getElem h, ofDigits_append, ofDigits_singleton,
      List.length_take_of_le (by omega), Nat.mul_comm]

theorem packSamples_eight (l : List Nat) : packSamples 8 l = l := rfl

theorem packSamples_sixteen (l : List Nat) : packSamples 16 l = l.flatMap (leBytes 2) := rfl

/-- At other widths the bytes are the runs of eight of the samples' bits. -/
theorem packSamples_stream {b : Nat} (h8 : b ≠ 8) (h16 : b ≠ 16) (l : List Nat) :
    packSamples b l = (chunks 8 (l.flatMap (lowBits b)).length (l.flatMap (lowBits b))).map (ofDigits 2) := by
  rw [packSamples, if_neg h8, if_neg h16]
  refine List.map_congr_left fun c _ => ?_
  rw [foldl_range_bits (Nat.le_refl _), List.take_length]

/-- What packing into bytes has to do: bytes that spell the samples' number, as few as hold it. -/
structure Packs (b : Nat) (l bytes : List Nat) : Prop where
  lt_256 : ∀ x ∈ bytes, x < 256
  number : ofDigits 256 bytes = ofDigits (2 ^ b) l
  length : bytes.length = (b * l.length + 7) / 8

theorem packs_eight {l : List Nat} (h : ∀ x ∈ l, x < 2 ^ 8) : Packs 8 l (packSamples 8 l) := by
  rw [packSamples_eight]
  exact ⟨h, rfl, by omega⟩

theorem packs_sixteen {l : List Nat} (h : ∀ x ∈ l, x < 2 ^ 16) : Packs 16 l (packSamples 16 l) := by
  rw [packSamples_sixteen]
  refine ⟨fun x hx => ?_, ?_, ?_⟩
  · obtain ⟨v, -, hx⟩ := List.mem_flatMap.mp hx
    exact lt_of_mem_leBytes hx
  · exact ofDigits_flatMap (n := 2) fun x hx =>
      ⟨length_leBytes 2 x, by rw [ofDigits_leBytes, Nat.mod_eq_of_lt (show x < 256 ^ 2 from h x hx)]⟩
  · have hlen : (l.flatMap (leBytes 2)).length = 2 * l.length := length_flatMap_of_length fun x _ => length_leBytes 2 x
    omega

/-- A bit stream of samples, cut into bytes: both are the number whose bits the stream holds. -/
theorem packs_stream {b : Nat} (h8 : b ≠ 8) (h16 : b ≠ 16) {l : List Nat} (h : ∀ x ∈ l, x < 2 ^ b) :
    Packs b l (packSamples b l) := by
  have hbits : ∀ x ∈ l.flatMap (lowBits b), x < 2 := fun x hx => by
    obtain ⟨v, -, hx⟩ := List.mem_flatMap.mp hx
    exact lt_two_of_mem_lowBits hx
  rw [packSamples_stream h8 h16]
  refine ⟨fun x hx => ?_, ?_, ?_⟩
  · obtain ⟨c, hc, rfl⟩ := List.mem_map.mp hx
    obtain ⟨hlen, hsub⟩ := length_le_and_subset_of_mem_chunks hc
    calc ofDigits 2 c < 2 ^ c.length := ofDigits_lt_pow_length fun y hy => hbits y (hsub hy)
      _ ≤ 2 ^ 8 := Nat.pow_le_pow_right (by decide) hlen
  · calc ofDigits (2 ^ 8) _ = ofDigits 2 (l.flatMap (lowBits b)) := ofDigits_chunks 2 (by decide) (Nat.le_refl _)
      _ = ofDigits (2 ^ b) l :=
        ofDigits_flatMap fun x hx => ⟨length_lowBits b x, by rw [ofDigits_lowBits, Nat.mod_eq_of_lt (h x hx)]⟩
  · have hlen : (l.flatMap (lowBits b)).length = b * l.length := length_flatMap_of_length fun x _ => length_lowBits b x
    rw [List.length_map, length_chunks_eight (Nat.le_refl _), hlen]

theorem packs_packSamples {b : Nat} {l : List Nat} (h : ∀ x ∈ l, x < 2 ^ b) : Packs b l (packSamples b l) := by
  by_cases h8 : b = 8
  · subst h8
    exact packs_eight h
  · by_cases h16 : b = 16
    · subst h16
      exact packs_sixteen h
    · exact packs_stream h8 h16 h

/-- The bytes read as the number whose digits to the base 2^B the samples are. -/
theorem leNat_packSamples {b : Nat} {l : List Nat} (h : ∀ x ∈ l, x < 2 ^ b) :
    leNat (packSamples b l) = l.foldr (fun x a => x + 2 ^ b * a) 0 := by
  obtain ⟨hbytes, hnumber, -⟩ := packs_packSamples h
  rw [leNat_eq_ofDigits hbytes]
  exact hnumber

/-! ### Padding (R260) -/

theorem length_pad8 (l : List Nat) : (pad8 l).length = l.length + (8 - l.length % 8) % 8 := by simp [pad8]

theorem take_pad8 (l : List Nat) : (pad8 l).take l.length = l := List.take_left

theorem drop_pad8 (l : List Nat) : (pad8 l).drop l.length = List.replicate ((8 - l.length % 8) % 8) 0 := List.drop_left

/-! ### Tags and document header records (R149, R152) -/

theorem length_tagBytes (n width v : Nat) (t : Tag) : (tagBytes n width t v).length = 32 := by simp [tagBytes]

/-- A document header record is 124 bytes and their seal. -/
theorem State.headerBytes_eq (s : State) (n : Nat) (d : OsDoc) (m : Marker) :
    ∃ body : List Nat, body.length = 124 ∧ s.headerBytes n d m = body ++ leBytes 4 (crc32c body) :=
  ⟨_, by simp, rfl⟩

/-! ### The samples of a line (R256, R257) -/

/-- B is 8, 10, 12, 14 or 16: codes 5 to 7 act as 4. -/
theorem OsDoc.bits_mem (d : OsDoc) : d.bits ∈ [8, 10, 12, 14, 16] := by
  have hcode : d.code ≤ 4 := Nat.min_le_left _ _
  have hwidth : ∀ k < 5, 8 + 2 * k ∈ [8, 10, 12, 14, 16] := by decide
  exact hwidth _ (Nat.lt_succ_of_le hcode)

/-- Output channel i is the selected channel, converted. -/
theorem OsDoc.samples_getElem? {d : OsDoc} {px : List (List Nat)} {i : Nat} {c : List Nat} (hi : i < d.nsel)
    (hc : px[d.sel i]? = some c) : (d.samples px)[i]? = some (c.map (sampleOf d.bits)) := by
  simp [OsDoc.samples, hi, hc]

/-! ### The obligation -/

/-- Settles O29, from the lemmas on samples, packing, padding, records and selection above. -/
theorem outputArithmetic : Obligations.OutputArithmetic := by
  unfold Obligations.OutputArithmetic
  have le16 : ∀ b ∈ [8, 10, 12, 14, 16], b ≤ 16 := by decide
  refine ⟨fun b v hb hv => ?_, fun b l _ hl => ?_, fun l => ?_, length_tagBytes, fun s n d m => ?_,
    fun d px i c hi hc => ?_⟩
  · exact ⟨sampleOf_le (le16 b hb) hv, fun h => by rw [h, sampleOf_sixteen], sampleOf_mul_le (le16 b hb) v,
      lt_sampleOf_add_one_mul_or_saturated (le16 b hb) v⟩
  · exact ⟨leNat_packSamples hl, (packs_packSamples hl).length⟩
  · have hlen := length_pad8 l
    refine ⟨by omega, by omega, take_pad8 l, fun x hx => ?_⟩
    rw [drop_pad8] at hx
    exact List.eq_of_mem_replicate hx
  · obtain ⟨body, hbody, heq⟩ := s.headerBytes_eq n d m
    rw [heq, ← hbody]
    exact ⟨by simp [hbody], by simp⟩
  · exact ⟨d.bits_mem, OsDoc.samples_getElem? hi hc⟩

end Sys2Proof.Machine
